-- ==== Sys2Proof/Word.lean ====
section
/-! DEFINITION. The word types of the SX7 and their plainest arithmetic (R1, R2, R51). -/

namespace Sys2Proof

/-- One byte of memory. -/
abbrev Byte := BitVec 8

/-- A 32-bit register word. -/
abbrev W32 := BitVec 32

/-- A 64-bit value. -/
abbrev W64 := BitVec 64

/-- A lane register of one pod: one word for each of the four lanes (R26, R140). -/
abbrev LaneWord := Vector W32 4

/-- A predicate of one pod, or a lane mask: bit l is lane l (R140). -/
abbrev Mask := BitVec 4

end Sys2Proof
end

