-- ==== Sys2Proof/Syntax.lean ====
section
/-! DEFINITION. The instructions and events of the SX7: one constructor per row of the spec's table of
operations and events (R151 to R157, R303, and the events of 95_what_each_step_holds.md). Operands are the
encoded fields, with split immediates joined; the chain bit C (R135) belongs to the word, not to the instruction. -/

namespace Sys2Proof

/-- Where a message from the fabric comes in: the port it arrives on and the fabric endpoint address that sent it (R13, R300). -/
structure Sender where
  port : Nat
  fea : BitVec 64
  deriving DecidableEq, Repr

/-- One operation or event of the part. -/
inductive Instr where
  /-- R260: Tests a predicate over the active lanes and, if the test holds, continues at slot 0 of packet PC + OFS. -/
  | bra (p : BitVec 3) (n : BitVec 2) (o : BitVec 19)
  /-- R261: Tests like BRA and, if the test holds, pushes a 16-byte return record on the pod stack and enters the target. -/
  | call (p : BitVec 3) (n : BitVec 2) (o : BitVec 19)
  /-- R263: Branches to the packet address held in sA:sA+1, which must start with LAND. -/
  | brx (a : BitVec 5)
  /-- R263: Calls the packet address held in sA:sA+1 after the call-depth and landing checks. -/
  | callx (a : BitVec 5)
  /-- R265: Does nothing. -/
  | nop
  /-- R139: Marks an indirect-branch target in slot 0 and otherwise does nothing. -/
  | land
  /-- R34: Holds the issuing bunch for up to 32 clocks so that it merges with bunches of its home bunch that reach the same REJOIN with an equal ganging key. -/
  | rejoin
  /-- R262: Checks and pops the return record and continues at its return point with CD reduced by 1. -/
  | ret
  /-- R44: Ends the pod at once, discarding outstanding register writes while issued work continues. -/
  | exit
  /-- R41: Places the issuing pod's bunch last in the partition's issue order. -/
  | yield
  /-- R28: Replaces the top mask entry with the entry below it AND NOT itself. -/
  | melse
  /-- R28: Clears the top mask entry and decrements MD. -/
  | mpop
  /-- R28: Pushes the current mask AND the named predicate as a new mask entry. -/
  | mpush (f : BitVec 3)
  /-- R266: Stops the pod for n arithmetic clocks. -/
  | sleep (i : BitVec 17)
  /-- R267: Completes and then stops the pod after itself with SOFTWARE-TRAP carrying n. -/
  | trap (i : BitVec 17)
  /-- R267: Completes and then stops the pod after itself with BREAKPOINT carrying n. -/
  | brk (i : BitVec 17)
  /-- R268: Reads a named system value into a lane register or a scalar register. -/
  | sysrd (f : BitVec 1) (d b : BitVec 7)
  /-- R270: Writes a writable named system register from a scalar register. -/
  | syswr (n a : BitVec 5)
  /-- R272: Reads core counter CNTn with its overflow bit indivisibly into a scalar pair. -/
  | cntrd (d : BitVec 5) (n : BitVec 2)
  /-- R273: Sets SRKEYk from a scalar register. -/
  | srkey (k : BitVec 4) (a : BitVec 5)
  /-- R273: Sets SRSTEP from a scalar register. -/
  | srstep (a : BitVec 5)
  /-- R166: Adds two lane registers, wrapping or saturating, signed or natural. -/
  | iadd (f : BitVec 2) (d a b : BitVec 7)
  /-- R166: Subtracts two lane registers, wrapping or saturating. -/
  | isub (f : BitVec 2) (d a b : BitVec 7)
  /-- R167: Adds a signed 10-bit immediate with wrapping. -/
  | iaddi (i : BitVec 10) (d a : BitVec 7)
  /-- R166: Multiplies two lane registers, wrapping or saturating. -/
  | imul (f : BitVec 2) (d a b : BitVec 7)
  /-- R168: Writes the upper half of the exact 64-bit product. -/
  | imulh (f : BitVec 3) (d a b : BitVec 7)
  /-- R166: Multiplies and adds the old destination, wrapping or saturating. -/
  | imad (f : BitVec 2) (d a b : BitVec 7)
  /-- R169: Writes the lesser of two lane values. -/
  | imin (f : BitVec 1) (d a b : BitVec 7)
  /-- R169: Writes the greater of two lane values. -/
  | imax (f : BitVec 1) (d a b : BitVec 7)
  /-- R169: Writes the absolute value, wrapping or saturating. -/
  | iabs (f : BitVec 1) (d a : BitVec 7)
  /-- R170: Compares two lane values signed and writes the result to a predicate. -/
  | icmp (f d : BitVec 3) (a b : BitVec 7)
  /-- R171: Selects a or b in each lane according to a predicate. -/
  | isel (f : BitVec 3) (d a b : BitVec 7)
  /-- R172: Shifts left by a lane amount. -/
  | shl (d a b : BitVec 7)
  /-- R172: Shifts right logically by a lane amount. -/
  | shr (d a b : BitVec 7)
  /-- R172: Shifts right arithmetically by a lane amount. -/
  | sar (d a b : BitVec 7)
  /-- R172: Rotates left by the amount mod 32. -/
  | rol (d a b : BitVec 7)
  /-- R173: Shifts left by an immediate amount. -/
  | shli (d a : BitVec 7) (k : BitVec 5)
  /-- R173: Shifts right logically by an immediate amount. -/
  | shri (d a : BitVec 7) (k : BitVec 5)
  /-- R173: Shifts right arithmetically by an immediate amount. -/
  | sari (d a : BitVec 7) (k : BitVec 5)
  /-- R174: Writes a AND b. -/
  | and (d a b : BitVec 7)
  /-- R174: Writes a OR b. -/
  | or (d a b : BitVec 7)
  /-- R174: Writes a XOR b. -/
  | xor (d a b : BitVec 7)
  /-- R174: Writes a AND NOT b. -/
  | andn (d a b : BitVec 7)
  /-- R174: ANDs a sign-extended 10-bit immediate. -/
  | andi (i : BitVec 10) (d a : BitVec 7)
  /-- R174: ORs a sign-extended 10-bit immediate. -/
  | ori (i : BitVec 10) (d a : BitVec 7)
  /-- R174: XORs a sign-extended 10-bit immediate. -/
  | xori (i : BitVec 10) (d a : BitVec 7)
  /-- R175: Counts leading zero bits. -/
  | clz (d a : BitVec 7)
  /-- R175: Counts one bits. -/
  | popc (d a : BitVec 7)
  /-- R175: Reverses the bit order. -/
  | brev (d a : BitVec 7)
  /-- R176: Extracts a bit field, zero- or sign-extended. -/
  | bfx (s : BitVec 1) (d a b : BitVec 7)
  /-- R176: Inserts a bit field into the destination. -/
  | bfi (d a b : BitVec 7)
  /-- R177: Copies a lane register. -/
  | mov (d a : BitVec 7)
  /-- R177: Writes a sign-extended 17-bit immediate. -/
  | movi (i : BitVec 17) (d : BitVec 7)
  /-- R177: Writes the 32-bit literal word that follows it. -/
  | movl (d : BitVec 7) (lit : BitVec 32)
  /-- R178: Writes a scalar register to every active lane. -/
  | movs (d : BitVec 7) (a : BitVec 5)
  /-- R178: Writes lane l's value of a lane register to a scalar register. -/
  | smov (d : BitVec 5) (a : BitVec 7) (l : BitVec 2)
  /-- R179: Writes a sign-extended 11-bit immediate to a scalar register. -/
  | smovi (d : BitVec 5) (i : BitVec 11)
  /-- R179: Writes the following literal word to a scalar register (LT = 1). -/
  | smoviLiteral (d : BitVec 5) (lit : BitVec 32)
  /-- R179: Adds two scalar registers. -/
  | sadd (d a b : BitVec 5)
  /-- R179: Adds a sign-extended 11-bit immediate to a scalar register. -/
  | saddi (d a : BitVec 5) (i : BitVec 11)
  /-- R179: Adds the following literal word to a scalar register (LT = 1). -/
  | saddiLiteral (d a : BitVec 5) (lit : BitVec 32)
  /-- R179: ANDs two scalar registers. -/
  | sand (d a b : BitVec 5)
  /-- R179: Shifts a scalar register by an immediate amount of a given kind. -/
  | sshl (d a : BitVec 5) (n : BitVec 2) (k : BitVec 5)
  /-- R180: Adds packed halfword or byte elements, wrapping or saturating. -/
  | padd (f : BitVec 3) (d a b : BitVec 7)
  /-- R180: Subtracts packed elements, wrapping or saturating. -/
  | psub (f : BitVec 3) (d a b : BitVec 7)
  /-- R180: Writes the lesser packed element. -/
  | pmin (w n : BitVec 1) (d a b : BitVec 7)
  /-- R180: Writes the greater packed element. -/
  | pmax (w n : BitVec 1) (d a b : BitVec 7)
  /-- R180: Writes the absolute difference of packed elements. -/
  | pabd (w n : BitVec 1) (d a b : BitVec 7)
  /-- R180: Writes the rounded-up average of packed elements. -/
  | pavg (w n : BitVec 1) (d a b : BitVec 7)
  /-- R180: Multiplies packed elements, wrapping. -/
  | pmul (w n : BitVec 1) (d a b : BitVec 7)
  /-- R180: Writes the high part of packed element products. -/
  | pmulh (w n : BitVec 1) (d a b : BitVec 7)
  /-- R181: Shifts packed elements left. -/
  | pshl (w : BitVec 1) (d a b : BitVec 7)
  /-- R181: Shifts packed elements right, logically or arithmetically. -/
  | pshr (w s : BitVec 1) (d a b : BitVec 7)
  /-- R182: Performs one radix-2 add-compare-select step on N16 metrics and writes two decision predicates. -/
  | pacs (f : BitVec 3) (d a b : BitVec 7)
  /-- R183: Accumulates a four-byte dot product into the destination, optionally saturating. -/
  | dot4 (f : BitVec 3) (d a b : BitVec 7)
  /-- R183: Accumulates an eight-nibble dot product into the destination. -/
  | dot8 (f : BitVec 2) (d a b : BitVec 7)
  /-- R183: Accumulates a two-halfword dot product into the destination. -/
  | dot2 (f : BitVec 2) (d a b : BitVec 7)
  /-- R185: Packs two samples into a 64-bit bit string at an offset, clamping them. -/
  | ppack (w : BitVec 2) (d a b : BitVec 7)
  /-- R184: Unpacks two samples from a 64-bit bit string at an offset. -/
  | punpk (w : BitVec 2) (d a b : BitVec 7)
  /-- R186: Looks up each destination byte in a table of 1 to 8 registers, using the fill byte for misses. -/
  | tbl (n : BitVec 2) (x : BitVec 8) (d a : BitVec 7)
  /-- R188: Copies values between positions of the pod or home bunch by pick, rotation or swap. -/
  | shfl (f : BitVec 3) (d a b : BitVec 7)
  /-- R189: Forms an inclusive or exclusive scan over active positions of the pod or home bunch. -/
  | scan (d a : BitVec 7) (s e : BitVec 1) (o : BitVec 3)
  /-- R189: Forms a reduction over active positions and writes it to every active position. -/
  | red (d a : BitVec 7) (s : BitVec 1) (o : BitVec 3)
  /-- R190: Writes 1 to each active position if the predicate is 1 at some active position. -/
  | voteAny (s : BitVec 1) (d a : BitVec 3)
  /-- R190: Writes 1 to each active position if the predicate is 1 at every active position. -/
  | voteAll (s : BitVec 1) (d a : BitVec 3)
  /-- R190: Writes the number of active positions whose predicate is 1. -/
  | voteCount (s : BitVec 1) (d : BitVec 7) (a : BitVec 3)
  /-- R190: Writes the predicate bits of the active positions as a mask. -/
  | votePack (s : BitVec 1) (d : BitVec 7) (a : BitVec 3)
  /-- R190: Writes the lowest equal position and the count of positions holding an equal value. -/
  | matchLanes (s : BitVec 1) (d a : BitVec 7)
  /-- R191: Combines two predicates with one of eight logic operations. -/
  | plog (f d a b : BitVec 3)
  /-- R192: Sets a predicate where a lane register is nonzero. -/
  | pmovPredicateFromRegister (d : BitVec 3) (a : BitVec 7)
  /-- R192: Writes 1 or 0 to a lane register from a predicate. -/
  | pmovRegisterFromPredicate (d : BitVec 7) (a : BitVec 3)
  /-- R192: Copies one predicate to another. -/
  | pmovPredicateFromPredicate (d a : BitVec 3)
  /-- R195: Adds two F32 lane values with the selected rounding. -/
  | fadd (f : BitVec 3) (d a b : BitVec 7)
  /-- R195: Subtracts two F32 lane values. -/
  | fsub (f : BitVec 3) (d a b : BitVec 7)
  /-- R195: Multiplies two F32 lane values. -/
  | fmul (f : BitVec 3) (d a b : BitVec 7)
  /-- R195: Forms x × y + z with one rounding. -/
  | ffma (f : BitVec 3) (d a b : BitVec 7)
  /-- R196: Writes the lesser F32 value, preferring a number over a NaN. -/
  | fmin (d a b : BitVec 7)
  /-- R196: Writes the greater F32 value, preferring a number over a NaN. -/
  | fmax (d a b : BitVec 7)
  /-- R197: Clears the sign bit of the flushed source. -/
  | fabs (d a : BitVec 7)
  /-- R197: Inverts the sign bit of the flushed source. -/
  | fneg (d a : BitVec 7)
  /-- R198: Compares two F32 values and writes a predicate, with unordered handling. -/
  | fcmp (f d : BitVec 3) (a b : BitVec 7)
  /-- R199: Writes a one-hot class mask of the stored encoding. -/
  | fclass (d a : BitVec 7)
  /-- R200: Multiplies an F32 value by 2^n with rounding. -/
  | fscale (f : BitVec 3) (d a b : BitVec 7)
  /-- R202: Writes the correctly rounded reciprocal. -/
  | frcp (d a : BitVec 7) (l : BitVec 4)
  /-- R202: Writes the correctly rounded reciprocal square root. -/
  | frsq (d a : BitVec 7) (l : BitVec 4)
  /-- R202: Writes the correctly rounded square root. -/
  | fsqrt (d a : BitVec 7) (l : BitVec 4)
  /-- R202: Writes the correctly rounded 2^x. -/
  | fexp2 (d a : BitVec 7) (l : BitVec 4)
  /-- R202: Writes the correctly rounded base-2 logarithm. -/
  | flog2 (d a : BitVec 7) (l : BitVec 4)
  /-- R202: Writes the correctly rounded sine. -/
  | fsin (d a : BitVec 7) (l : BitVec 4)
  /-- R202: Writes the correctly rounded cosine. -/
  | fcos (d a : BitVec 7) (l : BitVec 4)
  /-- R202: Writes the correctly rounded hyperbolic tangent. -/
  | ftanh (d a : BitVec 7) (l : BitVec 4)
  /-- R203: Adds two pairs of BF16 elements. -/
  | bfadd2 (f : BitVec 3) (d a b : BitVec 7)
  /-- R203: Multiplies two pairs of BF16 elements. -/
  | bfmul2 (f : BitVec 3) (d a b : BitVec 7)
  /-- R203: Forms fused multiply-adds on two pairs of BF16 elements. -/
  | bffma2 (f : BitVec 3) (d a b : BitVec 7)
  /-- R206: Converts between float types, with stochastic rounding allowed when narrowing. -/
  | cvtFloatToFloat (f : BitVec 3) (d a : BitVec 7) (t s : BitVec 3) (k : BitVec 1)
  /-- R208: Converts floats to integers with rounding and clamping. -/
  | cvtFloatToInteger (f : BitVec 3) (d a : BitVec 7) (t s : BitVec 3) (k : BitVec 1)
  /-- R209: Converts integers to floats with rounding. -/
  | cvtIntegerToFloat (f : BitVec 3) (d a : BitVec 7) (t s : BitVec 3) (k : BitVec 1)
  /-- R209: Converts between integer types, wrapping or saturating. -/
  | cvtIntegerToInteger (f : BitVec 3) (d a : BitVec 7) (t s : BitVec 3) (k : BitVec 1)
  /-- R210: Derives the E8M0 block scale of a 32-element block held across the pod. -/
  | sclx (d a : BitVec 7) (t : BitVec 3)
  /-- R211: Performs one loss-scale update from FLAGS.OF or NV and writes LSCALE to a scalar. -/
  | lsupd (d : BitVec 5)
  /-- R214: Loads a byte from G, zero-extended. -/
  | ldgN8 (o : BitVec 6) (d a : BitVec 7) (l : BitVec 4)
  /-- R214: Loads a halfword from G, zero-extended. -/
  | ldgN16 (o : BitVec 6) (d a : BitVec 7) (l : BitVec 4)
  /-- R214: Loads a 32-bit word from G. -/
  | ldgI32 (o : BitVec 6) (d a : BitVec 7) (l : BitVec 4)
  /-- R214: Loads a 64-bit value from G into a register pair. -/
  | ldgI64 (o : BitVec 6) (d a : BitVec 7) (l : BitVec 4)
  /-- R214: Loads 128 bits from G into four registers. -/
  | ldgB128 (o : BitVec 6) (d a : BitVec 7) (l : BitVec 4)
  /-- R214: Loads a byte from the tile store, zero-extended. -/
  | ldtN8 (o : BitVec 6) (d a : BitVec 7) (l : BitVec 4)
  /-- R214: Loads a halfword from the tile store, zero-extended. -/
  | ldtN16 (o : BitVec 6) (d a : BitVec 7) (l : BitVec 4)
  /-- R214: Loads a 32-bit word from the tile store. -/
  | ldtI32 (o : BitVec 6) (d a : BitVec 7) (l : BitVec 4)
  /-- R214: Loads a 64-bit value from the tile store. -/
  | ldtI64 (o : BitVec 6) (d a : BitVec 7) (l : BitVec 4)
  /-- R214: Loads 128 bits from the tile store. -/
  | ldtB128 (o : BitVec 6) (d a : BitVec 7) (l : BitVec 4)
  /-- R214: Loads a byte from die scratch, zero-extended. -/
  | lddN8 (o : BitVec 6) (d a : BitVec 7) (l : BitVec 4)
  /-- R214: Loads a halfword from die scratch, zero-extended. -/
  | lddN16 (o : BitVec 6) (d a : BitVec 7) (l : BitVec 4)
  /-- R214: Loads a 32-bit word from die scratch. -/
  | lddI32 (o : BitVec 6) (d a : BitVec 7) (l : BitVec 4)
  /-- R214: Loads a 64-bit value from die scratch. -/
  | lddI64 (o : BitVec 6) (d a : BitVec 7) (l : BitVec 4)
  /-- R214: Loads 128 bits from die scratch. -/
  | lddB128 (o : BitVec 6) (d a : BitVec 7) (l : BitVec 4)
  /-- R216: Loads from the pod stack at SP plus an offset, one slot per lane. -/
  | ldk (o : BitVec 10) (d : BitVec 7) (w : BitVec 3) (l : BitVec 4)
  /-- R215: Stores 8 to 128 bits per active lane to G. -/
  | stg (o : BitVec 6) (d a : BitVec 7) (w : BitVec 3)
  /-- R215: Stores 8 to 128 bits per active lane to the tile store. -/
  | stt (o : BitVec 6) (d a : BitVec 7) (w : BitVec 3)
  /-- R215: Stores 8 to 128 bits per active lane to die scratch. -/
  | std (o : BitVec 6) (d a : BitVec 7) (w : BitVec 3)
  /-- R216: Stores to the pod stack at SP plus an offset. -/
  | stk (o : BitVec 10) (d : BitVec 7) (w : BitVec 3)
  /-- R217: Fetches a line towards the core without changing any value or faulting. -/
  | pref (o : BitVec 6) (a : BitVec 7)
  /-- R104: Writes zero to a whole line at its home slice and clears its poison. -/
  | discard (o : BitVec 6) (a : BitVec 7)
  /-- R217: Writes a dirty line back to its backing memory, leaving it valid and clean. -/
  | flush (o : BitVec 6) (a : BitVec 7)
  /-- R218: Adds atomically at the home slice and returns the old value. -/
  | aadd (d a : BitVec 7) (l : BitVec 4) (w : BitVec 1)
  /-- R218: Stores the atomic minimum and returns the old value. -/
  | amin (d a : BitVec 7) (l : BitVec 4) (w n : BitVec 1)
  /-- R218: Stores the atomic maximum and returns the old value. -/
  | amax (d a : BitVec 7) (l : BitVec 4) (w n : BitVec 1)
  /-- R218: ANDs atomically and returns the old value. -/
  | aand (d a : BitVec 7) (l : BitVec 4) (w : BitVec 1)
  /-- R218: ORs atomically and returns the old value. -/
  | aor (d a : BitVec 7) (l : BitVec 4) (w : BitVec 1)
  /-- R218: XORs atomically and returns the old value. -/
  | axor (d a : BitVec 7) (l : BitVec 4) (w : BitVec 1)
  /-- R218: Exchanges atomically and returns the old value. -/
  | axch (d a : BitVec 7) (l : BitVec 4) (w : BitVec 1)
  /-- R218: Compares and swaps atomically, always performing a full RMW. -/
  | acas (d a : BitVec 7) (l : BitVec 4) (w : BitVec 1)
  /-- R219: Adds F32 or BF16x2 atomically at the home slice with RNE and returns the old value. -/
  | afadd (d a : BitVec 7) (l : BitVec 4) (w : BitVec 1)
  /-- R223: Forms one ticketed update of a granule and waits until its home slice accepts or rejects it. -/
  | tkfadd (d a : BitVec 7) (w : BitVec 1)
  /-- R220: Declares or releases ticket region k from a region record. -/
  | tkreg (x y : BitVec 5)
  /-- R225: Advances the counters of n granules as if zero updates with ticket t had arrived. -/
  | tkskip (x y : BitVec 5)
  /-- R229: Waits until every ticketed update of the pod is applied and visible at its scope. -/
  | tkfence (z : BitVec 5)
  /-- R229: Reads a declared granule's ticket counter into a scalar. -/
  | tkqry (x y : BitVec 5) (l : BitVec 4)
  /-- R231: Performs an acquire at its scope. -/
  | fenceAcq (z : BitVec 5)
  /-- R231: Performs a release at its scope. -/
  | fenceRel (z : BitVec 5)
  /-- R117: Performs a release and acquire that takes a place in the AR order. -/
  | fenceAr (z : BitVec 5)
  /-- R232: Arrives at the team's next barrier instance and waits until every live pod has arrived or exited. -/
  | bar
  /-- R233: Releases, then arrives at a barrier object as one RMW and returns the token. -/
  | barrive (x y z : BitVec 5) (l : BitVec 4)
  /-- R234: Waits until the object's PHASE passes the token, then acquires. -/
  | bwait (x y z : BitVec 5)
  /-- R234: Reads PHASE once and acquires only if it passes the token. -/
  | btry (x y z : BitVec 5)
  /-- R235: Waits until a copy-channel or transform write pointer reaches a target. -/
  | waitptr (x z : BitVec 5)
  /-- R236: Reads a G word repeatedly until it meets an EQ, NE or GE condition. -/
  | waitmem (x y : BitVec 5) (g : BitVec 2)
  /-- R244: Requests M, N and K and sets the pod's SHAPE grant. -/
  | shape (x y z : BitVec 5)
  /-- R244: Writes the current SHAPE grant to a scalar. -/
  | shapeq (x : BitVec 5)
  /-- R246: Queues a matrix product that accumulates A × B into C. -/
  | mma (f : BitVec 1) (x y z : BitVec 5) (l : BitVec 4) (g : BitVec 2)
  /-- R247: Queues 16 independent diagonal-block products. -/
  | mmab (f : BitVec 1) (x y z : BitVec 5) (l : BitVec 4) (g : BitVec 2)
  /-- R248: Queues a drain of an accumulator to T or G by copy, narrowing, MX narrowing or requantisation, optionally adding or ticketed. -/
  | mdrain (f : BitVec 3) (x y z : BitVec 5) (l : BitVec 4) (g : BitVec 1)
  /-- R253: Queues a command that writes zero to a count of granules. -/
  | tzero (x y : BitVec 5) (l : BitVec 4)
  /-- R254: Queues one leg of a ring-rotation across the four cores of a cluster. -/
  | trot (x y : BitVec 5) (l : BitVec 4)
  /-- R255: Queues a granule copy between the tile store and G or D on a copy channel. -/
  | tcpy (x y z : BitVec 5) (l : BitVec 4)
  /-- R256: Queues a copy of a window of a G tensor between G and the tile store. -/
  | tcpyw (x y z : BitVec 5) (l : BitVec 4)
  /-- R257: Reads 64 bytes, checks them and writes a tensor descriptor entry. -/
  | tdset (x y : BitVec 5)
  /-- R257: Writes a tensor descriptor entry's 64 bytes to G. -/
  | tdget (x y : BitVec 5)
  /-- R257: Sets VALID of a tensor descriptor to 0. -/
  | tdinv (x : BitVec 5)
  /-- R258: Queues MX quantisation of an F32 tile into an MX tensor region. -/
  | tscl (f : BitVec 3) (x y z : BitVec 5) (l : BitVec 4)
  /-- R275: Launches a child grid from a KERNEL record and returns its handle. -/
  | glaunch (x y : BitVec 5) (l : BitVec 4)
  /-- R276: Waits until a child grid retires and writes its status word. -/
  | gwait (x : BitVec 5)
  /-- R276: Writes a child grid's status word without waiting. -/
  | gwaitTry (x : BitVec 5)
  /-- R277: Appends a node record to a stream and returns its handle. -/
  | gnode (x y : BitVec 5) (l : BitVec 4)
  /-- R278: Pushes a KERNEL record onto the tape of its grid's stream and returns the new depth. -/
  | tapepush (x y : BitVec 5) (l : BitVec 4)
  /-- R279: Posts a 64-byte request to a fabric queue and returns its post sequence number. -/
  | fqpost (x y : BitVec 5) (l : BitVec 4)
  /-- R138: A pool marker word, whose execution raises POOL-EXECUTION before any effect. -/
  | poolMarker (n : BitVec 24)
  /-- R306: Loads a 16-bit immediate into a register or one of its halfwords. -/
  | zli (d : BitVec 4) (h : BitVec 2) (m : BitVec 16)
  /-- R306: Adds a register or immediate with 64-bit wrap. -/
  | zadd (d a b : BitVec 4) (i : BitVec 1) (m : BitVec 14)
  /-- R306: Subtracts a register or immediate with 64-bit wrap. -/
  | zsub (d a b : BitVec 4) (i : BitVec 1) (m : BitVec 14)
  /-- R306: Shifts left or logically right by a signed amount. -/
  | zshl (d a b : BitVec 4) (i : BitVec 1) (m : BitVec 14)
  /-- R306: ANDs a register or immediate. -/
  | zand (d a b : BitVec 4) (i : BitVec 1) (m : BitVec 14)
  /-- R307: Branches by a word offset when its condition holds. -/
  | zbr (c : BitVec 3) (a b : BitVec 4) (o : BitVec 16)
  /-- R307: Decrements a register and branches while it is nonzero. -/
  | zloop (a : BitVec 4) (o : BitVec 16)
  /-- R308: Loads 32 or 64 bits from G into a fabric register. -/
  | zld (d a : BitVec 4) (w : BitVec 1) (o : BitVec 18)
  /-- R308: Stores 32 or 64 bits of a fabric register to G. -/
  | zst (d a : BitVec 4) (w : BitVec 1) (o : BitVec 18)
  /-- R310: Posts an RMA write of a local range into a peer's window. -/
  | zsend (d a w : BitVec 4)
  /-- R310: Posts data to a peer's window, releases at GROUP, then writes a flag value. -/
  | zags (d a b w : BitVec 4)
  /-- R310: Reads a target's registered window into local memory or a transform input. -/
  | zfetch (d a : BitVec 4) (t : BitVec 1)
  /-- R324: Posts a local range into a storage target's window. -/
  | zckpt (d a : BitVec 4)
  /-- R313: Reads a peer window into local memory and optionally resets the residual buffer. -/
  | zclone (d a : BitVec 4) (r : BitVec 1) (w : BitVec 4)
  /-- R316: Quantises local gradients plus residuals into a compressed chunk and stores new residuals. -/
  | zqnt (d a b : BitVec 4)
  /-- R316: Adds an incoming chunk to local data and residuals and requantises it. -/
  | zrsc (d a b : BitVec 4)
  /-- R316: Adds an incoming chunk to local data into a final F32 sum. -/
  | zrsf (d a : BitVec 4)
  /-- R316: Dequantises an incoming chunk and adds it into an F32 accumulator. -/
  | zdqa (d a : BitVec 4)
  /-- R328: Waits until a barrier object's PHASE passes a token, then acquires. -/
  | zwaitBar (d a s : BitVec 4)
  /-- R328: Waits until a flag word reaches a step value, then acquires. -/
  | zwaitFlag (d a s : BitVec 4)
  /-- R327: Releases and performs one local barrier arrival, returning the token. -/
  | zsig (d a b w s : BitVec 4)
  /-- R327: Releases and sends one arrival to a barrier object in a peer's window. -/
  | zsigRemote (a b w s : BitVec 4)
  /-- R326: Performs an acquire at its scope. -/
  | zfenceAcq (s : BitVec 4)
  /-- R326: Performs a release, first waiting for acknowledgements at GROUP scope or wider. -/
  | zfenceRel (s : BitVec 4)
  /-- R326: Performs a release and acquire in the AR order. -/
  | zfenceAr (s : BitVec 4)
  /-- R306: Reads the fabric-clock cycle count. -/
  | zcyc (d : BitVec 4)
  /-- R309: Raises SOFTWARE-TRAP and stops the fabric processor after itself. -/
  | ztrap (m : BitVec 16)
  /-- R309: Waits for every posted transfer's acknowledgement and ends the processor's program. -/
  | zhalt
  /-- R385: PERST# or loss of power discards registers, stores, caches and key slots. -/
  | moduleReset
  /-- R364: Hernus loads and checks each firmware stage after reset and sets BOOTSTAT. -/
  | hernusBoot
  /-- R377: The PCIe link trains and the PF becomes visible. -/
  | linkTraining
  /-- R386: A junction reaching 110 °C resets the module. -/
  | overtempReset
  /-- R386: Every 10 µs while hot or over PWRCAP, the arithmetic clock steps down 25 MHz. -/
  | throttleStepDown
  /-- R386: Every 10 µs while cool and under PWRCAP − 100 W, the arithmetic clock steps up 25 MHz. -/
  | throttleStepUp
  /-- R385: A VF function-level reset ends its context and resets its register page. -/
  | functionLevelReset (fn : Nat)
  /-- R377: A VF entering the TDISP ERROR state has its grids terminated. -/
  | tdiError (fn : Nat)
  /-- R130: A host posted write reaches module memory as a write released at SYSTEM scope. -/
  | hostPostedWrite (owner : Nat) (va : BitVec 64) (bytes : List Byte)
  /-- R130: A host read of module memory completes as an acquire at SYSTEM scope. -/
  | hostRead (owner : Nat) (va : BitVec 64) (len : Nat)
  /-- R378: A host write to a function register that has no behaviour of its own replaces the register. -/
  | registerWrite (fn off : Nat) (value : BitVec 64)
  /-- R379: The host advances POSTTAIL to post node records on a stream. -/
  | posttailWrite (fn stream : Nat) (tail : BitVec 32)
  /-- R379: The host advances CPLHEAD, freeing completion entries so waiting completions are written. -/
  | cplheadWrite (fn stream : Nat) (head : BitVec 32)
  /-- R379: Setting ENABLE from 0 starts a stream and resets its completion indices. -/
  | streamEnable (fn stream : Nat)
  /-- R349: The host advances FQHEAD, freeing fault-queue entries so held records are written. -/
  | fqheadWrite (fn : Nat) (head : BitVec 32)
  /-- R383: The host advances MRHEAD, freeing management receive entries. -/
  | mrheadWrite (fn : Nat) (head : BitVec 32)
  /-- R383: The host advances MSTAIL and the transport sends the new management entries. -/
  | mstailWrite (fn : Nat) (tail : BitVec 32)
  /-- R384: Loads and checks the group and window tables and replaces the active copies in one step. -/
  | winload (fn : Nat) (value : BitVec 32)
  /-- R380: Completes when no TLB of the owner holds a translation of a range. -/
  | inval (fn : Nat) (va : BitVec 64) (pages : BitVec 32)
  /-- R353: Resumes the suspended agent named by a fault record. -/
  | resume (fn : Nat) (seq : BitVec 32)
  /-- R353: Terminates the grid or node that a fault record names. -/
  | terminate (fn : Nat) (seq : BitVec 32)
  /-- R380: Terminates a grid by handle, with its descendants, as CODE 0. -/
  | termgrid (fn : Nat) (handle : BitVec 32)
  /-- R362: Hernus creates an owner with a fresh key, grant, partition, image area and die scratch. -/
  | create (fn owner : Nat) (grant : List (Nat × Nat)) (part : Nat) (image : Nat × Nat) (scratch : Nat)
  /-- R362: Hernus adds ranges to an owner's grant. -/
  | setgrant (fn owner : Nat) (grant : List (Nat × Nat))
  /-- R362: Hernus discards an owner's lines, erases its key and frees its grant. -/
  | destroy (fn owner : Nat)
  /-- R367: Hernus returns a signed attestation report for a nonce. -/
  | attest (fn owner : Nat) (nonce : List Byte)
  /-- R366: Hernus returns the measurement log. -/
  | logread (fn : Nat)
  /-- R364: A PF command accepted by firmware raises the fused minimum SVN. -/
  | fusedSvnRaise (fn : Nat) (svn : BitVec 32)
  /-- R281: The graph engine checks a posted record, assigns sequence number and stamp, and fixes its dependences. -/
  | nodeAppend (stream : Nat)
  /-- R22: The graph engine starts a team on a core when all its resources are free. -/
  | teamStart (handle : BitVec 32) (core : Nat)
  /-- R296: The fabric class starts a COLLECTIVE node or queued request on idle fabric processors. -/
  | collectiveStart (part : Nat)
  /-- R334: A transform engine starts a ready TRANSFORM node. -/
  | transformNodeStart (handle : BitVec 32)
  /-- R289: The graph engine's copy unit performs a COPY node. -/
  | copyNode (handle : BitVec 32)
  /-- R289: The graph engine performs a SIGNAL node's write or arrival. -/
  | signalNode (handle : BitVec 32)
  /-- R290: A TAPE node starts and launches the grid of the top tape entry. -/
  | tapeNodeStart (handle : BitVec 32)
  /-- R290: After a popped grid retires, the TAPE node pops and launches the next entry or completes. -/
  | tapePop (handle : BitVec 32)
  /-- R44: A team ends once all its pods ended and its commands, copies and updates completed. -/
  | teamEnd (team : Nat)
  /-- R47: A grid retires when its teams have ended and its child grids retired. -/
  | gridRetirement (handle : BitVec 32)
  /-- R292: A node completes, writes its completion entry and releases its dependants. -/
  | nodeCompletion (handle : BitVec 32)
  /-- R295: A partition's quantum expires and a world switch follows if another owner has work. -/
  | quantumEnd (part : Nat)
  /-- R148: A load or atomic result is written to its destination and the scoreboard releases it. -/
  | loadDataReturn (team pod tag : Nat)
  /-- R37: When every live pod of a home bunch has stopped at the same BUNCH-scope instruction, all execute it together. -/
  | bunchConvergence (team hb : Nat)
  /-- R34: A bunch held at REJOIN for 32 clocks continues alone. -/
  | rejoinHoldEnd (team pod : Nat)
  /-- R266: A sleeping pod continues after n arithmetic clocks. -/
  | sleepEnd (team pod : Nat)
  /-- R237: A pod stopped at a wait, engine queue, launch post or convergence point for 2^32 cycles raises WATCHDOG. -/
  | watchdog (team pod : Nat)
  /-- R234: A waiting BWAIT reads a PHASE past its token, writes it and acquires. -/
  | bwaitCompletion (team pod : Nat)
  /-- R236: A waiting WAITMEM reads a word that meets its condition and writes it. -/
  | waitmemCompletion (team pod : Nat)
  /-- R328: A waiting ZWAIT sees its condition met, writes the value and acquires. -/
  | zwaitCompletion (f : Nat)
  /-- R238: The matrix engine starts an accepted command once the scoreboard allows. -/
  | matrixCommandStart (cmd : Nat)
  /-- R238: A matrix command performs its last write, releases SX and releases if REL is set. -/
  | matrixCommandCompletion (cmd : Nat)
  /-- R93: Once all four legs have issued, the regions are read and written rotated to the next core. -/
  | trotRotation (cmd : Nat)
  /-- R90: A logical copy channel starts its next queued command, incrementing SEQ. -/
  | copyCommandStart (team ch : Nat)
  /-- R91: A copy channel writes the next destination granule and increments CNT. -/
  | copyGranuleDelivery (team ch : Nat)
  /-- R224: The home slice accepts, holds, stalls or rejects a ticketed update of a granule. -/
  | ticketUpdateAccept (cmd : Nat)
  /-- R227: A granule's oldest pending entry pending for 2^GAPX resident cycles posts TICKET-GAP. -/
  | ticketGap (owner region granule : Nat)
  /-- R336: A transform engine writes its next output granule and advances its write pointer. -/
  | transformGranuleWrite (eng : Nat)
  /-- R335: Bytes from a ZFETCH with TX reach a TRANSFORM node's input in offset order. -/
  | transformInputArrival (f xfer : Nat) (bytes : List Byte)
  /-- R335: An INSRC node waiting ILIM µs for its next byte raises COLLECTIVE-TIMEOUT. -/
  | transformInputTimeout (eng : Nat)
  /-- R311: The landing of a posted transfer is acknowledged to the sending fabric processor. -/
  | transferAcknowledgement (f xfer refusal : Nat)
  /-- R311: A waited transfer completes when every byte has landed. -/
  | waitedTransferCompletion (f xfer : Nat) (bytes : List Byte)
  /-- R312: An incoming RMA write transfer is checked against the target window and lands or is refused. -/
  | rmaWriteArrival (job : BitVec 32) (sender : Sender) (win : Nat) (off : BitVec 64) (bytes : List Byte)
  /-- R312: An incoming RMA read is checked against the target window and served or refused. -/
  | rmaReadArrival (job : BitVec 32) (sender : Sender) (win : Nat) (off : BitVec 64) (len : Nat)
  /-- R327: A remote ZSIG arrival is performed at the object's home slice of the target. -/
  | remoteArrival (job : BitVec 32) (sender : Sender) (win : Nat) (off : BitVec 64) (scope : Nat)
  /-- R383: An incoming send is written to the owner's management receive ring and vector 66 sent. -/
  | managementReceive (port : Nat) (job : BitVec 32) (fea : BitVec 64) (bytes : List Byte)
  /-- R383: A sent management message is acknowledged or fails and MSHEAD advances past it. -/
  | managementSendCompletion (fn : Nat) (ok : Bool)
  /-- R331: A fabric wait lasting TLIM µs while resident raises COLLECTIVE-TIMEOUT. -/
  | collectiveTimeout (f : Nat)
  /-- R106: The HBM4E controllers read and correct every line once in each 24 h. -/
  | hbmPatrolScrub (pa : Nat)
  /-- R371: A counter of cycles (core events 0x01 and 0x0D, slice events 0x05 and 0x06) carries out of bit 47, wraps, sets OVF and, with IE, posts a notice and the counter vector. -/
  | counterCarry (owner kind unit n : Nat)
  /-- R331: The transport retransmits a packet or frame that was dropped or not acknowledged, as UEC Specification 1.0 sets out, and the retry time counts towards TLIM. -/
  | packetRetransmission (f : Nat)
  /-- R286: The graph engine reads a node's barrier object, resolving it, and finds PHASE past WTOK, so the node becomes ready. -/
  | nodeBarrierWaitMet (handle : BitVec 32)
  /-- R311: A posted transfer completes locally once its source bytes have been read, and its fabric processor goes on. -/
  | postedTransferLocalCompletion (f xfer : Nat)
  deriving DecidableEq, Repr

end Sys2Proof
end

