-- ==== Sys2Proof/WellFormed.lean ====
section
/-! DEFINITION. When an instruction is well formed: the reserved values and register-field rules that its own fields decide
(R140, R144, R145, R148, R150 step 4, R304). The window check, a register at or above W, needs the pod and is made at issue. -/

namespace Sys2Proof

/-- R140: a 7-bit lane-register field that names the first of n registers is a multiple of n. -/
def alignedReg (r : BitVec 7) (n : Nat) : Bool := r.toNat % n == 0

/-- R140: a scalar field that names an even pair. -/
def evenReg (r : BitVec 5) : Bool := r.toNat % 2 == 0

/-- R310, R315: a Zilkan register group starts at a multiple of 4 (R304). -/
def groupBase (r : BitVec 4) : Bool := r.toNat % 4 == 0

/-- R144: with CND = 0 the predicate field must be 0. -/
def condOk (p : BitVec 3) (n : BitVec 2) : Bool := n != 0#2 || p == 0#3

/-- R266, R267: a negative 17-bit immediate is reserved. -/
def nonNeg17 (i : BitVec 17) : Bool := !i.msb

/-- R113, R230: scope codes 0 to 11; SZ[4] must be 0. -/
def scopeOk (z : BitVec 5) : Bool := z.ult 12#5

/-- R235: sources 0 to 3 and 16 to 19. -/
def ptrSourceOk (z : BitVec 5) : Bool := z.ult 4#5 || ((16#5).ule z && z.ult 20#5)

/-- R269: the name codes that SYSRD may read. -/
def sysNameOk (b : BitVec 7) : Bool := b.ult 12#7 || ((32#7).ule b && b.ult 53#7)

/-- R145: registers of a width code, for 8 to 128 bits. -/
def regsOfWidth (w : BitVec 3) : Nat := if w == 3#3 then 2 else if w == 4#3 then 4 else 1

/-- R204: field bits of a float type code. -/
def fltWidth (t : BitVec 3) : Nat :=
  match t.toNat with
  | 0 => 32 | 1 => 16 | 2 => 16 | 7 => 4 | _ => 8

/-- R204: mantissa bits M of a float type code. -/
def fltBits (t : BitVec 3) : Nat :=
  match t.toNat with
  | 0 => 23 | 1 => 10 | 2 => 7 | 3 => 3 | 4 => 2 | 5 => 2 | 6 => 3 | _ => 1

/-- R204: field bits of an integer type code. -/
def intWidth (t : BitVec 3) : Nat := 8 * 2 ^ (t.toNat / 2)

/-- R205: elements of one conversion. -/
def cvtCount (fs fd : Nat) (k : BitVec 1) : Nat := if k == 1#1 then max 1 (32 / min fs fd) else 1

/-- R205: registers of the group that holds the elements of width f. -/
def cvtRegs (f n : Nat) (k : BitVec 1) : Nat := if k == 1#1 then n * f / 32 else max 1 (f / 32)

/-- R205: the first register of each group is a multiple of the group's size. -/
def cvtGroupsOk (fs fd : Nat) (k : BitVec 1) (a d : BitVec 7) : Bool :=
  alignedReg a (cvtRegs fs (cvtCount fs fd k) k) && alignedReg d (cvtRegs fd (cvtCount fs fd k) k)

/-- The checks that an instruction's own fields decide (R150 step 4; R304 for Zilkan words). -/
def Instr.wf : Instr → Bool
  | .bra p n _ => condOk p n
  | .call p n _ => condOk p n
  | .brx a => evenReg a
  | .callx a => evenReg a
  | .nop => true
  | .land => true
  | .rejoin => true
  | .ret => true
  | .exit => true
  | .yield => true
  | .melse => true
  | .mpop => true
  | .mpush _ => true
  | .sleep i => nonNeg17 i
  | .trap i => nonNeg17 i
  | .brk i => nonNeg17 i
  | .sysrd f d b => sysNameOk b && (f == 0#1 || (d.ult 32#7 && b != 32#7))
  | .syswr n _ => n.ult 12#5
  | .cntrd d _ => evenReg d
  | .srkey _ _ => true
  | .srstep _ => true
  | .iadd _ _ _ _ => true
  | .isub _ _ _ _ => true
  | .iaddi _ _ _ => true
  | .imul _ _ _ _ => true
  | .imulh f _ _ _ => f.ult 3#3
  | .imad _ _ _ _ => true
  | .imin _ _ _ _ => true
  | .imax _ _ _ _ => true
  | .iabs _ _ _ => true
  | .icmp f _ _ _ => f.ult 6#3
  | .isel _ _ _ _ => true
  | .shl _ _ _ => true
  | .shr _ _ _ => true
  | .sar _ _ _ => true
  | .rol _ _ _ => true
  | .shli _ _ _ => true
  | .shri _ _ _ => true
  | .sari _ _ _ => true
  | .and _ _ _ => true
  | .or _ _ _ => true
  | .xor _ _ _ => true
  | .andn _ _ _ => true
  | .andi _ _ _ => true
  | .ori _ _ _ => true
  | .xori _ _ _ => true
  | .clz _ _ => true
  | .popc _ _ => true
  | .brev _ _ => true
  | .bfx _ _ _ _ => true
  | .bfi _ _ _ => true
  | .mov _ _ => true
  | .movi _ _ => true
  | .movl _ _ => true
  | .movs _ _ => true
  | .smov _ _ _ => true
  | .smovi _ _ => true
  | .smoviLiteral _ _ => true
  | .sadd _ _ _ => true
  | .saddi _ _ _ => true
  | .saddiLiteral _ _ _ => true
  | .sand _ _ _ => true
  | .sshl _ _ n _ => n != 3#2
  | .padd _ _ _ _ => true
  | .psub _ _ _ _ => true
  | .pmin _ _ _ _ _ => true
  | .pmax _ _ _ _ _ => true
  | .pabd _ _ _ _ _ => true
  | .pavg _ _ _ _ _ => true
  | .pmul _ _ _ _ _ => true
  | .pmulh _ _ _ _ _ => true
  | .pshl _ _ _ _ => true
  | .pshr _ _ _ _ _ => true
  | .pacs f _ _ _ => f.ult 6#3
  | .dot4 _ _ _ _ => true
  | .dot8 _ _ _ _ => true
  | .dot2 _ _ _ _ => true
  | .ppack w d _ _ => w != 3#2 && alignedReg d 2
  | .punpk w _ a _ => w != 3#2 && alignedReg a 2
  | .tbl n _ _ a => alignedReg a (2 ^ n.toNat)
  | .shfl _ _ _ _ => true
  | .scan _ _ _ _ _ => true
  | .red _ _ _ _ => true
  | .voteAny _ _ _ => true
  | .voteAll _ _ _ => true
  | .voteCount _ _ _ => true
  | .votePack s d _ => s == 0#1 || alignedReg d 2
  | .matchLanes _ _ _ => true
  | .plog _ _ _ _ => true
  | .pmovPredicateFromRegister _ _ => true
  | .pmovRegisterFromPredicate _ _ => true
  | .pmovPredicateFromPredicate _ _ => true
  | .fadd f _ _ _ => f.ult 6#3
  | .fsub f _ _ _ => f.ult 6#3
  | .fmul f _ _ _ => f.ult 6#3
  | .ffma f _ _ _ => f.ult 6#3
  | .fmin _ _ _ => true
  | .fmax _ _ _ => true
  | .fabs _ _ => true
  | .fneg _ _ => true
  | .fcmp f _ _ _ => f.ult 7#3
  | .fclass _ _ => true
  | .fscale f _ _ _ => f.ult 6#3
  | .frcp _ _ _ => true
  | .frsq _ _ _ => true
  | .fsqrt _ _ _ => true
  | .fexp2 _ _ _ => true
  | .flog2 _ _ _ => true
  | .fsin _ _ _ => true
  | .fcos _ _ _ => true
  | .ftanh _ _ _ => true
  | .bfadd2 f _ _ _ => f.ult 6#3
  | .bfmul2 f _ _ _ => f.ult 6#3
  | .bffma2 f _ _ _ => f.ult 6#3
  | .cvtFloatToFloat f d a t s k => t != s && (f.ult 6#3 || (f == 6#3 && fltBits t < fltBits s)) && cvtGroupsOk (fltWidth s) (fltWidth t) k a d
  | .cvtFloatToInteger f d a t s k => f.ult 6#3 && cvtGroupsOk (fltWidth s) (intWidth t) k a d
  | .cvtIntegerToFloat f d a t s k => f.ult 6#3 && cvtGroupsOk (intWidth s) (fltWidth t) k a d
  | .cvtIntegerToInteger f d a t s k => t != s && f.ult 2#3 && cvtGroupsOk (intWidth s) (intWidth t) k a d
  | .sclx _ a t => (3#3).ule t && alignedReg a 8
  | .lsupd _ => true
  | .ldgN8 _ _ a _ => alignedReg a 2
  | .ldgN16 _ _ a _ => alignedReg a 2
  | .ldgI32 _ _ a _ => alignedReg a 2
  | .ldgI64 _ d a _ => alignedReg d 2 && alignedReg a 2
  | .ldgB128 _ d a _ => alignedReg d 4 && alignedReg a 2
  | .ldtN8 _ _ _ _ => true
  | .ldtN16 _ _ _ _ => true
  | .ldtI32 _ _ _ _ => true
  | .ldtI64 _ d _ _ => alignedReg d 2
  | .ldtB128 _ d _ _ => alignedReg d 4
  | .lddN8 _ _ _ _ => true
  | .lddN16 _ _ _ _ => true
  | .lddI32 _ _ _ _ => true
  | .lddI64 _ d _ _ => alignedReg d 2
  | .lddB128 _ d _ _ => alignedReg d 4
  | .ldk _ d w _ => (2#3).ule w && w.ult 5#3 && alignedReg d (regsOfWidth w)
  | .stg _ d a w => w.ult 5#3 && alignedReg d (regsOfWidth w) && alignedReg a 2
  | .stt _ d _ w => w.ult 5#3 && alignedReg d (regsOfWidth w)
  | .std _ d _ w => w.ult 5#3 && alignedReg d (regsOfWidth w)
  | .stk _ d w => (2#3).ule w && w.ult 5#3 && alignedReg d (regsOfWidth w)
  | .pref _ a => alignedReg a 2
  | .discard _ a => alignedReg a 2
  | .flush _ a => alignedReg a 2
  | .aadd d a _ w => alignedReg a 2 && alignedReg d (1 + w.toNat)
  | .amin d a _ w _ => alignedReg a 2 && alignedReg d (1 + w.toNat)
  | .amax d a _ w _ => alignedReg a 2 && alignedReg d (1 + w.toNat)
  | .aand d a _ w => alignedReg a 2 && alignedReg d (1 + w.toNat)
  | .aor d a _ w => alignedReg a 2 && alignedReg d (1 + w.toNat)
  | .axor d a _ w => alignedReg a 2 && alignedReg d (1 + w.toNat)
  | .axch d a _ w => alignedReg a 2 && alignedReg d (1 + w.toNat)
  | .acas d a _ w => alignedReg a 2 && alignedReg d (2 + 2 * w.toNat)
  | .afadd _ a _ _ => alignedReg a 2
  | .tkfadd d a _ => alignedReg a 2 && alignedReg d 4
  | .tkreg _ y => evenReg y
  | .tkskip _ y => evenReg y
  | .tkfence z => scopeOk z
  | .tkqry _ y _ => evenReg y
  | .fenceAcq z => scopeOk z
  | .fenceRel z => scopeOk z
  | .fenceAr z => scopeOk z
  | .bar => true
  | .barrive _ y z _ => evenReg y && scopeOk z
  | .bwait _ y z => evenReg y && scopeOk z
  | .btry _ y z => evenReg y && scopeOk z
  | .waitptr _ z => ptrSourceOk z
  | .waitmem _ y g => evenReg y && g != 3#2
  | .shape _ _ _ => true
  | .shapeq _ => true
  | .mma _ _ _ _ _ _ => true
  | .mmab _ _ _ _ _ _ => true
  | .mdrain f _ _ z _ _ => f != 7#3 && evenReg z
  | .tzero _ _ _ => true
  | .trot _ _ _ => true
  | .tcpy _ y _ _ => evenReg y
  | .tcpyw _ _ _ _ => true
  | .tdset _ y => evenReg y
  | .tdget _ y => evenReg y
  | .tdinv _ => true
  | .tscl f _ _ _ _ => f != 7#3
  | .glaunch _ y _ => evenReg y
  | .gwait _ => true
  | .gwaitTry _ => true
  | .gnode _ y _ => evenReg y
  | .tapepush _ y _ => evenReg y
  | .fqpost _ y _ => evenReg y
  | .poolMarker _ => true
  | .zli _ _ _ => true
  | .zadd _ _ b i m => if i == 1#1 then b == 0#4 else m == 0#14
  | .zsub _ _ b i m => if i == 1#1 then b == 0#4 else m == 0#14
  | .zshl _ _ b i m => if i == 1#1 then b == 0#4 else m == 0#14
  | .zand _ _ b i m => if i == 1#1 then b == 0#4 else m == 0#14
  | .zbr c a b _ => c != 7#3 && (c != 0#3 || (a == 0#4 && b == 0#4))
  | .zloop _ _ => true
  | .zld _ _ _ _ => true
  | .zst _ _ _ _ => true
  | .zsend _ a _ => groupBase a
  | .zags _ a _ _ => groupBase a
  | .zfetch _ a _ => groupBase a
  | .zckpt _ a => groupBase a
  | .zclone _ a _ _ => groupBase a
  | .zqnt _ a _ => groupBase a
  | .zrsc _ a _ => groupBase a
  | .zrsf _ a => groupBase a
  | .zdqa _ a => groupBase a
  | .zwaitBar _ _ s => s.ult 12#4
  | .zwaitFlag _ _ s => s.ult 12#4
  | .zsig _ _ _ _ s => s.ult 12#4
  | .zsigRemote _ _ _ s => (9#4).ule s && s.ult 12#4
  | .zfenceAcq s => s.ult 12#4
  | .zfenceRel s => s.ult 12#4
  | .zfenceAr s => s.ult 12#4
  | .zcyc _ => true
  | .ztrap _ => true
  | .zhalt => true
  | .moduleReset => true
  | .hernusBoot => true
  | .linkTraining => true
  | .overtempReset => true
  | .throttleStepDown => true
  | .throttleStepUp => true
  | .functionLevelReset _ => true
  | .tdiError _ => true
  | .hostPostedWrite _ _ _ => true
  | .hostRead _ _ _ => true
  | .registerWrite _ _ _ => true
  | .posttailWrite _ _ _ => true
  | .cplheadWrite _ _ _ => true
  | .streamEnable _ _ => true
  | .fqheadWrite _ _ => true
  | .mrheadWrite _ _ => true
  | .mstailWrite _ _ => true
  | .winload _ _ => true
  | .inval _ _ _ => true
  | .resume _ _ => true
  | .terminate _ _ => true
  | .termgrid _ _ => true
  | .create _ _ _ _ _ _ => true
  | .setgrant _ _ _ => true
  | .destroy _ _ => true
  | .attest _ _ _ => true
  | .logread _ => true
  | .fusedSvnRaise _ _ => true
  | .nodeAppend _ => true
  | .teamStart _ _ => true
  | .collectiveStart _ => true
  | .transformNodeStart _ => true
  | .copyNode _ => true
  | .signalNode _ => true
  | .tapeNodeStart _ => true
  | .tapePop _ => true
  | .teamEnd _ => true
  | .gridRetirement _ => true
  | .nodeCompletion _ => true
  | .quantumEnd _ => true
  | .loadDataReturn _ _ _ => true
  | .bunchConvergence _ _ => true
  | .rejoinHoldEnd _ _ => true
  | .sleepEnd _ _ => true
  | .watchdog _ _ => true
  | .bwaitCompletion _ _ => true
  | .waitmemCompletion _ _ => true
  | .zwaitCompletion _ => true
  | .matrixCommandStart _ => true
  | .matrixCommandCompletion _ => true
  | .trotRotation _ => true
  | .copyCommandStart _ _ => true
  | .copyGranuleDelivery _ _ => true
  | .ticketUpdateAccept _ => true
  | .ticketGap _ _ _ => true
  | .transformGranuleWrite _ => true
  | .transformInputArrival _ _ _ => true
  | .transformInputTimeout _ => true
  | .transferAcknowledgement _ _ _ => true
  | .waitedTransferCompletion _ _ _ => true
  | .rmaWriteArrival _ _ _ _ _ => true
  | .rmaReadArrival _ _ _ _ _ => true
  | .remoteArrival _ _ _ _ _ => true
  | .managementReceive _ _ _ _ => true
  | .managementSendCompletion _ _ => true
  | .collectiveTimeout _ => true
  | .hbmPatrolScrub _ => true
  | .counterCarry _ _ _ _ => true
  | .packetRetransmission _ => true
  | .nodeBarrierWaitMet _ => true
  | .postedTransferLocalCompletion _ _ => true

end Sys2Proof
end

