-- ==== Sys2Proof/Decode.lean ====
section
/-! DEFINITION. Reading and writing instruction words. A core word is C, OP and 24 bits in one of the formats of R141 to R147;
a Zilkan word is OP and 27 bits in one of the formats of R302. Decoding is total: a word that is no instruction is rejected by
name (R150 steps 3 and 4, R304). The encoder follows the same tables. -/

namespace Sys2Proof

/-- Why a word is no instruction. illegalOpcode: an all-zero word or an unused OP (R150 step 3). reservedField: a reserved
selector, bit or register field, or a literal-carrying word with no literal in its packet (R150 step 4, R137). zilkanDecode: R304. -/
inductive DecodeError where
  | illegalOpcode
  | reservedField
  | zilkanDecode
  deriving DecidableEq, Repr

/-- A core word from its chain bit, major opcode and remaining 24 bits (R135, R141). -/
def packCore (c : BitVec 1) (op : BitVec 7) (r : BitVec 24) : W32 := c ++ op ++ r

/-- Bit 31 of a core word (R135). -/
def chainOf (w : W32) : BitVec 1 := w.extractLsb' 31 1

/-- Bits [30:24] of a core word. -/
def opOf (w : W32) : BitVec 7 := w.extractLsb' 24 7

/-- Bits [23:0] of a core word. -/
def restOf (w : W32) : BitVec 24 := w.extractLsb' 0 24

/-- A Zilkan word from its OP and remaining 27 bits (R302). -/
def packZilkan (op : BitVec 5) (r : BitVec 27) : W32 := op ++ r

/-- Bits [31:27] of a Zilkan word. -/
def zOpOf (w : W32) : BitVec 5 := w.extractLsb' 27 5

/-- Bits [26:0] of a Zilkan word. -/
def zRestOf (w : W32) : BitVec 27 := w.extractLsb' 0 27

/-- R141, and M.A of R145: F, D, A, B. -/
def packA (f : BitVec 3) (d : BitVec 7) (a : BitVec 7) (b : BitVec 7) : BitVec 24 :=
  f ++ d ++ a ++ b

/-- R141, and M.A of R145: F, D, A, B, read back. -/
def unpackA (r : BitVec 24) : BitVec 3 × BitVec 7 × BitVec 7 × BitVec 7 :=
  (r.extractLsb' 21 3, r.extractLsb' 14 7, r.extractLsb' 7 7, r.extractLsb' 0 7)

/-- R142: IMM, D, A. -/
def packB (i : BitVec 10) (d : BitVec 7) (a : BitVec 7) : BitVec 24 :=
  i.extractLsb' 7 3 ++ d ++ a ++ i.extractLsb' 0 7

/-- R142: IMM, D, A, read back. -/
def unpackB (r : BitVec 24) : BitVec 10 × BitVec 7 × BitVec 7 :=
  (r.extractLsb' 21 3 ++ r.extractLsb' 0 7, r.extractLsb' 14 7, r.extractLsb' 7 7)

/-- R143: IMM, D. -/
def packL (i : BitVec 17) (d : BitVec 7) : BitVec 24 :=
  i.extractLsb' 14 3 ++ d ++ i.extractLsb' 0 14

/-- R143: IMM, D, read back. -/
def unpackL (r : BitVec 24) : BitVec 17 × BitVec 7 :=
  (r.extractLsb' 21 3 ++ r.extractLsb' 0 14, r.extractLsb' 14 7)

/-- R144: P, CND, OFS. -/
def packJ (p : BitVec 3) (n : BitVec 2) (o : BitVec 19) : BitVec 24 :=
  p ++ n ++ o

/-- R144: P, CND, OFS, read back. -/
def unpackJ (r : BitVec 24) : BitVec 3 × BitVec 2 × BitVec 19 :=
  (r.extractLsb' 21 3, r.extractLsb' 19 2, r.extractLsb' 0 19)

/-- R145, layouts M.L, M.S and M.P: OFS, D, A and bits [6:3]. -/
def packM (o : BitVec 6) (d : BitVec 7) (a : BitVec 7) (l : BitVec 4) : BitVec 24 :=
  o.extractLsb' 3 3 ++ d ++ a ++ l ++ o.extractLsb' 0 3

/-- R145, layouts M.L, M.S and M.P: OFS, D, A and bits [6:3], read back. -/
def unpackM (r : BitVec 24) : BitVec 6 × BitVec 7 × BitVec 7 × BitVec 4 :=
  (r.extractLsb' 21 3 ++ r.extractLsb' 0 3, r.extractLsb' 14 7, r.extractLsb' 7 7, r.extractLsb' 3 4)

/-- R145, layout M.K: OFS, D, WID, LA. -/
def packK (o : BitVec 10) (d : BitVec 7) (w : BitVec 3) (l : BitVec 4) : BitVec 24 :=
  o.extractLsb' 3 3 ++ d ++ o.extractLsb' 6 4 ++ w ++ l ++ o.extractLsb' 0 3

/-- R145, layout M.K: OFS, D, WID, LA, read back. -/
def unpackK (r : BitVec 24) : BitVec 10 × BitVec 7 × BitVec 3 × BitVec 4 :=
  (r.extractLsb' 10 4 ++ r.extractLsb' 21 3 ++ r.extractLsb' 0 3, r.extractLsb' 14 7, r.extractLsb' 7 3, r.extractLsb' 3 4)

/-- R146, and S.r of R147: F, SX, SY, SZ, LA, G. -/
def packT (f : BitVec 3) (x : BitVec 5) (y : BitVec 5) (z : BitVec 5) (l : BitVec 4) (g : BitVec 2) : BitVec 24 :=
  f ++ x ++ y ++ z ++ l ++ g

/-- R146, and S.r of R147: F, SX, SY, SZ, LA, G, read back. -/
def unpackT (r : BitVec 24) : BitVec 3 × BitVec 5 × BitVec 5 × BitVec 5 × BitVec 4 × BitVec 2 :=
  (r.extractLsb' 21 3, r.extractLsb' 16 5, r.extractLsb' 11 5, r.extractLsb' 6 5, r.extractLsb' 2 4, r.extractLsb' 0 2)

/-- R147, layout S.i: bits [23:21], SD, SA, IMM. -/
def packS (f : BitVec 3) (d : BitVec 5) (a : BitVec 5) (i : BitVec 11) : BitVec 24 :=
  f ++ d ++ a ++ i

/-- R147, layout S.i: bits [23:21], SD, SA, IMM, read back. -/
def unpackS (r : BitVec 24) : BitVec 3 × BitVec 5 × BitVec 5 × BitVec 11 :=
  (r.extractLsb' 21 3, r.extractLsb' 16 5, r.extractLsb' 11 5, r.extractLsb' 0 11)

/-- R138: the count of a pool marker. -/
def packP (n : BitVec 24) : BitVec 24 :=
  n

/-- R138: the count of a pool marker, read back. -/
def unpackP (r : BitVec 24) : BitVec 24 :=
  (r.extractLsb' 0 24)

/-- R302, ZA: D, A, B, I, IMM. -/
def packZA (d : BitVec 4) (a : BitVec 4) (b : BitVec 4) (i : BitVec 1) (m : BitVec 14) : BitVec 27 :=
  d ++ a ++ b ++ i ++ m

/-- R302, ZA: D, A, B, I, IMM, read back. -/
def unpackZA (r : BitVec 27) : BitVec 4 × BitVec 4 × BitVec 4 × BitVec 1 × BitVec 14 :=
  (r.extractLsb' 23 4, r.extractLsb' 19 4, r.extractLsb' 15 4, r.extractLsb' 14 1, r.extractLsb' 0 14)

/-- R302, ZG: D, A, B, CTL. -/
def packZG (d : BitVec 4) (a : BitVec 4) (b : BitVec 4) (t : BitVec 15) : BitVec 27 :=
  d ++ a ++ b ++ t

/-- R302, ZG: D, A, B, CTL, read back. -/
def unpackZG (r : BitVec 27) : BitVec 4 × BitVec 4 × BitVec 4 × BitVec 15 :=
  (r.extractLsb' 23 4, r.extractLsb' 19 4, r.extractLsb' 15 4, r.extractLsb' 0 15)

/-- R302, ZM: D, A, W, OFS. -/
def packZM (d : BitVec 4) (a : BitVec 4) (w : BitVec 1) (o : BitVec 18) : BitVec 27 :=
  d ++ a ++ w ++ o

/-- R302, ZM: D, A, W, OFS, read back. -/
def unpackZM (r : BitVec 27) : BitVec 4 × BitVec 4 × BitVec 1 × BitVec 18 :=
  (r.extractLsb' 23 4, r.extractLsb' 19 4, r.extractLsb' 18 1, r.extractLsb' 0 18)

/-- R302, ZL: D, H, reserved, IMM. -/
def packZL (d : BitVec 4) (h : BitVec 2) (r : BitVec 5) (m : BitVec 16) : BitVec 27 :=
  d ++ h ++ r ++ m

/-- R302, ZL: D, H, reserved, IMM, read back. -/
def unpackZL (r : BitVec 27) : BitVec 4 × BitVec 2 × BitVec 5 × BitVec 16 :=
  (r.extractLsb' 23 4, r.extractLsb' 21 2, r.extractLsb' 16 5, r.extractLsb' 0 16)

/-- R302, ZJ: COND, A, B, OFS. -/
def packZJ (c : BitVec 3) (a : BitVec 4) (b : BitVec 4) (o : BitVec 16) : BitVec 27 :=
  c ++ a ++ b ++ o

/-- R302, ZJ: COND, A, B, OFS, read back. -/
def unpackZJ (r : BitVec 27) : BitVec 3 × BitVec 4 × BitVec 4 × BitVec 16 :=
  (r.extractLsb' 24 3, r.extractLsb' 20 4, r.extractLsb' 16 4, r.extractLsb' 0 16)

/-- R302, ZN and ZK: D, reserved, IMM. -/
def packZN (d : BitVec 4) (r : BitVec 7) (o : BitVec 16) : BitVec 27 :=
  d ++ r ++ o

/-- R302, ZN and ZK: D, reserved, IMM, read back. -/
def unpackZN (r : BitVec 27) : BitVec 4 × BitVec 7 × BitVec 16 :=
  (r.extractLsb' 23 4, r.extractLsb' 16 7, r.extractLsb' 0 16)

/-- R137: the words that consume the next word of their packet as a literal: MOVL, and SMOVI and SADDI with LT = 1. -/
def carriesLiteral (w : W32) : Bool :=
  opOf w == 0x24#7 || ((opOf w == 0x27#7 || opOf w == 0x29#7) && w.extractLsb' 23 1 == 1#1)

/-- R151 to R157: the instruction that a core word names before its register-field checks; lit is the literal word, if
the packet has a next word (R137). -/
def rawDecode (w : W32) (lit : Option W32) : Except DecodeError Instr :=
  let r := restOf w
  match (opOf w).toNat with
  | 1 =>
    let (xp, xn, xo) := unpackJ r
    .ok (.bra xp xn xo)
  | 2 =>
    let (xp, xn, xo) := unpackJ r
    .ok (.call xp xn xo)
  | 3 =>
    let (xf, xx, xy, xz, xl, xg) := unpackT r
    if xf == 0#3 && xx == 0#5 && xz == 0#5 && xl == 0#4 && xg == 0#2 then .ok (.brx xy)
    else if xf == 1#3 && xx == 0#5 && xz == 0#5 && xl == 0#4 && xg == 0#2 then .ok (.callx xy)
    else .error .reservedField
  | 4 =>
    let (xf, xd, xa, xb) := unpackA r
    if xf == 0#3 && xd == 0#7 && xa == 0#7 && xb == 0#7 then .ok (.nop)
    else if xf == 1#3 && xd == 0#7 && xa == 0#7 && xb == 0#7 then .ok (.land)
    else if xf == 2#3 && xd == 0#7 && xa == 0#7 && xb == 0#7 then .ok (.rejoin)
    else if xf == 3#3 && xd == 0#7 && xa == 0#7 && xb == 0#7 then .ok (.ret)
    else if xf == 4#3 && xd == 0#7 && xa == 0#7 && xb == 0#7 then .ok (.exit)
    else if xf == 5#3 && xd == 0#7 && xa == 0#7 && xb == 0#7 then .ok (.yield)
    else if xf == 6#3 && xd == 0#7 && xa == 0#7 && xb == 0#7 then .ok (.melse)
    else if xf == 7#3 && xd == 0#7 && xa == 0#7 && xb == 0#7 then .ok (.mpop)
    else .error .reservedField
  | 5 =>
    let (xf, xd, xa, xb) := unpackA r
    if xd == 0#7 && xa == 0#7 && xb == 0#7 then .ok (.mpush xf)
    else .error .reservedField
  | 6 =>
    let (xi, xd) := unpackL r
    if xd == 0#7 then .ok (.sleep xi)
    else .error .reservedField
  | 7 =>
    let (xi, xd) := unpackL r
    if xd == 0#7 then .ok (.trap xi)
    else .error .reservedField
  | 8 =>
    let (xi, xd) := unpackL r
    if xd == 0#7 then .ok (.brk xi)
    else .error .reservedField
  | 9 =>
    let (xf, xd, xa, xb) := unpackA r
    if xf.extractLsb' 1 2 == 0#2 && xa == 0#7 then .ok (.sysrd (xf.extractLsb' 0 1) xd xb)
    else .error .reservedField
  | 10 =>
    let (xf, xx, xy, xz, xl, xg) := unpackT r
    if xf == 0#3 && xz == 0#5 && xl == 0#4 && xg == 0#2 then .ok (.syswr xx xy)
    else .error .reservedField
  | 11 =>
    let (xf, xx, xy, xz, xl, xg) := unpackT r
    if xf == 0#3 && xy.extractLsb' 2 3 == 0#3 && xz == 0#5 && xl == 0#4 && xg == 0#2 then .ok (.cntrd xx (xy.extractLsb' 0 2))
    else .error .reservedField
  | 12 =>
    let (xf, xx, xy, xz, xl, xg) := unpackT r
    if xf == 0#3 && xx.extractLsb' 4 1 == 0#1 && xz == 0#5 && xl == 0#4 && xg == 0#2 then .ok (.srkey (xx.extractLsb' 0 4) xy)
    else if xf == 1#3 && xx == 0#5 && xz == 0#5 && xl == 0#4 && xg == 0#2 then .ok (.srstep xy)
    else .error .reservedField
  | 16 =>
    let (xf, xd, xa, xb) := unpackA r
    if xf.extractLsb' 2 1 == 0#1 then .ok (.iadd (xf.extractLsb' 0 2) xd xa xb)
    else .error .reservedField
  | 17 =>
    let (xf, xd, xa, xb) := unpackA r
    if xf.extractLsb' 2 1 == 0#1 then .ok (.isub (xf.extractLsb' 0 2) xd xa xb)
    else .error .reservedField
  | 18 =>
    let (xi, xd, xa) := unpackB r
    .ok (.iaddi xi xd xa)
  | 19 =>
    let (xf, xd, xa, xb) := unpackA r
    if xf.extractLsb' 2 1 == 0#1 then .ok (.imul (xf.extractLsb' 0 2) xd xa xb)
    else .error .reservedField
  | 20 =>
    let (xf, xd, xa, xb) := unpackA r
    .ok (.imulh xf xd xa xb)
  | 21 =>
    let (xf, xd, xa, xb) := unpackA r
    if xf.extractLsb' 2 1 == 0#1 then .ok (.imad (xf.extractLsb' 0 2) xd xa xb)
    else .error .reservedField
  | 22 =>
    let (xf, xd, xa, xb) := unpackA r
    if xf.extractLsb' 1 2 == 0#2 then .ok (.imin (xf.extractLsb' 0 1) xd xa xb)
    else if xf.extractLsb' 1 2 == 1#2 then .ok (.imax (xf.extractLsb' 0 1) xd xa xb)
    else .error .reservedField
  | 23 =>
    let (xf, xd, xa, xb) := unpackA r
    if xf.extractLsb' 1 2 == 0#2 && xb == 0#7 then .ok (.iabs (xf.extractLsb' 0 1) xd xa)
    else .error .reservedField
  | 24 =>
    let (xf, xd, xa, xb) := unpackA r
    if xd.extractLsb' 3 4 == 0#4 then .ok (.icmp xf (xd.extractLsb' 0 3) xa xb)
    else .error .reservedField
  | 25 =>
    let (xf, xd, xa, xb) := unpackA r
    .ok (.isel xf xd xa xb)
  | 26 =>
    let (xf, xd, xa, xb) := unpackA r
    if xf == 0#3 then .ok (.shl xd xa xb)
    else if xf == 1#3 then .ok (.shr xd xa xb)
    else if xf == 2#3 then .ok (.sar xd xa xb)
    else if xf == 3#3 then .ok (.rol xd xa xb)
    else .error .reservedField
  | 27 =>
    let (xi, xd, xa) := unpackB r
    if xi.extractLsb' 5 5 == 0#5 then .ok (.shli xd xa (xi.extractLsb' 0 5))
    else if xi.extractLsb' 5 5 == 1#5 then .ok (.shri xd xa (xi.extractLsb' 0 5))
    else if xi.extractLsb' 5 5 == 2#5 then .ok (.sari xd xa (xi.extractLsb' 0 5))
    else .error .reservedField
  | 28 =>
    let (xf, xd, xa, xb) := unpackA r
    if xf == 0#3 then .ok (.and xd xa xb)
    else if xf == 1#3 then .ok (.or xd xa xb)
    else if xf == 2#3 then .ok (.xor xd xa xb)
    else if xf == 3#3 then .ok (.andn xd xa xb)
    else .error .reservedField
  | 29 =>
    let (xi, xd, xa) := unpackB r
    .ok (.andi xi xd xa)
  | 30 =>
    let (xi, xd, xa) := unpackB r
    .ok (.ori xi xd xa)
  | 31 =>
    let (xi, xd, xa) := unpackB r
    .ok (.xori xi xd xa)
  | 32 =>
    let (xf, xd, xa, xb) := unpackA r
    if xf == 0#3 && xb == 0#7 then .ok (.clz xd xa)
    else if xf == 1#3 && xb == 0#7 then .ok (.popc xd xa)
    else if xf == 2#3 && xb == 0#7 then .ok (.brev xd xa)
    else .error .reservedField
  | 33 =>
    let (xf, xd, xa, xb) := unpackA r
    if xf.extractLsb' 1 2 == 0#2 then .ok (.bfx (xf.extractLsb' 0 1) xd xa xb)
    else if xf == 2#3 then .ok (.bfi xd xa xb)
    else .error .reservedField
  | 34 =>
    let (xf, xd, xa, xb) := unpackA r
    if xf == 0#3 && xb == 0#7 then .ok (.mov xd xa)
    else .error .reservedField
  | 35 =>
    let (xi, xd) := unpackL r
    .ok (.movi xi xd)
  | 36 =>
    let (xi, xd) := unpackL r
    if xi == 0#17 then (match lit with | some v => .ok (.movl xd v) | none => .error .reservedField)
    else .error .reservedField
  | 37 =>
    let (xf, xd, xa, xb) := unpackA r
    if xf == 0#3 && xa.extractLsb' 5 2 == 0#2 && xb == 0#7 then .ok (.movs xd (xa.extractLsb' 0 5))
    else .error .reservedField
  | 38 =>
    let (xf, xd, xa, xb) := unpackA r
    if xf == 0#3 && xd.extractLsb' 5 2 == 0#2 && xb.extractLsb' 2 5 == 0#5 then .ok (.smov (xd.extractLsb' 0 5) xa (xb.extractLsb' 0 2))
    else .error .reservedField
  | 39 =>
    let (xf, xd, xa, xi) := unpackS r
    if xf == 0#3 && xa == 0#5 then .ok (.smovi xd xi)
    else if xf == 4#3 && xa == 0#5 && xi == 0#11 then (match lit with | some v => .ok (.smoviLiteral xd v) | none => .error .reservedField)
    else .error .reservedField
  | 40 =>
    let (xf, xx, xy, xz, xl, xg) := unpackT r
    if xf == 0#3 && xl == 0#4 && xg == 0#2 then .ok (.sadd xx xy xz)
    else .error .reservedField
  | 41 =>
    let (xf, xd, xa, xi) := unpackS r
    if xf == 0#3 then .ok (.saddi xd xa xi)
    else if xf == 4#3 && xi == 0#11 then (match lit with | some v => .ok (.saddiLiteral xd xa v) | none => .error .reservedField)
    else .error .reservedField
  | 42 =>
    let (xf, xx, xy, xz, xl, xg) := unpackT r
    if xf == 0#3 && xl == 0#4 && xg == 0#2 then .ok (.sand xx xy xz)
    else .error .reservedField
  | 43 =>
    let (xf, xd, xa, xi) := unpackS r
    if xf == 0#3 && xi.extractLsb' 7 4 == 0#4 then .ok (.sshl xd xa (xi.extractLsb' 5 2) (xi.extractLsb' 0 5))
    else .error .reservedField
  | 48 =>
    let (xf, xd, xa, xb) := unpackA r
    .ok (.padd xf xd xa xb)
  | 49 =>
    let (xf, xd, xa, xb) := unpackA r
    .ok (.psub xf xd xa xb)
  | 50 =>
    let (xf, xd, xa, xb) := unpackA r
    if xf.extractLsb' 1 1 == 0#1 then .ok (.pmin (xf.extractLsb' 2 1) (xf.extractLsb' 0 1) xd xa xb)
    else if xf.extractLsb' 1 1 == 1#1 then .ok (.pmax (xf.extractLsb' 2 1) (xf.extractLsb' 0 1) xd xa xb)
    else .error .reservedField
  | 51 =>
    let (xf, xd, xa, xb) := unpackA r
    if xf.extractLsb' 1 1 == 0#1 then .ok (.pabd (xf.extractLsb' 2 1) (xf.extractLsb' 0 1) xd xa xb)
    else if xf.extractLsb' 1 1 == 1#1 then .ok (.pavg (xf.extractLsb' 2 1) (xf.extractLsb' 0 1) xd xa xb)
    else .error .reservedField
  | 52 =>
    let (xf, xd, xa, xb) := unpackA r
    if xf.extractLsb' 1 1 == 0#1 then .ok (.pmul (xf.extractLsb' 2 1) (xf.extractLsb' 0 1) xd xa xb)
    else if xf.extractLsb' 1 1 == 1#1 then .ok (.pmulh (xf.extractLsb' 2 1) (xf.extractLsb' 0 1) xd xa xb)
    else .error .reservedField
  | 53 =>
    let (xf, xd, xa, xb) := unpackA r
    if xf.extractLsb' 0 2 == 0#2 then .ok (.pshl (xf.extractLsb' 2 1) xd xa xb)
    else if xf.extractLsb' 1 1 == 1#1 then .ok (.pshr (xf.extractLsb' 2 1) (xf.extractLsb' 0 1) xd xa xb)
    else .error .reservedField
  | 54 =>
    let (xf, xd, xa, xb) := unpackA r
    .ok (.pacs xf xd xa xb)
  | 55 =>
    let (xf, xd, xa, xb) := unpackA r
    .ok (.dot4 xf xd xa xb)
  | 56 =>
    let (xf, xd, xa, xb) := unpackA r
    if xf.extractLsb' 2 1 == 0#1 then .ok (.dot8 (xf.extractLsb' 0 2) xd xa xb)
    else if xf.extractLsb' 2 1 == 1#1 then .ok (.dot2 (xf.extractLsb' 0 2) xd xa xb)
    else .error .reservedField
  | 57 =>
    let (xf, xd, xa, xb) := unpackA r
    if xf.extractLsb' 2 1 == 0#1 then .ok (.ppack (xf.extractLsb' 0 2) xd xa xb)
    else if xf.extractLsb' 2 1 == 1#1 then .ok (.punpk (xf.extractLsb' 0 2) xd xa xb)
    else .error .reservedField
  | 58 =>
    let (xi, xd, xa) := unpackB r
    .ok (.tbl (xi.extractLsb' 8 2) (xi.extractLsb' 0 8) xd xa)
  | 59 =>
    let (xf, xd, xa, xb) := unpackA r
    .ok (.shfl xf xd xa xb)
  | 60 =>
    let (xf, xd, xa, xb) := unpackA r
    if xf == 0#3 && xb.extractLsb' 3 2 == 0#2 then .ok (.scan xd xa (xb.extractLsb' 6 1) (xb.extractLsb' 5 1) (xb.extractLsb' 0 3))
    else if xf == 1#3 && xb.extractLsb' 3 3 == 0#3 then .ok (.red xd xa (xb.extractLsb' 6 1) (xb.extractLsb' 0 3))
    else .error .reservedField
  | 61 =>
    let (xf, xd, xa, xb) := unpackA r
    if xf.extractLsb' 0 2 == 0#2 && xd.extractLsb' 3 4 == 0#4 && xa.extractLsb' 3 4 == 0#4 && xb == 0#7 then .ok (.voteAny (xf.extractLsb' 2 1) (xd.extractLsb' 0 3) (xa.extractLsb' 0 3))
    else if xf.extractLsb' 0 2 == 1#2 && xd.extractLsb' 3 4 == 0#4 && xa.extractLsb' 3 4 == 0#4 && xb == 0#7 then .ok (.voteAll (xf.extractLsb' 2 1) (xd.extractLsb' 0 3) (xa.extractLsb' 0 3))
    else if xf.extractLsb' 0 2 == 2#2 && xa.extractLsb' 3 4 == 0#4 && xb == 0#7 then .ok (.voteCount (xf.extractLsb' 2 1) xd (xa.extractLsb' 0 3))
    else if xf.extractLsb' 0 2 == 2#2 && xa.extractLsb' 3 4 == 0#4 && xb == 1#7 then .ok (.votePack (xf.extractLsb' 2 1) xd (xa.extractLsb' 0 3))
    else if xf.extractLsb' 0 2 == 3#2 && xb == 0#7 then .ok (.matchLanes (xf.extractLsb' 2 1) xd xa)
    else .error .reservedField
  | 62 =>
    let (xf, xd, xa, xb) := unpackA r
    if xd.extractLsb' 3 4 == 0#4 && xa.extractLsb' 3 4 == 0#4 && xb.extractLsb' 3 4 == 0#4 then .ok (.plog xf (xd.extractLsb' 0 3) (xa.extractLsb' 0 3) (xb.extractLsb' 0 3))
    else .error .reservedField
  | 63 =>
    let (xf, xd, xa, xb) := unpackA r
    if xf == 0#3 && xd.extractLsb' 3 4 == 0#4 && xb == 0#7 then .ok (.pmovPredicateFromRegister (xd.extractLsb' 0 3) xa)
    else if xf == 1#3 && xa.extractLsb' 3 4 == 0#4 && xb == 0#7 then .ok (.pmovRegisterFromPredicate xd (xa.extractLsb' 0 3))
    else if xf == 2#3 && xd.extractLsb' 3 4 == 0#4 && xa.extractLsb' 3 4 == 0#4 && xb == 0#7 then .ok (.pmovPredicateFromPredicate (xd.extractLsb' 0 3) (xa.extractLsb' 0 3))
    else .error .reservedField
  | 64 =>
    let (xf, xd, xa, xb) := unpackA r
    .ok (.fadd xf xd xa xb)
  | 65 =>
    let (xf, xd, xa, xb) := unpackA r
    .ok (.fsub xf xd xa xb)
  | 66 =>
    let (xf, xd, xa, xb) := unpackA r
    .ok (.fmul xf xd xa xb)
  | 67 =>
    let (xf, xd, xa, xb) := unpackA r
    .ok (.ffma xf xd xa xb)
  | 68 =>
    let (xf, xd, xa, xb) := unpackA r
    if xf == 0#3 then .ok (.fmin xd xa xb)
    else if xf == 1#3 then .ok (.fmax xd xa xb)
    else .error .reservedField
  | 69 =>
    let (xf, xd, xa, xb) := unpackA r
    if xf == 0#3 && xb == 0#7 then .ok (.fabs xd xa)
    else if xf == 1#3 && xb == 0#7 then .ok (.fneg xd xa)
    else .error .reservedField
  | 70 =>
    let (xf, xd, xa, xb) := unpackA r
    if xd.extractLsb' 3 4 == 0#4 then .ok (.fcmp xf (xd.extractLsb' 0 3) xa xb)
    else .error .reservedField
  | 71 =>
    let (xf, xd, xa, xb) := unpackA r
    if xf == 0#3 && xb == 0#7 then .ok (.fclass xd xa)
    else .error .reservedField
  | 72 =>
    let (xf, xd, xa, xb) := unpackA r
    .ok (.fscale xf xd xa xb)
  | 73 =>
    let (xf, xd, xa, xb) := unpackA r
    if xf == 0#3 && xb.extractLsb' 4 3 == 0#3 then .ok (.frcp xd xa (xb.extractLsb' 0 4))
    else if xf == 1#3 && xb.extractLsb' 4 3 == 0#3 then .ok (.frsq xd xa (xb.extractLsb' 0 4))
    else if xf == 2#3 && xb.extractLsb' 4 3 == 0#3 then .ok (.fsqrt xd xa (xb.extractLsb' 0 4))
    else if xf == 3#3 && xb.extractLsb' 4 3 == 0#3 then .ok (.fexp2 xd xa (xb.extractLsb' 0 4))
    else if xf == 4#3 && xb.extractLsb' 4 3 == 0#3 then .ok (.flog2 xd xa (xb.extractLsb' 0 4))
    else if xf == 5#3 && xb.extractLsb' 4 3 == 0#3 then .ok (.fsin xd xa (xb.extractLsb' 0 4))
    else if xf == 6#3 && xb.extractLsb' 4 3 == 0#3 then .ok (.fcos xd xa (xb.extractLsb' 0 4))
    else if xf == 7#3 && xb.extractLsb' 4 3 == 0#3 then .ok (.ftanh xd xa (xb.extractLsb' 0 4))
    else .error .reservedField
  | 74 =>
    let (xf, xd, xa, xb) := unpackA r
    .ok (.bfadd2 xf xd xa xb)
  | 75 =>
    let (xf, xd, xa, xb) := unpackA r
    .ok (.bfmul2 xf xd xa xb)
  | 76 =>
    let (xf, xd, xa, xb) := unpackA r
    .ok (.bffma2 xf xd xa xb)
  | 77 =>
    let (xf, xd, xa, xb) := unpackA r
    .ok (.cvtFloatToFloat xf xd xa (xb.extractLsb' 4 3) (xb.extractLsb' 1 3) (xb.extractLsb' 0 1))
  | 78 =>
    let (xf, xd, xa, xb) := unpackA r
    .ok (.cvtFloatToInteger xf xd xa (xb.extractLsb' 4 3) (xb.extractLsb' 1 3) (xb.extractLsb' 0 1))
  | 79 =>
    let (xf, xd, xa, xb) := unpackA r
    .ok (.cvtIntegerToFloat xf xd xa (xb.extractLsb' 4 3) (xb.extractLsb' 1 3) (xb.extractLsb' 0 1))
  | 80 =>
    let (xf, xd, xa, xb) := unpackA r
    .ok (.cvtIntegerToInteger xf xd xa (xb.extractLsb' 4 3) (xb.extractLsb' 1 3) (xb.extractLsb' 0 1))
  | 81 =>
    let (xf, xd, xa, xb) := unpackA r
    if xf == 0#3 && xb.extractLsb' 0 4 == 0#4 then .ok (.sclx xd xa (xb.extractLsb' 4 3))
    else .error .reservedField
  | 82 =>
    let (xf, xd, xa, xb) := unpackA r
    if xf == 0#3 && xd.extractLsb' 5 2 == 0#2 && xa == 0#7 && xb == 0#7 then .ok (.lsupd (xd.extractLsb' 0 5))
    else .error .reservedField
  | 88 =>
    let (xo, xd, xa, xl) := unpackM r
    .ok (.ldgN8 xo xd xa xl)
  | 89 =>
    let (xo, xd, xa, xl) := unpackM r
    .ok (.ldgN16 xo xd xa xl)
  | 90 =>
    let (xo, xd, xa, xl) := unpackM r
    .ok (.ldgI32 xo xd xa xl)
  | 91 =>
    let (xo, xd, xa, xl) := unpackM r
    .ok (.ldgI64 xo xd xa xl)
  | 92 =>
    let (xo, xd, xa, xl) := unpackM r
    .ok (.ldgB128 xo xd xa xl)
  | 93 =>
    let (xo, xd, xa, xl) := unpackM r
    .ok (.ldtN8 xo xd xa xl)
  | 94 =>
    let (xo, xd, xa, xl) := unpackM r
    .ok (.ldtN16 xo xd xa xl)
  | 95 =>
    let (xo, xd, xa, xl) := unpackM r
    .ok (.ldtI32 xo xd xa xl)
  | 96 =>
    let (xo, xd, xa, xl) := unpackM r
    .ok (.ldtI64 xo xd xa xl)
  | 97 =>
    let (xo, xd, xa, xl) := unpackM r
    .ok (.ldtB128 xo xd xa xl)
  | 98 =>
    let (xo, xd, xa, xl) := unpackM r
    .ok (.lddN8 xo xd xa xl)
  | 99 =>
    let (xo, xd, xa, xl) := unpackM r
    .ok (.lddN16 xo xd xa xl)
  | 100 =>
    let (xo, xd, xa, xl) := unpackM r
    .ok (.lddI32 xo xd xa xl)
  | 101 =>
    let (xo, xd, xa, xl) := unpackM r
    .ok (.lddI64 xo xd xa xl)
  | 102 =>
    let (xo, xd, xa, xl) := unpackM r
    .ok (.lddB128 xo xd xa xl)
  | 103 =>
    let (xo, xd, xw, xl) := unpackK r
    .ok (.ldk xo xd xw xl)
  | 104 =>
    let (xo, xd, xa, xl) := unpackM r
    if xl.extractLsb' 0 1 == 0#1 then .ok (.stg xo xd xa (xl.extractLsb' 1 3))
    else .error .reservedField
  | 105 =>
    let (xo, xd, xa, xl) := unpackM r
    if xl.extractLsb' 0 1 == 0#1 then .ok (.stt xo xd xa (xl.extractLsb' 1 3))
    else .error .reservedField
  | 106 =>
    let (xo, xd, xa, xl) := unpackM r
    if xl.extractLsb' 0 1 == 0#1 then .ok (.std xo xd xa (xl.extractLsb' 1 3))
    else .error .reservedField
  | 107 =>
    let (xo, xd, xw, xl) := unpackK r
    if xl == 0#4 then .ok (.stk xo xd xw)
    else .error .reservedField
  | 108 =>
    let (xo, xd, xa, xl) := unpackM r
    if xd == 0#7 && xl == 0#4 then .ok (.pref xo xa)
    else if xd == 1#7 && xl == 0#4 then .ok (.discard xo xa)
    else if xd == 2#7 && xl == 0#4 then .ok (.flush xo xa)
    else .error .reservedField
  | 109 =>
    let (xf, xd, xa, xb) := unpackA r
    if xf == 0#3 && xb.extractLsb' 0 2 == 0#2 then .ok (.aadd xd xa (xb.extractLsb' 3 4) (xb.extractLsb' 2 1))
    else if xf == 1#3 && xb.extractLsb' 0 1 == 0#1 then .ok (.amin xd xa (xb.extractLsb' 3 4) (xb.extractLsb' 2 1) (xb.extractLsb' 1 1))
    else if xf == 2#3 && xb.extractLsb' 0 1 == 0#1 then .ok (.amax xd xa (xb.extractLsb' 3 4) (xb.extractLsb' 2 1) (xb.extractLsb' 1 1))
    else if xf == 3#3 && xb.extractLsb' 0 2 == 0#2 then .ok (.aand xd xa (xb.extractLsb' 3 4) (xb.extractLsb' 2 1))
    else if xf == 4#3 && xb.extractLsb' 0 2 == 0#2 then .ok (.aor xd xa (xb.extractLsb' 3 4) (xb.extractLsb' 2 1))
    else if xf == 5#3 && xb.extractLsb' 0 2 == 0#2 then .ok (.axor xd xa (xb.extractLsb' 3 4) (xb.extractLsb' 2 1))
    else if xf == 6#3 && xb.extractLsb' 0 2 == 0#2 then .ok (.axch xd xa (xb.extractLsb' 3 4) (xb.extractLsb' 2 1))
    else if xf == 7#3 && xb.extractLsb' 0 2 == 0#2 then .ok (.acas xd xa (xb.extractLsb' 3 4) (xb.extractLsb' 2 1))
    else if xf == 0#3 && xb.extractLsb' 0 2 == 1#2 then .ok (.afadd xd xa (xb.extractLsb' 3 4) (xb.extractLsb' 2 1))
    else if xf == 1#3 && xb.extractLsb' 3 4 == 0#4 && xb.extractLsb' 0 2 == 1#2 then .ok (.tkfadd xd xa (xb.extractLsb' 2 1))
    else .error .reservedField
  | 110 =>
    let (xf, xx, xy, xz, xl, xg) := unpackT r
    if xf == 0#3 && xz == 0#5 && xl == 0#4 && xg == 0#2 then .ok (.tkreg xx xy)
    else if xf == 1#3 && xz == 0#5 && xl == 0#4 && xg == 0#2 then .ok (.tkskip xx xy)
    else if xf == 2#3 && xx == 0#5 && xy == 0#5 && xl == 0#4 && xg == 0#2 then .ok (.tkfence xz)
    else if xf == 3#3 && xz == 0#5 && xg == 0#2 then .ok (.tkqry xx xy xl)
    else .error .reservedField
  | 111 =>
    let (xf, xx, xy, xz, xl, xg) := unpackT r
    if xf == 0#3 && xx == 0#5 && xy == 0#5 && xl == 0#4 && xg == 1#2 then .ok (.fenceAcq xz)
    else if xf == 0#3 && xx == 0#5 && xy == 0#5 && xl == 0#4 && xg == 2#2 then .ok (.fenceRel xz)
    else if xf == 0#3 && xx == 0#5 && xy == 0#5 && xl == 0#4 && xg == 3#2 then .ok (.fenceAr xz)
    else if xf == 1#3 && xx == 0#5 && xy == 0#5 && xz == 0#5 && xl == 0#4 && xg == 0#2 then .ok (.bar)
    else if xf == 2#3 && xg == 0#2 then .ok (.barrive xx xy xz xl)
    else if xf == 3#3 && xl == 0#4 && xg == 0#2 then .ok (.bwait xx xy xz)
    else if xf == 4#3 && xl == 0#4 && xg == 0#2 then .ok (.btry xx xy xz)
    else if xf == 5#3 && xy == 0#5 && xl == 0#4 && xg == 0#2 then .ok (.waitptr xx xz)
    else if xf == 6#3 && xz == 0#5 && xl == 0#4 then .ok (.waitmem xx xy xg)
    else .error .reservedField
  | 112 =>
    let (xf, xx, xy, xz, xl, xg) := unpackT r
    if xf == 0#3 && xl == 0#4 && xg == 0#2 then .ok (.shape xx xy xz)
    else if xf == 1#3 && xy == 0#5 && xz == 0#5 && xl == 0#4 && xg == 0#2 then .ok (.shapeq xx)
    else .error .reservedField
  | 113 =>
    let (xf, xx, xy, xz, xl, xg) := unpackT r
    if xf.extractLsb' 1 2 == 0#2 then .ok (.mma (xf.extractLsb' 0 1) xx xy xz xl xg)
    else .error .reservedField
  | 114 =>
    let (xf, xx, xy, xz, xl, xg) := unpackT r
    if xf.extractLsb' 1 2 == 0#2 then .ok (.mmab (xf.extractLsb' 0 1) xx xy xz xl xg)
    else .error .reservedField
  | 115 =>
    let (xf, xx, xy, xz, xl, xg) := unpackT r
    if xg.extractLsb' 0 1 == 0#1 then .ok (.mdrain xf xx xy xz xl (xg.extractLsb' 1 1))
    else .error .reservedField
  | 116 =>
    let (xf, xx, xy, xz, xl, xg) := unpackT r
    if xf == 0#3 && xz == 0#5 && xg == 0#2 then .ok (.tzero xx xy xl)
    else .error .reservedField
  | 117 =>
    let (xf, xx, xy, xz, xl, xg) := unpackT r
    if xf == 0#3 && xz == 0#5 && xg == 0#2 then .ok (.trot xx xy xl)
    else .error .reservedField
  | 118 =>
    let (xf, xx, xy, xz, xl, xg) := unpackT r
    if xf == 0#3 && xg == 0#2 then .ok (.tcpy xx xy xz xl)
    else if xf == 1#3 && xg == 0#2 then .ok (.tcpyw xx xy xz xl)
    else .error .reservedField
  | 119 =>
    let (xf, xx, xy, xz, xl, xg) := unpackT r
    if xf == 0#3 && xz == 0#5 && xl == 0#4 && xg == 0#2 then .ok (.tdset xx xy)
    else if xf == 1#3 && xz == 0#5 && xl == 0#4 && xg == 0#2 then .ok (.tdget xx xy)
    else if xf == 2#3 && xy == 0#5 && xz == 0#5 && xl == 0#4 && xg == 0#2 then .ok (.tdinv xx)
    else .error .reservedField
  | 120 =>
    let (xf, xx, xy, xz, xl, xg) := unpackT r
    if xg == 0#2 then .ok (.tscl xf xx xy xz xl)
    else .error .reservedField
  | 124 =>
    let (xf, xx, xy, xz, xl, xg) := unpackT r
    if xf == 0#3 && xz == 0#5 && xg == 0#2 then .ok (.glaunch xx xy xl)
    else if xf == 1#3 && xy == 0#5 && xz == 0#5 && xl == 0#4 && xg == 0#2 then .ok (.gwait xx)
    else if xf == 1#3 && xy == 0#5 && xz == 0#5 && xl == 0#4 && xg == 1#2 then .ok (.gwaitTry xx)
    else .error .reservedField
  | 125 =>
    let (xf, xx, xy, xz, xl, xg) := unpackT r
    if xf == 0#3 && xz == 0#5 && xg == 0#2 then .ok (.gnode xx xy xl)
    else if xf == 1#3 && xz == 0#5 && xg == 0#2 then .ok (.tapepush xx xy xl)
    else .error .reservedField
  | 126 =>
    let (xf, xx, xy, xz, xl, xg) := unpackT r
    if xf == 0#3 && xz == 0#5 && xg == 0#2 then .ok (.fqpost xx xy xl)
    else .error .reservedField
  | 127 =>
    let xn := unpackP r
    .ok (.poolMarker xn)
  | _ => .error .illegalOpcode

/-- R150 steps 3 and 4: an all-zero word is no instruction; the field checks follow the selectors. -/
def decodeCore (w : W32) (lit : Option W32) : Except DecodeError Instr :=
  if w == 0#32 then .error .illegalOpcode
  else match rawDecode w lit with
    | .error e => .error e
    | .ok i => if i.wf then .ok i else .error .reservedField

/-- R302, R303: the instruction that a Zilkan word names before the checks on its values. That CTL[14:5] of ZWAIT, which R328 does not name, counts as
reserved is the model's choice (log 55). -/
def rawZilkan (w : W32) : Except DecodeError Instr :=
  let r := zRestOf w
  match (zOpOf w).toNat with
  | 1 =>
    let (xd, xh, xr, xm) := unpackZL r
    if xr == 0#5 then .ok (.zli xd xh xm)
    else .error .zilkanDecode
  | 2 =>
    let (xd, xa, xb, xi, xm) := unpackZA r
    .ok (.zadd xd xa xb xi xm)
  | 3 =>
    let (xd, xa, xb, xi, xm) := unpackZA r
    .ok (.zsub xd xa xb xi xm)
  | 4 =>
    let (xd, xa, xb, xi, xm) := unpackZA r
    .ok (.zshl xd xa xb xi xm)
  | 5 =>
    let (xd, xa, xb, xi, xm) := unpackZA r
    .ok (.zand xd xa xb xi xm)
  | 6 =>
    let (xc, xa, xb, xo) := unpackZJ r
    .ok (.zbr xc xa xb xo)
  | 7 =>
    let (xd, xr, xo) := unpackZN r
    if xr == 0#7 then .ok (.zloop xd xo)
    else .error .zilkanDecode
  | 8 =>
    let (xd, xa, xw, xo) := unpackZM r
    .ok (.zld xd xa xw xo)
  | 9 =>
    let (xd, xa, xw, xo) := unpackZM r
    .ok (.zst xd xa xw xo)
  | 10 =>
    let (xd, xa, xb, xt) := unpackZG r
    if xb == 0#4 && xt.extractLsb' 4 11 == 0#11 then .ok (.zsend xd xa (xt.extractLsb' 0 4))
    else .error .zilkanDecode
  | 11 =>
    let (xd, xa, xb, xt) := unpackZG r
    if xt.extractLsb' 4 11 == 0#11 then .ok (.zags xd xa xb (xt.extractLsb' 0 4))
    else .error .zilkanDecode
  | 12 =>
    let (xd, xa, xb, xt) := unpackZG r
    if xb == 0#4 && xt.extractLsb' 5 10 == 0#10 && xt.extractLsb' 0 4 == 0#4 then .ok (.zfetch xd xa (xt.extractLsb' 4 1))
    else .error .zilkanDecode
  | 13 =>
    let (xd, xa, xb, xt) := unpackZG r
    if xb == 0#4 && xt == 0#15 then .ok (.zckpt xd xa)
    else .error .zilkanDecode
  | 14 =>
    let (xd, xa, xb, xt) := unpackZG r
    if xb == 0#4 && xt.extractLsb' 5 10 == 0#10 then .ok (.zclone xd xa (xt.extractLsb' 4 1) (xt.extractLsb' 0 4))
    else .error .zilkanDecode
  | 15 =>
    let (xd, xa, xb, xt) := unpackZG r
    if xt == 0#15 then .ok (.zqnt xd xa xb)
    else .error .zilkanDecode
  | 16 =>
    let (xd, xa, xb, xt) := unpackZG r
    if xt == 0#15 then .ok (.zrsc xd xa xb)
    else .error .zilkanDecode
  | 17 =>
    let (xd, xa, xb, xt) := unpackZG r
    if xb == 0#4 && xt == 0#15 then .ok (.zrsf xd xa)
    else .error .zilkanDecode
  | 18 =>
    let (xd, xa, xb, xt) := unpackZG r
    if xb == 0#4 && xt == 0#15 then .ok (.zdqa xd xa)
    else .error .zilkanDecode
  | 19 =>
    let (xd, xa, xb, xt) := unpackZG r
    if xb == 0#4 && xt.extractLsb' 4 11 == 0#11 then .ok (.zwaitBar xd xa (xt.extractLsb' 0 4))
    else if xb == 0#4 && xt.extractLsb' 4 11 == 1#11 then .ok (.zwaitFlag xd xa (xt.extractLsb' 0 4))
    else .error .zilkanDecode
  | 20 =>
    let (xd, xa, xb, xt) := unpackZG r
    if xt.extractLsb' 12 3 == 0#3 && xt.extractLsb' 4 4 == 0#4 then .ok (.zsig xd xa xb (xt.extractLsb' 8 4) (xt.extractLsb' 0 4))
    else if xd == 0#4 && xt.extractLsb' 12 3 == 0#3 && xt.extractLsb' 4 4 == 1#4 then .ok (.zsigRemote xa xb (xt.extractLsb' 8 4) (xt.extractLsb' 0 4))
    else .error .zilkanDecode
  | 21 =>
    let (_, _, _, xt) := unpackZG r
    if xt.extractLsb' 4 11 == 1#11 then .ok (.zfenceAcq (xt.extractLsb' 0 4))
    else if xt.extractLsb' 4 11 == 2#11 then .ok (.zfenceRel (xt.extractLsb' 0 4))
    else if xt.extractLsb' 4 11 == 3#11 then .ok (.zfenceAr (xt.extractLsb' 0 4))
    else .error .zilkanDecode
  | 22 =>
    let (xd, xr, xo) := unpackZN r
    if xr == 0#7 && xo == 0#16 then .ok (.zcyc xd)
    else .error .zilkanDecode
  | 23 =>
    let (xd, xr, xo) := unpackZN r
    if xd == 0#4 && xr == 0#7 then .ok (.ztrap xo)
    else .error .zilkanDecode
  | 24 =>
    let (xd, xr, xo) := unpackZN r
    if xd == 0#4 && xr == 0#7 && xo == 0#16 then .ok (.zhalt)
    else .error .zilkanDecode
  | _ => .error .zilkanDecode

/-- R304: a Zilkan word, or ZILKAN-DECODE. -/
def decodeZilkan (w : W32) : Except DecodeError Instr :=
  match rawZilkan w with
  | .error e => .error e
  | .ok i => if i.wf then .ok i else .error .zilkanDecode

/-- The first word of a core instruction with chain bit c (R141 to R147, R151 to R157), or a Zilkan word (R302, R303).
The module's events have no word; they give the all-zero word, which is no instruction. -/
def encode (c : BitVec 1) (i : Instr) : W32 :=
  match i with
  | .bra p n o => packCore c 0x1#7 (packJ p n o)
  | .call p n o => packCore c 0x2#7 (packJ p n o)
  | .brx a => packCore c 0x3#7 (packT 0#3 0#5 a 0#5 0#4 0#2)
  | .callx a => packCore c 0x3#7 (packT 1#3 0#5 a 0#5 0#4 0#2)
  | .nop => packCore c 0x4#7 (packA 0#3 0#7 0#7 0#7)
  | .land => packCore c 0x4#7 (packA 1#3 0#7 0#7 0#7)
  | .rejoin => packCore c 0x4#7 (packA 2#3 0#7 0#7 0#7)
  | .ret => packCore c 0x4#7 (packA 3#3 0#7 0#7 0#7)
  | .exit => packCore c 0x4#7 (packA 4#3 0#7 0#7 0#7)
  | .yield => packCore c 0x4#7 (packA 5#3 0#7 0#7 0#7)
  | .melse => packCore c 0x4#7 (packA 6#3 0#7 0#7 0#7)
  | .mpop => packCore c 0x4#7 (packA 7#3 0#7 0#7 0#7)
  | .mpush f => packCore c 0x5#7 (packA f 0#7 0#7 0#7)
  | .sleep i => packCore c 0x6#7 (packL i 0#7)
  | .trap i => packCore c 0x7#7 (packL i 0#7)
  | .brk i => packCore c 0x8#7 (packL i 0#7)
  | .sysrd f d b => packCore c 0x9#7 (packA (0#2 ++ f) d 0#7 b)
  | .syswr n a => packCore c 0xa#7 (packT 0#3 n a 0#5 0#4 0#2)
  | .cntrd d n => packCore c 0xb#7 (packT 0#3 d (0#3 ++ n) 0#5 0#4 0#2)
  | .srkey k a => packCore c 0xc#7 (packT 0#3 (0#1 ++ k) a 0#5 0#4 0#2)
  | .srstep a => packCore c 0xc#7 (packT 1#3 0#5 a 0#5 0#4 0#2)
  | .iadd f d a b => packCore c 0x10#7 (packA (0#1 ++ f) d a b)
  | .isub f d a b => packCore c 0x11#7 (packA (0#1 ++ f) d a b)
  | .iaddi i d a => packCore c 0x12#7 (packB i d a)
  | .imul f d a b => packCore c 0x13#7 (packA (0#1 ++ f) d a b)
  | .imulh f d a b => packCore c 0x14#7 (packA f d a b)
  | .imad f d a b => packCore c 0x15#7 (packA (0#1 ++ f) d a b)
  | .imin f d a b => packCore c 0x16#7 (packA (0#2 ++ f) d a b)
  | .imax f d a b => packCore c 0x16#7 (packA (1#2 ++ f) d a b)
  | .iabs f d a => packCore c 0x17#7 (packA (0#2 ++ f) d a 0#7)
  | .icmp f d a b => packCore c 0x18#7 (packA f (0#4 ++ d) a b)
  | .isel f d a b => packCore c 0x19#7 (packA f d a b)
  | .shl d a b => packCore c 0x1a#7 (packA 0#3 d a b)
  | .shr d a b => packCore c 0x1a#7 (packA 1#3 d a b)
  | .sar d a b => packCore c 0x1a#7 (packA 2#3 d a b)
  | .rol d a b => packCore c 0x1a#7 (packA 3#3 d a b)
  | .shli d a k => packCore c 0x1b#7 (packB (0#5 ++ k) d a)
  | .shri d a k => packCore c 0x1b#7 (packB (1#5 ++ k) d a)
  | .sari d a k => packCore c 0x1b#7 (packB (2#5 ++ k) d a)
  | .and d a b => packCore c 0x1c#7 (packA 0#3 d a b)
  | .or d a b => packCore c 0x1c#7 (packA 1#3 d a b)
  | .xor d a b => packCore c 0x1c#7 (packA 2#3 d a b)
  | .andn d a b => packCore c 0x1c#7 (packA 3#3 d a b)
  | .andi i d a => packCore c 0x1d#7 (packB i d a)
  | .ori i d a => packCore c 0x1e#7 (packB i d a)
  | .xori i d a => packCore c 0x1f#7 (packB i d a)
  | .clz d a => packCore c 0x20#7 (packA 0#3 d a 0#7)
  | .popc d a => packCore c 0x20#7 (packA 1#3 d a 0#7)
  | .brev d a => packCore c 0x20#7 (packA 2#3 d a 0#7)
  | .bfx s d a b => packCore c 0x21#7 (packA (0#2 ++ s) d a b)
  | .bfi d a b => packCore c 0x21#7 (packA 2#3 d a b)
  | .mov d a => packCore c 0x22#7 (packA 0#3 d a 0#7)
  | .movi i d => packCore c 0x23#7 (packL i d)
  | .movl d _ => packCore c 0x24#7 (packL 0#17 d)
  | .movs d a => packCore c 0x25#7 (packA 0#3 d (0#2 ++ a) 0#7)
  | .smov d a l => packCore c 0x26#7 (packA 0#3 (0#2 ++ d) a (0#5 ++ l))
  | .smovi d i => packCore c 0x27#7 (packS 0#3 d 0#5 i)
  | .smoviLiteral d _ => packCore c 0x27#7 (packS 4#3 d 0#5 0#11)
  | .sadd d a b => packCore c 0x28#7 (packT 0#3 d a b 0#4 0#2)
  | .saddi d a i => packCore c 0x29#7 (packS 0#3 d a i)
  | .saddiLiteral d a _ => packCore c 0x29#7 (packS 4#3 d a 0#11)
  | .sand d a b => packCore c 0x2a#7 (packT 0#3 d a b 0#4 0#2)
  | .sshl d a n k => packCore c 0x2b#7 (packS 0#3 d a (0#4 ++ n ++ k))
  | .padd f d a b => packCore c 0x30#7 (packA f d a b)
  | .psub f d a b => packCore c 0x31#7 (packA f d a b)
  | .pmin w n d a b => packCore c 0x32#7 (packA (w ++ 0#1 ++ n) d a b)
  | .pmax w n d a b => packCore c 0x32#7 (packA (w ++ 1#1 ++ n) d a b)
  | .pabd w n d a b => packCore c 0x33#7 (packA (w ++ 0#1 ++ n) d a b)
  | .pavg w n d a b => packCore c 0x33#7 (packA (w ++ 1#1 ++ n) d a b)
  | .pmul w n d a b => packCore c 0x34#7 (packA (w ++ 0#1 ++ n) d a b)
  | .pmulh w n d a b => packCore c 0x34#7 (packA (w ++ 1#1 ++ n) d a b)
  | .pshl w d a b => packCore c 0x35#7 (packA (w ++ 0#2) d a b)
  | .pshr w s d a b => packCore c 0x35#7 (packA (w ++ 1#1 ++ s) d a b)
  | .pacs f d a b => packCore c 0x36#7 (packA f d a b)
  | .dot4 f d a b => packCore c 0x37#7 (packA f d a b)
  | .dot8 f d a b => packCore c 0x38#7 (packA (0#1 ++ f) d a b)
  | .dot2 f d a b => packCore c 0x38#7 (packA (1#1 ++ f) d a b)
  | .ppack w d a b => packCore c 0x39#7 (packA (0#1 ++ w) d a b)
  | .punpk w d a b => packCore c 0x39#7 (packA (1#1 ++ w) d a b)
  | .tbl n x d a => packCore c 0x3a#7 (packB (n ++ x) d a)
  | .shfl f d a b => packCore c 0x3b#7 (packA f d a b)
  | .scan d a s e o => packCore c 0x3c#7 (packA 0#3 d a (s ++ e ++ 0#2 ++ o))
  | .red d a s o => packCore c 0x3c#7 (packA 1#3 d a (s ++ 0#3 ++ o))
  | .voteAny s d a => packCore c 0x3d#7 (packA (s ++ 0#2) (0#4 ++ d) (0#4 ++ a) 0#7)
  | .voteAll s d a => packCore c 0x3d#7 (packA (s ++ 1#2) (0#4 ++ d) (0#4 ++ a) 0#7)
  | .voteCount s d a => packCore c 0x3d#7 (packA (s ++ 2#2) d (0#4 ++ a) 0#7)
  | .votePack s d a => packCore c 0x3d#7 (packA (s ++ 2#2) d (0#4 ++ a) 1#7)
  | .matchLanes s d a => packCore c 0x3d#7 (packA (s ++ 3#2) d a 0#7)
  | .plog f d a b => packCore c 0x3e#7 (packA f (0#4 ++ d) (0#4 ++ a) (0#4 ++ b))
  | .pmovPredicateFromRegister d a => packCore c 0x3f#7 (packA 0#3 (0#4 ++ d) a 0#7)
  | .pmovRegisterFromPredicate d a => packCore c 0x3f#7 (packA 1#3 d (0#4 ++ a) 0#7)
  | .pmovPredicateFromPredicate d a => packCore c 0x3f#7 (packA 2#3 (0#4 ++ d) (0#4 ++ a) 0#7)
  | .fadd f d a b => packCore c 0x40#7 (packA f d a b)
  | .fsub f d a b => packCore c 0x41#7 (packA f d a b)
  | .fmul f d a b => packCore c 0x42#7 (packA f d a b)
  | .ffma f d a b => packCore c 0x43#7 (packA f d a b)
  | .fmin d a b => packCore c 0x44#7 (packA 0#3 d a b)
  | .fmax d a b => packCore c 0x44#7 (packA 1#3 d a b)
  | .fabs d a => packCore c 0x45#7 (packA 0#3 d a 0#7)
  | .fneg d a => packCore c 0x45#7 (packA 1#3 d a 0#7)
  | .fcmp f d a b => packCore c 0x46#7 (packA f (0#4 ++ d) a b)
  | .fclass d a => packCore c 0x47#7 (packA 0#3 d a 0#7)
  | .fscale f d a b => packCore c 0x48#7 (packA f d a b)
  | .frcp d a l => packCore c 0x49#7 (packA 0#3 d a (0#3 ++ l))
  | .frsq d a l => packCore c 0x49#7 (packA 1#3 d a (0#3 ++ l))
  | .fsqrt d a l => packCore c 0x49#7 (packA 2#3 d a (0#3 ++ l))
  | .fexp2 d a l => packCore c 0x49#7 (packA 3#3 d a (0#3 ++ l))
  | .flog2 d a l => packCore c 0x49#7 (packA 4#3 d a (0#3 ++ l))
  | .fsin d a l => packCore c 0x49#7 (packA 5#3 d a (0#3 ++ l))
  | .fcos d a l => packCore c 0x49#7 (packA 6#3 d a (0#3 ++ l))
  | .ftanh d a l => packCore c 0x49#7 (packA 7#3 d a (0#3 ++ l))
  | .bfadd2 f d a b => packCore c 0x4a#7 (packA f d a b)
  | .bfmul2 f d a b => packCore c 0x4b#7 (packA f d a b)
  | .bffma2 f d a b => packCore c 0x4c#7 (packA f d a b)
  | .cvtFloatToFloat f d a t s k => packCore c 0x4d#7 (packA f d a (t ++ s ++ k))
  | .cvtFloatToInteger f d a t s k => packCore c 0x4e#7 (packA f d a (t ++ s ++ k))
  | .cvtIntegerToFloat f d a t s k => packCore c 0x4f#7 (packA f d a (t ++ s ++ k))
  | .cvtIntegerToInteger f d a t s k => packCore c 0x50#7 (packA f d a (t ++ s ++ k))
  | .sclx d a t => packCore c 0x51#7 (packA 0#3 d a (t ++ 0#4))
  | .lsupd d => packCore c 0x52#7 (packA 0#3 (0#2 ++ d) 0#7 0#7)
  | .ldgN8 o d a l => packCore c 0x58#7 (packM o d a l)
  | .ldgN16 o d a l => packCore c 0x59#7 (packM o d a l)
  | .ldgI32 o d a l => packCore c 0x5a#7 (packM o d a l)
  | .ldgI64 o d a l => packCore c 0x5b#7 (packM o d a l)
  | .ldgB128 o d a l => packCore c 0x5c#7 (packM o d a l)
  | .ldtN8 o d a l => packCore c 0x5d#7 (packM o d a l)
  | .ldtN16 o d a l => packCore c 0x5e#7 (packM o d a l)
  | .ldtI32 o d a l => packCore c 0x5f#7 (packM o d a l)
  | .ldtI64 o d a l => packCore c 0x60#7 (packM o d a l)
  | .ldtB128 o d a l => packCore c 0x61#7 (packM o d a l)
  | .lddN8 o d a l => packCore c 0x62#7 (packM o d a l)
  | .lddN16 o d a l => packCore c 0x63#7 (packM o d a l)
  | .lddI32 o d a l => packCore c 0x64#7 (packM o d a l)
  | .lddI64 o d a l => packCore c 0x65#7 (packM o d a l)
  | .lddB128 o d a l => packCore c 0x66#7 (packM o d a l)
  | .ldk o d w l => packCore c 0x67#7 (packK o d w l)
  | .stg o d a w => packCore c 0x68#7 (packM o d a (w ++ 0#1))
  | .stt o d a w => packCore c 0x69#7 (packM o d a (w ++ 0#1))
  | .std o d a w => packCore c 0x6a#7 (packM o d a (w ++ 0#1))
  | .stk o d w => packCore c 0x6b#7 (packK o d w 0#4)
  | .pref o a => packCore c 0x6c#7 (packM o 0#7 a 0#4)
  | .discard o a => packCore c 0x6c#7 (packM o 1#7 a 0#4)
  | .flush o a => packCore c 0x6c#7 (packM o 2#7 a 0#4)
  | .aadd d a l w => packCore c 0x6d#7 (packA 0#3 d a (l ++ w ++ 0#2))
  | .amin d a l w n => packCore c 0x6d#7 (packA 1#3 d a (l ++ w ++ n ++ 0#1))
  | .amax d a l w n => packCore c 0x6d#7 (packA 2#3 d a (l ++ w ++ n ++ 0#1))
  | .aand d a l w => packCore c 0x6d#7 (packA 3#3 d a (l ++ w ++ 0#2))
  | .aor d a l w => packCore c 0x6d#7 (packA 4#3 d a (l ++ w ++ 0#2))
  | .axor d a l w => packCore c 0x6d#7 (packA 5#3 d a (l ++ w ++ 0#2))
  | .axch d a l w => packCore c 0x6d#7 (packA 6#3 d a (l ++ w ++ 0#2))
  | .acas d a l w => packCore c 0x6d#7 (packA 7#3 d a (l ++ w ++ 0#2))
  | .afadd d a l w => packCore c 0x6d#7 (packA 0#3 d a (l ++ w ++ 1#2))
  | .tkfadd d a w => packCore c 0x6d#7 (packA 1#3 d a (0#4 ++ w ++ 1#2))
  | .tkreg x y => packCore c 0x6e#7 (packT 0#3 x y 0#5 0#4 0#2)
  | .tkskip x y => packCore c 0x6e#7 (packT 1#3 x y 0#5 0#4 0#2)
  | .tkfence z => packCore c 0x6e#7 (packT 2#3 0#5 0#5 z 0#4 0#2)
  | .tkqry x y l => packCore c 0x6e#7 (packT 3#3 x y 0#5 l 0#2)
  | .fenceAcq z => packCore c 0x6f#7 (packT 0#3 0#5 0#5 z 0#4 1#2)
  | .fenceRel z => packCore c 0x6f#7 (packT 0#3 0#5 0#5 z 0#4 2#2)
  | .fenceAr z => packCore c 0x6f#7 (packT 0#3 0#5 0#5 z 0#4 3#2)
  | .bar => packCore c 0x6f#7 (packT 1#3 0#5 0#5 0#5 0#4 0#2)
  | .barrive x y z l => packCore c 0x6f#7 (packT 2#3 x y z l 0#2)
  | .bwait x y z => packCore c 0x6f#7 (packT 3#3 x y z 0#4 0#2)
  | .btry x y z => packCore c 0x6f#7 (packT 4#3 x y z 0#4 0#2)
  | .waitptr x z => packCore c 0x6f#7 (packT 5#3 x 0#5 z 0#4 0#2)
  | .waitmem x y g => packCore c 0x6f#7 (packT 6#3 x y 0#5 0#4 g)
  | .shape x y z => packCore c 0x70#7 (packT 0#3 x y z 0#4 0#2)
  | .shapeq x => packCore c 0x70#7 (packT 1#3 x 0#5 0#5 0#4 0#2)
  | .mma f x y z l g => packCore c 0x71#7 (packT (0#2 ++ f) x y z l g)
  | .mmab f x y z l g => packCore c 0x72#7 (packT (0#2 ++ f) x y z l g)
  | .mdrain f x y z l g => packCore c 0x73#7 (packT f x y z l (g ++ 0#1))
  | .tzero x y l => packCore c 0x74#7 (packT 0#3 x y 0#5 l 0#2)
  | .trot x y l => packCore c 0x75#7 (packT 0#3 x y 0#5 l 0#2)
  | .tcpy x y z l => packCore c 0x76#7 (packT 0#3 x y z l 0#2)
  | .tcpyw x y z l => packCore c 0x76#7 (packT 1#3 x y z l 0#2)
  | .tdset x y => packCore c 0x77#7 (packT 0#3 x y 0#5 0#4 0#2)
  | .tdget x y => packCore c 0x77#7 (packT 1#3 x y 0#5 0#4 0#2)
  | .tdinv x => packCore c 0x77#7 (packT 2#3 x 0#5 0#5 0#4 0#2)
  | .tscl f x y z l => packCore c 0x78#7 (packT f x y z l 0#2)
  | .glaunch x y l => packCore c 0x7c#7 (packT 0#3 x y 0#5 l 0#2)
  | .gwait x => packCore c 0x7c#7 (packT 1#3 x 0#5 0#5 0#4 0#2)
  | .gwaitTry x => packCore c 0x7c#7 (packT 1#3 x 0#5 0#5 0#4 1#2)
  | .gnode x y l => packCore c 0x7d#7 (packT 0#3 x y 0#5 l 0#2)
  | .tapepush x y l => packCore c 0x7d#7 (packT 1#3 x y 0#5 l 0#2)
  | .fqpost x y l => packCore c 0x7e#7 (packT 0#3 x y 0#5 l 0#2)
  | .poolMarker n => packCore c 0x7f#7 (packP n)
  | .zli d h m => packZilkan 0x1#5 (packZL d h 0#5 m)
  | .zadd d a b i m => packZilkan 0x2#5 (packZA d a b i m)
  | .zsub d a b i m => packZilkan 0x3#5 (packZA d a b i m)
  | .zshl d a b i m => packZilkan 0x4#5 (packZA d a b i m)
  | .zand d a b i m => packZilkan 0x5#5 (packZA d a b i m)
  | .zbr k a b o => packZilkan 0x6#5 (packZJ k a b o)
  | .zloop a o => packZilkan 0x7#5 (packZN a 0#7 o)
  | .zld d a w o => packZilkan 0x8#5 (packZM d a w o)
  | .zst d a w o => packZilkan 0x9#5 (packZM d a w o)
  | .zsend d a w => packZilkan 0xa#5 (packZG d a 0#4 (0#11 ++ w))
  | .zags d a b w => packZilkan 0xb#5 (packZG d a b (0#11 ++ w))
  | .zfetch d a t => packZilkan 0xc#5 (packZG d a 0#4 (0#10 ++ t ++ 0#4))
  | .zckpt d a => packZilkan 0xd#5 (packZG d a 0#4 0#15)
  | .zclone d a r w => packZilkan 0xe#5 (packZG d a 0#4 (0#10 ++ r ++ w))
  | .zqnt d a b => packZilkan 0xf#5 (packZG d a b 0#15)
  | .zrsc d a b => packZilkan 0x10#5 (packZG d a b 0#15)
  | .zrsf d a => packZilkan 0x11#5 (packZG d a 0#4 0#15)
  | .zdqa d a => packZilkan 0x12#5 (packZG d a 0#4 0#15)
  | .zwaitBar d a s => packZilkan 0x13#5 (packZG d a 0#4 (0#11 ++ s))
  | .zwaitFlag d a s => packZilkan 0x13#5 (packZG d a 0#4 (1#11 ++ s))
  | .zsig d a b w s => packZilkan 0x14#5 (packZG d a b (0#3 ++ w ++ 0#4 ++ s))
  | .zsigRemote a b w s => packZilkan 0x14#5 (packZG 0#4 a b (0#3 ++ w ++ 1#4 ++ s))
  | .zfenceAcq s => packZilkan 0x15#5 (packZG 0#4 0#4 0#4 (1#11 ++ s))
  | .zfenceRel s => packZilkan 0x15#5 (packZG 0#4 0#4 0#4 (2#11 ++ s))
  | .zfenceAr s => packZilkan 0x15#5 (packZG 0#4 0#4 0#4 (3#11 ++ s))
  | .zcyc d => packZilkan 0x16#5 (packZN d 0#7 0#16)
  | .ztrap m => packZilkan 0x17#5 (packZN 0#4 0#7 m)
  | .zhalt => packZilkan 0x18#5 (packZN 0#4 0#7 0#16)
  | .moduleReset => 0#32
  | .hernusBoot => 0#32
  | .linkTraining => 0#32
  | .overtempReset => 0#32
  | .throttleStepDown => 0#32
  | .throttleStepUp => 0#32
  | .functionLevelReset _ => 0#32
  | .tdiError _ => 0#32
  | .hostPostedWrite _ _ _ => 0#32
  | .hostRead _ _ _ => 0#32
  | .registerWrite _ _ _ => 0#32
  | .posttailWrite _ _ _ => 0#32
  | .cplheadWrite _ _ _ => 0#32
  | .streamEnable _ _ => 0#32
  | .fqheadWrite _ _ => 0#32
  | .mrheadWrite _ _ => 0#32
  | .mstailWrite _ _ => 0#32
  | .winload _ _ => 0#32
  | .inval _ _ _ => 0#32
  | .resume _ _ => 0#32
  | .terminate _ _ => 0#32
  | .termgrid _ _ => 0#32
  | .create _ _ _ _ _ _ => 0#32
  | .setgrant _ _ _ => 0#32
  | .destroy _ _ => 0#32
  | .attest _ _ _ => 0#32
  | .logread _ => 0#32
  | .fusedSvnRaise _ _ => 0#32
  | .nodeAppend _ => 0#32
  | .teamStart _ _ => 0#32
  | .collectiveStart _ => 0#32
  | .transformNodeStart _ => 0#32
  | .copyNode _ => 0#32
  | .signalNode _ => 0#32
  | .tapeNodeStart _ => 0#32
  | .tapePop _ => 0#32
  | .teamEnd _ => 0#32
  | .gridRetirement _ => 0#32
  | .nodeCompletion _ => 0#32
  | .quantumEnd _ => 0#32
  | .loadDataReturn _ _ _ => 0#32
  | .bunchConvergence _ _ => 0#32
  | .rejoinHoldEnd _ _ => 0#32
  | .sleepEnd _ _ => 0#32
  | .watchdog _ _ => 0#32
  | .bwaitCompletion _ _ => 0#32
  | .waitmemCompletion _ _ => 0#32
  | .zwaitCompletion _ => 0#32
  | .matrixCommandStart _ => 0#32
  | .matrixCommandCompletion _ => 0#32
  | .trotRotation _ => 0#32
  | .copyCommandStart _ _ => 0#32
  | .copyGranuleDelivery _ _ => 0#32
  | .ticketUpdateAccept _ => 0#32
  | .ticketGap _ _ _ => 0#32
  | .transformGranuleWrite _ => 0#32
  | .transformInputArrival _ _ _ => 0#32
  | .transformInputTimeout _ => 0#32
  | .transferAcknowledgement _ _ _ => 0#32
  | .waitedTransferCompletion _ _ _ => 0#32
  | .rmaWriteArrival _ _ _ _ _ => 0#32
  | .rmaReadArrival _ _ _ _ _ => 0#32
  | .remoteArrival _ _ _ _ _ => 0#32
  | .managementReceive _ _ _ _ => 0#32
  | .managementSendCompletion _ _ => 0#32
  | .collectiveTimeout _ => 0#32
  | .hbmPatrolScrub _ => 0#32
  | .counterCarry _ _ _ _ => 0#32
  | .packetRetransmission _ => 0#32
  | .nodeBarrierWaitMet _ => 0#32
  | .postedTransferLocalCompletion _ _ => 0#32

/-- The literal word that follows a literal-carrying instruction (R137). -/
def literalOf (i : Instr) : Option W32 :=
  match i with
  | .movl _ v => some v
  | .smoviLiteral _ v => some v
  | .saddiLiteral _ _ v => some v
  | .bra _ _ _ => none
  | .call _ _ _ => none
  | .brx _ => none
  | .callx _ => none
  | .nop => none
  | .land => none
  | .rejoin => none
  | .ret => none
  | .exit => none
  | .yield => none
  | .melse => none
  | .mpop => none
  | .mpush _ => none
  | .sleep _ => none
  | .trap _ => none
  | .brk _ => none
  | .sysrd _ _ _ => none
  | .syswr _ _ => none
  | .cntrd _ _ => none
  | .srkey _ _ => none
  | .srstep _ => none
  | .iadd _ _ _ _ => none
  | .isub _ _ _ _ => none
  | .iaddi _ _ _ => none
  | .imul _ _ _ _ => none
  | .imulh _ _ _ _ => none
  | .imad _ _ _ _ => none
  | .imin _ _ _ _ => none
  | .imax _ _ _ _ => none
  | .iabs _ _ _ => none
  | .icmp _ _ _ _ => none
  | .isel _ _ _ _ => none
  | .shl _ _ _ => none
  | .shr _ _ _ => none
  | .sar _ _ _ => none
  | .rol _ _ _ => none
  | .shli _ _ _ => none
  | .shri _ _ _ => none
  | .sari _ _ _ => none
  | .and _ _ _ => none
  | .or _ _ _ => none
  | .xor _ _ _ => none
  | .andn _ _ _ => none
  | .andi _ _ _ => none
  | .ori _ _ _ => none
  | .xori _ _ _ => none
  | .clz _ _ => none
  | .popc _ _ => none
  | .brev _ _ => none
  | .bfx _ _ _ _ => none
  | .bfi _ _ _ => none
  | .mov _ _ => none
  | .movi _ _ => none
  | .movs _ _ => none
  | .smov _ _ _ => none
  | .smovi _ _ => none
  | .sadd _ _ _ => none
  | .saddi _ _ _ => none
  | .sand _ _ _ => none
  | .sshl _ _ _ _ => none
  | .padd _ _ _ _ => none
  | .psub _ _ _ _ => none
  | .pmin _ _ _ _ _ => none
  | .pmax _ _ _ _ _ => none
  | .pabd _ _ _ _ _ => none
  | .pavg _ _ _ _ _ => none
  | .pmul _ _ _ _ _ => none
  | .pmulh _ _ _ _ _ => none
  | .pshl _ _ _ _ => none
  | .pshr _ _ _ _ _ => none
  | .pacs _ _ _ _ => none
  | .dot4 _ _ _ _ => none
  | .dot8 _ _ _ _ => none
  | .dot2 _ _ _ _ => none
  | .ppack _ _ _ _ => none
  | .punpk _ _ _ _ => none
  | .tbl _ _ _ _ => none
  | .shfl _ _ _ _ => none
  | .scan _ _ _ _ _ => none
  | .red _ _ _ _ => none
  | .voteAny _ _ _ => none
  | .voteAll _ _ _ => none
  | .voteCount _ _ _ => none
  | .votePack _ _ _ => none
  | .matchLanes _ _ _ => none
  | .plog _ _ _ _ => none
  | .pmovPredicateFromRegister _ _ => none
  | .pmovRegisterFromPredicate _ _ => none
  | .pmovPredicateFromPredicate _ _ => none
  | .fadd _ _ _ _ => none
  | .fsub _ _ _ _ => none
  | .fmul _ _ _ _ => none
  | .ffma _ _ _ _ => none
  | .fmin _ _ _ => none
  | .fmax _ _ _ => none
  | .fabs _ _ => none
  | .fneg _ _ => none
  | .fcmp _ _ _ _ => none
  | .fclass _ _ => none
  | .fscale _ _ _ _ => none
  | .frcp _ _ _ => none
  | .frsq _ _ _ => none
  | .fsqrt _ _ _ => none
  | .fexp2 _ _ _ => none
  | .flog2 _ _ _ => none
  | .fsin _ _ _ => none
  | .fcos _ _ _ => none
  | .ftanh _ _ _ => none
  | .bfadd2 _ _ _ _ => none
  | .bfmul2 _ _ _ _ => none
  | .bffma2 _ _ _ _ => none
  | .cvtFloatToFloat _ _ _ _ _ _ => none
  | .cvtFloatToInteger _ _ _ _ _ _ => none
  | .cvtIntegerToFloat _ _ _ _ _ _ => none
  | .cvtIntegerToInteger _ _ _ _ _ _ => none
  | .sclx _ _ _ => none
  | .lsupd _ => none
  | .ldgN8 _ _ _ _ => none
  | .ldgN16 _ _ _ _ => none
  | .ldgI32 _ _ _ _ => none
  | .ldgI64 _ _ _ _ => none
  | .ldgB128 _ _ _ _ => none
  | .ldtN8 _ _ _ _ => none
  | .ldtN16 _ _ _ _ => none
  | .ldtI32 _ _ _ _ => none
  | .ldtI64 _ _ _ _ => none
  | .ldtB128 _ _ _ _ => none
  | .lddN8 _ _ _ _ => none
  | .lddN16 _ _ _ _ => none
  | .lddI32 _ _ _ _ => none
  | .lddI64 _ _ _ _ => none
  | .lddB128 _ _ _ _ => none
  | .ldk _ _ _ _ => none
  | .stg _ _ _ _ => none
  | .stt _ _ _ _ => none
  | .std _ _ _ _ => none
  | .stk _ _ _ => none
  | .pref _ _ => none
  | .discard _ _ => none
  | .flush _ _ => none
  | .aadd _ _ _ _ => none
  | .amin _ _ _ _ _ => none
  | .amax _ _ _ _ _ => none
  | .aand _ _ _ _ => none
  | .aor _ _ _ _ => none
  | .axor _ _ _ _ => none
  | .axch _ _ _ _ => none
  | .acas _ _ _ _ => none
  | .afadd _ _ _ _ => none
  | .tkfadd _ _ _ => none
  | .tkreg _ _ => none
  | .tkskip _ _ => none
  | .tkfence _ => none
  | .tkqry _ _ _ => none
  | .fenceAcq _ => none
  | .fenceRel _ => none
  | .fenceAr _ => none
  | .bar => none
  | .barrive _ _ _ _ => none
  | .bwait _ _ _ => none
  | .btry _ _ _ => none
  | .waitptr _ _ => none
  | .waitmem _ _ _ => none
  | .shape _ _ _ => none
  | .shapeq _ => none
  | .mma _ _ _ _ _ _ => none
  | .mmab _ _ _ _ _ _ => none
  | .mdrain _ _ _ _ _ _ => none
  | .tzero _ _ _ => none
  | .trot _ _ _ => none
  | .tcpy _ _ _ _ => none
  | .tcpyw _ _ _ _ => none
  | .tdset _ _ => none
  | .tdget _ _ => none
  | .tdinv _ => none
  | .tscl _ _ _ _ _ => none
  | .glaunch _ _ _ => none
  | .gwait _ => none
  | .gwaitTry _ => none
  | .gnode _ _ _ => none
  | .tapepush _ _ _ => none
  | .fqpost _ _ _ => none
  | .poolMarker _ => none
  | .zli _ _ _ => none
  | .zadd _ _ _ _ _ => none
  | .zsub _ _ _ _ _ => none
  | .zshl _ _ _ _ _ => none
  | .zand _ _ _ _ _ => none
  | .zbr _ _ _ _ => none
  | .zloop _ _ => none
  | .zld _ _ _ _ => none
  | .zst _ _ _ _ => none
  | .zsend _ _ _ => none
  | .zags _ _ _ _ => none
  | .zfetch _ _ _ => none
  | .zckpt _ _ => none
  | .zclone _ _ _ _ => none
  | .zqnt _ _ _ => none
  | .zrsc _ _ _ => none
  | .zrsf _ _ => none
  | .zdqa _ _ => none
  | .zwaitBar _ _ _ => none
  | .zwaitFlag _ _ _ => none
  | .zsig _ _ _ _ _ => none
  | .zsigRemote _ _ _ _ => none
  | .zfenceAcq _ => none
  | .zfenceRel _ => none
  | .zfenceAr _ => none
  | .zcyc _ => none
  | .ztrap _ => none
  | .zhalt => none
  | .moduleReset => none
  | .hernusBoot => none
  | .linkTraining => none
  | .overtempReset => none
  | .throttleStepDown => none
  | .throttleStepUp => none
  | .functionLevelReset _ => none
  | .tdiError _ => none
  | .hostPostedWrite _ _ _ => none
  | .hostRead _ _ _ => none
  | .registerWrite _ _ _ => none
  | .posttailWrite _ _ _ => none
  | .cplheadWrite _ _ _ => none
  | .streamEnable _ _ => none
  | .fqheadWrite _ _ => none
  | .mrheadWrite _ _ => none
  | .mstailWrite _ _ => none
  | .winload _ _ => none
  | .inval _ _ _ => none
  | .resume _ _ => none
  | .terminate _ _ => none
  | .termgrid _ _ => none
  | .create _ _ _ _ _ _ => none
  | .setgrant _ _ _ => none
  | .destroy _ _ => none
  | .attest _ _ _ => none
  | .logread _ => none
  | .fusedSvnRaise _ _ => none
  | .nodeAppend _ => none
  | .teamStart _ _ => none
  | .collectiveStart _ => none
  | .transformNodeStart _ => none
  | .copyNode _ => none
  | .signalNode _ => none
  | .tapeNodeStart _ => none
  | .tapePop _ => none
  | .teamEnd _ => none
  | .gridRetirement _ => none
  | .nodeCompletion _ => none
  | .quantumEnd _ => none
  | .loadDataReturn _ _ _ => none
  | .bunchConvergence _ _ => none
  | .rejoinHoldEnd _ _ => none
  | .sleepEnd _ _ => none
  | .watchdog _ _ => none
  | .bwaitCompletion _ _ => none
  | .waitmemCompletion _ _ => none
  | .zwaitCompletion _ => none
  | .matrixCommandStart _ => none
  | .matrixCommandCompletion _ => none
  | .trotRotation _ => none
  | .copyCommandStart _ _ => none
  | .copyGranuleDelivery _ _ => none
  | .ticketUpdateAccept _ => none
  | .ticketGap _ _ _ => none
  | .transformGranuleWrite _ => none
  | .transformInputArrival _ _ _ => none
  | .transformInputTimeout _ => none
  | .transferAcknowledgement _ _ _ => none
  | .waitedTransferCompletion _ _ _ => none
  | .rmaWriteArrival _ _ _ _ _ => none
  | .rmaReadArrival _ _ _ _ _ => none
  | .remoteArrival _ _ _ _ _ => none
  | .managementReceive _ _ _ _ => none
  | .managementSendCompletion _ _ => none
  | .collectiveTimeout _ => none
  | .hbmPatrolScrub _ => none
  | .counterCarry _ _ _ _ => none
  | .packetRetransmission _ => none
  | .nodeBarrierWaitMet _ => none
  | .postedTransferLocalCompletion _ _ => none

/-- Whether an instruction is a Zilkan word (R303). -/
def Instr.isZilkan : Instr → Bool
  | .bra _ _ _ => false
  | .call _ _ _ => false
  | .brx _ => false
  | .callx _ => false
  | .nop => false
  | .land => false
  | .rejoin => false
  | .ret => false
  | .exit => false
  | .yield => false
  | .melse => false
  | .mpop => false
  | .mpush _ => false
  | .sleep _ => false
  | .trap _ => false
  | .brk _ => false
  | .sysrd _ _ _ => false
  | .syswr _ _ => false
  | .cntrd _ _ => false
  | .srkey _ _ => false
  | .srstep _ => false
  | .iadd _ _ _ _ => false
  | .isub _ _ _ _ => false
  | .iaddi _ _ _ => false
  | .imul _ _ _ _ => false
  | .imulh _ _ _ _ => false
  | .imad _ _ _ _ => false
  | .imin _ _ _ _ => false
  | .imax _ _ _ _ => false
  | .iabs _ _ _ => false
  | .icmp _ _ _ _ => false
  | .isel _ _ _ _ => false
  | .shl _ _ _ => false
  | .shr _ _ _ => false
  | .sar _ _ _ => false
  | .rol _ _ _ => false
  | .shli _ _ _ => false
  | .shri _ _ _ => false
  | .sari _ _ _ => false
  | .and _ _ _ => false
  | .or _ _ _ => false
  | .xor _ _ _ => false
  | .andn _ _ _ => false
  | .andi _ _ _ => false
  | .ori _ _ _ => false
  | .xori _ _ _ => false
  | .clz _ _ => false
  | .popc _ _ => false
  | .brev _ _ => false
  | .bfx _ _ _ _ => false
  | .bfi _ _ _ => false
  | .mov _ _ => false
  | .movi _ _ => false
  | .movl _ _ => false
  | .movs _ _ => false
  | .smov _ _ _ => false
  | .smovi _ _ => false
  | .smoviLiteral _ _ => false
  | .sadd _ _ _ => false
  | .saddi _ _ _ => false
  | .saddiLiteral _ _ _ => false
  | .sand _ _ _ => false
  | .sshl _ _ _ _ => false
  | .padd _ _ _ _ => false
  | .psub _ _ _ _ => false
  | .pmin _ _ _ _ _ => false
  | .pmax _ _ _ _ _ => false
  | .pabd _ _ _ _ _ => false
  | .pavg _ _ _ _ _ => false
  | .pmul _ _ _ _ _ => false
  | .pmulh _ _ _ _ _ => false
  | .pshl _ _ _ _ => false
  | .pshr _ _ _ _ _ => false
  | .pacs _ _ _ _ => false
  | .dot4 _ _ _ _ => false
  | .dot8 _ _ _ _ => false
  | .dot2 _ _ _ _ => false
  | .ppack _ _ _ _ => false
  | .punpk _ _ _ _ => false
  | .tbl _ _ _ _ => false
  | .shfl _ _ _ _ => false
  | .scan _ _ _ _ _ => false
  | .red _ _ _ _ => false
  | .voteAny _ _ _ => false
  | .voteAll _ _ _ => false
  | .voteCount _ _ _ => false
  | .votePack _ _ _ => false
  | .matchLanes _ _ _ => false
  | .plog _ _ _ _ => false
  | .pmovPredicateFromRegister _ _ => false
  | .pmovRegisterFromPredicate _ _ => false
  | .pmovPredicateFromPredicate _ _ => false
  | .fadd _ _ _ _ => false
  | .fsub _ _ _ _ => false
  | .fmul _ _ _ _ => false
  | .ffma _ _ _ _ => false
  | .fmin _ _ _ => false
  | .fmax _ _ _ => false
  | .fabs _ _ => false
  | .fneg _ _ => false
  | .fcmp _ _ _ _ => false
  | .fclass _ _ => false
  | .fscale _ _ _ _ => false
  | .frcp _ _ _ => false
  | .frsq _ _ _ => false
  | .fsqrt _ _ _ => false
  | .fexp2 _ _ _ => false
  | .flog2 _ _ _ => false
  | .fsin _ _ _ => false
  | .fcos _ _ _ => false
  | .ftanh _ _ _ => false
  | .bfadd2 _ _ _ _ => false
  | .bfmul2 _ _ _ _ => false
  | .bffma2 _ _ _ _ => false
  | .cvtFloatToFloat _ _ _ _ _ _ => false
  | .cvtFloatToInteger _ _ _ _ _ _ => false
  | .cvtIntegerToFloat _ _ _ _ _ _ => false
  | .cvtIntegerToInteger _ _ _ _ _ _ => false
  | .sclx _ _ _ => false
  | .lsupd _ => false
  | .ldgN8 _ _ _ _ => false
  | .ldgN16 _ _ _ _ => false
  | .ldgI32 _ _ _ _ => false
  | .ldgI64 _ _ _ _ => false
  | .ldgB128 _ _ _ _ => false
  | .ldtN8 _ _ _ _ => false
  | .ldtN16 _ _ _ _ => false
  | .ldtI32 _ _ _ _ => false
  | .ldtI64 _ _ _ _ => false
  | .ldtB128 _ _ _ _ => false
  | .lddN8 _ _ _ _ => false
  | .lddN16 _ _ _ _ => false
  | .lddI32 _ _ _ _ => false
  | .lddI64 _ _ _ _ => false
  | .lddB128 _ _ _ _ => false
  | .ldk _ _ _ _ => false
  | .stg _ _ _ _ => false
  | .stt _ _ _ _ => false
  | .std _ _ _ _ => false
  | .stk _ _ _ => false
  | .pref _ _ => false
  | .discard _ _ => false
  | .flush _ _ => false
  | .aadd _ _ _ _ => false
  | .amin _ _ _ _ _ => false
  | .amax _ _ _ _ _ => false
  | .aand _ _ _ _ => false
  | .aor _ _ _ _ => false
  | .axor _ _ _ _ => false
  | .axch _ _ _ _ => false
  | .acas _ _ _ _ => false
  | .afadd _ _ _ _ => false
  | .tkfadd _ _ _ => false
  | .tkreg _ _ => false
  | .tkskip _ _ => false
  | .tkfence _ => false
  | .tkqry _ _ _ => false
  | .fenceAcq _ => false
  | .fenceRel _ => false
  | .fenceAr _ => false
  | .bar => false
  | .barrive _ _ _ _ => false
  | .bwait _ _ _ => false
  | .btry _ _ _ => false
  | .waitptr _ _ => false
  | .waitmem _ _ _ => false
  | .shape _ _ _ => false
  | .shapeq _ => false
  | .mma _ _ _ _ _ _ => false
  | .mmab _ _ _ _ _ _ => false
  | .mdrain _ _ _ _ _ _ => false
  | .tzero _ _ _ => false
  | .trot _ _ _ => false
  | .tcpy _ _ _ _ => false
  | .tcpyw _ _ _ _ => false
  | .tdset _ _ => false
  | .tdget _ _ => false
  | .tdinv _ => false
  | .tscl _ _ _ _ _ => false
  | .glaunch _ _ _ => false
  | .gwait _ => false
  | .gwaitTry _ => false
  | .gnode _ _ _ => false
  | .tapepush _ _ _ => false
  | .fqpost _ _ _ => false
  | .poolMarker _ => false
  | .zli _ _ _ => true
  | .zadd _ _ _ _ _ => true
  | .zsub _ _ _ _ _ => true
  | .zshl _ _ _ _ _ => true
  | .zand _ _ _ _ _ => true
  | .zbr _ _ _ _ => true
  | .zloop _ _ => true
  | .zld _ _ _ _ => true
  | .zst _ _ _ _ => true
  | .zsend _ _ _ => true
  | .zags _ _ _ _ => true
  | .zfetch _ _ _ => true
  | .zckpt _ _ => true
  | .zclone _ _ _ _ => true
  | .zqnt _ _ _ => true
  | .zrsc _ _ _ => true
  | .zrsf _ _ => true
  | .zdqa _ _ => true
  | .zwaitBar _ _ _ => true
  | .zwaitFlag _ _ _ => true
  | .zsig _ _ _ _ _ => true
  | .zsigRemote _ _ _ _ => true
  | .zfenceAcq _ => true
  | .zfenceRel _ => true
  | .zfenceAr _ => true
  | .zcyc _ => true
  | .ztrap _ => true
  | .zhalt => true
  | .moduleReset => false
  | .hernusBoot => false
  | .linkTraining => false
  | .overtempReset => false
  | .throttleStepDown => false
  | .throttleStepUp => false
  | .functionLevelReset _ => false
  | .tdiError _ => false
  | .hostPostedWrite _ _ _ => false
  | .hostRead _ _ _ => false
  | .registerWrite _ _ _ => false
  | .posttailWrite _ _ _ => false
  | .cplheadWrite _ _ _ => false
  | .streamEnable _ _ => false
  | .fqheadWrite _ _ => false
  | .mrheadWrite _ _ => false
  | .mstailWrite _ _ => false
  | .winload _ _ => false
  | .inval _ _ _ => false
  | .resume _ _ => false
  | .terminate _ _ => false
  | .termgrid _ _ => false
  | .create _ _ _ _ _ _ => false
  | .setgrant _ _ _ => false
  | .destroy _ _ => false
  | .attest _ _ _ => false
  | .logread _ => false
  | .fusedSvnRaise _ _ => false
  | .nodeAppend _ => false
  | .teamStart _ _ => false
  | .collectiveStart _ => false
  | .transformNodeStart _ => false
  | .copyNode _ => false
  | .signalNode _ => false
  | .tapeNodeStart _ => false
  | .tapePop _ => false
  | .teamEnd _ => false
  | .gridRetirement _ => false
  | .nodeCompletion _ => false
  | .quantumEnd _ => false
  | .loadDataReturn _ _ _ => false
  | .bunchConvergence _ _ => false
  | .rejoinHoldEnd _ _ => false
  | .sleepEnd _ _ => false
  | .watchdog _ _ => false
  | .bwaitCompletion _ _ => false
  | .waitmemCompletion _ _ => false
  | .zwaitCompletion _ => false
  | .matrixCommandStart _ => false
  | .matrixCommandCompletion _ => false
  | .trotRotation _ => false
  | .copyCommandStart _ _ => false
  | .copyGranuleDelivery _ _ => false
  | .ticketUpdateAccept _ => false
  | .ticketGap _ _ _ => false
  | .transformGranuleWrite _ => false
  | .transformInputArrival _ _ _ => false
  | .transformInputTimeout _ => false
  | .transferAcknowledgement _ _ _ => false
  | .waitedTransferCompletion _ _ _ => false
  | .rmaWriteArrival _ _ _ _ _ => false
  | .rmaReadArrival _ _ _ _ _ => false
  | .remoteArrival _ _ _ _ _ => false
  | .managementReceive _ _ _ _ => false
  | .managementSendCompletion _ _ => false
  | .collectiveTimeout _ => false
  | .hbmPatrolScrub _ => false
  | .counterCarry _ _ _ _ => false
  | .packetRetransmission _ => false
  | .nodeBarrierWaitMet _ => false
  | .postedTransferLocalCompletion _ _ => false

/-- Whether an instruction is an event of the module, which has no word. -/
def Instr.isEvent : Instr → Bool
  | .bra _ _ _ => false
  | .call _ _ _ => false
  | .brx _ => false
  | .callx _ => false
  | .nop => false
  | .land => false
  | .rejoin => false
  | .ret => false
  | .exit => false
  | .yield => false
  | .melse => false
  | .mpop => false
  | .mpush _ => false
  | .sleep _ => false
  | .trap _ => false
  | .brk _ => false
  | .sysrd _ _ _ => false
  | .syswr _ _ => false
  | .cntrd _ _ => false
  | .srkey _ _ => false
  | .srstep _ => false
  | .iadd _ _ _ _ => false
  | .isub _ _ _ _ => false
  | .iaddi _ _ _ => false
  | .imul _ _ _ _ => false
  | .imulh _ _ _ _ => false
  | .imad _ _ _ _ => false
  | .imin _ _ _ _ => false
  | .imax _ _ _ _ => false
  | .iabs _ _ _ => false
  | .icmp _ _ _ _ => false
  | .isel _ _ _ _ => false
  | .shl _ _ _ => false
  | .shr _ _ _ => false
  | .sar _ _ _ => false
  | .rol _ _ _ => false
  | .shli _ _ _ => false
  | .shri _ _ _ => false
  | .sari _ _ _ => false
  | .and _ _ _ => false
  | .or _ _ _ => false
  | .xor _ _ _ => false
  | .andn _ _ _ => false
  | .andi _ _ _ => false
  | .ori _ _ _ => false
  | .xori _ _ _ => false
  | .clz _ _ => false
  | .popc _ _ => false
  | .brev _ _ => false
  | .bfx _ _ _ _ => false
  | .bfi _ _ _ => false
  | .mov _ _ => false
  | .movi _ _ => false
  | .movl _ _ => false
  | .movs _ _ => false
  | .smov _ _ _ => false
  | .smovi _ _ => false
  | .smoviLiteral _ _ => false
  | .sadd _ _ _ => false
  | .saddi _ _ _ => false
  | .saddiLiteral _ _ _ => false
  | .sand _ _ _ => false
  | .sshl _ _ _ _ => false
  | .padd _ _ _ _ => false
  | .psub _ _ _ _ => false
  | .pmin _ _ _ _ _ => false
  | .pmax _ _ _ _ _ => false
  | .pabd _ _ _ _ _ => false
  | .pavg _ _ _ _ _ => false
  | .pmul _ _ _ _ _ => false
  | .pmulh _ _ _ _ _ => false
  | .pshl _ _ _ _ => false
  | .pshr _ _ _ _ _ => false
  | .pacs _ _ _ _ => false
  | .dot4 _ _ _ _ => false
  | .dot8 _ _ _ _ => false
  | .dot2 _ _ _ _ => false
  | .ppack _ _ _ _ => false
  | .punpk _ _ _ _ => false
  | .tbl _ _ _ _ => false
  | .shfl _ _ _ _ => false
  | .scan _ _ _ _ _ => false
  | .red _ _ _ _ => false
  | .voteAny _ _ _ => false
  | .voteAll _ _ _ => false
  | .voteCount _ _ _ => false
  | .votePack _ _ _ => false
  | .matchLanes _ _ _ => false
  | .plog _ _ _ _ => false
  | .pmovPredicateFromRegister _ _ => false
  | .pmovRegisterFromPredicate _ _ => false
  | .pmovPredicateFromPredicate _ _ => false
  | .fadd _ _ _ _ => false
  | .fsub _ _ _ _ => false
  | .fmul _ _ _ _ => false
  | .ffma _ _ _ _ => false
  | .fmin _ _ _ => false
  | .fmax _ _ _ => false
  | .fabs _ _ => false
  | .fneg _ _ => false
  | .fcmp _ _ _ _ => false
  | .fclass _ _ => false
  | .fscale _ _ _ _ => false
  | .frcp _ _ _ => false
  | .frsq _ _ _ => false
  | .fsqrt _ _ _ => false
  | .fexp2 _ _ _ => false
  | .flog2 _ _ _ => false
  | .fsin _ _ _ => false
  | .fcos _ _ _ => false
  | .ftanh _ _ _ => false
  | .bfadd2 _ _ _ _ => false
  | .bfmul2 _ _ _ _ => false
  | .bffma2 _ _ _ _ => false
  | .cvtFloatToFloat _ _ _ _ _ _ => false
  | .cvtFloatToInteger _ _ _ _ _ _ => false
  | .cvtIntegerToFloat _ _ _ _ _ _ => false
  | .cvtIntegerToInteger _ _ _ _ _ _ => false
  | .sclx _ _ _ => false
  | .lsupd _ => false
  | .ldgN8 _ _ _ _ => false
  | .ldgN16 _ _ _ _ => false
  | .ldgI32 _ _ _ _ => false
  | .ldgI64 _ _ _ _ => false
  | .ldgB128 _ _ _ _ => false
  | .ldtN8 _ _ _ _ => false
  | .ldtN16 _ _ _ _ => false
  | .ldtI32 _ _ _ _ => false
  | .ldtI64 _ _ _ _ => false
  | .ldtB128 _ _ _ _ => false
  | .lddN8 _ _ _ _ => false
  | .lddN16 _ _ _ _ => false
  | .lddI32 _ _ _ _ => false
  | .lddI64 _ _ _ _ => false
  | .lddB128 _ _ _ _ => false
  | .ldk _ _ _ _ => false
  | .stg _ _ _ _ => false
  | .stt _ _ _ _ => false
  | .std _ _ _ _ => false
  | .stk _ _ _ => false
  | .pref _ _ => false
  | .discard _ _ => false
  | .flush _ _ => false
  | .aadd _ _ _ _ => false
  | .amin _ _ _ _ _ => false
  | .amax _ _ _ _ _ => false
  | .aand _ _ _ _ => false
  | .aor _ _ _ _ => false
  | .axor _ _ _ _ => false
  | .axch _ _ _ _ => false
  | .acas _ _ _ _ => false
  | .afadd _ _ _ _ => false
  | .tkfadd _ _ _ => false
  | .tkreg _ _ => false
  | .tkskip _ _ => false
  | .tkfence _ => false
  | .tkqry _ _ _ => false
  | .fenceAcq _ => false
  | .fenceRel _ => false
  | .fenceAr _ => false
  | .bar => false
  | .barrive _ _ _ _ => false
  | .bwait _ _ _ => false
  | .btry _ _ _ => false
  | .waitptr _ _ => false
  | .waitmem _ _ _ => false
  | .shape _ _ _ => false
  | .shapeq _ => false
  | .mma _ _ _ _ _ _ => false
  | .mmab _ _ _ _ _ _ => false
  | .mdrain _ _ _ _ _ _ => false
  | .tzero _ _ _ => false
  | .trot _ _ _ => false
  | .tcpy _ _ _ _ => false
  | .tcpyw _ _ _ _ => false
  | .tdset _ _ => false
  | .tdget _ _ => false
  | .tdinv _ => false
  | .tscl _ _ _ _ _ => false
  | .glaunch _ _ _ => false
  | .gwait _ => false
  | .gwaitTry _ => false
  | .gnode _ _ _ => false
  | .tapepush _ _ _ => false
  | .fqpost _ _ _ => false
  | .poolMarker _ => false
  | .zli _ _ _ => false
  | .zadd _ _ _ _ _ => false
  | .zsub _ _ _ _ _ => false
  | .zshl _ _ _ _ _ => false
  | .zand _ _ _ _ _ => false
  | .zbr _ _ _ _ => false
  | .zloop _ _ => false
  | .zld _ _ _ _ => false
  | .zst _ _ _ _ => false
  | .zsend _ _ _ => false
  | .zags _ _ _ _ => false
  | .zfetch _ _ _ => false
  | .zckpt _ _ => false
  | .zclone _ _ _ _ => false
  | .zqnt _ _ _ => false
  | .zrsc _ _ _ => false
  | .zrsf _ _ => false
  | .zdqa _ _ => false
  | .zwaitBar _ _ _ => false
  | .zwaitFlag _ _ _ => false
  | .zsig _ _ _ _ _ => false
  | .zsigRemote _ _ _ _ => false
  | .zfenceAcq _ => false
  | .zfenceRel _ => false
  | .zfenceAr _ => false
  | .zcyc _ => false
  | .ztrap _ => false
  | .zhalt => false
  | .moduleReset => true
  | .hernusBoot => true
  | .linkTraining => true
  | .overtempReset => true
  | .throttleStepDown => true
  | .throttleStepUp => true
  | .functionLevelReset _ => true
  | .tdiError _ => true
  | .hostPostedWrite _ _ _ => true
  | .hostRead _ _ _ => true
  | .registerWrite _ _ _ => true
  | .posttailWrite _ _ _ => true
  | .cplheadWrite _ _ _ => true
  | .streamEnable _ _ => true
  | .fqheadWrite _ _ => true
  | .mrheadWrite _ _ => true
  | .mstailWrite _ _ => true
  | .winload _ _ => true
  | .inval _ _ _ => true
  | .resume _ _ => true
  | .terminate _ _ => true
  | .termgrid _ _ => true
  | .create _ _ _ _ _ _ => true
  | .setgrant _ _ _ => true
  | .destroy _ _ => true
  | .attest _ _ _ => true
  | .logread _ => true
  | .fusedSvnRaise _ _ => true
  | .nodeAppend _ => true
  | .teamStart _ _ => true
  | .collectiveStart _ => true
  | .transformNodeStart _ => true
  | .copyNode _ => true
  | .signalNode _ => true
  | .tapeNodeStart _ => true
  | .tapePop _ => true
  | .teamEnd _ => true
  | .gridRetirement _ => true
  | .nodeCompletion _ => true
  | .quantumEnd _ => true
  | .loadDataReturn _ _ _ => true
  | .bunchConvergence _ _ => true
  | .rejoinHoldEnd _ _ => true
  | .sleepEnd _ _ => true
  | .watchdog _ _ => true
  | .bwaitCompletion _ _ => true
  | .waitmemCompletion _ _ => true
  | .zwaitCompletion _ => true
  | .matrixCommandStart _ => true
  | .matrixCommandCompletion _ => true
  | .trotRotation _ => true
  | .copyCommandStart _ _ => true
  | .copyGranuleDelivery _ _ => true
  | .ticketUpdateAccept _ => true
  | .ticketGap _ _ _ => true
  | .transformGranuleWrite _ => true
  | .transformInputArrival _ _ _ => true
  | .transformInputTimeout _ => true
  | .transferAcknowledgement _ _ _ => true
  | .waitedTransferCompletion _ _ _ => true
  | .rmaWriteArrival _ _ _ _ _ => true
  | .rmaReadArrival _ _ _ _ _ => true
  | .remoteArrival _ _ _ _ _ => true
  | .managementReceive _ _ _ _ => true
  | .managementSendCompletion _ _ => true
  | .collectiveTimeout _ => true
  | .hbmPatrolScrub _ => true
  | .counterCarry _ _ _ _ => true
  | .packetRetransmission _ => true
  | .nodeBarrierWaitMet _ => true
  | .postedTransferLocalCompletion _ _ => true

/-- The instruction of a table row's bits: the first word in bits [31:0], the literal word above it. Core and Zilkan words
share the 32-bit space (the memory they are fetched by decides, R133, R296), so bit 31 set is read as Zilkan first and bit 31
clear as core first (log 6). -/
def decodeTableWord (_nbits w : Nat) : Option Instr :=
  let a := BitVec.ofNat 32 w
  let b := BitVec.ofNat 32 (w / 2 ^ 32)
  match decodeCore a (some b), decodeZilkan a with
  | .ok i, .ok z => if chainOf a == 1#1 then some z else some i
  | .ok i, .error _ => some i
  | .error _, .ok z => some z
  | .error _, .error _ => none

end Sys2Proof
end

