-- ==== Sys2Proof/Config.lean ====
section
/-! DEFINITION. What the spec leaves open, as constants without a body: nothing can evaluate them, so a claim about the model
holds whatever they are. Each is named in the assumption log. -/

namespace Sys2Proof

/-- A firmware stage in module flash (R364). -/
structure Stage where
  svn : Nat
  digest : List Byte
  key : List Byte
  sig : List Byte
  body : List Byte
  deriving DecidableEq, Repr

end Sys2Proof

namespace Sys2Proof.Config

/-- An unspecified 32-bit value: a lane register at team start (R25), a byte source the spec leaves open; the argument is the
model's draw counter (log 2). -/
opaque freeWord : Nat → W32

/-- An unspecified predicate at team start (R25) (log 2). -/
opaque freeMask : Nat → Mask

/-- A choice the spec leaves to the device: an old or new table entry (R98), either reading of a broken CONT run (R97) (log 7). -/
opaque freeChoice : Nat → Bool

/-- Whether power is held through a module reset: PERST#, or a loss of power (R19, R385): step number (log 59). -/
opaque powerHeld : Nat → Bool

/-- Whether IDE is on and the MAC of the TLP of a step fails (R105): step number (log 62). -/
opaque macFails : Nat → Bool

/-- Whether a step reads host memory, with IDE on, and the MAC of a completion fails (R105): step number (log 62). -/
opaque completionFails : Nat → Bool

/-- The two AES keys of a slot, drawn by Hernus (R360, R362): key number (log 8). -/
opaque keyBytes : Nat → Fin 64 → Byte

/-- What an HBM4E byte holds after a module reset discarded the dirty L2 line over it (R385): draw, address (log 9). -/
opaque lostByte : Nat → Nat → Byte

/-- Arithmetic clocks that pass in one step of the model (log 10). -/
opaque stepClocks : Nat → Nat

/-- Fabric clocks that pass in one step of the model (log 10). -/
opaque stepFabClocks : Nat → Nat

/-- The offset of a core's CYCLE from the model's arithmetic clock: counts from different cores are unrelated (R271) (log 10). -/
opaque coreSkew : Nat → Nat

/-- The GRID handle the graph engine would assign (R21); the model takes the next free nonzero value from it (log 11). -/
opaque gridHandle : Nat → W32

/-- The value of a special function whose rounding the model's widest interval does not decide (R201) (log 12). -/
opaque specialValue : Nat → W32 → W32

/-- Whether an ML-DSA-87 signature verifies: key, digest, signature (R364) (log 5). -/
opaque verifies : List Byte → List Byte → List Byte → Bool

/-- The bytes of Hernus's ML-DSA-87 signature of a digest under the device's identity key (R367) (log 5). -/
opaque signature : List Byte → Nat → Byte

/-- The stages of module flash (R364) (log 5). -/
opaque stages : List Stage

/-- The fused digest of the signing key (R364) (log 5). -/
opaque fusedKey : List Byte

/-- The fused minimum SVN before any command raised it (R364) (log 5). -/
opaque fusedSvn : Nat

/-- The device serial number, 16 bytes (R367) (log 5). -/
opaque serial : Fin 16 → Byte

/-- The parameters of a configuration command as Hernus receives them: the type of R366 and its numbers (log 5). -/
opaque mailboxBytes : Nat → List Nat → List Byte

/-- The ASCII description of a log entry, by its index (R366) (log 5). -/
opaque logText : Nat → Fin 48 → Byte

/-- The JOBs whose keys Hernus has loaded for the owner made with key number n (R300, R383) (log 15). -/
opaque jobKeys : Nat → List W32

/-- Corrected symbols that a patrol read of a line finds (R106) (log 13). -/
opaque corrected : Nat → Nat

/-- Corrected errors of one step: the step's number; the L2 slice (0 to 127), or 128 and the HBM4E stack, that counts them (R105, R106)
(log 13). -/
opaque correctedIn : Nat → Nat → Nat

/-- Which of a port group's twelve ports sends a management message (R13, R383): the model's draw counter (log 56). -/
opaque sendPort : Nat → Fin 12

/-- The number of hits, misses or other timing-dependent slice or core events of one step (R370) (log 13). -/
opaque timedEvents : Nat → Nat → Nat

/-- The partition and column base that the graph engine gives a home bunch of a team (R23): draw, home bunch (log 14). -/
opaque placement : Nat → Nat → Nat

end Sys2Proof.Config
end

