-- ==== Sys2Proof/Machine/State.lean ====
section
/-! DEFINITION. The state of the module: every piece of state the spec gives the machine, as plain data, and the state after
module reset (R385). Types are grouped by the agent that holds them; the model's own fields stand at the end of State. -/

namespace Sys2Proof.Machine

/-- R346: the trap codes, by their names. -/
inductive Trap where
  | illegalOpcode | reservedField | chainForm | lookahead | poolExecution | indirectTarget | misaligned | translation
  | permission | tensorDescriptor | regionBounds | shape | ticketRange | ticketDuplicate | ticketGap | srKeyReuse
  | lossScaleBound | stackOverflow | nestingDepth | tapeOverflow | uncorrectable | parity | softwareTrap | breakpoint
  | collectiveTimeout | residualBuffer | barrierObject | transformFormat | transformCheck | zilkanDecode | watchdog
  deriving DecidableEq, Repr

/-- A fault as it is raised: its code and the code-specific fields of R348. resume is true where the stopping point is after
the instruction (TRAP, BRK, ZTRAP: R267, R309). -/
structure Stop where
  code : Trap
  cause : Nat := 0
  addr : W64 := 0#64
  info0 : W32 := 0#32
  info1 : W32 := 0#32
  info2 : W32 := 0#32
  info3 : W32 := 0#32
  after : Bool := false
  deriving DecidableEq, Repr

/-- What a stopped pod waits for (R37, R232 to R237, R238, R274, R276, R148). -/
inductive Wait where
  | converge | bar | barrier | pointer | memory | tkfence | ticket | engine | launch | gwait | register | rejoin
  deriving DecidableEq, Repr

/-- Whether an agent runs. waiting: stopped at its instruction, since a clock. asleep: until a clock (R266). suspended: by a
fault, with its record's SEQ (R353). ended: EXIT (R44) or ZHALT (R309). -/
inductive Phase where
  | ready
  | waiting (w : Wait) (since : Nat)
  | asleep (till : Nat)
  | suspended (seq : Nat)
  | ended
  deriving DecidableEq, Repr

/-- A register result still outstanding (R148) or granted at a convergence (R37): words for consecutive lane registers under a
lane mask, a predicate under a lane mask, or a scalar. -/
inductive Result where
  | lanes (mask : Mask) (reg : Nat) (vals : List LaneWord)
  | pred (mask : Mask) (reg : Nat) (val : Mask)
  | scalar (reg : Nat) (val : W32)
  deriving DecidableEq, Repr

/-- An outstanding result with its number. -/
structure Pending where
  tag : Nat
  res : Result
  deriving DecidableEq, Repr

/-- A lookahead window (R148): the LA destination and the words of it that remain. scalar selects the scalar file. -/
structure Window where
  scalar : Bool
  reg : Nat
  count : Nat
  left : Nat
  deriving DecidableEq, Repr

/-- A scalar that an engine command holds until it completes (R148, R238). -/
structure Held where
  reg : Nat
  cmd : Nat
  deriving DecidableEq, Repr

/-- One pod (R26), with its register window and what the core holds for it: arrivals and barsDone count the team's barrier instances it has
arrived at and passed (R232), heldAt is the ganging key with which it reached the REJOIN that holds it (R34), second tells that the wait it
stands in is that of its pair's second word (R347), and skip and skip2 are the granules that a TKSKIP at its place has done, as the first or only
word and as a pair's second word (R225). -/
structure Pod where
  index : Nat
  pc : BitVec 48
  slot : BitVec 2
  pw : W32
  md : BitVec 3
  wb : BitVec 9
  ws : BitVec 4
  cd : BitVec 8
  sp : W64
  shape : BitVec 7
  srsel : BitVec 16
  s : Vector W32 32
  v : Vector LaneWord 128
  p : Vector Mask 7
  part : Nat
  phase : Phase
  pending : List Pending
  windows : List Window
  held : List Held
  arrivals : Nat
  barsDone : Nat
  heldAt : Option (BitVec 48 × BitVec 2 × BitVec 8 × BitVec 3)
  grant : Option (List Result)
  second : Bool
  skip : Nat
  skip2 : Nat
  bunch : Nat
  lastIssue : Nat
  parity : List Nat
  deriving DecidableEq, Repr

/-- A matrix command with what it captured at issue (R241): its instruction, its region and control words, the SHAPE grant,
SRSTEP, MODE, the keys, and the descriptors its fields name. stall: the physical granule whose ticketed update its home slice stalls
(R224). -/
structure MatCmd where
  id : Nat
  core : Nat
  team : Nat
  pod : Nat
  instr : Instr
  sx : W32
  sy : W32
  sz : W32
  sz1 : W32
  shape : BitVec 7
  step : W32
  mode : W32
  key : W32
  dx : List W32
  dy : List W32
  dz : List W32
  started : Bool
  next : Nat
  stopped : Option Nat
  legNo : Nat
  stall : Option Nat
  deriving DecidableEq, Repr

/-- A copy command (R255, R256). -/
structure CopyCmd where
  id : Nat
  pod : Nat
  instr : Instr
  sx : W32
  sy : W32
  sy1 : W32
  sz : W32
  desc : List W32
  deriving DecidableEq, Repr

/-- One logical copy channel of a team (R90, R92). -/
structure Channel where
  seq : BitVec 8
  cnt : BitVec 24
  current : Option CopyCmd
  queue : List CopyCmd
  stopped : Option Nat
  deriving DecidableEq, Repr

/-- One resident team (R20, R22) with its pods and its sprout (R48). trots counts the TROT legs it has queued (R254); trotBad is the number of
a leg whose own region failed its checks and that has not been queued since (R93). -/
structure Team where
  id : Nat
  owner : Nat
  handle : W32
  number : Nat
  core : Nat
  size : Nat
  mode : W32
  flags : W32
  tileBase : Nat
  tileSize : Nat
  chans : Vector Channel 4
  xfptr : Vector W32 4
  bars : Nat
  trots : Nat
  trotBad : Option Nat
  children : List W32
  pods : List Pod
  sprout : Option Pod
  deriving DecidableEq, Repr

/-- How a grid stands (R47, R276): running, or retired with CODE and FAIL, and the completion status of its node (R387). -/
inductive GridStatus where
  | running
  | ending (code : Nat) (status : W32)
  | retired (code : Nat) (fail : Bool) (status : W32)
  deriving DecidableEq, Repr

/-- One grid (R20, R46, R47, R275), with the kernel and launch values it was started with (R287, R288). uid numbers the grids of
the model, so that a record names its own grid though handles return. -/
structure Grid where
  handle : W32
  uid : Nat
  owner : Nat
  stream : Nat
  node : W32
  pri : Nat
  stamp : Nat
  parent : Option W32
  leader : Option Nat
  depth : Nat
  susp : Bool
  teams : Nat
  started : Nat
  endedTeams : Nat
  status : GridStatus
  cluster : Bool
  mode : W32
  stackBase : W64
  stackSize : W32
  krec : W64
  param : W64
  loaded : Bool
  entry : BitVec 48
  sprout : W64
  tile : Nat
  ws : BitVec 4
  pods : Nat
  scalars : List W32
  code : List Host.Cell
  codeKeys : List (Nat × Nat)
  bytes : Nat
  flops : Nat
  memBound : Option Bool
  deriving DecidableEq, Repr

/-- A declared ticket region (R220): BASE, NGRAN, CNTR, the physical pages of its counter array, and the counters that
applications have advanced (R221). -/
structure Region where
  base : Nat
  ngran : Nat
  cntr : Nat
  pages : List Nat
  counters : List (Nat × BitVec 16)
  posted : List (Nat × BitVec 16)
  deriving DecidableEq, Repr

/-- A ticketed update (R223, R224, R228). -/
structure TkEntry where
  region : Nat
  granule : Nat
  va : W64
  pa : Nat
  ticket : BitVec 16
  mask : BitVec 16
  bf16 : Bool
  data : List W32
  team : Nat
  pod : Nat
  core : Nat
  handle : W32
  since : Nat
  deriving DecidableEq, Repr

/-- Who a record reports on, so that RESUME and TERMINATE find it (R353). -/
inductive AgentRef where
  | pod (team pod : Nat)
  | matrix (cmd : Nat)
  | channel (team ch : Nat)
  | transform (eng : Nat)
  | fabric (f : Nat)
  | graph
  | slice
  deriving DecidableEq, Repr

/-- A record of R347 with the model's reference to its agent, the grid and the node stamp it names, when they stand; answered once
RESUME took effect. -/
structure Record where
  words : List W32
  seq : Nat
  code : Trap
  resum : Bool
  agent : AgentRef
  handle : W32
  node : W32
  uid : Option Nat
  stamp : Option Nat
  answered : Bool
  deriving DecidableEq, Repr

/-- The source of a warning (R350): a grid, by the model's number of it, a collective, or the context. -/
inductive WarnSource where
  | grid (uid : Nat)
  | collective (id : Nat)
  | context
  deriving DecidableEq, Repr

/-- Warnings of one code and source (R350): the fabric clocks of those written, and those dropped since the last. -/
structure Warned where
  code : Trap
  source : WarnSource
  times : List Nat
  drops : Nat
  deriving DecidableEq, Repr

/-- A ring of R378 or R383: BASE, SIZE (log2), HEAD, TAIL. -/
structure Ring where
  base : W64
  size : W32
  head : W32
  tail : W32
  deriving DecidableEq, Repr

/-- A fabric-queue request (R298): its 16 words, its post sequence number, stamp, and the key and step at the post. -/
structure FqRequest where
  words : List W32
  seq : Nat
  stamp : Nat
  keys : List W32
  step : W32
  running : Bool
  deriving DecidableEq, Repr

/-- One fabric queue (R298, R378): FQCFG, its requests in post order, and the next post sequence number. -/
structure FqQueue where
  index : Nat
  cfg : W32
  next : Nat
  requests : List FqRequest
  deriving DecidableEq, Repr

/-- One core counter or slice counter of a context: its unit, its index, its 48-bit count and overflow bit (R368), and the part
of an event counted in multiples that has not filled one (R370). -/
structure Counter where
  unit : Nat
  n : Nat
  count : BitVec 48
  ovf : Bool
  frac : Nat
  deriving DecidableEq, Repr

/-- A translation a TLB may hold (R97, R98): the page of 32 KiB, or a run of 1 MiB or 128 MiB pages, and its permissions. -/
structure TlbEntry where
  vpage : Nat
  npages : Nat
  ppage : Nat
  perms : BitVec 3
  deriving DecidableEq, Repr

/-- What a transfer of a fabric processor is (R310, R327). -/
inductive TransferKind where
  | send | ags | fetch | ckpt | clone | arrival
  deriving DecidableEq, Repr

/-- A posted or waited transfer of a fabric processor (R310, R311), or a remote arrival (R327), with what it captured: the
collective and owner, the peer's or target's table entry, and whether it is served inside the module. flag: ZAGS's flag offset
and value, while its data part is on its way; acked: that the data part has landed and the flag waits for earlier transfers (R326). input: the transform input handle of a ZFETCH with TX. data: the bytes read, when
served inside the module. read: its source bytes have been read, or its request has been sent. It is listed until answered. -/
structure Transfer where
  id : Nat
  coll : Nat
  owner : Nat
  kind : TransferKind
  peer : Nat
  entry : List W32
  inside : Bool
  win : Nat
  place : W64
  remote : W64
  len : Nat
  flag : Option (W64 × W32)
  input : Option W32
  rz : Bool
  scope : Nat
  data : List Byte
  read : Bool
  acked : Bool
  landed : Nat
  deriving DecidableEq, Repr

/-- One fabric processor (R296): its PC, f0 to f15, CDS, KEY, STEP and TLIM, and what it runs and holds. -/
structure Fabric where
  index : Nat
  coll : Option Nat
  pc : BitVec 51
  f : Vector W64 16
  cds : List W32
  key : W32
  step : W32
  tlim : W32
  rank : Nat
  phase : Phase
  waitFrom : Nat
  transfers : List Transfer
  errors : List Stop
  deriving DecidableEq, Repr

/-- What the graph engine's image of an owner holds of one core (R359): the core, the offset of its section, its team records, its pod
records (team record, team, pod), and its commands, by the numbers the model knows them by; used: whether teams of the owner have left values on the
core (R25). -/
structure ImageCore where
  core : Nat
  off : Nat
  teams : List Nat
  pods : List (Nat × Nat × Nat)
  mats : List Nat
  used : Bool
  deriving DecidableEq, Repr

/-- What the graph section of an image holds of one stream (R358): the stream, its sequence counter, its tape depth, its unfinished nodes. -/
structure ImageStream where
  stream : Nat
  next : Nat
  tape : Nat
  nodes : List W32
  deriving DecidableEq, Repr

/-- What an image's directory keeps of an engine's work: its node, and, as they were when the image was written, the source bytes received and those
of them not decoded. -/
structure ImageEngine where
  eng : Nat
  node : W32
  got : Nat
  kept : Nat
  deriving DecidableEq, Repr

/-- The directory of an owner's image as it was last written (R358, R359): its header, its core and die sections, the offsets of the
fabric and graph sections and of the ticket entries, its streams, the work on its engines, and the spilled entries with their places. -/
structure Image where
  header : List W32
  cores : List ImageCore
  dies : List (Nat × Nat)
  fabric : Nat
  graph : Nat
  streams : List ImageStream
  engines : List ImageEngine
  tickets : Nat
  spill : List (Nat × TkEntry)
  deriving DecidableEq, Repr

/-- One owner: its Hernus state (R360), its function's registers (R378, R384), and its context (R363). sends: for each entry from
MSHEAD to MSTAIL, whether its message was sent (R383). -/
structure Context where
  owner : Nat
  created : Bool
  key : Nat
  dead : Bool
  grant : List (Nat × Nat)
  part : Nat
  imageBase : Nat
  imageSize : Nat
  scratch : Nat
  jobs : List W32
  ptbr : BitVec 33
  tkctl : W32
  lscale : W32
  lsctl : W32
  srkey : Vector W32 16
  srstep : W32
  cntsel : Vector W32 4
  cnt : List Counter
  slsel : Vector W32 4
  slcnt : List Counter
  regions : Vector (Option Region) 16
  entries : List TkEntry
  descs : List (Nat × List W32)
  fq : Ring
  nr : Ring
  mr : Ring
  ms : Ring
  sends : List Bool
  seq : Nat
  notice : Nat
  records : List Record
  held : List Record
  warned : List Warned
  cmd : Vector W32 4
  cmdgo : W32
  queues : List FqQueue
  gtbase : W64
  gtcount : W32
  winbase : W64
  winload : W32
  group : List W64
  windows : List (List W32)
  tlb : List TlbEntry
  image : Image
  processors : List Fabric
  resumes : List Nat
  deriving DecidableEq, Repr

/-- How far a node has come (R281, R286, R292). -/
inductive NodeStatus where
  | posted
  | running
  | finished (status : W32)
  deriving DecidableEq, Repr

/-- An unfinished node (R281, R282, R285). -/
structure Node where
  handle : W32
  stamp : Nat
  words : List W32
  deps : List W32
  barMet : Bool
  status : NodeStatus
  grid : Option W32
  popped : Nat
  deriving DecidableEq, Repr

/-- One graph stream (R280, R281, R379). cplFault: the entry at CPLTAIL could not be written, and the record of that has been posted (log 40). -/
structure Stream where
  owner : BitVec 6
  postBase : W64
  postSize : W32
  postTail : W32
  postHead : W32
  cplBase : W64
  cplSize : W32
  cplHead : W32
  cplTail : W32
  cplFault : Bool
  tapeBase : W64
  enable : Bool
  next : Nat
  tape : Nat
  nodes : List Node
  failed : List W32
  deriving DecidableEq, Repr

/-- A running collective (R296 to R300): its node or request, the descriptor, key and step of its start, the tables active at start, and the
records that suspend it (R330). -/
structure Collective where
  id : Nat
  owner : Nat
  node : W32
  queue : Option (Nat × Nat)
  done : W64
  susp : Bool
  nfp : Nat
  tlim : W32
  cds : List W32
  key : W32
  step : W32
  group : List W64
  peers : List (List W32)
  targets : List (List W32)
  stopped : List Nat
  deriving DecidableEq, Repr

/-- The block of a Deflate stream at which a decoder stands (R338): before a block, in a stored block with bytes left, in a block with the code
lengths of its 288 literal and length symbols and of its 32 distance codes, or after the final block. -/
inductive Block where
  | head
  | stored (left : Nat)
  | codes (lit dist : List Nat)
  | over
  deriving DecidableEq, Repr

/-- R339: the header of an STS stream. -/
structure StsHeader where
  tw : Nat
  th : Nat
  ntile : Nat
  deriving DecidableEq, Repr

/-- R340: the tile record under way: its RK and PRED, and the payload bytes that are not decoded. -/
structure StsRecord where
  rk : Nat
  pred : Nat
  left : Nat
  deriving DecidableEq, Repr

/-- The decoder of a transform engine (R338 to R344): the bits decoded of its next source byte; the Deflate block, whether it is the final one, and
the window, newest byte first; the bytes of the window that are decoded and not yet used; the STS header, the tile record under way with the tile's
output bytes, and the earlier tiles, newest first. -/
structure Decoder where
  bit : Nat
  block : Block
  final : Bool
  window : List Byte
  ready : Nat
  header : Option StsHeader
  tile : Option StsRecord
  cur : List Byte
  tiles : List (List Byte)
  deriving DecidableEq, Repr

/-- A decoder before the first byte of its source. -/
def Decoder.reset : Decoder :=
  { bit := 0, block := .head, final := false, window := [], ready := 0, header := none, tile := none, cur := [], tiles := [] }

/-- The work of one transform engine (R334 to R345): its node and engine, the number of source bytes it has received, those of them that are not
decoded, its decoder, the granules written, the tiles checked, and the SEQ of the record it is suspended by. -/
structure Xform where
  node : W32
  eng : Nat
  owner : Nat
  team : Option Nat
  got : Nat
  buf : List Byte
  dec : Decoder
  written : Nat
  checked : Nat
  waitFrom : Nat
  stopped : Option Nat
  deriving DecidableEq, Repr

/-- An entry of the measurement log (R366). -/
structure LogEntry where
  type : Nat
  arg : Nat
  digest : List Byte
  text : List Byte
  deriving DecidableEq, Repr

/-- Hernus (R360 to R367). -/
structure Hernus where
  bootstat : W32
  minSvn : Nat
  svn : Nat
  mr : List Byte
  log : List LogEntry
  keys : Nat
  replies : List (Nat × List Byte)
  deriving DecidableEq, Repr

/-- Something the module sends out: an MSI-X vector, a message of a transfer, flag, arrival or management send, the data of a
host read, or an IDE error (R130, R105, R310, R327, R372, R383). -/
inductive Outgoing where
  | msix (fn vector : Nat)
  | write (f : Nat) (peer : List W32) (win : Nat) (off : W64) (bytes : List Byte)
  | read (f : Nat) (peer : List W32) (win : Nat) (off : W64) (len : Nat)
  | arrive (f : Nat) (peer : List W32) (win : Nat) (off : W64) (scope : Nat)
  | manage (owner : Nat) (entry : List Byte)
  | readData (owner : Nat) (bytes : List Byte)
  | served (fea : W64) (bytes : List Byte)
  | landed (fea : W64)
  | refusal (fea : W64) (code : Trap)
  | notReady (fea : W64)
  | reply (fn : Nat) (ok : Bool)
  | ideError
  deriving DecidableEq, Repr

/-- Which agent's instruction the model runs. -/
inductive Agent where
  | none
  | pod (team pod : Nat)
  | sprout (team : Nat)
  | fabric (f : Nat)
  deriving DecidableEq, Repr

/-- One choice of the environment: which agent acts next, or which event happens. pods names a pod whose bunch issues; cycle names pods whose
bunches issue in one cycle (R41, R355); fill lets a TLB of the owner take the translation of an address, as a run when the entry's CONT allows it
(R97, R98). -/
inductive Turn where
  | pods (team pod : Nat)
  | cycle (team : Nat) (pods : List Nat)
  | sprout (team : Nat)
  | fabric (f : Nat)
  | fill (owner va : Nat) (run : Bool)
  | event (i : Instr)
  deriving DecidableEq, Repr

/-- What a meaning told the issue logic: nothing, that it trapped, or that it waits. -/
inductive Note where
  | none
  | trapped (t : Stop)
  | waits (w : Wait)
  deriving DecidableEq, Repr

/-- What the second word of a chained pair reads (R135): the pod, the team and the context as they stood before the pair. -/
structure Snap where
  pod : Pod
  team : Team
  ctx : Context
  deriving DecidableEq, Repr

/-- The module. -/
structure State where
  mem : List Host.Cell
  poison : List Nat
  lineKey : List (Nat × Nat)
  dirty : List Nat
  owners : List Context
  teams : List Team
  grids : List Grid
  mats : List MatCmd
  fabric : List Fabric
  colls : List Collective
  xforms : Vector (Option Xform) 16
  parked : List Xform
  streams : Vector Stream 64
  stamp : Nat
  parts : Nat
  resident : Vector (Option Nat) 4
  quantum : Vector Nat 4
  quantumFrom : Vector Nat 4
  pgcfg : Vector (BitVec 128) 4
  pwrcap : Nat
  vfs : Nat
  freq : Nat
  linkUp : Bool
  hernus : Hernus
  fpsel : Vector W32 64
  fpcnt : Vector (BitVec 48) 64
  fpfrac : Vector Nat 64
  errSlice : Vector W32 128
  errStack : Vector W32 8
  clock : Nat
  fabClock : Nat
  out : List Outgoing
  tick : Nat
  draw : Nat
  ids : Nat
  used : List Nat
  agenda : List Turn
  cur : Agent
  note : Note
  word : W32
  snap : Option Snap
  ctx : Context
  grid : Grid
  team : Team
  pod : Pod
  fp : Fabric
  coll : Collective
  deriving DecidableEq, Repr

/-- The ways a step could stop with a fault: none. Every fault of the spec stops an agent, never the machine, and is a next
state (R346). -/
inductive Fault where
  deriving DecidableEq, Repr

/-- The ways a step could be refused. notModelled: no meaning for the instruction (safe); no arm of the dispatch gives it. -/
inductive Refusal where
  | notModelled (mnemonic : String)
  deriving DecidableEq, Repr

/-- A ring after reset (log 3). -/
def Ring.reset : Ring := { base := 0#64, size := 0#32, head := 0#32, tail := 0#32 }

/-- A pod before any team start (log 1): the focused copy that State.reset holds. -/
def Pod.reset : Pod :=
  { index := 0, pc := 0#48, slot := 0#2, pw := 0x0000000F#32, md := 0#3, wb := 0#9, ws := 8#4, cd := 0#8, sp := 0#64,
    shape := 0#7, srsel := 0#16, s := Vector.replicate 32 0#32, v := Vector.replicate 128 (Vector.replicate 4 0#32),
    p := Vector.replicate 7 0#4, part := 0, phase := .ready, pending := [], windows := [], held := [], arrivals := 0,
    barsDone := 0, heldAt := none, grant := none, second := false, skip := 0, skip2 := 0, bunch := 0, lastIssue := 0, parity := [] }

/-- A logical copy channel at team start (R90, R255). -/
def Channel.reset : Channel := { seq := 0#8, cnt := 0#24, current := none, queue := [], stopped := none }

/-- The focused team that State.reset holds (log 1); MODE at its reset value (R62). -/
def Team.reset : Team :=
  { id := 0, owner := 0, handle := 0#32, number := 0, core := 0, size := 0, mode := 1#32, flags := 0#32, tileBase := 0,
    tileSize := 0, chans := Vector.replicate 4 Channel.reset, xfptr := Vector.replicate 4 0#32, bars := 0, trots := 0, trotBad := none,
    children := [], pods := [], sprout := none }

/-- The focused grid that State.reset holds (log 1). -/
def Grid.reset : Grid :=
  { handle := 0#32, uid := 0, owner := 0, stream := 0, node := 0#32, pri := 0, stamp := 0, parent := none, leader := none, depth := 0,
    susp := false, teams := 0, started := 0, endedTeams := 0, status := .running, cluster := false, mode := 1#32,
    stackBase := 0#64, stackSize := 0#32, krec := 0#64, param := 0#64, loaded := false, entry := 0#48, sprout := 0#64,
    tile := 0, ws := 0#4, pods := 0, scalars := [], code := [], codeKeys := [], bytes := 0, flops := 0, memBound := none }

/-- The directory of an image that has not been written. -/
def Image.reset : Image := { header := [], cores := [], dies := [], fabric := 0, graph := 0, streams := [], engines := [], tickets := 0, spill := [] }

/-- An owner's registers and context at reset; the context values are also those of CREATE (R363). -/
def Context.fresh (n : Nat) : Context :=
  { owner := n, created := false, key := 0, dead := false, grant := [], part := 0, imageBase := 0, imageSize := 0,
    scratch := 0, jobs := [], ptbr := 0#33, tkctl := 0x00000018#32, lscale := 0#32, lsctl := 0x07D01800#32,
    srkey := Vector.replicate 16 0#32, srstep := 0#32, cntsel := Vector.replicate 4 0#32, cnt := [],
    slsel := Vector.replicate 4 0#32, slcnt := [], regions := Vector.replicate 16 none, entries := [], descs := [],
    fq := Ring.reset, nr := Ring.reset, mr := Ring.reset, ms := Ring.reset, sends := [], seq := 0, notice := 0, records := [], held := [],
    warned := [], cmd := Vector.replicate 4 0#32, cmdgo := 0#32, queues := [], gtbase := 0#64, gtcount := 0#32,
    winbase := 0#64, winload := 0#32, group := [], windows := [], tlb := [], image := Image.reset, processors := [], resumes := [] }

/-- A fabric processor at module reset (R296). -/
def Fabric.reset (n : Nat) : Fabric :=
  { index := n, coll := none, pc := 0#51, f := Vector.replicate 16 0#64, cds := [], key := 0#32, step := 0#32, tlim := 0#32, rank := 0, phase := .ended, waitFrom := 0,
    transfers := [], errors := [] }

/-- The focused collective that State.reset holds (log 1). -/
def Collective.reset : Collective :=
  { id := 0, owner := 0, node := 0#32, queue := none, done := 0#64, susp := false, nfp := 0, tlim := 0#32, cds := [],
    key := 0#32, step := 0#32, group := [], peers := [], targets := [], stopped := [] }

/-- A stream at module reset: no owner (R378), empty (R363). -/
def Stream.reset : Stream :=
  { owner := 0x3F#6, postBase := 0#64, postSize := 0#32, postTail := 0#32, postHead := 0#32, cplBase := 0#64,
    cplSize := 0#32, cplHead := 0#32, cplTail := 0#32, cplFault := false, tapeBase := 0#64, enable := false, next := 0, tape := 0,
    nodes := [], failed := [] }

/-- Hernus at module reset, before its boot (R364, R365, R378). minSvn is the part of the fused minimum that PF commands have
raised; flash, fuses and serial are constants of Config (log 5). -/
def Hernus.reset : Hernus :=
  { bootstat := 0#32, minSvn := 0, svn := 0, mr := List.replicate 64 0#8, log := [], keys := 0, replies := [] }

/-- The module right after module reset (R385): no owner, no team, no node; registers at the values of R378 and R363. -/
def State.reset : State :=
  { mem := [], poison := [], lineKey := [], dirty := [],
    owners := (List.range 33).map Context.fresh, teams := [], grids := [], mats := [],
    fabric := (List.range 16).map Fabric.reset, colls := [], xforms := Vector.replicate 16 none, parked := [],
    streams := Vector.replicate 64 Stream.reset, stamp := 0, parts := 1, resident := Vector.replicate 4 none,
    quantum := Vector.replicate 4 10, quantumFrom := Vector.replicate 4 0, pgcfg := Vector.replicate 4 0#128,
    pwrcap := 3600, vfs := 0, freq := 700, linkUp := false, hernus := Hernus.reset,
    fpsel := Vector.replicate 64 0#32, fpcnt := Vector.replicate 64 0#48, fpfrac := Vector.replicate 64 0, errSlice := Vector.replicate 128 0#32,
    errStack := Vector.replicate 8 0#32, clock := 0, fabClock := 0, out := [], tick := 0, draw := 0, ids := 1, used := [],
    agenda := [], cur := .none, note := .none, word := 0#32, snap := none,
    ctx := Context.fresh 0, grid := Grid.reset, team := Team.reset, pod := Pod.reset, fp := Fabric.reset 0,
    coll := Collective.reset }

end Sys2Proof.Machine
end

