-- ==== Sys2Proof/Machine/Cipher.lean ====
section
/-! DEFINITION. AES-256-XTS (R101), as FIPS 197 and IEEE 1619 define it: the cipher of a 64-byte line under one owner's key slot. -/

namespace Sys2Proof.Machine

/-! ### The field of 2^8 -/

/-- Twice an element. -/
def gfDouble (b : Byte) : Byte := (b <<< 1) ^^^ (if b.msb then 0x1B#8 else 0#8)

/-- The product of two elements over n bits of the second. -/
def gfTimes : Nat → Byte → Byte → Byte
  | 0, _, _ => 0#8
  | n + 1, a, b => (if b.getLsbD 0 then a else 0#8) ^^^ gfTimes n (gfDouble a) (b >>> 1)

/-- The product of two elements. -/
def gfMul (a b : Byte) : Byte := gfTimes 8 a b

/-- The product of b^2, b^4, … of n squarings. -/
def gfSquares : Nat → Byte → Byte
  | 0, _ => 1#8
  | n + 1, b => gfMul (gfMul b b) (gfSquares n (gfMul b b))

/-- The inverse of an element, b^254; 0 of 0. -/
def gfInverse (b : Byte) : Byte := gfSquares 7 b

/-- The substitution of a byte. -/
def aesSub (b : Byte) : Byte :=
  let i := gfInverse b
  i ^^^ i.rotateLeft 1 ^^^ i.rotateLeft 2 ^^^ i.rotateLeft 3 ^^^ i.rotateLeft 4 ^^^ 0x63#8

/-- The inverse substitution. -/
def aesUnsub (b : Byte) : Byte := gfInverse (b.rotateLeft 1 ^^^ b.rotateLeft 3 ^^^ b.rotateLeft 6 ^^^ 0x05#8)

/-! ### Blocks of 16 bytes, byte r + 4c in row r of column c -/

/-- The exclusive or of two byte strings. -/
def xorBytes (a b : List Byte) : List Byte := (a.zip b).map fun x => x.1 ^^^ x.2

/-- Row r moved by k(r) columns. -/
def aesRows (k : Nat → Nat) (b : List Byte) : List Byte := (List.range 16).map fun i => b.getD (i % 4 + 4 * ((i / 4 + k (i % 4)) % 4)) 0#8

/-- Each column multiplied by the circulant matrix of a first row. -/
def aesColumns (m : List Byte) (b : List Byte) : List Byte :=
  (List.range 16).map fun i => (List.range 4).foldl (fun a k => a ^^^ gfMul (m.getD ((k + 4 - i % 4) % 4) 0#8) (b.getD (k + 4 * (i / 4)) 0#8)) 0#8

/-- The words of the key schedule from word i on, n of them, after those given. -/
def aesExpand : Nat → Nat → Byte → List (List Byte) → List (List Byte)
  | 0, _, _, w => w
  | n + 1, i, rcon, w =>
    let t := w.getD (i - 1) []
    let t := if i % 8 == 0 then xorBytes ((t.drop 1 ++ t.take 1).map aesSub) [rcon, 0#8, 0#8, 0#8] else if i % 8 == 4 then t.map aesSub else t
    aesExpand n (i + 1) (if i % 8 == 0 then gfDouble rcon else rcon) (w ++ [xorBytes (w.getD (i - 8) []) t])

/-- The 15 round keys of a 256-bit key. -/
def aesKeys (key : List Byte) : List (List Byte) :=
  let w := aesExpand 52 8 1#8 ((List.range 8).map fun i => (key.drop (4 * i)).take 4)
  (List.range 15).map fun r => ((w.drop (4 * r)).take 4).flatten

/-- A block enciphered under round keys. -/
def aesEncrypt (keys : List (List Byte)) (b : List Byte) : List Byte :=
  let sub (x : List Byte) : List Byte := aesRows (fun r => r) (x.map aesSub)
  let mid := ((keys.drop 1).take 13).foldl (fun x k => xorBytes (aesColumns [2#8, 3#8, 1#8, 1#8] (sub x)) k) (xorBytes b (keys.headD []))
  xorBytes (sub mid) (keys.getD 14 [])

/-- A block deciphered under round keys. -/
def aesDecrypt (keys : List (List Byte)) (b : List Byte) : List Byte :=
  let unsub (x : List Byte) : List Byte := (aesRows (fun r => 4 - r) x).map aesUnsub
  let mid := ((keys.drop 1).take 13).reverse.foldl (fun x k => aesColumns [14#8, 11#8, 13#8, 9#8] (xorBytes (unsub x) k)) (xorBytes b (keys.getD 14 []))
  xorBytes (unsub mid) (keys.headD [])

/-! ### XTS -/

/-- Little-endian bytes of a number, n of them. -/
def tweakBytes : Nat → Nat → List Byte
  | 0, _ => []
  | n + 1, v => BitVec.ofNat 8 v :: tweakBytes n (v / 256)

/-- The tweak of the next block. -/
def tweakNext (t : List Byte) : List Byte :=
  let v := t.foldr (fun b n => b.toNat + 256 * n) 0
  let d : BitVec 128 := (BitVec.ofNat 128 v <<< 1) ^^^ (if 2 ^ 127 ≤ v then 0x87#128 else 0#128)
  tweakBytes 16 d.toNat

/-- n blocks of a line from a tweak on, each changed between two additions of its tweak. -/
def xtsBlocks (f : List Byte → List Byte) : Nat → List Byte → List Byte → List Byte
  | 0, _, _ => []
  | n + 1, t, l => xorBytes (f (xorBytes (l.take 16) t)) t ++ xtsBlocks f n (tweakNext t) (l.drop 16)

/-- The first tweak of the line at an address under the second key of a slot. -/
def xtsTweak (slot : List Byte) (pa : Nat) : List Byte := aesEncrypt (aesKeys (slot.drop 32)) (tweakBytes 16 pa)

/-- R101: what a line of plaintext becomes in memory. -/
def lineEncrypt (slot : List Byte) (pa : Nat) (line : List Byte) : List Byte := xtsBlocks (aesEncrypt (aesKeys (slot.take 32))) 4 (xtsTweak slot pa) line

/-- R101: what a reader makes of a line in memory. -/
def lineDecrypt (slot : List Byte) (pa : Nat) (line : List Byte) : List Byte := xtsBlocks (aesDecrypt (aesKeys (slot.take 32))) 4 (xtsTweak slot pa) line

/-- R101: the two 256-bit keys of the slot that Hernus made with key number n. -/
def keySlot (n : Nat) : List Byte := List.ofFn (Config.keyBytes n)

end Sys2Proof.Machine
end

