-- ==== Sys2Proof/Machine/Mem.lean ====
section
/-! DEFINITION. Memory and translation (R10, R75 to R83, R94 to R106). One sorted list of cells holds every byte store of the
module: physical addresses from 0, the tile store of each core from 2^48, and each die's scratch from 2^49. -/

namespace Sys2Proof.Machine

/-- What an address nothing has written reads as (log 4). -/
def memDefault : Byte := 0#8

/-- The byte at an address. -/
def memRead : List Host.Cell → Nat → Byte
  | [], _ => memDefault
  | (k, b) :: r, a => if k == a then b else if a < k then memDefault else memRead r a

/-- Memory with the byte at an address replaced; the canonical form is kept: keys rise and no cell holds the default. -/
def memWrite : List Host.Cell → Nat → Byte → List Host.Cell
  | [], a, v => if v == memDefault then [] else [(a, v)]
  | (k, b) :: r, a, v =>
    if a < k then (if v == memDefault then (k, b) :: r else (a, v) :: (k, b) :: r)
    else if k == a then (if v == memDefault then r else (a, v) :: r)
    else (k, b) :: memWrite r a v

/-- The canonical form: addresses strictly rising from lo, no default byte listed. -/
def memWfFrom : Nat → List Host.Cell → Bool
  | _, [] => true
  | lo, (k, b) :: r => decide (lo ≤ k) && b != memDefault && memWfFrom (k + 1) r

/-- The canonical form of a memory. -/
def Memory.wf (m : List Host.Cell) : Bool := memWfFrom 0 m

/-- n bytes from an address. -/
def memBytes (m : List Host.Cell) (a : Nat) : Nat → List Byte
  | 0 => []
  | n + 1 => memRead m a :: memBytes m (a + 1) n

/-- Memory with consecutive bytes replaced. -/
def memPut (m : List Host.Cell) (a : Nat) : List Byte → List Host.Cell
  | [] => m
  | b :: r => memPut (memWrite m a b) (a + 1) r

/-- R1: the little-endian value of bytes. -/
def bytesNat : List Byte → Nat
  | [] => 0
  | b :: r => b.toNat + 256 * bytesNat r

/-- R1: n little-endian bytes of a value. -/
def natBytes : Nat → Nat → List Byte
  | 0, _ => []
  | n + 1, v => BitVec.ofNat 8 v :: natBytes n (v / 256)

/-- Little-endian 32-bit words of bytes, n of them. -/
def bytesWords : Nat → List Byte → List W32
  | 0, _ => []
  | n + 1, l => BitVec.ofNat 32 (bytesNat (l.take 4)) :: bytesWords n (l.drop 4)

/-- The bytes of 32-bit words. -/
def wordsBytes : List W32 → List Byte
  | [] => []
  | w :: r => natBytes 4 w.toNat ++ wordsBytes r

/-- R77: the place of a tile-store byte of a core. -/
def tileAt (core off : Nat) : Nat := 2 ^ 48 + core * 0x180000 + off

/-- R82: the place of a die-scratch byte of a die. -/
def scratchAt (die off : Nat) : Nat := 2 ^ 49 + die * 0x3000000 + off

/-- R9, R359: the place of a byte of the register files of a core, 1 MiB in the order of an image: what stands there outside the windows of live
pods, which hold their own registers. -/
def fileAt (core off : Nat) : Nat := 2 ^ 50 + core * 0x100000 + off

/-- R9, R359: register r of column j of partition q, lane l, in the register files of a core. -/
def fileOffset (q r j l : Nat) : Nat := 0x20000 * q + 16 * (16 * r + j) + 4 * l

/-- R10: whether a physical address lies in HBM4E. -/
def isHbm (pa : Nat) : Bool := decide (pa < 0x8000000000)

/-- R10: whether a physical address lies in the reserved range. -/
def isReservedPa (pa : Nat) : Bool := decide (0x8000000000 ≤ pa) && decide (pa < 0x800000000000)

/-- The key under which an HBM4E line was last written, if any (R101). -/
def lineKeyOf (l : List (Nat × Nat)) (line : Nat) : Option Nat :=
  match l with
  | [] => none
  | (k, v) :: r => if k == line then some v else lineKeyOf r line

/-- R101: what a reader under one key finds in a line whose plaintext was written under another. -/
@[irreducible] def garble (reader writer line : Nat) (plain : List Byte) : List Byte :=
  lineDecrypt (keySlot reader) (64 * line) (lineEncrypt (keySlot writer) (64 * line) plain)

/-- R101, R102: the byte that a reader with a key finds: its own plaintext, or what its key makes of another key's line. -/
def keyedByte (s : State) (key pa : Nat) : Byte :=
  let b := memRead s.mem pa
  if isHbm pa then
    match lineKeyOf s.lineKey (pa / 64) with
    | some k => if k == key then b else (garble key k (pa / 64) (memBytes s.mem (64 * (pa / 64)) 64)).getD (pa % 64) 0#8
    | none => b
  else b

/-- n bytes from a physical address, read under a key. -/
def keyedBytes (s : State) (key pa : Nat) : Nat → List Byte
  | 0 => []
  | n + 1 => keyedByte s key pa :: keyedBytes s key (pa + 1) n

/-- An entry replaced or added in an association list. -/
def assocSet (l : List (Nat × Nat)) (k v : Nat) : List (Nat × Nat) :=
  match l with
  | [] => [(k, v)]
  | (a, b) :: r => if a == k then (k, v) :: r else (a, b) :: assocSet r k v

/-- R101, R102: before a partial write, a line of another key is filled for the writer: what it would read becomes the line. -/
def rekey (s : State) (key line : Nat) : State :=
  if isHbm (line * 64) then
    match lineKeyOf s.lineKey line with
    | some k =>
      if k == key then s
      else { s with mem := memPut s.mem (line * 64) (keyedBytes s key (line * 64) 64), lineKey := assocSet s.lineKey line key }
    | none => { s with lineKey := assocSet s.lineKey line key }
  else s

/-- A number added once to a list. -/
def addOnce (l : List Nat) (k : Nat) : List Nat := if l.contains k then l else k :: l

/-- Lines rekeyed and marked dirty, over n lines from a line on. -/
def touchLines (s : State) (key line : Nat) : Nat → State
  | 0 => s
  | n + 1 =>
    let s := rekey s key line
    let s := if isHbm (line * 64) then { s with dirty := addOnce s.dirty line } else s
    touchLines s key (line + 1) n

/-- R106: a write of a whole granule clears its poison: n granules from one on that the range [a, z) covers whole. -/
def clearCovered (p : List Nat) (a z g : Nat) : Nat → List Nat
  | 0 => p
  | n + 1 => clearCovered (if a ≤ 64 * g && 64 * g + 64 ≤ z then p.filter (· != g) else p) a z (g + 1) n

/-- Consecutive bytes written at a place of the byte store under a key. -/
def storeAt (s : State) (key a : Nat) (bytes : List Byte) : State :=
  let z := a + bytes.length
  let lines := if bytes.isEmpty then 0 else (z - 1) / 64 - a / 64 + 1
  let s := touchLines s key (a / 64) lines
  { s with mem := memPut s.mem a bytes, poison := clearCovered s.poison a z (a / 64) lines }

/-- R106: whether the range of n bytes from a meets a poisoned granule, and the first one's address. -/
def poisonIn (p : List Nat) (a n : Nat) : Option Nat :=
  (p.filter (fun g => decide (64 * g < a + n) && decide (a < 64 * g + 64))).head?.map (64 * ·)

/-- R100: whether a physical address lies in a grant, whose ranges are a base and a length in units of 128 MiB. -/
def inGrant (grant : List (Nat × Nat)) (pa : Nat) : Bool :=
  grant.any fun r => decide (r.1 ≤ pa / 2 ^ 27) && decide (pa / 2 ^ 27 < r.1 + r.2)

/-- R348: the access kinds. -/
def accFetch : Nat := 0
/-- R348. -/
def accRead : Nat := 1
/-- R348. -/
def accWrite : Nat := 2
/-- R348. -/
def accAtomic : Nat := 3

/-- R96: whether permissions X, WR, RD (bits 2, 1, 0) allow an access of a kind. -/
def allowed (perms : BitVec 3) (kind : Nat) : Bool :=
  match kind with
  | 0 => perms.getLsbD 2
  | 1 => perms.getLsbD 0
  | 2 => perms.getLsbD 1
  | _ => perms.getLsbD 0 && perms.getLsbD 1

/-- A translation fault of a code for an address and an access (R348). -/
def accStop (code : Trap) (va kind : Nat) : Stop :=
  { code := code, addr := BitVec.ofNat 64 va, info1 := BitVec.ofNat 32 kind }

/-- R96: UNCORRECTABLE-DATA on a table read, with the space of the access. -/
def tablePoison (va space : Nat) : Stop :=
  { code := .uncorrectable, addr := BitVec.ofNat 64 va, info0 := BitVec.ofNat 32 space }

/-- R96: the last checks and the physical address of a leaf of 2^bits bytes. -/
def leafPa (c : Context) (va kind bits pfnBase : Nat) (perms : BitVec 3) : Except Stop Nat :=
  if pfnBase % 2 ^ bits != 0 then .error (accStop .translation va kind)
  else if !allowed perms kind then .error (accStop .permission va kind)
  else
    let pa := pfnBase + va % 2 ^ bits
    if isReservedPa pa then .error (accStop .translation va kind)
    else if !inGrant c.grant pa then .error (accStop .permission va kind)
    else .ok pa

/-- R95: the permissions X, WR, RD of a table entry. -/
def entryPerms (e : Nat) : BitVec 3 := BitVec.ofNat 3 (e / 2 ^ 56)

/-- R95: a nonzero reserved bit of a table entry. -/
def entryReserved (e : Nat) : Bool := e / 2 ^ 59 != 0 || e / 2 ^ 48 % 2 ^ 8 != 0 || e / 8 % 2 ^ 12 != 0

/-- R95: PFN × 2^15. -/
def entryBase (e : Nat) : Nat := e / 2 ^ 15 % 2 ^ 33 * 2 ^ 15

/-- R96: the table walk from level lvl down, fuel levels remaining, t the table's physical address. -/
def walk (s : State) (c : Context) (va kind space : Nat) : Nat → Nat → Except Stop Nat
  | 0, _ => .error (accStop .translation va kind)
  | fuel + 1, t =>
    let lvl := 3 - fuel
    let a := t + 8 * (va / 2 ^ (51 - 12 * lvl) % 2 ^ 12)
    if isReservedPa a || !inGrant c.grant a then .error (accStop .translation va kind)
    else if (poisonIn s.poison a 8).isSome then .error (tablePoison va space)
    else
      let e := bytesNat (keyedBytes s c.key a 8)
      let leaf := e / 2 % 2 == 1
      if e % 2 == 0 || entryReserved e then .error (accStop .translation va kind)
      else if e / 4 % 2 == 1 && !(lvl == 3 && leaf) then .error (accStop .translation va kind)
      else if !leaf then (if lvl == 3 then .error (accStop .translation va kind) else walk s c va kind space fuel (entryBase e))
      else if lvl == 1 then .error (accStop .translation va kind)
      else leafPa c va kind (if lvl == 2 then 27 else 15) (entryBase e) (entryPerms e)

/-- R98: the TLB entry of the owner that covers an address, if any. -/
def tlbFind (c : Context) (va : Nat) : Option TlbEntry :=
  c.tlb.find? fun e => decide (e.vpage ≤ va / 2 ^ 15) && decide (va / 2 ^ 15 < e.vpage + e.npages)

/-- R96 to R98: the physical address of a virtual address of an owner, for an access of a kind made in a space. An address
that a TLB entry covers may go through it or through the tables: the choice is free (log 7). -/
def translate (s : State) (c : Context) (va kind space : Nat) : Except Stop Nat :=
  if 2 ^ 51 ≤ va then .error (accStop .translation va kind)
  else
    match tlbFind c va with
    | some e =>
      if Config.freeChoice (s.tick * 2 ^ 36 + va / 2 ^ 15) then
        leafPa c va kind 15 ((e.ppage + (va / 2 ^ 15 - e.vpage)) % 2 ^ 33 * 2 ^ 15) e.perms
      else walk s c va kind space 3 (c.ptbr.toNat * 2 ^ 15)
    | none => walk s c va kind space 3 (c.ptbr.toNat * 2 ^ 15)

/-- R97, R98: the entry that a walk of an address may leave in a TLB: its page, its 128 MiB leaf, or its 1 MiB run. -/
def tlbEntryFor (s : State) (c : Context) (va : Nat) (run : Bool) : Option TlbEntry :=
  let t1 := c.ptbr.toNat * 2 ^ 15
  let entry (t lvl : Nat) := bytesNat (keyedBytes s c.key (t + 8 * (va / 2 ^ (51 - 12 * lvl) % 2 ^ 12)) 8)
  let e1 := entry t1 1
  let e2 := entry (entryBase e1) 2
  let e3 := entry (entryBase e2) 3
  let ok := [accFetch, accRead, accWrite].any fun k => match walk s c va k 0 3 t1 with | .ok _ => true | .error _ => false
  if va < 2 ^ 51 && ok then
    if e2 / 2 % 2 == 1 then some ⟨va / 2 ^ 27 * 2 ^ 12, 2 ^ 12, entryBase e2 / 2 ^ 15, entryPerms e2⟩
    else if run && e3 / 4 % 2 == 1 then
      let k := va / 2 ^ 15 % 32
      some ⟨va / 2 ^ 15 - k, 32, (entryBase e3 / 2 ^ 15 + 2 ^ 33 - k) % 2 ^ 33, entryPerms e3⟩
    else some ⟨va / 2 ^ 15, 1, entryBase e3 / 2 ^ 15, entryPerms e3⟩
  else none

/-- The pages of 32 KiB that n bytes from a virtual address touch. -/
def pagesOf (va n : Nat) : List Nat :=
  if n == 0 then [] else (List.range ((va + n - 1) / 2 ^ 15 - va / 2 ^ 15 + 1)).map fun i => max va ((va / 2 ^ 15 + i) * 2 ^ 15)

/-- Every page of a range translates for a kind: the first fault, or nothing. -/
def translateRange (s : State) (c : Context) (kind space : Nat) : List Nat → Except Stop Unit
  | [] => .ok ()
  | p :: ps => match translate s c p kind space with
    | .ok _ => translateRange s c kind space ps
    | .error e => .error e

/-- n bytes from a virtual address, each through its own page's translation, in chunks that stay in one page; fuel bounds the
chunks. A poisoned granule raises UNCORRECTABLE-DATA at its address. -/
def vread (s : State) (c : Context) (space : Nat) : Nat → Nat → Nat → Except Stop (List Byte)
  | 0, _, _ => .ok []
  | fuel + 1, va, n =>
    if n == 0 then .ok [] else
    let k := min n (2 ^ 15 - va % 2 ^ 15)
    match translate s c va accRead space with
    | .error e => .error e
    | .ok pa =>
      match poisonIn s.poison pa k with
      | some g => .error { code := .uncorrectable, addr := BitVec.ofNat 64 (va - va % 64 + (g - (pa - pa % 64))), info0 := BitVec.ofNat 32 space }
      | none =>
        match vread s c space fuel (va + k) (n - k) with
        | .error e => .error e
        | .ok r => .ok (keyedBytes s c.key pa k ++ r)

/-- n bytes from a virtual address (R96, R106). -/
def vbytes (s : State) (c : Context) (space va n : Nat) : Except Stop (List Byte) := vread s c space (n / 2 ^ 15 + 2) va n

/-- Bytes written at a virtual address whose pages all translate, chunk by chunk; fuel bounds the chunks. -/
def vwrite (s : State) (c : Context) (space : Nat) : Nat → Nat → List Byte → Except Stop State
  | 0, _, _ => .ok s
  | fuel + 1, va, bytes =>
    if bytes.isEmpty then .ok s else
    let k := min bytes.length (2 ^ 15 - va % 2 ^ 15)
    match translate s c va accWrite space with
    | .error e => .error e
    | .ok pa => vwrite (storeAt s c.key pa (bytes.take k)) c space fuel (va + k) (bytes.drop k)

/-- R96: bytes written at a virtual address after every page of the range has been checked. -/
def vput (s : State) (c : Context) (space va : Nat) (bytes : List Byte) : Except Stop State :=
  match translateRange s c accWrite space (pagesOf va bytes.length) with
  | .error e => .error e
  | .ok () => vwrite s c space (bytes.length / 2 ^ 15 + 2) va bytes

/-! ### Engine accesses to G, and the guard of a declared counter array (R221) -/

/-- R221: whether a physical address lies in the counter array of a declared region. That these are the pages found at the declaration, under every
virtual address that names them, is the model's choice (log 26). -/
def Region.guards (r : Region) (pa : Nat) : Bool :=
  (r.pages.zipIdx).any fun x => x.1 == pa / 2 ^ 15 &&
    (let va := (r.cntr / 2 ^ 15 + x.2) * 2 ^ 15 + pa % 2 ^ 15
     decide (r.cntr ≤ va) && decide (va < r.cntr + 2 * r.ngran))

/-- R221: whether one of n bytes from a physical address lies in a declared counter array of a context. -/
def Context.guards (c : Context) (pa n : Nat) : Bool :=
  c.regions.toList.any fun r => match r with
    | some r => (List.range n).any fun i => r.guards (pa + i)
    | none => false

/-- The first failure in a list, in order. -/
def firstStop {α : Type} (l : List α) (f : α → Option Stop) : Option Stop := (l.filterMap f).head?

/-- R96, R221: every page of a range translates for a kind and none of its bytes lies in a declared counter array. -/
def engineRange (s : State) (c : Context) (kind va n : Nat) : Option Stop :=
  firstStop (pagesOf va n) fun p =>
    match translate s c p kind 0 with
    | .error t => some t
    | .ok pa => if c.guards pa (min (va + n) ((p / 2 ^ 15 + 1) * 2 ^ 15) - p) then some (accStop .permission p kind) else none

/-- n bytes of G that an engine reads (R96, R106, R221). -/
def engineRead (s : State) (c : Context) (va n : Nat) : Except Stop (List Byte) :=
  match engineRange s c accRead va n with
  | some e => .error e
  | none => vbytes s c 0 va n

/-- Bytes of G that an engine writes (R96, R221). -/
def engineWrite (s : State) (c : Context) (va : Nat) (b : List Byte) : Except Stop State :=
  match engineRange s c accWrite va b.length with
  | some e => .error e
  | none => vput s c 0 va b

end Sys2Proof.Machine
end

