-- ==== Sys2Proof/Machine/Numbers.lean ====
section
/-! DEFINITION. Numbers and rounding (R51 to R61, R66, R67): the values of every element type, exact arithmetic on them, and
one rounding function through which every float result of a core, an engine or a fabric processor is made. -/

namespace Sys2Proof.Machine

/-- R63: the FLAGS bits. -/
def flagNV : W32 := 1#32
/-- R63: overflow. -/
def flagOF : W32 := 2#32
/-- R63: underflow. -/
def flagUF : W32 := 4#32
/-- R63: inexact. -/
def flagNX : W32 := 8#32
/-- R63: integer saturation. -/
def flagISAT : W32 := 16#32

/-- R51: Clamp. -/
def clampInt (x lo hi : Int) : Int := if x < lo then lo else if hi < x then hi else x

/-- R51: Wrap_n as an unsigned value. -/
def wrapNat (n : Nat) (x : Int) : Nat := (x % (2 ^ n : Int)).toNat

/-- R51: Wrap32. -/
def wrap32 (x : Int) : W32 := BitVec.ofInt 32 x

/-- R51: the value of a bit pattern of n bits, as In when signed and as Nn otherwise. -/
def valOf (signed : Bool) (n x : Nat) : Int :=
  let y := x % 2 ^ n
  if signed && 2 ^ (n - 1) ≤ y then (y : Int) - 2 ^ n else y

/-- R51: the least value of an integer type. -/
def intLo (signed : Bool) (n : Nat) : Int := if signed then -(2 ^ (n - 1) : Int) else 0

/-- R51: the greatest value of an integer type. -/
def intHi (signed : Bool) (n : Nat) : Int := if signed then 2 ^ (n - 1) - 1 else 2 ^ n - 1

/-- R52, R55: what the top exponent codes of a float type hold: infinities and NaN; NaN alone (E4M3); or numbers. -/
inductive FKind where
  | ieee | e5m2 | e4m3 | finite
  deriving DecidableEq, Repr

/-- R52, R55: a float type by its field widths, bias, kind and largest finite code. -/
structure FTy where
  eb : Nat
  mb : Nat
  bias : Nat
  kind : FKind
  top : Nat
  deriving DecidableEq, Repr

/-- R52. -/
def tyF32 : FTy := ⟨8, 23, 127, .ieee, 0x7F7FFFFF⟩
/-- R52. -/
def tyF16 : FTy := ⟨5, 10, 15, .ieee, 0x7BFF⟩
/-- R52. -/
def tyBF16 : FTy := ⟨8, 7, 127, .ieee, 0x7F7F⟩
/-- R55. -/
def tyE4M3 : FTy := ⟨4, 3, 7, .e4m3, 0x7E⟩
/-- R55. -/
def tyE5M2 : FTy := ⟨5, 2, 15, .e5m2, 0x7B⟩
/-- R55. -/
def tyE3M2 : FTy := ⟨3, 2, 3, .finite, 0x1F⟩
/-- R55. -/
def tyE2M3 : FTy := ⟨2, 3, 1, .finite, 0x1F⟩
/-- R55. -/
def tyE2M1 : FTy := ⟨2, 1, 1, .finite, 0x7⟩

/-- R204: the float type of a type code. -/
def fltTy (t : Nat) : FTy :=
  match t with
  | 0 => tyF32 | 1 => tyF16 | 2 => tyBF16 | 3 => tyE4M3 | 4 => tyE5M2 | 5 => tyE3M2 | 6 => tyE2M3 | _ => tyE2M1

/-- R54: the types that MODE.FTZ flushes. -/
def FTy.flushes (t : FTy) : Bool := t.kind == .ieee

/-- The sign bit's place. -/
def FTy.signAt (t : FTy) : Nat := 2 ^ (t.eb + t.mb)

/-- R53, R55: the NaN that is written; a type without NaN gives code 0 (R57). -/
def FTy.nan (t : FTy) : Nat :=
  match t.kind with
  | .ieee => (2 ^ t.eb - 1) * 2 ^ t.mb + 2 ^ (t.mb - 1)
  | .e5m2 => 0x7E
  | .e4m3 => 0x7F
  | .finite => 0

/-- R52: the code of an infinity's magnitude. -/
def FTy.inf (t : FTy) : Nat := (2 ^ t.eb - 1) * 2 ^ t.mb

/-- A value of a float type: NaN, an infinity, or (-1)^neg × m × 2^e exactly, zero keeping its sign. -/
inductive Val where
  | nan (signalling : Bool)
  | inf (neg : Bool)
  | num (neg : Bool) (m : Nat) (e : Int)
  deriving DecidableEq, Repr

/-- R52, R55: the value of a code. -/
def FTy.decode (t : FTy) (code : Nat) : Val :=
  let neg := code / t.signAt % 2 == 1
  let ex := code / 2 ^ t.mb % 2 ^ t.eb
  let fr := code % 2 ^ t.mb
  let top := ex == 2 ^ t.eb - 1
  if top && (t.kind == .ieee || t.kind == .e5m2) then
    if fr == 0 then .inf neg else .nan (t.kind == .ieee && fr < 2 ^ (t.mb - 1))
  else if top && t.kind == .e4m3 && fr == 2 ^ t.mb - 1 then .nan false
  else if ex == 0 then .num neg fr (1 - (t.bias : Int) - t.mb)
  else .num neg (2 ^ t.mb + fr) ((ex : Int) - t.bias - t.mb)

/-- R54: a subnormal source of a flushed type is a zero of its sign. -/
def FTy.flush (t : FTy) (code : Nat) : Nat :=
  if t.flushes && code / 2 ^ t.mb % 2 ^ t.eb == 0 then code / t.signAt % 2 * t.signAt else code

/-- R59: the rounding modes. -/
inductive RMode where
  | rne | rtz | rdn | rup | rna | sr
  deriving DecidableEq, Repr

/-- R59: the mode of an F code 1 to 6. -/
def rmodeOf (f : Nat) : RMode :=
  match f with
  | 2 => .rtz | 3 => .rdn | 4 => .rup | 5 => .rna | 6 => .sr | _ => .rne

/-- R60: whether RoundMag takes U rather than T, for a positive or negative x with φ = rem / den and T's mantissa code t. -/
def roundsUp (mode : RMode) (x0 : W32) (neg : Bool) (t rem den : Nat) : Bool :=
  if rem == 0 then false else
  match mode with
  | .rtz => false
  | .rdn => neg
  | .rup => !neg
  | .rne => decide (den < 2 * rem) || (2 * rem == den && t % 2 == 1)
  | .rna => decide (den ≤ 2 * rem)
  | .sr => decide (x0.toNat < rem * 2 ^ 32 / den)

/-- Floor of log2 of n / d × 2^e, for n and d above 0. -/
def floorLog2 (n d : Nat) (e : Int) : Int :=
  let k := (Nat.log2 n : Int) - Nat.log2 d
  let ok := if 0 ≤ k then decide (d * 2 ^ k.toNat ≤ n) else decide (d ≤ n * 2 ^ (-k).toNat)
  (if ok then k else k - 1) + e

/-- n / d × 2^e over 2^q, as a numerator and a denominator. -/
def scaleTo (n d : Nat) (e q : Int) : Nat × Nat :=
  if q ≤ e then (n * 2 ^ (e - q).toNat, d) else (n, d * 2 ^ (q - e).toNat)

/-- R60: the magnitude n / d × 2^e rounded to a multiple of 2^q: the multiple, and whether it is inexact. -/
def roundAt (mode : RMode) (x0 : W32) (neg : Bool) (n d : Nat) (e q : Int) : Nat × Bool :=
  let (a, b) := scaleTo n d e q
  let t := a / b
  let rem := a % b
  (if roundsUp mode x0 neg t rem b then t + 1 else t, rem != 0)

/-- What a rounding depends on besides the value: the mode, the stochastic word x0 (R67), MODE.SATF8 and MODE.FTZ. -/
structure RCtx where
  mode : RMode
  x0 : W32
  satf8 : Bool
  ftz : Bool
  deriving DecidableEq, Repr

/-- R57: the code and flags of a magnitude above the largest finite value. -/
def overflow (t : FTy) (c : RCtx) (neg : Bool) : Nat × W32 :=
  let toZero := match c.mode with
    | .rtz => true
    | .rdn => !neg
    | .rup => neg
    | _ => false
  let sgn := if neg then t.signAt else 0
  let code :=
    if toZero then sgn + t.top
    else match t.kind with
      | .ieee => sgn + t.inf
      | .e5m2 => if c.satf8 then sgn + t.top else sgn + t.inf
      | .e4m3 => if c.satf8 then sgn + t.top else t.nan
      | .finite => sgn + t.top
  (code, flagOF ||| flagNX)

/-- R53, R54, R57, R60: the code of the nonzero real ±n/d × 2^e in type t, and the flags it sets. -/
def roundTo (t : FTy) (c : RCtx) (neg : Bool) (n d : Nat) (e : Int) : Nat × W32 :=
  let k := floorLog2 n d e
  let emin : Int := 1 - (t.bias : Int)
  let q := max (k - t.mb) (emin - t.mb)
  let (m, inexact) := roundAt c.mode c.x0 neg n d e q
  let (mu, _) := roundAt c.mode c.x0 neg n d e (k - t.mb)
  let tiny := decide (k < emin) && !(decide (k = emin - 1) && mu == 2 ^ (t.mb + 1))
  let sgn := if neg then t.signAt else 0
  if tiny && c.ftz && t.flushes then (sgn, flagUF ||| flagNX)
  else
    let code := if m < 2 ^ t.mb then m else (q + t.mb + t.bias).toNat * 2 ^ t.mb + (m - 2 ^ t.mb)
    if t.top < code then overflow t c neg
    else (sgn + code, (if inexact then flagNX else 0#32) ||| (if inexact && tiny then flagUF else 0#32))

/-- R60: the sign of an exact zero sum of operands whose signs are given: their common sign, or + except under RDN. -/
def zeroSign (mode : RMode) (nx ny : Bool) : Bool := if nx == ny then nx else mode == .rdn

/-- Exact sum of two numbers, as a signed integer over a power of two. -/
def exactSum (nx : Bool) (mx : Nat) (ex : Int) (ny : Bool) (my : Nat) (ey : Int) : Int × Int :=
  let e := min ex ey
  let a : Int := (mx * 2 ^ (ex - e).toNat : Nat)
  let b : Int := (my * 2 ^ (ey - e).toNat : Nat)
  ((if nx then -a else a) + (if ny then -b else b), e)

/-- A rounded sum of two numbers (R60); zx and zy say which operands are exact zeros, for the sign of a zero result. -/
def roundSum (t : FTy) (c : RCtx) (nx : Bool) (mx : Nat) (ex : Int) (ny : Bool) (my : Nat) (ey : Int) : Nat × W32 :=
  let (s, e) := exactSum nx mx ex ny my ey
  if s == 0 then
    let zero := if mx == 0 && my == 0 then zeroSign c.mode nx ny else c.mode == .rdn
    (if zero then t.signAt else 0, 0#32)
  else roundTo t c (decide (s < 0)) s.natAbs 1 e

/-- The canonical NaN with FLAGS.NV (R53). -/
def invalid (t : FTy) : Nat × W32 := (t.nan, flagNV)

/-- R53: FLAGS.NV when some source is a signalling NaN. -/
def nvIf (b : Bool) : W32 := if b then flagNV else 0#32

/-- Whether a value is a signalling NaN. -/
def Val.isSnan : Val → Bool
  | .nan s => s
  | _ => false

/-- Whether a value is a NaN. -/
def Val.isNan : Val → Bool
  | .nan _ => true
  | _ => false

/-- The negated value. -/
def Val.negate : Val → Val
  | .nan s => .nan s
  | .inf n => .inf (!n)
  | .num n m e => .num (!n) m e

/-- R195: x + y in type t. -/
def addVal (t : FTy) (c : RCtx) (x y : Val) : Nat × W32 :=
  match x, y with
  | .nan a, _ => (t.nan, nvIf (a || y.isSnan))
  | _, .nan b => (t.nan, nvIf b)
  | .inf a, .inf b => if a == b then ((if a then t.signAt else 0) + t.inf, 0#32) else invalid t
  | .inf a, .num _ _ _ => ((if a then t.signAt else 0) + t.inf, 0#32)
  | .num _ _ _, .inf b => ((if b then t.signAt else 0) + t.inf, 0#32)
  | .num nx mx ex, .num ny my ey => roundSum t c nx mx ex ny my ey

/-- R60, R195: x − y in type t. The sign of an exact zero is that of R60 for the operands x and y as they stand. -/
def subVal (t : FTy) (c : RCtx) (x y : Val) : Nat × W32 :=
  match x, y with
  | .num nx mx _, .num ny my _ =>
    if mx == 0 && my == 0 then (if zeroSign c.mode nx ny then t.signAt else 0, 0#32) else addVal t c x y.negate
  | _, _ => addVal t c x y.negate

/-- The exact product of two values that are not NaN; none for 0 × ∞. That a product of zero is negative where one factor is negative is the model's
choice (log 63): R60 gives the sign of sums and of roundings. -/
def mulExact (x y : Val) : Option Val :=
  match x, y with
  | .inf a, .inf b => some (.inf (a != b))
  | .inf a, .num n m _ => if m == 0 then none else some (.inf (a != n))
  | .num n m _, .inf b => if m == 0 then none else some (.inf (n != b))
  | .num nx mx ex, .num ny my ey => some (.num (nx != ny) (mx * my) (ex + ey))
  | _, _ => none

/-- The code of an exact value that needs one rounding. -/
def roundVal (t : FTy) (c : RCtx) (x : Val) : Nat × W32 :=
  match x with
  | .nan s => (t.nan, nvIf s)
  | .inf n => ((if n then t.signAt else 0) + t.inf, 0#32)
  | .num n m e => if m == 0 then (if n then t.signAt else 0, 0#32) else roundTo t c n m 1 e

/-- R195: x × y in type t. -/
def mulVal (t : FTy) (c : RCtx) (x y : Val) : Nat × W32 :=
  if x.isNan || y.isNan then (t.nan, nvIf (x.isSnan || y.isSnan))
  else match mulExact x y with
    | none => invalid t
    | some p => roundVal t c p

/-- R195: x × y + z in type t, rounded once; 0 × ∞ is invalid even when z is a quiet NaN. -/
def fmaVal (t : FTy) (c : RCtx) (x y z : Val) : Nat × W32 :=
  if x.isNan || y.isNan then (t.nan, nvIf (x.isSnan || y.isSnan || z.isSnan))
  else match mulExact x y with
    | none => invalid t
    | some p => addVal t c p z

/-- R219: AddF: RNE, subnormals kept, no flag. -/
def plainRne : RCtx := ⟨.rne, 0#32, false, false⟩

/-- R219: AddF on codes of type t. -/
def addF (t : FTy) (x y : Nat) : Nat := (addVal t plainRne (t.decode x) (t.decode y)).1

/-- R219: AddF of a 32-bit word, F32 or BF16×2. -/
def addFWord (bf16 : Bool) (x y : W32) : W32 :=
  if bf16 then
    BitVec.ofNat 32 (addF tyBF16 (x.toNat / 2 ^ 16) (y.toNat / 2 ^ 16) * 2 ^ 16 + addF tyBF16 (x.toNat % 2 ^ 16) (y.toNat % 2 ^ 16))
  else BitVec.ofNat 32 (addF tyF32 x.toNat y.toNat)

/-- R208, R250: the integer that ±n/d × 2^e rounds to, and whether it is inexact. -/
def roundInt (mode : RMode) (neg : Bool) (n d : Nat) (e : Int) : Int × Bool :=
  let (m, inexact) := roundAt mode 0#32 neg n d e 0
  (if neg then -(m : Int) else m, inexact)

/-- R206: a value of another type narrowed or widened to type t: NaN, infinity (R57) and rounding. -/
def convertVal (t : FTy) (c : RCtx) (x : Val) : Nat × W32 :=
  match x with
  | .nan s => (t.nan, (if t.kind == .finite then flagNV else 0#32) ||| nvIf s)
  | .inf n =>
    let sgn := if n then t.signAt else 0
    match t.kind with
    | .ieee => (sgn + t.inf, 0#32)
    | .e5m2 => if c.satf8 then (sgn + t.top, flagOF) else (sgn + t.inf, 0#32)
    | .e4m3 => if c.satf8 then (sgn + t.top, flagOF) else (t.nan, 0#32)
    | .finite => (sgn + t.top, flagOF)
  | .num n m e => if m == 0 then (if n then t.signAt else 0, 0#32) else roundTo t c n m 1 e

/-- R67: one round of Philox4x32 with the round keys given. -/
def philoxRound (k0 k1 c0 c1 c2 c3 : Nat) : Nat × Nat × Nat × Nat :=
  let p := 0xD2511F53 * c0
  let q := 0xCD9E8D57 * c2
  ((q / 2 ^ 32) ^^^ c1 ^^^ k0, q % 2 ^ 32, (p / 2 ^ 32) ^^^ c3 ^^^ k1, p % 2 ^ 32)

/-- R67: n further rounds. -/
def philoxLoop : Nat → Nat → Nat → Nat → Nat → Nat → Nat → Nat
  | 0, _, _, c0, _, _, _ => c0
  | n + 1, k0, k1, c0, c1, c2, c3 =>
    let (d0, d1, d2, d3) := philoxRound k0 k1 c0 c1 c2 c3
    philoxLoop n ((k0 + 0x9E3779B9) % 2 ^ 32) ((k1 + 0xBB67AE85) % 2 ^ 32) d0 d1 d2 d3

/-- R66, R67: x0 of Philox4x32-10 for a key, a tensor id, a 64-bit linear index, a step and a purpose. -/
def philox (key : W32) (tid : Nat) (index : Nat) (step : W32) (purpose : Nat) : W32 :=
  BitVec.ofNat 32 (philoxLoop 10 key.toNat tid (index % 2 ^ 32) (index / 2 ^ 32 % 2 ^ 32) step.toNat purpose)

/-- R68: the wrapping step order. -/
def later (s l : W32) : Bool := 1 ≤ (s - l).toNat && (s - l).toNat ≤ 2 ^ 31 - 1

end Sys2Proof.Machine
end

