-- ==== Sys2Proof/Machine/Ops.lean ====
section
/-! DEFINITION. The named operations of the machine: registers of the focused pod, the focus itself, fault records and the
fault queue (R347 to R350), taking a fault (R351, R352, R354), resuming, waits, and the outcome of a meaning. -/

namespace Sys2Proof.Machine

/-! ### Trap codes -/

/-- R346: the code of a trap. -/
def Trap.number : Trap → Nat
  | .illegalOpcode => 0x01 | .reservedField => 0x02 | .chainForm => 0x03 | .lookahead => 0x04 | .poolExecution => 0x05
  | .indirectTarget => 0x06 | .misaligned => 0x07 | .translation => 0x08 | .permission => 0x09 | .tensorDescriptor => 0x0A
  | .regionBounds => 0x0B | .shape => 0x0C | .ticketRange => 0x0D | .ticketDuplicate => 0x0E | .ticketGap => 0x0F
  | .srKeyReuse => 0x10 | .lossScaleBound => 0x11 | .stackOverflow => 0x12 | .nestingDepth => 0x13 | .tapeOverflow => 0x14
  | .uncorrectable => 0x15 | .parity => 0x16 | .softwareTrap => 0x17 | .breakpoint => 0x18 | .collectiveTimeout => 0x19
  | .residualBuffer => 0x1A | .barrierObject => 0x1B | .transformFormat => 0x1C | .transformCheck => 0x1D
  | .zilkanDecode => 0x1E | .watchdog => 0x1F

/-- A fault with no code-specific field. -/
def Stop.plain (c : Trap) : Stop := { code := c }

/-! ### Registers of a pod -/

/-- R140: a lane register of a pod, all four lanes. -/
def Pod.reg (p : Pod) (r : Nat) : LaneWord := p.v.getD r (Vector.replicate 4 0#32)

/-- One lane of a lane register. -/
def Pod.lane (p : Pod) (r l : Nat) : W32 := (p.reg r).getD l 0#32

/-- A lane register written in all lanes. -/
def Pod.setReg (p : Pod) (r : Nat) (w : LaneWord) : Pod := { p with v := p.v.setIfInBounds r w }

/-- R30: lanes of the mask take the new word, the others keep the old. -/
def mergeLanes (m : Mask) (old new : LaneWord) : LaneWord :=
  Vector.ofFn fun l : Fin 4 => if m.getLsbD l then new.getD l 0#32 else old.getD l 0#32

/-- A lane register written in the lanes of a mask. -/
def Pod.setLanes (p : Pod) (m : Mask) (r : Nat) (w : LaneWord) : Pod := p.setReg r (mergeLanes m (p.reg r) w)

/-- R140: a predicate; p7 reads 1 in every lane. -/
def Pod.pred (p : Pod) (k : Nat) : Mask := if k < 7 then p.p.getD k 0#4 else 0xF#4

/-- R140: a predicate written in the lanes of a mask; a write of p7 is discarded. -/
def Pod.setPred (p : Pod) (m : Mask) (k : Nat) (w : Mask) : Pod :=
  if k < 7 then { p with p := p.p.setIfInBounds k ((p.pred k &&& ~~~m) ||| (w &&& m)) } else p

/-- A scalar register. -/
def Pod.scalar (p : Pod) (k : Nat) : W32 := p.s.getD k 0#32

/-- A scalar register written. -/
def Pod.setScalar (p : Pod) (k : Nat) (w : W32) : Pod := { p with s := p.s.setIfInBounds k w }

/-- R1: an even scalar pair as a 64-bit value. -/
def Pod.scalarPair (p : Pod) (k : Nat) : W64 := p.scalar (k + 1) ++ p.scalar k

/-- R27: mask entry k of a predicate word. -/
def maskEntry (pw : W32) (k : Nat) : Mask := pw.extractLsb' (4 * k) 4

/-- R27: a predicate word with mask entry k replaced. -/
def setMaskEntry (pw : W32) (k : Nat) (m : Mask) : W32 :=
  (pw &&& ~~~(0xF#32 <<< (4 * k))) ||| (m.zeroExtend 32 <<< (4 * k))

/-- R27: the active mask of a pod. -/
def Pod.active (p : Pod) : Mask := maskEntry p.pw p.md.toNat

/-- R32: the ganging key. -/
def Pod.key (p : Pod) : BitVec 48 × BitVec 2 × BitVec 8 × BitVec 3 := (p.pc, p.slot, p.cd, p.md)

/-- The phase of a pod that goes on: a wait it stood in is over; a sleep or a REJOIN hold begun by the first word of a pair
stays. -/
def Phase.goOn (ph : Phase) : Phase :=
  match ph with
  | .asleep t => .asleep t
  | .waiting .rejoin k => .waiting .rejoin k
  | _ => .ready

/-- R134: the pod goes on n words further, at slot 0 of the next packet after slot 2. -/
def Pod.advance (p : Pod) (n : Nat) : Pod :=
  let k := p.slot.toNat + n
  if k < 3 then { p with slot := BitVec.ofNat 2 k, phase := p.phase.goOn, skip := 0 }
  else { p with pc := p.pc + 1#48, slot := 0#2, phase := p.phase.goOn, skip := 0 }

/-- R134: the pod goes on at slot 0 of a packet. -/
def Pod.jump (p : Pod) (target : BitVec 48) : Pod :=
  { p with pc := target, slot := 0#2, phase := p.phase.goOn, skip := 0 }

/-! ### What an instruction reads: within a chained pair, the state before the pair (R135) -/

/-- The pod whose registers an instruction reads. -/
def srcPod (s : State) : Pod := match s.snap with | some x => x.pod | none => s.pod

/-- The team whose MODE and FLAGS an instruction reads. -/
def srcTeam (s : State) : Team := match s.snap with | some x => x.team | none => s.team

/-- The context whose registers an instruction reads. -/
def srcCtx (s : State) : Context := match s.snap with | some x => x.ctx | none => s.ctx

/-- R30: the active mask of the instruction in issue. -/
def activeMask (s : State) : Mask := (srcPod s).active

/-- The focused pod changed. -/
def State.mapPod (s : State) (f : Pod → Pod) : State := { s with pod := f s.pod }

/-- R63, R64: FLAGS bits of the focused team set. -/
def State.orFlags (s : State) (f : W32) : State := { s with team := { s.team with flags := s.team.flags ||| f } }

/-- The pod goes on n words further. -/
def State.advance (s : State) (n : Nat) : State := s.mapPod (·.advance n)

/-- A scalar of the focused pod written. -/
def State.setScalar (s : State) (k : Nat) (w : W32) : State := s.mapPod (·.setScalar k w)

/-- Scalar k as the instruction reads it. -/
def scalarOf (s : State) (k : Nat) : W32 := (srcPod s).scalar k

/-- An even scalar pair as the instruction reads it. -/
def pairOf (s : State) (k : Nat) : W64 := (srcPod s).scalarPair k

/-! ### The focus -/

/-- An element of a list replaced where a test holds. -/
def replaceIf {α : Type} (l : List α) (test : α → Bool) (f : α → α) : List α := l.map fun x => if test x then f x else x

/-- The focused copies written back to their lists; the focus is closed. -/
def closeFocus (s : State) : State :=
  match s.cur with
  | .none => s
  | .pod t i =>
    let team := { s.team with pods := replaceIf s.team.pods (·.index == i) fun _ => s.pod }
    { s with cur := .none, teams := replaceIf s.teams (·.id == t) (fun _ => team),
             owners := replaceIf s.owners (·.owner == s.ctx.owner) (fun _ => s.ctx),
             grids := replaceIf s.grids (·.handle == s.grid.handle) (fun _ => s.grid) }
  | .sprout t =>
    let team := { s.team with sprout := some s.pod }
    { s with cur := .none, teams := replaceIf s.teams (·.id == t) (fun _ => team),
             owners := replaceIf s.owners (·.owner == s.ctx.owner) (fun _ => s.ctx),
             grids := replaceIf s.grids (·.handle == s.grid.handle) (fun _ => s.grid) }
  | .fabric f =>
    { s with cur := .none, fabric := replaceIf s.fabric (·.index == f) (fun _ => s.fp),
             owners := replaceIf s.owners (·.owner == s.ctx.owner) (fun _ => s.ctx),
             colls := replaceIf s.colls (·.id == s.coll.id) (fun c => { c with stopped := s.coll.stopped }) }

/-- Whether an agent stands in focus. -/
def State.focused (s : State) : Bool := match s.cur with | .none => false | _ => true

/-- An owner's context, the focused copy while it stands in focus. -/
def State.ctxOf (s : State) (n : Nat) : Context :=
  if s.focused && s.ctx.owner == n then s.ctx else (s.owners.find? (·.owner == n)).getD (Context.fresh n)

/-- An owner's context changed, wherever it stands. -/
def State.mapCtx (s : State) (n : Nat) (f : Context → Context) : State :=
  { s with owners := replaceIf s.owners (·.owner == n) f, ctx := if s.ctx.owner == n then f s.ctx else s.ctx }

/-- A team by its number, the focused copy while it stands in focus. -/
def State.teamOf (s : State) (id : Nat) : Option Team :=
  match s.cur with
  | .pod t i => if t == id then some { s.team with pods := replaceIf s.team.pods (·.index == i) fun _ => s.pod }
                else s.teams.find? (·.id == id)
  | .sprout t => if t == id then some { s.team with sprout := some s.pod } else s.teams.find? (·.id == id)
  | _ => s.teams.find? (·.id == id)

/-- A team changed in the list. -/
def State.mapTeam (s : State) (id : Nat) (f : Team → Team) : State := { s with teams := replaceIf s.teams (·.id == id) f }

/-- A pod of a team changed in the list. -/
def State.mapTeamPod (s : State) (id i : Nat) (f : Pod → Pod) : State :=
  s.mapTeam id fun t => { t with pods := replaceIf t.pods (·.index == i) f }

/-- A grid by its handle. -/
def State.gridOf (s : State) (h : W32) : Option Grid := s.grids.find? (·.handle == h)

/-- A grid changed in the list. -/
def State.mapGrid (s : State) (h : W32) (f : Grid → Grid) : State := { s with grids := replaceIf s.grids (·.handle == h) f }

/-- R293: what teams 0 to 3 of a grid add to its sampled bytes and FLOPs. That grids of GLAUNCH and of tape records have a sample too is the model's
choice (log 41). -/
def Grid.sample (g : Grid) (number bytes flops : Nat) : Grid :=
  if number < 4 then { g with bytes := g.bytes + bytes, flops := g.flops + flops } else g

/-- R293: the focused pod's sample; a sprout leaves none (R50). -/
def State.sample (s : State) (bytes flops : Nat) : State :=
  match s.cur with
  | .sprout _ => s
  | _ => { s with grid := s.grid.sample s.team.number bytes flops }

/-- A stream changed. -/
def State.mapStream (s : State) (k : Nat) (f : Stream → Stream) : State :=
  { s with streams := Vector.ofFn fun i : Fin 64 => if i.val == k then f s.streams[i] else s.streams[i] }

/-- A stream by its number. -/
def State.stream (s : State) (k : Nat) : Stream := s.streams.getD k Stream.reset

/-- R281: the stream of a node handle. -/
def handleStream (h : W32) : Nat := h.toNat / 2 ^ 26

/-- An unfinished node by its handle. -/
def State.nodeOf (s : State) (h : W32) : Option Node := (s.stream (handleStream h)).nodes.find? (·.handle == h)

/-- A node changed. -/
def State.mapNode (s : State) (h : W32) (f : Node → Node) : State :=
  s.mapStream (handleStream h) fun st => { st with nodes := replaceIf st.nodes (·.handle == h) f }

/-- R292: a node's work is over, with the status its completion will show (R387). -/
def State.finishNode (s : State) (h : W32) (status : W32) : State :=
  s.mapNode h fun n => match n.status with
    | .finished _ => n
    | _ => { n with status := .finished status }

/-- A focused pod. -/
def openPod (s : State) (t i : Nat) : Option State :=
  match s.teams.find? (·.id == t) with
  | none => none
  | some team =>
    match team.pods.find? (·.index == i), s.gridOf team.handle with
    | some pod, some grid =>
      some { s with cur := .pod t i, pod := pod, team := team, grid := grid, ctx := s.ctxOf team.owner, note := .none, snap := none }
    | _, _ => none

/-- A focused sprout. -/
def openSprout (s : State) (t : Nat) : Option State :=
  match s.teams.find? (·.id == t) with
  | none => none
  | some team =>
    match team.sprout, s.gridOf team.handle with
    | some pod, some grid =>
      some { s with cur := .sprout t, pod := pod, team := team, grid := grid, ctx := s.ctxOf team.owner, note := .none, snap := none }
    | _, _ => none

/-- R296: a collective as one of its processors sees it, with the processor's own CDS, KEY, STEP and TLIM. -/
def Fabric.view (f : Fabric) (c : Collective) : Collective := { c with cds := f.cds, key := f.key, step := f.step, tlim := f.tlim }

/-- A focused fabric processor with its collective. -/
def openFabric (s : State) (f : Nat) : Option State :=
  match s.fabric.find? (·.index == f) with
  | none => none
  | some fp =>
    match fp.coll with
    | none => none
    | some id =>
      match s.colls.find? (·.id == id) with
      | none => none
      | some c => some { s with cur := .fabric f, fp := fp, coll := fp.view c, ctx := s.ctxOf c.owner, note := .none, snap := none }

/-! ### Records and the fault queue -/

/-- Where a record was raised (R347): the fields that name the agent and its place. named: the record is of a COLLECTIVE or TRANSFORM
node, which TERMINATE may end (R353). -/
structure Site where
  owner : Nat
  agent : AgentRef
  kind : Nat
  resum : Bool := false
  second : Bool := false
  named : Bool := false
  node : W32 := 0#32
  handle : W32 := 0#32
  team : Nat := 0
  unit : Nat := 0
  sub : Nat := 0
  pc : Nat := 0
  slot : Nat := 0
  deriving DecidableEq, Repr

/-- R292, R347: the site of a record of the graph engine. -/
def graphSite (owner : Nat) (node grid : W32) : Site :=
  { owner := owner, agent := .graph, kind := 5, node := node, handle := grid }

/-- One bit of a word. -/
def bitAt (b : Bool) (k : Nat) : Nat := if b then 2 ^ k else 0

/-- R347, R348: the 16 words of a record. -/
def recordWords (x : Site) (t : Stop) (warn : Bool) (drops seq : Nat) : List W32 :=
  let w (n : Nat) := BitVec.ofNat 32 n
  [w (t.code.number * 2 ^ 24 + bitAt warn 23 + bitAt x.resum 22 + x.kind * 2 ^ 19 + bitAt x.second 16 + t.cause * 2 ^ 12 + drops),
   w seq, x.node, x.handle, w (x.team % 2 ^ 24), w (x.unit * 2 ^ 12 + x.sub),
   w x.pc, w (x.slot * 2 ^ 16 + x.pc / 2 ^ 32 % 2 ^ 16),
   t.addr.extractLsb' 0 32, t.addr.extractLsb' 32 32, t.info0, t.info1, t.info2, t.info3, 0#32, 0#32]

/-- R378: the entries of a ring, when its size field holds 4 to 12. -/
def Ring.entries (r : Ring) : Nat := if 4 ≤ r.size.toNat && r.size.toNat ≤ 12 then 2 ^ r.size.toNat else 0

/-- Whether a ring has no free entry. -/
def Ring.full (r : Ring) : Bool := decide (r.entries ≤ (r.tail - r.head).toNat)

/-- The virtual address of the entry at a free-running index, entries of n bytes. -/
def Ring.entryAt (r : Ring) (i : W32) (n : Nat) : Nat := r.base.toNat + i.toNat % (max 1 r.entries) * n

/-- R349: a record written into the next free entry of its owner's fault queue, then vector 0; held while the queue is full or
cannot be written. -/
def writeRecord (s : State) (r : Record) (owner : Nat) : State :=
  let c := s.ctxOf owner
  let hold := s.mapCtx owner fun c => { c with held := c.held ++ [r] }
  if c.fq.full || !c.held.isEmpty then hold
  else match engineWrite s c (c.fq.entryAt c.fq.tail 64) (wordsBytes r.words) with
    | .error _ => hold
    | .ok t =>
      let t := t.mapCtx owner fun c => { c with fq := { c.fq with tail := c.fq.tail + 1#32 } }
      { t with out := t.out ++ [.msix owner 0] }

/-- R347, R349: a record posted for an owner: it takes the next SEQ, is kept for RESUME and TERMINATE, and is written. -/
def postRecord (s : State) (x : Site) (t : Stop) : State :=
  let c := s.ctxOf x.owner
  let r : Record := { words := recordWords x t false 0 c.seq, seq := c.seq, code := t.code, resum := x.resum, agent := x.agent,
                      handle := x.handle, node := x.node, uid := (s.gridOf x.handle).map (·.uid), stamp := if x.named then (s.nodeOf x.node).map (·.stamp) else none, answered := false }
  let s := s.mapCtx x.owner fun c => { c with seq := c.seq + 1, records := c.records ++ [r] }
  writeRecord s r x.owner

/-- R349: held records written while entries are free, in SEQ order; fuel is the number held. -/
def flushHeld (s : State) (owner : Nat) : Nat → State
  | 0 => s
  | n + 1 =>
    match (s.ctxOf owner).held with
    | [] => s
    | r :: rest =>
      let t := writeRecord (s.mapCtx owner fun c => { c with held := [] }) r owner
      if (t.ctxOf owner).held.isEmpty then flushHeld (t.mapCtx owner fun c => { c with held := rest }) owner n else s

/-- R21, R350: the source that a grid is for a warning; a later grid of its handle is another. -/
def gridSource (s : State) (h : W32) : WarnSource := .grid (((s.gridOf h).map (·.uid)).getD 0)

/-- R350: the warnings of one code and source that an owner has had. -/
def warnedOf (c : Context) (code : Trap) (src : WarnSource) : Warned :=
  (c.warned.find? fun w => w.code == code && w.source == src).getD ⟨code, src, [], 0⟩

/-- R350: a warning, limited to 16 per 2^20 fabric clocks of its source; one that is suppressed or finds the queue full counts in
DROPS of the next. -/
def postWarning (s : State) (x : Site) (t : Stop) (src : WarnSource) : State :=
  let c := s.ctxOf x.owner
  let w := warnedOf c t.code src
  let recent := w.times.filter fun k => decide (s.fabClock < k + 2 ^ 20)
  let others := c.warned.filter fun v => !(v.code == t.code && v.source == src)
  let drop := s.mapCtx x.owner fun c => { c with warned := ⟨t.code, src, recent, min 4095 (w.drops + 1)⟩ :: others }
  if 16 ≤ recent.length || c.fq.full || !c.held.isEmpty then drop
  else
    let r : Record := { words := recordWords x t true w.drops c.seq, seq := c.seq, code := t.code, resum := false,
                        agent := x.agent, handle := x.handle, node := x.node, uid := (s.gridOf x.handle).map (·.uid),
                        stamp := if x.named then (s.nodeOf x.node).map (·.stamp) else none, answered := false }
    let s := s.mapCtx x.owner fun c =>
      { c with seq := c.seq + 1, records := c.records ++ [r], warned := ⟨t.code, src, s.fabClock :: recent, 0⟩ :: others }
    writeRecord s r x.owner

/-! ### Terminating -/

/-- R240, R248: a ticketed MDRAIN. -/
def MatCmd.ticketed (m : MatCmd) : Bool :=
  match m.instr with
  | .mdrain _ _ _ _ _ _ => m.sx.getLsbD 28
  | _ => false

/-- R241, R352: a matrix command that has begun to write, and runs to completion: one that has started, but a TROT leg only once
its rotation is done, and a ticketed MDRAIN never, since its updates are accepted one by one. -/
def MatCmd.begun (m : MatCmd) : Bool :=
  m.started && m.stopped.isNone && !m.ticketed && (match m.instr with | .trot _ _ _ => decide (0 < m.next) | _ => true)

/-- R275, R352: the unretired descendants of a set of grids, added in as many rounds as fuel allows. -/
def withDescendants (grids : List Grid) : Nat → List W32 → List W32
  | 0, hs => hs
  | n + 1, hs =>
    let kids := (grids.filter fun g => match g.parent with | some p => hs.contains p && !hs.contains g.handle | none => false).map (·.handle)
    withDescendants grids n (hs ++ kids)

/-- A pod that termination ends (R352). -/
def Pod.kill (p : Pod) : Pod := { p with phase := .ended, pending := [], windows := [], held := [], grant := none }

/-- A team whose pods end and whose queued copies are discarded (R92, R352). Its sprout ends when the team does (R49). -/
def Team.kill (t : Team) : Team :=
  { t with pods := t.pods.map Pod.kill, chans := t.chans.map fun c => { c with current := none, queue := [], stopped := none } }

/-- R352: a grid and its unretired descendants terminated: pods end, commands that have not begun to write and pending ticket
entries are discarded; started matrix commands complete; each grid ends with a CODE and its node with a status (R276, R387). -/
def terminateGrids (s : State) (roots : List W32) (code : Nat) (status : W32) : State :=
  let hs := withDescendants s.grids s.grids.length roots
  let hit (h : W32) := hs.contains h
  let ids := (s.teams.filter fun t => hit t.handle).map (·.id)
  { s with
    grids := s.grids.map fun g => if hit g.handle then (match g.status with
      | .running => { g with status := .ending code status }
      | _ => g) else g
    teams := s.teams.map fun t => if hit t.handle then t.kill else t
    mats := s.mats.filter fun m => m.begun || !ids.contains m.team
    owners := s.owners.map fun c => { c with entries := c.entries.filter (fun e => !ids.contains e.team),
                                             image := { c.image with spill := c.image.spill.filter fun e => !ids.contains e.2.team } } }

/-- R221, R298: bytes that the graph engine writes for an owner; a write that faults leaves a record of it and no byte. -/
def writeReported (s : State) (owner va : Nat) (b : List Byte) : State :=
  match engineWrite s (s.ctxOf owner) va b with
  | .ok t => t
  | .error e => postRecord s (graphSite owner 0#32 0#32) e

/-- R298: a fabric-queue request completed: its sequence number and its status in its pair; the request leaves its queue. That a pair that cannot be
written is reported and left, and that one at an odd place is written there, is the model's choice (log 45). -/
def completeRequest (s : State) (owner q seq : Nat) (done : W64) (status : Nat) : State :=
  let s := writeReported s owner done.toNat (natBytes 4 seq ++ natBytes 4 status)
  s.mapCtx owner fun c => { c with queues := c.queues.map fun f =>
    if f.index == q then { f with requests := f.requests.filter fun r => r.seq != seq } else f }

/-- R311: whether a transfer is posted, so that a fence awaits its acknowledgement. -/
def Transfer.posted (t : Transfer) : Bool :=
  match t.kind with
  | .fetch | .clone => false
  | _ => true

/-- R311: the waited transfer at which a processor stands. -/
def Fabric.waited (f : Fabric) : Option Transfer :=
  match f.phase with
  | .waiting .engine _ => f.transfers.find? fun t => !t.posted && f.coll == some t.coll
  | _ => none

/-- A processor that runs nothing more; its transfers in flight go on landing. -/
def Fabric.idle (f : Fabric) : Fabric := { f with coll := none, phase := .ended }

/-- R330: a processor of a collective that is over is idle at its next boundary: at once, or, where it stands at a waited transfer, when that is
complete. -/
def Fabric.leave (f : Fabric) (id : Nat) : Fabric := if f.coll == some id && f.waited.isNone then f.idle else f

/-- Whether a processor works for an owner: it runs a collective of it, or stands at a waited transfer that one which is over has left. -/
def ownsProcessor (s : State) (owner : Nat) (f : Fabric) : Bool :=
  (s.colls.any fun c => f.coll == some c.id && c.owner == owner) || f.waited.any (·.owner == owner)

/-- R297, R298, R330: a collective over, normally (0) or with a code: its processors, saved ones too, are idle and its node or request
ends. -/
def endCollective (s : State) (id code : Nat) : State :=
  match s.colls.find? (·.id == id) with
  | none => s
  | some c =>
    let s := { s with colls := s.colls.filter (·.id != id),
                      fabric := s.fabric.map (·.leave id),
                      owners := s.owners.map fun o => { o with processors := o.processors.map (·.leave id) } }
    match c.queue with
    | some (q, seq) => completeRequest s c.owner q seq c.done code
    | none => s.finishNode c.node (BitVec.ofNat 32 code)

/-- R343: a transform node over, with a status: its engine, or its place among the suspended, is free. -/
def endTransform (s : State) (node : W32) (status : W32) : State :=
  let off (x : Option Xform) : Option Xform := x.filter fun x => x.node != node
  State.finishNode { s with xforms := s.xforms.map off, parked := s.parked.filter (·.node != node) } node status

/-- The transform nodes that an owner has started. -/
def ownerTransforms (s : State) (owner : Nat) : List W32 :=
  ((s.xforms.toList.filterMap id ++ s.parked).filter (·.owner == owner)).map (·.node)

/-- R47: whether a grid has retired. -/
def Grid.retired (g : Grid) : Bool := match g.status with | .retired _ _ _ => true | _ => false

/-- Whether a node runs. -/
def Node.runs (n : Node) : Bool := match n.status with | .running => true | _ => false

/-- R47: whether a node runs a grid that has not retired: it completes only when that grid retires. -/
def gridRuns (s : State) (n : Node) : Bool := n.runs && (n.grid.bind s.gridOf).any fun g => !g.retired

/-- R354: the end of a context: every grid, collective and transform node of the owner terminates and every unfinished node
fails, one that runs a grid when the grid retires (R47); the owner runs nothing until it is created again. status is that of its nodes (R387). -/
def endContext (s : State) (owner code status : Nat) : State :=
  let st := BitVec.ofNat 32 status
  let roots := (s.grids.filter (·.owner == owner)).map (·.handle)
  let s := terminateGrids s roots code st
  let s := (s.colls.filter (·.owner == owner)).foldl (fun s c => endCollective s c.id status) s
  let s := (ownerTransforms s owner).foldl (fun s h => endTransform s h st) s
  let s := { s with streams := (s.streams.map fun (m : Stream) =>
    if m.owner.toNat == owner then
      { m with nodes := (m.nodes.map fun (n : Node) => match n.status with
          | .finished _ => n
          | _ => if gridRuns s n then n else { n with status := .finished st }) }
    else m) }
  s.mapCtx owner fun c => { c with dead := true }

/-! ### Taking a fault -/

/-- R347: the site of the focused pod. -/
def podSite (s : State) (second : Bool) : Site :=
  { owner := s.ctx.owner, agent := .pod s.team.id s.pod.index, kind := 0, resum := s.grid.susp, second := second,
    node := s.grid.node, handle := s.grid.handle, team := s.team.number, unit := s.team.core, sub := s.pod.index,
    pc := s.pod.pc.toNat, slot := s.pod.slot.toNat }

/-- R347: the site of the focused fabric processor. -/
def fabricSite (s : State) : Site :=
  { owner := s.ctx.owner, agent := .fabric s.fp.index, kind := 4, resum := s.coll.susp, named := s.coll.queue.isNone, node := s.coll.node,
    unit := s.fp.index, pc := s.fp.pc.toNat }

/-- R348: the codes 0x01 to 0x05 and 0x1E carry the faulting word in INFO0. -/
def withWord (s : State) (t : Stop) : Stop :=
  match t.code with
  | .illegalOpcode | .reservedField | .chainForm | .lookahead | .poolExecution | .zilkanDecode => { t with info0 := s.word }
  | _ => t

/-- R45, R351 to R354: a fault of the focused pod. The pod stands at its stopping point; the record is posted to its owner's
fault queue; with SUSP the pod is suspended and its team runs on, without it the grid and its descendants terminate; PARITY
ends the context. A pod of a grid that is already being terminated writes no record. -/
def takePodTrap (s : State) (t : Stop) (second : Bool) : State :=
  let t := withWord s t
  let s := s.mapPod fun p => { p with grant := none }
  let x := podSite s second
  let seq := s.ctx.seq
  let live := match s.grid.status with | .running => true | _ => false
  if t.code == .parity then
    endContext (closeFocus (postRecord s { x with resum := false } t)) s.ctx.owner t.code.number t.code.number
  else if !live then closeFocus (s.mapPod Pod.kill)
  else if s.grid.susp then
    closeFocus (postRecord (s.mapPod fun p => { p with phase := .suspended seq }) x t)
  else
    terminateGrids (closeFocus (postRecord s x t)) [s.grid.handle] t.code.number (BitVec.ofNat 32 t.code.number)

/-- R330: a fault of the focused fabric processor: with SUSP the collective is suspended, without it the collective ends. -/
def takeFabricTrap (s : State) (t : Stop) : State :=
  let t := withWord s t
  let x := fabricSite s
  let seq := s.ctx.seq
  if s.coll.susp then
    let s := { s with fp := { s.fp with phase := .suspended seq }, coll := { s.coll with stopped := s.coll.stopped ++ [seq] } }
    closeFocus (postRecord s x t)
  else endCollective (closeFocus (postRecord s x t)) s.coll.id t.code.number

/-- R49, R50: the sprout ends silently. -/
def endSprout (s : State) : State :=
  match s.cur with
  | .sprout t => let s := closeFocus s; s.mapTeam t fun m => { m with sprout := none }
  | _ => s

/-- Taking a fault, by the agent in focus. -/
def takeTrap (s : State) (t : Stop) : State :=
  let r := match s.cur with
    | .sprout _ => endSprout s
    | .fabric _ => takeFabricTrap s t
    | _ => takePodTrap s t false
  { r with note := .trapped t }

/-- The clock at which a wait of a kind began: kept while the agent re-issues the same wait. -/
def waitSince (s : State) (ph : Phase) (w : Wait) : Nat :=
  match ph with
  | .waiting v k => if v == w then k else s.clock
  | _ => s.clock

/-- R41, R237: the focused agent stops at its instruction and waits. -/
def markWait (s : State) (w : Wait) : State :=
  let s := { s with note := .waits w }
  match s.cur with
  | .fabric _ => { s with fp := { s.fp with phase := .waiting w (waitSince s s.fp.phase w) } }
  | .sprout _ => s
  | _ => s.mapPod fun p => { p with phase := .waiting w (waitSince s p.phase w) }

/-- Why a meaning did not complete: a fault (R150, R351) or a wait. -/
inductive Halt where
  | trap (t : Stop)
  | wait (w : Wait)
  deriving DecidableEq, Repr

/-- The outcome of a meaning: its next state; or the fault taken; or the wait begun. -/
def settle (s : State) (r : Except Halt State) : Host.Outcome State Fault Refusal :=
  match r with
  | .ok t => .next t
  | .error (.trap x) => .next (takeTrap s x)
  | .error (.wait w) => .next (markWait s w)

/-- A computation that only faults, as a step of a meaning. -/
def orTrap {α : Type} (r : Except Stop α) : Except Halt α :=
  match r with
  | .ok a => .ok a
  | .error t => .error (.trap t)

/-- A fault raised when a condition fails. -/
def require (ok : Bool) (t : Stop) : Except Halt Unit := if ok then .ok () else .error (.trap t)

/-- A fresh number for a command or an outstanding result. -/
def State.freshId (s : State) : State × Nat := ({ s with ids := s.ids + 1 }, s.ids)

/-- R148: the scalar result of an instruction whose LA destination is a scalar: outstanding under LA = n, with its window, or
written at once with LA = 0. The window counts its own word, which issue takes off. -/
def State.scalarResult (s : State) (k : Nat) (w : W32) (la : Nat) : State :=
  if la == 0 then s.setScalar k w
  else
    { s with ids := s.ids + 1,
             pod := { s.pod with pending := s.pod.pending ++ [⟨s.ids, .scalar k w⟩], windows := s.pod.windows ++ [⟨true, k, 1, la + 1⟩] } }

/-- R148: the lane results of a long-latency instruction: outstanding, under a mask, with its window of LA words. -/
def State.laneResult (s : State) (m : Mask) (r : Nat) (vals : List LaneWord) (la : Nat) : State :=
  { s with ids := s.ids + 1,
           pod := { s.pod with pending := s.pod.pending ++ [⟨s.ids, .lanes m r vals⟩],
                               windows := s.pod.windows ++ [⟨false, r, vals.length, la + 1⟩] } }

/-- Consecutive lane registers written under a mask. -/
def Pod.putLanes (p : Pod) (m : Mask) (r : Nat) : List LaneWord → Pod
  | [] => p
  | w :: rest => (p.setLanes m r w).putLanes m (r + 1) rest

/-- R148: an outstanding result written to its destination. -/
def Pod.deliver (p : Pod) (r : Result) : Pod :=
  match r with
  | .lanes m k vals => p.putLanes m k vals
  | .pred m k w => p.setPred m k w
  | .scalar k w => p.setScalar k w

/-- An outstanding result delivered by its number; the scoreboard releases it. -/
def Pod.deliverTag (p : Pod) (tag : Nat) : Pod :=
  match p.pending.find? (·.tag == tag) with
  | none => p
  | some x => { p.deliver x.res with pending := p.pending.filter (·.tag != tag) }

/-- Every outstanding result delivered, oldest first (R149). -/
def Pod.deliverAll (p : Pod) : Pod := { p.pending.foldl (fun q x => q.deliver x.res) p with pending := [] }

end Sys2Proof.Machine
end

