-- ==== Sys2Proof/Machine/Operands.lean ====
section
/-! DEFINITION. Operands: which registers an instruction reads and writes (R140, R148), and the operand forms the meanings share:
memory offsets (R145, R212), immediates, and lane words. -/

namespace Sys2Proof.Machine

/-- A group of consecutive registers: lane registers, scalars, or one predicate. -/
inductive RegRef where
  | lane (r n : Nat)
  | scalar (r n : Nat)
  | pred (k : Nat)
  deriving DecidableEq, Repr

/-- R193: the float-to-float words that read D: those whose types allow SR, with F = 6 or F = 0. -/
def cvtReadsD (f t s : BitVec 3) : Bool := decide (fltBits t < fltBits s) && (f == 6#3 || f == 0#3)

/-- R148: the registers that an instruction reads. -/
def regReads : Instr → List RegRef
  | .bra p n _ => if n == 0#2 then [] else [.pred p.toNat]
  | .call p n _ => if n == 0#2 then [] else [.pred p.toNat]
  | .brx a => [.scalar a.toNat 2]
  | .callx a => [.scalar a.toNat 2]
  | .nop => []
  | .land => []
  | .rejoin => []
  | .ret => []
  | .exit => []
  | .yield => []
  | .melse => []
  | .mpop => []
  | .mpush f => [.pred f.toNat]
  | .sleep _ => []
  | .trap _ => []
  | .brk _ => []
  | .sysrd _ _ _ => []
  | .syswr _ a => [.scalar a.toNat 1]
  | .cntrd _ _ => []
  | .srkey _ a => [.scalar a.toNat 1]
  | .srstep a => [.scalar a.toNat 1]
  | .iadd _ _ a b => [.lane a.toNat 1, .lane b.toNat 1]
  | .isub _ _ a b => [.lane a.toNat 1, .lane b.toNat 1]
  | .iaddi _ _ a => [.lane a.toNat 1]
  | .imul _ _ a b => [.lane a.toNat 1, .lane b.toNat 1]
  | .imulh _ _ a b => [.lane a.toNat 1, .lane b.toNat 1]
  | .imad _ d a b => [.lane d.toNat 1, .lane a.toNat 1, .lane b.toNat 1]
  | .imin _ _ a b => [.lane a.toNat 1, .lane b.toNat 1]
  | .imax _ _ a b => [.lane a.toNat 1, .lane b.toNat 1]
  | .iabs _ _ a => [.lane a.toNat 1]
  | .icmp _ _ a b => [.lane a.toNat 1, .lane b.toNat 1]
  | .isel f _ a b => [.lane a.toNat 1, .lane b.toNat 1, .pred f.toNat]
  | .shl _ a b => [.lane a.toNat 1, .lane b.toNat 1]
  | .shr _ a b => [.lane a.toNat 1, .lane b.toNat 1]
  | .sar _ a b => [.lane a.toNat 1, .lane b.toNat 1]
  | .rol _ a b => [.lane a.toNat 1, .lane b.toNat 1]
  | .shli _ a _ => [.lane a.toNat 1]
  | .shri _ a _ => [.lane a.toNat 1]
  | .sari _ a _ => [.lane a.toNat 1]
  | .and _ a b => [.lane a.toNat 1, .lane b.toNat 1]
  | .or _ a b => [.lane a.toNat 1, .lane b.toNat 1]
  | .xor _ a b => [.lane a.toNat 1, .lane b.toNat 1]
  | .andn _ a b => [.lane a.toNat 1, .lane b.toNat 1]
  | .andi _ _ a => [.lane a.toNat 1]
  | .ori _ _ a => [.lane a.toNat 1]
  | .xori _ _ a => [.lane a.toNat 1]
  | .clz _ a => [.lane a.toNat 1]
  | .popc _ a => [.lane a.toNat 1]
  | .brev _ a => [.lane a.toNat 1]
  | .bfx _ _ a b => [.lane a.toNat 1, .lane b.toNat 1]
  | .bfi d a b => [.lane d.toNat 1, .lane a.toNat 1, .lane b.toNat 1]
  | .mov _ a => [.lane a.toNat 1]
  | .movi _ _ => []
  | .movl _ _ => []
  | .movs _ a => [.scalar a.toNat 1]
  | .smov _ a _ => [.lane a.toNat 1]
  | .smovi _ _ => []
  | .smoviLiteral _ _ => []
  | .sadd _ a b => [.scalar a.toNat 1, .scalar b.toNat 1]
  | .saddi _ a _ => [.scalar a.toNat 1]
  | .saddiLiteral _ a _ => [.scalar a.toNat 1]
  | .sand _ a b => [.scalar a.toNat 1, .scalar b.toNat 1]
  | .sshl _ a _ _ => [.scalar a.toNat 1]
  | .padd _ _ a b => [.lane a.toNat 1, .lane b.toNat 1]
  | .psub _ _ a b => [.lane a.toNat 1, .lane b.toNat 1]
  | .pmin _ _ _ a b => [.lane a.toNat 1, .lane b.toNat 1]
  | .pmax _ _ _ a b => [.lane a.toNat 1, .lane b.toNat 1]
  | .pabd _ _ _ a b => [.lane a.toNat 1, .lane b.toNat 1]
  | .pavg _ _ _ a b => [.lane a.toNat 1, .lane b.toNat 1]
  | .pmul _ _ _ a b => [.lane a.toNat 1, .lane b.toNat 1]
  | .pmulh _ _ _ a b => [.lane a.toNat 1, .lane b.toNat 1]
  | .pshl _ _ a b => [.lane a.toNat 1, .lane b.toNat 1]
  | .pshr _ _ _ a b => [.lane a.toNat 1, .lane b.toNat 1]
  | .pacs _ _ a b => [.lane a.toNat 1, .lane b.toNat 1]
  | .dot4 _ d a b => [.lane d.toNat 1, .lane a.toNat 1, .lane b.toNat 1]
  | .dot8 _ d a b => [.lane d.toNat 1, .lane a.toNat 1, .lane b.toNat 1]
  | .dot2 _ d a b => [.lane d.toNat 1, .lane a.toNat 1, .lane b.toNat 1]
  | .ppack _ d a b => [.lane d.toNat 2, .lane a.toNat 1, .lane b.toNat 1]
  | .punpk _ _ a b => [.lane a.toNat 2, .lane b.toNat 1]
  | .tbl n _ d a => [.lane d.toNat 1, .lane a.toNat (2 ^ n.toNat)]
  | .shfl _ _ a b => [.lane a.toNat 1, .lane b.toNat 1]
  | .scan _ a _ _ _ => [.lane a.toNat 1]
  | .red _ a _ _ => [.lane a.toNat 1]
  | .voteAny _ _ a => [.pred a.toNat]
  | .voteAll _ _ a => [.pred a.toNat]
  | .voteCount _ _ a => [.pred a.toNat]
  | .votePack _ _ a => [.pred a.toNat]
  | .matchLanes _ _ a => [.lane a.toNat 1]
  | .plog _ _ a b => [.pred a.toNat, .pred b.toNat]
  | .pmovPredicateFromRegister _ a => [.lane a.toNat 1]
  | .pmovRegisterFromPredicate _ a => [.pred a.toNat]
  | .pmovPredicateFromPredicate _ a => [.pred a.toNat]
  | .fadd _ _ a b => [.lane a.toNat 1, .lane b.toNat 1]
  | .fsub _ _ a b => [.lane a.toNat 1, .lane b.toNat 1]
  | .fmul _ _ a b => [.lane a.toNat 1, .lane b.toNat 1]
  | .ffma _ d a b => [.lane d.toNat 1, .lane a.toNat 1, .lane b.toNat 1]
  | .fmin _ a b => [.lane a.toNat 1, .lane b.toNat 1]
  | .fmax _ a b => [.lane a.toNat 1, .lane b.toNat 1]
  | .fabs _ a => [.lane a.toNat 1]
  | .fneg _ a => [.lane a.toNat 1]
  | .fcmp _ _ a b => [.lane a.toNat 1, .lane b.toNat 1]
  | .fclass _ a => [.lane a.toNat 1]
  | .fscale _ _ a b => [.lane a.toNat 1, .lane b.toNat 1]
  | .frcp _ a _ => [.lane a.toNat 1]
  | .frsq _ a _ => [.lane a.toNat 1]
  | .fsqrt _ a _ => [.lane a.toNat 1]
  | .fexp2 _ a _ => [.lane a.toNat 1]
  | .flog2 _ a _ => [.lane a.toNat 1]
  | .fsin _ a _ => [.lane a.toNat 1]
  | .fcos _ a _ => [.lane a.toNat 1]
  | .ftanh _ a _ => [.lane a.toNat 1]
  | .bfadd2 _ _ a b => [.lane a.toNat 1, .lane b.toNat 1]
  | .bfmul2 _ _ a b => [.lane a.toNat 1, .lane b.toNat 1]
  | .bffma2 _ d a b => [.lane d.toNat 1, .lane a.toNat 1, .lane b.toNat 1]
  | .cvtFloatToFloat f d a t s k => [.lane a.toNat (cvtRegs (fltWidth s) (cvtCount (fltWidth s) (fltWidth t) k) k)] ++ (if cvtReadsD f t s then [.lane d.toNat 1] else [])
  | .cvtFloatToInteger _ _ a t s k => [.lane a.toNat (cvtRegs (fltWidth s) (cvtCount (fltWidth s) (intWidth t) k) k)]
  | .cvtIntegerToFloat _ _ a t s k => [.lane a.toNat (cvtRegs (intWidth s) (cvtCount (intWidth s) (fltWidth t) k) k)]
  | .cvtIntegerToInteger _ _ a t s k => [.lane a.toNat (cvtRegs (intWidth s) (cvtCount (intWidth s) (intWidth t) k) k)]
  | .sclx _ a _ => [.lane a.toNat 8]
  | .lsupd _ => []
  | .ldgN8 _ _ a _ => [.lane a.toNat 2]
  | .ldgN16 _ _ a _ => [.lane a.toNat 2]
  | .ldgI32 _ _ a _ => [.lane a.toNat 2]
  | .ldgI64 _ _ a _ => [.lane a.toNat 2]
  | .ldgB128 _ _ a _ => [.lane a.toNat 2]
  | .ldtN8 _ _ a _ => [.lane a.toNat 1]
  | .ldtN16 _ _ a _ => [.lane a.toNat 1]
  | .ldtI32 _ _ a _ => [.lane a.toNat 1]
  | .ldtI64 _ _ a _ => [.lane a.toNat 1]
  | .ldtB128 _ _ a _ => [.lane a.toNat 1]
  | .lddN8 _ _ a _ => [.lane a.toNat 1]
  | .lddN16 _ _ a _ => [.lane a.toNat 1]
  | .lddI32 _ _ a _ => [.lane a.toNat 1]
  | .lddI64 _ _ a _ => [.lane a.toNat 1]
  | .lddB128 _ _ a _ => [.lane a.toNat 1]
  | .ldk _ _ _ _ => []
  | .stg _ d a w => [.lane a.toNat 2, .lane d.toNat (regsOfWidth w)]
  | .stt _ d a w => [.lane a.toNat 1, .lane d.toNat (regsOfWidth w)]
  | .std _ d a w => [.lane a.toNat 1, .lane d.toNat (regsOfWidth w)]
  | .stk _ d w => [.lane d.toNat (regsOfWidth w)]
  | .pref _ a => [.lane a.toNat 2]
  | .discard _ a => [.lane a.toNat 2]
  | .flush _ a => [.lane a.toNat 2]
  | .aadd d a _ w => [.lane a.toNat 2, .lane d.toNat (1 + w.toNat)]
  | .amin d a _ w _ => [.lane a.toNat 2, .lane d.toNat (1 + w.toNat)]
  | .amax d a _ w _ => [.lane a.toNat 2, .lane d.toNat (1 + w.toNat)]
  | .aand d a _ w => [.lane a.toNat 2, .lane d.toNat (1 + w.toNat)]
  | .aor d a _ w => [.lane a.toNat 2, .lane d.toNat (1 + w.toNat)]
  | .axor d a _ w => [.lane a.toNat 2, .lane d.toNat (1 + w.toNat)]
  | .axch d a _ w => [.lane a.toNat 2, .lane d.toNat (1 + w.toNat)]
  | .acas d a _ w => [.lane a.toNat 2, .lane d.toNat (2 + 2 * w.toNat)]
  | .afadd d a _ _ => [.lane a.toNat 2, .lane d.toNat 1]
  | .tkfadd d a _ => [.lane a.toNat 2, .lane d.toNat 5]
  | .tkreg x y => [.scalar x.toNat 1, .scalar y.toNat 2]
  | .tkskip x y => [.scalar x.toNat 1, .scalar y.toNat 2]
  | .tkfence _ => []
  | .tkqry _ y _ => [.scalar y.toNat 2]
  | .fenceAcq _ => []
  | .fenceRel _ => []
  | .fenceAr _ => []
  | .bar => []
  | .barrive _ y _ _ => [.scalar y.toNat 2]
  | .bwait x y _ => [.scalar x.toNat 1, .scalar y.toNat 2]
  | .btry x y _ => [.scalar x.toNat 1, .scalar y.toNat 2]
  | .waitptr x _ => [.scalar x.toNat 1]
  | .waitmem x y _ => [.scalar x.toNat 1, .scalar y.toNat 2]
  | .shape x y z => [.scalar x.toNat 1, .scalar y.toNat 1, .scalar z.toNat 1]
  | .shapeq _ => []
  | .mma _ x y z _ _ => [.scalar x.toNat 1, .scalar y.toNat 1, .scalar z.toNat 1]
  | .mmab _ x y z _ _ => [.scalar x.toNat 1, .scalar y.toNat 1, .scalar z.toNat 1]
  | .mdrain _ x y z _ _ => [.scalar x.toNat 1, .scalar y.toNat 1, .scalar z.toNat 2]
  | .tzero x y _ => [.scalar x.toNat 1, .scalar y.toNat 1]
  | .trot x y _ => [.scalar x.toNat 1, .scalar y.toNat 1]
  | .tcpy x y z _ => [.scalar x.toNat 1, .scalar y.toNat 2, .scalar z.toNat 1]
  | .tcpyw x y z _ => [.scalar x.toNat 1, .scalar y.toNat 1, .scalar z.toNat 1]
  | .tdset x y => [.scalar x.toNat 1, .scalar y.toNat 2]
  | .tdget x y => [.scalar x.toNat 1, .scalar y.toNat 2]
  | .tdinv x => [.scalar x.toNat 1]
  | .tscl _ x y z _ => [.scalar x.toNat 1, .scalar y.toNat 1, .scalar z.toNat 1]
  | .glaunch _ y _ => [.scalar y.toNat 2]
  | .gwait x => [.scalar x.toNat 1]
  | .gwaitTry x => [.scalar x.toNat 1]
  | .gnode x y _ => [.scalar x.toNat 1, .scalar y.toNat 2]
  | .tapepush _ y _ => [.scalar y.toNat 2]
  | .fqpost x y _ => [.scalar x.toNat 1, .scalar y.toNat 2]
  | .poolMarker _ => []
  | .zli _ _ _ => []
  | .zadd _ _ _ _ _ => []
  | .zsub _ _ _ _ _ => []
  | .zshl _ _ _ _ _ => []
  | .zand _ _ _ _ _ => []
  | .zbr _ _ _ _ => []
  | .zloop _ _ => []
  | .zld _ _ _ _ => []
  | .zst _ _ _ _ => []
  | .zsend _ _ _ => []
  | .zags _ _ _ _ => []
  | .zfetch _ _ _ => []
  | .zckpt _ _ => []
  | .zclone _ _ _ _ => []
  | .zqnt _ _ _ => []
  | .zrsc _ _ _ => []
  | .zrsf _ _ => []
  | .zdqa _ _ => []
  | .zwaitBar _ _ _ => []
  | .zwaitFlag _ _ _ => []
  | .zsig _ _ _ _ _ => []
  | .zsigRemote _ _ _ _ => []
  | .zfenceAcq _ => []
  | .zfenceRel _ => []
  | .zfenceAr _ => []
  | .zcyc _ => []
  | .ztrap _ => []
  | .zhalt => []
  | .moduleReset => []
  | .hernusBoot => []
  | .linkTraining => []
  | .overtempReset => []
  | .throttleStepDown => []
  | .throttleStepUp => []
  | .functionLevelReset _ => []
  | .tdiError _ => []
  | .hostPostedWrite _ _ _ => []
  | .hostRead _ _ _ => []
  | .registerWrite _ _ _ => []
  | .posttailWrite _ _ _ => []
  | .cplheadWrite _ _ _ => []
  | .streamEnable _ _ => []
  | .fqheadWrite _ _ => []
  | .mrheadWrite _ _ => []
  | .mstailWrite _ _ => []
  | .winload _ _ => []
  | .inval _ _ _ => []
  | .resume _ _ => []
  | .terminate _ _ => []
  | .termgrid _ _ => []
  | .create _ _ _ _ _ _ => []
  | .setgrant _ _ _ => []
  | .destroy _ _ => []
  | .attest _ _ _ => []
  | .logread _ => []
  | .fusedSvnRaise _ _ => []
  | .nodeAppend _ => []
  | .teamStart _ _ => []
  | .collectiveStart _ => []
  | .transformNodeStart _ => []
  | .copyNode _ => []
  | .signalNode _ => []
  | .tapeNodeStart _ => []
  | .tapePop _ => []
  | .teamEnd _ => []
  | .gridRetirement _ => []
  | .nodeCompletion _ => []
  | .quantumEnd _ => []
  | .loadDataReturn _ _ _ => []
  | .bunchConvergence _ _ => []
  | .rejoinHoldEnd _ _ => []
  | .sleepEnd _ _ => []
  | .watchdog _ _ => []
  | .bwaitCompletion _ _ => []
  | .waitmemCompletion _ _ => []
  | .zwaitCompletion _ => []
  | .matrixCommandStart _ => []
  | .matrixCommandCompletion _ => []
  | .trotRotation _ => []
  | .copyCommandStart _ _ => []
  | .copyGranuleDelivery _ _ => []
  | .ticketUpdateAccept _ => []
  | .ticketGap _ _ _ => []
  | .transformGranuleWrite _ => []
  | .transformInputArrival _ _ _ => []
  | .transformInputTimeout _ => []
  | .transferAcknowledgement _ _ _ => []
  | .waitedTransferCompletion _ _ _ => []
  | .rmaWriteArrival _ _ _ _ _ => []
  | .rmaReadArrival _ _ _ _ _ => []
  | .remoteArrival _ _ _ _ _ => []
  | .managementReceive _ _ _ _ => []
  | .managementSendCompletion _ _ => []
  | .collectiveTimeout _ => []
  | .hbmPatrolScrub _ => []
  | .counterCarry _ _ _ _ => []
  | .packetRetransmission _ => []
  | .nodeBarrierWaitMet _ => []
  | .postedTransferLocalCompletion _ _ => []

/-- R148: the registers that an instruction writes. -/
def regWrites : Instr → List RegRef
  | .bra _ _ _ => []
  | .call _ _ _ => []
  | .brx _ => []
  | .callx _ => []
  | .nop => []
  | .land => []
  | .rejoin => []
  | .ret => []
  | .exit => []
  | .yield => []
  | .melse => []
  | .mpop => []
  | .mpush _ => []
  | .sleep _ => []
  | .trap _ => []
  | .brk _ => []
  | .sysrd f d _ => [(if f == 0#1 then .lane d.toNat 1 else .scalar d.toNat 1)]
  | .syswr _ _ => []
  | .cntrd d _ => [.scalar d.toNat 2]
  | .srkey _ _ => []
  | .srstep _ => []
  | .iadd _ d _ _ => [.lane d.toNat 1]
  | .isub _ d _ _ => [.lane d.toNat 1]
  | .iaddi _ d _ => [.lane d.toNat 1]
  | .imul _ d _ _ => [.lane d.toNat 1]
  | .imulh _ d _ _ => [.lane d.toNat 1]
  | .imad _ d _ _ => [.lane d.toNat 1]
  | .imin _ d _ _ => [.lane d.toNat 1]
  | .imax _ d _ _ => [.lane d.toNat 1]
  | .iabs _ d _ => [.lane d.toNat 1]
  | .icmp _ d _ _ => [.pred d.toNat]
  | .isel _ d _ _ => [.lane d.toNat 1]
  | .shl d _ _ => [.lane d.toNat 1]
  | .shr d _ _ => [.lane d.toNat 1]
  | .sar d _ _ => [.lane d.toNat 1]
  | .rol d _ _ => [.lane d.toNat 1]
  | .shli d _ _ => [.lane d.toNat 1]
  | .shri d _ _ => [.lane d.toNat 1]
  | .sari d _ _ => [.lane d.toNat 1]
  | .and d _ _ => [.lane d.toNat 1]
  | .or d _ _ => [.lane d.toNat 1]
  | .xor d _ _ => [.lane d.toNat 1]
  | .andn d _ _ => [.lane d.toNat 1]
  | .andi _ d _ => [.lane d.toNat 1]
  | .ori _ d _ => [.lane d.toNat 1]
  | .xori _ d _ => [.lane d.toNat 1]
  | .clz d _ => [.lane d.toNat 1]
  | .popc d _ => [.lane d.toNat 1]
  | .brev d _ => [.lane d.toNat 1]
  | .bfx _ d _ _ => [.lane d.toNat 1]
  | .bfi d _ _ => [.lane d.toNat 1]
  | .mov d _ => [.lane d.toNat 1]
  | .movi _ d => [.lane d.toNat 1]
  | .movl d _ => [.lane d.toNat 1]
  | .movs d _ => [.lane d.toNat 1]
  | .smov d _ _ => [.scalar d.toNat 1]
  | .smovi d _ => [.scalar d.toNat 1]
  | .smoviLiteral d _ => [.scalar d.toNat 1]
  | .sadd d _ _ => [.scalar d.toNat 1]
  | .saddi d _ _ => [.scalar d.toNat 1]
  | .saddiLiteral d _ _ => [.scalar d.toNat 1]
  | .sand d _ _ => [.scalar d.toNat 1]
  | .sshl d _ _ _ => [.scalar d.toNat 1]
  | .padd _ d _ _ => [.lane d.toNat 1]
  | .psub _ d _ _ => [.lane d.toNat 1]
  | .pmin _ _ d _ _ => [.lane d.toNat 1]
  | .pmax _ _ d _ _ => [.lane d.toNat 1]
  | .pabd _ _ d _ _ => [.lane d.toNat 1]
  | .pavg _ _ d _ _ => [.lane d.toNat 1]
  | .pmul _ _ d _ _ => [.lane d.toNat 1]
  | .pmulh _ _ d _ _ => [.lane d.toNat 1]
  | .pshl _ d _ _ => [.lane d.toNat 1]
  | .pshr _ _ d _ _ => [.lane d.toNat 1]
  | .pacs f d _ _ => [.lane d.toNat 1, .pred f.toNat, .pred (f.toNat + 1)]
  | .dot4 _ d _ _ => [.lane d.toNat 1]
  | .dot8 _ d _ _ => [.lane d.toNat 1]
  | .dot2 _ d _ _ => [.lane d.toNat 1]
  | .ppack _ d _ _ => [.lane d.toNat 2]
  | .punpk _ d _ _ => [.lane d.toNat 1]
  | .tbl _ _ d _ => [.lane d.toNat 1]
  | .shfl _ d _ _ => [.lane d.toNat 1]
  | .scan d _ _ _ _ => [.lane d.toNat 1]
  | .red d _ _ _ => [.lane d.toNat 1]
  | .voteAny _ d _ => [.pred d.toNat]
  | .voteAll _ d _ => [.pred d.toNat]
  | .voteCount _ d _ => [.lane d.toNat 1]
  | .votePack s d _ => [.lane d.toNat (1 + s.toNat)]
  | .matchLanes _ d _ => [.lane d.toNat 1]
  | .plog _ d _ _ => [.pred d.toNat]
  | .pmovPredicateFromRegister d _ => [.pred d.toNat]
  | .pmovRegisterFromPredicate d _ => [.lane d.toNat 1]
  | .pmovPredicateFromPredicate d _ => [.pred d.toNat]
  | .fadd _ d _ _ => [.lane d.toNat 1]
  | .fsub _ d _ _ => [.lane d.toNat 1]
  | .fmul _ d _ _ => [.lane d.toNat 1]
  | .ffma _ d _ _ => [.lane d.toNat 1]
  | .fmin d _ _ => [.lane d.toNat 1]
  | .fmax d _ _ => [.lane d.toNat 1]
  | .fabs d _ => [.lane d.toNat 1]
  | .fneg d _ => [.lane d.toNat 1]
  | .fcmp _ d _ _ => [.pred d.toNat]
  | .fclass d _ => [.lane d.toNat 1]
  | .fscale _ d _ _ => [.lane d.toNat 1]
  | .frcp d _ _ => [.lane d.toNat 1]
  | .frsq d _ _ => [.lane d.toNat 1]
  | .fsqrt d _ _ => [.lane d.toNat 1]
  | .fexp2 d _ _ => [.lane d.toNat 1]
  | .flog2 d _ _ => [.lane d.toNat 1]
  | .fsin d _ _ => [.lane d.toNat 1]
  | .fcos d _ _ => [.lane d.toNat 1]
  | .ftanh d _ _ => [.lane d.toNat 1]
  | .bfadd2 _ d _ _ => [.lane d.toNat 1]
  | .bfmul2 _ d _ _ => [.lane d.toNat 1]
  | .bffma2 _ d _ _ => [.lane d.toNat 1]
  | .cvtFloatToFloat _ d _ t s k => [.lane d.toNat (cvtRegs (fltWidth t) (cvtCount (fltWidth s) (fltWidth t) k) k)]
  | .cvtFloatToInteger _ d _ t s k => [.lane d.toNat (cvtRegs (intWidth t) (cvtCount (fltWidth s) (intWidth t) k) k)]
  | .cvtIntegerToFloat _ d _ t s k => [.lane d.toNat (cvtRegs (fltWidth t) (cvtCount (intWidth s) (fltWidth t) k) k)]
  | .cvtIntegerToInteger _ d _ t s k => [.lane d.toNat (cvtRegs (intWidth t) (cvtCount (intWidth s) (intWidth t) k) k)]
  | .sclx d _ _ => [.lane d.toNat 1]
  | .lsupd d => [.scalar d.toNat 1]
  | .ldgN8 _ d _ _ => [.lane d.toNat 1]
  | .ldgN16 _ d _ _ => [.lane d.toNat 1]
  | .ldgI32 _ d _ _ => [.lane d.toNat 1]
  | .ldgI64 _ d _ _ => [.lane d.toNat 2]
  | .ldgB128 _ d _ _ => [.lane d.toNat 4]
  | .ldtN8 _ d _ _ => [.lane d.toNat 1]
  | .ldtN16 _ d _ _ => [.lane d.toNat 1]
  | .ldtI32 _ d _ _ => [.lane d.toNat 1]
  | .ldtI64 _ d _ _ => [.lane d.toNat 2]
  | .ldtB128 _ d _ _ => [.lane d.toNat 4]
  | .lddN8 _ d _ _ => [.lane d.toNat 1]
  | .lddN16 _ d _ _ => [.lane d.toNat 1]
  | .lddI32 _ d _ _ => [.lane d.toNat 1]
  | .lddI64 _ d _ _ => [.lane d.toNat 2]
  | .lddB128 _ d _ _ => [.lane d.toNat 4]
  | .ldk _ d w _ => [.lane d.toNat (regsOfWidth w)]
  | .stg _ _ _ _ => []
  | .stt _ _ _ _ => []
  | .std _ _ _ _ => []
  | .stk _ _ _ => []
  | .pref _ _ => []
  | .discard _ _ => []
  | .flush _ _ => []
  | .aadd d _ _ w => [.lane d.toNat (1 + w.toNat)]
  | .amin d _ _ w _ => [.lane d.toNat (1 + w.toNat)]
  | .amax d _ _ w _ => [.lane d.toNat (1 + w.toNat)]
  | .aand d _ _ w => [.lane d.toNat (1 + w.toNat)]
  | .aor d _ _ w => [.lane d.toNat (1 + w.toNat)]
  | .axor d _ _ w => [.lane d.toNat (1 + w.toNat)]
  | .axch d _ _ w => [.lane d.toNat (1 + w.toNat)]
  | .acas d _ _ w => [.lane d.toNat (1 + w.toNat)]
  | .afadd d _ _ _ => [.lane d.toNat 1]
  | .tkfadd _ _ _ => []
  | .tkreg _ _ => []
  | .tkskip x y => [.scalar x.toNat 1, .scalar y.toNat 2]
  | .tkfence _ => []
  | .tkqry x _ _ => [.scalar x.toNat 1]
  | .fenceAcq _ => []
  | .fenceRel _ => []
  | .fenceAr _ => []
  | .bar => []
  | .barrive x _ _ _ => [.scalar x.toNat 1]
  | .bwait x _ _ => [.scalar x.toNat 1]
  | .btry x _ _ => [.scalar x.toNat 1]
  | .waitptr x _ => [.scalar x.toNat 1]
  | .waitmem x _ _ => [.scalar x.toNat 1]
  | .shape _ _ _ => []
  | .shapeq x => [.scalar x.toNat 1]
  | .mma _ _ _ _ _ _ => []
  | .mmab _ _ _ _ _ _ => []
  | .mdrain _ _ _ _ _ _ => []
  | .tzero _ _ _ => []
  | .trot _ _ _ => []
  | .tcpy _ _ _ _ => []
  | .tcpyw _ _ _ _ => []
  | .tdset _ _ => []
  | .tdget _ _ => []
  | .tdinv _ => []
  | .tscl _ _ _ _ _ => []
  | .glaunch x _ _ => [.scalar x.toNat 1]
  | .gwait x => [.scalar x.toNat 1]
  | .gwaitTry x => [.scalar x.toNat 1]
  | .gnode x _ _ => [.scalar x.toNat 1]
  | .tapepush x _ _ => [.scalar x.toNat 1]
  | .fqpost x _ _ => [.scalar x.toNat 1]
  | .poolMarker _ => []
  | .zli _ _ _ => []
  | .zadd _ _ _ _ _ => []
  | .zsub _ _ _ _ _ => []
  | .zshl _ _ _ _ _ => []
  | .zand _ _ _ _ _ => []
  | .zbr _ _ _ _ => []
  | .zloop _ _ => []
  | .zld _ _ _ _ => []
  | .zst _ _ _ _ => []
  | .zsend _ _ _ => []
  | .zags _ _ _ _ => []
  | .zfetch _ _ _ => []
  | .zckpt _ _ => []
  | .zclone _ _ _ _ => []
  | .zqnt _ _ _ => []
  | .zrsc _ _ _ => []
  | .zrsf _ _ => []
  | .zdqa _ _ => []
  | .zwaitBar _ _ _ => []
  | .zwaitFlag _ _ _ => []
  | .zsig _ _ _ _ _ => []
  | .zsigRemote _ _ _ _ => []
  | .zfenceAcq _ => []
  | .zfenceRel _ => []
  | .zfenceAr _ => []
  | .zcyc _ => []
  | .ztrap _ => []
  | .zhalt => []
  | .moduleReset => []
  | .hernusBoot => []
  | .linkTraining => []
  | .overtempReset => []
  | .throttleStepDown => []
  | .throttleStepUp => []
  | .functionLevelReset _ => []
  | .tdiError _ => []
  | .hostPostedWrite _ _ _ => []
  | .hostRead _ _ _ => []
  | .registerWrite _ _ _ => []
  | .posttailWrite _ _ _ => []
  | .cplheadWrite _ _ _ => []
  | .streamEnable _ _ => []
  | .fqheadWrite _ _ => []
  | .mrheadWrite _ _ => []
  | .mstailWrite _ _ => []
  | .winload _ _ => []
  | .inval _ _ _ => []
  | .resume _ _ => []
  | .terminate _ _ => []
  | .termgrid _ _ => []
  | .create _ _ _ _ _ _ => []
  | .setgrant _ _ _ => []
  | .destroy _ _ => []
  | .attest _ _ _ => []
  | .logread _ => []
  | .fusedSvnRaise _ _ => []
  | .nodeAppend _ => []
  | .teamStart _ _ => []
  | .collectiveStart _ => []
  | .transformNodeStart _ => []
  | .copyNode _ => []
  | .signalNode _ => []
  | .tapeNodeStart _ => []
  | .tapePop _ => []
  | .teamEnd _ => []
  | .gridRetirement _ => []
  | .nodeCompletion _ => []
  | .quantumEnd _ => []
  | .loadDataReturn _ _ _ => []
  | .bunchConvergence _ _ => []
  | .rejoinHoldEnd _ _ => []
  | .sleepEnd _ _ => []
  | .watchdog _ _ => []
  | .bwaitCompletion _ _ => []
  | .waitmemCompletion _ _ => []
  | .zwaitCompletion _ => []
  | .matrixCommandStart _ => []
  | .matrixCommandCompletion _ => []
  | .trotRotation _ => []
  | .copyCommandStart _ _ => []
  | .copyGranuleDelivery _ _ => []
  | .ticketUpdateAccept _ => []
  | .ticketGap _ _ _ => []
  | .transformGranuleWrite _ => []
  | .transformInputArrival _ _ _ => []
  | .transformInputTimeout _ => []
  | .transferAcknowledgement _ _ _ => []
  | .waitedTransferCompletion _ _ _ => []
  | .rmaWriteArrival _ _ _ _ _ => []
  | .rmaReadArrival _ _ _ _ _ => []
  | .remoteArrival _ _ _ _ _ => []
  | .managementReceive _ _ _ _ => []
  | .managementSendCompletion _ _ => []
  | .collectiveTimeout _ => []
  | .hbmPatrolScrub _ => []
  | .counterCarry _ _ _ _ => []
  | .packetRetransmission _ => []
  | .nodeBarrierWaitMet _ => []
  | .postedTransferLocalCompletion _ _ => []

/-- Whether two register groups share a register. -/
def RegRef.meets : RegRef → RegRef → Bool
  | .lane a n, .lane b m => decide (a < b + m) && decide (b < a + n)
  | .scalar a n, .scalar b m => decide (a < b + m) && decide (b < a + n)
  | .pred a, .pred b => a == b
  | _, _ => false

/-- R140: a register group inside a window of W lane registers. -/
def RegRef.fits (w : Nat) : RegRef → Bool
  | .lane a n => decide (a + n ≤ w)
  | _ => true

/-- The destination of a lookahead window as a register group. -/
def Window.ref (w : Window) : RegRef := if w.scalar then .scalar w.reg w.count else .lane w.reg w.count

/-- The destination of an outstanding result as a register group. -/
def Result.ref : Result → RegRef
  | .lanes _ r vals => .lane r vals.length
  | .pred _ k _ => .pred k
  | .scalar r _ => .scalar r 1

/-- R30, R105: the places, in a pod's list of 32-bit words with bad parity, of the words of a register group that an access under a lane
mask reaches; a predicate is one word. -/
def RegRef.parityKeys (m : Mask) : RegRef → List Nat
  | .lane a n => (List.range n).flatMap fun r => ([0, 1, 2, 3].filter fun l => m.getLsbD l).map fun l => 4 * (a + r) + l
  | .pred k => [512 + k]
  | .scalar a n => (List.range n).map (1024 + a + ·)

/-- The lowest lane of a mask, as a mask. -/
def lowestLane (m : Mask) : Mask := m &&& (0#4 - m)

/-- R105, R178, R223: the 32-bit words that an instruction reads under a lane mask: SMOV reads its lane alone, and TKFADD its address and
ticket in the lowest active lane alone. -/
def parityReads (i : Instr) (m : Mask) : List Nat :=
  match i with
  | .smov _ a l => (RegRef.lane a.toNat 1).parityKeys (1#4 <<< l.toNat)
  | .tkfadd d a _ => (RegRef.lane d.toNat 4).parityKeys m ++ (RegRef.lane a.toNat 2).parityKeys (lowestLane m) ++
      (RegRef.lane (d.toNat + 4) 1).parityKeys (lowestLane m)
  | _ => (regReads i).flatMap (·.parityKeys m)

/-- R148: the LA field of an instruction that has an LA destination, and the scalar that a format T instruction holds or writes. -/
def laField : Instr → Option (BitVec 4 × Option (BitVec 5))
  | .frcp _ _ l => some (l, none)
  | .frsq _ _ l => some (l, none)
  | .fsqrt _ _ l => some (l, none)
  | .fexp2 _ _ l => some (l, none)
  | .flog2 _ _ l => some (l, none)
  | .fsin _ _ l => some (l, none)
  | .fcos _ _ l => some (l, none)
  | .ftanh _ _ l => some (l, none)
  | .ldk _ _ _ l => some (l, none)
  | .ldgN8 _ _ _ l => some (l, none)
  | .ldgN16 _ _ _ l => some (l, none)
  | .ldgI32 _ _ _ l => some (l, none)
  | .ldgI64 _ _ _ l => some (l, none)
  | .ldgB128 _ _ _ l => some (l, none)
  | .ldtN8 _ _ _ l => some (l, none)
  | .ldtN16 _ _ _ l => some (l, none)
  | .ldtI32 _ _ _ l => some (l, none)
  | .ldtI64 _ _ _ l => some (l, none)
  | .ldtB128 _ _ _ l => some (l, none)
  | .lddN8 _ _ _ l => some (l, none)
  | .lddN16 _ _ _ l => some (l, none)
  | .lddI32 _ _ _ l => some (l, none)
  | .lddI64 _ _ _ l => some (l, none)
  | .lddB128 _ _ _ l => some (l, none)
  | .aadd _ _ l _ => some (l, none)
  | .amin _ _ l _ _ => some (l, none)
  | .amax _ _ l _ _ => some (l, none)
  | .aand _ _ l _ => some (l, none)
  | .aor _ _ l _ => some (l, none)
  | .axor _ _ l _ => some (l, none)
  | .axch _ _ l _ => some (l, none)
  | .acas _ _ l _ => some (l, none)
  | .afadd _ _ l _ => some (l, none)
  | .tkqry x _ l => some (l, some x)
  | .barrive x _ _ l => some (l, some x)
  | .mma _ x _ _ l _ => some (l, some x)
  | .mmab _ x _ _ l _ => some (l, some x)
  | .mdrain _ x _ _ l _ => some (l, some x)
  | .tzero x _ l => some (l, some x)
  | .trot x _ l => some (l, some x)
  | .tcpy x _ _ l => some (l, some x)
  | .tcpyw x _ _ l => some (l, some x)
  | .tscl _ x _ _ l => some (l, some x)
  | .glaunch x _ l => some (l, some x)
  | .gnode x _ l => some (l, some x)
  | .tapepush x _ l => some (l, some x)
  | .fqpost x _ l => some (l, some x)
  | _ => none

/-- R148: the lookahead windows that a word opens: its LA destination, for the next LA words. -/
def opensWindows (i : Instr) : List Window :=
  match laField i with
  | none => []
  | some (l, some x) => if l == 0#4 then [] else [⟨true, x.toNat, 1, l.toNat⟩]
  | some (l, none) => if l == 0#4 then [] else (regWrites i).filterMap fun r => match r with
      | .lane d n => some ⟨false, d, n, l.toNat⟩
      | _ => none

/-- R140: W, the pod's window size. -/
def Pod.window (p : Pod) : Nat := 16 * p.ws.toNat

/-- One word per lane. -/
def laneWord (f : Nat → W32) : LaneWord := Vector.ofFn fun l : Fin 4 => f l.val

/-- Register r of lane l as the instruction in issue reads it. -/
def src (s : State) (r : BitVec 7) (l : Nat) : W32 := (srcPod s).lane r.toNat l

/-- Register number r of lane l as the instruction in issue reads it. -/
def srcN (s : State) (r l : Nat) : W32 := (srcPod s).lane r l

/-- A predicate as the instruction in issue reads it. -/
def srcPred (s : State) (k : Nat) : Mask := (srcPod s).pred k

/-- R30: a lane instruction of one destination register: active lanes take f's word, and the pod goes on. -/
def laneEffect (s : State) (d : BitVec 7) (f : Nat → W32) : State :=
  (s.mapPod fun p => p.setLanes (activeMask s) d.toNat (laneWord f)).advance 1

/-- R30, R64: the FLAGS bits that the active lanes set. -/
def laneFlags (s : State) (f : Nat → W32) : W32 :=
  [0, 1, 2, 3].foldl (fun a l => if (activeMask s).getLsbD l then a ||| f l else a) 0#32

/-- R30: a lane instruction whose lanes also set FLAGS bits. -/
def laneFlagEffect (s : State) (d : BitVec 7) (f : Nat → W32 × W32) : State :=
  laneEffect (s.orFlags (laneFlags s fun l => (f l).2)) d fun l => (f l).1

/-- R30: the number of active lanes. -/
def activeLaneCount (s : State) : Nat := ([0, 1, 2, 3].filter fun l => (activeMask s).getLsbD l).length

/-- A predicate from a test of each lane. -/
def laneMask (f : Nat → Bool) : Mask := BitVec.ofBool (f 3) ++ BitVec.ofBool (f 2) ++ BitVec.ofBool (f 1) ++ BitVec.ofBool (f 0)

/-- R30: a lane instruction of one destination predicate. -/
def predEffect (s : State) (k : Nat) (f : Nat → Bool) : State :=
  (s.mapPod fun p => p.setPred (activeMask s) k (laneMask f)).advance 1

/-- R140: the 64-bit address in the pair of lane registers r and r + 1. -/
def laneAddr (s : State) (r : BitVec 7) (l : Nat) : Nat := (src s r l).toNat + 2 ^ 32 * (srcN s (r.toNat + 1) l).toNat

/-- The scalar k as the instruction in issue reads it. -/
def sreg (s : State) (k : BitVec 5) : W32 := scalarOf s k.toNat

/-- A pod effect that writes one scalar. -/
def scalarEffect (s : State) (d : BitVec 5) (w : W32) : State := (s.setScalar d.toNat w).advance 1

end Sys2Proof.Machine
end

