-- ==== Sys2Proof/Machine/Flags.lean ====
section
/-! DEFINITION. MODE, FLAGS and the rounding context of an instruction (R59, R61 to R64, R66, R193, R194). -/

namespace Sys2Proof.Machine

/-- R62: MODE.RM as the instruction in issue reads it. -/
def modeRm (s : State) : Nat := ((srcTeam s).mode.extractLsb' 0 3).toNat

/-- R62: MODE.FTZ. -/
def modeFtz (s : State) : Bool := (srcTeam s).mode.getLsbD 6

/-- R62: MODE.SATF8. -/
def modeSatf8 (s : State) : Bool := (srcTeam s).mode.getLsbD 7

/-- R59, R61: the mode of a form that has no SR: F, or MODE.RM when F = 0, where 6 rounds RNE. -/
def plainMode (s : State) (f : BitVec 3) : RMode :=
  if f == 0#3 then (if modeRm s == 6 then .rne else rmodeOf (modeRm s)) else rmodeOf f.toNat

/-- R194: the rounding context of a vector form that has no SR. -/
def vectorCtx (s : State) (f : BitVec 3) : RCtx := ⟨plainMode s f, 0#32, modeSatf8 s, modeFtz s⟩

/-- R194: the value of a source element, flushed under MODE.FTZ. -/
def sourceVal (s : State) (t : FTy) (code : Nat) : Val := t.decode (if modeFtz s then t.flush code else code)

/-- R62: a value that MODE may take: RM from 1 to 6. -/
def modeRmOk (w : W32) : Bool := let rm := (w.extractLsb' 0 3).toNat; rm != 0 && rm != 7

/-- R5, R62: what a write leaves in MODE: reserved fields stay 0. -/
def modeWritten (w : W32) : W32 := w &&& 0x000000C7#32

/-- R4, R63: what a write leaves in FLAGS: each 1 clears its bit. -/
def flagsWritten (old w : W32) : W32 := old &&& ~~~w

/-- R51: a saturating integer result and FLAGS.ISAT when it differs from the exact one. -/
def saturate (signed : Bool) (n : Nat) (e : Int) : Int × W32 :=
  let r := clampInt e (intLo signed n) (intHi signed n)
  (r, if r == e then 0#32 else flagISAT)

/-- R65, R66: the key that SRSEL or a descriptor names. -/
def keyOf (c : Context) (k : Nat) : W32 := c.srkey.getD k 0#32

/-- R84: the 16 words of tensor descriptor t of a context; an entry never written is all zero (R363). -/
def descOf (c : Context) (t : Nat) : List W32 :=
  match c.descs.find? (·.1 == t) with
  | some x => x.2
  | none => List.replicate 16 0#32

/-- A descriptor entry written; an all-zero entry is not listed, and entries stay in order. -/
def putDesc (l : List (Nat × List W32)) (t : Nat) (w : List W32) : List (Nat × List W32) :=
  let rest := l.filter (·.1 != t)
  if w == List.replicate 16 0#32 then rest
  else rest.filter (fun x => decide (x.1 < t)) ++ (t, w) :: rest.filter (fun x => decide (t < x.1))

/-- Word k of a descriptor or record. -/
def wordAt (l : List W32) (k : Nat) : W32 := l.getD k 0#32

/-- R85: VALID. -/
def descValid (d : List W32) : Bool := (wordAt d 0).getLsbD 31

/-- R68: the SR-record step of an SR writer on tensor t at step st under writer tag g: the record afterwards, and whether
SR-KEY-REUSE is posted. -/
def srStep (c : Context) (d : List W32) (st g : W32) : List W32 × Bool :=
  let l := wordAt d 14
  let w := wordAt d 15
  let reuse := !c.tkctl.getLsbD 31 && w != 0#32 && !(g == w && st == l) && !later st l
  let l' := if w == 0#32 || later st l then st else l
  ((d.set 14 l').set 15 g, reuse)

/-- R135: the context of an owner as the instruction in issue reads it: for the owner of a chained pair, as it stood before the pair. -/
def readCtx (s : State) (owner : Nat) : Context :=
  match s.snap with
  | some x => if x.ctx.owner == owner then x.ctx else s.ctxOf owner
  | none => s.ctxOf owner

/-- R68, R135, R348, R350: the SR-record step performed, with its warning posted for the source given: the record and TKCTL are read as the
instruction reads them, and words 14 and 15 of the descriptor are written. -/
def performSrStep (s : State) (x : Site) (t : Nat) (st g : W32) (src : WarnSource) : State :=
  let c := readCtx s x.owner
  let d := descOf c t
  let r := srStep c d st g
  let s := s.mapCtx x.owner fun c => { c with descs := putDesc c.descs t (((descOf c t).set 14 (wordAt r.1 14)).set 15 (wordAt r.1 15)) }
  if r.2 then postWarning s { x with resum := false } { code := .srKeyReuse, info0 := BitVec.ofNat 32 t, info1 := st, info2 := wordAt d 14, info3 := wordAt d 15 } src
  else s

end Sys2Proof.Machine
end

