-- ==== Sys2Proof/Machine/Counters.lean ====
section
/-! DEFINITION. Performance counters (R368 to R372, R375): what an event adds, carries, and the notices they post. -/

namespace Sys2Proof.Machine

/-- R371: whether a select register counts an event: EN = 1, ZERO = 0 and the event's code. -/
def selCounts (sel : W32) (ev : Nat) : Bool :=
  sel.getLsbD 31 && !sel.getLsbD 29 && (sel.extractLsb' 0 8).toNat == ev && ev != 0

/-- R368: a counter of a context; one that has counted nothing holds 0. -/
def counterOf (l : List Counter) (unit n : Nat) : Counter :=
  (l.find? fun x => x.unit == unit && x.n == n).getD ⟨unit, n, 0#48, false, 0⟩

/-- A counter put back; counters stay in order of unit and index, and one that holds nothing is not listed. -/
def putCounter (l : List Counter) (x : Counter) : List Counter :=
  let before (y : Counter) : Bool := decide (4 * y.unit + y.n < 4 * x.unit + x.n)
  let after (y : Counter) : Bool := decide (4 * x.unit + x.n < 4 * y.unit + y.n)
  l.filter before ++ (if x.count == 0#48 && !x.ovf && x.frac == 0 then [] else [x]) ++ l.filter after

/-- R221, R372: the notice of a carry, and the owner's counter vector; a notice that finds the ring full is lost, and one that cannot be written is
lost and reported (log 25). -/
def postNotice (s : State) (owner kind unit n : Nat) (sel : W32) : State :=
  let c := s.ctxOf owner
  if c.nr.full then s
  else
    let w0 := BitVec.ofNat 32 (kind * 2 ^ 30 + unit * 2 ^ 20 + n * 2 ^ 18)
    match engineWrite s c (c.nr.entryAt c.nr.tail 16) (wordsBytes [w0, BitVec.ofNat 32 c.notice, sel, 0#32]) with
    | .error e => postRecord s (graphSite owner 0#32 0#32) e
    | .ok t =>
      let t := t.mapCtx owner fun c => { c with nr := { c.nr with tail := c.nr.tail + 1#32 }, notice := c.notice + 1 }
      { t with out := t.out ++ [.msix owner 1] }

/-- R368: whether an owner is resident in its partition. -/
def isResident (s : State) (owner : Nat) : Bool := s.resident.getD (s.ctxOf owner).part none == some owner

/-- R369: one select register of a context. -/
def selOf (c : Context) (kind n : Nat) : W32 := (if kind == 0 then c.cntsel else c.slsel).getD n 0#32

/-- R371: counter n of a unit adds amount / scale events of its code, rounding down over its life; a carry out of bit 47 wraps,
sets OVF and, from OVF 0 with IE, posts a notice. -/
def countOne (s : State) (owner kind unit n ev amount scale : Nat) : State :=
  let c := s.ctxOf owner
  let sel := selOf c kind n
  if !selCounts sel ev || amount == 0 || !isResident s owner then s
  else
    let l := if kind == 0 then c.cnt else c.slcnt
    let x := counterOf l unit n
    let total := x.count.toNat + (x.frac + amount) / scale
    let carry := decide (2 ^ 48 ≤ total)
    let x : Counter := { x with count := BitVec.ofNat 48 total, ovf := x.ovf || carry, frac := (x.frac + amount) % scale }
    let sel' := if carry then sel ||| 0x40000000#32 else sel
    let s := s.mapCtx owner fun c =>
      if kind == 0 then { c with cnt := putCounter c.cnt x, cntsel := c.cntsel.setIfInBounds n sel' }
      else { c with slcnt := putCounter c.slcnt x, slsel := c.slsel.setIfInBounds n sel' }
    if carry && !sel.getLsbD 30 && sel.getLsbD 28 then postNotice s owner kind unit n sel' else s

/-- The four counters of a unit. -/
def countUnit (s : State) (owner kind unit ev amount scale : Nat) : State :=
  [0, 1, 2, 3].foldl (fun s n => countOne s owner kind unit n ev amount scale) s

/-- R370: events of a context on a core. -/
def countCore (s : State) (owner core ev amount : Nat) : State := countUnit s owner 0 core ev amount 1

/-- R11: the home slice of a physical line, as 32d + i (R347). -/
def homeSlice (pa : Nat) : Nat :=
  let h := (pa / 2 ^ 9 % 32) ^^^ (pa / 2 ^ 14 % 32)
  32 * ((if isHbm pa then pa / 2 ^ 37 else pa / 2 ^ 8) % 4) + h

/-- R294: the partition of a C-die or port group d, when the module is split into 1, 2 or 4. -/
def partOfDie (s : State) (d : Nat) : Nat := d * s.parts / 4

/-- R370: events of an owner's access at a slice; only slices of the owner's partition count. -/
def countSlice (s : State) (owner pa ev amount : Nat) : State :=
  let slice := homeSlice pa
  if partOfDie s (slice / 32) == (s.ctxOf owner).part then countUnit s owner 1 slice ev amount 1 else s

/-- R368: fabric counter n of a processor; its notices go to the PF. -/
def countFabricOne (s : State) (f n ev amount scale : Nat) : State :=
  let k := 4 * f + n
  let sel := s.fpsel.getD k 0#32
  if !selCounts sel ev || amount == 0 then s
  else
    let fr := s.fpfrac.getD k 0 + amount
    let total := (s.fpcnt.getD k 0#48).toNat + fr / scale
    let carry := decide (2 ^ 48 ≤ total)
    let sel' := if carry then sel ||| 0x40000000#32 else sel
    let s := { s with fpsel := s.fpsel.setIfInBounds k sel', fpcnt := s.fpcnt.setIfInBounds k (BitVec.ofNat 48 total),
                      fpfrac := s.fpfrac.setIfInBounds k (fr % scale) }
    if carry && !sel.getLsbD 30 && sel.getLsbD 28 then postNotice s 0 2 f n sel' else s

/-- R370: events of a fabric processor. -/
def countFabric (s : State) (f ev amount scale : Nat) : State :=
  [0, 1, 2, 3].foldl (fun s n => countFabricOne s f n ev amount scale) s

/-- R369: the event codes that a kind of counter knows. -/
def eventKnown (kind ev : Nat) : Bool := decide (ev ≤ if kind == 0 then 0x0D else if kind == 1 then 0x07 else 0x05)

/-- R369: what a write leaves in a select register: reserved bits stay 0, OVF is cleared by a 1. -/
def selWritten (old w : W32) : W32 := (w &&& 0xB00000FF#32) ||| (old &&& ~~~w &&& 0x40000000#32)

/-- R369: a write of CNTSELn (kind 0) or SLSELn (kind 1). A write of OVF = 1 also clears the overflow bit that each unit's counter
keeps; ZERO holds the counts at 0; another EVENT begins without a part of the last one's. -/
def Context.writeSel (c : Context) (kind n : Nat) (w : W32) : Context :=
  let new := selWritten (selOf c kind n) w
  let fix (l : List Counter) : List Counter := (l.map fun x =>
    if x.n == n then
      { x with ovf := x.ovf && !w.getLsbD 30, count := if new.getLsbD 29 then 0#48 else x.count,
               frac := if new.getLsbD 29 || new.extractLsb' 0 8 != (selOf c kind n).extractLsb' 0 8 then 0 else x.frac }
    else x).filter fun x => !(x.count == 0#48 && !x.ovf && x.frac == 0)
  if kind == 0 then { c with cntsel := c.cntsel.setIfInBounds n new, cnt := fix c.cnt }
  else { c with slsel := c.slsel.setIfInBounds n new, slcnt := fix c.slcnt }

end Sys2Proof.Machine
end

