-- ==== Sys2Proof/Machine/Fetch.lean ====
section
/-! DEFINITION. Fetching and checking a pod's words (R133, R135, R140, R150 steps 1 to 5), and the kinds of instruction that the
sprout, the counters and the chain rule tell apart. -/

namespace Sys2Proof.Machine

/-- R101, R131: fetch sees the code as it stood at the start of the pod's grid, its lines under the keys that they then had, through the translation of
the moment. -/
def fetchBytes (s : State) (code : List Host.Cell) (keys : List (Nat × Nat)) (c : Context) : Nat → Nat → Nat → Except Stop (List Byte)
  | 0, _, _ => .ok []
  | fuel + 1, va, n =>
    if n == 0 then .ok [] else
    let k := min n (2 ^ 15 - va % 2 ^ 15)
    match translate s c va accFetch 0 with
    | .error e => .error e
    | .ok pa =>
      match fetchBytes s code keys c fuel (va + k) (n - k) with
      | .error e => .error e
      | .ok r => .ok (keyedBytes { s with mem := code, lineKey := keys } c.key pa k ++ r)

/-- R133: the three words of a packet. -/
def fetchPacket (s : State) (pc : Nat) : Except Stop (List W32) :=
  match fetchBytes s s.grid.code s.grid.codeKeys s.ctx 2 (12 * pc) 12 with
  | .ok b => .ok (bytesWords 3 b)
  | .error e => .error e

/-- R135: the control-transfer words. -/
def isTransfer (w : W32) : Bool :=
  opOf w == 0x01#7 || opOf w == 0x02#7 || (opOf w == 0x03#7 && (w.extractLsb' 21 3).ult 2#3) ||
  (opOf w == 0x04#7 && (w.extractLsb' 21 3 == 3#3 || w.extractLsb' 21 3 == 4#3))

/-- R135: a word with C = 1 in a slot, and the next word of its packet: whether CHAIN-FORM is raised. -/
def chainBad (w : W32) (next : Option W32) : Bool :=
  match next with
  | none => true
  | some v => isTransfer w || carriesLiteral w || chainOf v == 1#1

/-- The trap of a decode error (R150 steps 3 and 4, R304). -/
def decodeTrap : DecodeError → Trap
  | .illegalOpcode => .illegalOpcode
  | .reservedField => .reservedField
  | .zilkanDecode => .zilkanDecode

/-- The registers an instruction reads or writes. -/
def touches (i : Instr) : List RegRef := regReads i ++ regWrites i

/-- R138, R150 steps 3 to 5, and R105: the instruction of a word, or the fault that its checks raise for the focused pod. -/
def checkWord (p : Pod) (w : W32) (lit : Option W32) : Except Stop Instr :=
  match decodeCore w lit with
  | .error e => .error (Stop.plain (decodeTrap e))
  | .ok (.poolMarker _) => .error (Stop.plain .poolExecution)
  | .ok i =>
    if !((touches i).all fun r => r.fits p.window) then .error (Stop.plain .reservedField)
    else if p.windows.any fun x => x.left != 0 && (touches i).any fun r => r.meets x.ref then .error (Stop.plain .lookahead)
    else if (parityReads i p.active).any p.parity.contains then .error (Stop.plain .parity)
    else .ok i

/-- R36: the forms of BUNCH scope. -/
def bunchScope : Instr → Bool
  | .shfl f _ _ _ => f.getLsbD 2
  | .scan _ _ x _ _ | .red _ _ x _ => x == 1#1
  | .voteAny x _ _ | .voteAll x _ _ | .voteCount x _ _ | .votePack x _ _ | .matchLanes x _ _ => x == 1#1
  | _ => false

/-- R30, R375: the instructions that have lane effects, by major opcode. -/
def hasLaneEffects (i : Instr) (w : W32) : Bool :=
  let op := (opOf w).toNat
  match i with
  | .sysrd f _ _ => f == 0#1
  | .lsupd _ | .tkfadd _ _ _ => false
  | _ => (0x10 ≤ op && op ≤ 0x25) || (0x30 ≤ op && op ≤ 0x51) || (0x58 ≤ op && op ≤ 0x6D)

/-- R370, R375: the core events of one issued word. -/
def countWord (s : State) (owner core lanes : Nat) (i : Instr) (w : W32) : State :=
  let s := countCore s owner core 0x02 1
  if hasLaneEffects i w then countCore s owner core 0x04 lanes else s

/-- The number of lanes of a mask. -/
def maskCount (m : Mask) : Nat := ([0, 1, 2, 3].filter fun l => m.getLsbD l).length

/-- R105: whether an access under a mask writes a register group's words whole. -/
def RegRef.whole (m : Mask) : RegRef → Bool
  | .pred _ => m == 0xF#4
  | _ => true

/-- R105, R148: one more word of the pod has issued: every window is shorter by one, and what the word wrote has its parity again. -/
def Pod.retire (p : Pod) (i : Instr) (m : Mask) : Pod :=
  let mended := ((regWrites i).filter (·.whole m)).flatMap (·.parityKeys m)
  { p with windows := (p.windows.map fun w => { w with left := w.left - 1 }).filter fun w => w.left != 0,
           parity := p.parity.filter fun k => !mended.contains k }

/-- The windows and counters after a word of the focused pod completed under a mask. -/
def retireWord (s : State) (i : Instr) (w : W32) (m : Mask) : State :=
  match s.cur with
  | .sprout _ => countCore (s.mapPod (·.retire i m)) s.ctx.owner s.team.core 0x0B 1
  | .pod _ _ => countWord (s.mapPod (·.retire i m)) s.ctx.owner s.team.core (maskCount m) i w
  | _ => countWord (s.mapTeamPod s.team.id s.pod.index (·.retire i m)) s.ctx.owner s.team.core (maskCount m) i w

/-- R33: the pod of a team that leaves its bunch: it gets a bunch of its own while another live pod shares its number. -/
def leaveBunch (s : State) (team pod : Nat) : State :=
  match (s.teams.find? (·.id == team)).bind fun t => (t.pods.find? (·.index == pod)).map fun p => (t, p) with
  | none => s
  | some (t, p) =>
    if t.pods.any fun q => q.index != pod && q.index / 16 == p.index / 16 && q.bunch == p.bunch && q.phase != .ended then
      { (s.mapTeamPod team pod fun p => { p with bunch := s.ids }) with ids := s.ids + 1 }
    else s

/-- R49: what the sprout may issue. -/
def sproutMay (i : Instr) (w : W32) : Bool :=
  let op := (opOf w).toNat
  match i with
  | .bra _ _ _ | .brx _ | .land | .nop | .exit | .pref _ _ => true
  | .ldgN8 _ _ _ _ | .ldgN16 _ _ _ _ | .ldgI32 _ _ _ _ | .ldgI64 _ _ _ _ | .ldgB128 _ _ _ _ => true
  | .ldtN8 _ _ _ _ | .ldtN16 _ _ _ _ | .ldtI32 _ _ _ _ | .ldtI64 _ _ _ _ | .ldtB128 _ _ _ _ => true
  | .lddN8 _ _ _ _ | .lddN16 _ _ _ _ | .lddI32 _ _ _ _ | .lddI64 _ _ _ _ | .lddB128 _ _ _ _ => true
  | _ => 0x10 ≤ op && op ≤ 0x2F

end Sys2Proof.Machine
end

