-- ==== Sys2Proof/Machine/Lane.lean ====
section
/-! DEFINITION. Lane operations across positions, and predicate logic: opcodes 0x3B to 0x3F (R36 to R39, R187 to R192). -/

namespace Sys2Proof.Machine

/-- R187: the positions of a scope: their number, which are active, and the registers and predicates they hold. -/
structure Positions where
  count : Nat
  mask : List Mask
  pods : List Pod

/-- The pod of position h, when it takes part. -/
def Positions.podAt (x : Positions) (h : Nat) : Option Pod := x.pods.find? fun p => p.index % 16 == h / 4

/-- R187: whether position h is active. -/
def Positions.active (x : Positions) (h : Nat) : Bool := h < x.count && (x.mask.getD (h / 4) 0#4).getLsbD (h % 4)

/-- Register r of position h. -/
def Positions.reg (x : Positions) (r h : Nat) : W32 := match x.podAt h with | some p => p.lane r (h % 4) | none => 0#32

/-- Predicate k of position h. -/
def Positions.pred (x : Positions) (k h : Nat) : Bool := match x.podAt h with | some p => (p.pred k).getLsbD (h % 4) | none => false

/-- R187: POD scope: the pod's four lanes, as positions of a pod 0. -/
def podPositions (p : Pod) : Positions := { count := 4, mask := [p.active], pods := [{ p with index := 0 }] }

/-- R36: BUNCH scope: the 64 positions of the pods of a home bunch that take part. -/
def bunchPositions (pods : List Pod) : Positions :=
  { count := 64, pods := pods,
    mask := (List.range 16).map fun j => match pods.find? fun p => p.index % 16 == j with | some p => p.active | none => 0#4 }

/-- R188: the value that position h receives. -/
def shflAt (x : Positions) (mode : Nat) (a b h : Nat) : W32 :=
  let k := (x.reg b h).toNat
  let n := x.count
  let src := match mode with
    | 0 => k
    | 1 => (h + n - k % n) % n
    | 2 => (h + k) % n
    | _ => h ^^^ (k % n)
  if x.active src then x.reg a src else x.reg a h

/-- R189: the identity of an operation. -/
def scanUnit (o : BitVec 3) : W32 :=
  match o.toNat with
  | 1 => 0x7FFFFFFF#32 | 2 => 0x80000000#32 | 3 => 0xFFFFFFFF#32 | 5 => 0xFFFFFFFF#32 | _ => 0#32

/-- R189: an operation on two words. -/
def scanOp (o : BitVec 3) (x y : W32) : W32 :=
  match o.toNat with
  | 0 => x + y
  | 1 => if y.toInt < x.toInt then y else x
  | 2 => if x.toInt < y.toInt then y else x
  | 3 => if y.toNat < x.toNat then y else x
  | 4 => if x.toNat < y.toNat then y else x
  | 5 => x &&& y
  | 6 => x ||| y
  | _ => x ^^^ y

/-- R189: the running value over the active positions of a list. -/
def runOver (x : Positions) (o : BitVec 3) (a : Nat) (hs : List Nat) : W32 :=
  hs.foldl (fun r h => if x.active h then scanOp o r (x.reg a h) else r) (scanUnit o)

/-- The active positions of a scope. -/
def Positions.live (x : Positions) : List Nat := (List.range x.count).filter x.active

/-- R190: the mask of active positions whose predicate is 1. -/
def votePackAt (x : Positions) (a : Nat) : Nat := (x.live.filter fun h => x.pred a h).foldl (fun m h => m + 2 ^ h) 0

/-- R190: L + 256 × C for position h. -/
def matchAt (x : Positions) (a h : Nat) : W32 :=
  let same := x.live.filter fun k => x.reg a k == x.reg a h
  BitVec.ofNat 32 (same.headD 0 + 256 * same.length)

/-- The words that an instruction of this chapter's lane forms gives position h: one per destination register, or 0 or 1 for a
predicate (R188 to R190). -/
def crossWords (i : Instr) (x : Positions) (h : Nat) : List W32 :=
  let ofBool (b : Bool) : List W32 := [if b then 1#32 else 0#32]
  match i with
  | .shfl f _ a b => [shflAt x (f.toNat % 4) a.toNat b.toNat h]
  | .scan _ a _ e o => [runOver x o a.toNat (List.range (if e == 1#1 then h else h + 1))]
  | .red _ a _ o => [runOver x o a.toNat (List.range x.count)]
  | .voteAny _ _ a => ofBool (x.live.any fun k => x.pred a.toNat k)
  | .voteAll _ _ a => ofBool (x.live.all fun k => x.pred a.toNat k)
  | .voteCount _ _ a => [BitVec.ofNat 32 (x.live.filter fun k => x.pred a.toNat k).length]
  | .votePack w _ a => BitVec.ofNat 32 (votePackAt x a.toNat) :: (if w == 1#1 then [BitVec.ofNat 32 (votePackAt x a.toNat / 2 ^ 32)] else [])
  | .matchLanes _ _ a => [matchAt x a.toNat h]
  | _ => []

/-- The result of a lane form for the pod whose positions start at base, under its active mask. -/
def crossResult (i : Instr) (x : Positions) (m : Mask) (base : Nat) : Result :=
  let word (k : Nat) : LaneWord := laneWord fun l => (crossWords i x (base + l)).getD k 0#32
  match regWrites i with
  | .lane d n :: _ => .lanes m d ((List.range n).map word)
  | .pred k :: _ => .pred m k (laneMask fun l => (crossWords i x (base + l)).getD 0 0#32 != 0#32)
  | _ => .scalar 32 0#32

/-- R36, R37: a lane form: at POD scope at once; at BUNCH scope with the result that the convergence formed, and until then the
pod stops. -/
def crossEffect (s : State) (i : Instr) : State :=
  if bunchScope i then
    match s.pod.grant with
    | some (r :: rest) => (s.mapPod fun p => { p.deliver r with grant := some rest }).advance 1
    | _ => markWait s .converge
  else (s.mapPod fun p => p.deliver (crossResult i (podPositions (srcPod s)) (activeMask s) 0)).advance 1

/-- R188. -/
def execShfl (f : BitVec 3) (d a b : BitVec 7) (s : State) : Host.Outcome State Fault Refusal :=
  .next (crossEffect s (.shfl f d a b))

/-- R189. -/
def execScan (d a : BitVec 7) (x e : BitVec 1) (o : BitVec 3) (s : State) : Host.Outcome State Fault Refusal :=
  .next (crossEffect s (.scan d a x e o))

/-- R189. -/
def execRed (d a : BitVec 7) (x : BitVec 1) (o : BitVec 3) (s : State) : Host.Outcome State Fault Refusal :=
  .next (crossEffect s (.red d a x o))

/-- R190. -/
def execVoteAny (x : BitVec 1) (d a : BitVec 3) (s : State) : Host.Outcome State Fault Refusal :=
  .next (crossEffect s (.voteAny x d a))

/-- R190. -/
def execVoteAll (x : BitVec 1) (d a : BitVec 3) (s : State) : Host.Outcome State Fault Refusal :=
  .next (crossEffect s (.voteAll x d a))

/-- R190. -/
def execVoteCount (x : BitVec 1) (d : BitVec 7) (a : BitVec 3) (s : State) : Host.Outcome State Fault Refusal :=
  .next (crossEffect s (.voteCount x d a))

/-- R190. -/
def execVotePack (x : BitVec 1) (d : BitVec 7) (a : BitVec 3) (s : State) : Host.Outcome State Fault Refusal :=
  .next (crossEffect s (.votePack x d a))

/-- R190. -/
def execMatchLanes (x : BitVec 1) (d a : BitVec 7) (s : State) : Host.Outcome State Fault Refusal :=
  .next (crossEffect s (.matchLanes x d a))

/-- R191: a logic operation on two predicate bits. -/
def plogBit (f : BitVec 3) (x y : Bool) : Bool :=
  match f.toNat with
  | 0 => x && y | 1 => x || y | 2 => x != y | 3 => x && !y | 4 => x || !y | 5 => !(x && y) | 6 => !(x || y) | _ => x == y

/-- R191. -/
def execPlog (f d a b : BitVec 3) (s : State) : Host.Outcome State Fault Refusal :=
  .next (predEffect s d.toNat fun l => plogBit f ((srcPred s a.toNat).getLsbD l) ((srcPred s b.toNat).getLsbD l))

/-- R192. -/
def execPmovPredicateFromRegister (d : BitVec 3) (a : BitVec 7) (s : State) : Host.Outcome State Fault Refusal :=
  .next (predEffect s d.toNat fun l => src s a l != 0#32)

/-- R192. -/
def execPmovRegisterFromPredicate (d : BitVec 7) (a : BitVec 3) (s : State) : Host.Outcome State Fault Refusal :=
  .next (laneEffect s d fun l => if (srcPred s a.toNat).getLsbD l then 1#32 else 0#32)

/-- R192. -/
def execPmovPredicateFromPredicate (d a : BitVec 3) (s : State) : Host.Outcome State Fault Refusal :=
  .next (predEffect s d.toNat fun l => (srcPred s a.toNat).getLsbD l)

/-- The words of the instruction, or chained pair, at a pod's place, with the packet fetched. -/
def wordsAt (s : State) (g : Grid) (c : Context) (p : Pod) : List (W32 × Option W32) :=
  match fetchBytes s g.code g.codeKeys c 2 (12 * p.pc.toNat) 12 with
  | .error _ => []
  | .ok b =>
    let ws := bytesWords 3 b
    let k := p.slot.toNat
    let at_ (k : Nat) : W32 × Option W32 := (wordAt ws k, if k < 2 then some (wordAt ws (k + 1)) else none)
    if chainOf (wordAt ws k) == 1#1 && k < 2 then [at_ k, at_ (k + 1)] else [at_ k]

/-- R37: the results that a pod receives at a convergence: one for each BUNCH-scope word of its instruction or pair. -/
def grantFor (words : List (W32 × Option W32)) (x : Positions) (p : Pod) : List Result :=
  words.filterMap fun w => match decodeCore w.1 w.2 with
    | .ok i => if bunchScope i then some (crossResult i x p.active (4 * (p.index % 16))) else none
    | .error _ => none

/-- R37: the packet and slots of the BUNCH-scope words of the instruction or pair at a pod's place. -/
def bunchPlace (s : State) (g : Grid) (c : Context) (p : Pod) : BitVec 48 × List Nat :=
  (p.pc, ((wordsAt s g c p).zipIdx.filter fun x => (match decodeCore x.1.1 x.1.2 with | .ok i => bunchScope i | .error _ => false)).map
    fun x => p.slot.toNat + x.2)

/-- A pod stopped at a convergence. -/
def Pod.converging (p : Pod) : Bool := match p.phase with | .waiting .converge _ => true | _ => false

end Sys2Proof.Machine
end

