-- ==== Sys2Proof/Machine/Access.lean ====
section
/-! DEFINITION. The accesses of a pod: the addresses of its lanes, the checks of R213, and loads, stores and record reads. -/

namespace Sys2Proof.Machine

/-- R75: the spaces of the memory instructions. -/
inductive Space where
  | g | t | d | k
  deriving DecidableEq, Repr

/-- R348: INFO0 of UNCORRECTABLE-DATA. -/
def Space.number : Space → Nat
  | .g => 0 | .t => 1 | .d => 2 | .k => 3

/-- R20: the lanes that are active, lowest first. -/
def activeLanes (s : State) : List Nat := [0, 1, 2, 3].filter fun l => (activeMask s).getLsbD l

/-- R83: the pod's stack bounds lo and hi. -/
def stackBounds (s : State) : Nat × Nat :=
  let lo := s.grid.stackBase.toNat + (s.team.number * s.team.size + s.pod.index) * s.grid.stackSize.toNat
  (lo, lo + s.grid.stackSize.toNat)

/-- R212: the address of lane l. -/
def laneAddress (s : State) (sp : Space) (a : BitVec 7) (off : Int) (w l : Nat) : Int :=
  match sp with
  | .g => (laneAddr s a l : Int) + off
  | .t | .d => ((src s a l).toNat : Int) + off
  | .k => ((srcPod s).sp.toNat : Int) + off + (l * w : Nat)

/-- The address of a fault record. -/
def addrWord (a : Int) : W64 := BitVec.ofInt 64 a

/-- A translation fault with the lane that raised it; other codes are left as they are. -/
def inLane (l : Nat) (t : Stop) : Stop :=
  if t.code == .translation || t.code == .permission then { t with info0 := BitVec.ofNat 32 l } else t

/-- R212: the range of an address of width w; none when it lies inside. -/
def rangeStop (s : State) (sp : Space) (a : Int) (w kind l : Nat) : Option Stop :=
  match sp with
  | .g => if a < 0 || 2 ^ 51 ≤ a then some { code := .translation, addr := addrWord a, info0 := BitVec.ofNat 32 l, info1 := BitVec.ofNat 32 kind } else none
  | .t => if a < 0 || (s.team.tileSize : Int) < a + w then some (Stop.plain .regionBounds) else none
  | .d => if a < 0 || (s.ctx.scratch * 0x300000 : Nat) < a + w then some (Stop.plain .regionBounds) else none
  | .k => if a < (stackBounds s).1 || ((stackBounds s).2 : Int) < a + w then some (Stop.plain .stackOverflow) else none

/-- R77, R82, R96: the place of an address in the byte store. -/
def placeOf (s : State) (sp : Space) (kind : Nat) (a : Int) : Except Stop Nat :=
  match sp with
  | .t => .ok (tileAt s.team.core (s.team.tileBase + a.toNat))
  | .d => .ok (scratchAt (s.team.core / 144) a.toNat)
  | _ => translate s s.ctx a.toNat kind sp.number

/-- The translated places of lanes, or the first lane's fault. -/
def placesOf (s : State) (sp : Space) (kind : Nat) : List (Nat × Int) → Except Stop (List (Nat × Nat))
  | [] => .ok []
  | (l, a) :: r =>
    match placeOf s sp kind a with
    | .error t => .error (inLane l t)
    | .ok p => match placesOf s sp kind r with
      | .error t => .error t
      | .ok ps => .ok ((l, p) :: ps)

/-- R106: poison on the w bytes that lane l reads at a place, for the address it named. -/
def poisonStop (s : State) (sp : Space) (w : Nat) (x : Nat × Int) (p : Nat) : Option Stop :=
  match poisonIn s.poison p w with
  | some g => some { code := .uncorrectable, addr := addrWord (x.2 - x.2 % 64 + ((g : Int) - (p - p % 64 : Nat))), info0 := BitVec.ofNat 32 sp.number }
  | none => none

/-- R213: the checks of every active lane, in order; then the places that the lanes reach. reads says whether bytes are read. -/
def laneChecks (s : State) (sp : Space) (kind w : Nat) (reads guarded : Bool) (addrs : List (Nat × Int)) : Except Stop (List (Nat × Nat)) :=
  match firstStop addrs fun x => if x.2 % w != 0 then
      some { code := .misaligned, addr := addrWord x.2, info0 := BitVec.ofNat 32 x.1, info1 := BitVec.ofNat 32 kind } else none with
  | some t => .error t
  | none =>
    match firstStop addrs fun x => rangeStop s sp x.2 w kind x.1 with
    | some t => .error t
    | none =>
      match placesOf s sp kind addrs with
      | .error t => .error t
      | .ok ps =>
        match firstStop (addrs.zip ps) fun x => if guarded && s.ctx.guards x.2.2 w then
            some { code := .permission, addr := addrWord x.1.2, info0 := BitVec.ofNat 32 x.1.1, info1 := BitVec.ofNat 32 kind } else none with
        | some t => .error t
        | none =>
          match (if reads then firstStop (addrs.zip ps) fun x => poisonStop s sp w x.1 x.2.2 else none) with
          | some t => .error t
          | none => .ok ps

/-- The addresses of the active lanes. -/
def laneAddresses (s : State) (sp : Space) (a : BitVec 7) (off : Int) (w : Nat) : List (Nat × Int) :=
  (activeLanes s).map fun l => (l, laneAddress s sp a off w l)

/-- Register k of an n-register value. -/
def valueWord (v k : Nat) : W32 := BitVec.ofNat 32 (v / 2 ^ (32 * k))

/-- Lane words from values given for some lanes. -/
def laneWords (vals : List (Nat × Nat)) (n : Nat) : List LaneWord :=
  (List.range n).map fun k => laneWord fun l => match vals.find? (·.1 == l) with
    | some x => valueWord x.2 k
    | none => 0#32

/-- A value of a place of w bytes under the pod's key. -/
def placeValue (s : State) (p w : Nat) : Nat := bytesNat (keyedBytes s s.ctx.key p w)

/-- R78: the bank of the cell at an offset of T. -/
def cellBank (o : Nat) : Nat := (o / 64 % 16 + o / 4 % 16) % 16

/-- R78: the cycles that an access of some cells takes beyond one: the cells of its fullest bank, less one. -/
def bankConflicts (offs : List Nat) : Nat :=
  let banks := (offs.map (· / 4)).dedup.map fun c => cellBank (4 * c)
  (banks.foldl (fun n b => max n (banks.count b)) 0) - 1

/-- R78, R370: the bank conflicts of a pod's access to w bytes at places of the tile store (log 13). -/
def countBanks (s : State) (sp : Space) (w : Nat) (ps : List (Nat × Nat)) : State :=
  if sp == .t then countCore s s.ctx.owner s.team.core 0x06 (bankConflicts (ps.flatMap fun x => (List.range ((w + 3) / 4)).map fun i => x.2 + 4 * i)) else s

/-- R148: a pod's load: the lanes' values outstanding for n registers from d, with its window; the pod goes on. -/
def loadEffect (s : State) (sp : Space) (a d : BitVec 7) (off : Int) (w n : Nat) (la : BitVec 4) : Except Halt State := do
  let ps ← orTrap (laneChecks s sp accRead w true true (laneAddresses s sp a off w))
  let vals := ps.map fun x => (x.1, placeValue s x.2 w)
  let t := s.laneResult (activeMask s) d.toNat (laneWords vals n) la.toNat
  let t := if sp == .g || sp == .k then countCore t s.ctx.owner s.team.core 0x07 ((ps.map fun x => x.2 / 64).dedup.length) else t
  return ((countBanks t sp w ps).sample (if sp == .g then w * ps.length else 0) 0).advance 1

/-- R215: the value that lane l stores: the registers from d, low bytes first. -/
def storeValue (s : State) (d : BitVec 7) (w l : Nat) : Nat :=
  (srcN s d.toNat l).toNat + 2 ^ 32 * (if 4 < w then (srcN s (d.toNat + 1) l).toNat else 0)
    + 2 ^ 64 * (if 8 < w then (srcN s (d.toNat + 2) l).toNat + 2 ^ 32 * (srcN s (d.toNat + 3) l).toNat else 0)

/-- R111: lanes store in order, so the higher lane's value remains. -/
def storeLanes (s : State) (d : BitVec 7) (w : Nat) (ps : List (Nat × Nat)) : State :=
  ps.foldl (fun t x => storeAt t s.ctx.key x.2 (natBytes w (storeValue s d w x.1))) s

/-- R215: a pod's store. -/
def storeEffect (s : State) (sp : Space) (a d : BitVec 7) (off : Int) (w : Nat) : Except Halt State := do
  let ps ← orTrap (laneChecks s sp accWrite w false true (laneAddresses s sp a off w))
  return ((countBanks (storeLanes s d w ps) sp w ps).sample (if sp == .g then w * ps.length else 0) 0).advance 1

/-- R145: bytes of a width code. -/
def widthBytes (w : BitVec 3) : Nat := 2 ^ w.toNat

/-- R96, R213: a pod's read of n bytes at the address of a scalar pair, aligned to a power of two; guarded: under the guard of R221. -/
def podBytes (s : State) (guarded : Bool) (va n align : Nat) : Except Stop (List Byte) :=
  if va % align != 0 then .error { code := .misaligned, addr := BitVec.ofNat 64 va, info1 := BitVec.ofNat 32 accRead }
  else
    match translateRange s s.ctx accRead 0 (pagesOf va n) with
    | .error t => .error t
    | .ok () =>
      let hit := (pagesOf va n).any fun p => match translate s s.ctx p accRead 0 with
        | .ok pa => s.ctx.guards pa (min (va + n) ((p / 2 ^ 15 + 1) * 2 ^ 15) - p)
        | .error _ => false
      if guarded && hit then .error { code := .permission, addr := BitVec.ofNat 64 va, info1 := BitVec.ofNat 32 accRead } else vbytes s s.ctx 0 va n

/-- R96, R213, R221: a pod's read of a record. -/
def podRecord (s : State) (va n align : Nat) : Except Stop (List Byte) := podBytes s true va n align

end Sys2Proof.Machine
end

