-- ==== Sys2Proof/Machine/Control.lean ====
section
/-! DEFINITION. The control and system instructions of opcodes 0x01 to 0x0C (R28, R29, R31, R34, R41, R44, R259 to R273). -/

namespace Sys2Proof.Machine

/-- R31: the test of a branch over the active lanes. -/
def branchTest (s : State) (p : BitVec 3) (n : BitVec 2) : Bool :=
  let m := srcPred s p.toNat &&& activeMask s
  match n.toNat with
  | 0 => true
  | 1 => m != 0#4
  | 2 => m == activeMask s
  | _ => m == 0#4

/-- R144: the target packet of a direct branch, exact. -/
def branchTarget (s : State) (o : BitVec 19) : Int := (s.pod.pc.toNat : Int) + o.toInt

/-- R260: a target that cannot be addressed raises TRANSLATION. -/
def targetOk (t : Int) : Bool := decide (0 ≤ t) && decide (12 * t < 2 ^ 51)

/-- R260: the fault of such a target; its address is that of the packet. -/
def targetStop (t : Int) : Stop := { code := .translation, addr := addrWord (12 * t), info1 := BitVec.ofNat 32 accFetch }

/-- R260. -/
def execBra (p : BitVec 3) (n : BitVec 2) (o : BitVec 19) (s : State) : Host.Outcome State Fault Refusal :=
  settle s (
    if !branchTest s p n then .ok (s.advance 1)
    else if !targetOk (branchTarget s o) then .error (.trap (targetStop (branchTarget s o)))
    else .ok (s.mapPod (·.jump (BitVec.ofInt 48 (branchTarget s o)))))

/-- R261: the place after the word in issue. -/
def returnPoint (p : Pod) : BitVec 48 × BitVec 2 := ((p.advance 1).pc, (p.advance 1).slot)

/-- R261: the return record of a call. -/
def callRecord (p : Pod) : List W32 :=
  let (pc, slot) := returnPoint p
  [pc.extractLsb' 0 32, BitVec.ofNat 32 (slot.toNat * 2 ^ 16 + pc.toNat / 2 ^ 32), BitVec.ofNat 32 (p.cd.toNat + 1), 0#32]

/-- R83, R96: a 16-byte record at a place of the pod's stack: the address it translates to. -/
def stackPlace (s : State) (a : Int) (kind : Nat) : Except Stop Nat :=
  match rangeStop s .k a 16 kind 0 with
  | some t => .error t
  | none => placeOf s .k kind a

/-- R221: a stack access that meets a declared counter array. -/
def stackGuard (s : State) (a : Int) (pa kind : Nat) : Option Stop :=
  if s.ctx.guards pa 16 then some { code := .permission, addr := addrWord a, info1 := BitVec.ofNat 32 kind } else none

/-- R261: Call. -/
def callEffect (s : State) (target : BitVec 48) : Except Halt State := do
  let sp := (srcPod s).sp
  require (s.pod.cd != 255#8) (Stop.plain .stackOverflow)
  require (sp.toNat % 16 == 0) { code := .misaligned, addr := sp, info1 := BitVec.ofNat 32 accWrite }
  let a := (sp.toNat : Int) - 16
  let pa ← orTrap (stackPlace s a accWrite)
  match stackGuard s a pa accWrite with
  | some t => .error (.trap t)
  | none =>
    let t := storeAt s s.ctx.key pa (wordsBytes (callRecord s.pod))
    return t.mapPod fun p => { p.jump target with sp := sp - 16#64, cd := p.cd + 1#8 }

/-- R260, R261: where the target is out of range and the call depth is 255 as well, the target's fault is raised; the spec gives no order
(log 31). -/
def execCall (p : BitVec 3) (n : BitVec 2) (o : BitVec 19) (s : State) : Host.Outcome State Fault Refusal :=
  settle s (
    if !branchTest s p n then .ok (s.advance 1)
    else if !targetOk (branchTarget s o) then .error (.trap (targetStop (branchTarget s o)))
    else callEffect s (BitVec.ofInt 48 (branchTarget s o)))

/-- R262: Ret. -/
def execRet (s : State) : Host.Outcome State Fault Refusal :=
  settle s (do
    let sp := (srcPod s).sp
    require (s.pod.cd != 0#8) (Stop.plain .stackOverflow)
    require (sp.toNat % 16 == 0) { code := .misaligned, addr := sp, info1 := BitVec.ofNat 32 accRead }
    let pa ← orTrap (stackPlace s sp.toNat accRead)
    match stackGuard s sp.toNat pa accRead with
    | some t => .error (.trap t)
    | none =>
      match poisonStop s .k 16 (0, sp.toNat) pa with
      | some t => .error (.trap t)
      | none =>
        let e := bytesWords 4 (keyedBytes s s.ctx.key pa 16)
        let slot := (wordAt e 1).extractLsb' 16 2
        require (slot != 3#2 && (wordAt e 1).extractLsb' 18 14 == 0#14 && (wordAt e 2).extractLsb' 8 24 == 0#24 &&
          wordAt e 3 == 0#32 && (wordAt e 2).extractLsb' 0 8 == s.pod.cd) (Stop.plain .stackOverflow)
        let pc : BitVec 48 := (wordAt e 1).extractLsb' 0 16 ++ wordAt e 0
        return s.mapPod fun p => { p.jump pc with slot := slot, sp := sp + 16#64, cd := p.cd - 1#8 })

/-- R139, R263: INDIRECT-TARGET with the target packet address. -/
def indirectStop (t : Nat) : Stop := { code := .indirectTarget, addr := BitVec.ofNat 64 t }

/-- R263: the target that a scalar pair names. -/
def indirectTarget (s : State) (a : BitVec 5) : Nat := (pairOf s a.toNat).toNat

/-- R139, R263: the target is addressable and its packet's slot 0 holds LAND. -/
def landingOk (s : State) (t : Nat) : Bool :=
  decide (t < 2 ^ 48) && decide (12 * t < 2 ^ 51) &&
  (match fetchPacket s t with
   | .ok ws => (wordAt ws 0).extractLsb' 0 31 == 0x04200000#31
   | .error _ => false)

/-- R263. -/
def execBrx (a : BitVec 5) (s : State) : Host.Outcome State Fault Refusal :=
  settle s (do
    let t := indirectTarget s a
    require (landingOk s t) (indirectStop t)
    return s.mapPod (·.jump (BitVec.ofNat 48 t)))

/-- R263: the call-depth check comes before the landing check. -/
def execCallx (a : BitVec 5) (s : State) : Host.Outcome State Fault Refusal :=
  settle s (do
    let t := indirectTarget s a
    require (decide (t < 2 ^ 48) && decide (12 * t < 2 ^ 51)) (indirectStop t)
    require (s.pod.cd != 255#8) (Stop.plain .stackOverflow)
    require (landingOk s t) (indirectStop t)
    callEffect s (BitVec.ofNat 48 t))

/-- R265. -/
def execNop (s : State) : Host.Outcome State Fault Refusal := .next (s.advance 1)

/-- R139, R265: nothing but a mark. -/
def execLand (s : State) : Host.Outcome State Fault Refusal := .next (s.advance 1)

/-- R34: the pod is held past the REJOIN until its hold ends, with the ganging key that it had at the REJOIN. -/
def execRejoin (s : State) : Host.Outcome State Fault Refusal :=
  .next ((s.advance 1).mapPod fun p => { p with phase := .waiting .rejoin s.clock, heldAt := some s.pod.key })

/-- R41: the pod's bunch is last in the issue order. -/
def execYield (s : State) : Host.Outcome State Fault Refusal :=
  .next ((s.advance 1).mapPod fun p => { p with lastIssue := s.tick + 1 })

/-- R28: MELSE. -/
def execMelse (s : State) : Host.Outcome State Fault Refusal :=
  let md := (srcPod s).md.toNat
  settle s (do
    require (md != 0) (Stop.plain .stackOverflow)
    let pw := (srcPod s).pw
    return (s.mapPod fun p => { p with pw := setMaskEntry pw md (maskEntry pw (md - 1) &&& ~~~maskEntry pw md) }).advance 1)

/-- R28: MPOP. -/
def execMpop (s : State) : Host.Outcome State Fault Refusal :=
  let md := (srcPod s).md.toNat
  settle s (do
    require (md != 0) (Stop.plain .stackOverflow)
    return (s.mapPod fun p => { p with pw := setMaskEntry (srcPod s).pw md 0#4, md := BitVec.ofNat 3 (md - 1) }).advance 1)

/-- R28, R265: MPUSH. -/
def execMpush (f : BitVec 3) (s : State) : Host.Outcome State Fault Refusal :=
  let md := (srcPod s).md.toNat
  settle s (do
    require (md != 7) (Stop.plain .stackOverflow)
    let pw := (srcPod s).pw
    return (s.mapPod fun p =>
      { p with pw := setMaskEntry pw (md + 1) (maskEntry pw md &&& srcPred s f.toNat), md := BitVec.ofNat 3 (md + 1) }).advance 1)

/-- R266: the pod sleeps until n clocks have passed; SLEEP #0 acts as NOP. -/
def execSleep (i : BitVec 17) (s : State) : Host.Outcome State Fault Refusal :=
  let t := s.advance 1
  .next (if i == 0#17 then t else t.mapPod fun p => { p with phase := .asleep (s.clock + i.toNat) })

/-- R267, R348: the fault of TRAP and BRK: n, and the instruction's own packet and slot. -/
def softwareStop (s : State) (code : Trap) (n : BitVec 17) : Stop :=
  { code := code, info0 := n.zeroExtend 32, info1 := s.pod.pc.extractLsb' 0 32,
    info2 := BitVec.ofNat 32 (s.pod.slot.toNat * 2 ^ 30 + s.pod.pc.toNat / 2 ^ 32), after := true }

/-- R267: the instruction completes, and the pod then stops after it. -/
def execTrap (i : BitVec 17) (s : State) : Host.Outcome State Fault Refusal :=
  .next (takeTrap (s.advance 1) (softwareStop s .softwareTrap i))

/-- R267. -/
def execBrk (i : BitVec 17) (s : State) : Host.Outcome State Fault Refusal :=
  .next (takeTrap (s.advance 1) (softwareStop s .breakpoint i))

/-- R21, R271: CYCLE of the pod's core. -/
def cycleOf (s : State) : W64 := BitVec.ofNat 64 (s.clock + Config.coreSkew s.team.core)

/-- R90: a channel's CHPTR. -/
def Channel.pointer (c : Channel) : W32 := c.seq ++ c.cnt

/-- R269: the value of a name for lane l. -/
def sysValue (s : State) (code l : Nat) : W32 :=
  let p := srcPod s
  let t := srcTeam s
  let c := srcCtx s
  match code with
  | 0 => t.mode
  | 1 => t.flags
  | 2 => p.sp.extractLsb' 0 32
  | 3 => p.sp.extractLsb' 32 32
  | 4 => c.tkctl
  | 5 => c.lscale
  | 6 => c.lsctl
  | 7 => p.srsel.zeroExtend 32
  | 8 | 9 | 10 | 11 => c.cntsel.getD (code - 8) 0#32
  | 32 => BitVec.ofNat 32 l
  | 33 => BitVec.ofNat 32 p.index
  | 34 => BitVec.ofNat 32 t.number
  | 35 => t.handle
  | 36 => BitVec.ofNat 32 t.core
  | 37 => BitVec.ofNat 32 (t.core / 4)
  | 38 => BitVec.ofNat 32 (t.core / 144)
  | 39 => p.cd.zeroExtend 32
  | 40 => (cycleOf s).extractLsb' 0 32
  | 41 => (cycleOf s).extractLsb' 32 32
  | 42 => BitVec.ofNat 32 t.size
  | 43 => BitVec.ofNat 32 s.grid.teams
  | 44 => c.srstep
  | 45 => p.pw
  | 46 => p.md.zeroExtend 32
  | 47 | 48 | 49 | 50 => (t.chans.getD (code - 47) Channel.reset).pointer
  | 51 => BitVec.ofNat 32 s.grid.depth
  | 52 => BitVec.ofNat 32 c.owner
  | _ => 0#32

/-- R268: a lane destination in active lanes (F = 0), or a scalar. -/
def execSysrd (f : BitVec 1) (d b : BitVec 7) (s : State) : Host.Outcome State Fault Refusal :=
  .next (if f == 0#1 then laneEffect s d fun l => sysValue s b.toNat l
         else (s.setScalar d.toNat (sysValue s b.toNat 0)).advance 1)

/-- R74, R270: what a write leaves in LSCALE. -/
def lscaleWritten (old w : W32) : W32 := (w &&& 0x00FFFFFF#32) ||| (old &&& 0x30000000#32) ||| (old &&& ~~~w &&& 0xC0000000#32)

/-- The context register that a name's write leaves, or RESERVED-FIELD (R73, R222, R269, R369). -/
def sysWriteContext (s : State) (code : Nat) (w : W32) : Except Stop Context :=
  let c := s.ctx
  match code with
  | 4 =>
    let gap := (w.extractLsb' 0 5).toNat
    if 1 ≤ gap && gap ≤ 9 then .error (Stop.plain .reservedField) else .ok { c with tkctl := w &&& 0x8000001F#32 }
  | 5 => .ok { c with lscale := lscaleWritten c.lscale w }
  | 6 =>
    let hi := (w.extractLsb' 8 8).toInt
    let lo := (w.extractLsb' 0 8).toInt
    if lo ≤ hi && -126 ≤ lo && -126 ≤ hi then .ok { c with lsctl := w } else .error (Stop.plain .reservedField)
  | _ => if eventKnown 0 (w.extractLsb' 0 8).toNat then .ok (c.writeSel 0 (code - 8) w) else .error (Stop.plain .reservedField)

/-- R268 to R270: SYSWR. -/
def sysWrite (s : State) (code : Nat) (w : W32) : Except Stop State :=
  match code with
  | 0 => if modeRmOk w then .ok { s with team := { s.team with mode := modeWritten w } } else .error (Stop.plain .reservedField)
  | 1 => .ok { s with team := { s.team with flags := flagsWritten s.team.flags w } }
  | 2 => if w.extractLsb' 0 4 == 0#4 then .ok (s.mapPod fun p => { p with sp := p.sp.extractLsb' 32 32 ++ w }) else .error (Stop.plain .reservedField)
  | 3 => if w.extractLsb' 19 13 == 0#13 then .ok (s.mapPod fun p => { p with sp := w ++ p.sp.extractLsb' 0 32 }) else .error (Stop.plain .reservedField)
  | 7 => .ok (s.mapPod fun p => { p with srsel := w.extractLsb' 0 16 })
  | _ => match sysWriteContext s code w with
    | .ok c => .ok { s with ctx := c }
    | .error t => .error t

/-- R268, R270. -/
def execSyswr (n a : BitVec 5) (s : State) : Host.Outcome State Fault Refusal :=
  settle s (do
    let t ← orTrap (sysWrite s n.toNat (sreg s a))
    return t.advance 1)

/-- R272: the count and its overflow bit in one read. -/
def execCntrd (d : BitVec 5) (n : BitVec 2) (s : State) : Host.Outcome State Fault Refusal :=
  let c := srcCtx s
  let x := counterOf c.cnt s.team.core n.toNat
  let hi : W32 := (selOf c 0 n.toNat).extractLsb' 30 1 ++ (0#15 ++ x.count.extractLsb' 32 16)
  .next (((s.setScalar d.toNat (x.count.extractLsb' 0 32)).setScalar (d.toNat + 1) hi).advance 1)

/-- R273. -/
def execSrkey (k : BitVec 4) (a : BitVec 5) (s : State) : Host.Outcome State Fault Refusal :=
  .next ({ s with ctx := { s.ctx with srkey := s.ctx.srkey.setIfInBounds k.toNat (sreg s a) } }.advance 1)

/-- R273. -/
def execSrstep (a : BitVec 5) (s : State) : Host.Outcome State Fault Refusal :=
  .next ({ s with ctx := { s.ctx with srstep := sreg s a } }.advance 1)

/-- R138: a pool marker raises POOL-EXECUTION before any effect. -/
def execPoolMarker (_n : BitVec 24) (s : State) : Host.Outcome State Fault Refusal :=
  .next (takeTrap s (Stop.plain .poolExecution))

end Sys2Proof.Machine
end

