-- ==== Sys2Proof/Machine/Ticket.lean ====
section
/-! DEFINITION. Ticket regions and ticketed updates (R127, R220 to R229). -/

namespace Sys2Proof.Machine

/-- R220: the physical place of the counter of granule g of a declared region. -/
def Region.place (r : Region) (g : Nat) : Nat :=
  let va := r.cntr + 2 * g
  r.pages.getD (va / 2 ^ 15 - r.cntr / 2 ^ 15) 0 * 2 ^ 15 + va % 2 ^ 15

/-- R220, R221: the counter of granule g: as applications have left it, or as the array held it at the declaration. -/
def Region.counter (r : Region) (s : State) (key g : Nat) : BitVec 16 :=
  match r.counters.find? (·.1 == g) with
  | some x => x.2
  | none => BitVec.ofNat 16 (bytesNat (keyedBytes s key (r.place g) 2))

/-- An entry set in a list of counters, in granule order. -/
def setGranule (l : List (Nat × BitVec 16)) (g : Nat) (v : BitVec 16) : List (Nat × BitVec 16) :=
  l.filter (fun x => decide (x.1 < g)) ++ (g, v) :: l.filter (fun x => decide (g < x.1))

/-- R223: the declared region that holds a virtual address, and the granule's number in it. -/
def Context.regionOf (c : Context) (va : Nat) : Option (Nat × Region) :=
  ((List.range 16).filterMap fun k => match c.regions.getD k none with
    | some r => if r.base ≤ va && va < r.base + 64 * r.ngran then some (k, r) else none
    | none => none).head?

/-- R226: the pending entries of one partition's owners at a home slice. -/
def shareUsed (s : State) (part slice : Nat) : Nat :=
  ((s.owners.map fun o => let c := s.ctxOf o.owner
    if c.part == part then (c.entries.filter fun e => homeSlice e.pa == slice).length else 0)).foldl (· + ·) 0

/-- R226: the entries of a share. -/
def shareSize (s : State) : Nat := 512 / max 1 s.parts

/-- R219, R224: the words of a granule after one application. -/
def applyWords (u : TkEntry) (old : List W32) : List W32 :=
  (List.range 16).map fun i => if u.mask.getLsbD i then addFWord u.bf16 (wordAt old i) (wordAt u.data i) else wordAt old i

/-- A declared region of a context changed. -/
def Context.mapRegion (c : Context) (k : Nat) (f : Region → Region) : Context :=
  { c with regions := c.regions.setIfInBounds k ((c.regions.getD k none).map f) }

/-- R127, R224: Apply: the granule's words and its counter, as one step. -/
def applyUpdate (s : State) (owner : Nat) (u : TkEntry) : State :=
  let c := s.ctxOf owner
  let old := bytesWords 16 (keyedBytes s c.key u.pa 64)
  let new := applyWords u old
  let bump (r : Region) : Region := { r with counters := setGranule r.counters u.granule (r.counter s c.key u.granule + 1#16) }
  let s := (List.range 16).foldl (fun s i =>
    if u.mask.getLsbD i then storeAt s c.key (u.pa + 4 * i) (natBytes 4 (wordAt new i).toNat) else s) s
  let s := s.mapCtx owner fun c => c.mapRegion u.region bump
  countSlice s owner u.pa 0x04 1

/-- R224: Drain: pending entries of the granule applied while one's ticket equals the counter; fuel is the number pending. -/
def drainGranule (s : State) (owner region granule : Nat) : Nat → State
  | 0 => s
  | n + 1 =>
    let c := s.ctxOf owner
    match c.regions.getD region none with
    | none => s
    | some r =>
      let here (e : TkEntry) : Bool := e.region == region && e.granule == granule && e.ticket == r.counter s c.key granule
      match c.entries.find? here with
      | none => s
      | some e =>
        let s := s.mapCtx owner fun c => { c with entries := c.entries.filter fun x => !here x }
        drainGranule (applyUpdate s owner e) owner region granule n

/-- What a home slice answers to an update (R224). -/
inductive Accept where
  | accepted (s : State)
  | stalled
  | rejected (t : Stop)

/-- R348: the fields of a ticket fault. -/
def ticketStop (code : Trap) (va : W64) (region : Nat) (c t : BitVec 16) : Stop :=
  { code := code, addr := va, info0 := BitVec.ofNat 32 region, info1 := c.zeroExtend 32, info2 := t.zeroExtend 32 }

/-- R224: Accept. -/
def acceptUpdate (s : State) (owner : Nat) (u : TkEntry) : Accept :=
  let c := s.ctxOf owner
  match c.regions.getD u.region none with
  | none => .rejected (ticketStop .ticketRange u.va u.region 0#16 u.ticket)
  | some r =>
    let k := r.counter s c.key u.granule
    let d := u.ticket - k
    let here (e : TkEntry) : Bool := e.region == u.region && e.granule == u.granule
    if d.toNat ≥ 32768 then .rejected (ticketStop .ticketRange u.va u.region k u.ticket)
    else if c.entries.any fun e => here e && e.ticket == u.ticket then .rejected (ticketStop .ticketDuplicate u.va u.region k u.ticket)
    else if d == 0#16 then .accepted (drainGranule (applyUpdate s owner u) owner u.region u.granule (c.entries.length + 1))
    else if shareUsed s c.part (homeSlice u.pa) < shareSize s then
      .accepted (s.mapCtx owner fun c => { c with entries := c.entries ++ [{ u with since := s.clock }] })
    else .stalled

/-- R221, R223: an update of the granule at a virtual address for the focused pod: translated for an atomic access, inside a declared
region, outside every counter array. That the record of a granule in no declared region gives region and counter 0 is the model's
(log 26), and so is that the regions are as a pair's first word leaves them (log 21). -/
def podUpdate (s : State) (va lane : Nat) (ticket mask : BitVec 16) (bf16 : Bool) (data : List W32) : Except Stop TkEntry :=
  match translate s s.ctx va accAtomic 0 with
  | .error t => .error (inLane lane t)
  | .ok pa =>
    match s.ctx.regionOf va with
    | none => .error (ticketStop .ticketRange (BitVec.ofNat 64 va) 0 0#16 ticket)
    | some (k, r) =>
      if s.ctx.guards pa 64 then
        .error { code := .permission, addr := BitVec.ofNat 64 va, info0 := BitVec.ofNat 32 lane, info1 := BitVec.ofNat 32 accAtomic }
      else
        .ok { region := k, granule := (va - r.base) / 64, va := BitVec.ofNat 64 va, pa := pa, ticket := ticket, mask := mask, bf16 := bf16,
              data := data, team := s.team.id, pod := s.pod.index, core := s.team.core, handle := s.team.handle, since := s.clock }

/-- The update offered to its home slice: accepted, stalled (the pod waits) or rejected (a fault). -/
def offer (s : State) (u : TkEntry) : Except Halt State :=
  match acceptUpdate s s.ctx.owner u with
  | .accepted t => .ok (countCore t s.ctx.owner s.team.core 0x0A 1)
  | .stalled => .error (.wait .ticket)
  | .rejected t => .error (.trap t)

/-- R223: the mask of an update: lane l's four words. -/
def updateMask (m : Mask) : BitVec 16 :=
  let q (l : Nat) : BitVec 4 := if m.getLsbD l then 0xF#4 else 0#4
  q 3 ++ (q 2 ++ (q 1 ++ q 0))

/-- R223. -/
def execTkfadd (d a : BitVec 7) (w : BitVec 1) (s : State) : Host.Outcome State Fault Refusal :=
  match activeLanes s with
  | [] => .next (s.advance 1)
  | l0 :: _ =>
    let g := laneAddr s a l0
    settle s (do
      require (g % 64 == 0) { code := .misaligned, addr := BitVec.ofNat 64 g, info0 := BitVec.ofNat 32 l0, info1 := BitVec.ofNat 32 accAtomic }
      let data := (List.range 16).map fun i => srcN s (d.toNat + i % 4) (i / 4)
      let u ← orTrap (podUpdate s g l0 ((srcN s (d.toNat + 4) l0).extractLsb' 0 16) (updateMask (activeMask s)) (w == 1#1) data)
      let t ← offer s u
      return t.advance 1)

/-- R225: where a TKSKIP stands: the state so far, with the granules done, and why it stopped, if it did. -/
structure SkipOut where
  state : State
  done : Nat
  halt : Option Halt

/-- R225: the updates of TKSKIP from granule j on, n of them left. -/
def skipFrom (va : Nat) (t : BitVec 16) : Nat → Nat → State → SkipOut
  | 0, j, s => ⟨s, j, none⟩
  | n + 1, j, s =>
    match podUpdate s (va + 64 * j) 0 t 0#16 false (List.replicate 16 0#32) with
    | .error e => ⟨s, j, some (.trap e)⟩
    | .ok u => match offer s u with
      | .ok s' => skipFrom va t n (j + 1) s'
      | .error h => ⟨s, j, some h⟩

/-- R225: the scalars of a TKSKIP that stops at granule j: the address advanced, the count reduced. -/
def skipScalars (p : Pod) (x y : BitVec 5) (j : Nat) : Pod :=
  let sx := p.scalar x.toNat
  let va := p.scalarPair y.toNat + BitVec.ofNat 64 (64 * j)
  ((p.setScalar y.toNat (va.extractLsb' 0 32)).setScalar (y.toNat + 1) (va.extractLsb' 32 32)).setScalar x.toNat (sx - BitVec.ofNat 32 (j * 2 ^ 16))

/-- R225: the granules that the TKSKIP in issue has done before this issue. -/
def skipCount (s : State) : Nat := if s.snap.isSome then s.pod.skip2 else s.pod.skip

/-- R225: the TKSKIP in issue has done n granules. -/
def skipTo (s : State) (n : Nat) : State := s.mapPod fun p => if s.snap.isSome then { p with skip2 := n } else { p with skip := n }

/-- R225: the granules that a TKSKIP covers. -/
def skipTotal (s : State) (x : BitVec 5) : Nat := ((sreg s x).extractLsb' 16 16).toNat + 1

/-- R225: the updates of a TKSKIP from where it stands to granule z. -/
def skipUpTo (s : State) (x y : BitVec 5) (z : Nat) : SkipOut :=
  skipFrom (pairOf s y.toNat).toNat ((sreg s x).extractLsb' 0 16) (z - skipCount s) (skipCount s) s

/-- R225: what a TKSKIP that a fault stops leaves: the granules done, and its scalars advanced to the next. -/
def skipKept (r : SkipOut) (x y : BitVec 5) : State := skipTo (r.state.mapPod fun p => skipScalars p x y r.done) 0

/-- R225. -/
def execTkskip (x y : BitVec 5) (s : State) : Host.Outcome State Fault Refusal :=
  let va := (pairOf s y.toNat).toNat
  if va % 64 != 0 then .next (takeTrap s { code := .misaligned, addr := BitVec.ofNat 64 va, info1 := BitVec.ofNat 32 accAtomic })
  else
    let r := skipUpTo s x y (skipTotal s x)
    match r.halt with
    | none => .next ((skipTo r.state 0).advance 1)
    | some (.wait w) => .next (markWait (skipTo r.state r.done) w)
    | some (.trap t) => .next (takeTrap (skipKept r x y) t)

/-- R220: the region that a record declares; none for a release. -/
structure RegionRecord where
  valid : Bool
  base : Nat
  ngran : Nat
  cntr : Nat
  clean : Bool

/-- R220: a region record's fields; clean when its reserved fields are 0. -/
def regionRecord (b : List Byte) : RegionRecord :=
  let w := bytesWords 8 b
  { valid := (wordAt w 3).getLsbD 31, base := bytesNat (b.take 8), ngran := (wordAt w 2).toNat, cntr := bytesNat ((b.drop 16).take 8),
    clean := (wordAt w 3).extractLsb' 0 31 == 0#31 && wordAt w 6 == 0#32 && wordAt w 7 == 0#32 }

/-- Whether two ranges share a byte. -/
def rangesMeet (a n b m : Nat) : Bool := decide (a < b + m) && decide (b < a + n)

/-- R220: a new declaration's limits and overlaps. -/
def regionBad (c : Context) (k : Nat) (r : RegionRecord) : Bool :=
  r.base % 64 != 0 || decide (2 ^ 51 ≤ r.base) || r.cntr % 64 != 0 || decide (2 ^ 51 ≤ r.cntr) || r.ngran == 0 || decide (2 ^ 26 < r.ngran) ||
  rangesMeet r.base (64 * r.ngran) r.cntr (2 * r.ngran) ||
  (List.range 16).any fun j => j != k && (match c.regions.getD j none with
    | none => false
    | some o => rangesMeet r.base (64 * r.ngran) o.base (64 * o.ngran) || rangesMeet r.base (64 * r.ngran) o.cntr (2 * o.ngran) ||
        rangesMeet r.cntr (2 * r.ngran) o.base (64 * o.ngran) || rangesMeet r.cntr (2 * r.ngran) o.cntr (2 * o.ngran))

/-- R220: the physical pages of a counter array, or the first page's fault. -/
def arrayPages (s : State) (c : Context) : List Nat → Except Stop (List Nat)
  | [] => .ok []
  | p :: ps => match translate s c p accAtomic 0 with
    | .error t => .error t
    | .ok pa => match arrayPages s c ps with
      | .error t => .error t
      | .ok r => .ok (pa / 2 ^ 15 :: r)

/-- R220: the counters of a region written back to its array, whose pages translate to those given: every counter where the mapping of its page has
changed since the declaration, else those that applications have advanced. -/
def writeBack (s : State) (key : Nat) (r : Region) (pages : List Nat) : State :=
  let moved := ((pagesOf r.cntr (2 * r.ngran)).zip (r.pages.zip pages)).filter fun x => x.2.1 != x.2.2
  let t := moved.foldl (fun t x =>
    storeAt t key (x.2.2 * 2 ^ 15 + x.1 % 2 ^ 15) (keyedBytes s key (x.2.1 * 2 ^ 15 + x.1 % 2 ^ 15) (min (r.cntr + 2 * r.ngran) ((x.1 / 2 ^ 15 + 1) * 2 ^ 15) - x.1))) s
  r.counters.foldl (fun s x => storeAt s key (Region.place { r with pages := pages } x.1) (natBytes 2 x.2.toNat)) t

/-- R106, R220: poison in a counter array that a declaration reads. -/
def arrayPoison (s : State) (r : Region) : Option Stop :=
  firstStop (pagesOf r.cntr (2 * r.ngran)) fun va =>
    let z := min (r.cntr + 2 * r.ngran) ((va / 2 ^ 15 + 1) * 2 ^ 15)
    let pa := r.pages.getD (va / 2 ^ 15 - r.cntr / 2 ^ 15) 0 * 2 ^ 15 + va % 2 ^ 15
    (poisonIn s.poison pa (z - va)).map fun g => { code := .uncorrectable, addr := BitVec.ofNat 64 (va - va % 64 + (g - (pa - pa % 64))) }

/-- R220: TKREG after its record has been read. What its TICKET-RANGE record holds, and that a replacement translates the old array before the
new one, are the model's choices (log 26). -/
def declareRegion (s : State) (sx : W32) (r : RegionRecord) : Except Stop State :=
  let k := (sx.extractLsb' 0 4).toNat
  let old := s.ctx.regions.getD k none
  let bad := ticketStop .ticketRange (BitVec.ofNat 64 r.base) k 0#16 0#16
  if sx.extractLsb' 4 28 != 0#28 || !r.clean || (r.valid && regionBad s.ctx k r) || s.ctx.entries.any (·.region == k) then .error bad
  else
    match (match old with | some o => arrayPages s s.ctx (pagesOf o.cntr (2 * o.ngran)) | none => .ok []) with
    | .error t => .error t
    | .ok oldPages =>
      match (if r.valid then arrayPages s s.ctx (pagesOf r.cntr (2 * r.ngran)) else .ok []) with
      | .error t => .error t
      | .ok newPages =>
        let new : Region := { base := r.base, ngran := r.ngran, cntr := r.cntr, pages := newPages, counters := [], posted := [] }
        match (if r.valid then arrayPoison s new else none) with
        | some t => .error t
        | none =>
          let s := match old with | some o => writeBack s s.ctx.key o oldPages | none => s
          .ok { s with ctx := { s.ctx with regions := s.ctx.regions.setIfInBounds k (if r.valid then some new else none) } }

/-- R220, R221: its own accesses are exempt from the guard. -/
def execTkreg (x y : BitVec 5) (s : State) : Host.Outcome State Fault Refusal :=
  settle s (do
    let b ← orTrap (podBytes s false (pairOf s y.toNat).toNat 32 32)
    let t ← orTrap (declareRegion s (sreg s x) (regionRecord b))
    return t.advance 1)

/-- R229: an update of the pod is still to be applied. -/
def updatesLeft (s : State) : Bool :=
  s.ctx.entries.any (fun e => e.team == s.team.id && e.pod == s.pod.index) ||
  s.mats.any (fun m => m.team == s.team.id && m.pod == s.pod.index && m.ticketed)

/-- R229. -/
def execTkfence (_z : BitVec 5) (s : State) : Host.Outcome State Fault Refusal :=
  .next (if updatesLeft s then markWait s .tkfence else s.advance 1)

/-- R229: the counter of the granule that holds the address, zero-extended. That an address inside a granule names it, and that the record of
an address in no declared region gives region and counter 0, are the model's choices (log 26); so is that the regions are as a pair's first word
leaves them (log 21). -/
def execTkqry (x y : BitVec 5) (l : BitVec 4) (s : State) : Host.Outcome State Fault Refusal :=
  let va := (pairOf s y.toNat).toNat
  match s.ctx.regionOf va with
  | none => .next (takeTrap s (ticketStop .ticketRange (BitVec.ofNat 64 va) 0 0#16 0#16))
  | some (_, r) =>
    .next ((s.scalarResult x.toNat ((r.counter s s.ctx.key ((va - r.base) / 64)).zeroExtend 32) l.toNat).advance 1)

end Sys2Proof.Machine
end

