-- ==== Sys2Proof/Machine/Sync.lean ====
section
/-! DEFINITION. Fences, team barriers, barrier objects and waits: opcode 0x6F (R123 to R125, R230 to R237). -/

namespace Sys2Proof.Machine

/-- R231: accesses of the model are performed at their step, so a fence has nothing left to wait for. -/
def execFenceAcq (_z : BitVec 5) (s : State) : Host.Outcome State Fault Refusal := .next (s.advance 1)

/-- R231. -/
def execFenceRel (_z : BitVec 5) (s : State) : Host.Outcome State Fault Refusal := .next (s.advance 1)

/-- R117, R231. -/
def execFenceAr (_z : BitVec 5) (s : State) : Host.Outcome State Fault Refusal := .next (s.advance 1)

/-! ### BAR -/

/-- The pods of the focused team, the pod in focus as it stands. -/
def teamPods (s : State) : List Pod := replaceIf s.team.pods (·.index == s.pod.index) fun _ => s.pod

/-- R232: the current instance completes when every live pod of the team has arrived at it, and some pod has. -/
def barComplete (bars : Nat) (pods : List Pod) : Bool :=
  let live := pods.filter fun p => p.phase != .ended
  !live.isEmpty && live.all fun p => decide (bars < p.arrivals)

/-- R232: the focused team's barrier count after an arrival or an exit. -/
def settleBar (s : State) : State :=
  if barComplete s.team.bars (teamPods s) then { s with team := { s.team with bars := s.team.bars + 1 } } else s

/-- R232: the pod arrives once at its next instance, and goes on when that instance is complete. -/
def execBar (s : State) : Host.Outcome State Fault Refusal :=
  let t := settleBar (s.mapPod fun p => { p with arrivals := max p.arrivals (p.barsDone + 1) })
  .next (if t.pod.barsDone < t.team.bars then
      (t.mapPod fun p => { p with barsDone := p.barsDone + 1 }).advance 1
    else markWait t .bar)

/-- R44, R232, R265: the pod ends; its outstanding writes are discarded, and it counts as arrived at every later barrier
instance. The sprout ends silently. -/
def execExit (s : State) : Host.Outcome State Fault Refusal :=
  match s.cur with
  | .sprout _ => .next (endSprout s)
  | _ => .next (settleBar ((s.advance 1).mapPod fun p => { p with phase := .ended, pending := [], windows := [] }))

/-! ### Barrier objects -/

/-- R123: EXPECT of an object. -/
def objExpect (o : List W32) : Nat := ((wordAt o 0).extractLsb' 0 24).toNat
/-- R123: ARRIVED. -/
def objArrived (o : List W32) : Nat := ((wordAt o 1).extractLsb' 0 24).toNat
/-- R123: PHASE. -/
def objPhase (o : List W32) : W32 := wordAt o 2
/-- R123: WAITPAR. -/
def objWaiting (o : List W32) : Bool := (wordAt o 3).getLsbD 31
/-- R123: PEND. -/
def objPend (o : List W32) : Nat := ((wordAt o 3).extractLsb' 0 24).toNat
/-- R123: PARENT. -/
def objParent (o : List W32) : Nat := (wordAt o 5 ++ wordAt o 4).toNat

/-- R123: an object whose fields break the table. -/
def objBad (o : List W32) : Bool :=
  (wordAt o 0).extractLsb' 24 8 != 0#8 || (wordAt o 1).extractLsb' 24 8 != 0#8 || (wordAt o 3).extractLsb' 24 7 != 0#7 ||
  objExpect o == 0 || decide (2 ^ 51 ≤ objParent o) || objParent o % 64 != 0 || (!objWaiting o && wordAt o 6 != 0#32) ||
  (List.range 9).any fun i => wordAt o (7 + i) != 0#32

/-- BARRIER-OBJECT with the object's address (R348). -/
def objStop (va : Nat) : Stop := { code := .barrierObject, addr := BitVec.ofNat 64 va }

/-- R123, R124: the object at an address: aligned, translated for an RMW, outside every counter array, not poisoned, and well
formed; with its physical place. -/
def readObject (s : State) (owner va : Nat) : Except Stop (Nat × List W32) :=
  let c := s.ctxOf owner
  if va % 64 != 0 then .error { code := .misaligned, addr := BitVec.ofNat 64 va, info1 := BitVec.ofNat 32 accAtomic }
  else
    match translate s c va accAtomic 0 with
    | .error t => .error t
    | .ok pa =>
      if c.guards pa 64 then .error (accStop .permission va accAtomic)
      else if (poisonIn s.poison pa 64).isSome then .error { code := .uncorrectable, addr := BitVec.ofNat 64 va }
      else
        let o := bytesWords 16 (keyedBytes s c.key pa 64)
        if objBad o then .error (objStop va) else .ok (pa, o)

/-- An object's words stored. -/
def putObject (s : State) (owner pa : Nat) (o : List W32) : State := storeAt s (s.ctxOf owner).key pa (wordsBytes o)

/-- R124, R370: an object written, as one RMW at its home slice. -/
def writeObject (s : State) (owner pa : Nat) (o : List W32) : State := countSlice (putObject s owner pa o) owner pa 0x03 1

/-- R124: Flip. -/
def flipObject (o : List W32) : List W32 :=
  (((o.set 2 (objPhase o + 1#32)).set 1 (BitVec.ofNat 32 (objPend o))).set 3 0#32).set 6 0#32

/-- R234, R286: whether a phase lies past a token, in the wrapping order. -/
def phasePast (p token : W32) : Bool := 1 ≤ (p - token).toNat && (p - token).toNat ≤ 2 ^ 31 - 1

/-- An object that Resolve has reached: the state, with the flips of its parents, its place, and its words, flipped when its parent's phase is
past; flipped tells whether they differ from what memory holds. -/
structure Resolved where
  state : State
  place : Nat
  words : List W32
  flipped : Bool

/-- R124: Resolve, with as many objects of the chain left to walk as fuel. The object's own flip is not written yet: it is one RMW with the
arrival or the read. A parent's flip is an RMW of its own (log 13). -/
def resolveObject (s : State) (owner : Nat) : Nat → Nat → Except Stop Resolved
  | 0, va => match readObject s owner va with
    | .error t => .error t
    | .ok (pa, o) => if objWaiting o then .error (objStop va) else .ok ⟨s, pa, o, false⟩
  | fuel + 1, va => match readObject s owner va with
    | .error t => .error t
    | .ok (pa, o) =>
      if !objWaiting o then .ok ⟨s, pa, o, false⟩
      else match resolveObject s owner fuel (objParent o) with
        | .error t => .error t
        | .ok p =>
          let u := if p.flipped then writeObject p.state owner p.place p.words else p.state
          .ok (if phasePast (objPhase p.words) (wordAt o 6) then ⟨u, pa, flipObject o, true⟩ else ⟨u, pa, o, false⟩)

/-- What an arrival leaves: the state, and the token or the fault. A fault of a parent leaves the child's arrival counted. -/
structure Arrival where
  state : State
  token : Except Stop W32

/-- R124: Arrive, with as many objects of the chain left as fuel. An arrival that raises leaves its own object as it was. -/
def arriveObject (s : State) (owner : Nat) : Nat → Nat → Arrival
  | 0, va => ⟨s, .error (objStop va)⟩
  | fuel + 1, va =>
    match resolveObject s owner 16 va with
    | .error t => ⟨s, .error t⟩
    | .ok r =>
      let s := r.state
      let o := r.words
      if objWaiting o then
        if objExpect o ≤ objPend o + 1 then ⟨s, .error (objStop va)⟩
        else ⟨writeObject s owner r.place (o.set 3 (wordAt o 3 + 1#32)), .ok (objPhase o + 1#32)⟩
      else if objExpect o ≤ objArrived o then ⟨s, .error (objStop va)⟩
      else
        let o' := o.set 1 (wordAt o 1 + 1#32)
        if objArrived o + 1 != objExpect o then ⟨writeObject s owner r.place o', .ok (objPhase o)⟩
        else if objParent o == 0 then ⟨writeObject s owner r.place (flipObject o'), .ok (objPhase o)⟩
        else
          let up := arriveObject (writeObject s owner r.place o') owner fuel (objParent o)
          match up.token with
          | .error t => ⟨up.state, .error t⟩
          | .ok token => ⟨putObject up.state owner r.place ((o'.set 6 token).set 3 (o'.getD 3 0#32 ||| 0x80000000#32)), .ok (objPhase o)⟩

/-- R124: an arrival at an object and its chain of parents, at most 16 objects. -/
def arrive (s : State) (owner va : Nat) : Arrival := arriveObject s owner 16 va

/-- R124: PHASE read after its object has been resolved, as one RMW. -/
def readPhase (s : State) (owner va : Nat) : Except Stop (State × W32) :=
  match resolveObject s owner 16 va with
  | .error t => .error t
  | .ok r => .ok (if r.flipped then writeObject r.state owner r.place r.words else countSlice r.state owner r.place 0x03 1, objPhase r.words)

/-- R233. -/
def execBarrive (x y _z : BitVec 5) (l : BitVec 4) (s : State) : Host.Outcome State Fault Refusal :=
  let r := arrive s s.ctx.owner (pairOf s y.toNat).toNat
  .next (match r.token with
    | .error t => takeTrap r.state t
    | .ok token => (r.state.scalarResult x.toNat token l.toNat).advance 1)

/-- R234. -/
def execBwait (x y _z : BitVec 5) (s : State) : Host.Outcome State Fault Refusal :=
  .next (match readPhase s s.ctx.owner (pairOf s y.toNat).toNat with
    | .error t => takeTrap s t
    | .ok (t, p) => if phasePast p (sreg s x) then (t.setScalar x.toNat p).advance 1 else markWait t .barrier)

/-- R234. -/
def execBtry (x y _z : BitVec 5) (s : State) : Host.Outcome State Fault Refusal :=
  .next (match readPhase s s.ctx.owner (pairOf s y.toNat).toNat with
    | .error t => takeTrap s t
    | .ok (t, p) => (t.setScalar x.toNat p).advance 1)

/-! ### Waits -/

/-- R235: the pointer that a source code names. -/
def pointerOf (s : State) (z : BitVec 5) : W32 :=
  if z.ult 4#5 then (s.team.chans.getD z.toNat Channel.reset).pointer else s.team.xfptr.getD (z.toNat - 16) 0#32

/-- R235: whether a pointer has reached a target. -/
def pointerMet (p target : W32) : Bool :=
  let q := p.extractLsb' 24 8
  let t := target.extractLsb' 24 8
  (q == t && (target.extractLsb' 0 24).ule (p.extractLsb' 0 24)) || (1 ≤ (q - t).toNat && (q - t).toNat ≤ 127)

/-- R235. -/
def execWaitptr (x z : BitVec 5) (s : State) : Host.Outcome State Fault Refusal :=
  let p := pointerOf s z
  .next (if pointerMet p (sreg s x) then (s.setScalar x.toNat p).advance 1 else markWait s .pointer)

/-- R236: whether a word meets a condition. -/
def wordMet (g : BitVec 2) (m x : W32) : Bool :=
  match g.toNat with
  | 0 => m == x
  | 1 => m != x
  | _ => !(m - x).msb

/-- R236. -/
def execWaitmem (x y : BitVec 5) (g : BitVec 2) (s : State) : Host.Outcome State Fault Refusal :=
  settle s (do
    let b ← orTrap (podRecord s (pairOf s y.toNat).toNat 4 4)
    let m := BitVec.ofNat 32 (bytesNat b)
    if wordMet g m (sreg s x) then return (s.setScalar x.toNat m).advance 1 else .error (.wait .memory))

/-- The word at the focused pod's place. -/
def wordAtPod (s : State) : W32 := match fetchPacket s s.pod.pc.toNat with | .ok ws => wordAt ws s.pod.slot.toNat | .error _ => 0#32

/-- The words of the chained pair at the focused pod's place, decoded. -/
def pairInstrs (s : State) : List Instr :=
  match fetchPacket s s.pod.pc.toNat with
  | .error _ => []
  | .ok ws =>
    let at_ (k : Nat) : Option Instr := (decodeCore (wordAt ws k) (if k < 2 then some (wordAt ws (k + 1)) else none)).toOption
    [at_ s.pod.slot.toNat, at_ (s.pod.slot.toNat + 1)].filterMap id

/-- The word at a pod's place, when it stands alone there. -/
def loneInstr (s : State) : Option Instr :=
  match fetchPacket s s.pod.pc.toNat with
  | .error _ => none
  | .ok ws =>
    let k := s.pod.slot.toNat
    if chainOf (wordAt ws k) == 1#1 then none
    else match decodeCore (wordAt ws k) (if k < 2 then some (wordAt ws (k + 1)) else none) with
      | .ok i => some i
      | .error _ => none

/-- A waiting pod in focus, when it waits for what is given. -/
def openWaiting (s : State) (team pod : Nat) (w : Wait) : Option State :=
  match openPod s team pod with
  | none => none
  | some t => match t.pod.phase with
    | .waiting v _ => if v == w then some t else none
    | _ => none

/-- R33, R148, R370: what the word of a lone wait leaves when an event ends the wait: the completed word counted and its pod in a bunch
of its own; a fault taken; or the wait as it was. -/
def closed (s : State) (team pod : Nat) (i : Instr) (r : Host.Outcome State Fault Refusal) : Host.Outcome State Fault Refusal :=
  match r with
  | .next t => match t.note with
    | .none =>
      let u := retireWord t i (wordAtPod s) (activeMask s)
      .next { leaveBunch (countCore (closeFocus (u.mapPod fun p => { p with grant := none, lastIssue := max p.lastIssue s.tick })) s.ctx.owner s.team.core 0x03 1) team pod with
                note := .none, snap := none }
    | .trapped _ => .next { leaveBunch (closeFocus t) team pod with note := .none, snap := none }
    | .waits _ => .next { closeFocus t with note := .none, snap := none }
  | _ => .next s

/-- A pair's BWAIT or WAITMEM whose condition holds leaves its pod ready to issue the pair. -/
def pairReady (t : State) (r : Host.Outcome State Fault Refusal) : State :=
  match r with
  | .next u => match u.note with
    | .waits _ => closeFocus t
    | _ => closeFocus (t.mapPod fun p => { p with phase := .ready })
  | _ => closeFocus t

/-- R234: a waiting BWAIT meets its condition and completes; within a chained pair whose BWAIT meets it, the pair is ready to
issue. -/
def execBwaitCompletion (team pod : Nat) (s : State) : Host.Outcome State Fault Refusal :=
  match openWaiting s team pod .barrier with
  | none => .next s
  | some t => match loneInstr t with
    | some (.bwait x y z) => closed t team pod (.bwait x y z) (execBwait x y z t)
    | some _ => .next s
    | none => match (pairInstrs t).find? fun i => (match i with | .bwait _ _ _ => true | _ => false) with
      | some (.bwait x y z) => .next (pairReady t (execBwait x y z t))
      | _ => .next s

/-- R236: a waiting WAITMEM meets its condition and completes; within a chained pair whose WAITMEM meets it, the pair is ready to
issue. -/
def execWaitmemCompletion (team pod : Nat) (s : State) : Host.Outcome State Fault Refusal :=
  match openWaiting s team pod .memory with
  | none => .next s
  | some t => match loneInstr t with
    | some (.waitmem x y g) => closed t team pod (.waitmem x y g) (execWaitmem x y g t)
    | some _ => .next s
    | none => match (pairInstrs t).find? fun i => (match i with | .waitmem _ _ _ => true | _ => false) with
      | some (.waitmem x y g) => .next (pairReady t (execWaitmem x y g t))
      | _ => .next s

end Sys2Proof.Machine
end

