-- ==== Sys2Proof/Machine/Clock.lean ====
section
/-! DEFINITION. Time: the clocks of the module and the counters that count cycles (R3, R370, R371). A step of the model passes
a free number of clocks (log 10), cut short before a cycle counter would carry; COUNTER_CARRY passes the carrying cycle. -/

namespace Sys2Proof.Machine

/-- R294: the cores of an owner's partition. -/
def partCores (s : State) (part : Nat) : List Nat := (List.range 576).filter fun c => partOfDie s (c / 144) == part

/-- The owners resident in a partition. -/
def residents (s : State) : List Nat :=
  s.resident.toList.filterMap id

/-- R370: whether a wait counts under core event 0x0D. -/
def countedWait (p : Pod) : Bool :=
  match p.phase with
  | .waiting .rejoin _ | .waiting .register _ => false
  | .waiting _ _ => true
  | _ => false

/-- R370: the cores on which some pod of an owner stands at a counted wait. -/
def waitingCores (s : State) (owner : Nat) : List Nat :=
  ((s.teams.filter fun t => t.owner == owner && t.pods.any countedWait).map (·.core)).dedup

/-- The granule that a pod's stalled ticketed update names: that of its pair's second word, where that is the one that waits. -/
def stalledPlace (s : State) (t : Team) (p : Pod) : Option Nat :=
  match p.phase, openPod s t.id p.index with
  | .waiting .ticket _, some f =>
    ((wordsAt f f.grid f.ctx f.pod)[if p.second then 1 else 0]?.bind fun w => match decodeCore w.1 w.2 with
      | .ok (.tkfadd _ a _) => (activeLanes f).head?.map fun l => laneAddr f a l
      | .ok (.tkskip _ y) => some ((f.pod.scalarPair y.toNat).toNat + 64 * (if p.second then p.skip2 else p.skip))
      | _ => none).bind fun va => (translate f f.ctx va accAtomic 0).toOption
  | _, _ => none

/-- R370: the places whose slices count one for an owner in each cycle, under slice event 0x05 (pending entries) or 0x06
(stalled updates). -/
def slicePlaces (s : State) (owner ev : Nat) : List Nat :=
  if ev == 5 then ((s.ctxOf owner).entries).map (·.pa)
  else
    let ts := s.teams.filter (·.owner == owner)
    (ts.flatMap fun t => t.pods.filterMap (stalledPlace s t)) ++
      s.mats.filterMap fun m => if ts.any (·.id == m.team) && m.started && m.stopped.isNone then m.stall else none

/-- Whether a selector of a context counts an event. -/
def anySel (c : Context) (kind ev : Nat) : Bool := [0, 1, 2, 3].any fun n => selCounts (selOf c kind n) ev

/-- R370: the units whose cycle counters run for an owner: kind, event, unit, and how much each cycle adds. -/
def cycleUnits (s : State) (owner : Nat) : List (Nat × Nat × Nat × Nat) :=
  let c := s.ctxOf owner
  let ones (ev : Nat) (cores : List Nat) : List (Nat × Nat × Nat × Nat) :=
    if anySel c 0 ev then cores.map fun k => (0, ev, k, 1) else []
  let slices (ev : Nat) : List (Nat × Nat × Nat × Nat) :=
    if anySel c 1 ev then
      let hs := ((slicePlaces s owner ev).map homeSlice).filter fun h => partOfDie s (h / 32) == c.part
      hs.dedup.map fun h => (1, ev, h, hs.count h)
    else []
  ones 0x01 (partCores s c.part) ++ ones 0x0D (waitingCores s owner) ++ slices 5 ++ slices 6

/-- The cycles that may pass before counter n of a unit carries. -/
def roomOf (c : Context) (u : Nat × Nat × Nat × Nat) (n : Nat) : Option Nat :=
  if selCounts (selOf c u.1 n) u.2.1 then
    some ((2 ^ 48 - 1 - (counterOf (if u.1 == 0 then c.cnt else c.slcnt) u.2.2.1 n).count.toNat) / u.2.2.2)
  else none

/-- The cycles that may pass before some cycle counter carries; none when none runs. -/
def clockRoom (s : State) : Option Nat :=
  (((residents s).flatMap fun o => (cycleUnits s o).flatMap fun u => [0, 1, 2, 3].filterMap fun n => roomOf (s.ctxOf o) u n)).min?

/-- R370: n cycles of the arithmetic clock: what every running cycle counter adds. -/
def countCycles (s : State) (n : Nat) : State :=
  (residents s).foldl (fun s o => (cycleUnits s o).foldl (fun s u => countUnit s o u.1 u.2.2.1 u.2.1 (n * u.2.2.2) 1) s) s

/-- R370: fabric cycles stopped at ZWAIT. -/
def countFabricCycles (s : State) (n : Nat) : State :=
  (s.fabric.filter fun f => match f.phase with | .waiting .memory _ => true | _ => false).foldl
    (fun s f => countFabric s f.index 0x05 n 1) s

/-- n arithmetic clocks and m fabric clocks pass. -/
def passClocks (s : State) (n m : Nat) : State :=
  let s := countFabricCycles (countCycles s n) m
  { s with clock := s.clock + n, fabClock := s.fabClock + m }

/-- R98, R370: the events of a step that timing alone decides, free numbers of them (log 13): core event 0x09 on the cores of the resident
owners' partitions, slice events 0x01 and 0x02 at their slices. -/
def countTimed (s : State) : State :=
  let tally (s : State) (owner kind ev : Nat) (units : List Nat) : State :=
    if anySel (s.ctxOf owner) kind ev then
      units.foldl (fun s u => countUnit s owner kind u ev (Config.timedEvents s.tick ((kind * 16 + ev) * 1024 + u)) 1) s
    else s
  (residents s).foldl (fun s o =>
    let part := (s.ctxOf o).part
    let cores := partCores s part
    let slices := (List.range 128).filter fun h => partOfDie s (h / 32) == part
    tally (tally (tally s o 0 0x09 cores) o 1 0x01 slices) o 1 0x02 slices) s

/-- R106, R368: the errors that the slices and the stacks corrected in a step, counted up to 2^32 − 1 (log 13). -/
def countCorrected (s : State) : State :=
  let add (w : W32) (n : Nat) : W32 := BitVec.ofNat 32 (min (2 ^ 32 - 1) (w.toNat + n))
  { s with errSlice := Vector.ofFn fun i : Fin 128 => add s.errSlice[i] (Config.correctedIn s.tick i.val),
           errStack := Vector.ofFn fun i : Fin 8 => add s.errStack[i] (Config.correctedIn s.tick (128 + i.val)) }

/-- The clocks that pass in a step. -/
def passStep (s : State) : State :=
  let n := match clockRoom s with | some r => min (Config.stepClocks s.tick) r | none => Config.stepClocks s.tick
  let s := countCorrected (countTimed (passClocks s n (Config.stepFabClocks s.tick)))
  { s with tick := s.tick + 1 }

/-- R371: the cycle in which an enabled cycle counter that holds 2^48 − 1 carries. -/
def execCounterCarry (owner kind unit n : Nat) (s : State) : Host.Outcome State Fault Refusal :=
  let c := s.ctxOf owner
  let runs := (cycleUnits s owner).any fun u => u.1 == kind && u.2.2.1 == unit && roomOf c u n == some 0
  .next (if isResident s owner && runs then passClocks s 1 1 else s)

end Sys2Proof.Machine
end

