-- ==== Sys2Proof/Machine/Atomic.lean ====
section
/-! DEFINITION. The atomics of opcode 0x6D (R218, R219). -/

namespace Sys2Proof.Machine

/-- R218: the RMWs of the lanes, in lane order: each reads what the earlier ones left, and its old value is kept for its lane. -/
def rmwLanes (s : State) (w : Nat) (op : Nat → Nat → Nat) : List (Nat × Nat) → State × List (Nat × Nat)
  | [] => (s, [])
  | (l, p) :: r =>
    let m := placeValue s p w
    let t := countSlice (storeAt s s.ctx.key p (natBytes w (op l m))) s.ctx.owner p 0x03 1
    let (u, olds) := rmwLanes t w op r
    (u, (l, m) :: olds)

/-- R218: an atomic of width w on [vA]: op gives what memory becomes, from the lane and the old value. -/
def atomicEffect (s : State) (d a : BitVec 7) (w : Nat) (la : BitVec 4) (op : Nat → Nat → Nat) : Except Halt State := do
  let ps ← orTrap (laneChecks s .g accAtomic w true true (laneAddresses s .g a 0 w))
  let r := rmwLanes s w op ps
  return (r.1.laneResult (activeMask s) d.toNat (laneWords r.2 ((w + 3) / 4)) la.toNat).advance 1

/-- R218: bytes of an integer atomic. -/
def atomicWidth (w : BitVec 1) : Nat := if w == 1#1 then 8 else 4

/-- R218: the operand of lane l. -/
def operand (s : State) (d : BitVec 7) (w l : Nat) : Nat := storeValue s d w l

/-- R218. -/
def execAadd (d a : BitVec 7) (l : BitVec 4) (w : BitVec 1) (s : State) : Host.Outcome State Fault Refusal :=
  let n := atomicWidth w
  settle s (atomicEffect s d a n l fun k m => (m + operand s d n k) % 2 ^ (8 * n))

/-- R218: the lesser, as signed or natural values. -/
def execAmin (d a : BitVec 7) (l : BitVec 4) (w n : BitVec 1) (s : State) : Host.Outcome State Fault Refusal :=
  let b := atomicWidth w
  settle s (atomicEffect s d a b l fun k m =>
    if valOf (n == 0#1) (8 * b) (operand s d b k) < valOf (n == 0#1) (8 * b) m then operand s d b k else m)

/-- R218: the greater. -/
def execAmax (d a : BitVec 7) (l : BitVec 4) (w n : BitVec 1) (s : State) : Host.Outcome State Fault Refusal :=
  let b := atomicWidth w
  settle s (atomicEffect s d a b l fun k m =>
    if valOf (n == 0#1) (8 * b) m < valOf (n == 0#1) (8 * b) (operand s d b k) then operand s d b k else m)

/-- R218. -/
def execAand (d a : BitVec 7) (l : BitVec 4) (w : BitVec 1) (s : State) : Host.Outcome State Fault Refusal :=
  let n := atomicWidth w
  settle s (atomicEffect s d a n l fun k m => m &&& operand s d n k)

/-- R218. -/
def execAor (d a : BitVec 7) (l : BitVec 4) (w : BitVec 1) (s : State) : Host.Outcome State Fault Refusal :=
  let n := atomicWidth w
  settle s (atomicEffect s d a n l fun k m => m ||| operand s d n k)

/-- R218. -/
def execAxor (d a : BitVec 7) (l : BitVec 4) (w : BitVec 1) (s : State) : Host.Outcome State Fault Refusal :=
  let n := atomicWidth w
  settle s (atomicEffect s d a n l fun k m => m ^^^ operand s d n k)

/-- R218. -/
def execAxch (d a : BitVec 7) (l : BitVec 4) (w : BitVec 1) (s : State) : Host.Outcome State Fault Refusal :=
  let n := atomicWidth w
  settle s (atomicEffect s d a n l fun k _ => operand s d n k)

/-- R218: expected in v[D] or pair D, new in v[D+1] or pair D + 2; a failing comparison writes the old value back. -/
def execAcas (d a : BitVec 7) (l : BitVec 4) (w : BitVec 1) (s : State) : Host.Outcome State Fault Refusal :=
  let n := atomicWidth w
  settle s (atomicEffect s d a n l fun k m =>
    if m == operand s d n k then operand s (d + BitVec.ofNat 7 (n / 4)) n k else m)

/-- R218, R219: an F32 add (W = 0) or a BF16×2 add (W = 1) of one word. -/
def execAfadd (d a : BitVec 7) (l : BitVec 4) (w : BitVec 1) (s : State) : Host.Outcome State Fault Refusal :=
  settle s (atomicEffect s d a 4 l fun k m =>
    (addFWord (w == 1#1) (BitVec.ofNat 32 m) (BitVec.ofNat 32 (operand s d 4 k))).toNat)

end Sys2Proof.Machine
end

