-- ==== Sys2Proof/Machine/Special.lean ====
section
/-! DEFINITION. The special functions of opcode 0x49 (R201, R202): each result is the exact function's value rounded to nearest
even. Algebraic ones are rounded from an exact integer root; the others are enclosed in an interval of fixed-point numbers
that is narrowed until both ends round alike. -/

namespace Sys2Proof.Machine

/-- Integer square root by bits: fuel bits remain to be tried, r is the root so far. -/
def isqrtGo (n : Nat) : Nat → Nat → Nat
  | 0, r => r
  | k + 1, r =>
    let c := r + 2 ^ k
    isqrtGo n k (if c * c ≤ n then c else r)

/-- Floor of the square root. -/
def isqrt (n : Nat) : Nat := isqrtGo n (Nat.log2 n / 2 + 1) 0

/-- The rounding context of a special function (R201): RNE, MODE.FTZ. -/
def specialCtx (ftz : Bool) : RCtx := ⟨.rne, 0#32, false, ftz⟩

/-- R202: 1/x. -/
def frcpVal (c : RCtx) (x : Val) : Nat × W32 :=
  let t := tyF32
  match x with
  | .nan s => (t.nan, nvIf s)
  | .inf n => (if n then t.signAt else 0, 0#32)
  | .num n m e => if m == 0 then ((if n then t.signAt else 0) + t.inf, 0#32) else roundTo t c n 1 m (-e)

/-- R202: the square root, from 2 × Floor(√(m × 2^2k)) with a sticky half unit. -/
def fsqrtVal (c : RCtx) (x : Val) : Nat × W32 :=
  let t := tyF32
  match x with
  | .nan s => (t.nan, nvIf s)
  | .inf n => if n then invalid t else (t.inf, 0#32)
  | .num n m e =>
    if m == 0 then (if n then t.signAt else 0, 0#32)
    else if n then invalid t
    else
      let odd := (e % 2).toNat
      let a := m * 2 ^ (odd + 64)
      let r := isqrt a
      roundTo t c false (2 * r + (if r * r == a then 0 else 1)) 1 ((e - odd - 64) / 2 - 1)

/-- R202: 1/√x. -/
def frsqVal (c : RCtx) (x : Val) : Nat × W32 :=
  let t := tyF32
  match x with
  | .nan s => (t.nan, nvIf s)
  | .inf n => if n then invalid t else (0, 0#32)
  | .num n m e =>
    if m == 0 then ((if n then t.signAt else 0) + t.inf, 0#32)
    else if n then invalid t
    else
      let odd := (e % 2).toNat
      let a := m * 2 ^ odd
      let r := isqrt (2 ^ 160 / a)
      roundTo t c false (2 * r + (if r * r * a == 2 ^ 160 then 0 else 1)) 1 (-((e - odd) / 2) - 80 - 1)

/-- A closed interval of reals lo/2^p to hi/2^p. -/
structure Ival where
  lo : Int
  hi : Int
  deriving DecidableEq, Repr

/-- Sum of the alternating or plain series Σ z^(2i+1)/(2i+1) in fixed point at precision p: zz is z², pw the power. -/
def atanSeries (alt : Bool) (p zz : Nat) : Nat → Nat → Nat → Int
  | 0, _, _ => 0
  | k + 1, pw, i =>
    let term : Int := (pw / (2 * i + 1) : Nat)
    (if alt && i % 2 == 1 then -term else term) + atanSeries alt p zz k (pw * zz / 2 ^ p) (i + 1)

/-- π at precision p (error below 2^8 units): 16 arctan(1/5) − 4 arctan(1/239). -/
def piAt (p : Nat) : Int :=
  let a := 2 ^ p / 5
  let b := 2 ^ p / 239
  16 * atanSeries true p (2 ^ p / 25) (p / 4 + 2) a 0 - 4 * atanSeries true p (2 ^ p / 57121) (p / 15 + 2) b 0

/-- ln 2 at precision p: 2 artanh(1/3). -/
def ln2At (p : Nat) : Int := 2 * atanSeries false p (2 ^ p / 9) (p / 3 + 2) (2 ^ p / 3) 0

/-- Taylor series of exp at precision p, for an argument below 1. -/
def expSeries (p y : Nat) : Nat → Nat → Nat → Nat
  | 0, _, _ => 0
  | k + 1, t, i => t + expSeries p y k (t * y / 2 ^ p / (i + 1)) (i + 1)

/-- exp of a fixed-point argument from 0 to 1, at precision p. -/
def expAt (p y : Nat) : Nat := expSeries p y (p / 2 + 8) (2 ^ p) 0

/-- Taylor series of sine (start 1) or cosine (start 0) at precision p. -/
def trigSeries (p yy : Nat) : Nat → Nat → Nat → Int
  | 0, _, _ => 0
  | k + 1, t, i => (t : Int) - trigSeries p yy k (t * yy / 2 ^ p / ((i + 1) * (i + 2))) (i + 2)

/-- Natural logarithm of y/2^p for y from 2^p to 2^(p+1), at precision p: 2 artanh((y−1)/(y+1)). -/
def lnAt (p y : Nat) : Int :=
  let z := (y - 2 ^ p) * 2 ^ p / (y + 2 ^ p)
  2 * atanSeries false p (z * z / 2 ^ p) (p / 3 + 2) z 0

/-- A number scaled to p fraction bits, toward minus infinity. -/
def fixAt (p : Nat) (n : Bool) (m : Nat) (e : Int) : Int :=
  let v : Int := if n then -(m : Int) else m
  if 0 ≤ e + p then v * 2 ^ (e + p).toNat else v / 2 ^ (-(e + p)).toNat

/-- The margin, in units of 2^-p, within which the series above lie of the exact value. -/
def margin : Int := 2 ^ 24

/-- 2^x at precision p, as an interval and a power of two: x = k + f with f from 0 to 1. -/
def exp2Ival (p : Nat) (n : Bool) (m : Nat) (e : Int) : Ival × Int :=
  let x := fixAt p n m e
  let k := x / 2 ^ p
  let f := (x % 2 ^ p).toNat
  let y := (expAt p (f * (ln2At p).toNat / 2 ^ p) : Int)
  (⟨y - margin, y + margin⟩, k)

/-- log2 x at precision p, for a positive x. -/
def log2Ival (p : Nat) (m : Nat) (e : Int) : Ival :=
  let b := Nat.log2 m
  let y := if b ≤ p then m * 2 ^ (p - b) else m / 2 ^ (b - p)
  let l := lnAt p y * 2 ^ p / ln2At p + (e + b) * 2 ^ p
  ⟨l - margin, l + margin⟩

/-- sin x (or cos x when cosine) at precision p: exact reduction by a π of p + 192 bits (R201). -/
def trigIval (cosine : Bool) (p : Nat) (n : Bool) (m : Nat) (e : Int) : Ival :=
  let pp := p + 192
  let half := piAt pp / 2
  let x := fixAt pp n m e
  let q := x / half
  let r := ((x - q * half) / 2 ^ 192).toNat
  let j := ((q + (if cosine then 1 else 0)) % 4).toNat
  let rr := r * r / 2 ^ p
  let v := if j % 2 == 0 then trigSeries p rr (p / 4 + 8) r 1 else trigSeries p rr (p / 4 + 8) (2 ^ p) 0
  let v := if 2 ≤ j then -v else v
  ⟨v - margin, v + margin⟩

/-- tanh |x| at precision p: (E − 1)/(E + 1) with E = e^(2|x|), for |x| below 64. -/
def tanhIval (p m : Nat) (e : Int) : Ival :=
  let x := 2 * fixAt p false m e
  let l := ln2At p
  let k := (x / l).toNat
  let g := expAt p (x - k * l).toNat * 2 ^ k
  let one := 2 ^ p
  let v : Int := ((g - one) * one / (g + one) : Nat)
  ⟨v - margin, min (v + margin) (one - 1)⟩

/-- The rounded value of an interval scaled by 2^(k − p), when both ends agree in sign and code. -/
def roundIval (c : RCtx) (p : Nat) (v : Ival) (k : Int) : Option (Nat × W32) :=
  let one (x : Int) := roundTo tyF32 c (decide (x < 0)) x.natAbs 1 (k - p)
  if v.lo ≤ 0 && 0 ≤ v.hi then none
  else if one v.lo == one v.hi then some (one v.lo) else none

/-- The first precision that decides, or the free value of Config (log 12). -/
def tryIvals (c : RCtx) (f : Nat → Ival × Int) (fn : Nat) (x : W32) : List Nat → Nat × W32
  | [] => ((Config.specialValue fn x).toNat, flagNX)
  | p :: ps => match roundIval c p (f p).1 (f p).2 with
    | some r => r
    | none => tryIvals c f fn x ps

/-- The precisions tried. -/
def precisions : List Nat := [128, 224, 416]

/-- Whether a number is an integer, and which. -/
def asInteger (n : Bool) (m : Nat) (e : Int) : Option Int :=
  if 0 ≤ e then (if e ≤ 20 then some ((if n then -1 else 1) * (m * 2 ^ e.toNat : Nat)) else none)
  else if m % 2 ^ (-e).toNat == 0 then some ((if n then -1 else 1) * (m / 2 ^ (-e).toNat : Nat)) else none

/-- R202: 2^x. Arguments of 1024 and above round as 1024, those of −1024 and below as −1024. -/
def fexp2Val (c : RCtx) (x : W32) (v : Val) : Nat × W32 :=
  let t := tyF32
  match v with
  | .nan s => (t.nan, nvIf s)
  | .inf n => if n then (0, 0#32) else (t.inf, 0#32)
  | .num n m e =>
    if m == 0 then (roundTo t c false 1 1 0)
    else if 10 ≤ floorLog2 m 1 e then (if n then roundTo t c false 1 1 (-1024) else roundTo t c false 1 1 1024)
    else match asInteger n m e with
      | some k => roundTo t c false 1 1 k
      | none => tryIvals c (fun p => exp2Ival p n m e) 3 x precisions

/-- R202: log2 x; exact for a power of two (R201). That log2 of 1.0 is +0 is the model's choice (log 63). -/
def flog2Val (c : RCtx) (x : W32) (v : Val) : Nat × W32 :=
  let t := tyF32
  match v with
  | .nan s => (t.nan, nvIf s)
  | .inf n => if n then invalid t else (t.inf, 0#32)
  | .num n m e =>
    if m == 0 then (t.signAt + t.inf, 0#32)
    else if n then invalid t
    else if m == 2 ^ Nat.log2 m then
      let k := e + Nat.log2 m
      if k == 0 then (0, 0#32) else roundTo t c (decide (k < 0)) k.natAbs 1 0
    else tryIvals c (fun p => (log2Ival p m e, 0)) 4 x precisions

/-- R202: sin x and cos x in radians. -/
def ftrigVal (cosine : Bool) (c : RCtx) (x : W32) (v : Val) : Nat × W32 :=
  let t := tyF32
  match v with
  | .nan s => (t.nan, nvIf s)
  | .inf _ => invalid t
  | .num n m e =>
    if m == 0 then (if cosine then roundTo t c false 1 1 0 else (if n then t.signAt else 0, 0#32))
    else tryIvals c (fun p => (trigIval cosine p n m e, 0)) (if cosine then 6 else 5) x precisions

/-- R202: tanh x; magnitudes of 64 and above round as just below 1. -/
def ftanhVal (c : RCtx) (x : W32) (v : Val) : Nat × W32 :=
  let t := tyF32
  match v with
  | .nan s => (t.nan, nvIf s)
  | .inf n => ((if n then t.signAt else 0) + (roundTo t c false 1 1 0).1, 0#32)
  | .num n m e =>
    if m == 0 then (if n then t.signAt else 0, 0#32)
    else if 6 ≤ floorLog2 m 1 e then roundTo t c n (2 ^ 100 - 1) 1 (-100)
    else
      let r := tryIvals c (fun p => (tanhIval p m e, 0)) 7 (x &&& 0x7FFFFFFF#32) precisions
      ((if n then t.signAt else 0) + r.1 % t.signAt, r.2)

/-- R201, R202: special function fn of an F32 code, with FTZ given. -/
def special (fn : Nat) (ftz : Bool) (x : W32) : W32 × W32 :=
  let c := specialCtx ftz
  let code := if ftz then tyF32.flush x.toNat else x.toNat
  let v := tyF32.decode code
  let y := BitVec.ofNat 32 code
  let r := match fn with
    | 0 => frcpVal c v
    | 1 => frsqVal c v
    | 2 => fsqrtVal c v
    | 3 => fexp2Val c y v
    | 4 => flog2Val c y v
    | 5 => ftrigVal false c y v
    | 6 => ftrigVal true c y v
    | _ => ftanhVal c y v
  (BitVec.ofNat 32 r.1, r.2)

end Sys2Proof.Machine
end

