-- ==== Sys2Proof/Machine/Float.lean ====
section
/-! DEFINITION. The floating-point instructions of opcodes 0x40 to 0x4C (R193 to R203). -/

namespace Sys2Proof.Machine

/-- R194: the value of a 32-bit float register of a lane. -/
def fsrc (s : State) (r : BitVec 7) (l : Nat) : Val := sourceVal s tyF32 (src s r l).toNat

/-- A result as a word with its flags. -/
def asWord (r : Nat × W32) : W32 × W32 := (BitVec.ofNat 32 r.1, r.2)

/-- R195. -/
def execFadd (f : BitVec 3) (d a b : BitVec 7) (s : State) : Host.Outcome State Fault Refusal :=
  .next (laneFlagEffect s d fun l => asWord (addVal tyF32 (vectorCtx s f) (fsrc s a l) (fsrc s b l)))

/-- R60, R195 (log 61). -/
def execFsub (f : BitVec 3) (d a b : BitVec 7) (s : State) : Host.Outcome State Fault Refusal :=
  .next (laneFlagEffect s d fun l => asWord (subVal tyF32 (vectorCtx s f) (fsrc s a l) (fsrc s b l)))

/-- R195. -/
def execFmul (f : BitVec 3) (d a b : BitVec 7) (s : State) : Host.Outcome State Fault Refusal :=
  .next (laneFlagEffect s d fun l => asWord (mulVal tyF32 (vectorCtx s f) (fsrc s a l) (fsrc s b l)))

/-- R195: one rounding; the old destination is the addend. -/
def execFfma (f : BitVec 3) (d a b : BitVec 7) (s : State) : Host.Outcome State Fault Refusal :=
  .next (laneFlagEffect (s.sample 0 (2 * (activeLaneCount s))) d fun l => asWord (fmaVal tyF32 (vectorCtx s f) (fsrc s a l) (fsrc s b l) (fsrc s d l)))

/-- A value compared with another: less, when both are numbers or infinities; zeros are equal. -/
def Val.lt (x y : Val) : Bool :=
  match x, y with
  | .nan _, _ => false
  | _, .nan _ => false
  | .inf a, .inf b => a && !b
  | .inf a, .num _ _ _ => a
  | .num _ _ _, .inf b => !b
  | .num nx mx ex, .num ny my ey => decide ((exactSum nx mx ex (!ny) my ey).1 < 0)

/-- R196: an order key of an F32 code in which −0 lies below +0. -/
def orderKey (x : W32) : Int := if x.getLsbD 31 then -((x &&& 0x7FFFFFFF#32).toNat : Int) - 1 else (x.toNat : Int)

/-- R54, R194: an F32 source as flushed. -/
def flushed (s : State) (x : W32) : W32 := if modeFtz s then BitVec.ofNat 32 (tyF32.flush x.toNat) else x

/-- R196: the lesser, or the greater, preferring a number over a NaN. -/
def fminmax (s : State) (greater : Bool) (a b : W32) : W32 × W32 :=
  let x := flushed s a
  let y := flushed s b
  let vx := tyF32.decode x.toNat
  let vy := tyF32.decode y.toNat
  let r := if vx.isNan && vy.isNan then 0x7FC00000#32
    else if vx.isNan then y
    else if vy.isNan then x
    else if (if greater then decide (orderKey x < orderKey y) else decide (orderKey y < orderKey x)) then y else x
  (r, nvIf (vx.isSnan || vy.isSnan))

/-- R196. -/
def execFmin (d a b : BitVec 7) (s : State) : Host.Outcome State Fault Refusal :=
  .next (laneFlagEffect s d fun l => fminmax s false (src s a l) (src s b l))

/-- R196. -/
def execFmax (d a b : BitVec 7) (s : State) : Host.Outcome State Fault Refusal :=
  .next (laneFlagEffect s d fun l => fminmax s true (src s a l) (src s b l))

/-- R197: a sign operation on the flushed source; a NaN gives the canonical NaN. -/
def signOp (s : State) (f : W32 → W32) (a : W32) : W32 × W32 :=
  let v := tyF32.decode a.toNat
  if v.isNan then (0x7FC00000#32, nvIf v.isSnan) else (f (flushed s a), 0#32)

/-- R197. -/
def execFabs (d a : BitVec 7) (s : State) : Host.Outcome State Fault Refusal :=
  .next (laneFlagEffect s d fun l => signOp s (fun x => x &&& 0x7FFFFFFF#32) (src s a l))

/-- R197. -/
def execFneg (d a : BitVec 7) (s : State) : Host.Outcome State Fault Refusal :=
  .next (laneFlagEffect s d fun l => signOp s (fun x => x ^^^ 0x80000000#32) (src s a l))

/-- R198: the result of a comparison and its flag. -/
def fcmpTest (f : BitVec 3) (x y : Val) : Bool × W32 :=
  if x.isNan || y.isNan then
    (f == 1#3 || f == 6#3, nvIf (x.isSnan || y.isSnan || f == 2#3 || f == 3#3 || f == 4#3 || f == 5#3))
  else
    let lt := x.lt y
    let gt := y.lt x
    (match f.toNat with
     | 0 => !lt && !gt
     | 1 => lt || gt
     | 2 => lt
     | 3 => !gt
     | 4 => gt
     | 5 => !lt
     | _ => false, 0#32)

/-- R198. -/
def execFcmp (f d : BitVec 3) (a b : BitVec 7) (s : State) : Host.Outcome State Fault Refusal :=
  let r (l : Nat) := fcmpTest f (fsrc s a l) (fsrc s b l)
  .next (predEffect (s.orFlags (laneFlags s fun l => (r l).2)) d.toNat fun l => (r l).1)

/-- R199: the class of an encoding as stored. -/
def fclassWord (x : W32) : W32 :=
  let neg := x.getLsbD 31
  let ex := (x.extractLsb' 23 8).toNat
  let fr := (x.extractLsb' 0 23).toNat
  let k := if ex == 255 then (if fr == 0 then (if neg then 0 else 7) else if fr < 2 ^ 22 then 8 else 9)
    else if ex == 0 then (if fr == 0 then (if neg then 3 else 4) else if neg then 2 else 5)
    else if neg then 1 else 6
  BitVec.ofNat 32 (2 ^ k)

/-- R199. -/
def execFclass (d a : BitVec 7) (s : State) : Host.Outcome State Fault Refusal :=
  .next (laneEffect s d fun l => fclassWord (src s a l))

/-- R200: x × 2^n; beyond a thousand binades either way the rounded result no longer changes. -/
def fscaleWord (c : RCtx) (x : Val) (n : Int) : Nat × W32 :=
  match x with
  | .num neg m e => roundVal tyF32 c (.num neg m (e + clampInt n (-1000) 1000))
  | _ => roundVal tyF32 c x

/-- R200. -/
def execFscale (f : BitVec 3) (d a b : BitVec 7) (s : State) : Host.Outcome State Fault Refusal :=
  .next (laneFlagEffect s d fun l => asWord (fscaleWord (vectorCtx s f) (fsrc s a l) (src s b l).toInt))

/-- R148, R201: a special function: its flags at once, its lanes outstanding with their window. -/
def specialEffect (s : State) (fn : Nat) (d a : BitVec 7) (la : BitVec 4) : State :=
  let r (l : Nat) := special fn (modeFtz s) (src s a l)
  ((s.orFlags (laneFlags s fun l => (r l).2)).laneResult (activeMask s) d.toNat [laneWord fun l => (r l).1] la.toNat).advance 1

/-- R202. -/
def execFrcp (d a : BitVec 7) (l : BitVec 4) (s : State) : Host.Outcome State Fault Refusal := .next (specialEffect s 0 d a l)

/-- R202. -/
def execFrsq (d a : BitVec 7) (l : BitVec 4) (s : State) : Host.Outcome State Fault Refusal := .next (specialEffect s 1 d a l)

/-- R202. -/
def execFsqrt (d a : BitVec 7) (l : BitVec 4) (s : State) : Host.Outcome State Fault Refusal := .next (specialEffect s 2 d a l)

/-- R202. -/
def execFexp2 (d a : BitVec 7) (l : BitVec 4) (s : State) : Host.Outcome State Fault Refusal := .next (specialEffect s 3 d a l)

/-- R202. -/
def execFlog2 (d a : BitVec 7) (l : BitVec 4) (s : State) : Host.Outcome State Fault Refusal := .next (specialEffect s 4 d a l)

/-- R202. -/
def execFsin (d a : BitVec 7) (l : BitVec 4) (s : State) : Host.Outcome State Fault Refusal := .next (specialEffect s 5 d a l)

/-- R202. -/
def execFcos (d a : BitVec 7) (l : BitVec 4) (s : State) : Host.Outcome State Fault Refusal := .next (specialEffect s 6 d a l)

/-- R202. -/
def execFtanh (d a : BitVec 7) (l : BitVec 4) (s : State) : Host.Outcome State Fault Refusal := .next (specialEffect s 7 d a l)

/-- R203: a BF16 operation on both halfwords of a lane's sources. -/
def bfPair (s : State) (op : Val → Val → Val → Nat × W32) (x y z : W32) : W32 × W32 :=
  let h (w : W32) (k : Nat) : Val := sourceVal s tyBF16 (w.toNat / 2 ^ (16 * k) % 2 ^ 16)
  let r (k : Nat) := op (h x k) (h y k) (h z k)
  (BitVec.ofNat 32 ((r 0).1 + 2 ^ 16 * (r 1).1), (r 0).2 ||| (r 1).2)

/-- R203. -/
def execBfadd2 (f : BitVec 3) (d a b : BitVec 7) (s : State) : Host.Outcome State Fault Refusal :=
  .next (laneFlagEffect s d fun l => bfPair s (fun x y _ => addVal tyBF16 (vectorCtx s f) x y) (src s a l) (src s b l) 0#32)

/-- R203. -/
def execBfmul2 (f : BitVec 3) (d a b : BitVec 7) (s : State) : Host.Outcome State Fault Refusal :=
  .next (laneFlagEffect s d fun l => bfPair s (fun x y _ => mulVal tyBF16 (vectorCtx s f) x y) (src s a l) (src s b l) 0#32)

/-- R203. That each of its lanes counts as two FMA lanes in the sample of R293 is the model's choice (log 41). -/
def execBffma2 (f : BitVec 3) (d a b : BitVec 7) (s : State) : Host.Outcome State Fault Refusal :=
  .next (laneFlagEffect (s.sample 0 (4 * (activeLaneCount s))) d fun l => bfPair s (fun x y z => fmaVal tyBF16 (vectorCtx s f) x y z) (src s a l) (src s b l) (src s d l))

end Sys2Proof.Machine
end

