-- ==== Sys2Proof/Machine/Convert.lean ====
section
/-! DEFINITION. Conversions, block scales and the loss-scale update: opcodes 0x4D to 0x52 (R204 to R211, R74). -/

namespace Sys2Proof.Machine

/-- R204: whether an integer type code is signed. -/
def intSigned (t : BitVec 3) : Bool := !t.getLsbD 0

/-- R205: element k, of f bits, of the source group from register a of lane l. -/
def groupElem (s : State) (a : BitVec 7) (f k l : Nat) : Nat :=
  if f == 64 then (srcN s (a.toNat + 2 * k) l).toNat + 2 ^ 32 * (srcN s (a.toNat + 2 * k + 1) l).toNat
  else (srcN s (a.toNat + f * k / 32) l).toNat / 2 ^ (f * k % 32) % 2 ^ f

/-- R205: register j of a destination group whose n elements have f bits. -/
def groupWord (f n : Nat) (e : Nat → Nat) (j : Nat) : W32 :=
  if f == 64 then BitVec.ofNat 32 (e (j / 2) / 2 ^ (32 * (j % 2)))
  else BitVec.ofNat 32 ((List.range (32 / f)).foldl (fun acc k => let i := 32 / f * j + k; if i < n then acc + e i % 2 ^ f * 2 ^ (f * k) else acc) 0)

/-- R205: the single destination register with PK = 0: sign extension for I8 and I16, zeros for every other type. -/
def singleWord (signed : Bool) (f e j : Nat) : W32 :=
  if signed && f < 32 then wrap32 (valOf true f e) else BitVec.ofNat 32 (e % 2 ^ f / 2 ^ (32 * j))

/-- R205: a conversion of n elements per lane: code and flags of each from its source element. -/
def convertEffect (s : State) (d a : BitVec 7) (fs fd : Nat) (signed : Bool) (pk : BitVec 1) (conv : Nat → Nat → Nat → Nat × W32) : State :=
  let n := cvtCount fs fd pk
  let r (l k : Nat) := conv l k (groupElem s a fs k l)
  let word (j : Nat) : LaneWord := laneWord fun l =>
    if pk == 1#1 then groupWord fd n (fun k => (r l k).1) j else singleWord signed fd (r l 0).1 j
  let flags := laneFlags s fun l => (List.range n).foldl (fun acc k => acc ||| (r l k).2) 0#32
  ((s.orFlags flags).mapPod fun p => p.putLanes (activeMask s) d.toNat ((List.range (cvtRegs fd n pk)).map word)).advance 1

/-- R61, R206: whether a float-to-float conversion rounds stochastically. -/
def cvtStochastic (s : State) (f t q : BitVec 3) : Bool := cvtReadsD f t q && (f == 6#3 || modeRm s == 6)

/-- R207: the stochastic word of element k of lane l. -/
def cvtDraw (s : State) (d : BitVec 7) (l k : Nat) : W32 :=
  let sel := (srcPod s).srsel
  philox (keyOf (srcCtx s) (sel.extractLsb' 0 4).toNat) (sel.extractLsb' 4 12).toNat ((src s d l).toNat + k) (srcCtx s).srstep 1

/-- R206. -/
def execCvtFloatToFloat (f : BitVec 3) (d a : BitVec 7) (t q : BitVec 3) (k : BitVec 1) (s : State) : Host.Outcome State Fault Refusal :=
  let conv (mode : RMode) (draw : Nat → Nat → W32) (l e x : Nat) :=
    convertVal (fltTy t.toNat) ⟨mode, draw l e, modeSatf8 s, modeFtz s⟩ (sourceVal s (fltTy q.toNat) x)
  settle s (
    if cvtStochastic s f t q then do
      let tid := ((srcPod s).srsel.extractLsb' 4 12).toNat
      require (descValid (descOf (srcCtx s) tid)) { code := .tensorDescriptor, info0 := BitVec.ofNat 32 tid }
      let u := convertEffect s d a (fltWidth q) (fltWidth t) false k (conv .sr (cvtDraw s d))
      return if activeMask s == 0#4 then u else performSrStep u (podSite s false) tid (srcCtx s).srstep s.team.handle (gridSource s s.team.handle)
    else .ok (convertEffect s d a (fltWidth q) (fltWidth t) false k (conv (plainMode s f) fun _ _ => 0#32)))

/-- R208: the code of a float as an integer of n bits. -/
def fltToInt (mode : RMode) (signed : Bool) (n : Nat) (x : Val) : Nat × W32 :=
  match x with
  | .nan _ => (0, flagNV)
  | .inf neg => (wrapNat n (if neg then intLo signed n else intHi signed n), flagNV)
  | .num neg m e =>
    let (q, inexact) := if m == 0 then (0, false) else roundInt mode neg m 1 e
    let r := clampInt q (intLo signed n) (intHi signed n)
    (wrapNat n r, if r != q then flagNV else if inexact then flagNX else 0#32)

/-- R208. -/
def execCvtFloatToInteger (f : BitVec 3) (d a : BitVec 7) (t q : BitVec 3) (k : BitVec 1) (s : State) : Host.Outcome State Fault Refusal :=
  .next (convertEffect s d a (fltWidth q) (intWidth t) (intSigned t) k fun _ _ x =>
    fltToInt (plainMode s f) (intSigned t) (intWidth t) (sourceVal s (fltTy q.toNat) x))

/-- R209: an integer as a float. -/
def intToFlt (t : FTy) (c : RCtx) (x : Int) : Nat × W32 := if x == 0 then (0, 0#32) else roundTo t c (decide (x < 0)) x.natAbs 1 0

/-- R209. -/
def execCvtIntegerToFloat (f : BitVec 3) (d a : BitVec 7) (t q : BitVec 3) (k : BitVec 1) (s : State) : Host.Outcome State Fault Refusal :=
  .next (convertEffect s d a (intWidth q) (fltWidth t) false k fun _ _ x =>
    intToFlt (fltTy t.toNat) (vectorCtx s f) (valOf (intSigned q) (intWidth q) x))

/-- R209: an integer as another integer type, wrapping or saturating. -/
def intToInt (sat signed : Bool) (n : Nat) (x : Int) : Nat × W32 :=
  if sat then (wrapNat n (saturate signed n x).1, (saturate signed n x).2) else (wrapNat n x, 0#32)

/-- R209. -/
def execCvtIntegerToInteger (f : BitVec 3) (d a : BitVec 7) (t q : BitVec 3) (k : BitVec 1) (s : State) : Host.Outcome State Fault Refusal :=
  .next (convertEffect s d a (intWidth q) (intWidth t) (intSigned t) k fun _ _ x =>
    intToInt (f == 1#3) (intSigned t) (intWidth t) (valOf (intSigned q) (intWidth q) x))

/-- R210: the exponent of the largest binade of a type. -/
def emax (t : BitVec 3) : Int :=
  match t.toNat with
  | 3 => 8 | 4 => 15 | 5 => 4 | _ => 2

/-- R210: the block's magnitudes as flushed F32 codes, over the active lanes. -/
def blockCodes (s : State) (a : BitVec 7) : List Nat :=
  [0, 1, 2, 3].flatMap fun l => if (activeMask s).getLsbD l then
    (List.range 8).map fun i => ((flushed s (srcN s (a.toNat + i) l)) &&& 0x7FFFFFFF#32).toNat else []

/-- R210: the scale of a block of magnitude codes, and its flag. -/
def blockScale (t : BitVec 3) (codes : List Nat) : Nat × W32 :=
  let m := codes.foldl max 0
  if 0x7F800000 ≤ m then (0xFF, flagNV)
  else match tyF32.decode m with
    | .num _ n e => if n == 0 then (0, 0#32) else ((clampInt (floorLog2 n 1 e - emax t + 127) 0 254).toNat, 0#32)
    | _ => (0xFF, flagNV)

/-- R210. -/
def execSclx (d a : BitVec 7) (t : BitVec 3) (s : State) : Host.Outcome State Fault Refusal :=
  let r := blockScale t (blockCodes s a)
  .next (laneEffect (s.orFlags r.2) d fun _ => BitVec.ofNat 32 r.1)

/-- R74: LSCALE after one update, and the cause of the warning it posts, if any. A count that the field does not hold wraps there (log 32). -/
def lossScaleUpdate (scale ctl : W32) (ov : Bool) : W32 × Option Nat :=
  let lo := (ctl.extractLsb' 0 8).toInt
  let hi := (ctl.extractLsb' 8 8).toInt
  let interval := (ctl.extractLsb' 16 16).toNat
  let e := clampInt (scale.extractLsb' 0 8).toInt lo hi
  let held := scale.extractLsb' 28 2
  let sticky := scale.extractLsb' 30 2
  let make (sticky held : BitVec 2) (clean : Nat) (e : Int) : W32 :=
    sticky ++ (held ++ (0#4 ++ (BitVec.ofNat 16 clean ++ BitVec.ofInt 8 e)))
  if ov then
    if lo < e then (make sticky 0#2 0 (e - 1), none)
    else (make (if held != 1#2 then sticky ||| 1#2 else sticky) 1#2 0 e, if held != 1#2 then some 0 else none)
  else
    let clean := (scale.extractLsb' 8 16).toNat + 1
    if interval != 0 && interval ≤ clean then
      if e < hi then (make sticky 0#2 0 (e + 1), none)
      else (make (if held != 2#2 then sticky ||| 2#2 else sticky) 2#2 0 e, if held != 2#2 then some 1 else none)
    else (make sticky held clean e, none)

/-- R211: one update of LSCALE from FLAGS.OF or FLAGS.NV; a pod effect. -/
def execLsupd (d : BitVec 5) (s : State) : Host.Outcome State Fault Refusal :=
  let fl := (srcTeam s).flags
  let r := lossScaleUpdate (srcCtx s).lscale (srcCtx s).lsctl (fl.getLsbD 0 || fl.getLsbD 1)
  let t := { s with ctx := { s.ctx with lscale := r.1 } }
  let t := match r.2 with
    | some cause => postWarning t { podSite t false with resum := false } { code := .lossScaleBound, cause := cause, info0 := r.1 } .context
    | none => t
  .next (scalarEffect t d r.1)

end Sys2Proof.Machine
end

