-- ==== Sys2Proof/Machine/Tensor.lean ====
section
/-! DEFINITION. Tensor descriptors, region words and operand layouts (R79 to R89, R242, R243), and the pod-state instructions of the
engine chapter: SHAPE, SHAPEQ, TDSET, TDGET, TDINV (R244, R257). -/

namespace Sys2Proof.Machine

/-! ### Formats and descriptors -/

/-- R86, R87: the element width in bits of a format code; 0 for a reserved code. -/
def fmtBits (fmt : Nat) : Nat :=
  match fmt with
  | 0x01 | 0x02 | 0x18 | 0x19 | 0x1D => 8
  | 0x03 | 0x04 | 0x11 | 0x12 => 16
  | 0x05 | 0x06 | 0x10 => 32
  | 0x07 | 0x08 => 64
  | 0x1A | 0x1B => 6
  | 0x1C => 4
  | 0x20 => 2
  | 0x21 => 1
  | _ => 0

/-- R86: F32. -/
def fmtF32 : Nat := 0x10
/-- R86: I32. -/
def fmtI32 : Nat := 0x05
/-- R86: BF16. -/
def fmtBF16 : Nat := 0x12
/-- R86: the MX formats E4M3 to E2M1. -/
def fmtMx (fmt : Nat) : Bool := decide (0x18 ≤ fmt) && decide (fmt ≤ 0x1C)
/-- R245: the 8-bit integer formats. -/
def fmtInt8 (fmt : Nat) : Bool := fmt == 0x01 || fmt == 0x02
/-- R245: the 16-bit integer formats. -/
def fmtInt16 (fmt : Nat) : Bool := fmt == 0x03 || fmt == 0x04
/-- R55: the float type of a float format. -/
def fmtTy (fmt : Nat) : FTy :=
  match fmt with
  | 0x11 => tyF16 | 0x12 => tyBF16 | 0x18 => tyE4M3 | 0x19 => tyE5M2 | 0x1A => tyE3M2 | 0x1B => tyE2M3 | 0x1C => tyE2M1 | _ => tyF32

/-- R85: FMT. -/
def descFmt (d : List W32) : Nat := ((wordAt d 0).extractLsb' 0 8).toNat
/-- R85: BLK. -/
def descBlk (d : List W32) : Nat := ((wordAt d 0).extractLsb' 17 3).toNat
/-- R85: ND, the number of dimensions − 1. -/
def descNd (d : List W32) : Nat := ((wordAt d 0).extractLsb' 15 2).toNat
/-- R85: SRKI. -/
def descSrki (d : List W32) : Nat := ((wordAt d 0).extractLsb' 20 4).toNat
/-- R85: TKEN. -/
def descTken (d : List W32) : Bool := (wordAt d 0).getLsbD 28
/-- R85: TKR. -/
def descTkr (d : List W32) : Nat := ((wordAt d 0).extractLsb' 24 4).toNat
/-- R85: BASE. -/
def descBase (d : List W32) : Nat := (wordAt d 3 ++ wordAt d 2).toNat
/-- R85: SCALE. -/
def descScale (d : List W32) : Nat := (wordAt d 5 ++ wordAt d 4).toNat
/-- R85: N0 to N3. -/
def descSize (d : List W32) (k : Nat) : Nat := (wordAt d (6 + k)).toNat
/-- R85: the stride of dimension k, 1 to 3, of 40 bits. -/
def descStride (d : List W32) (k : Nat) : Nat := (wordAt d (9 + k)).toNat + 2 ^ 32 * ((wordAt d 13).extractLsb' (8 * (k - 1)) 8).toNat
/-- R88: the rows of a tensor. -/
def descRows (d : List W32) : Nat := descSize d 1 * descSize d 2 * descSize d 3

/-- R85: the reserved fields are 0. -/
def descClean (d : List W32) : Bool :=
  (wordAt d 0).extractLsb' 29 2 == 0#2 && (wordAt d 0).extractLsb' 8 7 == 0#7 && (wordAt d 13).extractLsb' 24 8 == 0#8

/-- R85, R86: the limits of a valid descriptor. -/
def descLimits (d : List W32) : Bool :=
  let bits := fmtBits (descFmt d)
  let blk := descBlk d
  let whole (x : Nat) : Bool := bits < 8 || x % (bits / 8) == 0
  bits != 0 &&
  (if fmtMx (descFmt d) then blk == 3 else if bits ≤ 2 then 1 ≤ blk && blk ≤ 5 else blk == 0) &&
  ([0, 1, 2, 3].all fun k => 1 ≤ descSize d k && (k ≤ descNd d || descSize d k == 1)) &&
  decide (descSize d 0 * descRows d ≤ 2 ^ 48) && decide (descBase d < 2 ^ 51) && decide (descScale d < 2 ^ 51) &&
  whole (descBase d) && ([1, 2, 3].all fun k => whole (descStride d k))

/-- R85, R257: whether TDSET accepts 16 words. -/
def descOk (d : List W32) : Bool := descClean d && (!descValid d || descLimits d)

/-- R87: the byte at which row ρ of a tensor starts. -/
def descRow (d : List W32) (rho : Nat) : Nat :=
  let n1 := descSize d 1
  let n2 := descSize d 2
  descBase d + rho % n1 * descStride d 1 + rho / n1 % n2 * descStride d 2 + rho / (n1 * n2) * descStride d 3

/-- R85, R86: the block size that BLK names. -/
def descBlock (d : List W32) : Nat := 4 * 2 ^ descBlk d

/-- R88: the address of the scale of the block that holds element x0 of row ρ: an E8M0 byte of an MX format, a BF16 of T2 and S1. -/
def descScaleAt (d : List W32) (rho x0 : Nat) : Nat :=
  descScale d + (rho * ((descSize d 0 + descBlock d - 1) / descBlock d) + x0 / descBlock d) * (if fmtMx (descFmt d) then 1 else 2)

/-! ### Region words -/

/-- R80: FLG. -/
def regionFlg (w : W32) : BitVec 4 := w.extractLsb' 28 4
/-- R80: TR. -/
def regionTr (w : W32) : Bool := w.getLsbD 27
/-- R80: TID. -/
def regionTid (w : W32) : Nat := (w.extractLsb' 15 12).toNat
/-- R80: OFS, in granules. -/
def regionOfs (w : W32) : Nat := (w.extractLsb' 0 15).toNat

/-- R240: the control nibble and the scope nibble of a command; only MDRAIN takes ADD and TKT. -/
def controlOk (drain : Bool) (flg scope : BitVec 4) : Bool :=
  (drain || flg.extractLsb' 0 2 == 0#2) && (scope == 0#4 || flg.extractLsb' 2 2 != 0#2) && scope.ult 12#4

/-- R79, R81: one region word of a command: the formats it accepts, the bytes it covers for a format, whether the command only
reads it, and whether it lies in the tile store. -/
structure RegionUse where
  word : W32
  accepts : Nat → Bool
  bytes : Nat → Nat
  readOnly : Bool
  tile : Bool

/-- R89, R348: TENSOR-DESCRIPTOR with the tensor id. -/
def tensorStop (tid : Nat) : Stop := { code := .tensorDescriptor, info0 := BitVec.ofNat 32 tid }

/-- R245, R348: REGION-BOUNDS with its cause. -/
def boundsStop (cause : Nat) : Stop := { code := .regionBounds, cause := cause }

/-- R81 steps 2 and 3, step by step over the region words in operand order. -/
def regionNames (c : Context) (uses : List RegionUse) : Option Stop :=
  match firstStop uses fun u =>
      let d := descOf c (regionTid u.word)
      if descValid d && u.accepts (descFmt d) then none else some (tensorStop (regionTid u.word)) with
  | some t => some t
  | none => firstStop uses fun u =>
      if u.readOnly && u.tile && regionTr u.word && regionOfs u.word % 16 != 0 then
        some { code := .misaligned, addr := BitVec.ofNat 64 (64 * regionOfs u.word), info1 := BitVec.ofNat 32 accRead }
      else none

/-- R81 step 4. -/
def regionFits (c : Context) (size : Nat) (uses : List RegionUse) : Option Stop :=
  firstStop uses fun u =>
    if u.tile && decide (size < 64 * regionOfs u.word + u.bytes (descFmt (descOf c (regionTid u.word)))) then some (boundsStop 0) else none

/-! ### Operand layouts -/

/-- R242: bytes rounded up to granules. -/
def granBytes (n : Nat) : Nat := (n + 63) / 64 * 64

/-- R242, R243: the bytes of the element part of r rows of k elements. -/
def elemBytes (r k fmt : Nat) (tr : Bool) : Nat :=
  let n := granBytes ((r * k * fmtBits fmt + 7) / 8)
  if tr then (n + 1023) / 1024 * 1024 else n

/-- R242: the bytes of an operand, its scale area included. -/
def operandBytes (r k fmt : Nat) (tr : Bool) : Nat :=
  elemBytes r k fmt tr + if fmtMx fmt then granBytes (r * k / 32) else 0

/-- R243: where the byte at a stream offset lies. -/
def streamAt (tr : Bool) (o : Nat) : Nat :=
  if tr then 1024 * (o / 1024) + 64 * (o % 64 / 4) + 4 * (o % 1024 / 64) + o % 4 else o

/-- w bits from bit pos of a stream in the byte store. -/
def streamBits (s : State) (base : Nat) (tr : Bool) (pos w : Nat) : Nat :=
  bytesNat ((List.range ((pos % 8 + w + 7) / 8)).map fun i => memRead s.mem (base + streamAt tr (pos / 8 + i))) / 2 ^ (pos % 8) % 2 ^ w

/-- R87, R242: the code of element x of row i. -/
def tileElem (s : State) (base : Nat) (tr : Bool) (k w i x : Nat) : Nat := streamBits s base tr ((i * k + x) * w) w

/-- R87: codes of w bits end to end, as bytes. -/
def packBits (w : Nat) (codes : List Nat) : List Byte :=
  natBytes ((w * codes.length + 7) / 8) (codes.foldr (fun c r => c % 2 ^ w + 2 ^ w * r) 0)

/-! ### Engine accesses to G -/

/-- n bytes at a virtual address as they stand, without a read check; 0 where a page does not translate for a write. -/
def peekBytes (s : State) (c : Context) (va n : Nat) : List Byte :=
  (List.range n).map fun i => match translate s c (va + i) accWrite 0 with
    | .ok pa => keyedByte s c.key pa
    | .error _ => 0#8

/-- The low n bits of a bit string of codes written from a byte on; the other bits of its last byte stay. -/
def mergeTail (s : State) (c : Context) (va bits : Nat) (bytes : List Byte) : List Byte :=
  if bits % 8 == 0 then bytes
  else
    let k := bytes.length - 1
    let old := ((peekBytes s c (va + k) 1).headD 0#8).toNat
    let new := (bytes.getD k 0#8).toNat
    bytes.take k ++ [BitVec.ofNat 8 (new % 2 ^ (bits % 8) + old / 2 ^ (bits % 8) * 2 ^ (bits % 8))]

/-! ### SHAPE and SHAPEQ -/

/-- R244: the code of the largest grant that does not exceed a request. -/
def shapeCode (n : Nat) : BitVec 2 := if n < 32 then 0#2 else if n < 64 then 1#2 else if n < 128 then 2#2 else 3#2

/-- R26, R244: the grant of three requests: valid in bit 6, then K, N and M. -/
def shapeGrant (m n k : Nat) : BitVec 7 :=
  if m < 16 || n < 16 || k < 16 then 0#7 else 1#1 ++ (shapeCode k ++ (shapeCode n ++ shapeCode m))

/-- R244: whether a grant is valid. -/
def shapeValid (g : BitVec 7) : Bool := g.getLsbD 6
/-- R244: M. -/
def shapeM (g : BitVec 7) : Nat := 16 * 2 ^ (g.extractLsb' 0 2).toNat
/-- R244: N. -/
def shapeN (g : BitVec 7) : Nat := 16 * 2 ^ (g.extractLsb' 2 2).toNat
/-- R244: K. -/
def shapeK (g : BitVec 7) : Nat := 16 * 2 ^ (g.extractLsb' 4 2).toNat

/-- R244: the word that SHAPEQ writes. -/
def shapeWord (g : BitVec 7) : W32 :=
  if shapeValid g then 0x80000000#32 ||| BitVec.ofNat 32 (shapeK g * 2 ^ 16 + shapeN g * 2 ^ 8 + shapeM g) else 0#32

/-- R244. -/
def execShape (x y z : BitVec 5) (s : State) : Host.Outcome State Fault Refusal :=
  .next ((s.mapPod fun p => { p with shape := shapeGrant (sreg s x).toNat (sreg s y).toNat (sreg s z).toNat }).advance 1)

/-- R244. -/
def execShapeq (x : BitVec 5) (s : State) : Host.Outcome State Fault Refusal :=
  .next (scalarEffect s x (shapeWord (srcPod s).shape))

/-! ### TDSET, TDGET, TDINV -/

/-- R257: the entry that sX names. That a number above 4,095 faults before the address is looked at, with its low 12 bits as TID, is the model's choice
(log 34). -/
def descIndex (s : State) (x : BitVec 5) : Except Halt Nat :=
  let w := sreg s x
  if w.extractLsb' 12 20 == 0#20 then .ok w.toNat else .error (.trap (tensorStop (w.toNat % 4096)))

/-- R257. -/
def execTdset (x y : BitVec 5) (s : State) : Host.Outcome State Fault Refusal :=
  settle s (do
    let t ← descIndex s x
    let b ← orTrap (podRecord s (pairOf s y.toNat).toNat 64 64)
    let d := bytesWords 16 b
    require (descOk d) (tensorStop t)
    return { s with ctx := { s.ctx with descs := putDesc s.ctx.descs t d } }.advance 1)

/-- R257. -/
def execTdget (x y : BitVec 5) (s : State) : Host.Outcome State Fault Refusal :=
  settle s (do
    let t ← descIndex s x
    let va := (pairOf s y.toNat).toNat
    require (va % 64 == 0) { code := .misaligned, addr := BitVec.ofNat 64 va, info1 := BitVec.ofNat 32 accWrite }
    let u ← orTrap (engineWrite s s.ctx va (wordsBytes ((List.range 16).map (wordAt (descOf (srcCtx s) t)))))
    return u.advance 1)

/-- R257: VALID := 0, and every other field kept. -/
def execTdinv (x : BitVec 5) (s : State) : Host.Outcome State Fault Refusal :=
  settle s (do
    let t ← descIndex s x
    let d := descOf (srcCtx s) t
    return { s with ctx := { s.ctx with descs := putDesc s.ctx.descs t (d.set 0 (wordAt d 0 &&& 0x7FFFFFFF#32)) } }.advance 1)

end Sys2Proof.Machine
end

