-- ==== Sys2Proof/Machine/Matrix.lean ====
section
/-! DEFINITION. Matrix commands (R238 to R241, R245 to R254, R258): their checks and queueing by a pod, the range-overlap
scoreboard (R122), and what they do when the engine runs them. A command captures its operands at issue and performs its reads and
writes at its completion. -/

namespace Sys2Proof.Machine

/-! ### Geometry -/

/-- Whether a command needs a grant (R244). -/
def MatCmd.sized (m : MatCmd) : Bool :=
  match m.instr with | .tzero _ _ _ | .trot _ _ _ => false | _ => true

/-- R245: the formats of A and B. -/
def factorFmt (f : Nat) : Bool := fmtMx f || f == fmtBF16 || fmtInt8 f || fmtInt16 f

/-- R249: the destination formats of MDRAIN. -/
def drainFmt (f : Nat) : Bool := f == fmtF32 || f == 0x11 || f == fmtBF16 || f == fmtI32 || fmtInt8 f || fmtMx f

/-- R253: the granule count of TZERO and TROT. -/
def zeroCount (sy : W32) : Nat := (sy.extractLsb' 0 15).toNat

/-- R250: bytes of a requantisation source: the accumulators, then N parameter pairs. -/
def requantBytes (m n : Nat) : Nat := granBytes (4 * m * n) + 8 * n

/-- R81, R242, R247: the region words of a command, in operand order. -/
def MatCmd.uses (m : MatCmd) : List RegionUse :=
  let mm := shapeM m.shape
  let nn := shapeN m.shape
  let kk := shapeK m.shape
  let source (bytes : Nat → Nat) (ok : Nat → Bool) : RegionUse := ⟨m.sy, ok, bytes, true, true⟩
  match m.instr with
  | .mma _ _ _ _ _ _ =>
    [⟨m.sx, fun f => f == fmtF32 || f == fmtI32, fun f => operandBytes mm nn f false, false, true⟩,
     source (fun f => operandBytes mm kk f (regionTr m.sy)) factorFmt,
     ⟨m.sz, factorFmt, fun f => operandBytes nn kk f (regionTr m.sz), true, true⟩]
  | .mmab _ _ _ _ _ _ =>
    [⟨m.sx, fun f => f == fmtF32 || f == fmtI32, fun f => 16 * operandBytes (mm / 4) (nn / 4) f false, false, true⟩,
     source (fun f => 16 * operandBytes (mm / 4) kk f (regionTr m.sy)) factorFmt,
     ⟨m.sz, factorFmt, fun f => 16 * operandBytes (nn / 4) kk f (regionTr m.sz), true, true⟩]
  | .mdrain _ _ _ _ _ g =>
    [⟨m.sx, drainFmt, fun f => operandBytes mm nn f false, false, g == 0#1⟩,
     source (fun f => if f == fmtI32 && fmtInt8 (descFmt m.dx) then max (operandBytes mm nn f (regionTr m.sy)) (requantBytes mm nn)
       else operandBytes mm nn f (regionTr m.sy)) (fun f => f == fmtF32 || f == fmtI32)]
  | .tscl _ _ _ _ _ =>
    [⟨m.sx, fmtMx, fun f => operandBytes mm nn f false, false, true⟩, source (fun f => operandBytes mm nn f (regionTr m.sy)) (· == fmtF32)]
  | _ => [⟨m.sx, fun _ => true, fun _ => 64 * zeroCount m.sy, false, true⟩]

/-- The captured descriptor of operand k of a command. -/
def MatCmd.desc (m : MatCmd) (k : Nat) : List W32 := if k == 0 then m.dx else if k == 1 then m.dy else m.dz

/-- The tile-store ranges of a command, as offsets in the allocation: start, bytes, and whether it writes (R122). -/
def MatCmd.ranges (m : MatCmd) : List (Nat × Nat × Bool) :=
  m.uses.zipIdx.filterMap fun x =>
    if x.1.tile then some (64 * regionOfs x.1.word, x.1.bytes (descFmt (m.desc x.2)), !x.1.readOnly) else none

/-- R247: operand p of the 16 of a batched region of rows r and k elements: its offset in the region. That a transposed one is padded to whole blocks of
1 KiB and transposed from its own start is the model's choice (log 36). -/
def blockAt (r k fmt : Nat) (tr : Bool) (p : Nat) : Nat := p * operandBytes r k fmt tr

/-! ### Checks at issue -/

/-- The first fault of a list of conditions that must hold. -/
def firstOf (l : List (Bool × Stop)) : Option Stop := firstStop l fun x => if x.1 then none else some x.2

/-- R245: whether the formats of C, A and B make a product. -/
def productOk (fc fa fb : Nat) : Bool :=
  if (fmtMx fa && fmtMx fb) || (fa == fmtBF16 && fb == fmtBF16) then fc == fmtF32
  else if (fmtInt8 fa && fmtInt8 fb) || (fmtInt16 fa && fmtInt16 fb) then fc == fmtI32 else false

/-- R245: whether A and B alone make a product. -/
def factorsOk (fa fb : Nat) : Bool := productOk fmtF32 fa fb || productOk fmtI32 fa fb

/-- Whether two extents share a byte. -/
def extentsMeet (a b : Nat × Nat × Bool) : Bool := rangesMeet a.1 a.2.1 b.1 b.2.1

/-- R245: the checks of MMA and MMAB after R81. That a pairing which no row of R245 allows follows the four steps of R81, and which word's
TID its record names, are the model's choices (log 34). -/
def MatCmd.productStop (m : MatCmd) (f : BitVec 1) (g : BitVec 2) : Option Stop :=
  let fa := descFmt m.dy
  let fb := descFmt m.dz
  let rs := m.ranges
  let c := rs.getD 0 (0, 0, true)
  firstOf [(factorsOk fa fb, tensorStop (regionTid m.sz)), (productOk (descFmt m.dx) fa fb, tensorStop (regionTid m.sx)),
    (descFmt m.dx == fmtI32 || (f == 0#1 && g == 0#2), Stop.plain .reservedField),
    (!(fmtMx fa && shapeK m.shape == 16), Stop.plain .shape),
    (!extentsMeet c (rs.getD 1 (0, 0, true)) && !extentsMeet c (rs.getD 2 (0, 0, true)), boundsStop 1)]

/-- R249: the modes of MDRAIN. -/
inductive DrainMode where
  | copy | narrow | mx | icopy | requant
  deriving DecidableEq, Repr

/-- R249: the mode that the source and destination formats select. -/
def drainMode (src dst : Nat) : Option DrainMode :=
  if src == fmtF32 then
    if dst == fmtF32 then some .copy else if dst == 0x11 || dst == fmtBF16 then some .narrow else if fmtMx dst then some .mx else none
  else if src == fmtI32 then (if dst == fmtI32 then some .icopy else if fmtInt8 dst then some .requant else none)
  else none

/-- R249: the mode of a queued drain or TSCL. -/
def MatCmd.drain (m : MatCmd) : DrainMode := (drainMode (descFmt m.dy) (descFmt m.dx)).getD .copy

/-- R249: the values of F that a mode allows. -/
def drainFOk (d : DrainMode) (f : BitVec 3) : Bool :=
  match d with
  | .narrow | .mx => f.ult 7#3
  | .icopy => f == 0#3
  | _ => f.ult 6#3

/-- R248: the row of the tile's first row, and the column of its first column, in the destination tensor. -/
def originRow (z : W32) : Nat := 16 * (z.extractLsb' 16 16).toNat
/-- R248. -/
def originCol (z : W32) : Nat := 16 * (z.extractLsb' 0 16).toNat

/-- R248: the elements of a tile row that lie inside the tensor; none for a row outside it. -/
def MatCmd.inside (m : MatCmd) (i : Nat) : Nat :=
  if originRow m.sz + i < descRows m.dx then min (shapeN m.shape) (descSize m.dx 0 - originCol m.sz) else 0

/-- R87: the address of the first element of a tile row in G. -/
def MatCmd.rowAt (m : MatCmd) (i : Nat) : Nat := descRow m.dx (originRow m.sz + i) + originCol m.sz * fmtBits (descFmt m.dx) / 8

/-- A number put into a rising list, once. -/
def insertRising (l : List Nat) (x : Nat) : List Nat :=
  match l with
  | [] => [x]
  | y :: r => if x < y then x :: y :: r else if x == y then y :: r else y :: insertRising r x

/-- R252: the granules of G, in rising order, that hold an element of the tile inside the tensor. -/
def MatCmd.granules (m : MatCmd) : List Nat :=
  (List.range (shapeM m.shape)).foldl (fun l i =>
    (List.range (m.inside i)).foldl (fun l j => insertRising l ((m.rowAt i + 4 * j) / 64)) l) []

/-- R252: every granule of a ticketed drain lies in its declared region. -/
def MatCmd.ticketStop (m : MatCmd) (c : Context) : Option Stop :=
  match c.regions.getD (descTkr m.dx) none with
  | none => some (Machine.ticketStop .ticketRange (BitVec.ofNat 64 (64 * m.granules.headD 0)) (descTkr m.dx) 0#16 (m.sz1.extractLsb' 0 16))
  | some r => firstStop m.granules fun g =>
      if r.base ≤ 64 * g && 64 * g < r.base + 64 * r.ngran then none
      else some (Machine.ticketStop .ticketRange (BitVec.ofNat 64 (64 * g)) (descTkr m.dx) 0#16 (m.sz1.extractLsb' 0 16))

/-- R248, R249, R258: MISALIGNED of an odd column under MX: the write of the tile's first row, at its address in G or its region's offset in T
(log 34). -/
def MatCmd.columnStop (m : MatCmd) : Stop :=
  let va : Nat := match m.instr with | .mdrain _ _ _ _ _ g => (if g == 1#1 then m.rowAt 0 else 64 * regionOfs m.sx) | _ => 64 * regionOfs m.sx
  { code := .misaligned, addr := BitVec.ofNat 64 va, info1 := BitVec.ofNat 32 accWrite }

/-- R248, R249, R252: the checks of MDRAIN after R81. That a pairing of formats is checked after the four steps, with SX's TID in its
record, the order of the rest, and that a nonzero OFS under .g is a RESERVED-FIELD, are the model's choices (log 34). -/
def MatCmd.drainStop (m : MatCmd) (f : BitVec 3) (g : BitVec 1) : Option Stop :=
  let add := m.sx.getLsbD 29
  let tkt := m.sx.getLsbD 28
  let resv := Stop.plain .reservedField
  match drainMode (descFmt m.dy) (descFmt m.dx) with
  | none => some (tensorStop (regionTid m.sx))
  | some d =>
    firstOf [(g == 0#1 || regionOfs m.sx == 0, resv), (drainFOk d f, resv), (!add || d == .copy || d == .icopy, resv),
        (!tkt || (d == .copy && add && g == 1#1), resv), (if tkt then m.sz1.extractLsb' 16 16 == 0#16 else m.sz1 == 0#32, resv),
        (d != .mx || 32 ≤ shapeN m.shape, Stop.plain .shape), (d != .mx || !m.sz.getLsbD 0, m.columnStop), (!tkt || descTken m.dx, tensorStop (regionTid m.sx))]

/-- R253, R254: the reserved bits of SY of TZERO and TROT, and a count that is not 0. -/
def zeroOk (m : MatCmd) : Bool := m.sy.extractLsb' 15 13 == 0#13 && zeroCount m.sy != 0

/-- R245 to R258: the first step of a command's checks, and those that follow the four of R81. -/
def MatCmd.ownChecks (m : MatCmd) : Bool × Option Stop :=
  let plain : Bool := controlOk false (regionFlg m.sx) (regionFlg m.sy)
  match m.instr with
  | .mma f _ _ _ _ g | .mmab f _ _ _ _ g => (plain && regionFlg m.sz == 0#4, m.productStop f g)
  | .mdrain f _ _ _ _ g => (controlOk true (regionFlg m.sx) (regionFlg m.sy), m.drainStop f g)
  | .tzero _ _ _ => (plain, firstOf [(zeroOk m, Stop.plain .reservedField)])
  | .trot _ _ _ => (plain, firstOf [(zeroOk m && !regionTr m.sx, Stop.plain .reservedField)])
  | .tscl f _ _ _ _ =>
    (plain, firstOf [(f.ult 7#3, Stop.plain .reservedField), (decide (32 ≤ shapeN m.shape), Stop.plain .shape), (!m.sz.getLsbD 0, m.columnStop)])
  | _ => (false, none)

/-- R253, R254: whether the count of a TZERO or a TROT is one that a tile store can hold. -/
def MatCmd.counted (m : MatCmd) : Bool :=
  match m.instr with
  | .tzero _ _ _ | .trot _ _ _ => decide (zeroCount m.sy ≤ 24576)
  | _ => true

/-- R81, R239, R253: the first check that a command fails, with the descriptors of a context and an allocation of a size. That a count above 24,576
is refused before the region is held against the allocation, which no such region fits, is the model's reading (log 34). -/
def MatCmd.check (m : MatCmd) (c : Context) (size : Nat) : Option Stop :=
  if !m.ownChecks.1 then some (Stop.plain .reservedField)
  else match regionNames c m.uses with
    | some t => some t
    | none =>
      if m.sized && !shapeValid m.shape then some (Stop.plain .shape)
      else if !m.counted then some (Stop.plain .reservedField)
      else match regionFits c size m.uses with
        | some t => some t
        | none => m.ownChecks.2

/-- A check passed, or its fault. -/
def passed (t : Option Stop) : Except Halt Unit := match t with | some e => .error (.trap e) | none => .ok ()

/-! ### Queueing -/

/-- R238, R241: a command with what it captures at issue. -/
def newMatrix (s : State) (i : Instr) (x y z : BitVec 5) : MatCmd :=
  let c := srcCtx s
  let t := srcTeam s
  let d (w : W32) : List W32 := descOf c (regionTid w)
  { id := s.ids, core := t.core, team := t.id, pod := s.pod.index, instr := i, sx := sreg s x, sy := sreg s y, sz := sreg s z,
    sz1 := scalarOf s (z.toNat + 1), shape := (srcPod s).shape, step := c.srstep, mode := t.mode,
    key := keyOf c (descSrki (d (sreg s x))), dx := d (sreg s x), dy := d (sreg s y), dz := d (sreg s z),
    started := false, next := 0, stopped := none, legNo := s.team.trots, stall := none }

/-- R148, R238: SX held by a command, with its lookahead window, and the pod going on. -/
def holdScalar (s : State) (x : BitVec 5) (l : BitVec 4) : State :=
  let w : List Window := if l == 0#4 then [] else [⟨true, x.toNat, 1, l.toNat + 1⟩]
  let f (p : Pod) : Pod := { p with held := p.held ++ [⟨x.toNat, s.ids⟩], windows := p.windows ++ w }
  (State.mapPod { s with ids := s.ids + 1 } f).advance 1

/-- The owner of a command's team. -/
def matOwner (s : State) (m : MatCmd) : Nat := match s.teamOf m.team with | some t => t.owner | none => 0

/-- R238, R241: the commands that take a core's 16 entries: those of owners that are not resident are in their images. That a command which a
fault stopped after it was accepted keeps its entry is the model's choice (log 34). -/
def coreQueue (s : State) (core : Nat) : List MatCmd := s.mats.filter fun m => m.core == core && isResident s (matOwner s m)

/-- R238: the command queued, or the pod stopped while the queue of 16 is full. -/
def queueMatrix (s : State) (m : MatCmd) (x : BitVec 5) (l : BitVec 4) : Except Halt State :=
  if (coreQueue s m.core).length < 16 then .ok (holdScalar { s with mats := s.mats ++ [m] } x l) else .error (.wait .engine)

/-- R245, R246. -/
def execMma (f : BitVec 1) (x y z : BitVec 5) (l : BitVec 4) (g : BitVec 2) (s : State) : Host.Outcome State Fault Refusal :=
  let m := newMatrix s (.mma f x y z l g) x y z
  settle s (do
    passed (m.check (srcCtx s) s.team.tileSize)
    queueMatrix s m x l)

/-- R247. -/
def execMmab (f : BitVec 1) (x y z : BitVec 5) (l : BitVec 4) (g : BitVec 2) (s : State) : Host.Outcome State Fault Refusal :=
  let m := newMatrix s (.mmab f x y z l g) x y z
  settle s (do
    passed (m.check (srcCtx s) s.team.tileSize)
    queueMatrix s m x l)

/-- R248 to R252. That the ticket of a second word of a pair is checked against the regions before the pair is the model's choice (log 21). -/
def execMdrain (f : BitVec 3) (x y z : BitVec 5) (l : BitVec 4) (g : BitVec 1) (s : State) : Host.Outcome State Fault Refusal :=
  let m := newMatrix s (.mdrain f x y z l g) x y z
  settle s (do
    passed (m.check (srcCtx s) s.team.tileSize)
    passed (if m.ticketed then m.ticketStop (srcCtx s) else none)
    queueMatrix s m x l)

/-- R253. -/
def execTzero (x y : BitVec 5) (l : BitVec 4) (s : State) : Host.Outcome State Fault Refusal :=
  let m := newMatrix s (.tzero x y l) x y 0#5
  settle s (do
    passed (m.check (srcCtx s) s.team.tileSize)
    queueMatrix s m x l)

/-- R347: the site of a matrix command. -/
def matSite (s : State) (m : MatCmd) : Site :=
  let t := (s.teamOf m.team).getD Team.reset
  let g := (s.gridOf t.handle).getD Grid.reset
  { owner := t.owner, agent := .matrix m.id, kind := 1, resum := g.susp, node := g.node, handle := t.handle, team := t.number,
    unit := m.core, sub := m.pod }

/-- The scalars that a command held are free. -/
def releaseHeld (s : State) (team pod cmd : Nat) : State :=
  let f (p : Pod) : Pod := { p with held := p.held.filter (·.cmd != cmd) }
  let s := s.mapTeamPod team pod f
  match s.cur with
  | .pod t i => if t == team && i == pod then s.mapPod f else s
  | _ => s

/-- A matrix command changed in the list. -/
def State.mapMat (s : State) (id : Nat) (f : MatCmd → MatCmd) : State := { s with mats := replaceIf s.mats (·.id == id) f }

/-- R239, R351 to R353: a fault of a command after acceptance: it is discarded, or stands at its first unaccepted granule; with SUSP
it can be accepted again, without it the grid terminates. During termination no record is written. -/
def stopMatrix (s : State) (m : MatCmd) (t : Stop) : State :=
  let x := matSite s m
  let running := match s.gridOf x.handle with | some g => (match g.status with | .running => true | _ => false) | none => false
  if !running then { s with mats := s.mats.filter (·.id != m.id) }
  else
    let seq := (s.ctxOf x.owner).seq
    let s := postRecord (s.mapMat m.id fun c => { c with stopped := some seq, started := false }) x t
    if x.resum then s else terminateGrids s [x.handle] t.code.number (BitVec.ofNat 32 t.code.number)

/-- R93: a TROT leg whose own region failed at issue also stops the legs of its partners that wait for it. -/
def stopPartners (s : State) (m : MatCmd) : State :=
  match s.teamOf m.team with
  | none => s
  | some t => (s.mats.filter fun c => c.team != m.team && c.legNo == m.legNo && c.stopped.isNone && (match c.instr with
      | .trot _ _ _ => (match s.teamOf c.team with | some u => u.handle == t.handle && u.number / 4 == t.number / 4 | none => false)
      | _ => false)).foldl (fun s c => stopMatrix s c (boundsStop 2)) s

/-- R93: whether the region of a partner's leg of the same rotation has failed. -/
def partnerBad (s : State) (m : MatCmd) : Bool :=
  s.teams.any fun u => u.id != m.team && u.handle == s.team.handle && u.number / 4 == s.team.number / 4 && u.trotBad == some m.legNo

/-- R81, R254: the checks of a TROT. -/
def trotCheck (s : State) (m : MatCmd) : Option Stop :=
  match m.check (srcCtx s) s.team.tileSize with
  | some e => some e
  | none => if s.grid.cluster then none else some (Stop.plain .permission)

/-- R93, R254: whether a leg fails its own checks. -/
def trotFails (s : State) (m : MatCmd) : Bool := (trotCheck s m).isSome

/-- R93, R254: what a leg that fails its own checks leaves: its number, for the partners that issue it later, and the partners' faults. -/
def trotFailed (s : State) (m : MatCmd) : State :=
  { stopPartners (s.mapTeam m.team fun t => { t with trotBad := some m.legNo }) m with note := s.note }

/-- R93, R254: the leg queued under its number; a failing region is the team's own fault and its partners', of those that have issued their
leg and of those that issue it later (log 37). -/
def execTrot (x y : BitVec 5) (l : BitVec 4) (s : State) : Host.Outcome State Fault Refusal :=
  let m := newMatrix s (.trot x y l) x y 0#5
  match trotCheck s m with
  | some e => .next (trotFailed (takeTrap s e) m)
  | none =>
    if partnerBad s m then .next (takeTrap s (boundsStop 2))
    else settle s (do
      let t ← queueMatrix s m x l
      return { t with team := { t.team with trots := t.team.trots + 1, trotBad := none } })

/-- R258. -/
def execTscl (f : BitVec 3) (x y z : BitVec 5) (l : BitVec 4) (s : State) : Host.Outcome State Fault Refusal :=
  let m := newMatrix s (.tscl f x y z l) x y z
  settle s (do
    passed (m.check (srcCtx s) s.team.tileSize)
    queueMatrix s m x l)

/-! ### The scoreboard -/

/-- Byte ranges in the byte store: start, bytes, written. -/
def cmdRanges (s : State) (m : MatCmd) : List (Nat × Nat × Bool) :=
  match s.teamOf m.team with
  | none => []
  | some t => m.ranges.map fun r => (tileAt t.core (t.tileBase + r.1), r.2.1, r.2.2)

/-- R82: the scope, direction and place of a copy (R255, R256): bytes of the tile store and, for D, of the die scratch. -/
def copyBytes (c : CopyCmd) : Nat :=
  match c.instr with
  | .tcpyw _ _ _ _ => (((c.sz.extractLsb' 12 12).toNat + 1) * (16 * ((c.sz.extractLsb' 0 12).toNat + 1)) * fmtBits (descFmt c.desc)) / 8
  | _ => 64 * (c.sz.extractLsb' 0 24).toNat

/-- R255: whether a copy writes out of the tile store. -/
def copyOut (c : CopyCmd) : Bool := c.sz.getLsbD 27

/-- R255: whether a copy moves D. -/
def copyDie (c : CopyCmd) : Bool := match c.instr with | .tcpyw _ _ _ _ => false | _ => c.sz.getLsbD 26

/-- R79, R243: the bytes of the tile store that a copy names; a transposed source is read in whole blocks of 1 KiB. -/
def copyTileBytes (c : CopyCmd) : Nat :=
  if copyOut c && regionTr c.sx then (copyBytes c + 1023) / 1024 * 1024 else copyBytes c

/-- Byte ranges of a copy command in the byte store. -/
def copyRanges (t : Team) (c : CopyCmd) : List (Nat × Nat × Bool) :=
  (tileAt t.core (t.tileBase + 64 * regionOfs c.sx), copyTileBytes c, !copyOut c) ::
  (if copyDie c then [(scratchAt (t.core / 144) c.sy.toNat, copyBytes c, copyOut c)] else [])

/-- R122: overlapping ranges, one of them written. -/
def clash (a b : List (Nat × Nat × Bool)) : Bool := a.any fun x => b.any fun y => extentsMeet x y && (x.2.2 || y.2.2)

/-- R122: an incomplete command of a core, of a resident owner and accepted before a number, that clashes with ranges. -/
def blocked (s : State) (core id : Nat) (r : List (Nat × Nat × Bool)) : Bool :=
  ((coreQueue s core).any fun m => m.id < id && clash (cmdRanges s m) r) ||
  (s.teams.any fun t => t.core == core && isResident s t.owner && t.chans.toList.any fun c =>
    (c.current.toList ++ c.queue).any fun q => q.id < id && clash (copyRanges t q) r)

/-! ### Running -/

/-- R122, R238: an accepted command starts, in acceptance order, once no earlier command that it clashes with is incomplete. -/
def execMatrixCommandStart (cmd : Nat) (s : State) : Host.Outcome State Fault Refusal :=
  match s.mats.find? (·.id == cmd) with
  | none => .next s
  | some m =>
    let first := (coreQueue s m.core).all fun c => c.started || c.stopped.isSome || m.id ≤ c.id
    .next (if !m.started && m.stopped.isNone && isResident s (matOwner s m) && first && !blocked s m.core m.id (cmdRanges s m) then
        s.mapMat cmd fun c => { c with started := true }
      else s)

/-- R106, R351: the first poisoned granule in the ranges that a command reads, as an offset in the tile store. -/
def tilePoison (s : State) (base : Nat) (rs : List (Nat × Nat)) : Option Stop :=
  firstStop rs fun r => (poisonIn s.poison (base + r.1) r.2).map fun g =>
    { code := .uncorrectable, addr := BitVec.ofNat 64 (g - base), info0 := 1#32 }

/-- R70: a K-block's term: NaN (with whether it is invalid), an infinity, or an exact number n × 2^e. -/
inductive Term where
  | nan (invalid : Bool)
  | inf (neg : Bool)
  | num (n : Int) (e : Int)
  deriving DecidableEq, Repr

/-- R70, R71: the exact products of a block summed. -/
def sumProducts (ps : List (Val × Val)) : Term :=
  ps.foldl (fun t p =>
    match t, mulExact p.1 p.2 with
    | .nan b, _ => .nan b
    | _, none => .nan true
    | .inf a, some (.inf b) => if a == b then .inf a else .nan true
    | .inf a, some _ => .inf a
    | .num _ _, some (.inf b) => .inf b
    | .num n e, some (.num neg k q) => let r := exactSum (decide (n < 0)) n.natAbs e neg k q; .num r.1 r.2
    | t, _ => t) (.num 0 0)

/-- R70, R71: the term of a K-block with its scales. -/
def blockTerm (mx : Bool) (xa xb : Nat) (ps : List (Val × Val)) : Term :=
  if (mx && (xa == 0xFF || xb == 0xFF)) || ps.any fun p => p.1.isNan || p.2.isNan then .nan false
  else match sumProducts ps with
    | .num n e => .num n (if mx then e + (xa + xb : Nat) - 254 else e)
    | t => t

/-- R70, R71: an accumulator after a K-block, and the flags. That a NaN accumulator becomes the canonical NaN also where the term is exactly 0, which R70
leaves out and R71 does not, is the model's choice (log 63). -/
def accumulate (acc : Nat) (t : Term) : Nat × W32 :=
  match tyF32.decode acc, t with
  | .nan _, t => (tyF32.nan, nvIf (t == .nan true))
  | _, .nan b => (tyF32.nan, nvIf b)
  | .inf a, .inf b => if a == b then (acc, 0#32) else (tyF32.nan, flagNV)
  | .inf _, .num _ _ => (acc, 0#32)
  | .num _ _ _, .inf b => ((if b then tyF32.signAt else 0) + tyF32.inf, 0#32)
  | .num neg k q, .num n e =>
    if n == 0 then (acc, 0#32)
    else let r := roundSum tyF32 plainRne neg k q (decide (n < 0)) n.natAbs e; (r.1, r.2 &&& flagOF)

/-- R72: an integer accumulator after a K-block. -/
def accumulateInt (sat : Bool) (acc sum : Int) : Int × W32 :=
  if sat then saturate true 32 (acc + sum) else ((wrap32 (acc + sum)).toInt, 0#32)

/-- An operand of a product: its place, transpose, elements per row and format. -/
structure Factor where
  base : Nat
  tr : Bool
  rows : Nat
  k : Nat
  fmt : Nat

/-- The code of element x of row i of an operand. -/
def Factor.code (a : Factor) (s : State) (i x : Nat) : Nat := tileElem s a.base a.tr a.k (fmtBits a.fmt) i x

/-- R242: the scale code of block b of row i. -/
def Factor.scale (a : Factor) (s : State) (i b : Nat) : Nat :=
  (memRead s.mem (a.base + elemBytes a.rows a.k a.fmt a.tr + i * (a.k / 32) + b)).toNat

/-- R246: element (i, j) of C after a product: its code and the flags. -/
def productElem (s : State) (a b : Factor) (acc : Nat) (sat na nb : Bool) (i j : Nat) : Nat × W32 :=
  let kbs := max 1 (a.k / 32)
  let per := min 32 a.k
  if fmtInt8 a.fmt || fmtInt16 a.fmt then
    let w := fmtBits a.fmt
    let r := (List.range kbs).foldl (fun (r : Int × W32) kb =>
      let sum := (List.range per).foldl (fun (t : Int) k =>
        t + valOf (!na) w (a.code s i (32 * kb + k)) * valOf (!nb) w (b.code s j (32 * kb + k))) 0
      let n := accumulateInt sat r.1 sum
      (n.1, r.2 ||| n.2)) (valOf true 32 acc, 0#32)
    ((wrap32 r.1).toNat, r.2)
  else
    (List.range kbs).foldl (fun (r : Nat × W32) kb =>
      let ps := (List.range per).map fun k => ((fmtTy a.fmt).decode (a.code s i (32 * kb + k)), (fmtTy b.fmt).decode (b.code s j (32 * kb + k)))
      let mx := fmtMx a.fmt
      let n := accumulate r.1 (blockTerm mx (if mx then a.scale s i kb else 0) (if mx then b.scale s j kb else 0) ps)
      (n.1, r.2 ||| n.2)) (acc, 0#32)

/-- R246: the words of C after a product, row by row, and the flags. -/
def productTile (s : State) (a b : Factor) (cbase : Nat) (sat na nb : Bool) : List Nat × W32 :=
  let r := (List.range a.rows).flatMap fun i => (List.range b.rows).map fun j =>
    productElem s a b (tileElem s cbase false b.rows 32 i j) sat na nb i j
  (r.map (·.1), r.foldl (fun f x => f ||| x.2) 0#32)

/-- R64: FLAGS bits set in a team by one of its commands. -/
def teamFlags (s : State) (team : Nat) (f : W32) : State := s.mapTeam team fun t => { t with flags := t.flags ||| f }

/-- R246, R247: the products of a command: their operand places. -/
def MatCmd.products (m : MatCmd) (base : Nat) : List (Factor × Factor × Nat) :=
  let fa := descFmt m.dy
  let fb := descFmt m.dz
  let at_ (w : W32) : Nat := base + 64 * regionOfs w
  let mk (div p : Nat) : Factor × Factor × Nat :=
    let r := shapeM m.shape / div
    let q := shapeN m.shape / div
    let k := shapeK m.shape
    (⟨at_ m.sy + blockAt r k fa (regionTr m.sy) p, regionTr m.sy, r, k, fa⟩, ⟨at_ m.sz + blockAt q k fb (regionTr m.sz) p, regionTr m.sz, q, k, fb⟩,
     at_ m.sx + blockAt r q fmtF32 false p)
  match m.instr with
  | .mmab _ _ _ _ _ _ => (List.range 16).map (mk 4)
  | _ => [mk 1 0]

/-- R246, R247, R370: a product command's effect. -/
def runProduct (s : State) (t : Team) (m : MatCmd) (f : BitVec 1) (g : BitVec 2) : State :=
  let base := tileAt t.core t.tileBase
  let key := (s.ctxOf t.owner).key
  let ps := m.products base
  let outs := ps.map fun p => (p.2.2, productTile s p.1 p.2.1 p.2.2 (f == 1#1) (g.getLsbD 1) (g.getLsbD 0))
  let u := outs.foldl (fun u o => storeAt u key o.1 (packBits 32 o.2.1)) s
  let u := teamFlags u t.id (outs.foldl (fun fl o => fl ||| o.2.2) 0#32)
  let macs := ps.foldl (fun n p => n + p.1.rows * p.2.1.rows * p.1.k) 0
  countUnit (u.mapGrid t.handle fun g => g.sample t.number 0 (2 * macs)) t.owner 0 t.core 0x05 macs 1024

/-! ### Draining -/

/-- R249: the rounding of a drain or TSCL: F, or MODE.RM when F = 0; SR only where the mode narrows. -/
def MatCmd.rounding (m : MatCmd) (f : BitVec 3) : RMode :=
  let rm := if f == 0#3 then (m.mode.extractLsb' 0 3).toNat else f.toNat
  if rm == 6 && !(m.drain == .narrow || m.drain == .mx) then .rne else rmodeOf rm

/-- R66, R251: the rounding context of element (i, j). -/
def MatCmd.elemCtx (m : MatCmd) (f : BitVec 3) (i j : Nat) : RCtx :=
  let mode := m.rounding f
  let x0 := if mode == .sr then
      philox m.key (regionTid m.sx) ((originRow m.sz + i) * descSize m.dx 0 + originCol m.sz + j) m.step 0
    else 0#32
  ⟨mode, x0, m.mode.getLsbD 7, false⟩

/-- R250: the clamped, requantised element and its flag. -/
def requantElem (signed : Bool) (mode : RMode) (acc mu zp : Int) (sigma : Nat) : Nat × W32 :=
  let e := acc * mu
  let q := (roundInt mode (decide (e < 0)) e.natAbs (2 ^ sigma) 0).1
  let r := clampInt (q + zp) (intLo signed 8) (intHi signed 8)
  (wrapNat 8 r, if r == q + zp then 0#32 else flagISAT)

/-- R251: the codes of a block of values under its scale, and its flags; the first is element j of row i. -/
def mxBlock (m : MatCmd) (f : BitVec 3) (i j : Nat) (codes : List Nat) : Nat × List Nat × W32 :=
  let fmt := descFmt m.dx
  let sc := blockScale (BitVec.ofNat 3 (fmt - 0x18 + 3)) (codes.map fun c => c % 2 ^ 31)
  if sc.1 == 0xFF then (0xFF, codes.map fun _ => 0, flagNV)
  else
    let r := codes.zipIdx.map fun c => match tyF32.decode c.1 with
      | .num neg k e => convertVal (fmtTy fmt) (m.elemCtx f i (j + c.2)) (.num neg k (e - ((sc.1 : Int) - 127)))
      | _ => (0, 0#32)
    (sc.1, r.map (·.1), r.foldl (fun fl x => fl ||| x.2) 0#32)

/-- A drained row: its codes, its scales, and the flags. -/
structure DrainRow where
  codes : List Nat
  scales : List Nat
  flags : W32

/-- R249 to R251: row i of a drain, of its first n elements, whose source lies at a place in the byte store. -/
def drainRow (s : State) (m : MatCmd) (f : BitVec 3) (src i n : Nat) : DrainRow :=
  let nn := shapeN m.shape
  let code (j : Nat) : Nat := tileElem s src (regionTr m.sy) nn 32 i j
  let codes := (List.range n).map code
  let fold (l : List (Nat × W32)) : DrainRow := ⟨l.map (·.1), [], l.foldl (fun fl x => fl ||| x.2) 0#32⟩
  match m.drain with
  | .copy | .icopy => ⟨codes, [], 0#32⟩
  | .narrow => fold (codes.zipIdx.map fun c => convertVal (fmtTy (descFmt m.dx)) (m.elemCtx f i c.2) (tyF32.decode c.1))
  | .requant => fold (codes.zipIdx.map fun c =>
      let at_ := src + granBytes (4 * shapeM m.shape * nn) + 8 * c.2
      requantElem (descFmt m.dx == 1) (m.rounding f) (valOf true 32 c.1) (valOf true 32 (bytesNat (memBytes s.mem at_ 4)))
        (wordAt m.dx 1).toInt (bytesNat (memBytes s.mem (at_ + 4) 4) % 64))
  | .mx =>
    let bs := (List.range ((n + 31) / 32)).map fun b => mxBlock m f i (32 * b) ((codes.drop (32 * b)).take 32)
    ⟨bs.flatMap (·.2.1), bs.map (·.1), bs.foldl (fun fl x => fl ||| x.2.2) 0#32⟩

/-- R252: the drained codes added into the old ones. -/
def addInto (m : MatCmd) (old new : List Nat) : List Nat :=
  (old.zip new).map fun x => if m.drain == .copy then addF tyF32 x.1 x.2 else (x.1 + x.2) % 2 ^ 32

/-- Whether a drain adds (R240). -/
def MatCmd.adds (m : MatCmd) : Bool := match m.instr with | .mdrain _ _ _ _ _ _ => m.sx.getLsbD 29 | _ => false

/-- Whether a drain goes to G (R248). -/
def MatCmd.global (m : MatCmd) : Bool := match m.instr with | .mdrain _ _ _ _ _ g => g == 1#1 | _ => false

/-- The rounding field of a drain or TSCL. -/
def MatCmd.fField (m : MatCmd) : BitVec 3 :=
  match m.instr with | .mdrain f _ _ _ _ _ => f | .tscl f _ _ _ _ => f | _ => 0#3

/-- R68, R251: the SR-record step of a command that rounds by SR, once, before its first write; a drain whose tile lies wholly outside its
tensor, and so writes nothing, makes it too (log 37). -/
def matrixSrStep (s : State) (m : MatCmd) : State :=
  if m.rounding m.fField == .sr then performSrStep s (matSite s m) (regionTid m.sx) m.step (matSite s m).handle (gridSource s (matSite s m).handle) else s

/-- The source of a drain in the byte store. -/
def MatCmd.source (m : MatCmd) (t : Team) : Nat := tileAt t.core t.tileBase + 64 * regionOfs m.sy

/-- R248, R251, R252, R258: a drain into the tile store. -/
def runTileDrain (s : State) (t : Team) (m : MatCmd) : State :=
  let mm := shapeM m.shape
  let nn := shapeN m.shape
  let fmt := descFmt m.dx
  let w := fmtBits fmt
  let dst := tileAt t.core t.tileBase + 64 * regionOfs m.sx
  let rows := (List.range mm).map fun i => drainRow s m m.fField (m.source t) i nn
  let codes := rows.flatMap (·.codes)
  let codes := if m.adds then addInto m ((List.range mm).flatMap fun i => (List.range nn).map fun j => tileElem s dst false nn w i j) codes else codes
  let key := (s.ctxOf t.owner).key
  let s := matrixSrStep s m
  let s := storeAt s key dst (packBits w codes)
  let s := storeAt s key (dst + elemBytes mm nn fmt false) ((rows.flatMap (·.scales)).map (BitVec.ofNat 8))
  teamFlags s t.id (rows.foldl (fun fl r => fl ||| r.flags) 0#32)

/-- R87, R88: the destination ranges of a G drain: a row's elements, then its scales; address and bytes. -/
def MatCmd.spans (m : MatCmd) (i : Nat) : List (Nat × Nat) :=
  let n := m.inside i
  let fmt := descFmt m.dx
  if n == 0 then []
  else (m.rowAt i, (n * fmtBits fmt + 7) / 8) ::
    (if fmtMx fmt then [(descScaleAt m.dx (originRow m.sz + i) (originCol m.sz), (n + 31) / 32)] else [])

/-- R106: poison in a range of G that a command reads. -/
def globalPoison (s : State) (c : Context) (va n : Nat) : Option Stop :=
  match vbytes s c 0 va n with
  | .error t => some t
  | .ok _ => none

/-- R239: every destination page of a G drain checked, and with ADD every old granule read. -/
def drainPages (s : State) (c : Context) (m : MatCmd) : Option Stop :=
  firstStop ((List.range (shapeM m.shape)).flatMap m.spans) fun r =>
    match engineRange s c (if m.adds then accAtomic else accWrite) r.1 r.2 with
    | some t => some t
    | none => if m.adds then globalPoison s c r.1 r.2 else none

/-- The write of a range whose pages have been checked; the state is kept if a page no longer translates. -/
def putChecked (s : State) (owner va : Nat) (bytes : List Byte) : State :=
  match vput s (s.ctxOf owner) 0 va bytes with
  | .ok t => t
  | .error _ => s

/-- R248, R251, R252: row i of a G drain written. -/
def writeGlobalRow (owner : Nat) (m : MatCmd) (s : State) (x : Nat × DrainRow) : State :=
  let n := m.inside x.1
  let w := fmtBits (descFmt m.dx)
  let c := s.ctxOf owner
  if n == 0 then s
  else
    let va := m.rowAt x.1
    let codes := if m.adds then addInto m ((bytesWords n (peekBytes s c va (4 * n))).map (·.toNat)) x.2.codes else x.2.codes
    let s := putChecked s owner va (mergeTail s c va (n * w) (packBits w codes))
    if x.2.scales.isEmpty then s
    else putChecked s owner (descScaleAt m.dx (originRow m.sz + x.1) (originCol m.sz)) (x.2.scales.map (BitVec.ofNat 8))

/-- R109, R126, R370: the add-on-store of a tile, one RMW at each home slice that holds part of it (log 13). -/
def countAdds (s : State) (owner : Nat) (m : MatCmd) : State :=
  let c := s.ctxOf owner
  let lines := ((List.range (shapeM m.shape)).flatMap fun i => (m.spans i).flatMap fun r =>
    (List.range ((r.1 + r.2 + 63) / 64 - r.1 / 64)).map fun k => max r.1 ((r.1 / 64 + k) * 64)).filterMap fun va =>
    (translate s c va accAtomic 0).toOption
  ((lines.map fun pa => (homeSlice pa, pa)).foldl (fun (l : List (Nat × Nat)) x => if l.any (·.1 == x.1) then l else l ++ [x]) []).foldl
    (fun s x => countSlice s owner x.2 0x03 1) s

/-- R239, R248: a drain into G that is not ticketed. -/
def runGlobalDrain (s : State) (t : Team) (m : MatCmd) : Except Stop State :=
  match drainPages s (s.ctxOf t.owner) m with
  | some e => .error e
  | none =>
    let rows := (List.range (shapeM m.shape)).map fun i => (i, drainRow s m m.fField (m.source t) i (m.inside i))
    let s := matrixSrStep s m
    let s := rows.foldl (writeGlobalRow t.owner m) s
    let s := if m.adds then countAdds s t.owner m else s
    .ok (teamFlags s t.id (rows.foldl (fun fl r => fl ||| r.2.flags) 0#32))

/-- R252: the update of granule k of a ticketed drain. -/
def drainUpdate (s : State) (t : Team) (m : MatCmd) (va pa : Nat) : TkEntry :=
  let word (b : Nat) : Option W32 :=
    ((List.range (shapeM m.shape)).filterMap fun i =>
      let at_ := va + 4 * b
      if m.rowAt i ≤ at_ && at_ < m.rowAt i + 4 * m.inside i then
        some (BitVec.ofNat 32 (tileElem s (m.source t) (regionTr m.sy) (shapeN m.shape) 32 i ((at_ - m.rowAt i) / 4)))
      else none).getLast?
  let ws := (List.range 16).map word
  { region := descTkr m.dx, granule := (va - (match (s.ctxOf t.owner).regions.getD (descTkr m.dx) none with | some r => r.base | none => 0)) / 64,
    va := BitVec.ofNat 64 va, pa := pa, ticket := m.sz1.extractLsb' 0 16,
    mask := (ws.zipIdx).foldl (fun a x => if x.1.isSome then a ||| (1#16 <<< x.2) else a) 0#16, bf16 := false,
    data := ws.map (·.getD 0#32), team := t.id, pod := m.pod, core := t.core, handle := t.handle, since := s.clock }

/-- R224, R239, R252: the home slice of a ticketed drain's next granule accepts, stalls or rejects its update. -/
def execTicketUpdateAccept (cmd : Nat) (s : State) : Host.Outcome State Fault Refusal :=
  match s.mats.find? (·.id == cmd) with
  | none => .next s
  | some m => match s.teamOf m.team with
    | none => .next s
    | some t =>
      let gs := m.granules
      let c := s.ctxOf t.owner
      if !(m.ticketed && m.started && m.stopped.isNone && m.next < gs.length && isResident s t.owner) then .next s
      else
        let va := 64 * gs.getD m.next 0
        let first := if m.next == 0 then
            (match tilePoison s (tileAt t.core t.tileBase) (m.ranges.map fun r => (r.1, r.2.1)) with
             | some e => some e
             | none => firstStop gs fun g => engineRange s c accAtomic (64 * g) 64)
          else none
        match first, translate s c va accAtomic 0 with
        | some e, _ => .next (stopMatrix s m e)
        | none, .error e => .next (stopMatrix s m e)
        | none, .ok pa =>
          match m.ticketStop c with
          | some e => .next (stopMatrix s m e)
          | none => match acceptUpdate s t.owner (drainUpdate s t m va pa) with
            | .accepted u => .next (countCore (u.mapMat cmd fun x => { x with next := x.next + 1, stall := none }) t.owner t.core 0x0A 1)
            | .stalled => .next (s.mapMat cmd fun x => { x with stall := some pa })
            | .rejected e => .next (stopMatrix s m e)

/-- R252: whether every update of a ticketed drain has been applied. -/
def drainApplied (s : State) (t : Team) (m : MatCmd) : Bool :=
  m.next == m.granules.length &&
  !((s.ctxOf t.owner).entries.any fun e => e.team == t.id && e.pod == m.pod && e.region == descTkr m.dx &&
      e.ticket == m.sz1.extractLsb' 0 16 && m.granules.contains (e.va.toNat / 64))

/-! ### TROT -/

/-- R254: the legs of a rotation: the commands of the four teams of a cluster under one number. -/
def trotLegs (s : State) (m : MatCmd) : List MatCmd :=
  match s.teamOf m.team with
  | none => []
  | some t => s.mats.filter fun c => c.legNo == m.legNo && c.stopped.isNone && c.next == 0 && (match c.instr with
      | .trot _ _ _ => (match s.teamOf c.team with | some u => u.handle == t.handle && u.number / 4 == t.number / 4 | none => false)
      | _ => false)

/-- R93: the bytes of a leg's region, with the place where the next core keeps them. -/
def legMove (s : State) (legs : List MatCmd) (m : MatCmd) : Nat × List Byte :=
  let off := 64 * regionOfs m.sx
  let place (c : MatCmd) : Nat := match s.teamOf c.team with | some t => tileAt t.core (t.tileBase + off) | none => 0
  let next := (legs.find? fun c => c.core % 4 == (m.core + 1) % 4).getD m
  (place next, memBytes s.mem (place m) (64 * zeroCount m.sy))

/-- R93, R254, R354: with four legs queued, a differing offset or count faults each of them; else, once all have started, the four regions
are read and then written to the next cores. The commands of an owner that is not resident stand in its image. -/
def execTrotRotation (cmd : Nat) (s : State) : Host.Outcome State Fault Refusal :=
  match s.mats.find? (·.id == cmd) with
  | none => .next s
  | some m =>
    let legs := trotLegs s m
    if legs.length != 4 || !isResident s (matOwner s m) then .next s
    else if legs.any fun c => regionOfs c.sx != regionOfs m.sx || zeroCount c.sy != zeroCount m.sy then
      .next (legs.foldl (fun s c => stopMatrix s c (boundsStop 3)) s)
    else if !legs.all (·.started) then .next s
    else
      let bad := legs.filterMap fun c => match s.teamOf c.team with
        | some t => (tilePoison s (tileAt t.core t.tileBase) (c.ranges.map fun r => (r.1, r.2.1))).map fun e => (c, e)
        | none => none
      if !bad.isEmpty then .next (bad.foldl (fun s x => stopMatrix s x.1 x.2) s)
      else
        let key := (s.ctxOf (matOwner s m)).key
        let moves := legs.map (legMove s legs)
        let u := moves.foldl (fun u x => storeAt u key x.1 x.2) s
        .next (legs.foldl (fun u c => u.mapMat c.id fun c => { c with next := 1 }) u)

/-! ### Completion -/

/-- R238: the command is over: it leaves the queue and its scalar is free. -/
def finishMatrix (s : State) (m : MatCmd) : State := releaseHeld { s with mats := s.mats.filter (·.id != m.id) } m.team m.pod m.id

/-- The bytes of the tile store that a command reads. -/
def MatCmd.reads (m : MatCmd) : List (Nat × Nat) :=
  match m.instr with
  | .tzero _ _ _ => []
  | .mma _ _ _ _ _ _ | .mmab _ _ _ _ _ _ => m.ranges.map fun r => (r.1, r.2.1)
  | _ => (m.ranges.filter fun r => !r.2.2 || m.adds).map fun r => (r.1, r.2.1)

/-- R246 to R253, R258: what a started command does, or the fault that discards it; none while it still waits. -/
def runMatrix (s : State) (t : Team) (m : MatCmd) : Option (Except Stop State) :=
  match tilePoison s (tileAt t.core t.tileBase) m.reads with
  | some e => if m.ticketed || m.next != 0 then none else some (.error e)
  | none => match m.instr with
    | .mma f _ _ _ _ g | .mmab f _ _ _ _ g => some (.ok (runProduct s t m f g))
    | .tzero _ _ _ =>
      some (.ok (storeAt s (s.ctxOf t.owner).key (tileAt t.core (t.tileBase + 64 * regionOfs m.sx)) (List.replicate (64 * zeroCount m.sy) 0#8)))
    | .tscl _ _ _ _ _ => some (.ok (runTileDrain s t m))
    | .mdrain _ _ _ _ _ _ => if m.global then some (runGlobalDrain s t m) else some (.ok (runTileDrain s t m))
    | _ => none

/-- R238: a started command performs its reads and writes, sets its team's FLAGS and releases SX. -/
def execMatrixCommandCompletion (cmd : Nat) (s : State) : Host.Outcome State Fault Refusal :=
  match s.mats.find? (·.id == cmd) with
  | none => .next s
  | some m => match s.teamOf m.team with
    | none => .next s
    | some t =>
      if !m.started || m.stopped.isSome || !isResident s t.owner then .next s
      else match m.instr with
        | .trot _ _ _ => .next (if m.next == 0 then s else finishMatrix s m)
        | _ =>
          if m.ticketed then .next (if drainApplied s t m then finishMatrix s m else s)
          else match runMatrix s t m with
            | none => .next s
            | some (.error e) => .next (stopMatrix s m e)
            | some (.ok u) => .next (finishMatrix u m)

end Sys2Proof.Machine
end

