-- ==== Sys2Proof/Machine/Copy.lean ====
section
/-! DEFINITION. Copy commands and the logical copy channels of a team: TCPY, TCPYW (R90 to R92, R255, R256). -/

namespace Sys2Proof.Machine

/-- R255, R256: a copy command with what it captures at issue. -/
def newCopy (s : State) (i : Instr) (x y z : BitVec 5) : CopyCmd :=
  { id := s.ids, pod := s.pod.index, instr := i, sx := sreg s x, sy := sreg s y, sy1 := scalarOf s (y.toNat + 1), sz := sreg s z,
    desc := descOf (srcCtx s) (regionTid (sreg s x)) }

/-- R255: CH of a control word. -/
def copyChannel (c : CopyCmd) : Nat := (c.sz.extractLsb' 24 2).toNat

/-- The granules that a copy delivers. -/
def copyCount (c : CopyCmd) : Nat := copyBytes c / 64

/-- R255: the address in G that SY names. -/
def copyVa (c : CopyCmd) : W64 := c.sy1 ++ c.sy

/-- R256: the bytes of a window row. -/
def copyPitch (c : CopyCmd) : Nat := 16 * ((c.sz.extractLsb' 0 12).toNat + 1) * fmtBits (descFmt c.desc) / 8

/-- R90, R238: the command queued on its logical channel, or the pod stopped while that channel holds eight queued commands. -/
def queueCopy (s : State) (c : CopyCmd) (x : BitVec 5) (l : BitVec 4) : Except Halt State :=
  let k := copyChannel c
  let ch := s.team.chans.getD k Channel.reset
  if ch.queue.length < 8 then
    .ok (holdScalar { s with team := { s.team with chans := s.team.chans.setIfInBounds k { ch with queue := ch.queue ++ [c] } } } x l)
  else .error (.wait .engine)

/-- R82, R255: the checks of TCPY on its count and on the address or offset of SY. -/
def copyPlaceStop (scratch : Nat) (c : CopyCmd) : Option Stop :=
  let at_ : W64 := if copyDie c then c.sy.zeroExtend 64 else copyVa c
  firstOf [(copyCount c != 0, Stop.plain .reservedField), (at_.extractLsb' 0 6 == 0#6, { code := .misaligned, addr := at_, info1 := BitVec.ofNat 32 (if copyOut c then accWrite else accRead) }),
    (!copyDie c || decide (c.sy.toNat + copyBytes c ≤ scratch * 0x300000), boundsStop 0)]

/-- R255, R256: a copy command's own checks. -/
def CopyCmd.ownStop (c : CopyCmd) (scratch : Nat) : Option Stop :=
  match c.instr with
  | .tcpyw _ _ _ _ => firstOf [(!c.sz.getLsbD 26 && copyPitch c % 64 == 0, Stop.plain .reservedField)]
  | _ => copyPlaceStop scratch c

/-- R81, R240: the first check that a copy command fails: step 1, its region word, then its own, with the descriptors and the die scratch of a
context and an allocation of a size. The order among its own checks is the model's choice (log 34). -/
def CopyCmd.check (m : CopyCmd) (c : Context) (size : Nat) : Option Stop :=
  let uses : List RegionUse := [⟨m.sx, fun _ => true, fun _ => copyTileBytes m, copyOut m, true⟩]
  if !controlOk false (regionFlg m.sx) (m.sz.extractLsb' 28 4) then some (Stop.plain .reservedField)
  else match regionNames c uses with
    | some t => some t
    | none => match regionFits c size uses with
      | some t => some t
      | none => m.ownStop c.scratch

/-- R255. -/
def execTcpy (x y z : BitVec 5) (l : BitVec 4) (s : State) : Host.Outcome State Fault Refusal :=
  let c := newCopy s (.tcpy x y z l) x y z
  settle s (do
    passed (c.check (srcCtx s) s.team.tileSize)
    queueCopy s c x l)

/-- R256. -/
def execTcpyw (x y z : BitVec 5) (l : BitVec 4) (s : State) : Host.Outcome State Fault Refusal :=
  let c := newCopy s (.tcpyw x y z l) x y z
  settle s (do
    passed (c.check (srcCtx s) s.team.tileSize)
    queueCopy s c x l)

/-! ### The channels -/

/-- A channel of a team changed in the list. -/
def State.mapChan (s : State) (team k : Nat) (f : Channel → Channel) : State :=
  s.mapTeam team fun t => { t with chans := t.chans.setIfInBounds k (f (t.chans.getD k Channel.reset)) }

/-- R90, R122: a channel with no command running starts the next one queued: SEQ rises and CNT is 0. -/
def execCopyCommandStart (team ch : Nat) (s : State) : Host.Outcome State Fault Refusal :=
  match s.teamOf team with
  | none => .next s
  | some t =>
    let c := t.chans.getD ch Channel.reset
    match c.current, c.queue with
    | none, q :: rest =>
      .next (if isResident s t.owner && ch < 4 && !blocked s t.core q.id (copyRanges t q) then
          s.mapChan team ch fun c => { c with seq := c.seq + 1#8, cnt := 0#24, current := some q, queue := rest }
        else s)
    | _, _ => .next s

/-- R347: the site of a copy channel. -/
def copySite (s : State) (t : Team) (ch : Nat) : Site :=
  let g := (s.gridOf t.handle).getD Grid.reset
  { owner := t.owner, agent := .channel t.id ch, kind := 2, resum := g.susp, node := g.node, handle := t.handle, team := t.number,
    unit := t.core, sub := ch }

/-- R92, R348, R351 to R353: a fault of a channel: it stops before the granule that CNT names; the record of an address fault carries CHPTR. -/
def stopCopy (s : State) (t : Team) (ch : Nat) (e : Stop) : State :=
  let x := copySite s t ch
  let c := t.chans.getD ch Channel.reset
  let e := match e.code with
    | .misaligned | .translation | .permission => { e with info2 := c.seq ++ c.cnt }
    | _ => e
  let running := match s.gridOf t.handle with | some g => (match g.status with | .running => true | _ => false) | none => false
  if !running then s
  else
    let seq := (s.ctxOf x.owner).seq
    let s := postRecord (s.mapChan t.id ch fun c => { c with stopped := some seq }) x e
    if x.resum then s else terminateGrids s [t.handle] e.code.number (BitVec.ofNat 32 e.code.number)

/-- R79, R106: n bytes of the tile store from a stream offset of a region, or the poisoned granule met. -/
def tileBytes (s : State) (alloc base : Nat) (tr : Bool) (o n : Nat) : Except Stop (List Byte) :=
  match firstStop (List.range n) fun i => (poisonIn s.poison (base + streamAt tr (o + i)) 1).map fun g =>
      ({ code := .uncorrectable, addr := BitVec.ofNat 64 (g - alloc), info0 := 1#32 } : Stop) with
  | some e => .error e
  | none => .ok ((List.range n).map fun i => memRead s.mem (base + streamAt tr (o + i)))

/-- n bytes of the die scratch, or the poisoned granule met. -/
def dieBytes (s : State) (die o n : Nat) : Except Stop (List Byte) :=
  match poisonIn s.poison (scratchAt die o) n with
  | some g => .error { code := .uncorrectable, addr := BitVec.ofNat 64 (g - scratchAt die 0), info0 := 2#32 }
  | none => .ok (memBytes s.mem (scratchAt die o) n)

/-- R256: the bits of granule i of a window that lie inside the tensor, and the address in G of its first byte. -/
def windowGranule (c : CopyCmd) (i : Nat) : Nat × Nat :=
  let w := fmtBits (descFmt c.desc)
  let per := max 1 (copyPitch c / 64)
  let rho := originRow c.sy + i / per
  let b := 64 * (i % per)
  let bits := if rho < descRows c.desc then (descSize c.desc 0 - originCol c.sy) * w else 0
  (min 512 (bits - 8 * b), descRow c.desc rho + originCol c.sy * w / 8 + b)

/-- Bytes with every bit from bit n on cleared, padded to 64 bytes. -/
def keepBits (n : Nat) (b : List Byte) : List Byte := natBytes 64 (bytesNat b % 2 ^ n)

/-- R255, R256: granule i of a copy moved. -/
def copyGranule (s : State) (t : Team) (c : CopyCmd) (i : Nat) : Except Stop State :=
  let x := s.ctxOf t.owner
  let base := tileAt t.core (t.tileBase + 64 * regionOfs c.sx)
  let die := t.core / 144
  match c.instr with
  | .tcpyw _ _ _ _ =>
    let g := windowGranule c i
    let n := (g.1 + 7) / 8
    if copyOut c then
      match tileBytes s (tileAt t.core t.tileBase) base (regionTr c.sx) (64 * i) 64 with
      | .error e => .error e
      | .ok b => if n == 0 then .ok s else engineWrite s x g.2 (mergeTail s x g.2 g.1 (b.take n))
    else match (if n == 0 then .ok [] else engineRead s x g.2 n) with
      | .error e => .error e
      | .ok b => .ok (storeAt s x.key (base + 64 * i) (keepBits g.1 b))
  | _ =>
    if copyOut c then
      match tileBytes s (tileAt t.core t.tileBase) base (regionTr c.sx) (64 * i) 64 with
      | .error e => .error e
      | .ok b => if copyDie c then .ok (storeAt s x.key (scratchAt die (c.sy.toNat + 64 * i)) b)
                 else engineWrite s x ((copyVa c).toNat + 64 * i) b
    else match (if copyDie c then dieBytes s die (c.sy.toNat + 64 * i) 64 else engineRead s x ((copyVa c).toNat + 64 * i) 64) with
      | .error e => .error e
      | .ok b => .ok (storeAt s x.key (base + 64 * i) b)

/-- R90, R91, R238: the running command delivers its next granule and CNT rises; with the last one it is complete and SX is free. -/
def execCopyGranuleDelivery (team ch : Nat) (s : State) : Host.Outcome State Fault Refusal :=
  match s.teamOf team with
  | none => .next s
  | some t =>
    let k := t.chans.getD ch Channel.reset
    match k.current with
    | none => .next s
    | some c =>
      if !isResident s t.owner || k.stopped.isSome || !decide (ch < 4) then .next s
      else match copyGranule s t c k.cnt.toNat with
        | .error e => .next (stopCopy s t ch e)
        | .ok u =>
          let u := countCore (u.mapGrid t.handle fun g => g.sample t.number 64 0) t.owner t.core 0x08 1
          if k.cnt.toNat + 1 < copyCount c then .next (u.mapChan team ch fun k => { k with cnt := k.cnt + 1#24 })
          else .next (releaseHeld (u.mapChan team ch fun k => { k with cnt := k.cnt + 1#24, current := none }) team c.pod c.id)

end Sys2Proof.Machine
end

