-- ==== Sys2Proof/Machine/Record.lean ====
section
/-! DEFINITION. Node records (R282 to R290, R297, R333): their fields, their checks, appending a node to its stream (R281, R285),
and the readiness of a node (R286). -/

namespace Sys2Proof.Machine

/-- A 64-bit field of a record that starts at word k. -/
def fieldAt (w : List W32) (k : Nat) : Nat := (wordAt w (k + 1) ++ wordAt w k).toNat

/-- R282: TYPE. -/
def recType (w : List W32) : Nat := ((wordAt w 0).extractLsb' 28 4).toNat
/-- R282: PRI. -/
def recPri (w : List W32) : Nat := ((wordAt w 0).extractLsb' 26 2).toNat
/-- R282: SERIAL. -/
def recSerial (w : List W32) : Bool := (wordAt w 0).getLsbD 25
/-- R282: SUSP. -/
def recSusp (w : List W32) : Bool := (wordAt w 0).getLsbD 24
/-- R282: CMSI. -/
def recCmsi (w : List W32) : Bool := (wordAt w 0).getLsbD 23
/-- R282: the handles that WH0V and WH1V make the node wait for. -/
def recHandles (w : List W32) : List W32 :=
  (if (wordAt w 1).getLsbD 0 then [wordAt w 2] else []) ++ (if (wordAt w 1).getLsbD 1 then [wordAt w 3] else [])
/-- R282: WBV. -/
def recBarrier (w : List W32) : Bool := (wordAt w 1).getLsbD 2
/-- R283: the pages of the region word at word k: the first page and their number. -/
def recRegion (w : List W32) (k : Nat) : Nat × Nat := (fieldAt w k % 2 ^ 39, fieldAt w k / 2 ^ 39)
/-- R282: the read regions and the write regions. -/
def recReads (w : List W32) : List (Nat × Nat) := [8, 10, 12, 14].map (recRegion w)
/-- R282. -/
def recWrites (w : List W32) : List (Nat × Nat) := [16, 18].map (recRegion w)

/-- Words a to b of a record are 0. -/
def zeroWords (w : List W32) (a b : Nat) : Bool := (List.range (b + 1 - a)).all fun i => wordAt w (a + i) == 0#32

/-- R83: a stack base and a per-pod stack size. -/
def stackOk (base : Nat) (size : W32) : Bool :=
  base % 64 == 0 && size.toNat % 64 == 0 && decide (64 ≤ size.toNat) && decide (size.toNat ≤ 2 ^ 20)

/-- R62, R287: an initial MODE. -/
def modeFieldOk (m : BitVec 8) : Bool := modeRmOk (m.zeroExtend 32) && m.extractLsb' 3 3 == 0#3

/-- R287: the limits of a KERNEL body. -/
def kernelBodyOk (w : List W32) : Bool :=
  let teams := ((wordAt w 24).extractLsb' 0 24).toNat
  fieldAt w 20 % 32 == 0 && fieldAt w 22 % 64 == 0 && (wordAt w 24).extractLsb' 24 7 == 0#7 && teams != 0 &&
  (!(wordAt w 24).getLsbD 31 || teams % 4 == 0) && (wordAt w 25).extractLsb' 8 24 == 0#24 &&
  modeFieldOk ((wordAt w 25).extractLsb' 0 8) && stackOk (fieldAt w 26) (wordAt w 28) && zeroWords w 29 31

/-- R333: DST of a TRANSFORM body. -/
def xfDst (w : List W32) : Nat := ((wordAt w 23).extractLsb' 28 2).toNat
/-- R333: KIND. -/
def xfKind (w : List W32) : Nat := ((wordAt w 23).extractLsb' 30 2).toNat
/-- R333: INSRC. -/
def xfInsrc (w : List W32) : Bool := (wordAt w 23).getLsbD 27
/-- R333: ENG. -/
def xfEng (w : List W32) : Nat := ((wordAt w 23).extractLsb' 25 2).toNat
/-- R333: DIE. -/
def xfDie (w : List W32) : Nat := ((wordAt w 23).extractLsb' 23 2).toNat

/-- R333: the limits of a TRANSFORM body. -/
def transformBodyOk (w : List W32) : Bool :=
  wordAt w 22 != 0#32 && xfKind w != 3 && xfDst w != 3 && (xfDst w != 0 || xfDie w == 0) && (wordAt w 23).extractLsb' 0 23 == 0#23 &&
  (xfDst w == 0 || (wordAt w 24 == 0#32 && wordAt w 25 == 0#32)) && (wordAt w 25).extractLsb' 24 8 == 0#8 &&
  (xfDst w == 2 || wordAt w 27 == 0#32) && (wordAt w 26).extractLsb' 0 6 == 0#6 &&
  (wordAt w 28).extractLsb' 24 8 == 0#8 && (wordAt w 28).extractLsb' 0 24 != 0#24 &&
  (if xfInsrc w then wordAt w 29 != 0#32 else wordAt w 29 == 0#32) && zeroWords w 30 31

/-- R297: the limits of a COLLECTIVE body; queued tells a fabric-queue request, where SUSPQ is defined. -/
def collectiveBodyOk (w : List W32) (queued : Bool) : Bool :=
  let nfp := ((wordAt w 26).extractLsb' 0 5).toNat
  fieldAt w 20 % 4 == 0 && fieldAt w 22 % 64 == 0 && fieldAt w 24 % 64 == 0 && (wordAt w 26).extractLsb' 9 23 == 0#23 &&
  (queued || !(wordAt w 26).getLsbD 8) && (wordAt w 26).extractLsb' 5 3 == 0#3 && 1 ≤ nfp && nfp ≤ 16 && wordAt w 27 != 0#32 &&
  zeroWords w 28 31

/-- R289: the limits of a COPY body. -/
def copyBodyOk (w : List W32) : Bool :=
  let n := fieldAt w 24
  fieldAt w 20 % 64 == 0 && fieldAt w 22 % 64 == 0 && n % 64 == 0 && decide (64 ≤ n) && decide (n ≤ 2 ^ 40) &&
  !rangesMeet (fieldAt w 20) n (fieldAt w 22) n && zeroWords w 26 31

/-- R289: the limits of a SIGNAL body. -/
def signalBodyOk (w : List W32) : Bool :=
  let kind := (wordAt w 22).toNat
  kind ≤ 2 && (kind != 0 || fieldAt w 20 % 4 == 0) && (kind != 1 || fieldAt w 20 % 64 == 0) && zeroWords w 24 31

/-- R290: the limits of a TAPE body. -/
def tapeBodyOk (w : List W32) : Bool := decide ((wordAt w 20).toNat ≤ 4096) && zeroWords w 21 31

/-- R284: the body of a record, by its TYPE. -/
def bodyOk (w : List W32) : Bool :=
  match recType w with
  | 0 => kernelBodyOk w
  | 1 => transformBodyOk w
  | 2 => collectiveBodyOk w false
  | 3 => copyBodyOk w
  | 4 => signalBodyOk w
  | 5 => tapeBodyOk w
  | _ => false

/-- Whether an owner holds the stream of a handle (R281). -/
def holdsHandle (s : State) (owner : Nat) (h : W32) : Bool := (s.stream (handleStream h)).owner.toNat == owner

/-- R284: the checks of a node record. -/
def recordStop (s : State) (owner : Nat) (w : List W32) : Option Trap :=
  let regions := recReads w ++ recWrites w
  if (wordAt w 0).extractLsb' 6 17 != 0#17 || (wordAt w 1).extractLsb' 3 29 != 0#29 || wordAt w 7 != 0#32 ||
     (regions.any fun r => r.2 != 0 && decide (2 ^ 39 < r.1 + r.2)) || !bodyOk w then some .reservedField
  else if !((recHandles w).all (holdsHandle s owner)) || (recType w == 1 && xfDst w == 0 && !holdsHandle s owner (wordAt w 24)) then
    some .permission
  else none

/-! ### Nodes -/

/-- R283: overlapping page ranges; an unused region overlaps nothing. -/
def pagesMeet (a b : Nat × Nat) : Bool := a.2 != 0 && b.2 != 0 && rangesMeet a.1 a.2 b.1 b.2

/-- R285: whether a new record depends on an earlier one of its stream. -/
def dependsOn (n e : List W32) : Bool :=
  recSerial n || recSerial e ||
  ((recWrites n).any fun r => (recReads e ++ recWrites e).any (pagesMeet r)) || ((recReads n).any fun r => (recWrites e).any (pagesMeet r))

/-- R281: whether the node of a handle has been appended: its number lies at most 2^25 before the stream's next one (log 38). -/
def appended (st : Stream) (h : W32) : Bool :=
  let d := (2 ^ 26 + st.next % 2 ^ 26 - h.toNat % 2 ^ 26) % 2 ^ 26
  1 ≤ d && d ≤ 2 ^ 25 && d ≤ st.next

/-- R281: the handle that a stream's next node receives. -/
def nextHandle (k : Nat) (st : Stream) : W32 := BitVec.ofNat 32 (k * 2 ^ 26 + st.next % 2 ^ 26)

/-- R281: the unfinished nodes of the device. -/
def unfinished (s : State) : Nat := (s.streams.toList.map fun st => st.nodes.length).foldl (· + ·) 0

/-- R281: whether a stream can take another node. -/
def streamRoom (s : State) (k : Nat) : Bool := decide ((s.stream k).nodes.length < 1024) && decide (unfinished s < 4096)

/-- R281, R285, R292: a checked record appended: its sequence number, stamp and dependences; a wait on a node that failed cancels it. -/
def appendNode (s : State) (k : Nat) (w : List W32) : State :=
  let st := s.stream k
  let h := nextHandle k st
  let gone := (recHandles w).any fun x => appended (s.stream (handleStream x)) x && (s.stream (handleStream x)).failed.contains x
  let n : Node := { handle := h, stamp := s.stamp, words := w, deps := (st.nodes.filter fun e => dependsOn w e.words).map (·.handle),
                    barMet := false, status := if gone then .finished 0x100#32 else .posted, grid := none, popped := 0 }
  { s.mapStream k fun st => { st with next := st.next + 1, nodes := st.nodes ++ [n], failed := st.failed.filter (· != h) } with stamp := s.stamp + 1 }

/-- R286: a handle wait: the named node has been appended and has completed. -/
def handleMet (s : State) (h : W32) : Bool := appended (s.stream (handleStream h)) h && (s.nodeOf h).isNone

/-- R286: whether what a node waits for, other than its barrier, has come. -/
def nodeFree (s : State) (n : Node) : Bool :=
  (match n.status with | .posted => true | _ => false) && (n.deps.all fun d => (s.nodeOf d).isNone) && (recHandles n.words).all (handleMet s)

/-- R286: whether a node is ready. -/
def nodeReady (s : State) (n : Node) : Bool := nodeFree s n && (!recBarrier n.words || n.barMet)

/-- The owner of a node's stream. -/
def nodeOwner (s : State) (h : W32) : Nat := (s.stream (handleStream h)).owner.toNat

/-- R21: a handle for a new grid: the engine's choice, moved on past 0 and the handles in use. -/
def freshHandle (s : State) : Nat → W32 → W32
  | 0, h => h
  | n + 1, h => if h == 0#32 || s.grids.any (·.handle == h) then freshHandle s n (h + 1#32) else h

/-- R21: the handle that the next grid receives. -/
def newGridHandle (s : State) : W32 := freshHandle s (s.grids.length + 2) (Config.gridHandle s.draw)

/-- R275, R287: a grid from a KERNEL record; the kernel record and the scalars are read at its start. -/
def gridOfRecord (w : List W32) (h : W32) (owner stream : Nat) (node : W32) (pri stamp : Nat) (susp : Bool) : Grid :=
  { Grid.reset with
    handle := h, owner := owner, stream := stream, node := node, pri := pri, stamp := stamp, susp := susp,
    teams := ((wordAt w 24).extractLsb' 0 24).toNat, cluster := (wordAt w 24).getLsbD 31,
    mode := ((wordAt w 25).extractLsb' 0 8).zeroExtend 32, stackBase := BitVec.ofNat 64 (fieldAt w 26), stackSize := wordAt w 28,
    krec := BitVec.ofNat 64 (fieldAt w 20), param := BitVec.ofNat 64 (fieldAt w 22) }

/-- R292: a node that fails at its start or in its own work: its record, and its status. -/
def failNode (s : State) (owner : Nat) (node grid : W32) (t : Stop) : State :=
  (postRecord s (graphSite owner node grid) t).finishNode node (BitVec.ofNat 32 t.code.number)

/-! ### Faults of transform engines -/

/-- R347: the site of a transform engine: its TRANSFORM node, and no grid, so that TERMINATE of the record ends the node (R353). -/
def xformSite (x : Xform) (words : List W32) : Site :=
  { owner := x.owner, agent := .transform x.eng, kind := 3, resum := recSusp words, named := true, node := x.node, unit := x.eng }

/-- R337, R343: the write pointer that a record names: XFPTRe, or the granules written. -/
def xfPointer (s : State) (x : Xform) : W32 :=
  match x.team.bind fun t => s.teamOf t with
  | some t => t.xfptr.getD (x.eng % 4) 0#32
  | none => BitVec.ofNat 32 (x.written % 2 ^ 24)

/-- R343: whether a fault suspends the node under SUSP. -/
def xfSuspends (code : Trap) : Bool :=
  match code with
  | .translation | .permission | .uncorrectable | .collectiveTimeout => true
  | _ => false

/-- An engine's work put back on its engine, or taken off it. -/
def setEngine (s : State) (eng : Nat) (x : Option Xform) : State := { s with xforms := s.xforms.setIfInBounds eng x }

/-- R335, R343: a fault of an engine: the node suspends and frees its engine, or fails. -/
def stopXform (s : State) (x : Xform) (words : List W32) (e : Stop) : State :=
  let keep := recSusp words && xfSuspends e.code
  let site := { xformSite x words with resum := keep }
  let seq := (s.ctxOf x.owner).seq
  let s := postRecord s site e
  if keep then { setEngine s x.eng none with parked := s.parked ++ [{ x with stopped := some seq }] }
  else endTransform s x.node (BitVec.ofNat 32 e.code.number)

end Sys2Proof.Machine
end

