-- ==== Sys2Proof/Machine/Fabric.lean ====
section
/-! DEFINITION. Fabric processors: their registers, accesses and register forms (R296, R301, R302, R304 to R309), fences, waits
and signals (R326 to R328), and the windows of R300 and R312. -/

namespace Sys2Proof.Machine

/-! ### Registers -/

/-- A general register of the focused processor. -/
def freg (s : State) (k : BitVec 4) : W64 := s.fp.f.getD k.toNat 0#64

/-- Register k of the group whose base is a. -/
def fgroup (s : State) (a : BitVec 4) (k : Nat) : W64 := s.fp.f.getD (a.toNat + k) 0#64

/-- A general register written. -/
def State.setFreg (s : State) (k : BitVec 4) (v : W64) : State := { s with fp := { s.fp with f := s.fp.f.setIfInBounds k.toNat v } }

/-- R296: the processor goes on with the next word. -/
def State.fnext (s : State) : State := { s with fp := { s.fp with pc := s.fp.pc + 4#51, phase := .ready } }

/-- R302, R306: a register form writes its destination and goes on. -/
def fabricEffect (s : State) (d : BitVec 4) (v : W64) : State := (s.setFreg d v).fnext

/-- R302: the second operand of format ZA. -/
def zaOperand (s : State) (b : BitVec 4) (i : BitVec 1) (m : BitVec 14) : W64 := if i == 1#1 then m.signExtend 64 else freg s b

/-- R304, R348: ZILKAN-DECODE, with its cause. -/
def zilkanStop (cause : Nat) : Stop := { code := .zilkanDecode, cause := cause }

/-- R306. -/
def execZli (d : BitVec 4) (h : BitVec 2) (m : BitVec 16) (s : State) : Host.Outcome State Fault Refusal :=
  let k := 16 * h.toNat
  .next (fabricEffect s d (if h == 0#2 then m.zeroExtend 64 else (freg s d &&& ~~~(0xFFFF#64 <<< k)) ||| (m.zeroExtend 64 <<< k)))

/-- R306. -/
def execZadd (d a b : BitVec 4) (i : BitVec 1) (m : BitVec 14) (s : State) : Host.Outcome State Fault Refusal :=
  .next (fabricEffect s d (freg s a + zaOperand s b i m))

/-- R306. -/
def execZsub (d a b : BitVec 4) (i : BitVec 1) (m : BitVec 14) (s : State) : Host.Outcome State Fault Refusal :=
  .next (fabricEffect s d (freg s a - zaOperand s b i m))

/-- R306: a left shift by n, a logical right shift by −n, 0 from 64 on. -/
def shiftBy (x : W64) (n : Int) : W64 := if 0 ≤ n then x <<< n.toNat else x >>> (-n).toNat

/-- R306. -/
def execZshl (d a b : BitVec 4) (i : BitVec 1) (m : BitVec 14) (s : State) : Host.Outcome State Fault Refusal :=
  .next (fabricEffect s d (shiftBy (freg s a) (if i == 1#1 then m.toInt else ((freg s b).extractLsb' 0 7).toInt)))

/-- R306. -/
def execZand (d a b : BitVec 4) (i : BitVec 1) (m : BitVec 14) (s : State) : Host.Outcome State Fault Refusal :=
  .next (fabricEffect s d (freg s a &&& zaOperand s b i m))

/-- R306: fabric-clock cycles since module reset. -/
def execZcyc (d : BitVec 4) (s : State) : Host.Outcome State Fault Refusal := .next (fabricEffect s d (BitVec.ofNat 64 s.fabClock))

/-- R296, R301, R304: the word at the focused processor's PC. -/
def fetchZilkan (s : State) : Except Stop W32 :=
  match fetchBytes s s.mem s.lineKey s.ctx 2 s.fp.pc.toNat 4 with
  | .ok b => .ok (BitVec.ofNat 32 (bytesNat b))
  | .error t => .error t

/-! ### Control -/

/-- R307: the tests of ZBR. -/
def zbrTaken (c : BitVec 3) (x y : W64) : Bool :=
  match c.toNat with
  | 0 => true
  | 1 => x == y
  | 2 => x != y
  | 3 => x.ult y
  | 4 => !x.ult y
  | 5 => x.slt y
  | _ => !x.slt y

/-- R307: the target of a branch by a signed word offset. -/
def zTarget (s : State) (o : BitVec 16) : Int := (s.fp.pc.toNat : Int) + 4 * o.toInt

/-- R307: a taken branch, or TRANSLATION at the branch. -/
def zJump (s : State) (o : BitVec 16) (f : State → State) : State :=
  let t := zTarget s o
  if t < 0 || 2 ^ 51 ≤ t then takeTrap s { code := .translation, addr := BitVec.ofInt 64 t, info1 := BitVec.ofNat 32 accFetch }
  else let u := f s; { u with fp := { u.fp with pc := BitVec.ofInt 51 t, phase := .ready } }

/-- R307. -/
def execZbr (c : BitVec 3) (a b : BitVec 4) (o : BitVec 16) (s : State) : Host.Outcome State Fault Refusal :=
  .next (if zbrTaken c (freg s a) (freg s b) then zJump s o id else s.fnext)

/-- R307. -/
def execZloop (a : BitVec 4) (o : BitVec 16) (s : State) : Host.Outcome State Fault Refusal :=
  let v := freg s a - 1#64
  .next (if v != 0#64 then zJump s o (fun s => s.setFreg a v) else (s.setFreg a v).fnext)

/-- R309: SOFTWARE-TRAP, with the processor at the next word. -/
def execZtrap (m : BitVec 16) (s : State) : Host.Outcome State Fault Refusal :=
  .next (takeTrap s.fnext { code := .softwareTrap, info0 := m.zeroExtend 32, info1 := s.fp.pc.extractLsb' 0 32, after := true,
                            info2 := (s.fp.pc.extractLsb' 32 19).zeroExtend 32 })

/-! ### Accesses -/

/-- R221, R346: bytes written after their pages were checked, but for those of a declared counter array, which are discarded with a
PERMISSION report of the write at the site. -/
def putDiscarding (s : State) (x : Site) (c : Context) (va : Nat) (bytes : List Byte) : State :=
  let hit := (List.range bytes.length).filter fun i => match translate s c (va + i) accWrite 0 with
    | .ok pa => c.guards pa 1
    | .error _ => false
  match hit with
  | [] => match vput s c 0 va bytes with
    | .ok t => t
    | .error _ => s
  | k :: _ =>
    let t := (bytes.zipIdx).foldl (fun s b => if hit.contains b.2 then s else match vput s c 0 (va + b.2) [b.1] with
      | .ok t => t
      | .error _ => s) s
    postRecord t { x with resum := false } (accStop .permission (va + k) accWrite)

/-- R301: a write of the focused processor, whole or not at all but for counter arrays. -/
def fabricWrite (s : State) (va : Nat) (bytes : List Byte) : Except Stop State :=
  match translateRange s s.ctx accWrite 0 (pagesOf va bytes.length) with
  | .error t => .error t
  | .ok () => .ok (putDiscarding s (fabricSite s) s.ctx va bytes)

/-- R308: the address fA + OFS of a width, aligned and inside the virtual space. -/
def zAddress (s : State) (a : BitVec 4) (o : BitVec 18) (n kind : Nat) : Except Halt Nat :=
  let va : Int := ((freg s a).toNat : Int) + o.toInt
  let stop (c : Trap) : Stop := { code := c, addr := BitVec.ofInt 64 va, info1 := BitVec.ofNat 32 kind }
  if va % n != 0 then .error (.trap (stop .misaligned))
  else if va < 0 || 2 ^ 51 ≤ va then .error (.trap (stop .translation))
  else .ok va.toNat

/-- R308: the width of ZLD and ZST. -/
def zWidth (w : BitVec 1) : Nat := if w == 1#1 then 8 else 4

/-- R308. -/
def execZld (d a : BitVec 4) (w : BitVec 1) (o : BitVec 18) (s : State) : Host.Outcome State Fault Refusal :=
  settle s (do
    let va ← zAddress s a o (zWidth w) accRead
    let b ← orTrap (engineRead s s.ctx va (zWidth w))
    return fabricEffect s d (BitVec.ofNat 64 (bytesNat b)))

/-- R308. -/
def execZst (d a : BitVec 4) (w : BitVec 1) (o : BitVec 18) (s : State) : Host.Outcome State Fault Refusal :=
  settle s (do
    let va ← zAddress s a o (zWidth w) accWrite
    let t ← orTrap (fabricWrite s va (natBytes (zWidth w) (freg s d).toNat))
    return t.fnext)

/-! ### Waits, fences, signals -/

/-- R331: the focused processor waits, its time limit counted from the wait's first clock. -/
def fabricWait (s : State) (w : Wait) : State :=
  let same := match s.fp.phase with | .waiting v _ => v == w | _ => false
  markWait (if same then s else { s with fp := { s.fp with waitFrom := s.fabClock } }) w

/-- R311: the posted transfers of the focused processor's collective that have not been acknowledged. -/
def unacked (s : State) : List Transfer := s.fp.transfers.filter fun t => t.posted && t.coll == s.coll.id

/-- R113: GROUP scope or wider. -/
def groupScope (z : BitVec 4) : Bool := 9#4 ≤ z

/-- R312, R326, R327: a release at a scope: it awaits the acknowledgements from GROUP scope on, then reports the oldest error of
a posted transfer, and then goes on. -/
def releaseThen (s : State) (z : BitVec 4) (report : Bool) (f : State → State) : State :=
  if groupScope z && !(unacked s).isEmpty then fabricWait s .tkfence
  else match (if report then s.fp.errors else []) with
    | e :: rest => takeTrap { s with fp := { s.fp with errors := rest } } e
    | [] => f s

/-- R326: accesses of the model are performed at their step, so an acquire has nothing left to wait for. -/
def execZfenceAcq (_z : BitVec 4) (s : State) : Host.Outcome State Fault Refusal := .next s.fnext

/-- R312, R326. -/
def execZfenceRel (z : BitVec 4) (s : State) : Host.Outcome State Fault Refusal := .next (releaseThen s z true State.fnext)

/-- R326. -/
def execZfenceAr (z : BitVec 4) (s : State) : Host.Outcome State Fault Refusal := .next (releaseThen s z true State.fnext)

/-- R328. -/
def execZwaitBar (d a _z : BitVec 4) (s : State) : Host.Outcome State Fault Refusal :=
  .next (match readPhase s s.ctx.owner (freg s a).toNat with
    | .error t => takeTrap s t
    | .ok (t, p) => if phasePast p ((freg s d).extractLsb' 0 32) then fabricEffect t d (p.zeroExtend 64) else fabricWait t .memory)

/-- R328. -/
def execZwaitFlag (d a _z : BitVec 4) (s : State) : Host.Outcome State Fault Refusal :=
  let va := (freg s a).toNat
  .next (
    if va % 4 != 0 then takeTrap s { code := .misaligned, addr := freg s a, info1 := BitVec.ofNat 32 accRead }
    else match engineRead s s.ctx va 4 with
      | .error t => takeTrap s t
      | .ok b =>
        let m := BitVec.ofNat 32 (bytesNat b)
        if !(m - (freg s d).extractLsb' 0 32).msb then fabricEffect s d (m.zeroExtend 64) else fabricWait s .memory)

/-- R327: the local form; its B field and WIN (CTL[11:8]), which no rule uses or reserves there, are ignored (log 55). -/
def execZsig (d a _b _w z : BitVec 4) (s : State) : Host.Outcome State Fault Refusal :=
  .next (releaseThen s z false fun s =>
    let r := arrive s s.ctx.owner (freg s a).toNat
    match r.token with
    | .error t => takeTrap r.state t
    | .ok token => fabricEffect r.state d (token.zeroExtend 64))

/-- A message of a transfer to its peer or target, and the payload counted (R310, R370). -/
def sendOut (s : State) (f : Nat) (m : Outgoing) (bytes : Nat) : State :=
  countFabric { s with out := s.out ++ [m] } f 0x01 bytes 64

/-- R300: an entry of a peer or target table. -/
def tableEntry (t : List (List W32)) (k : Nat) : List W32 := t.getD k []

/-- R299: P and RANK of a collective. -/
def Collective.ranks (c : Collective) : Nat := ((wordAt c.cds 2).extractLsb' 16 16).toNat
/-- R299. -/
def Collective.rank (c : Collective) : Nat := ((wordAt c.cds 2).extractLsb' 0 16).toNat
/-- R299: NTGT. -/
def Collective.ntgt (c : Collective) : Nat := ((wordAt c.cds 3).extractLsb' 0 8).toNat

/-- R310: a peer rank below P, or PERMISSION naming it. -/
def peerOf (s : State) (v : W64) : Except Halt Nat :=
  let k := (v.extractLsb' 0 16).toNat
  if k < s.coll.ranks then .ok k else .error (.trap { code := .permission, info0 := BitVec.ofNat 32 k })

/-- R310: a target index below NTGT, or PERMISSION naming it. -/
def targetOf (s : State) (v : W64) : Except Halt Nat :=
  let k := (v.extractLsb' 0 8).toNat
  if k < s.coll.ntgt then .ok k else .error (.trap { code := .permission, info0 := BitVec.ofNat 32 k })

/-- A new transfer of the focused processor. -/
def newTransfer (s : State) (kind : TransferKind) (peer : Nat) (table : List (List W32)) (inside : Bool) : Transfer :=
  { id := s.ids, coll := s.coll.id, owner := s.ctx.owner, kind := kind, peer := peer, entry := tableEntry table peer, inside := inside,
    win := 0, place := 0#64, remote := 0#64, len := 0, flag := none, input := none, rz := false, scope := 0, data := [], read := false,
    acked := false, landed := 0 }

/-- A transfer listed. -/
def State.addTransfer (s : State) (t : Transfer) : State :=
  { s with ids := s.ids + 1, fp := { s.fp with transfers := s.fp.transfers ++ [t] } }

/-- R327: the remote form: it releases, and sends one arrival, whose answer the next release awaits. -/
def execZsigRemote (a b w z : BitVec 4) (s : State) : Host.Outcome State Fault Refusal :=
  .next (releaseThen s z false fun s =>
    match peerOf s (freg s b) with
    | .error (.trap t) => takeTrap s t
    | .error (.wait k) => fabricWait s k
    | .ok k =>
      let t := { newTransfer s .arrival k s.coll.peers (k == s.coll.rank) with win := w.toNat, remote := freg s a, scope := z.toNat, read := true }
      let u := s.addTransfer t
      (if t.inside then u else sendOut u s.fp.index (.arrive s.fp.index t.entry t.win t.remote t.scope) 0).fnext)

/-- R309, R297, R330: the program ends once every posted transfer has been acknowledged and no error is left to report; the last
processor's end completes the collective. -/
def execZhalt (s : State) : Host.Outcome State Fault Refusal :=
  .next (releaseThen s 11#4 true fun s =>
    let id := s.coll.id
    let t := closeFocus { s with fp := { s.fp with phase := .ended } }
    if t.fabric.all fun f => f.coll != some id || f.phase == .ended then endCollective t id 0 else t)

/-! ### Windows -/

/-- R300: window k of an owner: its base, length, and the rights of remote writes and reads. -/
def windowOf (c : Context) (k : Nat) : Nat × Nat × Bool × Bool :=
  let e := c.windows.getD k []
  (fieldAt e 0, (wordAt e 2).toNat + 2 ^ 32 * ((wordAt e 3).extractLsb' 0 8).toNat, (wordAt e 3).getLsbD 31, (wordAt e 3).getLsbD 30)

/-- R312: the virtual address of an access to a window, when the window and its pages allow all of it. -/
def windowPlace (s : State) (c : Context) (k : Nat) (off : W64) (n kind : Nat) : Option Nat :=
  let w := windowOf c k
  let right := if kind == accRead then w.2.2.2 else w.2.2.1
  if right && off.toNat + n ≤ w.2.1 then
    match translateRange s c kind 0 (pagesOf (w.1 + off.toNat) n) with
    | .ok () => some (w.1 + off.toNat)
    | .error _ => none
  else none

/-- R13: the fabric processor that owns a port: it receives what arrives there and counts its payload. -/
def receiverOf (port : Nat) : Nat := port / 3

/-- R312, R347: the site of a report on an access to an owner's windows, which names the processor f that received it; of a transfer
that stays inside the module, the one that sent it (log 45). -/
def windowSite (owner f : Nat) : Site := { owner := owner, agent := .fabric f, kind := 4, unit := f }

/-- R312: the target's report of a refused transfer. -/
def refuseWindow (s : State) (owner f : Nat) (off : W64) (kind : Nat) : State :=
  postRecord s (windowSite owner f) { code := .permission, addr := off, info1 := BitVec.ofNat 32 kind }

/-- R130, R312: bytes land in a window of an owner, or the transfer is refused. -/
def landWrite (s : State) (owner f k : Nat) (off : W64) (bytes : List Byte) : State × Bool :=
  let c := s.ctxOf owner
  match windowPlace s c k off bytes.length accWrite with
  | none => (refuseWindow s owner f off accWrite, false)
  | some va => (putDiscarding s (windowSite owner f) c va bytes, true)

/-- R123, R312, R327: an arrival at an object in a window of an owner: the code of its refusal, which leaves every object as it was, or 0. That an
object which is not 64-byte aligned is answered with PERMISSION is the model's choice (log 45): R327 gives the sender no MISALIGNED. So is that an object in a declared counter
array refuses the arrival without a record to its owner, which R221 has for writes. -/
def landArrival (s : State) (owner f k : Nat) (off : W64) : State × Nat :=
  match windowPlace s (s.ctxOf owner) k off 64 accWrite with
  | none => (refuseWindow s owner f off accAtomic, Trap.permission.number)
  | some va =>
    let r := arrive s owner va
    match r.token with
    | .ok _ => (r.state, 0)
    | .error t => (s, if t.code == .barrierObject then t.code.number else Trap.permission.number)

end Sys2Proof.Machine
end

