-- ==== Sys2Proof/Machine/Launch.lean ====
section
/-! DEFINITION. Launches and posts by a pod: GLAUNCH, GWAIT, GNODE, TAPEPUSH, FQPOST (R46, R274 to R279). -/

namespace Sys2Proof.Machine

/-- R274: the record of n words that a launch or post reads. -/
def postRead (s : State) (y : BitVec 5) (n : Nat) : Except Halt (List W32) :=
  match podRecord s (pairOf s y.toNat).toNat (4 * n) 64 with
  | .ok b => .ok (bytesWords n b)
  | .error t => .error (.trap t)

/-- R275, R278: a KERNEL record that passes its checks. -/
def kernelRecord (s : State) (y : BitVec 5) : Except Halt (List W32) := do
  let w ← postRead s y 32
  require (recType w == 0) (Stop.plain .reservedField)
  match recordStop s s.ctx.owner w with
  | some t => .error (.trap (Stop.plain t))
  | none => .ok w

/-- R46, R275. -/
def execGlaunch (x y : BitVec 5) (l : BitVec 4) (s : State) : Host.Outcome State Fault Refusal :=
  settle s (do
    require (s.pod.index == 0) (Stop.plain .permission)
    require (s.grid.depth < 10) (Stop.plain .nestingDepth)
    let w ← kernelRecord s y
    let h := newGridHandle s
    let g := gridOfRecord w h s.grid.owner s.grid.stream s.grid.node s.grid.pri s.stamp s.grid.susp
    let g := { g with uid := s.draw, parent := some s.grid.handle, leader := some s.team.id, depth := s.grid.depth + 1 }
    let t := { s with grids := s.grids ++ [g], stamp := s.stamp + 1, draw := s.draw + 1,
                      team := { s.team with children := s.team.children ++ [h] } }
    return (t.scalarResult x.toNat h l.toNat).advance 1)

/-- R276: the status word of a grid. -/
def gridStatusWord (s : State) (h : W32) : W32 :=
  match s.gridOf h with
  | some g => match g.status with
    | .retired code fail _ => BitVec.ofNat 32 (2 ^ 31 + code % 256 * 256 + bitAt fail 0)
    | _ => 0#32
  | none => 0x80000000#32

/-- R276. -/
def execGwait (x : BitVec 5) (s : State) : Host.Outcome State Fault Refusal :=
  settle s (do
    let h := sreg s x
    require (s.team.children.contains h) (Stop.plain .permission)
    let w := gridStatusWord s h
    if w.getLsbD 31 then return scalarEffect s x w else .error (.wait .gwait))

/-- R276. -/
def execGwaitTry (x : BitVec 5) (s : State) : Host.Outcome State Fault Refusal :=
  settle s (do
    let h := sreg s x
    require (s.team.children.contains h) (Stop.plain .permission)
    return scalarEffect s x (gridStatusWord s h))

/-- R277, R379: the pod waits at the post while the stream has no room or accepts no posts (log 40). -/
def execGnode (x y : BitVec 5) (l : BitVec 4) (s : State) : Host.Outcome State Fault Refusal :=
  settle s (do
    let w0 := sreg s x
    let k := (w0.extractLsb' 0 6).toNat
    require (w0.extractLsb' 6 26 == 0#26 && (s.stream k).owner.toNat == s.ctx.owner) (Stop.plain .permission)
    let w ← postRead s y 32
    match recordStop s s.ctx.owner w with
    | some t => .error (.trap (Stop.plain t))
    | none =>
      if !(streamRoom s k && (s.stream k).enable) then .error (.wait .launch)
      else return ((appendNode s k w).scalarResult x.toNat (nextHandle k (s.stream k)) l.toNat).advance 1)

/-- R278, R290: the record pushed on the tape of the stream of the pod's own grid. -/
def execTapepush (x y : BitVec 5) (l : BitVec 4) (s : State) : Host.Outcome State Fault Refusal :=
  settle s (do
    let w ← kernelRecord s y
    let st := s.stream s.grid.stream
    require (st.tape < 4096) (Stop.plain .tapeOverflow)
    let t ← orTrap (engineWrite s s.ctx (st.tapeBase.toNat + 128 * st.tape) (wordsBytes w))
    let t := t.mapStream s.grid.stream fun st => { st with tape := st.tape + 1 }
    return (t.scalarResult x.toNat (BitVec.ofNat 32 (st.tape + 1)) l.toNat).advance 1)

/-- R298, R378: FQCFG's EN. -/
def FqQueue.enabled (q : FqQueue) : Bool := q.cfg.getLsbD 31

/-- R279, R298: the request posted with the keys and the step that stand at the post. That a post to a queue whose EN is 0 raises PERMISSION is
the model's choice (log 45). -/
def execFqpost (x y : BitVec 5) (l : BitVec 4) (s : State) : Host.Outcome State Fault Refusal :=
  settle s (do
    let w0 := sreg s x
    let k := (w0.extractLsb' 0 8).toNat
    match (if w0.extractLsb' 8 24 == 0#24 then s.ctx.queues.find? fun q => q.index == k && q.enabled else none) with
    | none => .error (.trap (Stop.plain .permission))
    | some q =>
      let w ← postRead s y 16
      if 64 ≤ q.requests.length then .error (.wait .launch)
      else
        let r : FqRequest := { words := w, seq := q.next, stamp := s.stamp, keys := (srcCtx s).srkey.toList, step := (srcCtx s).srstep, running := false }
        let queues := replaceIf s.ctx.queues (·.index == k) fun q => { q with next := (q.next + 1) % 2 ^ 32, requests := q.requests ++ [r] }
        let t := { s with stamp := s.stamp + 1, ctx := { s.ctx with queues := queues } }
        return (t.scalarResult x.toNat (BitVec.ofNat 32 q.next) l.toNat).advance 1)

end Sys2Proof.Machine
end

