-- ==== Sys2Proof/Machine/Graph.lean ====
section
/-! DEFINITION. The graph engine (R22 to R25, R44, R47, R48, R281, R284 to R293): appending, starting, finishing and completing
nodes, placing teams, retiring grids, the tape, COPY and SIGNAL nodes. -/

namespace Sys2Proof.Machine

/-! ### Appending and completing -/

/-- R379: the completion ring of a stream. -/
def Stream.cplRing (st : Stream) : Ring := { base := st.cplBase, size := st.cplSize, head := st.cplHead, tail := st.cplTail }

/-- R379: the post ring of a stream: the graph engine reads at POSTHEAD, the host writes at POSTTAIL. -/
def Stream.postRing (st : Stream) : Ring := { base := st.postBase, size := st.postSize, head := st.postHead, tail := st.postTail }

/-- R284: a host record that was not appended: its report, with the stream and the post-ring index in NODE. -/
def postFailure (s : State) (k : Nat) (st : Stream) (t : Stop) : State :=
  postRecord s (graphSite st.owner.toNat (BitVec.ofNat 32 (k * 2 ^ 26 + st.postHead.toNat % 2 ^ 26)) 0#32) t

/-- R282: STREAM: the target stream of a host post. -/
def recStream (w : List W32) : Nat := ((wordAt w 0).extractLsb' 0 6).toNat

/-- R379: whether a stream takes a post: it accepts posts, and R281 leaves room. -/
def streamOpen (s : State) (k : Nat) : Bool := (s.stream k).enable && streamRoom s k

/-- R281, R282, R284, R379: the record at POSTHEAD read, checked and appended to its target stream, or reported; the stream goes on. A
target that another owner holds is refused as a foreign handle is (log 40). -/
def execNodeAppend (stream : Nat) (s : State) : Host.Outcome State Fault Refusal :=
  let st := s.stream stream
  let c := s.ctxOf st.owner.toNat
  .next (
    if !(decide (stream < 64) && st.enable && c.created && !c.dead && st.postHead != st.postTail && st.postRing.entries != 0)
    then s
    else
      let moved (t : State) : State := t.mapStream stream fun st => { st with postHead := st.postHead + 1#32 }
      match engineRead s c (st.postRing.entryAt st.postHead 128) 128 with
      | .error t => moved (postFailure s stream st t)
      | .ok b =>
        let w := bytesWords 32 b
        match (if (s.stream (recStream w)).owner == st.owner then recordStop s st.owner.toNat w else some .permission) with
        | some t => moved (postFailure s stream st (Stop.plain t))
        | none => if streamOpen s (recStream w) then moved (appendNode s (recStream w) w) else s)

/-- R292: a node that was waiting is cancelled. -/
def Node.cancel (n : Node) : Node :=
  match n.status with
  | .posted => { n with status := .finished 0x100#32 }
  | _ => n

/-- R292: the nodes of every stream that depend on a failed node, or have a handle wait on it, cancelled. -/
def cancelDependants (s : State) (h : W32) : State :=
  { s with streams := s.streams.map fun st =>
      { st with nodes := st.nodes.map fun n => if n.deps.contains h || (recHandles n.words).contains h then n.cancel else n } }

/-- R292, R379, R387: a finished node completes: its entry at CPLTAIL, its interrupt, and the cancellation of what waited for it
when it failed. It stays unfinished while the ring is full or cannot be written, which is reported once (log 40). -/
def execNodeCompletion (handle : W32) (s : State) : Host.Outcome State Fault Refusal :=
  .next (
    match s.nodeOf handle with
    | none => s
    | some n =>
      match n.status with
      | .finished status =>
        let k := handleStream handle
        let st := s.stream k
        let r := st.cplRing
        if r.full then s
        else match engineWrite s (s.ctxOf st.owner.toNat) (r.entryAt r.tail 16) (wordsBytes [handle, status, BitVec.ofNat 32 n.stamp, 0#32]) with
          | .error e =>
            if st.cplFault then s
            else (postRecord s (graphSite st.owner.toNat handle 0#32) e).mapStream k fun st => { st with cplFault := true }
          | .ok t =>
            let bad := status != 0#32
            let t := t.mapStream k fun st =>
              { st with nodes := st.nodes.filter (·.handle != handle), cplTail := st.cplTail + 1#32, cplFault := false,
                        failed := if bad then st.failed ++ [handle] else st.failed }
            let t := if bad then cancelDependants t handle else t
            if recCmsi n.words then { t with out := t.out ++ [.msix st.owner.toNat (2 + k)] } else t
      | _ => s)

/-- R292: the fault of a barrier object as a node's record names it: an object that breaks R123, its alignment included, is BARRIER-OBJECT. -/
def objectStop (t : Stop) : Stop := if t.code == .misaligned then objStop t.addr.toNat else t

/-- R286, R292: the graph engine reads a node's barrier object; a phase past WTOK meets the wait, and a broken object fails the node once
nothing else holds it back. -/
def execNodeBarrierWaitMet (handle : W32) (s : State) : Host.Outcome State Fault Refusal :=
  .next (
    match s.nodeOf handle with
    | none => s
    | some n =>
      let owner := nodeOwner s handle
      match n.status with
      | .posted =>
        if !(recBarrier n.words && !n.barMet && isResident s owner) then s
        else match readPhase s owner (fieldAt n.words 4) with
          | .error t => if nodeFree s n then failNode s owner handle 0#32 (objectStop t) else s
          | .ok (t, p) => if phasePast p (wordAt n.words 6) then t.mapNode handle fun n => { n with barMet := true } else t
      | _ => s)

/-! ### The pool -/

/-- R291: whether one place in the pool comes before another: PRI, then the post stamp. -/
def poolBefore (a b : Nat × Nat) : Bool := decide (a.1 < b.1) || (a.1 == b.1 && decide (a.2 < b.2))

/-- A node's place in the pool. -/
def Node.place (n : Node) : Nat × Nat := (recPri n.words, n.stamp)

/-- The nodes of the streams, each with its owner. -/
def allNodes (s : State) : List (Nat × Node) := s.streams.toList.flatMap fun st => st.nodes.map fun n => (st.owner.toNat, n)

/-- R291: whether a ready node stands first of its class: no ready node of the types given, of a resident owner, before it. -/
def firstOfClass (s : State) (n : Node) (types : List Nat) : Bool :=
  !((allNodes s).any fun x => types.contains (recType x.2.words) && isResident s x.1 && nodeReady s x.2 && poolBefore x.2.place n.place)

/-- R291: whether the graph engine may take a node of its own class. -/
def engineMayTake (s : State) (n : Node) : Bool :=
  isResident s (nodeOwner s n.handle) && nodeReady s n && firstOfClass s n [3, 4, 5]

/-- A node marked as running. -/
def runNode (s : State) (h : W32) : State := s.mapNode h fun n => { n with status := .running }

/-! ### COPY and SIGNAL -/

/-- R289, R292: the copy unit moves the next granule of a COPY node, and the node ends with its last or with a fault. -/
def execCopyNode (handle : W32) (s : State) : Host.Outcome State Fault Refusal :=
  .next (
    match s.nodeOf handle with
    | none => s
    | some n =>
      let owner := nodeOwner s handle
      if !(recType n.words == 3 && (engineMayTake s n || (n.runs && isResident s owner))) then s
      else
        let c := s.ctxOf owner
        let s := runNode s handle
        match engineRead s c (fieldAt n.words 20 + 64 * n.popped) 64 with
        | .error t => failNode s owner handle 0#32 t
        | .ok b => match engineWrite s c (fieldAt n.words 22 + 64 * n.popped) b with
          | .error t => failNode s owner handle 0#32 t
          | .ok t =>
            if 64 * (n.popped + 1) < fieldAt n.words 24 then t.mapNode handle fun n => { n with popped := n.popped + 1 }
            else t.finishNode handle 0#32)

/-- R289, R292: a SIGNAL node's write or arrival. -/
def execSignalNode (handle : W32) (s : State) : Host.Outcome State Fault Refusal :=
  .next (
    match s.nodeOf handle with
    | none => s
    | some n =>
      let owner := nodeOwner s handle
      let va := fieldAt n.words 20
      if !(recType n.words == 4 && engineMayTake s n) then s
      else match (wordAt n.words 22).toNat with
        | 0 => match engineWrite s (s.ctxOf owner) va (natBytes 4 (wordAt n.words 23).toNat) with
          | .error t => failNode s owner handle 0#32 t
          | .ok t => t.finishNode handle 0#32
        | 1 =>
          let a := arrive s owner va
          match a.token with
          | .error t => failNode a.state owner handle 0#32 (objectStop t)
          | .ok _ => a.state.finishNode handle 0#32
        | _ => s.finishNode handle 0#32)

/-! ### The tape -/

/-- R290: one turn of the TAPE node's loop: pop and launch, or complete. An entry that does not read stays on the tape (log 42). -/
def tapeTurn (s : State) (handle : W32) : State :=
  match s.nodeOf handle with
  | none => s
  | some n =>
    let k := handleStream handle
    let owner := nodeOwner s handle
    let st := s.stream k
    let count := (wordAt n.words 20).toNat
    let va := st.tapeBase.toNat + 128 * (st.tape - 1)
    if (count == 0 || n.popped < count) && st.tape != 0 then
      match engineRead s (s.ctxOf owner) va 128 with
      | .error t => failNode s owner handle 0#32 t
      | .ok b =>
        let w := bytesWords 32 b
        let s := s.mapStream k fun st => { st with tape := st.tape - 1 }
        let bad : Option Trap := if recType w != 0 then some .reservedField else recordStop s owner w
        match bad with
        | some t => failNode s owner handle 0#32 { code := t, addr := BitVec.ofNat 64 va }
        | none =>
          let h := newGridHandle s
          let g := { gridOfRecord w h owner k handle (recPri n.words) n.stamp (recSusp w) with uid := s.draw }
          State.mapNode { s with grids := s.grids ++ [g], draw := s.draw + 1 } handle fun n => { n with popped := n.popped + 1, grid := some h }
    else s.finishNode handle 0#32

/-- R290. -/
def execTapeNodeStart (handle : W32) (s : State) : Host.Outcome State Fault Refusal :=
  .next (
    match s.nodeOf handle with
    | none => s
    | some n => if recType n.words == 5 && engineMayTake s n then tapeTurn (runNode s handle) handle else s)

/-- R290: the popped grid has retired: the node fails with it, or takes its next turn. A context that has ended pops nothing more (R354). -/
def execTapePop (handle : W32) (s : State) : Host.Outcome State Fault Refusal :=
  .next (
    match s.nodeOf handle with
    | none => s
    | some n =>
      match n.grid with
      | none => s
      | some h =>
        if !(recType n.words == 5 && n.runs && (isResident s (nodeOwner s handle) || (s.ctxOf (nodeOwner s handle)).dead)) then s
        else match s.gridOf h with
          | none => s
          | some g => match g.status with
            | .retired _ fail status =>
              let s := { s with grids := s.grids.filter (·.handle != h) }
              if fail then s.finishNode handle status
              else if (s.ctxOf (nodeOwner s handle)).dead then s.finishNode handle 0x200#32
              else tapeTurn s handle
            | _ => s)

/-! ### Starting teams -/

/-- The windows that the pods of some teams hold in a column of a partition. -/
def windowsIn (ps : List Pod) (q j : Nat) : List (Nat × Nat) :=
  (ps.filter fun p => p.part == q && p.index % 16 == j).map fun p => (p.wb.toNat, 16 * p.ws.toNat)

/-- The first base, in steps, of a free stretch of a size below a limit. -/
def freeBase (used : List (Nat × Nat)) (size step limit : Nat) : Option Nat :=
  ((List.range (limit / step)).map (· * step)).find? fun b => decide (b + size ≤ limit) && used.all fun u => !rangesMeet b size u.1 u.2

/-- R22, R23: the window bases of a home bunch of n pods of W registers on partition q, when the partition has the pod slots and
every column the registers. -/
def bunchFits (ps : List Pod) (q n w : Nat) : Option (List Nat) :=
  if 64 < (ps.filter (·.part == q)).length + n then none
  else
    let bases := (List.range n).filterMap fun j => freeBase (windowsIn ps q j) w 16 512
    if bases.length == n then some bases else none

/-- R23: the pods of home bunch b placed on the first partition of an order that can take them; new pods stand in front. -/
def placeBunch (ps : List Pod) (make : Nat → Pod) (b n w : Nat) : List Nat → Option (List Pod)
  | [] => none
  | q :: qs =>
    match bunchFits ps q n w with
    | some bases => some ((List.range n).map fun j => { make (16 * b + j) with part := q, wb := BitVec.ofNat 9 (bases.getD j 0) })
    | none => placeBunch ps make b n w qs

/-- R23: the home bunches of a team from bunch b on, k of them, with pods left to place. -/
def placeBunches (s : State) (make : Nat → Pod) (w : Nat) : Nat → Nat → Nat → List Pod → List Pod → Option (List Pod)
  | 0, _, _, _, new => some new
  | k + 1, b, left, ps, new =>
    let order := (List.range 8).map fun i => (i + Config.placement s.draw b) % 8
    match placeBunch ps make b (min 16 left) w order with
    | none => none
    | some placed => placeBunches s make w k (b + 1) (left - 16) (ps ++ placed) (new ++ placed)

/-- R22: the teams that hold resources of a core: those of owners resident in its partition. -/
def teamsOn (s : State) (core : Nat) : List Team := s.teams.filter fun t => t.core == core && isResident s t.owner

/-- R25, R103: lane registers and predicates at team start are zero on a core that no team of the owner has used since the owner changed;
afterwards they are free (log 2). -/
def newPod (s : State) (g : Grid) (core n i : Nat) : Pod :=
  let used := s.used.contains core
  { Pod.reset with
    index := i, pc := g.entry, ws := g.ws, s := Vector.ofFn fun k : Fin 32 => if k.val < 16 then wordAt g.scalars k.val else 0#32,
    sp := BitVec.ofNat 64 (g.stackBase.toNat + (n * g.pods + i) * g.stackSize.toNat + g.stackSize.toNat),
    v := Vector.ofFn fun r : Fin 128 => Vector.ofFn fun l : Fin 4 => if used then Config.freeWord (s.draw * 2 ^ 20 + i * 2 ^ 10 + 4 * r.val + l.val) else 0#32,
    p := Vector.ofFn fun k : Fin 7 => if used then Config.freeMask (s.draw * 2 ^ 20 + i * 2 ^ 10 + k.val) else 0#4, bunch := s.ids + 1 + i / 16 }

/-- R48: the sprout of a new team, at the low 48 bits of SPRT; these, and that its predicates p0 to p6 are 0, are the model's choice (log 60). -/
def newSprout (g : Grid) : Pod :=
  { Pod.reset with
    index := 256, pc := g.sprout.extractLsb' 0 48, ws := 2#4, s := Vector.ofFn fun k : Fin 32 => if k.val < 16 then wordAt g.scalars k.val else 0#32 }

/-- R22, R25, R48: team n of a loaded grid on a core, when every resource is free there. Its tile store is the lowest free base of 4 KiB, which is the
model's choice (log 14): R77 says only that allocations do not overlap. -/
def placeTeam (s : State) (g : Grid) (n core : Nat) : Option Team :=
  let here := teamsOn s core
  let w := 16 * g.ws.toNat
  match freeBase (here.map fun t => (t.tileBase, t.tileSize)) (4096 * g.tile) 4096 0x180000,
        placeBunches s (newPod s g core n) w ((g.pods + 15) / 16) 0 g.pods (here.flatMap (·.pods)) [] with
  | some base, some pods =>
    some { Team.reset with
      id := s.ids, owner := g.owner, handle := g.handle, number := n, core := core, size := g.pods, mode := g.mode, tileBase := base,
      tileSize := 4096 * g.tile, pods := pods,
      sprout := if g.sprout != 0#64 && here.all (·.sprout.isNone) then some (newSprout g) else none }
  | _, _ => none

/-- The grid with its next team started on a core. -/
def startOne (s : State) (g : Grid) (core : Nat) : Option (State × Grid) :=
  match placeTeam s g g.started core with
  | none => none
  | some t =>
    some ({ s with teams := s.teams ++ [t], ids := s.ids + 1 + (g.pods + 15) / 16, draw := s.draw + 1, used := addOnce s.used core }, { g with started := g.started + 1 })

/-- R24: the next four teams of a cluster-launched grid, on the cores from one on. -/
def startFour (s : State) (g : Grid) (core : Nat) : Nat → Option (State × Grid)
  | 0 => some (s, g)
  | k + 1 => match startOne s g core with
    | none => none
    | some (t, g') => startFour t g' (core + 1) k

/-- R22, R24: the next team, or the next cluster of four teams, of a loaded grid on a core. -/
def startNext (s : State) (g : Grid) (core : Nat) : Option (State × Grid) :=
  if g.cluster then startFour s g (core - core % 4) 4 else startOne s g core

/-- R288: the limits of a kernel record. SPRT has none: its bits above a packet address are not used (log 60). -/
def kernelOk (w : List W32) : Bool :=
  let tile := ((wordAt w 4).extractLsb' 16 9).toNat
  let ws := ((wordAt w 4).extractLsb' 12 4).toNat
  let pods := ((wordAt w 4).extractLsb' 0 9).toNat
  (wordAt w 1).extractLsb' 16 16 == 0#16 && (wordAt w 4).extractLsb' 25 7 == 0#7 &&
  1 ≤ tile && tile ≤ 384 && 1 ≤ ws && ws ≤ 8 && (wordAt w 4).extractLsb' 9 3 == 0#3 && 1 ≤ pods && pods ≤ 256 && zeroWords w 5 7

/-- R131, R284, R287, R288: a grid at its start reads its kernel record and launch scalars, and the code is seen as it stands. -/
def loadGrid (s : State) (g : Grid) : Except Stop Grid :=
  if g.loaded then .ok g
  else
    let c := s.ctxOf g.owner
    match engineRead s c g.krec.toNat 32 with
    | .error t => .error t
    | .ok b =>
      let w := bytesWords 8 b
      if !kernelOk w then .error { code := .reservedField, addr := g.krec }
      else match engineRead s c g.param.toNat 64 with
        | .error t => .error t
        | .ok q =>
          .ok { g with
            loaded := true, entry := (wordAt w 1 ++ wordAt w 0).extractLsb' 0 48, sprout := wordAt w 3 ++ wordAt w 2,
            tile := ((wordAt w 4).extractLsb' 16 9).toNat, ws := (wordAt w 4).extractLsb' 12 4, pods := ((wordAt w 4).extractLsb' 0 9).toNat,
            scalars := bytesWords 16 q, code := s.mem, codeKeys := s.lineKey }

/-- Whether a grid runs and has teams that have not started. -/
def Grid.hasTeams (g : Grid) : Bool := decide (g.started < g.teams) && (match g.status with | .running => true | _ => false)

/-- R287: the grid that a ready KERNEL node becomes. -/
def gridOfNode (s : State) (n : Node) : Grid :=
  { gridOfRecord n.words (newGridHandle s) (nodeOwner s n.handle) (handleStream n.handle) n.handle (recPri n.words) n.stamp (recSusp n.words) with
    uid := s.draw }

/-- R291: the core class of an owner: its grids with teams to start and its ready KERNEL nodes. -/
def coreClass (s : State) (owner : Nat) : List Grid :=
  (s.grids.filter fun g => g.owner == owner && g.hasTeams) ++
  ((allNodes s).filter fun x => x.1 == owner && recType x.2.words == 0 && nodeReady s x.2).map fun x => gridOfNode s x.2

/-- R291: whether the next team of a grid could start on a core, or its start would fail. -/
def couldStart (s : State) (g : Grid) (core : Nat) : Bool :=
  match loadGrid s g with
  | .error _ => true
  | .ok g => (startNext s g core).isSome

/-- R24: the cores on which the next start of a grid takes place. -/
def startCores (g : Grid) (core : Nat) : List Nat := if g.cluster then (List.range 4).map fun k => core - core % 4 + k else [core]

/-- R293: whether some of the cores hold a team of a kernel of a class. -/
def holdsClass (s : State) (memBound : Bool) (cores : List Nat) : Bool :=
  cores.any fun k => (teamsOn s k).any fun t => match s.gridOf t.handle with | some g => g.memBound == some memBound | none => false

/-- R293: whether a team of a classed grid had rather start elsewhere: on a core that holds teams of the other class, when it could start
there and the core named holds none. -/
def prefersElsewhere (s : State) (g : Grid) (core : Nat) : Bool :=
  match g.memBound with
  | none => false
  | some b => !holdsClass s (!b) (startCores g core) &&
      (partCores s (s.ctxOf g.owner).part).any fun k => holdsClass s (!b) (startCores g k) && (startNext s g k).isSome

/-- R275, R292: a grid whose start fails: a KERNEL node fails, a launched grid ends terminated with the code. -/
def failStart (s : State) (g : Grid) (fromNode : Bool) (t : Stop) : State :=
  if fromNode then failNode s g.owner g.node 0#32 t
  else terminateGrids (postRecord s (graphSite g.owner g.node (if g.parent.isSome then g.handle else 0#32)) t) [g.handle] t.code.number
    (BitVec.ofNat 32 t.code.number)

/-- R291 to R293: the start of a team of a grid on a core, or of four on the cores of its cluster, after its turn has come there. -/
def startTeam (s : State) (g : Grid) (fromNode : Bool) (core : Nat) : State :=
  if (coreClass s g.owner).any fun e => poolBefore (e.pri, e.stamp) (g.pri, g.stamp) && (startCores g core).any (couldStart s e) then s
  else match loadGrid s g with
    | .error t => failStart s g fromNode t
    | .ok g => if prefersElsewhere s g core then s else match startNext s g core with
      | none => s
      | some (t, g) =>
        if fromNode then
          State.mapNode { t with grids := t.grids ++ [g], draw := t.draw + 1 } g.node fun n => { n with status := .running, grid := some g.handle }
        else t.mapGrid g.handle fun _ => g

/-- R291: what a handle names that has a team to start: a grid, or a ready KERNEL node (true). -/
def startable (s : State) (handle : W32) : List (Grid × Bool) :=
  ((s.grids.find? fun g => g.handle == handle && g.hasTeams).toList.map fun g => (g, false)) ++
  ((s.nodeOf handle).toList.filter fun n => recType n.words == 0 && nodeReady s n).map fun n => (gridOfNode s n, true)

/-- R22 to R25, R291: a team of the grid with a handle, or the first team of the KERNEL node with that handle; the earlier in the pool where both
could start. -/
def execTeamStart (handle : W32) (core : Nat) (s : State) : Host.Outcome State Fault Refusal :=
  let free (owner : Nat) : Bool := isResident s owner && (partCores s (s.ctxOf owner).part).contains core
  .next (match (startable s handle).filter fun x => free x.1.owner && couldStart s x.1 core with
    | [] => s
    | x :: xs =>
      let b := xs.foldl (fun a e => if poolBefore (e.1.pri, e.1.stamp) (a.1.pri, a.1.stamp) then e else a) x
      startTeam s b.1 b.2 core)

/-! ### Ending teams and grids -/

/-- R44: whether a team has ended: its pods, its commands, its copies and its ticketed updates. -/
def teamOver (s : State) (t : Team) : Bool :=
  (t.pods.all fun p => p.phase == .ended) && !(s.mats.any (·.team == t.id)) && (t.chans.toList.all fun c => c.current.isNone && c.queue.isEmpty) &&
  !((s.ctxOf t.owner).entries.any (·.team == t.id)) && !((s.ctxOf t.owner).image.spill.any (·.2.team == t.id))

/-- R293: the class of a kernel, fixed when the first of its teams 0 to 3 ends. That a sample of 0 bytes and 0 FLOPs, which has no ratio, is
memory-bound is the model's choice (log 41). -/
def Grid.classify (g : Grid) (number : Nat) : Grid :=
  if number < 4 && g.memBound.isNone then { g with memBound := some (decide (g.flops ≤ 4 * g.bytes)) } else g

/-- R334: the transform nodes that still write to a team that ends, on an engine or suspended, fail. -/
def failWriters (s : State) (team : Nat) : State :=
  ((s.xforms.toList.filterMap id ++ s.parked).filter (·.team == some team)).foldl (fun s x =>
    match s.nodeOf x.node with
    | some n => stopXform s x n.words (Stop.plain .regionBounds)
    | none => s) s

/-- R9, R25: what a pod's window leaves in the register files of its core. -/
def leaveWindow (core : Nat) (m : List Host.Cell) (p : Pod) : List Host.Cell :=
  (List.range (16 * p.ws.toNat)).foldl (fun m r =>
    memPut m (fileAt core (fileOffset p.part (p.wb.toNat + r) (p.index % 16) 0)) (wordsBytes ([0, 1, 2, 3].map (p.lane r)))) m

/-- R44, R49, R275, R370: a team's end releases its resources and the handles it held of its child grids, and ends its sprout. What its windows hold
stays in the register files (R25). -/
def execTeamEnd (team : Nat) (s : State) : Host.Outcome State Fault Refusal :=
  .next (
    match s.teams.find? (·.id == team) with
    | none => s
    | some t =>
      if !(teamOver s t) then s
      else
        let s := failWriters s team
        let s := if t.sprout.isSome then countCore s t.owner t.core 0x0C 1 else s
        let s := { s with teams := s.teams.filter (·.id != team), mem := t.pods.foldl (leaveWindow t.core) s.mem }
        let s := s.mapGrid t.handle fun g => { g.classify t.number with endedTeams := g.endedTeams + 1 }
        { s with grids := (s.grids.filter fun g => !(g.leader == some team && (match g.status with | .retired _ _ _ => true | _ => false))).map fun g =>
            if g.leader == some team then { g with leader := none } else g })

/-- R47: whether a grid retires: its teams have ended and its child grids have retired. -/
def gridOver (s : State) (g : Grid) : Bool :=
  let kids := s.grids.any fun k => k.parent == some g.handle && (match k.status with | .retired _ _ _ => false | _ => true)
  !kids && (match g.status with
    | .running => g.endedTeams == g.teams
    | .ending _ _ => g.endedTeams == g.started
    | .retired _ _ _ => false)

/-- R47, R276, R292: a grid retires with its CODE and FAIL. A KERNEL node's grid finishes the node; a child's handle stays for its
launcher's GWAIT, a popped grid's for the TAPE node. -/
def execGridRetirement (handle : W32) (s : State) : Host.Outcome State Fault Refusal :=
  .next (
    match s.gridOf handle with
    | none => s
    | some g =>
      if !(gridOver s g) then s
      else
        let r : Nat × Bool × W32 := match g.status with | .ending code st => (code, true, st) | _ => (0, false, 0#32)
        let keep (s : State) : State := s.mapGrid handle fun g => { g with status := .retired r.1 r.2.1 r.2.2 }
        let drop (s : State) : State := { s with grids := s.grids.filter (·.handle != handle) }
        if g.parent.isSome then (if g.leader.isSome then keep s else drop s)
        else match s.nodeOf g.node with
          | none => drop s
          | some n => if recType n.words == 5 then (if n.grid == some handle && n.runs then keep s else drop s) else (drop s).finishNode g.node r.2.2)

end Sys2Proof.Machine
end

