-- ==== Sys2Proof/Machine/Collective.lean ====
section
/-! DEFINITION. Starting COLLECTIVE nodes and fabric-queue requests (R291, R296 to R300). -/

namespace Sys2Proof.Machine

/-- R294: the fabric processors of a partition. -/
def partFabric (s : State) (part : Nat) : List Nat := (List.range 16).filter fun f => partOfDie s (f / 4) == part

/-- R296: the idle fabric processors of a partition, lowest first. That one which has executed ZHALT is not idle before its collective has ended is the
model's choice (log 45). -/
def idleFabric (s : State) (part : Nat) : List Nat :=
  (partFabric s part).filter fun f => s.fabric.any fun p => p.index == f && p.coll.isNone

/-- R291, R298: one entry of the fabric class: a node, or the next request of a queue. words stand as a node record's. -/
structure FabricWork where
  place : Nat × Nat
  node : W32
  queue : Option (Nat × Nat)
  words : List W32
  done : W64
  susp : Bool
  keys : List W32
  step : W32
  deriving DecidableEq, Repr

/-- R297: the ready COLLECTIVE nodes of an owner. -/
def nodeWork (s : State) (owner : Nat) : List FabricWork :=
  let c := s.ctxOf owner
  ((allNodes s).filter fun x => x.1 == owner && recType x.2.words == 2 && nodeReady s x.2).map fun x =>
    ⟨x.2.place, x.2.handle, none, x.2.words, 0#64, recSusp x.2.words, c.srkey.toList, c.srstep⟩

/-- R298: the next request of each enabled queue of an owner whose earlier request has completed. -/
def queueWork (s : State) (owner : Nat) : List FabricWork :=
  (s.ctxOf owner).queues.filterMap fun q => match q.requests with
    | r :: _ =>
      if r.running || !q.cfg.getLsbD 31 then none
      else some ⟨((q.cfg.extractLsb' 0 2).toNat, r.stamp), 0#32, some (q.index, r.seq), List.replicate 20 0#32 ++ r.words,
        BitVec.ofNat 64 (fieldAt r.words 12), (wordAt r.words 6).getLsbD 8, r.keys, r.step⟩
    | [] => none

/-- R291: the first of the fabric class in pool order. -/
def firstWork : List FabricWork → Option FabricWork
  | [] => none
  | x :: r => match firstWork r with
    | none => some x
    | some y => if poolBefore y.place x.place then some y else some x

/-- R299: the limits of a collective descriptor. -/
def cdsOk (w : List W32) : Bool :=
  let code := ((wordAt w 0).extractLsb' 28 3).toNat
  let blk := ((wordAt w 0).extractLsb' 25 3).toNat
  let ranks := ((wordAt w 2).extractLsb' 16 16).toNat
  (wordAt w 0).getLsbD 31 && code ≤ 3 && blk ≤ 5 && (blk != 0 || code == 0) && (wordAt w 0).extractLsb' 12 13 == 0#13 &&
  wordAt w 1 != 0#32 && 1 ≤ ranks && ranks ≤ 4096 && ((wordAt w 2).extractLsb' 0 16).toNat < ranks && (wordAt w 3).extractLsb' 8 24 == 0#24 &&
  fieldAt w 4 % 64 == 0 && fieldAt w 6 % 16 == 0 && (((wordAt w 3).extractLsb' 0 8) == 0#8 || fieldAt w 8 % 16 == 0) && zeroWords w 10 15

/-- Entries of four words from the bytes of a table. -/
def tableOf (n : Nat) (b : List Byte) : List (List W32) := (List.range n).map fun k => bytesWords 4 (b.drop (16 * k))

/-- R300, R382: the first peer entry that breaks its rules; the one at RANK names the module itself. -/
def peerStop (group : List W64) (rank base : Nat) (peers : List (List W32)) : Option Stop :=
  firstStop peers.zipIdx fun x =>
    let fea := BitVec.ofNat 64 (fieldAt x.1 0)
    let at_ : W64 := BitVec.ofNat 64 (base + 16 * x.2)
    if wordAt x.1 3 != 0#32 || (x.2 != rank && fea.extractLsb' 34 30 != 0#30) then some { code := .reservedField, addr := at_ }
    else if x.2 != rank && !group.contains fea then some { code := .permission, addr := at_ }
    else none

/-- R297, R299, R300: what a collective captures at its start, or the fault that fails it. The order of these failures, and that the SRKI which picks a
key is that of the descriptor of CDS.TID at the start, are the model's choices (log 45). -/
def captureWork (s : State) (owner id : Nat) (x : FabricWork) : Except Stop (Collective × List W32) := do
  let c := s.ctxOf owner
  let w := x.words
  if !collectiveBodyOk w x.queue.isSome || (x.queue.isSome && (!zeroWords w 34 35 || x.done.toNat % 8 != 0)) then .error (Stop.plain .reservedField)
  if (partFabric s c.part).length < ((wordAt w 26).extractLsb' 0 5).toNat then .error (Stop.plain .reservedField)
  let cds := bytesWords 16 (← engineRead s c (fieldAt w 22) 64)
  if !cdsOk cds then .error { code := .reservedField, addr := BitVec.ofNat 64 (fieldAt w 22) }
  let ranks := ((wordAt cds 2).extractLsb' 16 16).toNat
  let peers := tableOf ranks (← engineRead s c (fieldAt cds 6) (16 * ranks))
  match peerStop c.group ((wordAt cds 2).extractLsb' 0 16).toNat (fieldAt cds 6) peers with
  | some t => .error t
  | none =>
    let n := ((wordAt cds 3).extractLsb' 0 8).toNat
    let targets ← (if n == 0 then .ok [] else engineRead s c (fieldAt cds 8) (16 * n))
    let args := bytesWords 16 (← engineRead s c (fieldAt w 24) 64)
    let desc := descOf c ((wordAt cds 0).extractLsb' 0 12).toNat
    return ({ id := id, owner := owner, node := x.node, queue := x.queue, done := x.done, susp := x.susp,
              nfp := ((wordAt w 26).extractLsb' 0 5).toNat, tlim := wordAt w 27, cds := cds,
              key := x.keys.getD ((wordAt desc 0).extractLsb' 20 4).toNat 0#32, step := x.step, group := c.group, peers := peers,
              targets := tableOf n targets, stopped := [] }, args)

/-- R296: processor i of a starting collective. That PC takes the low 51 bits of PROG is the model's choice (log 45). -/
def Fabric.start (f : Fabric) (c : Collective) (prog : Nat) (args : List W32) (i : Nat) : Fabric :=
  { f with
    coll := some c.id, pc := BitVec.ofNat 51 prog, cds := c.cds, key := c.key, step := c.step, tlim := c.tlim, rank := i, phase := .ready, waitFrom := 0, errors := [],
    f := Vector.ofFn fun k : Fin 16 =>
      if k.val < 8 then wordAt args (2 * k.val + 1) ++ wordAt args (2 * k.val)
      else if k.val == 8 then BitVec.ofNat 64 i else if k.val == 9 then BitVec.ofNat 64 c.nfp else 0#64 }

/-- R296: a collective started on the processors given. -/
def placeCollective (s : State) (c : Collective) (x : FabricWork) (args : List W32) (fs : List Nat) : State :=
  let s := { s with
    ids := s.ids + 1, colls := s.colls ++ [c],
    fabric := s.fabric.map fun f => match fs.idxOf? f.index with
      | some i => f.start c (fieldAt x.words 20) args i
      | none => f }
  match x.queue with
  | some (q, seq) => s.mapCtx c.owner fun o => { o with queues := o.queues.map fun f =>
      if f.index == q then { f with requests := replaceIf f.requests (·.seq == seq) fun r => { r with running := true } } else f }
  | none => runNode s x.node

/-- R292, R297, R298: a collective that fails at start. -/
def failWork (s : State) (owner : Nat) (x : FabricWork) (t : Stop) : State :=
  match x.queue with
  | some (q, seq) => completeRequest (postRecord s (graphSite owner 0#32 0#32) t) owner q seq x.done t.code.number
  | none => failNode s owner x.node 0#32 t

/-- R291, R296, R297: the first of the fabric class of a partition's resident owner starts when enough processors are idle, and fails then; one that
asks for more than the partition has fails at once. A context that has ended starts nothing (R354). -/
def execCollectiveStart (part : Nat) (s : State) : Host.Outcome State Fault Refusal :=
  .next (match s.resident.getD part none with
    | none => s
    | some owner => if (s.ctxOf owner).dead then s else match firstWork (nodeWork s owner ++ queueWork s owner) with
      | none => s
      | some x =>
        let n := ((wordAt x.words 26).extractLsb' 0 5).toNat
        let fs := idleFabric s part
        if fs.length < n && n ≤ (partFabric s (s.ctxOf owner).part).length then s
        else match captureWork s owner s.ids x with
          | .error t => failWork s owner x t
          | .ok (c, args) => placeCollective s c x args (fs.take n))

end Sys2Proof.Machine
end

