-- ==== Sys2Proof/Machine/Inflate.lean ====
section
/-! DEFINITION. Decoding for the transform engines, one piece of the source after another: raw Deflate (RFC 1951, R338) and STS streams (R339 to
R342). A decoder holds all that it needs of what it has read, so that it goes on from any point at which a world switch stops it (R344). -/

namespace Sys2Proof.Machine

/-! ### Deflate -/

/-- The bits of bytes, least significant first. -/
def bitsOf (l : List Byte) : List Bool := l.flatMap fun b => (List.range 8).map fun i => b.getLsbD i

/-- n bits as a number, least significant first; none when they run out. -/
def takeBits : Nat → List Bool → Option (Nat × List Bool)
  | 0, l => some (0, l)
  | _ + 1, [] => none
  | n + 1, b :: l => (takeBits n l).map fun r => ((if b then 1 else 0) + 2 * r.1, r.2)

/-- What a decoder finds: a value with the bits that remain, too few bits, or a breach with the bits that remain. -/
inductive Got (α : Type) where
  | ok (a : α) (rest : List Bool)
  | more
  | bad (rest : List Bool)
  deriving DecidableEq, Repr

/-- A canonical code: the number of codes of each length from 1 to 15, and the symbols in code order. -/
structure Huff where
  counts : List Nat
  syms : List Nat

/-- A canonical code from the lengths of its symbols. -/
def huffOf (lens : List Nat) : Huff :=
  { counts := (List.range 15).map fun k => lens.count (k + 1),
    syms := (List.range 15).flatMap fun k => (lens.zipIdx.filter fun x => x.1 == k + 1).map (·.2) }

/-- Codes left over after lengths 1 to 15: none when the code is oversubscribed, 0 when it is complete. -/
def huffLeft : List Nat → Nat → Option Nat
  | [], left => some left
  | c :: cs, left => if 2 * left < c then none else huffLeft cs (2 * left - c)

/-- Whether a code is complete. -/
def huffComplete (lens : List Nat) : Bool := huffLeft (huffOf lens).counts 1 == some 0

/-- R338: whether a distance code is usable: complete, one code of one bit, or none at all. -/
def huffDistance (lens : List Nat) : Bool :=
  huffComplete lens || lens.all (· == 0) || ((lens.filter (· != 0)) == [1])

/-- One symbol of a canonical code. -/
def huffGo (syms : List Nat) : List Nat → List Bool → Nat → Nat → Nat → Got Nat
  | [], l, _, _, _ => .bad l
  | _ :: _, [], _, _, _ => .more
  | c :: cs, b :: l, code, first, index =>
    let code := code + (if b then 1 else 0)
    if code < first + c then .ok (syms.getD (index + (code - first)) 0) l
    else huffGo syms cs l (2 * code) (2 * (first + c)) (index + c)

/-- One symbol. -/
def huffSym (h : Huff) (l : List Bool) : Got Nat := huffGo h.syms h.counts l 0 0 0

/-- RFC 1951: the base length and extra bits of length symbols 257 to 285. -/
def lengthCode (k : Nat) : Nat × Nat :=
  if k < 8 then (k + 3, 0)
  else if k == 28 then (258, 0)
  else ((4 + k % 4) * 2 ^ (k / 4 - 1) + 3, k / 4 - 1)

/-- RFC 1951: the base distance and extra bits of distance codes 0 to 29. -/
def distanceCode (k : Nat) : Nat × Nat := if k < 4 then (k + 1, 0) else ((2 + k % 2) * 2 ^ (k / 2 - 1) + 1, k / 2 - 1)

/-- n bytes copied from a distance back; the output stands newest first. -/
def copyBack (d : Nat) : Nat → List Byte → List Byte
  | 0, out => out
  | n + 1, out => copyBack d n (out.getD (d - 1) 0#8 :: out)

/-- R338: a decoder whose Deflate stream puts out bytes, newest first. -/
def Decoder.emit (d : Decoder) (out : List Byte) : Decoder := { d with window := (out ++ d.window).take 32768, ready := d.ready + out.length }

/-- R338: a decoder at the end of a block. -/
def Decoder.endBlock (d : Decoder) : Decoder := { d with block := if d.final then .over else .head }

/-- R338: one symbol of a block, with the length and distance that it brings. -/
def inflateSymbol (d : Decoder) (lit dist : Huff) (l : List Bool) : Got Decoder :=
  match huffSym lit l with
  | .more => .more
  | .bad r => .bad r
  | .ok k r =>
    if k < 256 then .ok (d.emit [BitVec.ofNat 8 k]) r
    else if k == 256 then .ok d.endBlock r
    else if 285 < k then .bad r
    else
      let c := lengthCode (k - 257)
      match takeBits c.2 r with
      | none => .more
      | some (x, r) => match huffSym dist r with
        | .more => .more
        | .bad r => .bad r
        | .ok q r =>
          if 29 < q then .bad r
          else
            let e := distanceCode q
            match takeBits e.2 r with
            | none => .more
            | some (y, r) =>
              let n := c.1 + x
              if d.window.length < e.1 + y then .bad r else .ok (d.emit ((copyBack (e.1 + y) n d.window).take n)) r

/-- RFC 1951: the order of the code-length code's lengths. -/
def lengthOrder : List Nat := [16, 17, 18, 0, 8, 7, 9, 6, 10, 5, 11, 4, 12, 3, 13, 2, 14, 1, 15]

/-- n lengths of three bits. -/
def takeThrees : Nat → List Bool → Option (List Nat × List Bool)
  | 0, l => some ([], l)
  | n + 1, l => (takeBits 3 l).bind fun x => (takeThrees n x.2).map fun r => (x.1 :: r.1, r.2)

/-- The code lengths of a dynamic block, total of them, newest first in acc; fuel is their number. -/
def codeLengths (h : Huff) (total : Nat) : Nat → List Nat → List Bool → Got (List Nat)
  | 0, acc, l => if acc.length == total then .ok acc.reverse l else .bad l
  | fuel + 1, acc, l =>
    if acc.length == total then .ok acc.reverse l
    else match huffSym h l with
      | .more => .more
      | .bad r => .bad r
      | .ok k r =>
        if k < 16 then codeLengths h total fuel (k :: acc) r
        else
          let w := if k == 16 then 2 else if k == 17 then 3 else 7
          let base := if k == 18 then 11 else 3
          match takeBits w r with
          | none => .more
          | some (x, r) =>
            if (k == 16 && acc.isEmpty) || total < acc.length + base + x then .bad r
            else codeLengths h total fuel (List.replicate (base + x) (if k == 16 then acc.headD 0 else 0) ++ acc) r

/-- Code lengths for n symbols: the symbols that a block does not name have none. -/
def fullLengths (n : Nat) (lens : List Nat) : List Nat := lens ++ List.replicate (n - lens.length) 0

/-- The code lengths of the two codes of a dynamic block. -/
def dynamicCodes (l : List Bool) : Got (List Nat × List Nat) :=
  match takeBits 14 l with
  | none => .more
  | some (x, r) =>
    let hlit := x % 32 + 257
    let hdist := x / 32 % 32 + 1
    match takeThrees (x / 1024 + 4) r with
    | none => .more
    | some (ls, r) =>
      let lens := (List.range 19).map fun k => match lengthOrder.idxOf? k with
        | some i => ls.getD i 0
        | none => 0
      if 286 < hlit || !huffComplete lens then .bad r
      else match codeLengths (huffOf lens) (hlit + hdist) (hlit + hdist) [] r with
        | .more => .more
        | .bad r => .bad r
        | .ok all r =>
          if huffComplete (all.take hlit) && huffDistance (all.drop hlit) then .ok (fullLengths 288 (all.take hlit), fullLengths 32 (all.drop hlit)) r
          else .bad r

/-- RFC 1951: the code lengths of the fixed codes. -/
def fixedLit : List Nat := List.replicate 144 8 ++ List.replicate 112 9 ++ List.replicate 24 7 ++ List.replicate 8 8
/-- RFC 1951. -/
def fixedDist : List Nat := List.replicate 32 5

/-- R338: the head of a block. The bits end at a byte's end, so that what a stored block skips is what is over of whole bytes. -/
def inflateHead (d : Decoder) (l : List Bool) : Got Decoder :=
  match takeBits 3 l with
  | none => .more
  | some (x, r) =>
    let d := { d with final := x % 2 == 1 }
    match x / 2 with
    | 0 => match takeBits 32 (r.drop (r.length % 8)) with
      | none => .more
      | some (n, r) =>
        if n % 65536 + n / 65536 != 65535 then .bad r
        else .ok (if n % 65536 == 0 then d.endBlock else { d with block := .stored (n % 65536) }) r
    | 1 => .ok { d with block := .codes fixedLit fixedDist } r
    | 2 => match dynamicCodes r with
      | .more => .more
      | .bad r => .bad r
      | .ok h r => .ok { d with block := .codes h.1 h.2 } r
    | _ => .bad r

/-- R338: the next piece of a Deflate stream: the head of a block, a stored byte, or a symbol. -/
def inflateStep (d : Decoder) (l : List Bool) : Got Decoder :=
  match d.block with
  | .head => inflateHead d l
  | .stored n => match takeBits 8 l with
    | none => .more
    | some (b, r) =>
      let d := d.emit [BitVec.ofNat 8 b]
      .ok (if n ≤ 1 then d.endBlock else { d with block := .stored (n - 1) }) r
  | .codes lit dist => inflateSymbol d (huffOf lit) (huffOf dist) l
  | .over => .more

/-! ### STS -/

/-- One byte of CRC-32C in its reflected form: eight steps. -/
def crcStep : Nat → BitVec 32 → BitVec 32
  | 0, c => c
  | n + 1, c => crcStep n (if c.getLsbD 0 then (c >>> 1) ^^^ 0x82F63B78#32 else c >>> 1)

/-- R342: CRC-32C. -/
def crc32c (l : List Byte) : BitVec 32 := ~~~(l.foldl (fun c b => crcStep 8 (c ^^^ b.zeroExtend 32)) 0xFFFFFFFF#32)

/-- R339: the header, when its bytes obey the table. -/
def stsHeader (b : List Byte) : Option StsHeader :=
  let n (k w : Nat) := bytesNat ((b.drop k).take w)
  let zero (k w : Nat) := n k w == 0
  let tw := n 6 2
  let th := n 8 2
  if b.take 5 == [0x53#8, 0x54#8, 0x53#8, 0x31#8, 1#8] && zero 5 1 && zero 10 2 && zero 16 16 && tw != 0 && th != 0 && tw * th ≤ 32768 &&
     n 12 4 != 0 && n 12 4 ≤ 2 ^ 24 then some ⟨tw, th, n 12 4⟩ else none

/-- R340: whether a record head obeys the table, for tile n of S bytes. -/
def stsHeadOk (b : List Byte) (n size : Nat) : Bool :=
  let b0 := (b.getD 0 0#8).toNat
  let rk := b0 % 4
  let pred := b0 / 4 % 4
  let dist := (b.getD 1 0#8).toNat
  let plen := bytesNat ((b.drop 4).take 4)
  b0 < 16 && rk != 3 && pred != 3 && bytesNat ((b.drop 2).take 2) == 0 &&
  (if rk == 2 then pred == 0 && 1 ≤ dist && dist ≤ 64 && dist ≤ n && plen == 0
   else dist == 0 && (if rk == 0 then plen == size else plen != 0))

/-- R341: S, the bytes of a tile. -/
def StsHeader.size (h : StsHeader) : Nat := 2 * h.tw * h.th

/-- R339: the granules of a tile. -/
def StsHeader.granules (h : StsHeader) : Nat := (h.size + 63) / 64

/-- R341: the next sample of a tile from its residual r under a predictor, after the samples of the bytes before it. -/
def nextSample (pred tw r : Nat) (cur : List Byte) : Nat :=
  let n := cur.length / 2
  let out (k : Nat) : Nat := bytesNat ((cur.drop (2 * k)).take 2)
  let left := if n % tw == 0 then 0 else out (n - 1)
  let up := if n < tw then 0 else out (n - tw)
  (r + match pred with
    | 0 => 0
    | 1 => left
    | _ => (left + up) / 2) % 65536

/-- R341: a tile's bytes with the samples of further residual bytes, as far as they are pairs. -/
def addSamples (pred tw : Nat) : List Byte → List Byte → List Byte
  | a :: b :: l, cur => addSamples pred tw l (cur ++ natBytes 2 (nextSample pred tw (bytesNat [a, b]) cur))
  | _, cur => cur

/-! ### A decoder on its source -/

/-- What a decoder does with the source bytes at hand: it goes on, needs more, or breaks a rule at a source offset. -/
inductive Stride where
  | on (x : Xform)
  | needs
  | broken (offset : Nat)
  deriving DecidableEq, Repr

/-- The source offset of the first byte of which nothing is decoded. -/
def Xform.place (x : Xform) : Nat := x.got - x.buf.length + (if x.dec.bit == 0 then 0 else 1)

/-- R338: one piece of the Deflate stream in the next limit bytes of the source; one that those bytes end within is broken. -/
def deflateStride (x : Xform) (limit : Nat) : Stride :=
  let view := x.buf.take limit
  let at_ := x.got - x.buf.length
  match inflateStep x.dec ((bitsOf view).drop x.dec.bit) with
  | .more => if limit ≤ x.buf.length then .broken (at_ + limit) else .needs
  | .bad r => .broken (at_ + (view.length - r.length / 8))
  | .ok d r => .on { x with buf := x.buf.drop (view.length - (r.length + 7) / 8), dec := { d with bit := (8 - r.length % 8) % 8 } }

/-- R339: the header of an STS stream. -/
def headerStride (x : Xform) : Stride :=
  if x.buf.length < 32 then .needs
  else match stsHeader x.buf with
    | none => .broken x.place
    | some h => .on { x with buf := x.buf.drop 32, dec := { x.dec with header := some h } }

/-- R340, R341: the head of a tile's record: the engine makes room for the tile in its cache of 64, and a back-reference takes its bytes from there. -/
def recordStride (x : Xform) (h : StsHeader) : Stride :=
  if x.buf.length < 8 then .needs
  else if !stsHeadOk x.buf x.checked h.size then .broken x.place
  else
    let b0 := (x.buf.getD 0 0#8).toNat
    let dist := (x.buf.getD 1 0#8).toNat
    .on { x with buf := x.buf.drop 8, dec := { Decoder.reset with
            header := some h, tile := some ⟨b0 % 4, b0 / 4 % 4, bytesNat ((x.buf.drop 4).take 4)⟩, tiles := x.dec.tiles.take 63,
            cur := if b0 % 4 == 2 then x.dec.tiles.getD (dist - 1) [] else [] } }

/-- R340, R341: one sample of a literal tile. -/
def literalStride (x : Xform) (h : StsHeader) (t : StsRecord) : Stride :=
  if x.buf.length < 2 then .needs
  else .on { x with buf := x.buf.drop 2, dec := { x.dec with tile := some { t with left := t.left - 2 }, cur := addSamples t.pred h.tw (x.buf.take 2) x.dec.cur } }

/-- R340, R341: one piece of a Deflate tile: its residual bytes become samples pair by pair; more than S of them break the record. -/
def residualStride (x : Xform) (h : StsHeader) (t : StsRecord) : Stride :=
  match deflateStride x t.left with
  | .on y =>
    let d := y.dec
    if h.size < d.cur.length + d.ready then .broken y.place
    else .on { y with dec := { d with
      tile := some { t with left := t.left - (x.buf.length - y.buf.length) }, ready := d.ready % 2,
      cur := addSamples t.pred h.tw (d.window.take d.ready).reverse d.cur } }
  | r => r

/-- R338, R340: what is left of a tile's payload after its Deflate stream, ignored. -/
def skipStride (x : Xform) (t : StsRecord) : Stride :=
  if x.buf.isEmpty then .needs
  else .on { x with buf := x.buf.drop t.left, dec := { x.dec with bit := 0, tile := some { t with left := t.left - x.buf.length } } }

/-- R338 to R342: what the decoder of a node of a KIND does while no granule and no check is due. A Deflate tile whose stream ends before S bytes is
broken. -/
def decodeStride (kind : Nat) (x : Xform) : Stride :=
  match kind, x.dec.header, x.dec.tile with
  | 0, _, _ => .needs
  | 1, _, _ => deflateStride x (x.buf.length + 1)
  | _, none, _ => headerStride x
  | _, some h, none => recordStride x h
  | _, some h, some t =>
    if t.rk == 0 && x.dec.cur.length < h.size then literalStride x h t
    else if t.rk == 1 && x.dec.block != .over then residualStride x h t
    else if x.dec.cur.length < h.size then .broken x.place
    else if t.left != 0 then skipStride x t
    else .needs

end Sys2Proof.Machine
end

