-- ==== Sys2Proof/Machine/Transfer.lean ====
section
/-! DEFINITION. Transfers of fabric processors: ZSEND, ZAGS, ZFETCH, ZCKPT, ZCLONE (R310 to R313, R324), their answers, and what
arrives at the module's windows (R300, R312, R327). -/

namespace Sys2Proof.Machine

/-! ### The instructions -/

/-- R310: the alignment and length of a register group; handle tells that fA holds a transform input handle, flag that fA+3 holds a
flag offset; the kinds are those of the local and the remote access. -/
def groupCheck (s : State) (a : BitVec 4) (handle flag : Bool) (near far : Nat) : Except Halt Unit :=
  let off (v : W64) (kind : Nat) : Stop := { code := .misaligned, addr := v, info1 := BitVec.ofNat 32 kind }
  let len := (fgroup s a 2).toNat
  if !handle && (fgroup s a 0).toNat % 64 != 0 then .error (.trap (off (fgroup s a 0) near))
  else if (fgroup s a 1).toNat % 64 != 0 then .error (.trap (off (fgroup s a 1) far))
  else if len % 64 != 0 then .error (.trap (off 0#64 0))
  else if flag && (fgroup s a 3).toNat % 4 != 0 then .error (.trap (off (fgroup s a 3) far))
  else if len == 0 || 2 ^ 40 < len then .error (.trap (zilkanStop 0))
  else .ok ()

/-- R310, R311: the transfer that a group describes. -/
def groupTransfer (s : State) (t : Transfer) (a : BitVec 4) (w : Nat) : Transfer :=
  { t with win := w, place := fgroup s a 0, remote := fgroup s a 1, len := (fgroup s a 2).toNat }

/-- R311: the whole local range of a posted transfer reads without a fault; then it is posted, and the processor goes on once its
source bytes have been read. -/
def postTransfer (s : State) (t : Transfer) : Except Halt State := do
  let _ ← orTrap (engineRead s s.ctx t.place.toNat t.len)
  let u := (s.addTransfer t).fnext
  return { u with fp := { u.fp with phase := .waiting .launch s.clock, waitFrom := s.fabClock } }

/-- R310, R311. -/
def execZsend (d a w : BitVec 4) (s : State) : Host.Outcome State Fault Refusal :=
  settle s (do
    groupCheck s a false false accRead accWrite
    let k ← peerOf s (freg s d)
    postTransfer s (groupTransfer s (newTransfer s .send k s.coll.peers (k == s.coll.rank)) a w.toNat))

/-- R310, R311. -/
def execZags (d a b w : BitVec 4) (s : State) : Host.Outcome State Fault Refusal :=
  settle s (do
    groupCheck s a false true accRead accWrite
    let k ← peerOf s (freg s d)
    let t := groupTransfer s (newTransfer s .ags k s.coll.peers (k == s.coll.rank)) a w.toNat
    postTransfer s { t with flag := some (fgroup s a 3, (freg s b).extractLsb' 0 32) })

/-- R310, R324. -/
def execZckpt (d a : BitVec 4) (s : State) : Host.Outcome State Fault Refusal :=
  settle s (do
    groupCheck s a false false accRead accWrite
    let k ← targetOf s (freg s d)
    postTransfer s (groupTransfer s (newTransfer s .ckpt k s.coll.targets false) a 0))

/-- R311: a waited transfer requested; the processor stands at it until every byte has landed. -/
def awaitTransfer (s : State) (t : Transfer) : State :=
  let u := s.addTransfer { t with read := true }
  let u := if t.inside then u else sendOut u s.fp.index (.read s.fp.index t.entry t.win t.remote t.len) 0
  { u with fp := { u.fp with phase := .waiting .engine s.clock, waitFrom := s.fabClock } }

/-- R335: the unfinished TRANSFORM node of the owner with INSRC = 1 that a handle names. -/
def inputNode (s : State) (owner : Nat) (h : W64) : Option Node :=
  if h.extractLsb' 32 32 != 0#32 || nodeOwner s (h.extractLsb' 0 32) != owner then none
  else (s.nodeOf (h.extractLsb' 0 32)).filter fun n => recType n.words == 1 && xfInsrc n.words &&
    (match n.status with | .finished _ => false | _ => true)

/-- R310, R335. -/
def execZfetch (d a : BitVec 4) (t : BitVec 1) (s : State) : Host.Outcome State Fault Refusal :=
  let tx := t == 1#1
  settle s (do
    groupCheck s a tx false accWrite accRead
    let k ← targetOf s (freg s d)
    let x := groupTransfer s (newTransfer s .fetch k s.coll.targets false) a 0
    if tx then
      require (inputNode s s.ctx.owner x.place).isSome (accStop .permission x.place.toNat accWrite)
      return awaitTransfer s { x with input := some (x.place.extractLsb' 0 32) }
    else
      orTrap (translateRange s s.ctx accWrite 0 (pagesOf x.place.toNat x.len))
      return awaitTransfer s x)

/-- R319: the residual buffer descriptor. -/
structure Residual where
  addr : Nat
  bf16 : Bool
  gen : W32
  base : Nat
  size : Nat
  deriving DecidableEq, Repr

/-- RESIDUAL-BUFFER with its cause and address (R348). -/
def residualStop (cause addr : Nat) : Stop := { code := .residualBuffer, cause := cause, addr := BitVec.ofNat 64 addr }

/-- R319, R320: the residual buffer descriptor that CDS.RBD names, or RESIDUAL-BUFFER; unread gives the fault of a descriptor that does not
read. -/
def residualOf (s : State) (unread : Nat → Stop → Stop) : Except Stop Residual :=
  let a := fieldAt s.coll.cds 4
  if a == 0 then .error (residualStop 0 0)
  else match engineRead s s.ctx a 64 with
    | .error t => .error (unread a t)
    | .ok b =>
      let w := bytesWords 16 b
      let base := fieldAt w 2
      let size := fieldAt w 4
      if !(wordAt w 0).getLsbD 31 || (wordAt w 0).extractLsb' 0 30 != 0#30 || !zeroWords w 6 15 || base % 64 != 0 || size % 64 != 0 ||
         2 ^ 40 < size then .error (residualStop 1 a)
      else .ok ⟨a, (wordAt w 0).getLsbD 30, wordAt w 1, base, size⟩

/-- R320: the fault of a hop whose residual descriptor does not read. -/
def hopUnread (a : Nat) (t : Stop) : Stop := residualStop (if t.code == .uncorrectable then 4 else 3) a

/-- R301, R313: the residual buffer that a ZCLONE with RZ resets, once every page of it and its descriptor can be written. -/
def residualReset (s : State) : Except Stop Residual := do
  let b ← residualOf s fun _ t => t
  translateRange s s.ctx accWrite 0 (pagesOf b.base b.size)
  translateRange s s.ctx accWrite 0 (pagesOf b.addr 64)
  return b

/-- R310, R313. -/
def execZclone (d a : BitVec 4) (r : BitVec 1) (w : BitVec 4) (s : State) : Host.Outcome State Fault Refusal :=
  settle s (do
    groupCheck s a false false accWrite accRead
    let k ← peerOf s (freg s d)
    let x := groupTransfer s (newTransfer s .clone k s.coll.peers (k == s.coll.rank)) a w.toNat
    orTrap (translateRange s s.ctx accWrite 0 (pagesOf x.place.toNat x.len))
    if r == 1#1 then
      let _ ← orTrap (residualReset s)
      return awaitTransfer s { x with rz := true }
    else return awaitTransfer s x)

/-! ### Answers -/

/-- A processor changed wherever it stands: among the processors, or saved with its owner's context (R332). -/
def mapHolder (s : State) (xfer : Nat) (g : Fabric → Fabric) : State :=
  let has (f : Fabric) : Bool := f.transfers.any (·.id == xfer)
  { s with fabric := replaceIf s.fabric has g, owners := s.owners.map fun c => { c with processors := replaceIf c.processors has g } }

/-- A listed transfer and its processor. -/
def findTransfer (s : State) (f xfer : Nat) : Option (Fabric × Transfer) :=
  (s.fabric ++ s.owners.flatMap (·.processors)).findSome? fun p =>
    if p.index == f then (p.transfers.find? (·.id == xfer)).map fun t => (p, t) else none

/-- A transfer taken off its processor's list. -/
def dropTransfer (s : State) (xfer : Nat) : State :=
  mapHolder s xfer fun f => { f with transfers := f.transfers.filter (·.id != xfer) }

/-- A transfer changed in its processor's list. -/
def mapTransfer (s : State) (xfer : Nat) (g : Transfer → Transfer) : State :=
  mapHolder s xfer fun f => { f with transfers := replaceIf f.transfers (·.id == xfer) g }

/-- R311, R330: a processor past its waited transfer: it goes on, or, where its collective is over, it is idle. -/
def passWaited (s : State) (t : Transfer) : State :=
  mapHolder s t.id fun p =>
    match p.phase with
    | .waiting .engine _ =>
      if p.coll != some t.coll || t.posted then p
      else if s.colls.any (·.id == t.coll) then { p with pc := p.pc + 4#51, phase := .ready } else p.idle
    | _ => p

/-- R311, R330, R348: a fault that a processor raises at the transfer it stands at, wherever it is held: it stands n bytes before its PC, the
transfer is dropped, and its collective is suspended or ends. A transfer of a collective that is over leaves a record only (log 45). -/
def faultWaiting (s : State) (f xfer : Nat) (n : BitVec 51) (e : Stop) : State :=
  match findTransfer s f xfer with
  | none => s
  | some (p, t) =>
    match s.colls.find? fun k => p.coll == some k.id && t.coll == k.id with
    | none => dropTransfer (passWaited (postRecord s (windowSite t.owner f) e) t) xfer
    | some k =>
      let p := { p with pc := p.pc - n }
      let seq := (s.ctxOf t.owner).seq
      let u := postRecord s (fabricSite { s with fp := p, coll := k, ctx := s.ctxOf t.owner }) e
      let u := mapHolder u xfer fun q => { q with pc := p.pc, phase := if k.susp then .suspended seq else q.phase }
      let u := dropTransfer u xfer
      if k.susp then { u with colls := replaceIf u.colls (·.id == k.id) fun c => { c with stopped := c.stopped ++ [seq] } }
      else endCollective u k.id e.code.number

/-- R311: a processor that stands at a transfer of its collective, changed. -/
def freeHolder (s : State) (t : Transfer) (g : Fabric → Fabric) : State :=
  mapHolder s t.id fun p => if p.coll == some t.coll then g p else p

/-- R311: the source bytes of a posted transfer are read and sent, and its processor goes on; a source that no longer reads stops the
processor before the transfer. -/
def localCompletion (s : State) (f : Nat) (t : Transfer) : State :=
  match engineRead s (s.ctxOf t.owner) t.place.toNat t.len with
  | .error e => faultWaiting s f t.id 4#51 e
  | .ok b =>
    let s := freeHolder s t fun p => { p with phase := .ready }
    let s := mapTransfer s t.id fun x => { x with read := true, data := if t.inside then b else [] }
    if t.inside then s else sendOut s f (.write f t.entry t.win t.remote b) t.len

/-- Whether a processor waits until the source of its posted transfer has been read. -/
def Fabric.posting (f : Fabric) : Bool := match f.phase with | .waiting .launch _ => true | _ => false

/-- R311, R330, R332: the local completion of a posted transfer, whose processor waits for it, or has left the collective that posted it. -/
def execPostedTransferLocalCompletion (f xfer : Nat) (s : State) : Host.Outcome State Fault Refusal :=
  .next (match findTransfer s f xfer with
    | none => s
    | some (p, t) => if t.read || !t.posted || (p.coll == some t.coll && !p.posting) then s else localCompletion s f t)

/-- R124, R348: the access that a record of a refused transfer names: an arrival changes its object as an atomic does. -/
def Transfer.access (t : Transfer) : Nat :=
  match t.kind with
  | .arrival => accAtomic
  | _ => if t.posted then accWrite else accRead

/-- R312, R327, R348: the refusal of a transfer, kept until the next release or ZHALT of its program reports it. -/
def noteRefusal (s : State) (t : Transfer) (code : Nat) : State :=
  let e : Stop := { code := if code == Trap.barrierObject.number then .barrierObject else .permission, addr := t.remote, info0 := BitVec.ofNat 32 t.peer,
                    info1 := if code == Trap.barrierObject.number then 0#32 else BitVec.ofNat 32 t.access }
  dropTransfer (mapHolder s t.id fun f => if f.coll == some t.coll then { f with errors := f.errors ++ [e] } else f) t.id

/-- R310 to R312: what a posted transfer's target answers; inside the module, what its own windows do. -/
def answerOf (s : State) (f : Nat) (t : Transfer) (refusal : Nat) : State × Nat :=
  if !t.inside then (s, refusal)
  else match t.kind with
    | .arrival => landArrival s t.owner f t.win t.remote
    | _ =>
      let r := landWrite s t.owner f t.win t.remote t.data
      (r.1, if r.2 then 0 else Trap.permission.number)

/-- R310, R326: whether the flag of a ZAGS goes out: its data has landed, and every earlier posted transfer of its processor has been
acknowledged. -/
def flagDue (p : Fabric) (t : Transfer) : Bool := t.acked && !(p.transfers.any fun x => x.posted && x.coll == t.coll && decide (x.id < t.id))

/-- R310: the flag of a ZAGS sent, or, inside the module, on its way. -/
def sendFlag (s : State) (f : Nat) (t : Transfer) : State :=
  match t.flag with
  | none => s
  | some (off, v) =>
    let b := natBytes 4 v.toNat
    let u := mapTransfer s t.id fun t => { t with flag := none, acked := false, remote := off, len := 4, data := if t.inside then b else [] }
    if t.inside then u else sendOut u f (.write f t.entry t.win off b) 4

/-- R310, R326: the flags that an acknowledgement lets a processor's transfers send. -/
def sendFlags (s : State) (f : Nat) : State :=
  ((s.fabric ++ s.owners.flatMap (·.processors)).filter (·.index == f)).foldl (fun s p => (p.transfers.filter (flagDue p)).foldl (fun s t => sendFlag s f t) s) s

/-- R310 to R312, R330: the answer to a posted transfer: landed, or refused with a code. ZAGS's flag follows its data once the data and every
earlier posted transfer have been acknowledged, and a refused waited transfer lets its processor go on. -/
def execTransferAcknowledgement (f xfer refusal : Nat) (s : State) : Host.Outcome State Fault Refusal :=
  .next (match findTransfer s f xfer with
    | none => s
    | some (_, t) =>
      if !t.read || t.acked then s
      else if !t.posted then
        (if refusal == 0 || t.inside then s
         else noteRefusal (passWaited s t) t refusal)
      else
        let r := answerOf s f t refusal
        sendFlags (if r.2 != 0 then noteRefusal r.1 t r.2
          else if t.flag.isSome then mapTransfer r.1 xfer fun t => { t with acked := true }
          else dropTransfer r.1 xfer) f)

/-- R313: the residual buffer zeroed and then its generation advanced, from what the descriptor holds once the buffer is zero. -/
def resetResidual (s : State) (x : Site) (c : Context) (b : Residual) : State :=
  let s := putDiscarding s x c b.base (List.replicate b.size 0#8)
  let gen := match engineRead s (s.ctxOf c.owner) (b.addr + 4) 4 with
    | .ok l => bytesNat l
    | .error _ => b.gen.toNat
  putDiscarding s x (s.ctxOf c.owner) (b.addr + 4) (natBytes 4 (gen + 1))

/-- R311, R313, R330: the bytes of a waited transfer land in its range, and under RZ the residual buffer that its descriptor then names is reset; a
fault leaves nothing written. -/
def landWaited (s : State) (f : Nat) (p : Fabric) (t : Transfer) (bytes : List Byte) : Except Stop State := do
  let x : Site := windowSite t.owner f
  let c := s.ctxOf t.owner
  translateRange s c accWrite 0 (pagesOf t.place.toNat t.len)
  let u := putDiscarding s x c t.place.toNat bytes
  if t.rz then
    let b ← residualReset { u with coll := p.view Collective.reset, ctx := u.ctxOf t.owner }
    return resetResidual u x (u.ctxOf t.owner) b
  else return u

/-- R311: a waited transfer complete: its processor goes on. -/
def endWaited (s : State) (t : Transfer) : State := dropTransfer (passWaited s t) t.id

/-- R221, R301, R312: the bytes of a waited transfer: those that arrived, or, inside the module, those of its own windows; none where its
windows refuse it, or where nothing more has come. -/
def waitedBytes (s : State) (t : Transfer) (bytes : List Byte) : Except Stop (Option (List Byte)) :=
  if t.inside then
    match windowPlace s (s.ctxOf t.owner) t.win t.remote t.len accRead with
    | none => .ok none
    | some va => (engineRead s (s.ctxOf t.owner) va t.len).map some
  else .ok (if bytes.length == t.len then some bytes else none)

/-- R310 to R313, R332, R335: every byte of a waited transfer has arrived. Inside the module its own windows serve it; with TX its
bytes have gone to the transform input. -/
def execWaitedTransferCompletion (f xfer : Nat) (bytes : List Byte) (s : State) : Host.Outcome State Fault Refusal :=
  .next (match findTransfer s f xfer with
    | none => s
    | some (p, t) =>
      match p.phase with
      | .waiting .engine _ =>
        if t.posted || p.coll != some t.coll then s
        else if t.input.isSome then (if t.landed == t.len then endWaited s t else s)
        else
          match waitedBytes s t bytes with
          | .error e => faultWaiting s f xfer 0#51 e
          | .ok none =>
            if t.inside then noteRefusal (passWaited (refuseWindow s t.owner f t.remote accRead) t) t Trap.permission.number
            else s
          | .ok (some b) => match landWaited s f p t b with
            | .error e => faultWaiting s f xfer 0#51 e
            | .ok u => endWaited (if t.inside then u else countFabric u f 0x02 b.length 64) t
      | _ => s)

/-! ### Arrivals from the fabric -/

/-- R300, R383: the owner for which Hernus loaded the key of a job. -/
def jobOwner (s : State) (job : W32) : Option Nat := (s.owners.find? fun c => c.jobs.contains job).map (·.owner)

/-- R7, R300: the owner for which a message of a job arrives on a port. -/
def arrivalOwner (s : State) (job : W32) (port : Nat) : Option Nat := if port < 48 then jobOwner s job else none

/-- R300, R312: whether an endpoint belongs to an owner's group. -/
def inGroup (s : State) (owner : Nat) (fea : W64) : Bool := (s.ctxOf owner).group.contains fea

/-- R312, R348: what a report on a read of a window holds: INFO1 of a PERMISSION or TRANSLATION only. -/
def windowError (e : Stop) : Stop := if e.code == .uncorrectable then e else { e with info1 := BitVec.ofNat 32 accRead }

/-- R13, R312: an incoming RMA write transfer on a port; one of a job with no loaded key is dropped. -/
def execRmaWriteArrival (job : BitVec 32) (sender : Sender) (win : Nat) (off : BitVec 64) (bytes : List Byte) (s : State) :
    Host.Outcome State Fault Refusal :=
  .next (match arrivalOwner s job sender.port with
    | none => s
    | some o =>
      let r := if inGroup s o sender.fea then landWrite s o (receiverOf sender.port) win off bytes else (refuseWindow s o (receiverOf sender.port) off accWrite, false)
      let t := countFabric r.1 (receiverOf sender.port) 0x02 bytes.length 64
      { t with out := t.out ++ [if r.2 then .landed sender.fea else .refusal sender.fea .permission] })

/-- R13, R312: an incoming RMA read transfer on a port. -/
def execRmaReadArrival (job : BitVec 32) (sender : Sender) (win : Nat) (off : BitVec 64) (len : Nat) (s : State) :
    Host.Outcome State Fault Refusal :=
  .next (match arrivalOwner s job sender.port with
    | none => s
    | some o =>
      let c := s.ctxOf o
      let refuse : State := let t := refuseWindow s o (receiverOf sender.port) off accRead; { t with out := t.out ++ [.refusal sender.fea .permission] }
      match (if inGroup s o sender.fea then windowPlace s c win off len accRead else none) with
      | none => refuse
      | some va => match engineRead s c va len with
        | .error e =>
          let t := postRecord s (windowSite o (receiverOf sender.port)) (windowError e)
          { t with out := t.out ++ [.refusal sender.fea e.code] }
        | .ok b => countFabric { s with out := s.out ++ [.served sender.fea b] } (receiverOf sender.port) 0x01 len 64)

/-- R13, R327: a remote arrival on a port, at a barrier object of a window. -/
def execRemoteArrival (job : BitVec 32) (sender : Sender) (win : Nat) (off : BitVec 64) (_scope : Nat) (s : State) :
    Host.Outcome State Fault Refusal :=
  .next (match arrivalOwner s job sender.port with
    | none => s
    | some o =>
      let r := if inGroup s o sender.fea then landArrival s o (receiverOf sender.port) win off else (refuseWindow s o (receiverOf sender.port) off accAtomic, Trap.permission.number)
      let answer : Outgoing :=
        if r.2 == 0 then .landed sender.fea else .refusal sender.fea (if r.2 == Trap.barrierObject.number then .barrierObject else .permission)
      { r.1 with out := r.1.out ++ [answer] })

/-! ### Waiting processors -/

/-- R331, R348: the peer or target that a waiting processor's record names: that of the waited transfer at which it stands, else that of its oldest
posted transfer in flight. -/
def waitedPeer (s : State) : Nat :=
  let waited : Bool := match s.fp.phase with | .waiting .engine _ => true | _ => false
  ((s.fp.transfers.find? fun t => t.coll == s.coll.id && t.posted != waited).map (·.peer)).getD 0

/-- R331: the limit of a waited transfer that a collective which is over has left: its record names no node, and its processor is idle (log 45). -/
def leftTimeout (s : State) (f : Nat) : State :=
  match (s.fabric.find? (·.index == f)).bind fun p => p.waited.map fun t => (p, t) with
  | none => s
  | some (p, t) =>
    if isResident s t.owner && p.waitFrom + 1400 * p.tlim.toNat ≤ s.fabClock then
      faultWaiting s f t.id 0#51 { code := .collectiveTimeout, info0 := BitVec.ofNat 32 t.peer, info1 := p.tlim }
    else s

/-- R330, R331: whether the focused processor waits under its time limit: at a waited transfer in progress, or, while its collective is not suspended,
at a ZWAIT, a fence or a halt, before which a suspended one stops. -/
def fabricWaits (s : State) : Bool :=
  match s.fp.phase with
  | .waiting .engine _ => true
  | .waiting .memory _ | .waiting .tkfence _ => s.coll.stopped.isEmpty
  | _ => false

/-- R331: a wait of TLIM µs while the owner is resident, at 1,400 fabric clocks a µs, raises COLLECTIVE-TIMEOUT. -/
def execCollectiveTimeout (f : Nat) (s : State) : Host.Outcome State Fault Refusal :=
  .next (match openFabric s f with
    | none => leftTimeout s f
    | some t =>
      if fabricWaits t && isResident s t.ctx.owner && t.fp.waitFrom + 1400 * t.coll.tlim.toNat ≤ s.fabClock then
        let e : Stop := { code := .collectiveTimeout, info0 := BitVec.ofNat 32 (waitedPeer t), info1 := t.coll.tlim }
        let mine := t.fp.transfers.filter fun x => x.posted || x.coll != t.coll.id
        { takeFabricTrap { t with fp := { t.fp with transfers := mine } } e with note := .none }
      else s)

/-- What an event that re-issues a fabric processor's word leaves: the focus closed. -/
def closedFabric (s : State) (r : Host.Outcome State Fault Refusal) : Host.Outcome State Fault Refusal :=
  match r with
  | .next t => .next { closeFocus t with note := .none, snap := none }
  | _ => .next s

/-- R328: a waiting ZWAIT meets its condition and completes. -/
def execZwaitCompletion (f : Nat) (s : State) : Host.Outcome State Fault Refusal :=
  match openFabric s f with
  | none => .next s
  | some t => match t.fp.phase with
    | .waiting .memory _ =>
      if !(isResident s t.ctx.owner && t.coll.stopped.isEmpty) then .next s
      else match (fetchZilkan t).toOption.bind fun w => (decodeZilkan w).toOption with
        | some (.zwaitBar d a z) => closedFabric s (execZwaitBar d a z t)
        | some (.zwaitFlag d a z) => closedFabric s (execZwaitFlag d a z t)
        | _ => .next s
    | _ => .next s

/-- R331, R370: the transport retransmits a packet of a processor. -/
def execPacketRetransmission (f : Nat) (s : State) : Host.Outcome State Fault Refusal := .next (countFabric s f 0x03 1 1)

end Sys2Proof.Machine
end

