-- ==== Sys2Proof/Machine/Transform.lean ====
section
/-! DEFINITION. Transform engines (R333 to R345): starting TRANSFORM nodes, writing their output, their checks and faults, and the
source bytes that a ZFETCH with TX brings (R335). -/

namespace Sys2Proof.Machine

/-! ### What an engine does next -/

/-- The next thing an engine does: write a granule, pass a tile's check, fail it, take more source bytes, raise TRANSFORM-FORMAT at a
source offset, or end. -/
inductive XfAction where
  | write (granule : List Byte)
  | pass
  | mismatch
  | needs
  | broken (offset : Nat)
  | finished
  deriving DecidableEq, Repr

/-- A granule of 64 bytes, padded with zeros (R336). -/
def padGranule (l : List Byte) : List Byte := l ++ List.replicate (64 - l.length) 0#8

/-- What is due when no more output is decoded: the end of a Deflate stream's bytes, the last granule padded. -/
def deflateDue (d : Decoder) : Option XfAction :=
  if 64 ≤ d.ready then some (.write ((d.window.take d.ready).reverse.take 64))
  else if d.block != .over then none
  else if d.ready == 0 then some .finished
  else some (.write (padGranule (d.window.take d.ready).reverse))

/-- R339, R342, R345: what is due of an STS stream: the granules of the tile under way, then its check, for which its payload is at its end and its
CRC is at hand, then the next tile. -/
def stsDue (x : Xform) : Option XfAction :=
  match x.dec.header, x.dec.tile with
  | none, _ => none
  | some h, none => if x.checked == h.ntile then some .finished else none
  | some h, some t =>
    let cur := x.dec.cur
    let k := x.written - x.checked * h.granules
    if k < h.granules then
      (if min h.size (64 * (k + 1)) ≤ cur.length then some (.write (padGranule ((cur.drop (64 * k)).take 64))) else none)
    else if (t.rk == 1 && x.dec.block != .over) || t.left != 0 || x.buf.length < 4 then none
    else if BitVec.ofNat 32 (bytesNat (x.buf.take 4)) == crc32c cur then some .pass else some .mismatch

/-- R336 to R345: what an engine does before it decodes anything more; none while it has to decode. -/
def Xform.due (words : List W32) (x : Xform) : Option XfAction :=
  match xfKind words with
  | 0 =>
    let n := min 64 ((wordAt words 22).toNat - 64 * x.written)
    if n == 0 then some .finished else if n ≤ x.buf.length then some (.write (padGranule (x.buf.take n))) else none
  | 1 => deflateDue x.dec
  | _ => stsDue x

/-- The work with its decoder as far as the source bytes at hand take it, and what the engine then does; a source that ends too early breaks the
format (R338, R340). fuel bounds the pieces decoded. -/
def decodeXform (words : List W32) : Nat → Xform → Xform × XfAction
  | 0, x => (x, .needs)
  | fuel + 1, x =>
    match x.due words with
    | some a => (x, a)
    | none => match decodeStride (xfKind words) x with
      | .on y => decodeXform words fuel y
      | .needs => (x, if (wordAt words 22).toNat ≤ x.got then .broken (wordAt words 22).toNat else .needs)
      | .broken o => (x, .broken o)

/-- The next action for the source bytes at hand; every piece decoded takes at least a bit of them. -/
def xfNext (words : List W32) (x : Xform) : Xform × XfAction := decodeXform words (8 * x.buf.length + 2) x

/-- R335, R339: source bytes fetched from G, up to the next granule of the source at a time, until the engine can act; fuel bounds
the fetches. -/
def feedXform (s : State) (words : List W32) : Nat → Xform → Except Stop (Xform × XfAction)
  | 0, x => .ok (xfNext words x)
  | fuel + 1, x =>
    let r := xfNext words x
    match r.2 with
    | .needs =>
      if xfInsrc words then .ok r
      else
        let y := r.1
        let va := fieldAt words 20 + y.got
        match engineRead s (s.ctxOf x.owner) va (min (64 - va % 64) ((wordAt words 22).toNat - y.got)) with
        | .error t => .error t
        | .ok b => feedXform s words fuel { y with got := y.got + b.length, buf := y.buf ++ b }
    | _ => .ok r

/-! ### Faults -/

/-- R343, R348: the code-specific fields of TRANSFORM-FORMAT and TRANSFORM-CHECK. -/
def xfStop (s : State) (x : Xform) (words : List W32) (code : Trap) (offset : Nat) : Stop :=
  { code := code, addr := if xfInsrc words then 0#64 else BitVec.ofNat 64 (fieldAt words 20 + offset),
    info0 := BitVec.ofNat 32 x.checked, info1 := BitVec.ofNat 32 offset, info2 := xfPointer s x }

/-! ### Writing -/

/-- R336: DLEN. -/
def xfLimit (words : List W32) : Nat := ((wordAt words 28).extractLsb' 0 24).toNat

/-- R333, R336: a granule written at its place: the tile store of the team, die scratch, or G. -/
def xfPut (s : State) (x : Xform) (words : List W32) (b : List Byte) : Except Stop State :=
  let c := s.ctxOf x.owner
  let off := (wordAt words 26).toNat + 64 * x.written
  match xfDst words with
  | 0 => match x.team.bind fun t => s.teamOf t with
    | some t => .ok (storeAt s c.key (tileAt t.core (t.tileBase + off)) b)
    | none => .error (Stop.plain .regionBounds)
  | 1 => .ok (storeAt s c.key (scratchAt (x.eng / 4) off) b)
  | _ => engineWrite s c (fieldAt words 26 + 64 * x.written) b

/-- R337: XFPTR after a granule: SEQ rises with a node's first, and CNT counts them. -/
def xfPoint (s : State) (x : Xform) : State :=
  match x.team with
  | none => s
  | some t => s.mapTeam t fun m =>
      let p := m.xfptr.getD (x.eng % 4) 0#32
      let seq := p.extractLsb' 24 8 + (if x.written == 0 then 1#8 else 0#8)
      { m with xfptr := m.xfptr.setIfInBounds (x.eng % 4) (seq ++ BitVec.ofNat 24 (x.written + 1)) }

/-- The work once a granule of it is written. -/
def Xform.wrote (words : List W32) (x : Xform) : Xform :=
  let y := { x with written := x.written + 1 }
  match xfKind words with
  | 0 => { y with buf := x.buf.drop 64 }
  | 1 => { y with dec := { x.dec with ready := x.dec.ready - 64 } }
  | _ => y

/-- R341, R342: the work once a tile has passed its check: the tile is the newest of its cache. -/
def Xform.passed (x : Xform) : Xform :=
  { x with buf := x.buf.drop 4, checked := x.checked + 1, dec := { x.dec with tile := none, cur := [], tiles := x.dec.cur :: x.dec.tiles } }

/-- R343: an engine's work goes on, or its node ends when nothing is left. -/
def continueXform (s : State) (x : Xform) (words : List W32) : State :=
  if (xfNext words x).2 == .finished then endTransform s x.node 0#32 else setEngine s x.eng (some x)

/-- R336, R342, R343: the engine does its next action. -/
def actXform (s : State) (x : Xform) (words : List W32) : XfAction → State
  | .finished => endTransform s x.node 0#32
  | .needs => setEngine s x.eng (some x)
  | .broken o => stopXform s x words (xfStop s x words .transformFormat o)
  | .mismatch => stopXform s x words (xfStop s x words .transformCheck x.place)
  | .pass => continueXform s x.passed words
  | .write b =>
    if xfLimit words ≤ x.written then stopXform s x words (xfStop s x words .transformFormat x.place)
    else match xfPut s x words b with
      | .error e => stopXform s x words e
      | .ok t => continueXform (xfPoint t x) (x.wrote words) words

/-- The work on an engine of a resident owner, with its node's record. -/
def engineWork (s : State) (eng : Nat) : Option (Xform × Node) :=
  match s.xforms.getD eng none with
  | none => none
  | some x => if isResident s x.owner then (s.nodeOf x.node).map fun n => (x, n) else none

/-- R334: whether the team that a DST 0 node writes to has ended. -/
def teamGone (s : State) (x : Xform) : Bool :=
  match x.team with
  | some t => (s.teamOf t).isNone
  | none => false

/-- R334 to R345: a transform engine's next granule, or the check of the tile that it has written. -/
def execTransformGranuleWrite (eng : Nat) (s : State) : Host.Outcome State Fault Refusal :=
  .next (match engineWork s eng with
    | none => s
    | some (x, n) =>
      let w := n.words
      if teamGone s x then stopXform s x w (Stop.plain .regionBounds)
      else match feedXform s w ((wordAt w 22).toNat / 64 + 2) x with
        | .error e => stopXform s x w e
        | .ok (y, a) => actXform s y w a)

/-! ### Starting -/

/-- R334: what a DST 0 node finds: its team, its team or grid gone, or that it still waits. -/
inductive Target where
  | team (t : Team)
  | gone
  | waits
  | wrong

/-- R334: the target team of a DST 0 node. -/
def targetTeam (s : State) (owner : Nat) (words : List W32) : Target :=
  let h := wordAt words 24
  let number := ((wordAt words 25).extractLsb' 0 24).toNat
  match s.nodeOf h with
  | none => if appended (s.stream (handleStream h)) h then .gone else .waits
  | some n =>
    if recType n.words != 0 || nodeOwner s h != owner then .wrong
    else match n.status with
      | .finished _ => .gone
      | .posted => .waits
      | .running => match n.grid.bind fun g => s.gridOf g with
        | none => .gone
        | some g => match s.teams.find? fun t => t.handle == g.handle && t.number == number with
          | some t => .team t
          | none => if number < g.started then .gone else .waits

/-- R334: the engine and team of a node, when they are known. -/
def xfEngine (s : State) (owner : Nat) (words : List W32) : Option (Nat × Option Team) :=
  if xfDst words == 0 then
    match targetTeam s owner words with
    | .team t => some (4 * (t.core / 144) + xfEng words, some t)
    | _ => none
  else some (4 * xfDie words + xfEng words, none)

/-- R334: whether the destination range fits. -/
def xfFits (s : State) (owner : Nat) (words : List W32) (team : Option Team) : Bool :=
  let z := (wordAt words 26).toNat + 64 * xfLimit words
  match xfDst words with
  | 0 => match team with | some t => decide (z ≤ t.tileSize) | none => false
  | 1 => decide (z ≤ (s.ctxOf owner).scratch * 0x300000)
  | _ => true

/-- R334: whether a ready node of a resident owner stands before another for the same engine. -/
def engineQueue (s : State) (n : Node) (eng : Nat) : Bool :=
  (allNodes s).any fun x => recType x.2.words == 1 && isResident s x.1 && nodeReady s x.2 && poolBefore x.2.place n.place &&
    (match xfEngine s x.1 x.2.words with | some e => e.1 == eng | none => false)

/-- R334: a ready TRANSFORM node starts on its engine, fails, or waits. -/
def startXform (s : State) (owner : Nat) (n : Node) : State :=
  let w := n.words
  let fail (c : Trap) : State := failNode s owner n.handle 0#32 (Stop.plain c)
  let target : Target := if xfDst w == 0 then targetTeam s owner w else .waits
  match target, xfEngine s owner w with
  | .gone, _ => fail .regionBounds
  | .wrong, _ => fail .reservedField
  | _, none => s
  | _, some (eng, team) =>
    if partOfDie s (eng / 4) != (s.ctxOf owner).part then fail .permission
    else if (s.xforms.getD eng none).isSome || engineQueue s n eng then s
    else if !xfFits s owner w team then fail .regionBounds
    else setEngine (runNode s n.handle) eng (some { node := n.handle, eng := eng, owner := owner, team := team.map (·.id), got := 0, buf := [],
                                                    dec := Decoder.reset, written := 0, checked := 0, waitFrom := s.fabClock, stopped := none })

/-- R334, R343: a TRANSFORM node starts, or one that was resumed, or restored, takes its engine again. -/
def execTransformNodeStart (handle : W32) (s : State) : Host.Outcome State Fault Refusal :=
  .next (match s.nodeOf handle with
    | none => s
    | some n =>
      let owner := nodeOwner s handle
      if !(recType n.words == 1 && isResident s owner) then s
      else match s.parked.find? (·.node == handle) with
        | some x =>
          if x.stopped.isNone && (s.xforms.getD x.eng none).isNone then
            { setEngine s x.eng (some { x with waitFrom := s.fabClock }) with parked := s.parked.filter (·.node != handle) }
          else s
        | none => if nodeReady s n then startXform s owner n else s)

/-! ### Source bytes from ZFETCH -/

/-- R344: the source bytes that an engine keeps before it decodes them, a part of the 40 KiB of its state (log 46). -/
def inputRoom : Nat := 4096

/-- R335: bytes given to a node's started work, on its engine, suspended, or saved with its owner's context; its time limit starts again at
the time given, which for saved work counts from 0. -/
def giveInput (s : State) (node : W32) (b : List Byte) : State :=
  let give (now : Nat) (x : Xform) : Xform := if x.node == node then { x with got := x.got + b.length, buf := x.buf ++ b, waitFrom := now } else x
  { s with xforms := s.xforms.map fun x => x.map (give s.fabClock), parked := s.parked.map (give 0) }

/-- Started work of a node. -/
def findXform (s : State) (node : W32) : Option Xform := (s.xforms.toList.filterMap id ++ s.parked).find? (·.node == node)

/-- R335: bytes of a ZFETCH with TX reach its node in offset order, as many as its engine has room for; the rest stay under way. Bytes beyond SLEN are
dropped and raise PERMISSION in the processor, as does a node that is no longer there. -/
def execTransformInputArrival (f xfer : Nat) (bytes : List Byte) (s : State) : Host.Outcome State Fault Refusal :=
  .next (match findTransfer s f xfer with
    | none => s
    | some (p, t) =>
      match t.input, p.phase with
      | some h, .waiting .engine _ =>
        let e := accStop .permission t.place.toNat accWrite
        match inputNode s t.owner t.place with
        | none => faultWaiting s f xfer 0#51 e
        | some n => match findXform s h with
          | none => s
          | some x =>
            let got := bytes.take (min (t.len - t.landed) (inputRoom - x.buf.length))
            let room := (wordAt n.words 22).toNat - x.got
            if got.isEmpty then s
            else
              let s := giveInput s h (got.take room)
              let s := countFabric s f 0x02 got.length 64
              if room < got.length then faultWaiting s f xfer 0#51 e
              else mapTransfer s xfer fun t => { t with landed := t.landed + got.length }
      | _, _ => s)

/-- R335: a node whose next source byte has not arrived in ILIM µs, at 1,400 fabric clocks a µs, while its engine has room for it, raises
COLLECTIVE-TIMEOUT. -/
def execTransformInputTimeout (eng : Nat) (s : State) : Host.Outcome State Fault Refusal :=
  .next (match engineWork s eng with
    | none => s
    | some (x, n) =>
      let w := n.words
      if xfInsrc w && x.got < (wordAt w 22).toNat && x.buf.length < inputRoom && x.waitFrom + 1400 * (wordAt w 29).toNat ≤ s.fabClock then
        stopXform s x w { code := .collectiveTimeout, info0 := BitVec.ofNat 32 x.got, info1 := wordAt w 29 }
      else s)

end Sys2Proof.Machine
end

