-- ==== Sys2Proof/Machine/Commands.lean ====
section
/-! DEFINITION. The command interface of each function: INVAL, RESUME, TERMINATE, TERMGRID (R98, R352, R353, R355, R380). -/

namespace Sys2Proof.Machine

/-- R377: the functions that the link shows: the PF, and the VFs that it has enabled. -/
def fnVisible (s : State) (fn : Nat) : Bool := s.linkUp && fn ≤ 32 && (fn == 0 || fn ≤ s.vfs)

/-- R378, R385: whether a register of a function's page other than BOOTSTAT and HMBOX takes an access. -/
def pageOpen (s : State) (fn : Nat) : Bool := fnVisible s fn && s.hernus.bootstat.getLsbD 31

/-- R380: CMDGO shows the result of a command: 0 done, 1 refused. -/
def cmdResult (s : State) (fn : Nat) (ok : Bool) : State := s.mapCtx fn fun c => { c with cmdgo := if ok then 0#32 else 1#32 }

/-- R380: what a command does, or that it is refused; its result shows in CMDGO. -/
def runCommand (s : State) (fn : Nat) (r : Option State) : State :=
  if !pageOpen s fn then s
  else match r with
    | some t => cmdResult t fn true
    | none => cmdResult s fn false

/-! ### INVAL -/

/-- R98, R380: the TLBs of an owner without the translations of a range of pages; 0 pages name every page. -/
def invalidate (s : State) (fn : Nat) (va : W64) (pages : W32) : State :=
  let first := va.toNat / 2 ^ 15
  s.mapCtx fn fun c => { c with tlb := c.tlb.filter fun e => pages != 0#32 && !rangesMeet e.vpage e.npages first pages.toNat }

/-- R380. -/
def execInval (fn : Nat) (va : BitVec 64) (pages : BitVec 32) (s : State) : Host.Outcome State Fault Refusal :=
  .next (runCommand s fn (some (invalidate s fn va pages)))

/-! ### RESUME -/

/-- R349, R353: a record that its owner has received. -/
def findRecord (c : Context) (seq : Nat) : Option Record :=
  if c.held.any (·.seq == seq) then none else c.records.find? (·.seq == seq)

/-- Whether a phase is that of an agent suspended by a record. -/
def Phase.suspendedBy (ph : Phase) (seq : Nat) : Bool := match ph with | .suspended k => k == seq | _ => false

/-- The grid that a record names, when it still stands (R353). -/
def recordGrid (s : State) (r : Record) : Option Grid :=
  s.grids.find? fun g => g.handle == r.handle && some g.uid == r.uid

/-- R353: whether the agent of a record is still suspended by it. -/
def stillStopped (s : State) (owner : Nat) (r : Record) : Bool :=
  match r.agent with
  | .pod t i => s.teams.any fun m => m.id == t && m.pods.any fun p => p.index == i && p.phase.suspendedBy r.seq
  | .matrix id => s.mats.any fun m => m.id == id && m.stopped == some r.seq
  | .channel t ch => s.teams.any fun m => m.id == t && (m.chans.getD ch Channel.reset).stopped == some r.seq
  | .transform _ => s.parked.any fun x => x.owner == owner && x.stopped == some r.seq
  | .fabric _ => s.colls.any fun c => c.owner == owner && c.stopped.contains r.seq
  | .graph | .slice => false

/-- R353: RESUME is refused for a record with RESUM = 0, one that has been answered, and one whose grid has retired or is being
terminated. -/
def resumable (s : State) (owner : Nat) (r : Record) : Bool :=
  let live : Bool := r.handle == 0#32 || (match recordGrid s r with | some g => g.status == .running | none => false)
  r.resum && !r.answered && live && stillStopped s owner r

/-- R330 to R332, R353: a processor of a collective whose record is answered: the one it suspended is ready again, and each starts its time
limit anew, but for one at a waited transfer, which has gone on. -/
def Fabric.again (f : Fabric) (coll now seq : Nat) : Fabric :=
  if f.coll == some coll then
    { f with phase := if f.phase.suspendedBy seq then .ready else f.phase,
             waitFrom := match f.phase with | .waiting .engine _ => f.waitFrom | _ => now }
  else f

/-- R330, R353: a record of a collective answered: the processor it suspended goes on, and the collective with it, once no other record holds
it. -/
def resumeCollective (s : State) (id seq : Nat) : State :=
  { s with colls := replaceIf s.colls (·.id == id) fun c => { c with stopped := c.stopped.filter (· != seq) },
           fabric := s.fabric.map fun f => f.again id s.fabClock seq,
           owners := s.owners.map fun o => { o with processors := o.processors.map fun f => f.again id s.fabClock seq } }

/-- R353: the agent of a record goes on; its waits, with their limits, begin anew. -/
def resumeAgent (s : State) (owner : Nat) (r : Record) : State :=
  match r.agent with
  | .pod t i => s.mapTeamPod t i fun p => if p.phase.suspendedBy r.seq then { p with phase := .ready } else p
  | .matrix id => { s with mats := replaceIf s.mats (fun m => m.id == id && m.stopped == some r.seq) fun m => { m with stopped := none, started := false } }
  | .channel t ch => s.mapChan t ch fun c => if c.stopped == some r.seq then { c with stopped := none } else c
  | .transform _ => { s with parked := replaceIf s.parked (fun x => x.owner == owner && x.stopped == some r.seq) fun x => { x with stopped := none } }
  | .fabric _ =>
    match s.colls.find? fun c => c.owner == owner && c.stopped.contains r.seq with
    | none => s
    | some c => resumeCollective s c.id r.seq
  | .graph | .slice => s

/-- A record marked as answered. -/
def markAnswered (s : State) (owner seq : Nat) : State :=
  s.mapCtx owner fun c => { c with records := replaceIf c.records (·.seq == seq) fun r => { r with answered := true } }

/-- R353, R355: RESUME; for an owner that is not resident it takes effect at the next restore. -/
def resumeRecord (s : State) (fn seq : Nat) : Option State :=
  match findRecord (s.ctxOf fn) seq with
  | none => none
  | some r =>
    if !resumable s fn r then none
    else
      let t := markAnswered s fn seq
      some (if isResident s fn then resumeAgent t fn r else t.mapCtx fn fun c => { c with resumes := c.resumes ++ [seq] })

/-- R353, R380. -/
def execResume (fn : Nat) (seq : BitVec 32) (s : State) : Host.Outcome State Fault Refusal :=
  .next (runCommand s fn (resumeRecord s fn seq.toNat))

/-! ### TERMINATE, TERMGRID -/

/-- R353: the unfinished COLLECTIVE or TRANSFORM node that a record names. -/
def recordNode (s : State) (r : Record) : Option Node :=
  (s.nodeOf r.node).filter fun n =>
    some n.stamp == r.stamp && (recType n.words == 1 || recType n.words == 2) &&
    (match n.status with | .finished _ => false | _ => true)

/-- R330, R343, R352: a COLLECTIVE or TRANSFORM node ended with a trap code. -/
def endNode (s : State) (n : Node) (code : Nat) : State :=
  match s.colls.find? fun c => c.queue.isNone && c.node == n.handle with
  | some c => endCollective s c.id code
  | none => endTransform s n.handle (BitVec.ofNat 32 code)

/-- R352, R353: TERMINATE of the grid, or of the node, that a record names, with the record's code. -/
def terminateRecord (s : State) (fn seq : Nat) : Option State :=
  match findRecord (s.ctxOf fn) seq with
  | none => none
  | some r =>
    if r.handle != 0#32 then
      match recordGrid s r with
      | none => none
      | some g => if g.retired then none else some (terminateGrids s [g.handle] r.code.number (BitVec.ofNat 32 r.code.number))
    else match recordNode s r with
      | none => none
      | some n => some (endNode s n r.code.number)

/-- R352, R353, R380. -/
def execTerminate (fn : Nat) (seq : BitVec 32) (s : State) : Host.Outcome State Fault Refusal :=
  .next (runCommand s fn (terminateRecord s fn seq.toNat))

/-- R380: TERMGRID of an unretired grid of the owner: CODE 0, and status 0x200 for a node that launched it. -/
def terminateHandle (s : State) (fn : Nat) (h : W32) : Option State :=
  match s.gridOf h with
  | none => none
  | some g => if g.owner != fn || g.retired then none else some (terminateGrids s [h] 0 0x200#32)

/-- R352, R380. -/
def execTermgrid (fn : Nat) (handle : BitVec 32) (s : State) : Host.Outcome State Fault Refusal :=
  .next (runCommand s fn (terminateHandle s fn handle))

/-- R380: the command that CMD0 to CMD3 hold; every other code is refused. -/
def commandOf (s : State) (fn : Nat) : Option State :=
  let w (k : Nat) : W32 := (s.ctxOf fn).cmd.getD k 0#32
  match ((w 0).extractLsb' 0 8).toNat with
  | 1 => some (invalidate s fn (w 2 ++ w 1) (w 3))
  | 2 => resumeRecord s fn (w 1).toNat
  | 3 => terminateRecord s fn (w 1).toNat
  | 4 => terminateHandle s fn (w 1)
  | _ => none

end Sys2Proof.Machine
end

