-- ==== Sys2Proof/Machine/Pods.lean ====
section
/-! DEFINITION. What happens to a pod besides its own issue: results that return, the ends of sleeps and REJOIN holds, WATCHDOG
(R34, R148, R237, R238, R266, R274), and the report of a ticket gap (R227). -/

namespace Sys2Proof.Machine

/-- A pod of a team of a resident owner. -/
def residentPod (s : State) (team pod : Nat) : Option (Team × Pod) :=
  match s.teams.find? (·.id == team) with
  | none => none
  | some t => if isResident s t.owner then (t.pods.find? (·.index == pod)).map fun p => (t, p) else none

/-- R148: an outstanding result is written, and the scoreboard releases its destination. -/
def execLoadDataReturn (team pod tag : Nat) (s : State) : Host.Outcome State Fault Refusal :=
  .next (match residentPod s team pod with
    | none => s
    | some _ => s.mapTeamPod team pod fun p => p.deliverTag tag)

/-- R266: a sleeping pod goes on once its clocks have passed. -/
def execSleepEnd (team pod : Nat) (s : State) : Host.Outcome State Fault Refusal :=
  .next (match residentPod s team pod with
    | none => s
    | some (_, p) => match p.phase with
      | .asleep till => if till ≤ s.clock then leaveBunch (s.mapTeamPod team pod fun p => { p with phase := .ready }) team pod else s
      | _ => s)

/-- R34: whether a pod is held at a REJOIN. -/
def Pod.atRejoin (p : Pod) : Bool := match p.phase with | .waiting .rejoin _ => true | _ => false

/-- R34: whether two pods merge at the end of a REJOIN hold: one home bunch, the same REJOIN reached with equal ganging keys, and now
equal ganging keys. -/
def mergesWith (p q : Pod) : Bool :=
  q.atRejoin && q.index / 16 == p.index / 16 && q.heldAt == p.heldAt && q.key == p.key

/-- R34: the hold of a pod's bunch at REJOIN ends, at most 32 clocks after it began: the pods held there with an equal ganging
key go on as one bunch. -/
def execRejoinHoldEnd (team pod : Nat) (s : State) : Host.Outcome State Fault Refusal :=
  .next (match residentPod s team pod with
    | none => s
    | some (_, p) =>
      if p.atRejoin then
        s.mapTeam team fun t => { t with pods := t.pods.map fun q => if mergesWith p q then { q with phase := .ready, bunch := p.bunch, heldAt := none } else q }
      else s)

/-- The instruction or chained pair at a pod's place, decoded. -/
def instrsAt (s : State) (g : Grid) (c : Context) (p : Pod) : List Instr :=
  (wordsAt s g c p).filterMap fun w => (decodeCore w.1 w.2).toOption

/-- R93, R254: whether a pod waits on the SX of a TROT leg that waits for its partners. -/
def onWaitingLeg (s : State) (g : Grid) (c : Context) (p : Pod) : Bool :=
  p.held.any fun h => (s.mats.any fun m => m.id == h.cmd && !m.begun && (match m.instr with | .trot _ _ _ => true | _ => false)) &&
    (instrsAt s g c p).any fun i => (touches i).any fun r => r.meets (.scalar h.reg 1)

/-- R348: the cause that WATCHDOG names for a wait of a pod; none for one that raises no WATCHDOG. -/
def watchdogCause (s : State) (g : Grid) (c : Context) (p : Pod) (w : Wait) : Option Nat :=
  match w with
  | .converge => some 1
  | .bar | .barrier | .pointer | .memory | .tkfence | .ticket => some 2
  | .engine => some 3
  | .launch => some 4
  | .register => if onWaitingLeg s g c p then some 3 else none
  | .gwait | .rejoin => none

/-- R225: a pod that leaves a word between the granules of a TKSKIP: the scalars show the n granules done. -/
def skipWord (p : Pod) (n : Nat) (w : Option (W32 × Option W32)) : Pod :=
  match n, w.bind fun w => (decodeCore w.1 w.2).toOption with
  | 0, _ => p
  | n, some (.tkskip x y) => skipScalars p x y n
  | _, _ => p

/-- R225: a pod that leaves a TKSKIP, or a pair of them, between granules. -/
def skipDone (s : State) (p : Pod) : Pod :=
  let ws := wordsAt s s.grid s.ctx p
  { skipWord (skipWord p p.skip ws[0]?) p.skip2 ws[1]? with skip := 0, skip2 := 0 }

/-- R39, R355: WATCHDOG of pods of one team in one cycle, each with its cause: each posts its record, which names the word of a pair that waits;
the last one's ends the grid where it has no SUSP. A TKSKIP stopped between granules stops there (R225). -/
def watchdogAll (team : Nat) : List (Pod × Nat) → State → State
  | [], s => s
  | (p, n) :: ps, s => match openPod s team p.index with
    | none => watchdogAll team ps s
    | some u =>
      let x : Stop := { code := .watchdog, cause := n }
      watchdogAll team ps (if u.grid.susp || ps.isEmpty then
          { leaveBunch (takePodTrap (u.mapPod (skipDone u)) x u.pod.second) team p.index with note := .none }
        else postRecord s (podSite u u.pod.second) x)

/-- R37, R39: every live pod of a home bunch has stopped at a BUNCH-scope instruction. At one address: all execute it together,
each with its result; at different addresses: each raises WATCHDOG. -/
def execBunchConvergence (team hb : Nat) (s : State) : Host.Outcome State Fault Refusal :=
  match s.teams.find? (·.id == team) with
  | none => .next s
  | some t =>
    let live := t.pods.filter fun p => p.index / 16 == hb && p.phase != .ended
    match live, s.gridOf t.handle with
    | p0 :: _, some g =>
      let c := s.ctxOf t.owner
      if !live.all Pod.converging then .next s
      else if live.all fun p => bunchPlace s g c p == bunchPlace s g c p0 then
        let x := bunchPositions live
        .next (s.mapTeam team fun t => { t with pods := t.pods.map fun p =>
          if p.index / 16 == hb && p.phase != .ended then { p with phase := .ready, grant := some (grantFor (wordsAt s g c p) x p) } else p })
      else .next (watchdogAll team (live.map fun p => (p, 0)) s)
    | _, _ => .next s

/-- The pods of a team that have stood at a wait of WATCHDOG since a clock, with their causes. -/
def watchdogDue (s : State) (t : Team) (g : Grid) (since : Nat) : List (Pod × Nat) :=
  t.pods.filterMap fun p => match p.phase with
    | .waiting w k => if k == since then (watchdogCause s g (s.ctxOf t.owner) p w).map fun n => (p, n) else none
    | _ => none

/-- R39, R93, R237, R238, R274: a pod that has stood at a wait for 2^32 cycles of its core raises WATCHDOG, and in the same cycle so does every
pod of its team that began to wait with it (R355). -/
def execWatchdog (team pod : Nat) (s : State) : Host.Outcome State Fault Refusal :=
  .next (match residentPod s team pod with
    | none => s
    | some (t, p) => match p.phase, s.gridOf t.handle with
      | .waiting _ since, some g =>
        let due := watchdogDue s t g since
        if since + 2 ^ 32 ≤ s.clock && due.any (·.1.index == pod) then watchdogAll team due s else s
      | _, _ => s)

/-- R227: the pending entries of a granule. -/
def granuleEntries (c : Context) (region granule : Nat) : List TkEntry :=
  c.entries.filter fun e => e.region == region && e.granule == granule

/-- R222: GAPX. -/
def Context.gapx (c : Context) : Nat := (c.tkctl.extractLsb' 0 5).toNat

/-- R227, R347: the oldest pending entry of a granule has been pending for 2^GAPX cycles: TICKET-GAP, once for each counter value. -/
def execTicketGap (owner region granule : Nat) (s : State) : Host.Outcome State Fault Refusal :=
  let c := s.ctxOf owner
  .next (match c.regions.getD region none, granuleEntries c region granule with
    | some r, e :: es =>
      let k := r.counter s c.key granule
      let oldest := es.foldl (fun n x => min n x.since) e.since
      let lowest := es.foldl (fun (t : BitVec 16) x => if (x.ticket - k).toNat < (t - k).toNat then x.ticket else t) e.ticket
      if isResident s owner && c.gapx != 0 && oldest + 2 ^ c.gapx ≤ s.clock && !(r.posted.contains (granule, k)) then
        let s := s.mapCtx owner fun c => c.mapRegion region fun r => { r with posted := setGranule r.posted granule k }
        postRecord s { owner := owner, agent := .slice, kind := 6, unit := homeSlice e.pa }
          (ticketStop .ticketGap (BitVec.ofNat 64 (r.base + 64 * granule)) region k lowest)
      else s
    | _, _ => s)

end Sys2Proof.Machine
end

