-- ==== Sys2Proof/Machine/Image.lean ====
section
/-! DEFINITION. The context image (R357 to R359, R374, R376): its layout, what the graph engine writes, and what it reads back and
checks. Offsets that the spec does not give inside a record are the model's (log 16). -/

namespace Sys2Proof.Machine

/-! ### Places -/

/-- R357: the place of byte o of an owner's image: in its image area by physical address, or, beyond the area, where nothing else
reaches (log 16). -/
def imagePlace (c : Context) (o : Nat) : Nat := if o < c.imageSize then c.imageBase + o else 2 ^ 60 + c.owner * 2 ^ 54 + o

/-- R10, R357: the first place of the first n bytes of an image area that no access reaches: a reserved physical address, or one beyond 48
bits. -/
def imageHole (c : Context) (n : Nat) : Option Nat :=
  let z := c.imageBase + min c.imageSize n
  if c.imageBase < z && 2 ^ 48 < z then some (max c.imageBase (2 ^ 48))
  else if c.imageBase < min z 0x800000000000 && 0x8000000000 < z then some (max c.imageBase 0x8000000000)
  else none

/-- R10: TRANSLATION at the graph engine, for a physical address. -/
def imageStop (pa kind : Nat) : Stop := accStop .translation pa kind

/-- R10, R101, R357: bytes written to an image under its owner's key; none to an area that no access reaches. -/
def imagePut (s : State) (c : Context) (o : Nat) (b : List Byte) : State :=
  if (imageHole c (o + b.length)).isSome then s else
  let n := min b.length (c.imageSize - o)
  let s := if n == 0 then s else storeAt s c.key (imagePlace c o) (b.take n)
  if n == b.length then s else storeAt s c.key (imagePlace c (max o c.imageSize)) (b.drop n)

/-- R10, R101, R357: n bytes of an image; zeros where no access reaches. -/
def imageGet (s : State) (c : Context) (o n : Nat) : List Byte :=
  if (imageHole c (o + n)).isSome then List.replicate n 0#8 else (List.range n).map fun i => keyedByte s c.key (imagePlace c (o + i))

/-- n words of an image. -/
def imageWords (s : State) (c : Context) (o n : Nat) : List W32 := bytesWords n (imageGet s c o (4 * n))

/-- A number rounded up to 4 KiB. -/
def page4 (n : Nat) : Nat := (n + 4095) / 4096 * 4096

/-- R358: the offset of the context section. -/
def ctxOff : Nat := 4096
/-- R358: the offset of the first core section. -/
def coreOff : Nat := ctxOff + page4 (4096 + 64 * 4096)

/-- The teams of an owner on a core. -/
def teamsOf (s : State) (owner core : Nat) : List Team := s.teams.filter fun t => t.owner == owner && t.core == core

/-- The queued matrix commands of a core. -/
def matsOf (s : State) (owner core : Nat) : List MatCmd :=
  s.mats.filter fun m => m.core == core && s.teams.any fun t => t.id == m.team && t.owner == owner

/-- R359: the size of a core section of nt teams and np pods. -/
def coreSize (nt np : Nat) : Nat := page4 (0x282000 + 1024 * nt + 192 * np)

/-- The pods of some teams, each with the number of its team record. -/
def podsOf (ts : List Team) : List (Nat × Nat × Pod) := ts.zipIdx.flatMap fun x => x.1.pods.map fun p => (x.2, x.1.id, p)

/-- The core sections of an owner's image, end to end from an offset (R358). -/
def imageCores (s : State) (owner : Nat) : Nat → List Nat → List ImageCore
  | _, [] => []
  | o, k :: ks =>
    let ts := teamsOf s owner k
    let ps := podsOf ts
    { core := k, off := o, teams := ts.map (·.id), pods := ps.map fun p => (p.1, p.2.1, p.2.2.index), mats := (matsOf s owner k).map (·.id),
      used := isResident s owner && s.used.contains k } ::
      imageCores s owner (o + coreSize ts.length ps.length) ks

/-- R358: the size of a die section. -/
def dieSize (c : Context) : Nat := 164 * 1024 + 4 * 0x400000 + c.scratch * 0x300000

/-- The C-dies of a partition (R294). -/
def partDies (s : State) (part : Nat) : List Nat := (List.range 4).filter fun d => partOfDie s d == part

/-- The streams of an owner. -/
def streamsOf (s : State) (owner : Nat) : List (Nat × Stream) :=
  ((List.range 64).map fun k => (k, s.stream k)).filter fun x => x.2.owner.toNat == owner

/-- R106: the poisoned granules among n bytes at one place poison the granules at another, which a function of the offset gives. -/
def movePoison (s : State) (src n : Nat) (dst : Nat → Nat) : State :=
  { s with poison := (s.poison.filter fun g => decide (src ≤ 64 * g) && decide (64 * g < src + n)).foldl (fun p g => addOnce p (dst (64 * g - src) / 64)) s.poison }

/-- R358: the saved nodes. -/
def savedNodes (s : State) (owner : Nat) : List Node := (streamsOf s owner).flatMap fun x => x.2.nodes

/-- A 64-bit number as two words. -/
def wordPair (n : Nat) : List W32 := [BitVec.ofNat 32 n, BitVec.ofNat 32 (n / 2 ^ 32)]

/-- Words padded with zeros to n. -/
def padWords (n : Nat) (l : List W32) : List W32 := (l ++ List.replicate (n - l.length) 0#32).take n

/-- R358: VER and OWNER, and the counts of an owner's partition. -/
def partWords (s : State) (c : Context) : List W32 :=
  [BitVec.ofNat 32 (2 ^ 24 + c.owner),
   BitVec.ofNat 32 (2 ^ 16 * (partCores s c.part).length + 2 ^ 8 * (partDies s c.part).length + (partFabric s c.part).length)]

/-- R358: whether one entry stands before another: granule order, then ticket order from the granule's counter. -/
def entryBefore (s : State) (c : Context) (a b : TkEntry) : Bool :=
  let d (e : TkEntry) : Nat := match c.regions.getD e.region none with
    | some r => (e.ticket - r.counter s c.key e.granule).toNat
    | none => 0
  decide (a.va.toNat < b.va.toNat) || (a.va == b.va && decide (d a ≤ d b))

/-- R334, R358: the work of an owner whose decoder state an image holds for an engine: what runs there, else the first that is suspended or waits for
the engine; what else waits for it stays with its node (log 16). -/
def engineOf (s : State) (owner eng : Nat) : Option Xform :=
  match (s.xforms.getD eng none).filter (·.owner == owner) with
  | some x => some x
  | none => s.parked.find? fun x => x.owner == owner && x.eng == eng

/-- R358: the layout of an owner's image as it is written now. -/
def imageOf (s : State) (owner : Nat) : Image :=
  let c := s.ctxOf owner
  let cores := imageCores s owner coreOff (partCores s c.part)
  let dieOff := match cores.getLast? with
    | some x => x.off + coreSize x.teams.length x.pods.length
    | none => coreOff
  let dies := (partDies s c.part).zipIdx.map fun x => (x.1, dieOff + x.2 * dieSize c)
  let fabric := dieOff + dies.length * dieSize c
  let graph := fabric + page4 (256 * (partFabric s c.part).length)
  let nodes := (savedNodes s owner).length
  { header := [0x43495837#32] ++ partWords s c ++ [BitVec.ofNat 32 c.entries.length, BitVec.ofNat 32 nodes] ++ wordPair ctxOff ++ wordPair coreOff ++
      wordPair dieOff ++ wordPair fabric ++ wordPair graph,
    cores := cores, dies := dies, fabric := fabric, graph := graph,
    streams := (streamsOf s owner).map fun x => ⟨x.1, x.2.next, x.2.tape, x.2.nodes.map (·.handle)⟩,
    engines := (List.range 16).filterMap fun e => (engineOf s owner e).map fun x => ⟨e, x.node, x.got, x.buf.length⟩,
    tickets := graph + page4 (16 * (streamsOf s owner).length + 144 * nodes),
    spill := (c.entries.mergeSort (entryBefore s c)).zipIdx.map fun x => (x.2, x.1) }

/-! ### What is written -/

/-- R220, R358: a region record; a released region as zeros. -/
def regionWords (r : Option Region) : List W32 :=
  match r with
  | none => List.replicate 8 0#32
  | some r => wordPair r.base ++ [BitVec.ofNat 32 r.ngran, 0x80000000#32] ++ wordPair r.cntr ++ [0#32, 0#32]

/-- R358: the context section. -/
def contextWords (c : Context) : List W32 :=
  padWords 32 ([c.tkctl, c.lscale, c.lsctl, c.srstep] ++ c.srkey.toList ++ c.cntsel.toList) ++
  padWords 992 (c.regions.toList.flatMap regionWords) ++ (List.range 4096).flatMap fun t => padWords 16 (descOf c t)

/-- R359, R374: a count in an image, its overflow bit in bit 63. -/
def countWords (x : Counter) : List W32 := wordPair (x.count.toNat + bitAt x.ovf 63)

/-- R9, R359: register r of column j of partition q of a core, lane l: that of the pod whose window holds it, else what stands in the file, of which
file gives the words. -/
def fileWord (file : Nat → W32) (pods : List Pod) (q r j l : Nat) : W32 :=
  match pods.find? fun p => p.part == q && p.index % 16 == j && p.wb.toNat ≤ r && r < p.wb.toNat + 16 * p.ws.toNat with
  | some p => p.lane (r - p.wb.toNat) l
  | none => file (fileOffset q r j l)

/-- R9, R359: the register files of a core for an owner; the core of one that is not resident holds nothing of it. -/
def fileWords (s : State) (owner core : Nat) (pods : List Pod) : List W32 :=
  let file (o : Nat) : W32 := if isResident s owner then BitVec.ofNat 32 (bytesNat (memBytes s.mem (fileAt core o) 4)) else 0#32
  (List.range 8).flatMap fun q => (List.range 512).flatMap fun r => (List.range 16).flatMap fun j => [0, 1, 2, 3].map fun l => fileWord file pods q r j l

/-- R359: a matrix command's record: its word, scalars, issuing team record and pod, SHAPE grant, SRSTEP, MODE, key, stop state with its
next granule, and descriptors. -/
def matWords (teams : List Nat) (m : MatCmd) : List W32 :=
  padWords 16 [encode 0#1 m.instr, m.sx, m.sy, m.sz, m.sz1, BitVec.ofNat 32 ((teams.idxOf? m.team).getD 0), BitVec.ofNat 32 m.pod, shapeWord m.shape, m.step,
    m.mode, m.key, BitVec.ofNat 32 (bitAt m.stopped.isSome 31 + m.next), BitVec.ofNat 32 (m.stopped.getD 0), BitVec.ofNat 32 m.legNo] ++
  padWords 16 m.dx ++ padWords 16 m.dy ++ padWords 16 m.dz

/-- A copy command in a team record. -/
def copyWords (c : Option CopyCmd) (granule : Nat) : List W32 :=
  match c with
  | none => List.replicate 6 0#32
  | some c => [encode 0#1 c.instr, c.sx, c.sy, c.sy1, c.sz, BitVec.ofNat 32 granule]

/-- A channel in a team record: its current command, then its eight queued ones. -/
def channelWords (c : Channel) : List W32 :=
  copyWords c.current c.cnt.toNat ++ (List.range 8).flatMap fun i => copyWords c.queue[i]? 0

/-- R359: a team record. -/
def teamWords (s : State) (t : Team) : List W32 :=
  let g := (s.gridOf t.handle).getD Grid.reset
  padWords 256 ([t.handle, g.node, BitVec.ofNat 32 t.number, t.mode, t.flags, BitVec.ofNat 32 (t.tileBase / 4096 + t.tileSize / 4096 * 2 ^ 16),
    BitVec.ofNat 32 t.bars] ++ (t.chans.toList.map fun c => c.seq ++ c.cnt) ++ t.xfptr.toList ++ [BitVec.ofNat 32 g.depth] ++
    [BitVec.ofNat 32 (bitAt g.susp 0 + bitAt g.cluster 1)] ++ t.chans.toList.flatMap channelWords)

/-- R359: a pod's state: ready, exited, waiting, suspended. -/
def podState (p : Pod) : Nat × Nat :=
  match p.phase with
  | .ended => (1, 0)
  | .waiting _ _ | .asleep _ => (2, 0)
  | .suspended seq => (3, seq)
  | .ready => (0, 0)

/-- R359: the predicates p0 to p6, bit 4k + l. -/
def predWord (p : Pod) : W32 := BitVec.ofNat 32 ((List.range 7).map fun k => (p.pred k).toNat * 2 ^ (4 * k)).sum

/-- R359: where a pod stands: its state, partition, column and team record. -/
def podPlace (team : Nat) (p : Pod) (state : Nat) : W32 := BitVec.ofNat 32 (state + p.part * 2 ^ 2 + p.index % 16 * 2 ^ 5 + team * 2 ^ 16)

/-- R359: a pod record: s0 to s31; SP; PC, SLOT and MD; PW; WB, WS, CD and SHAPE; SRSEL; predicates; its place; the record's SEQ. -/
def podWords (team : Nat) (p : Pod) : List W32 :=
  padWords 48 (p.s.toList ++ wordPair p.sp.toNat ++ wordPair (p.pc.toNat + p.slot.toNat * 2 ^ 48 + p.md.toNat * 2 ^ 50) ++
    [p.pw, BitVec.ofNat 32 (p.wb.toNat + p.ws.toNat * 2 ^ 9 + p.cd.toNat * 2 ^ 13 + p.shape.toNat * 2 ^ 21), p.srsel.zeroExtend 32, predWord p,
     podPlace team p (podState p).1, BitVec.ofNat 32 (podState p).2])

/-- R359: a core section. -/
def coreBytes (s : State) (c : Context) (core : Nat) : List Byte :=
  let ts := teamsOf s c.owner core
  let ms := matsOf s c.owner core
  let ps := podsOf ts
  let w (n : Nat) := BitVec.ofNat 32 n
  let tile := if isResident s c.owner then memBytes s.mem (tileAt core 0) 0x180000 else List.replicate 0x180000 0#8
  wordsBytes (padWords 1024 ([w core, w ts.length, w ps.length, w ms.length] ++ [0, 1, 2, 3].flatMap fun n => countWords (counterOf c.cnt core n))) ++
  wordsBytes (fileWords s c.owner core (ps.map (·.2.2))) ++ tile ++
  wordsBytes (padWords 1024 ((ms.take 16).flatMap (matWords (ts.map (·.id))))) ++ wordsBytes (ts.flatMap (teamWords s)) ++
  wordsBytes (ps.flatMap fun p => podWords p.1 p.2.2)

/-- R340: the words of a tile record under way. -/
def recordWordsOf (t : Option StsRecord) : List W32 :=
  match t with
  | none => [0#32, 0#32]
  | some t => [BitVec.ofNat 32 (2 ^ 31 + t.pred * 4 + t.rk), BitVec.ofNat 32 t.left]

/-- R339: the words of an STS header. -/
def headerWordsOf (h : Option StsHeader) : List W32 :=
  match h with
  | none => [0#32, 0#32]
  | some h => [BitVec.ofNat 32 (h.th * 2 ^ 16 + h.tw), BitVec.ofNat 32 h.ntile]

/-- R338: the words of a Deflate block: its kind and what is left of a stored one. -/
def blockWords (b : Block) : List W32 :=
  match b with
  | .head => [0#32, 0#32]
  | .stored n => [1#32, BitVec.ofNat 32 n]
  | .codes _ _ => [2#32, 0#32]
  | .over => [3#32, 0#32]

/-- R338: the code lengths of a Deflate block, a byte each: 288 of literals and lengths, 32 of distances. -/
def lengthBytes (b : Block) : List Byte :=
  match b with
  | .codes lit dist => (lit ++ dist).map (BitVec.ofNat 8)
  | _ => List.replicate 320 0#8

/-- Bytes padded with zeros to n. -/
def padBytes (n : Nat) (l : List Byte) : List Byte := (l ++ List.replicate (n - l.length) 0#8).take n

/-- R344, R358: the decoder state of an engine, 40 KiB: its node, the source bytes received, the granules written, the tiles checked, the numbers of
undecoded bytes, window bytes, unused bytes and tile bytes, the bits decoded of the next byte, the block, the STS header and record, and the code
lengths; from 4 KiB on the Deflate window, newest byte first, and then the undecoded source bytes (log 16). -/
def decoderBytes (s : State) (owner eng : Nat) : List Byte :=
  match engineOf s owner eng with
  | none => List.replicate 40960 0#8
  | some x =>
    let d := x.dec
    let n (k : Nat) : W32 := BitVec.ofNat 32 k
    wordsBytes (padWords 32 ([x.node] ++ wordPair x.got ++ [n x.written, n x.checked, n x.buf.length, n d.window.length, n d.ready, n d.cur.length, n d.bit, n (bitAt d.final 0)] ++
      blockWords d.block ++ headerWordsOf d.header ++ recordWordsOf d.tile)) ++
    padBytes 3968 (lengthBytes d.block) ++ padBytes 32768 d.window ++ padBytes 4096 x.buf

/-- R341, R344, R358: the tile cache of an engine: the tiles decoded, tile n in place n modulo 64 of 64 KiB each, the one under way in its own place
(log 16). -/
def cacheBytes (s : State) (owner eng : Nat) : List Byte :=
  match engineOf s owner eng with
  | none => List.replicate 0x400000 0#8
  | some x => (List.range 64).flatMap fun i =>
      padBytes 65536 (if x.dec.tile.isSome && i == x.checked % 64 then x.dec.cur else x.dec.tiles.getD ((x.checked % 64 + 127 - i) % 64) [])

/-- R358, R376: a die section: the slice selects, the slice counters, the transform engines, the die scratch. -/
def dieBytes4 (s : State) (c : Context) (die : Nat) : List Byte :=
  let counts := (List.range 32).flatMap fun i => [0, 1, 2, 3].flatMap fun n => countWords (counterOf c.slcnt (32 * die + i) n)
  let scratch := if isResident s c.owner then memBytes s.mem (scratchAt die 0) (c.scratch * 0x300000) else List.replicate (c.scratch * 0x300000) 0#8
  wordsBytes (padWords 256 c.slsel.toList ++ padWords 768 counts) ++
  ([0, 1, 2, 3].flatMap fun e => decoderBytes s c.owner (4 * die + e)) ++ ([0, 1, 2, 3].flatMap fun e => cacheBytes s c.owner (4 * die + e)) ++ scratch

/-- R358: a processor's stopping point: 1 before an instruction, 2 at its waited transfer, 3 suspended by a record, 4 ended. -/
def stopWords (ph : Phase) : List W32 :=
  match ph with
  | .ready | .asleep _ => [1#32, 0#32]
  | .waiting _ _ => [2#32, 0#32]
  | .suspended seq => [3#32, BitVec.ofNat 32 seq]
  | .ended => [4#32, 0#32]

/-- R358: the node or request of a collective. -/
def Collective.handle (k : Collective) : W32 := match k.queue with | some (_, n) => BitVec.ofNat 32 n | none => k.node

/-- R358: a fabric processor's record: PC, f0 to f15, CDS, KEY, STEP, TLIM, the node or request, the stopping point; zeros of an idle one. -/
def fabricWords (s : State) (c : Context) (f : Nat) : List W32 :=
  match c.processors.find? fun p => p.index == f && p.coll.isSome with
  | none => List.replicate 64 0#32
  | some p =>
    let k := (s.colls.find? fun k => p.coll == some k.id).getD Collective.reset
    padWords 64 (wordPair p.pc.toNat ++ p.f.toList.flatMap (fun v => wordPair v.toNat) ++ padWords 16 p.cds ++ [p.key, p.step, p.tlim, k.handle] ++
      stopWords p.phase)

/-- A node's status in an image. -/
def nodeStatusWord (n : Node) : W32 :=
  match n.status with
  | .posted => 0#32
  | .running => 1#32
  | .finished st => 2#32 ||| (st <<< 2)

/-- R358: the graph section. -/
def graphWords (s : State) (owner : Nat) : List W32 :=
  (streamsOf s owner).flatMap fun x =>
    [BitVec.ofNat 32 x.1, BitVec.ofNat 32 x.2.next, BitVec.ofNat 32 x.2.tape, BitVec.ofNat 32 x.2.nodes.length] ++
    x.2.nodes.flatMap fun n => padWords 32 n.words ++ [n.handle, nodeStatusWord n, BitVec.ofNat 32 n.stamp, n.grid.getD 0#32]

/-- R358: the 96 bytes of a ticket entry. -/
def entryBytes (e : TkEntry) : List Byte :=
  natBytes 8 e.va.toNat ++ natBytes 2 e.ticket.toNat ++ natBytes 2 e.mask.toNat ++ natBytes 1 (e.region + bitAt e.bf16 4) ++ natBytes 1 e.pod ++
  natBytes 2 e.core ++ natBytes 4 e.handle.toNat ++ List.replicate 12 0#8 ++ wordsBytes (padWords 16 e.data)

/-- R358: the offset of the die scratch in a die section. -/
def scratchOff : Nat := 164 * 1024 + 4 * 0x400000

/-- R358: the bytes of an image. -/
def Image.size (m : Image) : Nat := m.tickets + 96 * m.spill.length

/-- R357, R358: an owner's image written, with its layout; poison of tile stores and die scratch travels with it (R106). An area that no
access reaches takes none of it (R10). -/
def writeImage (s : State) (owner : Nat) : State :=
  let c := s.ctxOf owner
  let m := imageOf s owner
  match imageHole c m.size with
  | some pa => (postRecord s (graphSite owner 0#32 0#32) (imageStop pa accWrite)).mapCtx owner fun c => { c with image := m, entries := [] }
  | none =>
  let t := imagePut s c 0 (wordsBytes (padWords 1024 m.header))
  let t := imagePut t c ctxOff (wordsBytes (contextWords c))
  let t := m.cores.foldl (fun t x => imagePut t c x.off (coreBytes s c x.core)) t
  let t := m.dies.foldl (fun t x => imagePut t c x.2 (dieBytes4 s c x.1)) t
  let t := imagePut t c m.fabric (wordsBytes ((partFabric s c.part).flatMap (fabricWords s c)))
  let t := imagePut t c m.graph (wordsBytes (graphWords s owner))
  let t := imagePut t c m.tickets (m.spill.flatMap fun e => entryBytes e.2)
  let t := if isResident s owner then m.cores.foldl (fun t x => movePoison t (tileAt x.core 0) 0x180000 fun i => imagePlace c (x.off + 0x101000 + i)) t else t
  let t := if isResident s owner then m.dies.foldl (fun t x => movePoison t (scratchAt x.1 0) (c.scratch * 0x300000) fun i => imagePlace c (x.2 + scratchOff + i)) t else t
  t.mapCtx owner fun c => { c with image := m, entries := [] }

/-! ### What is read back -/

/-- R358, R359: a check of restore; none where the image breaks it. -/
def holds (ok : Bool) : Option Unit := if ok then some () else none

/-- R73, R222, R359, R369: the limits of the registers of a context section. -/
def registersOk (w : List W32) : Bool :=
  let gap := ((wordAt w 0).extractLsb' 0 5).toNat
  let hi := ((wordAt w 2).extractLsb' 8 8).toInt
  let lo := ((wordAt w 2).extractLsb' 0 8).toInt
  (wordAt w 0).extractLsb' 5 26 == 0#26 && !(1 ≤ gap && gap ≤ 9) && (wordAt w 1).extractLsb' 24 4 == 0#4 && lo ≤ hi && -126 ≤ lo && -126 ≤ hi

/-- R369: the limits of a select register of a kind. -/
def selectOk (kind : Nat) (w : W32) : Bool := w.extractLsb' 8 20 == 0#20 && eventKnown kind (w.extractLsb' 0 8).toNat

/-- R220, R359: region k of a context restored from its record; the pages of its array are found again. -/
def restoreRegion (s : State) (c : Context) (old : Option Region) (k : Nat) (b : List Byte) : Option Context :=
  let r := regionRecord b
  if b.all (· == 0#8) then some c
  else if !r.valid || !r.clean || regionBad c k r then none
  else match arrayPages s c (pagesOf r.cntr (2 * r.ngran)) with
    | .error _ => none
    | .ok pages =>
      let new : Region := { base := r.base, ngran := r.ngran, cntr := r.cntr, pages := pages, counters := [], posted := (old.map (·.posted)).getD [] }
      some { c with regions := c.regions.setIfInBounds k (some new) }

/-- R358, R359: the context section read and checked. -/
def restoreContext (s : State) (c : Context) : Option Context := do
  let w := imageWords s c ctxOff 24
  let ds := (List.range 4096).map fun t => (t, imageWords s c (ctxOff + 4096 + 64 * t) 16)
  holds (registersOk w && ((w.drop 20).all (selectOk 0)) && ds.all fun d => descOk d.2)
  let c' := { c with tkctl := wordAt w 0, lscale := wordAt w 1, lsctl := wordAt w 2, srstep := wordAt w 3,
                     srkey := Vector.ofFn fun k : Fin 16 => wordAt w (4 + k.val), cntsel := Vector.ofFn fun k : Fin 4 => wordAt w (20 + k.val),
                     descs := ds.filter (fun d => d.2 != List.replicate 16 0#32), regions := Vector.replicate 16 none }
  (List.range 16).foldlM (fun d k => restoreRegion s d (c.regions.getD k none) k (imageGet s c (ctxOff + 128 + 32 * k) 32)) c'

/-- R359, R369, R374, R376: the counter that an image holds at an offset, or none where bits [62:48] are not 0; under ZERO its count is 0. -/
def restoreCount (s : State) (c : Context) (zero : Bool) (o unit n frac : Nat) : Option Counter :=
  let v := bytesNat (imageGet s c o 8)
  if v / 2 ^ 48 % 2 ^ 15 != 0 then none
  else some ⟨unit, n, if zero then 0#48 else BitVec.ofNat 48 v, decide (2 ^ 63 ≤ v), if zero then 0 else frac⟩

/-- R376: the counters of a list of units, four each, restored from the places given under their select registers; a part of an event stays only
under the EVENT that it was counted for, the one of the selects before. -/
def restoreCounts (s : State) (c : Context) (sel before : Vector W32 4) (old : List Counter) (places : List (Nat × Nat)) : Option (List Counter) :=
  (places.flatMap fun x => [0, 1, 2, 3].map fun n => (x, n)).foldlM (fun l y =>
    let same : Bool := (sel.getD y.2 0#32).extractLsb' 0 8 == (before.getD y.2 0#32).extractLsb' 0 8
    (restoreCount s c ((sel.getD y.2 0#32).getLsbD 29) (y.1.2 + 8 * y.2) y.1.1 y.2 (if same then (counterOf old y.1.1 y.2).frac else 0)).map fun x => putCounter l x) []

/-- R353, R359: the record by which an image may hold an agent suspended: one of that agent that no RESUME has answered, or whose RESUME has yet to
take effect, or the one that held it when it was saved. -/
def heldBy (c : Context) (a : AgentRef) (own : Nat → Bool) (w : W32) : Option Nat :=
  (c.records.find? fun r => r.seq % 2 ^ 32 == w.toNat &&
    (own r.seq || (r.resum && r.agent == a && (!r.answered || c.resumes.contains r.seq)))).map (·.seq)

/-- R359: a pod restored from its record at an offset and its window of the register files at another; a names it. One that was terminated stays
ended. That a switch saves and restores registers without a check of their parity, which stays as it was, is the model's choice (log 27). -/
def restorePod (s : State) (c : Context) (o file team : Nat) (a : AgentRef) (p : Pod) : Option Pod := do
  let w := imageWords s c o 48
  let at_ := fieldAt w 34
  let md := at_ / 2 ^ 50 % 8
  let sp := fieldAt w 32
  let pw := wordAt w 36
  let shape : BitVec 7 := (wordAt w 37).extractLsb' 21 7
  let state := ((wordAt w 40).extractLsb' 0 2).toNat
  holds (wordAt w 40 == podPlace team p state && (wordAt w 37).extractLsb' 0 13 == p.ws ++ p.wb && zeroWords w 42 47 && at_ / 2 ^ 53 == 0 && at_ / 2 ^ 48 % 4 != 3 &&
    pw.extractLsb' 0 4 == 0xF#4 && decide (pw.toNat < 2 ^ (4 * (md + 1))) && sp % 16 == 0 && decide (sp < 2 ^ 51) &&
    (wordAt w 37).extractLsb' 28 4 == 0#4 && (shape == p.shape || shapeValid shape) && (wordAt w 38).extractLsb' 16 16 == 0#16 &&
    (wordAt w 39).extractLsb' 28 4 == 0#4)
  let reg (r l : Nat) : W32 :=
    wordAt (imageWords s c (file + 0x20000 * p.part + 16 * (16 * (p.wb.toNat + r) + p.index % 16) + 4 * l) 1) 0
  let phase ← (if p.phase == .ended || state == 1 then some Phase.ended
    else if state == 3 then (heldBy c a p.phase.suspendedBy (wordAt w 41)).map Phase.suspended
    else some Phase.ready)
  return { p with
    s := Vector.ofFn fun k : Fin 32 => wordAt w k.val, sp := BitVec.ofNat 64 sp, pc := BitVec.ofNat 48 at_, slot := BitVec.ofNat 2 (at_ / 2 ^ 48),
    md := BitVec.ofNat 3 md, pw := pw, cd := (wordAt w 37).extractLsb' 13 8, shape := shape, srsel := (wordAt w 38).extractLsb' 0 16,
    v := Vector.ofFn fun r : Fin 128 => if r.val < 16 * p.ws.toNat then Vector.ofFn fun l : Fin 4 => reg r.val l.val else p.v[r],
    p := Vector.ofFn fun k : Fin 7 => (wordAt w 39).extractLsb' (4 * k.val) 4, phase := phase }

/-- The pods of a core section restored, their records end to end from an offset; a pod that is gone is passed over. -/
def restorePods (c : Context) (file : Nat) : Nat → List (Nat × Nat × Nat) → State → Option State
  | _, [], s => some s
  | o, (rec_, team, pod) :: ps, s =>
    match ((s.teams.find? (·.id == team)).bind fun t => t.pods.find? (·.index == pod)) with
    | none => restorePods c file (o + 192) ps s
    | some p => do
      let q ← restorePod s c o file rec_ (.pod team pod) p
      restorePods c file (o + 192) ps (s.mapTeamPod team pod fun _ => q)

/-- R359: the SHAPE grant of a word in the form of SHAPEQ. -/
def grantOfWord (w : W32) : BitVec 7 := shapeGrant (w.extractLsb' 0 8).toNat (w.extractLsb' 8 8).toNat (w.extractLsb' 16 8).toNat

/-- R238, R359: the instruction of a saved engine command: its word decodes to a command of the same kind. -/
def savedCommand (matrix : Bool) (w : W32) : Option Instr :=
  match decodeCore w none with
  | .ok (.tcpy x y z l) => if matrix then none else some (.tcpy x y z l)
  | .ok (.tcpyw x y z l) => if matrix then none else some (.tcpyw x y z l)
  | .ok (.mma f x y z l g) => if matrix then some (.mma f x y z l g) else none
  | .ok (.mmab f x y z l g) => if matrix then some (.mmab f x y z l g) else none
  | .ok (.mdrain f x y z l g) => if matrix then some (.mdrain f x y z l g) else none
  | .ok (.tzero x y l) => if matrix then some (.tzero x y l) else none
  | .ok (.trot x y l) => if matrix then some (.trot x y l) else none
  | .ok (.tscl f x y z l) => if matrix then some (.tscl f x y z l) else none
  | _ => none

/-- R241: a context with the descriptors that a command captured, in place of its own. -/
def Context.withDescs (c : Context) (l : List (W32 × List W32)) : Context := { c with descs := l.map fun x => (regionTid x.1, x.2) }

/-- R81, R240, R241, R359: whether a restored command passes the checks of its issue, with its own copies of the descriptors. -/
def MatCmd.passes (m : MatCmd) (c : Context) (size : Nat) : Bool :=
  let ds := ([(m.sx, m.dx), (m.sy, m.dy), (m.sz, m.dz)] : List (W32 × List W32)).take m.uses.length
  (ds.all fun a => ds.all fun b => regionTid a.1 != regionTid b.1 || a.2 == b.2) && (m.check (c.withDescs ds) size).isNone

/-- R241, R359: a matrix command re-queued as the image holds it. -/
def restoreMat (s : State) (c : Context) (teams : List Nat) (o : Nat) (m : MatCmd) : Option MatCmd := do
  let w := imageWords s c o 64
  let i ← savedCommand true (wordAt w 0)
  let team ← teams[(wordAt w 5).toNat]?
  let shape := grantOfWord (wordAt w 7)
  let stopped := if (wordAt w 11).getLsbD 31 then heldBy c (.matrix m.id) (m.stopped == some ·) (wordAt w 12) else none
  holds (shapeWord shape == wordAt w 7 && modeWritten (wordAt w 9) == wordAt w 9 && modeRmOk (wordAt w 9) && (wordAt w 11).getLsbD 31 == stopped.isSome &&
    (s.teams.any fun t => t.id == team && t.pods.any (·.index == (wordAt w 6).toNat)) &&
    zeroWords w 14 15 && ([16, 32, 48].all fun k => descOk ((w.drop k).take 16)))
  let n : MatCmd := { m with
    instr := i, sx := wordAt w 1, sy := wordAt w 2, sz := wordAt w 3, sz1 := wordAt w 4, team := team, pod := (wordAt w 6).toNat, shape := shape,
    step := wordAt w 8, mode := wordAt w 9, key := wordAt w 10, next := (wordAt w 11).toNat % 2 ^ 31,
    stopped := stopped, legNo := (wordAt w 13).toNat,
    dx := (w.drop 16).take 16, dy := (w.drop 32).take 16, dz := (w.drop 48).take 16 }
  holds (n.passes c (((s.teams.find? (·.id == team)).map (·.tileSize)).getD 0) && (if n.ticketed then decide (n.next ≤ n.granules.length) else n.next == m.next))
  return n

/-- The saved matrix commands of a core re-queued, in acceptance order; one that is gone is passed over. -/
def restoreMats (s : State) (c : Context) (teams : List Nat) : Nat → List Nat → Option State
  | _, [] => some s
  | o, id :: ids =>
    match s.mats.find? (·.id == id) with
    | none => restoreMats s c teams (o + 256) ids
    | some m => do
      let n ← restoreMat s c teams o m
      restoreMats { s with mats := replaceIf s.mats (·.id == id) fun _ => n } c teams (o + 256) ids

/-- R90, R240, R359: a copy command of a logical channel read back from six words: it passes the checks of its issue, with its own copy of the
descriptor. -/
def restoreCopy (c : Context) (size k : Nat) (w : List W32) (m : CopyCmd) : Option CopyCmd := do
  let i ← savedCommand false (wordAt w 0)
  let n : CopyCmd := { m with instr := i, sx := wordAt w 1, sy := wordAt w 2, sy1 := wordAt w 3, sz := wordAt w 4 }
  holds (copyChannel n == k && (n.check (c.withDescs [(n.sx, n.desc)]) size).isNone)
  return n

/-- R90, R359: logical channel k of a team read back from its CHPTR and its command words; a running command has delivered no more granules than
it moves. -/
def restoreChannel (c : Context) (size k : Nat) (ptr : W32) (w : List W32) (ch : Channel) : Option Channel := do
  let cnt := (ptr.extractLsb' 0 24).toNat
  let cur ← (match ch.current with
    | none => some none
    | some m => do
      let n ← restoreCopy c size k w m
      holds ((wordAt w 5).toNat == cnt && decide (cnt ≤ copyCount n))
      return some n)
  let queue ← ch.queue.zipIdx.mapM fun m => restoreCopy c size k (w.drop (6 * (m.2 + 1))) m.1
  return { ch with seq := ptr.extractLsb' 24 8, cnt := ptr.extractLsb' 0 24, current := cur, queue := queue }

/-- R62, R63, R232, R359: a team read back from its record: MODE, FLAGS, the BAR instances completed, its pointers and its channels; what
names the team and its allocation is as it was saved. -/
def restoreTeam (s : State) (c : Context) (o : Nat) (t : Team) : Option Team := do
  let w := imageWords s c o 256
  let old := teamWords s t
  let mode := wordAt w 3
  holds ((w.take 3) == old.take 3 && wordAt w 5 == wordAt old 5 && (w.drop 15).take 2 == (old.drop 15).take 2 && zeroWords w 233 255 &&
    modeWritten mode == mode && modeRmOk mode && (wordAt w 4).extractLsb' 5 27 == 0#27)
  let ch (k : Nat) : Option Channel := restoreChannel c t.tileSize k (wordAt w (7 + k)) (w.drop (17 + 54 * k)) (t.chans.getD k Channel.reset)
  let c0 ← ch 0
  let c1 ← ch 1
  let c2 ← ch 2
  let c3 ← ch 3
  let bars := (wordAt w 6).toNat
  return { t with
    mode := mode, flags := wordAt w 4, bars := bars, chans := #v[c0, c1, c2, c3], xfptr := Vector.ofFn fun k : Fin 4 => wordAt w (11 + k.val),
    pods := t.pods.map fun p => { p with arrivals := bars - (t.bars - p.arrivals), barsDone := bars - (t.bars - p.barsDone) } }

/-- The teams of a core restored, their records end to end from an offset; a team that is gone is passed over. -/
def restoreTeams (s : State) (c : Context) : Nat → List Nat → Option State
  | _, [] => some s
  | o, id :: ids =>
    match s.teams.find? (·.id == id) with
    | none => restoreTeams s c (o + 1024) ids
    | some t => do
      let n ← restoreTeam s c o t
      restoreTeams (s.mapTeam id fun _ => n) c (o + 1024) ids

/-- R106, R359: n bytes of an image stored at a place of the module; its poisoned granules poison those there. -/
def restoreBytes (s : State) (c : Context) (o n dst : Nat) : State :=
  let t := storeAt s c.key dst (imageGet s c o n)
  { t with poison := (List.range (n / 64)).foldl (fun p i =>
      if (poisonIn s.poison (imagePlace c (o + 64 * i)) 64).isSome then addOnce p ((dst + 64 * i) / 64) else p) t.poison }

/-- R9, R25, R359: the register files of a core read back. The core again counts as one on which the owner has left values, where it was one or where
the image brings any. -/
def restoreFiles (s : State) (c : Context) (x : ImageCore) : State :=
  let b := imageGet s c (x.off + 0x1000) 0x100000
  let t := storeAt s c.key (fileAt x.core 0) b
  if x.used || b.any (· != 0#8) then { t with used := addOnce t.used x.core } else t

/-- R359: the section of a core read back: its teams and their pods, its register files, its tile store, its commands. -/
def restoreCore (s : State) (c : Context) (x : ImageCore) : Option State := do
  let w := imageWords s c x.off 1024
  holds (w.take 4 == [x.core, x.teams.length, x.pods.length, x.mats.length].map (BitVec.ofNat 32) && zeroWords w 12 1023)
  let s ← restoreTeams s c (x.off + 0x282000) x.teams
  let s ← restorePods c (x.off + 0x1000) (x.off + 0x282000 + 1024 * x.teams.length) x.pods s
  let s ← restoreMats s c x.teams (x.off + 0x281000) (x.mats.take 16)
  return restoreBytes (restoreFiles s c x) c (x.off + 0x101000) 0x180000 (tileAt x.core 0)

/-- R339, R359: an STS header read back; none where it breaks its limits. -/
def restoreHeader (a n : W32) : Option (Option StsHeader) :=
  let tw := a.toNat % 2 ^ 16
  let th := a.toNat / 2 ^ 16
  if a == 0#32 && n == 0#32 then some none
  else if tw != 0 && th != 0 && tw * th ≤ 32768 && n != 0#32 && n.toNat ≤ 2 ^ 24 then some (some ⟨tw, th, n.toNat⟩)
  else none

/-- R338, R359: a Deflate block read back with its code lengths; none where it breaks its limits. -/
def restoreBlock (kind left : W32) (codes : List Byte) : Option Block :=
  let lens := codes.map (·.toNat)
  let plain : Bool := codes.all (· == 0#8)
  match kind.toNat with
  | 0 => if plain && left == 0#32 then some .head else none
  | 1 => if plain && left != 0#32 && left.toNat < 2 ^ 16 then some (.stored left.toNat) else none
  | 2 =>
    if left == 0#32 && lens.all (· ≤ 15) && huffComplete (lens.take 288) && huffDistance (lens.drop 288) then some (.codes (lens.take 288) (lens.drop 288)) else none
  | 3 => if plain && left == 0#32 then some .over else none
  | _ => none

/-- R340, R359: an STS tile record read back, with what its kind leaves of a tile of which n bytes stand. -/
def restoreRecord (h : Option StsHeader) (a left : W32) (n : Nat) : Option (Option StsRecord) :=
  let rk := a.toNat % 4
  let pred := a.toNat / 4 % 4
  match h with
  | none => if a == 0#32 && left == 0#32 && n == 0 then some none else none
  | some h =>
    if a == 0#32 then (if left == 0#32 && n == 0 then some none else none)
    else if a.toNat == 2 ^ 31 + 4 * pred + rk && rk != 3 && pred != 3 && n ≤ h.size && n % 2 == 0 &&
        (match rk with | 0 => left.toNat + n == h.size | 1 => true | _ => pred == 0 && left == 0#32 && n == h.size) then
      some (some ⟨rk, pred, left.toNat⟩)
    else none

/-- R336 to R342, R359: whether the counts of some work fit one another and the limits of its node. -/
def Xform.fits (words : List W32) (x : Xform) : Bool :=
  let slen := (wordAt words 22).toNat
  let d := x.dec
  x.got ≤ slen && x.buf.length ≤ min inputRoom x.got && x.written ≤ xfLimit words && d.bit < 8 && (d.bit == 0 || !x.buf.isEmpty) &&
  d.ready ≤ d.window.length &&
  (match xfKind words with
    | 0 => d == Decoder.reset && x.checked == 0 && x.got - x.buf.length == min slen (64 * x.written)
    | 1 => d.ready ≤ 321 && x.checked == 0 && d.header.isNone && d.tile.isNone && d.cur.isEmpty
    | _ => match d.header with
      | none => x.checked == 0 && x.written == 0 && d == Decoder.reset && x.got == x.buf.length
      | some h => x.checked ≤ h.ntile && (if d.tile.isSome then x.checked < h.ntile && d.ready ≤ 1 else d.ready ≤ d.window.length) &&
        x.checked * h.granules ≤ x.written && 64 * (x.written - x.checked * h.granules) < d.cur.length + 64 &&
        x.written ≤ (x.checked + 1) * h.granules)

/-- R335, R344, R359: the work of an engine read back: its decoder, its window and its tile cache, and the source bytes that it had, after which come
those that have arrived since. -/
def restoreEngine (s : State) (c : Context) (die : Nat) (m : ImageEngine) (x : Xform) : Option Xform := do
  let o := die + 4096 + 40 * 1024 * (m.eng % 4)
  let cache (i n : Nat) : List Byte := imageGet s c (die + 164 * 1024 + 0x400000 * (m.eng % 4) + 65536 * (i % 64)) n
  let w := imageWords s c o 32
  let n (k : Nat) : Nat := (wordAt w k).toNat
  let zero (a z : Nat) : Bool := (imageGet s c (o + a) (z - a)).all (· == 0#8)
  let node ← s.nodeOf x.node
  holds (wordAt w 0 == x.node && zeroWords w 17 31 && zero 448 4096 && n 5 ≤ 4096 && n 6 ≤ 32768 && n 8 ≤ 65536 && wordAt w 10 ≤ 1#32 &&
    zero (4096 + n 6) 36864 && zero (36864 + n 5) 40960)
  let h ← restoreHeader (wordAt w 13) (wordAt w 14)
  let t ← restoreRecord h (wordAt w 15) (wordAt w 16) (n 8)
  let b ← restoreBlock (wordAt w 11) (wordAt w 12) (imageGet s c (o + 128) 320)
  let size := match h with | some h => h.size | none => 0
  let d : Decoder := { bit := n 9, block := b, final := wordAt w 10 == 1#32, window := imageGet s c (o + 4096) (n 6), ready := n 7, header := h, tile := t, cur := cache (n 4) (n 8),
                       tiles := (List.range (min (n 4) (if t.isSome then 63 else 64))).map fun k => cache (n 4 - 1 - k) size }
  let y := { x with got := fieldAt w 1, buf := imageGet s c (o + 36864) (n 5), dec := d, written := n 3, checked := n 4 }
  let z := { y with got := y.got + (x.got - m.got), buf := y.buf ++ x.buf.drop m.kept }
  holds (y.fits node.words && z.fits node.words)
  return z

/-- The transform nodes of an image restored among the saved work; a node that is over is passed over. -/
def restoreEngines (s : State) (c : Context) (dies : List (Nat × Nat)) : List ImageEngine → Option State
  | [] => some s
  | m :: ms =>
    match s.parked.find? (·.node == m.node), dies.find? (·.1 == m.eng / 4) with
    | some x, some d => do
      let y ← restoreEngine s c d.2 m x
      restoreEngines { s with parked := replaceIf s.parked (·.node == m.node) fun _ => y } c dies ms
    | _, _ => restoreEngines s c dies ms

/-- R332, R359: a processor's phase as its stopping point gives it; one at a waited transfer that has landed goes on after it. -/
def phaseOfStop (c : Context) (p : Fabric) (w seq : W32) : Option Phase :=
  match w.toNat with
  | 1 => some .ready
  | 2 => some p.phase
  | 3 => (heldBy c (.fabric p.index) p.phase.suspendedBy seq).map Phase.suspended
  | 4 => some .ended
  | _ => none

/-- R296, R299, R359: a saved processor read back from its record. -/
def restoreProcessor (s : State) (c : Context) (o : Nat) (p : Fabric) : Option Fabric :=
  match s.colls.find? fun k => p.coll == some k.id with
  | none => some p
  | some k => do
    let w := imageWords s c o 64
    let cds := (w.drop 34).take 16
    let pc := fieldAt w 0
    holds (decide (pc < 2 ^ 51) && pc % 4 == 0 && cdsOk cds && wordAt w 52 != 0#32 && wordAt w 53 == k.handle && zeroWords w 56 63)
    let ph ← phaseOfStop c p (wordAt w 54) (wordAt w 55)
    let landed := wordAt w 54 == 2#32 && p.phase == .ready
    return { p with pc := BitVec.ofNat 51 (if landed then pc + 4 else pc), f := Vector.ofFn fun r : Fin 16 => BitVec.ofNat 64 (fieldAt w (2 + 2 * r.val)),
                    cds := cds, key := wordAt w 50, step := wordAt w 51, tlim := wordAt w 52, phase := ph }

/-- R387: whether a completion entry may hold a status. -/
def statusKnown (w : W32) : Bool := decide (w.toNat ≤ 0x1F) || w == 0x100#32 || w == 0x200#32

/-- R359, R387: a node's status read back: one that has changed since it was saved keeps its own; the image may finish a node that was posted. -/
def statusOfWord (n : Node) (w : W32) : Option NodeStatus :=
  if w == nodeStatusWord n then some n.status
  else match n.status with
    | .finished st => some (.finished st)
    | .posted => if w.extractLsb' 0 2 == 2#2 && statusKnown (w >>> 2) then some (.finished (w >>> 2)) else none
    | .running => none

/-- R334, R359: whether a TRANSFORM node that runs keeps its destination within its bounds. -/
def runningFits (s : State) (c : Context) (n : Node) (w : List W32) : Bool :=
  match n.status, s.parked.find? (·.node == n.handle) with
  | .running, some x => xfDst w == xfDst n.words && (teamGone s x || xfFits s c.owner w (x.team.bind s.teamOf))
  | _, _ => true

/-- R282, R284, R359: the unfinished nodes of a stream read back from an offset; one that is over is passed over. -/
def restoreNodes (s : State) (c : Context) : Nat → List W32 → Option State
  | _, [] => some s
  | o, h :: hs =>
    match s.nodeOf h with
    | none => restoreNodes s c (o + 144) hs
    | some n => do
      let w := imageWords s c o 36
      holds (wordAt w 32 == h && (recordStop s c.owner (w.take 32)).isNone && wordAt w 34 == BitVec.ofNat 32 n.stamp && wordAt w 35 == n.grid.getD 0#32 &&
        (n.status == .posted || recType (w.take 32) == recType n.words) && runningFits s c n (w.take 32))
      let st ← statusOfWord n (wordAt w 33)
      restoreNodes (s.mapNode h fun n => { n with words := w.take 32, status := st }) c (o + 144) hs

/-- R281, R290, R359: the streams of an owner read back: sequence counters and tape depths, moved on by what was posted since they were saved,
and nodes. -/
def restoreStreams (s : State) (c : Context) : Nat → List ImageStream → Option State
  | _, [] => some s
  | o, x :: xs => do
    let w := imageWords s c o 4
    holds (wordAt w 0 == BitVec.ofNat 32 x.stream && decide ((wordAt w 2).toNat ≤ 4096) && wordAt w 3 == BitVec.ofNat 32 x.nodes.length)
    let s ← restoreNodes s c (o + 16) x.nodes
    let next (st : Stream) : Nat := x.next - x.next % 2 ^ 32 + (wordAt w 1).toNat + (st.next - x.next)
    let t := s.mapStream x.stream fun st => { st with next := next st, tape := (wordAt w 2).toNat + (st.tape - x.tape) }
    restoreStreams t c (o + 16 + 144 * x.nodes.length) xs

/-- R359: one ticket entry read back: its fields from the image, its team and its time from the spilled entry. -/
def restoreEntry (s : State) (c : Context) (o : Nat) (e : TkEntry) : Option TkEntry := do
  let b := imageGet s c o 96
  let va := bytesNat (b.take 8)
  let flags := bytesNat ((b.drop 12).take 1)
  let k := flags % 16
  let r ← c.regions.getD k none
  holds (decide (flags < 32) && va % 64 == 0 && decide (r.base ≤ va) && decide (va < r.base + 64 * r.ngran) &&
    ((b.drop 20).take 12).all (· == 0#8) && bytesNat ((b.drop 13).take 1) == e.pod && bytesNat ((b.drop 14).take 2) == e.core &&
    bytesNat ((b.drop 16).take 4) == e.handle.toNat)
  let pa ← (translate s c va accAtomic 0).toOption
  return { e with region := k, granule := (va - r.base) / 64, va := BitVec.ofNat 64 va, pa := pa, ticket := BitVec.ofNat 16 (bytesNat ((b.drop 8).take 2)),
                  mask := BitVec.ofNat 16 (bytesNat ((b.drop 10).take 2)), bf16 := decide (16 ≤ flags), data := bytesWords 16 (b.drop 32) }

/-- R228, R359: the entries accepted again, one after another, each with the time it had been pending. -/
def acceptAgain (s : State) (owner : Nat) : List TkEntry → Option State
  | [] => some s
  | e :: es => match acceptUpdate s owner e with
    | .accepted t =>
      acceptAgain (t.mapCtx owner fun c => { c with entries := c.entries.map fun x =>
        if x.region == e.region && x.granule == e.granule && x.ticket == e.ticket then { x with since := s.clock - e.since } else x }) owner es
    | _ => none

/-- R106, R359: whether a poisoned granule of an image lies outside its tile stores and die scratch, whose poison travels. -/
def imagePoisoned (s : State) (c : Context) (m : Image) : Bool :=
  (s.poison.any fun g => decide (c.imageBase < 64 * g + 64) && decide (64 * g < c.imageBase + min c.imageSize m.size) &&
    !(m.cores.any fun x => rangesMeet (64 * g - c.imageBase) 1 (x.off + 0x101000) 0x180000) &&
    !(m.dies.any fun d => rangesMeet (64 * g - c.imageBase) 1 (d.2 + scratchOff) (c.scratch * 0x300000)))

/-- R358, R359: an owner's image read back and checked; none where it fails. -/
def readImage (s : State) (owner : Nat) : Option State := do
  let c0 := s.ctxOf owner
  let m := c0.image
  holds ((imageHole c0 m.size).isNone && imageWords s c0 0 1024 == padWords 1024 m.header && (m.header.drop 1).take 2 == partWords s c0 &&
    !imagePoisoned s c0 m)
  let c ← restoreContext s c0
  let cnt ← restoreCounts s c c.cntsel c0.cntsel c.cnt (m.cores.map fun x => (x.core, x.off + 16))
  let sel := imageWords s c ((m.dies.map (·.2)).headD 0) 4
  holds (m.dies.all fun d => (imageWords s c d.2 4).all (selectOk 1) && zeroWords (imageWords s c d.2 256) 4 255)
  let slsel : Vector W32 4 := Vector.ofFn fun k : Fin 4 => wordAt sel k.val
  let slcnt ← restoreCounts s c slsel c0.slsel c.slcnt (m.dies.flatMap fun x => (List.range 32).map fun i => (32 * x.1 + i, x.2 + 1024 + 32 * i))
  let fs ← (partFabric s c.part).zipIdx.foldlM (fun l x => (l.mapM fun p =>
    if p.index == x.1 then restoreProcessor s c (m.fabric + 256 * x.2) p else some p)) c.processors
  let c := { c with cnt := cnt, slcnt := slcnt, slsel := slsel, entries := [], processors := fs, image := { m with spill := [] } }
  let t := s.mapCtx owner fun _ => c
  let t ← m.cores.foldlM (fun t x => restoreCore t c x) t
  let t := m.dies.foldl (fun t x => restoreBytes t c (x.2 + scratchOff) (c.scratch * 0x300000) (scratchAt x.1 0)) t
  let t ← restoreEngines t c m.dies m.engines
  let t ← restoreStreams t c m.graph m.streams
  let es ← m.spill.foldlM (fun l x => (restoreEntry t c (m.tickets + 96 * x.1) x.2).map fun e => l ++ [e]) []
  acceptAgain t owner es

end Sys2Proof.Machine
end

