-- ==== Sys2Proof/Machine/Switch.lean ====
section
/-! DEFINITION. World switches between the owners of a partition (R40, R103, R149, R225, R228, R241, R295, R332, R353 to R359, R374). -/

namespace Sys2Proof.Machine

/-! ### The outgoing owner -/

/-- R40, R149, R356: a pod at its boundary: its outstanding writes done, its lookahead windows discarded; a wait re-issues, a sleep is
over. -/
def savePhase (ph : Phase) : Phase :=
  match ph with
  | .waiting _ _ | .asleep _ => .ready
  | ph => ph

/-- R40, R149, R225, R237, R356: a pod stopped for a world switch; its arrival at an unfinished barrier instance is discarded. -/
def stopPod (s : State) (bars : Nat) (p : Pod) : Pod :=
  let p := skipDone s p
  { p.deliverAll with windows := [], arrivals := min p.arrivals bars, heldAt := none, phase := savePhase p.phase }

/-- R356: the pods of a team stopped; its sprout ends and is not restarted. -/
def stopTeam (s : State) (t : Team) : Team :=
  { t with sprout := none, pods := t.pods.map fun p => match openPod s t.id p.index with
      | some u => stopPod u t.bars p
      | none => stopPod s t.bars p }

/-- R356: every pod of an owner stopped. -/
def stopPods (s : State) (owner : Nat) : State :=
  { s with teams := s.teams.map fun t => if t.owner == owner then stopTeam s t else t }

/-- R241, R352: the commands of an owner that have begun to write run to completion. -/
def finishBegun (s : State) (owner : Nat) : State :=
  (s.mats.filter fun m => m.begun && matOwner s m == owner).foldl
    (fun s m => match execMatrixCommandCompletion m.id s with | .next t => t | _ => s) s

/-- R241: the commands of an owner that have not begun to write are queued again. -/
def requeue (s : State) (owner : Nat) : State :=
  { s with mats := s.mats.map fun m => if matOwner s m == owner && !m.begun then { m with started := false } else m }

/-- R311: the posted transfers whose source bytes an owner's processors were still reading. -/
def unreadTransfers (s : State) (owner : Nat) : List (Nat × Transfer) :=
  s.fabric.flatMap fun f => (f.transfers.filter fun t => t.owner == owner && t.posted && !t.read).map fun t => (f.index, t)

/-- R332: a processor as it is saved: stopped before its wait, fence or halt; a waited transfer goes on. -/
def saveProcessor (now : Nat) (f : Fabric) : Fabric :=
  let ph : Phase := match f.phase with
    | .waiting .engine k => .waiting .engine k
    | .waiting _ _ => .ready
    | ph => ph
  { f with phase := ph, waitFrom := now - f.waitFrom }

/-- R332: an owner's processors saved with its context; their places are idle, but for transfers of earlier collectives in flight. -/
def saveFabric (s : State) (owner : Nat) : State :=
  let s := (unreadTransfers s owner).foldl (fun s x => localCompletion s x.1 x.2) s
  let mine := s.fabric.filter (ownsProcessor s owner)
  let t := s.mapCtx owner fun c => { c with processors := c.processors ++ mine.map (saveProcessor s.fabClock) }
  { t with fabric := s.fabric.map fun f => if ownsProcessor s owner f then Fabric.reset f.index else f }

/-- R356: an owner's transform engines stop; the work on them is kept, before what was suspended, with the time its wait has lasted. -/
def saveTransforms (s : State) (owner : Nat) : State :=
  let mine := (s.xforms.toList.filterMap id).filter (·.owner == owner)
  { s with xforms := s.xforms.map fun x => x.filter (·.owner != owner),
           parked := (mine.map fun x => { x with waitFrom := s.fabClock - x.waitFrom }) ++
             replaceIf s.parked (·.owner == owner) fun x => { x with waitFrom := 0 } }

/-- R228, R356: an owner's pending entries keep how long they have been pending; its declared counters go back to their arrays. -/
def saveTickets (s : State) (owner : Nat) : State :=
  let c := s.ctxOf owner
  let s := c.regions.toList.foldl (fun s r => match r with | some r => writeBack s c.key r r.pages | none => s) s
  s.mapCtx owner fun c => { c with
    entries := c.entries.map fun e => { e with since := s.clock - e.since },
    regions := c.regions.map fun r => r.map fun r => { r with counters := [] } }

/-- R356 to R358: the outgoing owner of a partition saved. -/
def saveOwner (s : State) (owner : Nat) : State :=
  let s := requeue (finishBegun (stopPods s owner) owner) owner
  let s := writeImage (saveTickets (saveFabric s owner) owner) owner
  (saveTransforms s owner).mapCtx owner fun c => { c with tlb := [] }

/-- R103: the cores and the dies of a partition scrubbed; their register files are zero (R25). -/
def scrub (s : State) (part : Nat) : State :=
  let s := { s with used := s.used.filter fun k => !(partCores s part).contains k }
  let s := (partCores s part).foldl (fun s k => storeAt s 0 (tileAt k 0) (List.replicate 0x180000 0#8)) s
  let s := (partCores s part).foldl (fun s k => storeAt s 0 (fileAt k 0) (List.replicate 0x100000 0#8)) s
  (partDies s part).foldl (fun s d => storeAt s 0 (scratchAt d 0) (List.replicate 0x3000000 0#8)) s

/-! ### The incoming owner -/

/-- R33, R359: the pods of a team in bunches again: those of a home bunch that stand alike. base is a fresh number. -/
def formBunches (base : Nat) (ps : List Pod) : List Pod :=
  ps.map fun p => { p with bunch := base + ((ps.find? fun q => q.index / 16 == p.index / 16 && q.pc == p.pc && q.slot == p.slot && q.cd == p.cd &&
    q.md == p.md && q.phase == p.phase).map (·.index)).getD p.index }

/-- R33: every team of an owner in bunches again. -/
def formAll (s : State) (owner : Nat) : State :=
  let mine := (s.teams.filter (·.owner == owner)).map (·.id)
  { s with ids := s.ids + 256 * mine.length,
           teams := s.teams.map fun t => match mine.idxOf? t.id with
             | some i => { t with pods := formBunches (s.ids + 256 * i) t.pods }
             | none => t }

/-- R332, R359: an owner's processors in their places again; their limits start again, that of a transfer in flight goes on. One whose
collective is over leaves its transfers in flight. -/
def restoreFabric (s : State) (owner : Nat) : State :=
  let mine := (s.ctxOf owner).processors
  let since (f : Fabric) : Nat := match f.phase with | .waiting .engine _ => s.fabClock - f.waitFrom | _ => s.fabClock
  let t := s.mapCtx owner fun c => { c with processors := [] }
  { t with fabric := s.fabric.map fun f => match mine.find? (·.index == f.index) with
      | some p => if p.coll.isNone then { f with transfers := f.transfers ++ p.transfers }
                  else { p with waitFrom := since p, transfers := f.transfers ++ p.transfers }
      | none => f }

/-- R343, R359: an owner's transform engines go on, each with the first work kept for it; what finds its engine busy goes on waiting. -/
def restoreTransforms (s : State) (owner : Nat) : State :=
  s.parked.foldl (fun t x =>
    if x.owner == owner && x.stopped.isNone && (t.xforms.getD x.eng none).isNone then
      { setEngine t x.eng (some { x with waitFrom := t.fabClock - x.waitFrom }) with parked := t.parked.filter (·.node != x.node) }
    else t) s

/-- R353, R355: the RESUMEs that arrived while the owner was not resident take effect. -/
def applyResumes (s : State) (owner : Nat) : State :=
  let c := s.ctxOf owner
  let s := c.resumes.foldl (fun s k => match c.records.find? (·.seq == k) with | some r => resumeAgent s owner r | none => s) s
  s.mapCtx owner fun c => { c with resumes := [] }

/-- R354, R359: a restore that fails: a RESERVED-FIELD record of the graph engine to the PF, and the end of the context. -/
def failRestore (s : State) (owner : Nat) : State :=
  endContext (postRecord s (graphSite 0 0#32 0#32) (Stop.plain .reservedField)) owner 2 2

/-- R10, R103, R359: an owner made resident in its partition, its image read back; no TLB of the partition holds an entry. -/
def restoreOwner (s : State) (part owner : Nat) : State :=
  let s := (scrub s part).mapCtx owner fun c => { c with tlb := [] }
  let s := { s with resident := s.resident.setIfInBounds part (some owner), quantumFrom := s.quantumFrom.setIfInBounds part s.fabClock }
  let s := match imageHole (s.ctxOf owner) (s.ctxOf owner).image.size with
    | some pa => postRecord s (graphSite owner 0#32 0#32) (imageStop pa accRead)
    | none => s
  match readImage s owner with
  | none => failRestore s owner
  | some t => formAll (applyResumes (restoreTransforms (restoreFabric t owner) owner) owner) owner

/-! ### The end of a quantum -/

/-- R295: whether an owner has a ready or unfinished node. -/
def hasWork (s : State) (owner : Nat) : Bool := !(savedNodes s owner).isEmpty

/-- R295: the next owner of a partition with something to run, in increasing number after another, wrapping from 32 to 0; after 65
it is the lowest. -/
def nextOwner (s : State) (part after : Nat) : Option Nat :=
  ((List.range 33).map fun i => (after + 1 + i) % 33).find? fun o =>
    let c := s.ctxOf o
    c.created && !c.dead && c.part == part && o != after && hasWork s o

/-- R295, R354: a partition changes hands: the outgoing owner is saved, or has ended; the incoming one is restored. -/
def switchTo (s : State) (part out : Nat) (next : Option Nat) : State :=
  let s := if (s.ctxOf out).dead then finishBegun s out else saveOwner s out
  let s := { s with resident := s.resident.setIfInBounds part none }
  match next with
  | some o => restoreOwner s part o
  | none => scrub s part

/-- R295: the end of a partition's quantum, at 1,400,000 fabric clocks a ms: a world switch when another owner has work; without one
the resident owner runs on. An empty partition takes its first owner with work, and one whose context has ended is left. -/
def execQuantumEnd (part : Nat) (s : State) : Host.Outcome State Fault Refusal :=
  .next (if s.parts ≤ part then s
    else match s.resident.getD part none with
      | none => match nextOwner s part 65 with
        | some o => restoreOwner s part o
        | none => s
      | some out =>
        if (s.ctxOf out).dead then switchTo s part out (nextOwner s part out)
        else if s.fabClock < s.quantumFrom.getD part 0 + 1400000 * s.quantum.getD part 10 then s
        else match nextOwner s part out with
          | some o => switchTo s part out (some o)
          | none => { s with quantumFrom := s.quantumFrom.setIfInBounds part s.fabClock })

end Sys2Proof.Machine
end

