-- ==== Sys2Proof/Machine/Hernus.lean ====
section
/-! DEFINITION. Hernus: SHA3-512, the boot, the measurement log, and the commands of its mailbox (R360 to R367); the bring-up of the
link, resets, throttling and patrol scrubs (R106, R377, R385, R386). -/

namespace Sys2Proof.Machine

/-! ### SHA3-512 (FIPS 202) -/

/-- The round constants of Keccak-f[1600]. -/
def keccakRounds : List W64 :=
  [0x0000000000000001#64, 0x0000000000008082#64, 0x800000000000808A#64, 0x8000000080008000#64, 0x000000000000808B#64, 0x0000000080000001#64,
   0x8000000080008081#64, 0x8000000000008009#64, 0x000000000000008A#64, 0x0000000000000088#64, 0x0000000080008009#64, 0x000000008000000A#64] ++
  [0x000000008000808B#64, 0x800000000000008B#64, 0x8000000000008089#64, 0x8000000000008003#64, 0x8000000000008002#64, 0x8000000000000080#64,
   0x000000000000800A#64, 0x800000008000000A#64, 0x8000000080008081#64, 0x8000000000008080#64, 0x0000000080000001#64, 0x8000000080008008#64]

/-- The rotations of the lanes, lane x + 5y at place x + 5y. -/
def keccakRotations : List Nat := [0, 1, 62, 28, 27, 36, 44, 6, 55, 20, 3, 10, 43, 25, 39, 41, 45, 15, 21, 8, 18, 2, 61, 56, 14]

/-- Lane x + 5y of a state. -/
def keccakLane (a : List W64) (x y : Nat) : W64 := a.getD (x % 5 + 5 * (y % 5)) 0#64

/-- One round of Keccak-f. -/
def keccakRound (a : List W64) (rc : W64) : List W64 :=
  let col := (List.range 5).map fun x => keccakLane a x 0 ^^^ keccakLane a x 1 ^^^ keccakLane a x 2 ^^^ keccakLane a x 3 ^^^ keccakLane a x 4
  let par (x : Nat) : W64 := col.getD ((x + 4) % 5) 0#64 ^^^ (col.getD ((x + 1) % 5) 0#64).rotateLeft 1
  let th := (List.range 25).map fun i => (a.getD i 0#64 ^^^ par (i % 5)).rotateLeft (keccakRotations.getD i 0)
  let b := (List.range 25).map fun i => keccakLane th (i % 5 + 3 * (i / 5)) (i % 5)
  let c := (List.range 25).map fun i => keccakLane b (i % 5) (i / 5) ^^^ (~~~(keccakLane b (i % 5 + 1) (i / 5)) &&& keccakLane b (i % 5 + 2) (i / 5))
  (c.headD 0#64 ^^^ rc) :: c.drop 1

/-- Keccak-f[1600]. -/
def keccakF (a : List W64) : List W64 := keccakRounds.foldl keccakRound a

/-- The blocks of 72 bytes of a message absorbed; fuel is their number. -/
def keccakAbsorb : Nat → List W64 → List Byte → List W64
  | 0, a, _ => a
  | n + 1, a, m =>
    let block := (List.range 9).map fun i => BitVec.ofNat 64 (bytesNat ((m.drop (8 * i)).take 8))
    keccakAbsorb n (keccakF (a.zipIdx.map fun x => x.1 ^^^ block.getD x.2 0#64)) (m.drop 72)

/-- A message padded to whole blocks of 72 bytes. -/
def sha3Pad (m : List Byte) : List Byte :=
  let k := 72 - m.length % 72
  if k == 1 then m ++ [0x86#8] else m ++ 0x06#8 :: List.replicate (k - 2) 0#8 ++ [0x80#8]

/-- R364, R365: SHA3-512. -/
def sha3 (m : List Byte) : List Byte :=
  ((keccakAbsorb (m.length / 72 + 1) (List.replicate 25 0#64) (sha3Pad m)).take 8).flatMap fun w => natBytes 8 w.toNat

/-! ### The log and the boot -/

/-- R366: whether the log has room. -/
def Hernus.room (h : Hernus) : Bool := decide (h.log.length < 1024)

/-- R366: a description in ASCII, zero-padded to 48 bytes: what stands before the first zero of the bytes given, in seven bits. -/
def asciiText (l : List Byte) : List Byte :=
  let t := ((l.map (· &&& 0x7F#8)).takeWhile (· != 0#8)).take 48
  t ++ List.replicate (48 - t.length) 0#8

/-- R365: an event measured: its entry in the log, and the register. -/
def Hernus.measure (h : Hernus) (type arg : Nat) (digest : List Byte) : Hernus :=
  { h with mr := sha3 (h.mr ++ digest),
           log := h.log ++ [{ type := type, arg := arg, digest := digest, text := asciiText (List.ofFn (Config.logText h.log.length)) }] }

/-- R364: the fused minimum SVN, with what commands have raised. -/
def Hernus.minimum (h : Hernus) : Nat := max Config.fusedSvn h.minSvn

/-- R364: the four checks of a stage. -/
def stageOk (h : Hernus) (x : Stage) : Bool :=
  sha3 x.key == Config.fusedKey && sha3 x.body == x.digest && Config.verifies x.key x.digest x.sig && decide (h.minimum ≤ x.svn)

/-- R364, R365: the stages from stage k on, each measured before it runs; the first that fails ends the boot. -/
def bootStages (h : Hernus) (k : Nat) : List Stage → Hernus
  | [] => if k == 1 then { h with bootstat := 0x40000001#32 } else { h with bootstat := 0x80000000#32 }
  | x :: r =>
    if stageOk h x && h.room then bootStages { h.measure 0 x.svn x.digest with svn := x.svn } (k + 1) r
    else { h with bootstat := 0x40000000#32 ||| BitVec.ofNat 32 (k % 256) }

/-- R364, R385: the boot after module reset. -/
def execHernusBoot (s : State) : Host.Outcome State Fault Refusal :=
  .next (if s.hernus.bootstat == 0#32 then { s with hernus := bootStages s.hernus 1 Config.stages } else s)

/-- R377, R385: the link trains once the boot has ended, and the PF is visible. -/
def execLinkTraining (s : State) : Host.Outcome State Fault Refusal :=
  .next (if s.hernus.bootstat == 0#32 then s else { s with linkUp := true })

/-! ### The mailbox -/

/-- Hernus changed, and its answer to a function. -/
def hernusReply (s : State) (fn : Nat) (r : Option (State × List Byte)) : State :=
  match r with
  | none => { s with out := s.out ++ [.reply fn false] }
  | some (t, b) => { t with out := t.out ++ [.reply fn true], hernus := { t.hernus with replies := t.hernus.replies ++ [(fn, b)] } }

/-- R364: configuration commands run once Hernus is ready; they come from the PF. -/
def hernusReady (s : State) (fn : Nat) : Bool := s.linkUp && fn == 0 && s.hernus.bootstat.getLsbD 31 && s.hernus.room

/-- R100, R361: whether ranges of a grant meet those of any other owner. -/
def grantMeets (s : State) (owner : Nat) (grant : List (Nat × Nat)) : Bool :=
  s.owners.any fun c => c.owner != owner && c.created && c.grant.any fun a => grant.any fun b => rangesMeet a.1 a.2 b.1 b.2

/-- R357: whether an image area lies in a grant. -/
def areaIn (grant : List (Nat × Nat)) (base size : Nat) : Bool :=
  size == 0 || (List.range ((base + size - 1) / 2 ^ 27 - base / 2 ^ 27 + 1)).all fun i => inGrant grant ((base / 2 ^ 27 + i) * 2 ^ 27)

/-- R365: a configuration event measured, before it takes effect. -/
def measureEvent (s : State) (type owner : Nat) (args : List Nat) : State :=
  { s with hernus := s.hernus.measure type owner (sha3 (Config.mailboxBytes type args)) }

/-- R363: an owner's context as CREATE makes it; nothing of an earlier one carries over. -/
def newContext (c : Context) (key part scratch : Nat) (grant : List (Nat × Nat)) (image : Nat × Nat) : Context :=
  { Context.fresh c.owner with
    created := true, key := key, grant := grant, part := part, imageBase := image.1, imageSize := image.2, scratch := scratch,
    jobs := Config.jobKeys key }

/-- R363: the streams of an owner, empty and disabled. -/
def emptyStreams (s : State) (owner : Nat) : State :=
  { s with streams := s.streams.map fun st => if st.owner.toNat == owner then { Stream.reset with owner := st.owner } else st }

/-- R362, R363: CREATE; its first image holds the values of R363 (log 16). -/
def createOwner (s : State) (fn owner : Nat) (grant : List (Nat × Nat)) (part : Nat) (image : Nat × Nat) (scratch : Nat) : Option (State × List Byte) :=
  if !hernusReady s fn || 32 < owner || s.parts ≤ part || (s.ctxOf owner).created || grantMeets s owner grant || 64 < grant.length ||
     !areaIn grant image.1 image.2 || 16 < scratch then none
  else
    let s := measureEvent s 2 owner ([owner, part, image.1, image.2, scratch] ++ grant.flatMap fun r => [r.1, r.2])
    let key := s.hernus.keys + 1
    let s := emptyStreams { s with hernus := { s.hernus with keys := key } } owner
    some (writeImage (s.mapCtx owner fun c => newContext c key part scratch grant image) owner, [])

/-- R362. -/
def execCreate (fn owner : Nat) (grant : List (Nat × Nat)) (part : Nat) (image : Nat × Nat) (scratch : Nat) (s : State) :
    Host.Outcome State Fault Refusal :=
  .next (hernusReply s fn (createOwner s fn owner grant part image scratch))

/-- R361, R362: SETGRANT adds ranges. -/
def addGrant (s : State) (fn owner : Nat) (grant : List (Nat × Nat)) : Option (State × List Byte) :=
  let c := s.ctxOf owner
  if !hernusReady s fn || !c.created || grantMeets s owner grant || 64 < c.grant.length + grant.length then none
  else some ((measureEvent s 3 owner (owner :: grant.flatMap fun r => [r.1, r.2])).mapCtx owner fun c => { c with grant := c.grant ++ grant }, [])

/-- R362. -/
def execSetgrant (fn owner : Nat) (grant : List (Nat × Nat)) (s : State) : Host.Outcome State Fault Refusal :=
  .next (hernusReply s fn (addGrant s fn owner grant))

/-- R362, R385: dirty L2 lines lost: what HBM4E holds of them instead is not known (log 9). -/
def loseLines (s : State) (lines : List Nat) : State :=
  let t := lines.foldl (fun t l => { t with mem := memPut t.mem (64 * l) ((List.range 64).map fun i => Config.lostByte s.draw (64 * l + i)) }) s
  { t with dirty := t.dirty.filter (fun l => !lines.contains l), draw := s.draw + 1 }

/-- A processor without the transfers of an owner. -/
def Fabric.forget (f : Fabric) (owner : Nat) : Fabric := { f with transfers := f.transfers.filter (·.owner != owner) }

/-- R330, R332: the transfers that are in flight on the processors saved with a context. -/
def savedTransfers (c : Context) (index : Nat) : List Transfer := (c.processors.filter (·.index == index)).flatMap (·.transfers)

/-- R362, R363: the state of an owner that DESTROY leaves: no key, no grant, nothing that ran, and nothing of it in flight, on a processor in its
place or on one saved with another owner. What other owners have in flight on its own saved processors goes on landing (R330, R332). -/
def eraseOwner (s : State) (owner : Nat) : State :=
  let c := s.ctxOf owner
  let mine (t : Nat) : Bool := s.teams.any fun m => m.id == t && m.owner == owner
  let s := loseLines s (s.dirty.filter fun l => lineKeyOf s.lineKey l == some c.key)
  let idle (f : Fabric) : Fabric :=
    let g := if ownsProcessor s owner f then f.idle else f
    Fabric.forget { g with transfers := g.transfers ++ savedTransfers c f.index } owner
  let others (c : Context) : Context := { c with processors := c.processors.map (·.forget owner) }
  let s : State := { s with owners := s.owners.map others, ctx := others s.ctx }
  let s := { s with mats := s.mats.filter (fun m => !mine m.team), colls := s.colls.filter (·.owner != owner), fabric := s.fabric.map idle,
                    teams := s.teams.filter (·.owner != owner), grids := s.grids.filter (·.owner != owner),
                    parked := s.parked.filter (·.owner != owner) }
  s.mapCtx owner fun c => { Context.fresh c.owner with
    ptbr := c.ptbr, fq := c.fq, nr := c.nr, mr := c.mr, ms := c.ms, cmd := c.cmd, cmdgo := c.cmdgo, queues := c.queues.map (fun q => { q with next := 0, requests := [] }), gtbase := c.gtbase, gtcount := c.gtcount, winbase := c.winbase, winload := c.winload }

/-- R362: DESTROY. -/
def destroyOwner (s : State) (fn owner : Nat) : Option (State × List Byte) :=
  if !hernusReady s fn || !(s.ctxOf owner).created || isResident s owner || hasWork s owner then none
  else some (eraseOwner (measureEvent s 4 owner [owner]) owner, [])

/-- R362. -/
def execDestroy (fn owner : Nat) (s : State) : Host.Outcome State Fault Refusal := .next (hernusReply s fn (destroyOwner s fn owner))

/-- R360, R367: a grant range in 8 bytes. -/
def rangeBytes (r : Nat × Nat) : List Byte := natBytes 4 r.1 ++ natBytes 4 r.2

/-- R367: bytes 0 to 1,023 of the report on an owner. -/
def reportBytes (s : State) (owner : Nat) (nonce : List Byte) : List Byte :=
  let c := s.ctxOf owner
  let sharers := (s.owners.filter fun o => o.created && o.part == c.part).length
  let b := natBytes 4 0x48545352 ++ natBytes 4 1 ++ List.ofFn Config.serial ++ nonce ++ s.hernus.mr ++ natBytes 4 s.hernus.log.length ++
    natBytes 4 s.hernus.svn ++ natBytes 1 owner ++ natBytes 1 c.part ++ natBytes 1 s.parts ++ natBytes 1 sharers ++ natBytes 4 c.grant.length ++
    c.grant.flatMap rangeBytes
  b ++ List.replicate (1024 - b.length) 0#8

/-- R362, R367: ATTEST, by the PF or by the VF for itself. -/
def attestOwner (s : State) (fn owner : Nat) (nonce : List Byte) : Option (State × List Byte) :=
  if !fnVisible s fn || !(fn == 0 || fn == owner) || 32 < owner || nonce.length != 64 then none
  else
    let b := reportBytes s owner nonce
    some (s, b ++ (List.range 4627).map (Config.signature (sha3 b)))

/-- R362, R367. -/
def execAttest (fn owner : Nat) (nonce : List Byte) (s : State) : Host.Outcome State Fault Refusal :=
  .next (hernusReply s fn (attestOwner s fn owner nonce))

/-- R366: entry i of the log. -/
def logBytes (x : LogEntry × Nat) : List Byte :=
  natBytes 4 x.2 ++ natBytes 4 x.1.type ++ natBytes 4 x.1.arg ++ List.replicate 4 0#8 ++ x.1.digest ++ x.1.text

/-- R362, R366: LOGREAD. -/
def execLogread (fn : Nat) (s : State) : Host.Outcome State Fault Refusal :=
  .next (hernusReply s fn (if fnVisible s fn then some (s, s.hernus.log.zipIdx.flatMap logBytes) else none))

/-- R364: the fused minimum rises, to no more than the SVN of the firmware that runs, and never falls. -/
def execFusedSvnRaise (fn : Nat) (svn : BitVec 32) (s : State) : Host.Outcome State Fault Refusal :=
  let h := s.hernus
  .next (hernusReply s fn (
    if s.linkUp && fn == 0 && h.bootstat.getLsbD 31 && svn.toNat ≤ h.svn then some ({ s with hernus := { h with minSvn := max h.minSvn svn.toNat } }, [])
    else none))

/-! ### Resets -/

/-- R385: every register, the tile stores, L2, die scratch and the key slots are discarded; what memory holds stays, but for the dirty
lines of L2. The environment's choices to come stay as they are, and numbers already given are not given again. -/
def resetModule (s : State) : State :=
  let t := loseLines s (s.dirty.filter fun l => isHbm (64 * l))
  { State.reset with
    mem := t.mem.filter (fun c => decide (c.1 < 2 ^ 48)), poison := t.poison.filter (fun g => decide (64 * g < 2 ^ 48)), lineKey := t.lineKey,
    out := t.out, tick := t.tick, draw := t.draw, ids := t.ids, agenda := t.agenda,
    hernus := { Hernus.reset with minSvn := t.hernus.minSvn, keys := t.hernus.keys } }

/-- R10, R19: what remains of memory when the module loses power: the host's memory, which is no part of it. -/
def losePower (s : State) : State :=
  { s with mem := s.mem.filter (fun c => decide (2 ^ 47 ≤ c.1)), poison := s.poison.filter (fun g => decide (2 ^ 47 ≤ 64 * g)), lineKey := [], dirty := [] }

/-- R19, R385: PERST# with power held, or a loss of power, which leaves nothing in HBM4E either: which of the two, the environment chooses
(log 59). -/
def execModuleReset (s : State) : Host.Outcome State Fault Refusal :=
  let t := resetModule s
  .next (if Config.powerHeld s.tick then t else losePower t)

/-- R386: a junction at 110 °C. -/
def execOvertempReset (s : State) : Host.Outcome State Fault Refusal := .next (resetModule s)

/-- R385, R387: the context of a function's owner ends; its nodes show that its grids were terminated (log 17). -/
def endFunction (s : State) (fn : Nat) : State := endContext s fn 0 0x200

/-- R373, R385: the slice selects and counts that an owner's image holds for its counter page, cleared. -/
def clearCounts (s : State) (fn : Nat) : State :=
  let c := s.ctxOf fn
  c.image.dies.foldl (fun t d => imagePut t c d.2 (List.replicate 2048 0#8)) s

/-- R354, R385: a function-level reset of a VF: its context ends, and its register page, with its streams' blocks, is as at reset. -/
def execFunctionLevelReset (fn : Nat) (s : State) : Host.Outcome State Fault Refusal :=
  .next (if fn == 0 || !fnVisible s fn then s
    else
      let t := endFunction s fn
      let t := t.mapCtx fn fun c => { c with
        ptbr := 0#33, fq := Ring.reset, nr := Ring.reset, mr := Ring.reset, ms := Ring.reset, sends := [], cmd := Vector.replicate 4 0#32, cmdgo := 0#32,
        queues := [], gtbase := 0#64, gtcount := 0#32, winbase := 0#64, winload := 0#32, slsel := Vector.replicate 4 0#32, slcnt := [], held := [] }
      emptyStreams (clearCounts t fn) fn)

/-- R354, R377: a VF in the TDISP ERROR state. -/
def execTdiError (fn : Nat) (s : State) : Host.Outcome State Fault Refusal :=
  .next (if fn == 0 || !fnVisible s fn then s else endFunction s fn)

/-! ### Power and patrol -/

/-- R16, R386. -/
def execThrottleStepDown (s : State) : Host.Outcome State Fault Refusal := .next { s with freq := max 350 (s.freq - 25) }

/-- R16, R386. -/
def execThrottleStepUp (s : State) : Host.Outcome State Fault Refusal := .next { s with freq := min 700 (s.freq + 25) }

/-- R11: the stack of an HBM4E line. -/
def stackOf (pa : Nat) : Nat := 2 * (pa / 2 ^ 37 % 4) + pa / 2 ^ 8 % 2

/-- R106, R368: a line read and corrected; the symbols corrected count at its stack, up to 2^32 − 1. -/
def execHbmPatrolScrub (pa : Nat) (s : State) : Host.Outcome State Fault Refusal :=
  let k := stackOf pa
  .next (if isHbm pa then
      { s with errStack := s.errStack.setIfInBounds k (BitVec.ofNat 32 (min (2 ^ 32 - 1) ((s.errStack.getD k 0#32).toNat + Config.corrected s.tick))) }
    else s)

end Sys2Proof.Machine
end

