-- ==== Sys2Proof/Machine/Hop.lean ====
section
/-! DEFINITION. The hops: ZQNT, ZRSC, ZRSF, ZDQA (R58, R314 to R320). -/

namespace Sys2Proof.Machine

/-! ### Codes and chunks -/

/-- R299: CODE of the collective descriptor: 1 S1, 2 deterministic T2, 3 stochastic T2. -/
def Collective.code (c : Collective) : Nat := ((wordAt c.cds 0).extractLsb' 28 3).toNat

/-- R299: the block size. -/
def Collective.block (c : Collective) : Nat := 4 * 2 ^ ((wordAt c.cds 0).extractLsb' 25 3).toNat

/-- R299: TID. -/
def Collective.tid (c : Collective) : Nat := ((wordAt c.cds 0).extractLsb' 0 12).toNat

/-- R314: the width of a code. -/
def codeWidth (code : Nat) : Nat := if code == 1 then 1 else 2

/-- Gran of R242: 64-byte granules. -/
def grans (n : Nat) : Nat := (n + 63) / 64

/-- R314: the byte at which the code area starts. -/
def codeArea (e b : Nat) : Nat := 64 * grans (2 * (e / b))

/-- R314: the bytes of a compressed chunk of e elements. -/
def chunkBytes (code e b : Nat) : Nat := codeArea e b + 64 * grans (e * codeWidth code / 8)

/-- R58: the value of a code; none for the reserved one. -/
def codeValue (code k : Nat) : Option Int :=
  if code == 1 then (if k == 0 then some 1 else some (-1))
  else match k with
    | 0 => some 0
    | 1 => some 1
    | 3 => some (-1)
    | _ => none

/-- R317: the code of a value. -/
def valueCode (code : Nat) (v : Int) : Nat :=
  if code == 1 then (if v < 0 then 1 else 0) else if v == 0 then 0 else if v < 0 then 3 else 1

/-- A small integer as an exact value. -/
def intVal (v : Int) : Val := .num (decide (v < 0)) v.natAbs 0

/-- R58: Dequant. -/
def dequant (v : Int) (scale : Nat) : Nat := (mulVal tyF32 plainRne (intVal v) (tyBF16.decode scale)).1

/-! ### Quantise -/

/-- Magnitude of an F32 code. -/
def magF32 (x : Nat) : Nat := x % 2 ^ 31

/-- R317: whether a value is a NaN or an infinity. -/
def notFinite (x : Val) : Bool := match x with | .num _ _ _ => false | _ => true

/-- Exact comparison m × 2^e ≤ n × 2^f. -/
def leExact (m : Nat) (e : Int) (n : Nat) (f : Int) : Bool :=
  let k := min e f
  decide (m * 2 ^ (e - k).toNat ≤ n * 2 ^ (f - k).toNat)

/-- R317: RoundBF16RNE of an F32 code. -/
def toBf16 (x : Nat) : Nat := (convertVal tyBF16 plainRne (tyF32.decode x)).1

/-- R317: the mean magnitude of an S1 block: summed in index order, divided, and rounded to BF16. -/
def meanScale (es : List Nat) : Nat :=
  let a := es.foldl (fun a x => addF tyF32 a (magF32 x)) 0
  match tyF32.decode a with
  | .num _ m e => if m == 0 then 0 else toBf16 (roundTo tyF32 plainRne false m es.length e).1
  | _ => toBf16 a

/-- R317: the largest magnitude of a block, rounded to BF16. -/
def maxScale (es : List Nat) : Nat := toBf16 (es.foldl (fun a x => max a (magF32 x)) 0)

/-- The sign of an element as a code value. -/
def signOf (neg : Bool) : Int := if neg then -1 else 1

/-- R317: a T2 code under a nonzero finite scale n × 2^f; x0 is the stochastic word, none for deterministic T2. -/
def ternary (n : Nat) (f : Int) (x0 : Option W32) (x : Val) : Int :=
  match x with
  | .num neg m e =>
    match x0 with
    | none => if leExact n (f - 1) m e then signOf neg else 0
    | some w =>
      let q := if m == 0 then Val.num false 0 0 else tyF32.decode (roundTo tyF32 plainRne false m n (e - f)).1
      let t : Nat := match q with
        | .num _ k g => if 0 ≤ g + 32 then k * 2 ^ (g + 32).toNat else k / 2 ^ (-(g + 32)).toNat
        | _ => 2 ^ 32 - 1
      if w.toNat < min t (2 ^ 32 - 1) then signOf neg else 0
  | _ => 0

/-- R317: Quantise: the scale and the code values of a block of F32 codes; none for a Bad block. draw gives x0 of element i. -/
def quantise (code : Nat) (draw : Nat → W32) (es : List Nat) : Option (Nat × List Int) :=
  let vs := es.map tyF32.decode
  if vs.any notFinite then none
  else if code == 1 then
    let s := meanScale es
    if notFinite (tyBF16.decode s) then none
    else some (s, vs.map fun v => match v with | .num neg m _ => if neg && m != 0 then -1 else 1 | _ => 1)
  else
    let s := maxScale es
    match tyBF16.decode s with
    | .num _ n f =>
      if n == 0 then some (s, es.map fun _ => 0)
      else some (s, vs.zipIdx.map fun v => ternary n f (if code == 3 then some (draw v.2) else none) v.1)
    | _ => none

/-- R60, R316: RoundRNE32(e − c × s); an exact zero has the sign that R60 gives a subtraction of e and c × s (log 61). -/
def residualAfter (e : Nat) (v : Int) (scale : Nat) : Nat :=
  match mulExact (intVal v) (tyBF16.decode scale) with
  | some p => (subVal tyF32 plainRne (tyF32.decode e) p).1
  | none => tyF32.nan

/-- R316, R317: one compressed block: its scale, its codes and its new residuals as F32 codes. -/
def compressBlock (code : Nat) (draw : Nat → W32) (es : List Nat) : Nat × List Nat × List Nat :=
  match quantise code draw es with
  | none => (0x7FC0, es.map fun _ => 0, es.map fun _ => tyF32.nan)
  | some (s, vs) => (s, vs.map (valueCode code), (es.zip vs).map fun x => residualAfter x.1 x.2 s)

/-- Blocks of b elements; fuel is their number. -/
def blocksOf (b : Nat) : Nat → List Nat → List (List Nat)
  | 0, _ => []
  | n + 1, l => l.take b :: blocksOf b n (l.drop b)

/-- A bit string of equal codes as bytes. -/
def codeBytes (w : Nat) (codes : List Nat) : List Byte := packBits w codes

/-- Bytes padded with zeros to a length. -/
def padTo (n : Nat) (b : List Byte) : List Byte := b ++ List.replicate (n - b.length) 0#8

/-- R314: the bytes of a chunk. -/
def chunkOf (code e b : Nat) (scales codes : List Nat) : List Byte :=
  padTo (codeArea e b) (scales.flatMap (natBytes 2)) ++ padTo (64 * grans (e * codeWidth code / 8)) (codeBytes (codeWidth code) codes)

/-- R314: the scales of a chunk. -/
def chunkScales (n : Nat) (b : List Byte) : List Nat := (List.range n).map fun j => bytesNat ((b.drop (2 * j)).take 2)

/-- R314: the codes of a chunk. -/
def chunkCodes (w e area : Nat) (b : List Byte) : List Nat :=
  let v := b.drop area
  (List.range e).map fun k => (v.getD (w * k / 8) 0#8).toNat / 2 ^ (w * k % 8) % 2 ^ w

/-- The F32 codes of bytes. -/
def wordsOf (n : Nat) (b : List Byte) : List Nat := (bytesWords n b).map (·.toNat)

/-- The bytes of F32 codes. -/
def bytesOfWords (l : List Nat) : List Byte := l.flatMap (natBytes 4)

/-! ### The checks -/

/-- R315: an operand range of a hop: its address, length and alignment, and whether it is read and written. -/
structure HopRange where
  va : Nat
  len : Nat
  align : Nat
  reads : Bool
  writes : Bool
  deriving DecidableEq, Repr

/-- R315: the element count of a hop, or ZILKAN-DECODE: CODE, then E. -/
def hopCount (s : State) (d a : BitVec 4) : Except Halt Nat :=
  let e := ((freg s d).extractLsb' 0 25).toNat
  let b := s.coll.block
  if s.coll.code == 0 || (freg s d).extractLsb' 25 39 != 0#39 || (fgroup s a 3).extractLsb' 48 16 != 0#16 then .error (.trap (zilkanStop 0))
  else if e % b != 0 || e < b || 2 ^ 24 < e then .error (.trap (zilkanStop 0))
  else .ok e

/-- R315: whether two operand ranges of a hop overlap; same allows them to coincide. -/
def hopMeets (x y : HopRange) (same : Bool) : Bool := rangesMeet x.va x.len y.va y.len && !(same && x.va == y.va && x.len == y.len)

/-- R315: no operand range overlaps another; for ZRSF the sum may be g itself. -/
def hopApart (same : Bool) : List HopRange → Bool
  | [] => true
  | x :: r => (r.all fun y => !hopMeets x y (same && x.align == 4 && y.align == 4)) && hopApart same r

/-- R316 step 1: the first operand range that is not aligned. -/
def hopAligned (rs : List HopRange) : Option Stop :=
  firstStop rs fun x => if x.va % x.align != 0 then
    some { code := .misaligned, addr := BitVec.ofNat 64 x.va, info1 := BitVec.ofNat 32 (if x.reads then accRead else accWrite) } else none

/-- R301, R316 step 2: translation, permission and poison of an operand range. -/
def hopRange (s : State) (x : HopRange) : Option Stop :=
  let r : Option Stop := if x.reads then (match engineRead s s.ctx x.va x.len with | .error t => some t | .ok _ => none) else none
  match r with
  | some t => some t
  | none => if x.writes then (match translateRange s s.ctx accWrite 0 (pagesOf x.va x.len) with | .error t => some t | .ok () => none) else none

/-- R320: the page that a check names. -/
def pageStop (cause p : Nat) : Stop := residualStop cause (p / 2 ^ 15 * 2 ^ 15)

/-- R320: the slot range of a hop: its address, or RESIDUAL-BUFFER. -/
def slotRange (s : State) (r : Residual) (slot e : Nat) (rs : List HopRange) : Except Stop Nat :=
  let z := if r.bf16 then 2 else 4
  let va := r.base + slot * z
  let pages := pagesOf va (e * z)
  let fails (p kind : Nat) : Bool := match translate s s.ctx p kind 0 with
    | .error t => t.code != .uncorrectable
    | .ok pa => kind == accRead && s.ctx.guards pa (min (va + e * z) ((p / 2 ^ 15 + 1) * 2 ^ 15) - p)
  let poisoned (p : Nat) : Bool := match vbytes s s.ctx 0 p (min (va + e * z) ((p / 2 ^ 15 + 1) * 2 ^ 15) - p) with
    | .error _ => true
    | .ok _ => false
  if r.size < (slot + e) * z then .error (residualStop 2 r.addr)
  else match firstStop pages fun p => if fails p accRead || fails p accWrite then some (pageStop 3 p) else none with
    | some t => .error t
    | none => match firstStop pages fun p => if poisoned p then some (pageStop 4 p) else none with
      | some t => .error t
      | none => if rs.any fun x => rangesMeet va (e * z) x.va x.len then .error (pageStop 5 va) else .ok va

/-- R316: the checks of a hop up to step 2. -/
def hopChecks (s : State) (same : Bool) (rs : List HopRange) : Except Halt Unit :=
  if !hopApart same rs then .error (.trap (zilkanStop 1))
  else match hopAligned rs with
    | some t => .error (.trap t)
    | none => match firstStop rs (hopRange s) with
      | some t => .error (.trap t)
      | none => .ok ()

/-- R316 step 4: the code values and scales of an incoming chunk, or ZILKAN-DECODE. -/
def incoming (s : State) (va e : Nat) : Except Halt (List Int × List Nat) :=
  let code := s.coll.code
  let b := s.coll.block
  match engineRead s s.ctx va (chunkBytes code e b) with
  | .error t => .error (.trap t)
  | .ok bytes =>
    let vs := (chunkCodes (codeWidth code) e (codeArea e b) bytes).map (codeValue code)
    if vs.any (·.isNone) then .error (.trap (zilkanStop 0)) else .ok (vs.filterMap id, chunkScales (e / b) bytes)

/-- R316 step 5: for stochastic T2, the descriptor of TID is valid. -/
def hopTensor (s : State) : Except Halt Unit :=
  require (s.coll.code != 3 || descValid (descOf s.ctx s.coll.tid)) { code := .tensorDescriptor, info0 := BitVec.ofNat 32 s.coll.tid }

/-- R316: Dequant of element k of an incoming chunk. -/
def dequantAt (b : Nat) (x : List Int × List Nat) (k : Nat) : Nat := dequant (x.1.getD k 0) (x.2.getD (k / b) 0)

/-- R370: a hop completed. -/
def hopDone (s : State) : State := (countFabric s s.fp.index 0x04 1 1).fnext

/-! ### The instructions -/

/-- R316, R318: a compressing hop on e elements whose values before the residuals are t: the record step, then the output chunk and
the new residuals. -/
def compressHop (s : State) (a b : BitVec 4) (e : Nat) (rs : List HopRange) (values : Except Halt (List Nat)) : Except Halt State := do
  let r ← orTrap (residualOf s hopUnread)
  let slot ← orTrap (slotRange s r (freg s b).toNat e rs)
  let t ← values
  let code := s.coll.code
  let tid := s.coll.tid
  hopTensor s
  let n := e / s.coll.block
  let x0 := ((fgroup s a 3).extractLsb' 0 48).toNat
  let old ← orTrap (vbytes s s.ctx 0 slot (e * (if r.bf16 then 2 else 4)))
  let res := if r.bf16 then (chunkScales e old).map (· * 2 ^ 16) else wordsOf e old
  let es := (t.zip res).map fun x => addF tyF32 x.1 x.2
  let blocks := ((blocksOf s.coll.block n es).zipIdx).map fun x =>
    compressBlock code (fun i => philox s.coll.key tid (x0 + s.coll.block * x.2 + i) s.coll.step 2) x.1
  let new := blocks.flatMap fun x => x.2.2
  let s := if code == 3 then performSrStep s (fabricSite s) tid s.coll.step (wordAt s.coll.cds 1) (.collective s.coll.id) else s
  let s ← orTrap (fabricWrite s (fgroup s a 2).toNat
    (chunkOf code e s.coll.block (blocks.map fun x => x.1) (blocks.flatMap fun x => x.2.1)))
  let s ← orTrap (fabricWrite s slot (if r.bf16 then new.flatMap fun x => natBytes 2 (toBf16 x) else bytesOfWords new))
  return hopDone s

/-- The F32 operand that a hop reads. -/
def hopWords (s : State) (va e : Nat) : Except Halt (List Nat) :=
  match engineRead s s.ctx va (4 * e) with
  | .error t => .error (.trap t)
  | .ok b => .ok (wordsOf e b)

/-- R316. -/
def execZqnt (d a b : BitVec 4) (s : State) : Host.Outcome State Fault Refusal :=
  settle s (do
    let e ← hopCount s d a
    let rs : List HopRange := [⟨(fgroup s a 1).toNat, 4 * e, 4, true, false⟩,
      ⟨(fgroup s a 2).toNat, chunkBytes s.coll.code e s.coll.block, 64, false, true⟩]
    hopChecks s false rs
    compressHop s a b e rs (hopWords s (fgroup s a 1).toNat e))

/-- R316. -/
def execZrsc (d a b : BitVec 4) (s : State) : Host.Outcome State Fault Refusal :=
  settle s (do
    let e ← hopCount s d a
    let size := chunkBytes s.coll.code e s.coll.block
    let rs : List HopRange := [⟨(fgroup s a 0).toNat, size, 64, true, false⟩, ⟨(fgroup s a 1).toNat, 4 * e, 4, true, false⟩,
      ⟨(fgroup s a 2).toNat, size, 64, false, true⟩]
    hopChecks s false rs
    compressHop s a b e rs (do
      let x ← incoming s (fgroup s a 0).toNat e
      let g ← hopWords s (fgroup s a 1).toNat e
      return g.zipIdx.map fun y => addF tyF32 (dequantAt s.coll.block x y.2) y.1))

/-- R316. -/
def execZrsf (d a : BitVec 4) (s : State) : Host.Outcome State Fault Refusal :=
  settle s (do
    let e ← hopCount s d a
    let rs : List HopRange := [⟨(fgroup s a 0).toNat, chunkBytes s.coll.code e s.coll.block, 64, true, false⟩,
      ⟨(fgroup s a 1).toNat, 4 * e, 4, true, false⟩, ⟨(fgroup s a 2).toNat, 4 * e, 4, false, true⟩]
    hopChecks s true rs
    let x ← incoming s (fgroup s a 0).toNat e
    hopTensor s
    let g ← hopWords s (fgroup s a 1).toNat e
    let t ← orTrap (fabricWrite s (fgroup s a 2).toNat
      (bytesOfWords (g.zipIdx.map fun y => addF tyF32 (dequantAt s.coll.block x y.2) y.1)))
    return hopDone t)

/-- R316. -/
def execZdqa (d a : BitVec 4) (s : State) : Host.Outcome State Fault Refusal :=
  settle s (do
    let e ← hopCount s d a
    let rs : List HopRange := [⟨(fgroup s a 0).toNat, chunkBytes s.coll.code e s.coll.block, 64, true, false⟩,
      ⟨(fgroup s a 1).toNat, 4 * e, 4, true, true⟩]
    hopChecks s false rs
    let x ← incoming s (fgroup s a 0).toNat e
    hopTensor s
    let g ← hopWords s (fgroup s a 1).toNat e
    let t ← orTrap (fabricWrite s (fgroup s a 1).toNat
      (bytesOfWords (g.zipIdx.map fun y => addF tyF32 y.1 (dequantAt s.coll.block x y.2))))
    return hopDone t)

end Sys2Proof.Machine
end

