-- ==== Sys2Proof/Machine/Integer.lean ====
section
/-! DEFINITION. The integer, bit, move and scalar instructions of opcodes 0x10 to 0x2B (R166 to R179). -/

namespace Sys2Proof.Machine

/-- R51, R165: the value of a word as I32, or as N32 when natural. -/
def wordVal (natural : Bool) (w : W32) : Int := if natural then (w.toNat : Int) else w.toInt

/-- R166: the word and FLAGS of an exact result under F: F[1] saturates, F[0] is natural. -/
def arithWord (f : BitVec 2) (e : Int) : W32 × W32 :=
  if f.getLsbD 1 then
    let r := saturate (!f.getLsbD 0) 32 e
    (wrap32 r.1, r.2)
  else (wrap32 e, 0#32)

/-- R166. -/
def execIadd (f : BitVec 2) (d a b : BitVec 7) (s : State) : Host.Outcome State Fault Refusal :=
  .next (laneFlagEffect s d fun l => arithWord f (wordVal (f.getLsbD 0) (src s a l) + wordVal (f.getLsbD 0) (src s b l)))

/-- R166. -/
def execIsub (f : BitVec 2) (d a b : BitVec 7) (s : State) : Host.Outcome State Fault Refusal :=
  .next (laneFlagEffect s d fun l => arithWord f (wordVal (f.getLsbD 0) (src s a l) - wordVal (f.getLsbD 0) (src s b l)))

/-- R166. -/
def execImul (f : BitVec 2) (d a b : BitVec 7) (s : State) : Host.Outcome State Fault Refusal :=
  .next (laneFlagEffect s d fun l => arithWord f (wordVal (f.getLsbD 0) (src s a l) * wordVal (f.getLsbD 0) (src s b l)))

/-- R166: the old destination is the addend. -/
def execImad (f : BitVec 2) (d a b : BitVec 7) (s : State) : Host.Outcome State Fault Refusal :=
  .next (laneFlagEffect s d fun l => arithWord f
    (wordVal (f.getLsbD 0) (src s a l) * wordVal (f.getLsbD 0) (src s b l) + wordVal (f.getLsbD 0) (src s d l)))

/-- R167. -/
def execIaddi (i : BitVec 10) (d a : BitVec 7) (s : State) : Host.Outcome State Fault Refusal :=
  .next (laneEffect s d fun l => src s a l + i.signExtend 32)

/-- R168: F = 0 I × I, 1 N × N, 2 I × N. -/
def imulhWord (f : BitVec 3) (a b : W32) : W32 :=
  wrap32 ((wordVal (f == 1#3) a * wordVal (f == 1#3 || f == 2#3) b) / 2 ^ 32)

/-- R168. -/
def execImulh (f : BitVec 3) (d a b : BitVec 7) (s : State) : Host.Outcome State Fault Refusal :=
  .next (laneEffect s d fun l => imulhWord f (src s a l) (src s b l))

/-- R169. -/
def execImin (f : BitVec 1) (d a b : BitVec 7) (s : State) : Host.Outcome State Fault Refusal :=
  .next (laneEffect s d fun l =>
    if wordVal (f == 1#1) (src s b l) < wordVal (f == 1#1) (src s a l) then src s b l else src s a l)

/-- R169. -/
def execImax (f : BitVec 1) (d a b : BitVec 7) (s : State) : Host.Outcome State Fault Refusal :=
  .next (laneEffect s d fun l =>
    if wordVal (f == 1#1) (src s a l) < wordVal (f == 1#1) (src s b l) then src s b l else src s a l)

/-- R169: F = 1 clamps and flags. -/
def iabsWord (f : BitVec 1) (a : W32) : W32 × W32 :=
  if f == 1#1 then
    let r := saturate true 32 (a.toInt.natAbs : Int)
    (wrap32 r.1, r.2)
  else (wrap32 (a.toInt.natAbs : Int), 0#32)

/-- R169. -/
def execIabs (f : BitVec 1) (d a : BitVec 7) (s : State) : Host.Outcome State Fault Refusal :=
  .next (laneFlagEffect s d fun l => iabsWord f (src s a l))

/-- R170: the condition c of two signed values. -/
def icmpTest (f : BitVec 3) (x y : Int) : Bool :=
  match f.toNat with
  | 0 => x == y
  | 1 => x != y
  | 2 => decide (x < y)
  | 3 => decide (x ≤ y)
  | 4 => decide (y < x)
  | _ => decide (y ≤ x)

/-- R170. -/
def execIcmp (f d : BitVec 3) (a b : BitVec 7) (s : State) : Host.Outcome State Fault Refusal :=
  .next (predEffect s d.toNat fun l => icmpTest f (src s a l).toInt (src s b l).toInt)

/-- R171. -/
def execIsel (f : BitVec 3) (d a b : BitVec 7) (s : State) : Host.Outcome State Fault Refusal :=
  .next (laneEffect s d fun l => if (srcPred s f.toNat).getLsbD l then src s a l else src s b l)

/-- R172. -/
def execShl (d a b : BitVec 7) (s : State) : Host.Outcome State Fault Refusal :=
  .next (laneEffect s d fun l => (src s a l) <<< (src s b l).toNat)

/-- R172. -/
def execShr (d a b : BitVec 7) (s : State) : Host.Outcome State Fault Refusal :=
  .next (laneEffect s d fun l => (src s a l) >>> (src s b l).toNat)

/-- R172: an arithmetic shift; amounts of 32 and above give the sign in every bit. -/
def sarWord (a : W32) (k : Nat) : W32 := a.sshiftRight (min k 32)

/-- R172. -/
def execSar (d a b : BitVec 7) (s : State) : Host.Outcome State Fault Refusal :=
  .next (laneEffect s d fun l => sarWord (src s a l) (src s b l).toNat)

/-- R172. -/
def execRol (d a b : BitVec 7) (s : State) : Host.Outcome State Fault Refusal :=
  .next (laneEffect s d fun l => (src s a l).rotateLeft ((src s b l).toNat % 32))

/-- R173. -/
def execShli (d a : BitVec 7) (k : BitVec 5) (s : State) : Host.Outcome State Fault Refusal :=
  .next (laneEffect s d fun l => (src s a l) <<< k.toNat)

/-- R173. -/
def execShri (d a : BitVec 7) (k : BitVec 5) (s : State) : Host.Outcome State Fault Refusal :=
  .next (laneEffect s d fun l => (src s a l) >>> k.toNat)

/-- R173. -/
def execSari (d a : BitVec 7) (k : BitVec 5) (s : State) : Host.Outcome State Fault Refusal :=
  .next (laneEffect s d fun l => sarWord (src s a l) k.toNat)

/-- R174. -/
def execAnd (d a b : BitVec 7) (s : State) : Host.Outcome State Fault Refusal :=
  .next (laneEffect s d fun l => src s a l &&& src s b l)

/-- R174. -/
def execOr (d a b : BitVec 7) (s : State) : Host.Outcome State Fault Refusal :=
  .next (laneEffect s d fun l => src s a l ||| src s b l)

/-- R174. -/
def execXor (d a b : BitVec 7) (s : State) : Host.Outcome State Fault Refusal :=
  .next (laneEffect s d fun l => src s a l ^^^ src s b l)

/-- R174. -/
def execAndn (d a b : BitVec 7) (s : State) : Host.Outcome State Fault Refusal :=
  .next (laneEffect s d fun l => src s a l &&& ~~~(src s b l))

/-- R174. -/
def execAndi (i : BitVec 10) (d a : BitVec 7) (s : State) : Host.Outcome State Fault Refusal :=
  .next (laneEffect s d fun l => src s a l &&& i.signExtend 32)

/-- R174. -/
def execOri (i : BitVec 10) (d a : BitVec 7) (s : State) : Host.Outcome State Fault Refusal :=
  .next (laneEffect s d fun l => src s a l ||| i.signExtend 32)

/-- R174. -/
def execXori (i : BitVec 10) (d a : BitVec 7) (s : State) : Host.Outcome State Fault Refusal :=
  .next (laneEffect s d fun l => src s a l ^^^ i.signExtend 32)

/-- R175: the zero bits above the highest 1. -/
def clzWord (a : W32) : W32 := BitVec.ofNat 32 (if a == 0#32 then 32 else 31 - Nat.log2 a.toNat)

/-- R175: the 1 bits. -/
def popcWord (a : W32) : W32 := BitVec.ofNat 32 ((List.range 32).countP fun i => a.getLsbD i)

/-- R175. -/
def execClz (d a : BitVec 7) (s : State) : Host.Outcome State Fault Refusal :=
  .next (laneEffect s d fun l => clzWord (src s a l))

/-- R175. -/
def execPopc (d a : BitVec 7) (s : State) : Host.Outcome State Fault Refusal :=
  .next (laneEffect s d fun l => popcWord (src s a l))

/-- R175. -/
def execBrev (d a : BitVec 7) (s : State) : Host.Outcome State Fault Refusal :=
  .next (laneEffect s d fun l => (src s a l).reverse)

/-- R176: POS of a control word. -/
def fieldPos (b : W32) : Nat := (b.extractLsb' 0 5).toNat

/-- R176: n = Min(LEN, 32 − POS). -/
def fieldLen (b : W32) : Nat := min (b.extractLsb' 8 6).toNat (32 - fieldPos b)

/-- R176: the extracted field, sign-extended when signed. -/
def bfxWord (signed : Bool) (a b : W32) : W32 :=
  let n := fieldLen b
  let f := a.toNat / 2 ^ fieldPos b % 2 ^ n
  if signed && decide (0 < n) && decide (2 ^ (n - 1) ≤ f) then wrap32 ((f : Int) - 2 ^ n) else BitVec.ofNat 32 f

/-- R176. -/
def execBfx (x : BitVec 1) (d a b : BitVec 7) (s : State) : Host.Outcome State Fault Refusal :=
  .next (laneEffect s d fun l => bfxWord (x == 1#1) (src s a l) (src s b l))

/-- R176: the field inserted into the old destination. -/
def bfiWord (d a b : W32) : W32 :=
  let mask := BitVec.ofNat 32 ((2 ^ fieldLen b - 1) * 2 ^ fieldPos b)
  (d &&& ~~~mask) ||| ((a <<< fieldPos b) &&& mask)

/-- R176. -/
def execBfi (d a b : BitVec 7) (s : State) : Host.Outcome State Fault Refusal :=
  .next (laneEffect s d fun l => bfiWord (src s d l) (src s a l) (src s b l))

/-- R177. -/
def execMov (d a : BitVec 7) (s : State) : Host.Outcome State Fault Refusal := .next (laneEffect s d fun l => src s a l)

/-- R177. -/
def execMovi (i : BitVec 17) (d : BitVec 7) (s : State) : Host.Outcome State Fault Refusal :=
  .next (laneEffect s d fun _ => i.signExtend 32)

/-- R177, R137: the pod goes on after the literal word. -/
def execMovl (d : BitVec 7) (lit : W32) (s : State) : Host.Outcome State Fault Refusal :=
  .next ((laneEffect s d fun _ => lit).advance 1)

/-- R178. -/
def execMovs (d : BitVec 7) (a : BitVec 5) (s : State) : Host.Outcome State Fault Refusal :=
  .next (laneEffect s d fun _ => sreg s a)

/-- R178. -/
def execSmov (d : BitVec 5) (a : BitVec 7) (l : BitVec 2) (s : State) : Host.Outcome State Fault Refusal :=
  .next (scalarEffect s d (src s a l.toNat))

/-- R179. -/
def execSmovi (d : BitVec 5) (i : BitVec 11) (s : State) : Host.Outcome State Fault Refusal :=
  .next (scalarEffect s d (i.signExtend 32))

/-- R179, R137. -/
def execSmoviLiteral (d : BitVec 5) (lit : W32) (s : State) : Host.Outcome State Fault Refusal :=
  .next ((scalarEffect s d lit).advance 1)

/-- R179. -/
def execSadd (d a b : BitVec 5) (s : State) : Host.Outcome State Fault Refusal :=
  .next (scalarEffect s d (sreg s a + sreg s b))

/-- R179. -/
def execSaddi (d a : BitVec 5) (i : BitVec 11) (s : State) : Host.Outcome State Fault Refusal :=
  .next (scalarEffect s d (sreg s a + i.signExtend 32))

/-- R179, R137. -/
def execSaddiLiteral (d a : BitVec 5) (lit : W32) (s : State) : Host.Outcome State Fault Refusal :=
  .next ((scalarEffect s d (sreg s a + lit)).advance 1)

/-- R179. -/
def execSand (d a b : BitVec 5) (s : State) : Host.Outcome State Fault Refusal :=
  .next (scalarEffect s d (sreg s a &&& sreg s b))

/-- R173, R179: kind 0 left, 1 logical right, 2 arithmetic right; kind 3 is reserved. -/
def scalarShift (n : BitVec 2) (a : W32) (k : Nat) : W32 :=
  if n == 0#2 then a <<< k else if n == 1#2 then a >>> k else sarWord a k

/-- R179. -/
def execSshl (d a : BitVec 5) (n : BitVec 2) (k : BitVec 5) (s : State) : Host.Outcome State Fault Refusal :=
  .next (scalarEffect s d (scalarShift n (sreg s a) k.toNat))

end Sys2Proof.Machine
end

