-- ==== Sys2Proof/Machine/Link.lean ====
section
/-! DEFINITION. The host's side: posted writes and reads of module memory (R130, R221), the registers of each function's page (R349,
R373, R378 to R384), WINLOAD, and the management rings (R383). Offsets that R378 does not fix are the model's (log 3). -/

namespace Sys2Proof.Machine

/-! ### Memory -/

/-- R221, R347: the site of a report on a host write. -/
def hostSite (owner : Nat) : Site := graphSite owner 0#32 0#32

/-- R10, R130, R221: a host's posted write lands; one that its owner's tables refuse is reported and lands nowhere, and bytes of a declared
counter array are discarded and reported. -/
def execHostPostedWrite (owner : Nat) (va : BitVec 64) (bytes : List Byte) (s : State) : Host.Outcome State Fault Refusal :=
  let c := s.ctxOf owner
  .next (if pageOpen s owner && c.created then
      match translateRange s c accWrite 0 (pagesOf va.toNat bytes.length) with
      | .ok () => putDiscarding s (hostSite owner) c va.toNat bytes
      | .error e => postRecord s (hostSite owner) e
    else s)

/-- R10, R106, R130: a host read's data; a read that faults is reported and gives none. That a read of a declared counter array returns the bytes
that memory holds, without a fault, is the model's choice (log 28). -/
def execHostRead (owner : Nat) (va : BitVec 64) (len : Nat) (s : State) : Host.Outcome State Fault Refusal :=
  let c := s.ctxOf owner
  .next (if !(pageOpen s owner && c.created) then s
    else match vbytes s c 0 va.toNat len with
      | .ok b => { s with out := s.out ++ [.readData owner b] }
      | .error e => postRecord s (hostSite owner) e)

/-! ### Rings and streams -/

/-- R349: FQHEAD; held records are written as entries come free. -/
def writeFqHead (s : State) (fn : Nat) (v : W32) : State :=
  let t := s.mapCtx fn fun c => { c with fq := { c.fq with head := v } }
  flushHeld t fn (t.ctxOf fn).held.length

/-- R349, R378. -/
def execFqheadWrite (fn : Nat) (head : BitVec 32) (s : State) : Host.Outcome State Fault Refusal :=
  .next (if pageOpen s fn then writeFqHead s fn head else s)

/-- R383: MRHEAD. -/
def writeMrHead (s : State) (fn : Nat) (v : W32) : State := s.mapCtx fn fun c => { c with mr := { c.mr with head := v } }

/-- R378, R383. -/
def execMrheadWrite (fn : Nat) (head : BitVec 32) (s : State) : Host.Outcome State Fault Refusal :=
  .next (if pageOpen s fn then writeMrHead s fn head else s)

/-- R378: whether a function holds a stream. -/
def holdsStream (s : State) (fn stream : Nat) : Bool := pageOpen s fn && decide (stream < 64) && (s.stream stream).owner.toNat == fn

/-- R379: POSTTAIL. -/
def execPosttailWrite (fn stream : Nat) (tail : BitVec 32) (s : State) : Host.Outcome State Fault Refusal :=
  .next (if holdsStream s fn stream then s.mapStream stream fun st => { st with postTail := tail } else s)

/-- R379: CPLHEAD. -/
def execCplheadWrite (fn stream : Nat) (head : BitVec 32) (s : State) : Host.Outcome State Fault Refusal :=
  .next (if holdsStream s fn stream then s.mapStream stream fun st => { st with cplHead := head } else s)

/-- R379: ENABLE set; from 0, the completion indices read 0. -/
def Stream.start (st : Stream) : Stream := if st.enable then st else { st with enable := true, cplHead := 0#32, cplTail := 0#32 }

/-- R379. -/
def execStreamEnable (fn stream : Nat) (s : State) : Host.Outcome State Fault Refusal :=
  .next (if holdsStream s fn stream then s.mapStream stream Stream.start else s)

/-- R378, R379: a write at an offset of a stream's block; bases and sizes are fixed while it is enabled. -/
def Stream.write (st : Stream) (off : Nat) (v : W64) : Stream :=
  let w : W32 := v.extractLsb' 0 32
  match off with
  | 0x0C => { st with postTail := w }
  | 0x30 => if v.getLsbD 0 then st.start else { st with enable := false }
  | 0x34 => { st with cplHead := w }
  | 0x00 => if st.enable then st else { st with postBase := v }
  | 0x08 => if st.enable then st else { st with postSize := w }
  | 0x18 => if st.enable then st else { st with cplBase := v }
  | 0x20 => if st.enable then st else { st with cplSize := w }
  | 0x28 => if st.enable then st else { st with tapeBase := v }
  | _ => st

/-! ### The management rings -/

/-- R383: the entry at a free-running index of the send ring: its first 64 bytes and its payload, when it may be sent. -/
def sendEntry (s : State) (c : Context) (i : W32) : Except Stop (List Byte) :=
  let bad : Stop := { code := .permission, addr := i.zeroExtend 64 }
  match engineRead s c (c.ms.entryAt i 8192) 64 with
  | .error t => .error { t with addr := i.zeroExtend 64 }
  | .ok h =>
    let len := bytesNat ((h.drop 12).take 2)
    let pg := bytesNat ((h.drop 14).take 1)
    let feaHigh := bytesNat (h.take 8) / 2 ^ 34
    if !(1 ≤ len && len ≤ 8128 && pg < 4 && feaHigh == 0 && (h.drop 15).all (· == 0#8)) || partOfDie s pg != c.part then .error bad
    else match engineRead s c (c.ms.entryAt i 8192 + 64) len with
      | .error t => .error { t with addr := i.zeroExtend 64 }
      | .ok b => .ok (h ++ b)

/-- R13, R14, R383: the processor on whose port the next message of a port group leaves; the port is open (log 56). -/
def sendProcessor (s : State) (pg : Nat) : Nat := receiverOf (12 * (pg % 4) + (Config.sendPort s.draw).val)

/-- R383: one new entry sent, its payload counted (R370), or reported and not sent. -/
def sendOne (s : State) (fn : Nat) (i : W32) : State :=
  match sendEntry s (s.ctxOf fn) i with
  | .ok b =>
    let t := sendOut { s with draw := s.draw + 1 } (sendProcessor s (bytesNat ((b.drop 14).take 1))) (.manage fn b) (b.length - 64)
    t.mapCtx fn fun c => { c with sends := c.sends ++ [true] }
  | .error t => (postRecord s (hostSite fn) t).mapCtx fn fun c => { c with sends := c.sends ++ [false] }

/-- R383: MSHEAD advances past the entries in front that were not sent. -/
def Context.passUnsent (c : Context) : Context :=
  let n := (c.sends.takeWhile (! ·)).length
  { c with sends := c.sends.drop n, ms := { c.ms with head := c.ms.head + BitVec.ofNat 32 n } }

/-- R383: MSTAIL: the entries up to it are sent in ring order; a tail that would pass the ring's size is ignored. -/
def writeMsTail (s : State) (fn : Nat) (v : W32) : State :=
  let c := s.ctxOf fn
  let n := (v - c.ms.tail).toNat
  if c.ms.entries < c.sends.length + n then s
  else
    let t := (List.range n).foldl (fun t i => sendOne t fn (c.ms.tail + BitVec.ofNat 32 i)) s
    t.mapCtx fn fun c => Context.passUnsent { c with ms := { c.ms with tail := v } }

/-- R383. -/
def execMstailWrite (fn : Nat) (tail : BitVec 32) (s : State) : Host.Outcome State Fault Refusal :=
  .next (if pageOpen s fn then writeMsTail s fn tail else s)

/-- R383: the message at MSHEAD is acknowledged, or is refused and reported with its entry's index; MSHEAD advances. -/
def execManagementSendCompletion (fn : Nat) (ok : Bool) (s : State) : Host.Outcome State Fault Refusal :=
  let c := s.ctxOf fn
  .next (match c.sends with
    | true :: rest =>
      let t := if ok then s else postRecord s (hostSite fn) { code := .permission, addr := c.ms.head.zeroExtend 64 }
      t.mapCtx fn fun c => Context.passUnsent { c with sends := rest, ms := { c.ms with head := c.ms.head + 1#32 } }
    | _ => s)

/-- R13, R221, R300, R383: a message that arrived on a port, written to the receive ring of the owner of its job, then vector 66. One of an
unknown job is dropped, one that is too long is refused, one whose entry cannot be written is refused and reported, and while the ring is full the
sender is told that the receiver is not ready. -/
def execManagementReceive (port : Nat) (job : BitVec 32) (fea : BitVec 64) (bytes : List Byte) (s : State) : Host.Outcome State Fault Refusal :=
  .next (match arrivalOwner s job port with
    | none => s
    | some o =>
      let c := s.ctxOf o
      if bytes.isEmpty || 8128 < bytes.length then { s with out := s.out ++ [.refusal fea .permission] }
      else if c.mr.full then { s with out := s.out ++ [.notReady fea] }
      else
        let entry := natBytes 8 fea.toNat ++ natBytes 4 job.toNat ++ natBytes 2 bytes.length ++ natBytes 1 (port / 12 % 4) ++ List.replicate 49 0#8 ++ bytes
        match engineWrite s c (c.mr.entryAt c.mr.tail 8192) entry with
        | .error e =>
          let t := postRecord s (windowSite o (receiverOf port)) e
          { t with out := t.out ++ [.refusal fea e.code] }
        | .ok t =>
          let t := countFabric t (receiverOf port) 0x02 bytes.length 64
          let t := t.mapCtx o fun c => { c with mr := { c.mr with tail := c.mr.tail + 1#32 } }
          { t with out := t.out ++ [.msix o 66] })

/-! ### WINLOAD -/

/-- R384: whether no endpoint stands twice in a list. -/
def allDistinct : List W64 → Bool
  | [] => true
  | x :: r => !r.contains x && allDistinct r

/-- R300, R384: a window entry that passes its checks. -/
def windowEntryOk (w : List W32) : Bool :=
  let base := fieldAt w 0
  let len := (wordAt w 2).toNat + 2 ^ 32 * ((wordAt w 3).extractLsb' 0 8).toNat
  (wordAt w 3).extractLsb' 8 22 == 0#22 && base % 64 == 0 && len % 64 == 0 && decide (base + len < 2 ^ 51)

/-- R384: both tables read and checked. -/
def loadTables (s : State) (c : Context) : Option (List W64 × List (List W32)) :=
  let n := c.gtcount.toNat
  if 4096 < n || c.gtbase.toNat % 8 != 0 || c.winbase.toNat % 64 != 0 then none
  else match engineRead s c c.gtbase.toNat (8 * n), engineRead s c c.winbase.toNat 256 with
    | .ok g, .ok w =>
      let group := (List.range n).map fun k => BitVec.ofNat 64 (bytesNat ((g.drop (8 * k)).take 8))
      let windows := tableOf 16 w
      if group.all (fun f => f.extractLsb' 34 30 == 0#30) && allDistinct group && windows.all windowEntryOk then some (group, windows) else none
    | _, _ => none

/-- R384: WINLOAD: both active tables replaced in one step, or nothing changed and 2 to be read. -/
def writeWinload (s : State) (fn : Nat) (v : W32) : State :=
  if v != 1#32 then s
  else match loadTables s (s.ctxOf fn) with
    | some (g, w) => s.mapCtx fn fun c => { c with group := g, windows := w, winload := 0#32 }
    | none => s.mapCtx fn fun c => { c with winload := 2#32 }

/-- R384. -/
def execWinload (fn : Nat) (value : BitVec 32) (s : State) : Host.Outcome State Fault Refusal :=
  .next (if pageOpen s fn then writeWinload s fn value else s)

/-! ### The register page -/

/-- R378: FQCFGq: EN and the priority. -/
def Context.writeFqcfg (c : Context) (q : Nat) (v : W32) : Context :=
  let cfg := v &&& 0x80000003#32
  if c.queues.any (·.index == q) then { c with queues := replaceIf c.queues (·.index == q) fun f => { f with cfg := cfg } }
  else { c with queues := c.queues ++ [{ index := q, cfg := cfg, next := 0, requests := [] }] }

/-- R378, R380, R383, R384: a register of a function's own page, below 0x1000 or from 0x4000 on. -/
def Context.writeReg (c : Context) (off : Nat) (v : W64) : Context :=
  let w : W32 := v.extractLsb' 0 32
  if 0x4000 ≤ off && off < 0x4400 && off % 4 == 0 then c.writeFqcfg ((off - 0x4000) / 4) w
  else match off with
    | 0x020 => { c with ptbr := v.extractLsb' 0 33 }
    | 0x100 => { c with fq := { c.fq with base := v } }
    | 0x108 => { c with fq := { c.fq with size := w } }
    | 0x140 => { c with nr := { c.nr with base := v } }
    | 0x148 => { c with nr := { c.nr with size := w } }
    | 0x14C => { c with nr := { c.nr with head := w } }
    | 0x180 => { c with mr := { c.mr with base := v } }
    | 0x188 => { c with mr := { c.mr with size := w } }
    | 0x1A0 => { c with ms := { c.ms with base := v } }
    | 0x1A8 => { c with ms := { c.ms with size := w } }
    | 0x200 => { c with cmd := c.cmd.setIfInBounds 0 w }
    | 0x204 => { c with cmd := c.cmd.setIfInBounds 1 w }
    | 0x208 => { c with cmd := c.cmd.setIfInBounds 2 w }
    | 0x20C => { c with cmd := c.cmd.setIfInBounds 3 w }
    | 0x5000 => { c with gtbase := v }
    | 0x5008 => { c with gtcount := w &&& 0x1FFF#32 }
    | 0x5010 => { c with winbase := v }
    | _ => c

/-- R294, R382: whether no context is resident in any partition, or in one. -/
def noneResident (s : State) : Bool := s.resident.toList.all (·.isNone)

/-- R294, R365, R378: PARTS, which is measured; while no context is resident. -/
def writeParts (s : State) (v : W64) : State :=
  let n := v.toNat
  if (n == 1 || n == 2 || n == 4) && noneResident s && s.hernus.room then { measureEvent s 1 0 [n] with parts := n } else s

/-- R280, R378: STRMOWN. That the nodes, the sequence counter and the tape depth of a stream go with it to its new owner is the model's choice (log 54). -/
def writeStrmown (s : State) (k : Nat) (v : W64) : State :=
  if v.toNat ≤ 32 || v == 0x3F#64 then s.mapStream k fun st => { st with owner := v.extractLsb' 0 6 } else s

/-- R382: the upper half of PGCFG g: IPV4 and PLN, while its partition has no resident context. -/
def writePgcfg (s : State) (g : Nat) (v : W64) : State :=
  if (s.resident.getD (partOfDie s g) none).isSome then s
  else { s with pgcfg := s.pgcfg.setIfInBounds g ((v &&& 0xFFFFFFFF00000007#64) ++ 0#64) }

/-- R378: the PF's own registers. -/
def writePfReg (s : State) (off : Nat) (v : W64) : State :=
  if off == 0x6000 then writeParts s v
  else if 0x6004 ≤ off && off < 0x6104 && off % 4 == 0 then writeStrmown s ((off - 0x6004) / 4) v
  else if 0x6200 ≤ off && off < 0x6240 then (if off % 16 == 8 then writePgcfg s ((off - 0x6200) / 16) v else s)
  else if 0x6300 ≤ off && off < 0x6310 && off % 4 == 0 then
    (let n := (v.extractLsb' 0 10).toNat
     if 1 ≤ n && n ≤ 1000 then { s with quantum := s.quantum.setIfInBounds ((off - 0x6300) / 4) n } else s)
  else if off == 0x6400 then (if 1500 ≤ v.toNat && v.toNat ≤ 3600 then { s with pwrcap := v.toNat } else s)
  else if off == 0x10000 then { s with vfs := min 32 v.toNat }
  else s

/-- R369: a fabric select register written by the PF. -/
def writeFpsel (s : State) (k : Nat) (w : W32) : State :=
  let old := s.fpsel.getD k 0#32
  let new := selWritten old w
  let t := { s with fpsel := s.fpsel.setIfInBounds k new,
                    fpfrac := if new.getLsbD 29 || new.extractLsb' 0 8 != old.extractLsb' 0 8 then s.fpfrac.setIfInBounds k 0 else s.fpfrac }
  if new.getLsbD 29 then { t with fpcnt := t.fpcnt.setIfInBounds k 0#48 } else t

/-- R369: a reserved EVENT code written through the page: a report to the function, and the register keeps its value. -/
def selectStop (s : State) (fn : Nat) : State := postRecord s (hostSite fn) (Stop.plain .reservedField)

/-- R368, R369, R373: a write to the counter page; ignored while the owner is not resident. -/
def writeCounter (s : State) (fn off : Nat) (v : W64) : State :=
  let w : W32 := v.extractLsb' 0 32
  if !isResident s fn then s
  else if off < 0x10 && off % 4 == 0 then
    (if eventKnown 1 (w.extractLsb' 0 8).toNat then s.mapCtx fn fun c => c.writeSel 1 (off / 4) w else selectStop s fn)
  else if fn != 0 then s
  else if 0x1100 ≤ off && off < 0x1200 && off % 4 == 0 then
    (if eventKnown 2 (w.extractLsb' 0 8).toNat then writeFpsel s ((off - 0x1100) / 4) w else selectStop s fn)
  else if 0x1400 ≤ off && off < 0x1600 && off % 4 == 0 then { s with errSlice := s.errSlice.setIfInBounds ((off - 0x1400) / 4) w }
  else if 0x1600 ≤ off && off < 0x1620 && off % 4 == 0 then { s with errStack := s.errStack.setIfInBounds ((off - 0x1600) / 4) w }
  else s

/-- R378: a write at an offset of a function's register page. -/
def writeRegister (s : State) (fn off : Nat) (v : W64) : State :=
  let w : W32 := v.extractLsb' 0 32
  if off == 0x10C then writeFqHead s fn w
  else if off == 0x18C then writeMrHead s fn w
  else if off == 0x1AC then writeMsTail s fn w
  else if off == 0x210 then (match commandOf s fn with | some t => cmdResult t fn true | none => cmdResult s fn false)
  else if off == 0x5018 then writeWinload s fn w
  else if 0x1000 ≤ off && off < 0x2000 then
    (let k := (off - 0x1000) / 64
     if (s.stream k).owner.toNat == fn then s.mapStream k fun st => st.write (off % 64) v else s)
  else if 0x8000 ≤ off && off < 0x10000 then writeCounter s fn (off - 0x8000) v
  else if 0x6000 ≤ off then (if fn == 0 then writePfReg s off v else s)
  else s.mapCtx fn fun c => c.writeReg off v

/-- R378, R385. -/
def execRegisterWrite (fn off : Nat) (value : BitVec 64) (s : State) : Host.Outcome State Fault Refusal :=
  .next (if pageOpen s fn then writeRegister s fn off value else s)

/-! ### Reading the page -/

/-- R373: a slice counter as the page shows it: of the owner's partition only, from the image while the owner is not resident. -/
def readSlice (s : State) (fn unit n : Nat) : W64 :=
  let c := s.ctxOf fn
  if partOfDie s (unit / 32) != c.part then 0#64
  else if isResident s fn then
    (let x := counterOf c.slcnt unit n
     BitVec.ofNat 64 (x.count.toNat + bitAt x.ovf 63))
  else match c.image.dies.find? (·.1 == unit / 32) with
    | some d => BitVec.ofNat 64 (bytesNat (imageGet s c (d.2 + 1024 + 32 * (unit % 32) + 8 * n) 8))
    | none => 0#64

/-- R373: a read of the counter page. -/
def readCounter (s : State) (fn off : Nat) : W64 :=
  let c := s.ctxOf fn
  if off < 0x10 then
    (if isResident s fn then (c.slsel.getD (off / 4) 0#32).zeroExtend 64
     else match c.image.dies with
       | d :: _ => (wordAt (imageWords s c d.2 4) (off / 4)).zeroExtend 64
       | [] => (c.slsel.getD (off / 4) 0#32).zeroExtend 64)
  else if 0x100 ≤ off && off < 0x1100 then readSlice s fn ((off - 0x100) / 32) (off % 32 / 8)
  else if fn != 0 then 0#64
  else if 0x1100 ≤ off && off < 0x1200 then (s.fpsel.getD ((off - 0x1100) / 4) 0#32).zeroExtend 64
  else if 0x1200 ≤ off && off < 0x1400 then
    (let k := (off - 0x1200) / 8
     BitVec.ofNat 64 ((s.fpcnt.getD k 0#48).toNat + bitAt ((s.fpsel.getD k 0#32).getLsbD 30) 63))
  else if 0x1400 ≤ off && off < 0x1600 then (s.errSlice.getD ((off - 0x1400) / 4) 0#32).zeroExtend 64
  else if 0x1600 ≤ off && off < 0x1620 then (s.errStack.getD ((off - 0x1600) / 4) 0#32).zeroExtend 64
  else 0#64

/-- R379: a read of a stream's block. -/
def Stream.read (st : Stream) (off : Nat) : W64 :=
  match off with
  | 0x00 => st.postBase
  | 0x08 => st.postSize.zeroExtend 64
  | 0x0C => st.postTail.zeroExtend 64
  | 0x10 => st.postHead.zeroExtend 64
  | 0x18 => st.cplBase
  | 0x20 => st.cplSize.zeroExtend 64
  | 0x28 => st.tapeBase
  | 0x30 => if st.enable then 1#64 else 0#64
  | 0x34 => st.cplHead.zeroExtend 64
  | 0x38 => st.cplTail.zeroExtend 64
  | _ => 0#64

/-- A ring's registers as they are read, from its first offset on. -/
def Ring.read (r : Ring) (off : Nat) : W64 :=
  match off with
  | 0 => r.base
  | 8 => r.size.zeroExtend 64
  | 0xC => r.head.zeroExtend 64
  | 0x10 => r.tail.zeroExtend 64
  | _ => 0#64

/-- R378, R380, R384: a read of a register of a function's own page. -/
def Context.readReg (c : Context) (off : Nat) : W64 :=
  if 0x4000 ≤ off && off < 0x4400 then ((c.queues.find? (·.index == (off - 0x4000) / 4)).map (·.cfg.zeroExtend 64)).getD 0#64
  else if 0x100 ≤ off && off < 0x118 then c.fq.read (off - 0x100)
  else if 0x140 ≤ off && off < 0x158 then c.nr.read (off - 0x140)
  else if 0x180 ≤ off && off < 0x194 then c.mr.read (off - 0x180)
  else match off with
    | 0x020 => c.ptbr.zeroExtend 64
    | 0x1A0 => c.ms.base
    | 0x1A8 => c.ms.size.zeroExtend 64
    | 0x1AC => c.ms.tail.zeroExtend 64
    | 0x1B0 => c.ms.head.zeroExtend 64
    | 0x200 | 0x204 | 0x208 | 0x20C => (c.cmd.getD ((off - 0x200) / 4) 0#32).zeroExtend 64
    | 0x210 => c.cmdgo.zeroExtend 64
    | 0x5000 => c.gtbase
    | 0x5008 => c.gtcount.zeroExtend 64
    | 0x5010 => c.winbase
    | 0x5018 => c.winload.zeroExtend 64
    | _ => 0#64

/-- R378: a read of the PF's own registers. -/
def readPfReg (s : State) (off : Nat) : W64 :=
  if off == 0x6000 then BitVec.ofNat 64 s.parts
  else if 0x6004 ≤ off && off < 0x6104 then (s.stream ((off - 0x6004) / 4)).owner.zeroExtend 64
  else if 0x6200 ≤ off && off < 0x6240 then
    (let g := s.pgcfg.getD ((off - 0x6200) / 16) 0#128
     if off % 16 == 0 then g.extractLsb' 0 64 else if off % 16 == 8 then g.extractLsb' 64 64 else 0#64)
  else if 0x6300 ≤ off && off < 0x6310 then BitVec.ofNat 64 (s.quantum.getD ((off - 0x6300) / 4) 0)
  else if off == 0x6400 then BitVec.ofNat 64 s.pwrcap
  else 0#64

/-- R378, R385: what a host read at an offset of a function's register page returns. Reading changes nothing. -/
def readRegister (s : State) (fn off : Nat) : W64 :=
  if off == 0 then (if fnVisible s fn then s.hernus.bootstat.zeroExtend 64 else 0#64)
  else if !pageOpen s fn then 0#64
  else if 0x1000 ≤ off && off < 0x2000 then
    (let k := (off - 0x1000) / 64
     if (s.stream k).owner.toNat == fn then (s.stream k).read (off % 64) else 0#64)
  else if 0x8000 ≤ off && off < 0x10000 then readCounter s fn (off - 0x8000)
  else if 0x6000 ≤ off then (if fn == 0 then readPfReg s off else 0#64)
  else (s.ctxOf fn).readReg off

end Sys2Proof.Machine
end

