-- ==== Sys2Proof/Machine/Memory.lean ====
section
/-! DEFINITION. Loads, stores and the line forms: opcodes 0x58 to 0x6C (R212 to R217, R104). -/

namespace Sys2Proof.Machine

/-- R214. -/
def execLdgN8 (o : BitVec 6) (d a : BitVec 7) (l : BitVec 4) (s : State) : Host.Outcome State Fault Refusal :=
  settle s (loadEffect s .g a d (o.toInt * 1) 1 1 l)

/-- R214. -/
def execLdgN16 (o : BitVec 6) (d a : BitVec 7) (l : BitVec 4) (s : State) : Host.Outcome State Fault Refusal :=
  settle s (loadEffect s .g a d (o.toInt * 2) 2 1 l)

/-- R214. -/
def execLdgI32 (o : BitVec 6) (d a : BitVec 7) (l : BitVec 4) (s : State) : Host.Outcome State Fault Refusal :=
  settle s (loadEffect s .g a d (o.toInt * 4) 4 1 l)

/-- R214. -/
def execLdgI64 (o : BitVec 6) (d a : BitVec 7) (l : BitVec 4) (s : State) : Host.Outcome State Fault Refusal :=
  settle s (loadEffect s .g a d (o.toInt * 8) 8 2 l)

/-- R214. -/
def execLdgB128 (o : BitVec 6) (d a : BitVec 7) (l : BitVec 4) (s : State) : Host.Outcome State Fault Refusal :=
  settle s (loadEffect s .g a d (o.toInt * 16) 16 4 l)

/-- R214. -/
def execLdtN8 (o : BitVec 6) (d a : BitVec 7) (l : BitVec 4) (s : State) : Host.Outcome State Fault Refusal :=
  settle s (loadEffect s .t a d (o.toInt * 1) 1 1 l)

/-- R214. -/
def execLdtN16 (o : BitVec 6) (d a : BitVec 7) (l : BitVec 4) (s : State) : Host.Outcome State Fault Refusal :=
  settle s (loadEffect s .t a d (o.toInt * 2) 2 1 l)

/-- R214. -/
def execLdtI32 (o : BitVec 6) (d a : BitVec 7) (l : BitVec 4) (s : State) : Host.Outcome State Fault Refusal :=
  settle s (loadEffect s .t a d (o.toInt * 4) 4 1 l)

/-- R214. -/
def execLdtI64 (o : BitVec 6) (d a : BitVec 7) (l : BitVec 4) (s : State) : Host.Outcome State Fault Refusal :=
  settle s (loadEffect s .t a d (o.toInt * 8) 8 2 l)

/-- R214. -/
def execLdtB128 (o : BitVec 6) (d a : BitVec 7) (l : BitVec 4) (s : State) : Host.Outcome State Fault Refusal :=
  settle s (loadEffect s .t a d (o.toInt * 16) 16 4 l)

/-- R214. -/
def execLddN8 (o : BitVec 6) (d a : BitVec 7) (l : BitVec 4) (s : State) : Host.Outcome State Fault Refusal :=
  settle s (loadEffect s .d a d (o.toInt * 1) 1 1 l)

/-- R214. -/
def execLddN16 (o : BitVec 6) (d a : BitVec 7) (l : BitVec 4) (s : State) : Host.Outcome State Fault Refusal :=
  settle s (loadEffect s .d a d (o.toInt * 2) 2 1 l)

/-- R214. -/
def execLddI32 (o : BitVec 6) (d a : BitVec 7) (l : BitVec 4) (s : State) : Host.Outcome State Fault Refusal :=
  settle s (loadEffect s .d a d (o.toInt * 4) 4 1 l)

/-- R214. -/
def execLddI64 (o : BitVec 6) (d a : BitVec 7) (l : BitVec 4) (s : State) : Host.Outcome State Fault Refusal :=
  settle s (loadEffect s .d a d (o.toInt * 8) 8 2 l)

/-- R214. -/
def execLddB128 (o : BitVec 6) (d a : BitVec 7) (l : BitVec 4) (s : State) : Host.Outcome State Fault Refusal :=
  settle s (loadEffect s .d a d (o.toInt * 16) 16 4 l)

/-- R216: the offset is in units of the width, from SP. -/
def execLdk (o : BitVec 10) (d : BitVec 7) (w : BitVec 3) (l : BitVec 4) (s : State) : Host.Outcome State Fault Refusal :=
  settle s (loadEffect s .k 0#7 d (o.toInt * widthBytes w) (widthBytes w) (regsOfWidth w) l)

/-- R215. -/
def execStg (o : BitVec 6) (d a : BitVec 7) (w : BitVec 3) (s : State) : Host.Outcome State Fault Refusal :=
  settle s (storeEffect s .g a d (o.toInt * widthBytes w) (widthBytes w))

/-- R215. -/
def execStt (o : BitVec 6) (d a : BitVec 7) (w : BitVec 3) (s : State) : Host.Outcome State Fault Refusal :=
  settle s (storeEffect s .t a d (o.toInt * widthBytes w) (widthBytes w))

/-- R215. -/
def execStd (o : BitVec 6) (d a : BitVec 7) (w : BitVec 3) (s : State) : Host.Outcome State Fault Refusal :=
  settle s (storeEffect s .d a d (o.toInt * widthBytes w) (widthBytes w))

/-- R216. -/
def execStk (o : BitVec 10) (d : BitVec 7) (w : BitVec 3) (s : State) : Host.Outcome State Fault Refusal :=
  settle s (storeEffect s .k 0#7 d (o.toInt * widthBytes w) (widthBytes w))

/-- R217: the lines that the active lanes name; the low six bits are ignored. -/
def lineAddresses (s : State) (o : BitVec 6) (a : BitVec 7) : List (Nat × Int) :=
  (activeLanes s).map fun l =>
    let x := (laneAddr s a l : Int) + o.toInt * 64
    (l, x - x % 64)

/-- R217: a prefetch changes no value and raises nothing. -/
def execPref (_o : BitVec 6) (_a : BitVec 7) (s : State) : Host.Outcome State Fault Refusal := .next (s.advance 1)

/-- R104: the line zeroed at its home slice; its poison is cleared. -/
def discardLine (s : State) (p : Nat) : State :=
  countSlice (storeAt s s.ctx.key p (List.replicate 64 0#8)) s.ctx.owner p 0x07 1

/-- R217, R104. -/
def execDiscard (o : BitVec 6) (a : BitVec 7) (s : State) : Host.Outcome State Fault Refusal :=
  settle s (do
    let ps ← orTrap (laneChecks s .g accAtomic 64 false true (lineAddresses s o a))
    return (ps.foldl (fun t x => discardLine t x.2) s).advance 1)

/-- R217: the lines are clean afterwards. That a poisoned line raises nothing, since FLUSH reads no value, is the model's choice (log 26). -/
def execFlush (o : BitVec 6) (a : BitVec 7) (s : State) : Host.Outcome State Fault Refusal :=
  settle s (do
    let ps ← orTrap (laneChecks s .g accRead 64 false false (lineAddresses s o a))
    return { s with dirty := s.dirty.filter fun k => !(ps.any fun x => x.2 / 64 == k) }.advance 1)

end Sys2Proof.Machine
end

