-- ==== Sys2Proof/Machine/Packed.lean ====
section
/-! DEFINITION. Packed arithmetic, dot products, sample packing and table lookup: opcodes 0x30 to 0x3A (R180 to R186). -/

namespace Sys2Proof.Machine

/-- R165: element k of w bits of a word. -/
def elem (w : Nat) (x : W32) (k : Nat) : Nat := x.toNat / 2 ^ (w * k) % 2 ^ w

/-- A word from its elements of w bits. -/
def fromElems (w : Nat) (f : Nat → Nat) : W32 :=
  BitVec.ofNat 32 ((List.range (32 / w)).foldl (fun acc k => acc + f k % 2 ^ w * 2 ^ (w * k)) 0)

/-- R180: w = 16, or 8 when F[2] = 1. -/
def packWidth (w : Bool) : Nat := if w then 8 else 16

/-- R180: the word and FLAGS of an element-wise form: op on the values, clamped or wrapped. -/
def packedWord (byte natural sat : Bool) (op : Int → Int → Int) (a b : W32) : W32 × W32 :=
  let w := packWidth byte
  let e (k : Nat) : Int := op (valOf (!natural) w (elem w a k)) (valOf (!natural) w (elem w b k))
  if sat then
    (fromElems w fun k => wrapNat w (saturate (!natural) w (e k)).1,
     (List.range (32 / w)).foldl (fun acc k => acc ||| (saturate (!natural) w (e k)).2) 0#32)
  else (fromElems w fun k => wrapNat w (e k), 0#32)

/-- R180. -/
def execPadd (f : BitVec 3) (d a b : BitVec 7) (s : State) : Host.Outcome State Fault Refusal :=
  .next (laneFlagEffect s d fun l => packedWord (f.getLsbD 2) (f.getLsbD 0) (f.getLsbD 1) (· + ·) (src s a l) (src s b l))

/-- R180. -/
def execPsub (f : BitVec 3) (d a b : BitVec 7) (s : State) : Host.Outcome State Fault Refusal :=
  .next (laneFlagEffect s d fun l => packedWord (f.getLsbD 2) (f.getLsbD 0) (f.getLsbD 1) (· - ·) (src s a l) (src s b l))

/-- R180. -/
def execPmin (w n : BitVec 1) (d a b : BitVec 7) (s : State) : Host.Outcome State Fault Refusal :=
  .next (laneEffect s d fun l => (packedWord (w == 1#1) (n == 1#1) false (fun x y => min x y) (src s a l) (src s b l)).1)

/-- R180. -/
def execPmax (w n : BitVec 1) (d a b : BitVec 7) (s : State) : Host.Outcome State Fault Refusal :=
  .next (laneEffect s d fun l => (packedWord (w == 1#1) (n == 1#1) false (fun x y => max x y) (src s a l) (src s b l)).1)

/-- R180. -/
def execPabd (w n : BitVec 1) (d a b : BitVec 7) (s : State) : Host.Outcome State Fault Refusal :=
  .next (laneEffect s d fun l =>
    (packedWord (w == 1#1) (n == 1#1) false (fun x y => ((x - y).natAbs : Int)) (src s a l) (src s b l)).1)

/-- R180. -/
def execPavg (w n : BitVec 1) (d a b : BitVec 7) (s : State) : Host.Outcome State Fault Refusal :=
  .next (laneEffect s d fun l => (packedWord (w == 1#1) (n == 1#1) false (fun x y => (x + y + 1) / 2) (src s a l) (src s b l)).1)

/-- R180. -/
def execPmul (w n : BitVec 1) (d a b : BitVec 7) (s : State) : Host.Outcome State Fault Refusal :=
  .next (laneEffect s d fun l => (packedWord (w == 1#1) (n == 1#1) false (· * ·) (src s a l) (src s b l)).1)

/-- R180. -/
def execPmulh (w n : BitVec 1) (d a b : BitVec 7) (s : State) : Host.Outcome State Fault Refusal :=
  .next (laneEffect s d fun l =>
    (packedWord (w == 1#1) (n == 1#1) false (fun x y => x * y / 2 ^ packWidth (w == 1#1)) (src s a l) (src s b l)).1)

/-- R181: an element shifted left. -/
def pshlElem (w x k : Nat) : Nat := if k < w then x * 2 ^ k else 0

/-- R181: an element shifted right, arithmetically when signed. -/
def pshrElem (signed : Bool) (w x k : Nat) : Nat :=
  if signed then wrapNat w (valOf true w x / 2 ^ min k w) else if k < w then x / 2 ^ k else 0

/-- R181. -/
def execPshl (w : BitVec 1) (d a b : BitVec 7) (s : State) : Host.Outcome State Fault Refusal :=
  let n := packWidth (w == 1#1)
  .next (laneEffect s d fun l => fromElems n fun k => pshlElem n (elem n (src s a l) k) (elem n (src s b l) k))

/-- R181. -/
def execPshr (w x : BitVec 1) (d a b : BitVec 7) (s : State) : Host.Outcome State Fault Refusal :=
  let n := packWidth (w == 1#1)
  .next (laneEffect s d fun l => fromElems n fun k => pshrElem (x == 1#1) n (elem n (src s a l) k) (elem n (src s b l) k))

/-- What one lane of PACS gives: the metrics, the two decisions and the flag (R182). -/
structure AcsOut where
  word : W32
  first : Bool
  second : Bool
  flags : W32
  deriving DecidableEq, Repr

/-- R182: one add-compare-select step. -/
def acs (a b : W32) : AcsOut :=
  let x0 := elem 16 a 0 + elem 16 b 0
  let y0 := elem 16 a 1 + elem 16 b 1
  let x1 := elem 16 a 0 + elem 16 b 1
  let y1 := elem 16 a 1 + elem 16 b 0
  let sat (e : Nat) := min e 65535
  let p := decide (sat y0 < sat x0)
  let q := decide (sat y1 < sat x1)
  { word := BitVec.ofNat 32 ((if p then sat y0 else sat x0) + 2 ^ 16 * (if q then sat y1 else sat x1)), first := p, second := q,
    flags := if 65535 < x0 || 65535 < y0 || 65535 < x1 || 65535 < y1 then flagISAT else 0#32 }

/-- R182. -/
def execPacs (f : BitVec 3) (d a b : BitVec 7) (s : State) : Host.Outcome State Fault Refusal :=
  let r (l : Nat) := acs (src s a l) (src s b l)
  let t := laneFlagEffect s d fun l => ((r l).word, (r l).flags)
  .next (t.mapPod fun p =>
    (p.setPred (activeMask s) f.toNat (laneMask fun l => (r l).first)).setPred (activeMask s) (f.toNat + 1) (laneMask fun l => (r l).second))

/-- R183: the exact sum of the products of n elements of w bits, with each operand's signedness. -/
def dotSum (n w : Nat) (na nb : Bool) (a b : W32) : Int :=
  (List.range n).foldl (fun acc k => acc + valOf (!na) w (elem w a k) * valOf (!nb) w (elem w b k)) 0

/-- R183: F[2] saturates, F[1] is b natural, F[0] is a natural. -/
def execDot4 (f : BitVec 3) (d a b : BitVec 7) (s : State) : Host.Outcome State Fault Refusal :=
  .next (laneFlagEffect s d fun l =>
    let e := (src s d l).toInt + dotSum 4 8 (f.getLsbD 0) (f.getLsbD 1) (src s a l) (src s b l)
    if f.getLsbD 2 then (wrap32 (saturate true 32 e).1, (saturate true 32 e).2) else (wrap32 e, 0#32))

/-- R183. -/
def execDot8 (f : BitVec 2) (d a b : BitVec 7) (s : State) : Host.Outcome State Fault Refusal :=
  .next (laneEffect s d fun l => wrap32 ((src s d l).toInt + dotSum 8 4 (f.getLsbD 0) (f.getLsbD 1) (src s a l) (src s b l)))

/-- R183. -/
def execDot2 (f : BitVec 2) (d a b : BitVec 7) (s : State) : Host.Outcome State Fault Refusal :=
  .next (laneEffect s d fun l => wrap32 ((src s d l).toInt + dotSum 2 16 (f.getLsbD 0) (f.getLsbD 1) (src s a l) (src s b l)))

/-- R184: sample widths 10, 12 and 14. -/
def sampleWidth (w : BitVec 2) : Nat := 10 + 2 * w.toNat

/-- R184: the two samples at offset o of a pair value. -/
def punpkWord (w : Nat) (pair o : Nat) : W32 := BitVec.ofNat 32 (pair / 2 ^ o % 2 ^ w + 2 ^ 16 * (pair / 2 ^ (o + w) % 2 ^ w))

/-- R184. -/
def execPunpk (w : BitVec 2) (d a b : BitVec 7) (s : State) : Host.Outcome State Fault Refusal :=
  .next (laneEffect s d fun l => punpkWord (sampleWidth w) (laneAddr s a l) ((src s b l).toNat % 64))

/-- R185: a field of w bits at offset o of a 64-bit string replaced; bits above 63 are dropped. -/
def putField (pair : W64) (o w v : Nat) : W64 :=
  (pair &&& ~~~BitVec.ofNat 64 ((2 ^ w - 1) * 2 ^ o)) ||| BitVec.ofNat 64 (v * 2 ^ o)

/-- R185: the pair with both samples packed, and the flag. -/
def ppackPair (w : Nat) (pair : W64) (a : W32) (o : Nat) : W64 × W32 :=
  let v (k : Nat) := min (elem 16 a k) (2 ^ w - 1)
  (putField (putField pair o w (v 0)) (o + w) w (v 1),
   if v 0 != elem 16 a 0 || v 1 != elem 16 a 1 then flagISAT else 0#32)

/-- R185. -/
def execPpack (w : BitVec 2) (d a b : BitVec 7) (s : State) : Host.Outcome State Fault Refusal :=
  let r (l : Nat) := ppackPair (sampleWidth w) (BitVec.ofNat 64 (laneAddr s d l)) (src s a l) ((src s b l).toNat % 64)
  let t := s.orFlags (laneFlags s fun l => (r l).2)
  .next ((t.mapPod fun p => p.putLanes (activeMask s) d.toNat
    [laneWord fun l => (r l).1.extractLsb' 0 32, laneWord fun l => (r l).1.extractLsb' 32 32]).advance 1)

/-- R186: a table byte, or the fill. -/
def tblByte (s : State) (a n fill l idx : Nat) : Nat := if idx < 4 * n then elem 8 (srcN s (a + idx / 4) l) (idx % 4) else fill

/-- R186. -/
def execTbl (n : BitVec 2) (x : BitVec 8) (d a : BitVec 7) (s : State) : Host.Outcome State Fault Refusal :=
  .next (laneEffect s d fun l => fromElems 8 fun k => tblByte s a.toNat (2 ^ n.toNat) x.toNat l (elem 8 (src s d l) k))

end Sys2Proof.Machine
end

