-- ==== Sys2Proof/Machine/Dispatch.lean ====
section
/-! DEFINITION. The dispatch: one arm per constructor of Instr, each one call of its meaning. -/

namespace Sys2Proof.Machine

def exec (i : Instr) (s : State) : Host.Outcome State Fault Refusal :=
  match i with
  | .bra p n o => Sys2Proof.Machine.execBra p n o s
  | .call p n o => Sys2Proof.Machine.execCall p n o s
  | .brx a => Sys2Proof.Machine.execBrx a s
  | .callx a => Sys2Proof.Machine.execCallx a s
  | .nop => Sys2Proof.Machine.execNop s
  | .land => Sys2Proof.Machine.execLand s
  | .rejoin => Sys2Proof.Machine.execRejoin s
  | .ret => Sys2Proof.Machine.execRet s
  | .exit => Sys2Proof.Machine.execExit s
  | .yield => Sys2Proof.Machine.execYield s
  | .melse => Sys2Proof.Machine.execMelse s
  | .mpop => Sys2Proof.Machine.execMpop s
  | .mpush f => Sys2Proof.Machine.execMpush f s
  | .sleep imm => Sys2Proof.Machine.execSleep imm s
  | .trap imm => Sys2Proof.Machine.execTrap imm s
  | .brk imm => Sys2Proof.Machine.execBrk imm s
  | .sysrd f d b => Sys2Proof.Machine.execSysrd f d b s
  | .syswr n a => Sys2Proof.Machine.execSyswr n a s
  | .cntrd d n => Sys2Proof.Machine.execCntrd d n s
  | .srkey k a => Sys2Proof.Machine.execSrkey k a s
  | .srstep a => Sys2Proof.Machine.execSrstep a s
  | .iadd f d a b => Sys2Proof.Machine.execIadd f d a b s
  | .isub f d a b => Sys2Proof.Machine.execIsub f d a b s
  | .iaddi imm d a => Sys2Proof.Machine.execIaddi imm d a s
  | .imul f d a b => Sys2Proof.Machine.execImul f d a b s
  | .imulh f d a b => Sys2Proof.Machine.execImulh f d a b s
  | .imad f d a b => Sys2Proof.Machine.execImad f d a b s
  | .imin f d a b => Sys2Proof.Machine.execImin f d a b s
  | .imax f d a b => Sys2Proof.Machine.execImax f d a b s
  | .iabs f d a => Sys2Proof.Machine.execIabs f d a s
  | .icmp f d a b => Sys2Proof.Machine.execIcmp f d a b s
  | .isel f d a b => Sys2Proof.Machine.execIsel f d a b s
  | .shl d a b => Sys2Proof.Machine.execShl d a b s
  | .shr d a b => Sys2Proof.Machine.execShr d a b s
  | .sar d a b => Sys2Proof.Machine.execSar d a b s
  | .rol d a b => Sys2Proof.Machine.execRol d a b s
  | .shli d a k => Sys2Proof.Machine.execShli d a k s
  | .shri d a k => Sys2Proof.Machine.execShri d a k s
  | .sari d a k => Sys2Proof.Machine.execSari d a k s
  | .and d a b => Sys2Proof.Machine.execAnd d a b s
  | .or d a b => Sys2Proof.Machine.execOr d a b s
  | .xor d a b => Sys2Proof.Machine.execXor d a b s
  | .andn d a b => Sys2Proof.Machine.execAndn d a b s
  | .andi imm d a => Sys2Proof.Machine.execAndi imm d a s
  | .ori imm d a => Sys2Proof.Machine.execOri imm d a s
  | .xori imm d a => Sys2Proof.Machine.execXori imm d a s
  | .clz d a => Sys2Proof.Machine.execClz d a s
  | .popc d a => Sys2Proof.Machine.execPopc d a s
  | .brev d a => Sys2Proof.Machine.execBrev d a s
  | .bfx q d a b => Sys2Proof.Machine.execBfx q d a b s
  | .bfi d a b => Sys2Proof.Machine.execBfi d a b s
  | .mov d a => Sys2Proof.Machine.execMov d a s
  | .movi imm d => Sys2Proof.Machine.execMovi imm d s
  | .movl d lit => Sys2Proof.Machine.execMovl d lit s
  | .movs d a => Sys2Proof.Machine.execMovs d a s
  | .smov d a l => Sys2Proof.Machine.execSmov d a l s
  | .smovi d imm => Sys2Proof.Machine.execSmovi d imm s
  | .smoviLiteral d lit => Sys2Proof.Machine.execSmoviLiteral d lit s
  | .sadd d a b => Sys2Proof.Machine.execSadd d a b s
  | .saddi d a imm => Sys2Proof.Machine.execSaddi d a imm s
  | .saddiLiteral d a lit => Sys2Proof.Machine.execSaddiLiteral d a lit s
  | .sand d a b => Sys2Proof.Machine.execSand d a b s
  | .sshl d a n k => Sys2Proof.Machine.execSshl d a n k s
  | .padd f d a b => Sys2Proof.Machine.execPadd f d a b s
  | .psub f d a b => Sys2Proof.Machine.execPsub f d a b s
  | .pmin w n d a b => Sys2Proof.Machine.execPmin w n d a b s
  | .pmax w n d a b => Sys2Proof.Machine.execPmax w n d a b s
  | .pabd w n d a b => Sys2Proof.Machine.execPabd w n d a b s
  | .pavg w n d a b => Sys2Proof.Machine.execPavg w n d a b s
  | .pmul w n d a b => Sys2Proof.Machine.execPmul w n d a b s
  | .pmulh w n d a b => Sys2Proof.Machine.execPmulh w n d a b s
  | .pshl w d a b => Sys2Proof.Machine.execPshl w d a b s
  | .pshr w q d a b => Sys2Proof.Machine.execPshr w q d a b s
  | .pacs f d a b => Sys2Proof.Machine.execPacs f d a b s
  | .dot4 f d a b => Sys2Proof.Machine.execDot4 f d a b s
  | .dot8 f d a b => Sys2Proof.Machine.execDot8 f d a b s
  | .dot2 f d a b => Sys2Proof.Machine.execDot2 f d a b s
  | .ppack w d a b => Sys2Proof.Machine.execPpack w d a b s
  | .punpk w d a b => Sys2Proof.Machine.execPunpk w d a b s
  | .tbl n x d a => Sys2Proof.Machine.execTbl n x d a s
  | .shfl f d a b => Sys2Proof.Machine.execShfl f d a b s
  | .scan d a q e o => Sys2Proof.Machine.execScan d a q e o s
  | .red d a q o => Sys2Proof.Machine.execRed d a q o s
  | .voteAny q d a => Sys2Proof.Machine.execVoteAny q d a s
  | .voteAll q d a => Sys2Proof.Machine.execVoteAll q d a s
  | .voteCount q d a => Sys2Proof.Machine.execVoteCount q d a s
  | .votePack q d a => Sys2Proof.Machine.execVotePack q d a s
  | .matchLanes q d a => Sys2Proof.Machine.execMatchLanes q d a s
  | .plog f d a b => Sys2Proof.Machine.execPlog f d a b s
  | .pmovPredicateFromRegister d a => Sys2Proof.Machine.execPmovPredicateFromRegister d a s
  | .pmovRegisterFromPredicate d a => Sys2Proof.Machine.execPmovRegisterFromPredicate d a s
  | .pmovPredicateFromPredicate d a => Sys2Proof.Machine.execPmovPredicateFromPredicate d a s
  | .fadd f d a b => Sys2Proof.Machine.execFadd f d a b s
  | .fsub f d a b => Sys2Proof.Machine.execFsub f d a b s
  | .fmul f d a b => Sys2Proof.Machine.execFmul f d a b s
  | .ffma f d a b => Sys2Proof.Machine.execFfma f d a b s
  | .fmin d a b => Sys2Proof.Machine.execFmin d a b s
  | .fmax d a b => Sys2Proof.Machine.execFmax d a b s
  | .fabs d a => Sys2Proof.Machine.execFabs d a s
  | .fneg d a => Sys2Proof.Machine.execFneg d a s
  | .fcmp f d a b => Sys2Proof.Machine.execFcmp f d a b s
  | .fclass d a => Sys2Proof.Machine.execFclass d a s
  | .fscale f d a b => Sys2Proof.Machine.execFscale f d a b s
  | .frcp d a l => Sys2Proof.Machine.execFrcp d a l s
  | .frsq d a l => Sys2Proof.Machine.execFrsq d a l s
  | .fsqrt d a l => Sys2Proof.Machine.execFsqrt d a l s
  | .fexp2 d a l => Sys2Proof.Machine.execFexp2 d a l s
  | .flog2 d a l => Sys2Proof.Machine.execFlog2 d a l s
  | .fsin d a l => Sys2Proof.Machine.execFsin d a l s
  | .fcos d a l => Sys2Proof.Machine.execFcos d a l s
  | .ftanh d a l => Sys2Proof.Machine.execFtanh d a l s
  | .bfadd2 f d a b => Sys2Proof.Machine.execBfadd2 f d a b s
  | .bfmul2 f d a b => Sys2Proof.Machine.execBfmul2 f d a b s
  | .bffma2 f d a b => Sys2Proof.Machine.execBffma2 f d a b s
  | .cvtFloatToFloat f d a t q k => Sys2Proof.Machine.execCvtFloatToFloat f d a t q k s
  | .cvtFloatToInteger f d a t q k => Sys2Proof.Machine.execCvtFloatToInteger f d a t q k s
  | .cvtIntegerToFloat f d a t q k => Sys2Proof.Machine.execCvtIntegerToFloat f d a t q k s
  | .cvtIntegerToInteger f d a t q k => Sys2Proof.Machine.execCvtIntegerToInteger f d a t q k s
  | .sclx d a t => Sys2Proof.Machine.execSclx d a t s
  | .lsupd d => Sys2Proof.Machine.execLsupd d s
  | .ldgN8 o d a l => Sys2Proof.Machine.execLdgN8 o d a l s
  | .ldgN16 o d a l => Sys2Proof.Machine.execLdgN16 o d a l s
  | .ldgI32 o d a l => Sys2Proof.Machine.execLdgI32 o d a l s
  | .ldgI64 o d a l => Sys2Proof.Machine.execLdgI64 o d a l s
  | .ldgB128 o d a l => Sys2Proof.Machine.execLdgB128 o d a l s
  | .ldtN8 o d a l => Sys2Proof.Machine.execLdtN8 o d a l s
  | .ldtN16 o d a l => Sys2Proof.Machine.execLdtN16 o d a l s
  | .ldtI32 o d a l => Sys2Proof.Machine.execLdtI32 o d a l s
  | .ldtI64 o d a l => Sys2Proof.Machine.execLdtI64 o d a l s
  | .ldtB128 o d a l => Sys2Proof.Machine.execLdtB128 o d a l s
  | .lddN8 o d a l => Sys2Proof.Machine.execLddN8 o d a l s
  | .lddN16 o d a l => Sys2Proof.Machine.execLddN16 o d a l s
  | .lddI32 o d a l => Sys2Proof.Machine.execLddI32 o d a l s
  | .lddI64 o d a l => Sys2Proof.Machine.execLddI64 o d a l s
  | .lddB128 o d a l => Sys2Proof.Machine.execLddB128 o d a l s
  | .ldk o d w l => Sys2Proof.Machine.execLdk o d w l s
  | .stg o d a w => Sys2Proof.Machine.execStg o d a w s
  | .stt o d a w => Sys2Proof.Machine.execStt o d a w s
  | .std o d a w => Sys2Proof.Machine.execStd o d a w s
  | .stk o d w => Sys2Proof.Machine.execStk o d w s
  | .pref o a => Sys2Proof.Machine.execPref o a s
  | .discard o a => Sys2Proof.Machine.execDiscard o a s
  | .flush o a => Sys2Proof.Machine.execFlush o a s
  | .aadd d a l w => Sys2Proof.Machine.execAadd d a l w s
  | .amin d a l w n => Sys2Proof.Machine.execAmin d a l w n s
  | .amax d a l w n => Sys2Proof.Machine.execAmax d a l w n s
  | .aand d a l w => Sys2Proof.Machine.execAand d a l w s
  | .aor d a l w => Sys2Proof.Machine.execAor d a l w s
  | .axor d a l w => Sys2Proof.Machine.execAxor d a l w s
  | .axch d a l w => Sys2Proof.Machine.execAxch d a l w s
  | .acas d a l w => Sys2Proof.Machine.execAcas d a l w s
  | .afadd d a l w => Sys2Proof.Machine.execAfadd d a l w s
  | .tkfadd d a w => Sys2Proof.Machine.execTkfadd d a w s
  | .tkreg x y => Sys2Proof.Machine.execTkreg x y s
  | .tkskip x y => Sys2Proof.Machine.execTkskip x y s
  | .tkfence z => Sys2Proof.Machine.execTkfence z s
  | .tkqry x y l => Sys2Proof.Machine.execTkqry x y l s
  | .fenceAcq z => Sys2Proof.Machine.execFenceAcq z s
  | .fenceRel z => Sys2Proof.Machine.execFenceRel z s
  | .fenceAr z => Sys2Proof.Machine.execFenceAr z s
  | .bar => Sys2Proof.Machine.execBar s
  | .barrive x y z l => Sys2Proof.Machine.execBarrive x y z l s
  | .bwait x y z => Sys2Proof.Machine.execBwait x y z s
  | .btry x y z => Sys2Proof.Machine.execBtry x y z s
  | .waitptr x z => Sys2Proof.Machine.execWaitptr x z s
  | .waitmem x y g => Sys2Proof.Machine.execWaitmem x y g s
  | .shape x y z => Sys2Proof.Machine.execShape x y z s
  | .shapeq x => Sys2Proof.Machine.execShapeq x s
  | .mma f x y z l g => Sys2Proof.Machine.execMma f x y z l g s
  | .mmab f x y z l g => Sys2Proof.Machine.execMmab f x y z l g s
  | .mdrain f x y z l g => Sys2Proof.Machine.execMdrain f x y z l g s
  | .tzero x y l => Sys2Proof.Machine.execTzero x y l s
  | .trot x y l => Sys2Proof.Machine.execTrot x y l s
  | .tcpy x y z l => Sys2Proof.Machine.execTcpy x y z l s
  | .tcpyw x y z l => Sys2Proof.Machine.execTcpyw x y z l s
  | .tdset x y => Sys2Proof.Machine.execTdset x y s
  | .tdget x y => Sys2Proof.Machine.execTdget x y s
  | .tdinv x => Sys2Proof.Machine.execTdinv x s
  | .tscl f x y z l => Sys2Proof.Machine.execTscl f x y z l s
  | .glaunch x y l => Sys2Proof.Machine.execGlaunch x y l s
  | .gwait x => Sys2Proof.Machine.execGwait x s
  | .gwaitTry x => Sys2Proof.Machine.execGwaitTry x s
  | .gnode x y l => Sys2Proof.Machine.execGnode x y l s
  | .tapepush x y l => Sys2Proof.Machine.execTapepush x y l s
  | .fqpost x y l => Sys2Proof.Machine.execFqpost x y l s
  | .poolMarker n => Sys2Proof.Machine.execPoolMarker n s
  | .zli d h m => Sys2Proof.Machine.execZli d h m s
  | .zadd d a b imm m => Sys2Proof.Machine.execZadd d a b imm m s
  | .zsub d a b imm m => Sys2Proof.Machine.execZsub d a b imm m s
  | .zshl d a b imm m => Sys2Proof.Machine.execZshl d a b imm m s
  | .zand d a b imm m => Sys2Proof.Machine.execZand d a b imm m s
  | .zbr c a b o => Sys2Proof.Machine.execZbr c a b o s
  | .zloop a o => Sys2Proof.Machine.execZloop a o s
  | .zld d a w o => Sys2Proof.Machine.execZld d a w o s
  | .zst d a w o => Sys2Proof.Machine.execZst d a w o s
  | .zsend d a w => Sys2Proof.Machine.execZsend d a w s
  | .zags d a b w => Sys2Proof.Machine.execZags d a b w s
  | .zfetch d a t => Sys2Proof.Machine.execZfetch d a t s
  | .zckpt d a => Sys2Proof.Machine.execZckpt d a s
  | .zclone d a r w => Sys2Proof.Machine.execZclone d a r w s
  | .zqnt d a b => Sys2Proof.Machine.execZqnt d a b s
  | .zrsc d a b => Sys2Proof.Machine.execZrsc d a b s
  | .zrsf d a => Sys2Proof.Machine.execZrsf d a s
  | .zdqa d a => Sys2Proof.Machine.execZdqa d a s
  | .zwaitBar d a q => Sys2Proof.Machine.execZwaitBar d a q s
  | .zwaitFlag d a q => Sys2Proof.Machine.execZwaitFlag d a q s
  | .zsig d a b w q => Sys2Proof.Machine.execZsig d a b w q s
  | .zsigRemote a b w q => Sys2Proof.Machine.execZsigRemote a b w q s
  | .zfenceAcq q => Sys2Proof.Machine.execZfenceAcq q s
  | .zfenceRel q => Sys2Proof.Machine.execZfenceRel q s
  | .zfenceAr q => Sys2Proof.Machine.execZfenceAr q s
  | .zcyc d => Sys2Proof.Machine.execZcyc d s
  | .ztrap m => Sys2Proof.Machine.execZtrap m s
  | .zhalt => Sys2Proof.Machine.execZhalt s
  | .moduleReset => Sys2Proof.Machine.execModuleReset s
  | .hernusBoot => Sys2Proof.Machine.execHernusBoot s
  | .linkTraining => Sys2Proof.Machine.execLinkTraining s
  | .overtempReset => Sys2Proof.Machine.execOvertempReset s
  | .throttleStepDown => Sys2Proof.Machine.execThrottleStepDown s
  | .throttleStepUp => Sys2Proof.Machine.execThrottleStepUp s
  | .functionLevelReset fn => Sys2Proof.Machine.execFunctionLevelReset fn s
  | .tdiError fn => Sys2Proof.Machine.execTdiError fn s
  | .hostPostedWrite owner va bytes => Sys2Proof.Machine.execHostPostedWrite owner va bytes s
  | .hostRead owner va len => Sys2Proof.Machine.execHostRead owner va len s
  | .registerWrite fn off value => Sys2Proof.Machine.execRegisterWrite fn off value s
  | .posttailWrite fn stream tail => Sys2Proof.Machine.execPosttailWrite fn stream tail s
  | .cplheadWrite fn stream head => Sys2Proof.Machine.execCplheadWrite fn stream head s
  | .streamEnable fn stream => Sys2Proof.Machine.execStreamEnable fn stream s
  | .fqheadWrite fn head => Sys2Proof.Machine.execFqheadWrite fn head s
  | .mrheadWrite fn head => Sys2Proof.Machine.execMrheadWrite fn head s
  | .mstailWrite fn tail => Sys2Proof.Machine.execMstailWrite fn tail s
  | .winload fn value => Sys2Proof.Machine.execWinload fn value s
  | .inval fn va pages => Sys2Proof.Machine.execInval fn va pages s
  | .resume fn seq => Sys2Proof.Machine.execResume fn seq s
  | .terminate fn seq => Sys2Proof.Machine.execTerminate fn seq s
  | .termgrid fn handle => Sys2Proof.Machine.execTermgrid fn handle s
  | .create fn owner grant part image scratch => Sys2Proof.Machine.execCreate fn owner grant part image scratch s
  | .setgrant fn owner grant => Sys2Proof.Machine.execSetgrant fn owner grant s
  | .destroy fn owner => Sys2Proof.Machine.execDestroy fn owner s
  | .attest fn owner nonce => Sys2Proof.Machine.execAttest fn owner nonce s
  | .logread fn => Sys2Proof.Machine.execLogread fn s
  | .fusedSvnRaise fn svn => Sys2Proof.Machine.execFusedSvnRaise fn svn s
  | .nodeAppend stream => Sys2Proof.Machine.execNodeAppend stream s
  | .teamStart handle core => Sys2Proof.Machine.execTeamStart handle core s
  | .collectiveStart part => Sys2Proof.Machine.execCollectiveStart part s
  | .transformNodeStart handle => Sys2Proof.Machine.execTransformNodeStart handle s
  | .copyNode handle => Sys2Proof.Machine.execCopyNode handle s
  | .signalNode handle => Sys2Proof.Machine.execSignalNode handle s
  | .tapeNodeStart handle => Sys2Proof.Machine.execTapeNodeStart handle s
  | .tapePop handle => Sys2Proof.Machine.execTapePop handle s
  | .teamEnd team => Sys2Proof.Machine.execTeamEnd team s
  | .gridRetirement handle => Sys2Proof.Machine.execGridRetirement handle s
  | .nodeCompletion handle => Sys2Proof.Machine.execNodeCompletion handle s
  | .quantumEnd part => Sys2Proof.Machine.execQuantumEnd part s
  | .loadDataReturn team pod tag => Sys2Proof.Machine.execLoadDataReturn team pod tag s
  | .bunchConvergence team hb => Sys2Proof.Machine.execBunchConvergence team hb s
  | .rejoinHoldEnd team pod => Sys2Proof.Machine.execRejoinHoldEnd team pod s
  | .sleepEnd team pod => Sys2Proof.Machine.execSleepEnd team pod s
  | .watchdog team pod => Sys2Proof.Machine.execWatchdog team pod s
  | .bwaitCompletion team pod => Sys2Proof.Machine.execBwaitCompletion team pod s
  | .waitmemCompletion team pod => Sys2Proof.Machine.execWaitmemCompletion team pod s
  | .zwaitCompletion f => Sys2Proof.Machine.execZwaitCompletion f s
  | .matrixCommandStart cmd => Sys2Proof.Machine.execMatrixCommandStart cmd s
  | .matrixCommandCompletion cmd => Sys2Proof.Machine.execMatrixCommandCompletion cmd s
  | .trotRotation cmd => Sys2Proof.Machine.execTrotRotation cmd s
  | .copyCommandStart team ch => Sys2Proof.Machine.execCopyCommandStart team ch s
  | .copyGranuleDelivery team ch => Sys2Proof.Machine.execCopyGranuleDelivery team ch s
  | .ticketUpdateAccept cmd => Sys2Proof.Machine.execTicketUpdateAccept cmd s
  | .ticketGap owner region granule => Sys2Proof.Machine.execTicketGap owner region granule s
  | .transformGranuleWrite eng => Sys2Proof.Machine.execTransformGranuleWrite eng s
  | .transformInputArrival f xfer bytes => Sys2Proof.Machine.execTransformInputArrival f xfer bytes s
  | .transformInputTimeout eng => Sys2Proof.Machine.execTransformInputTimeout eng s
  | .transferAcknowledgement f xfer refusal => Sys2Proof.Machine.execTransferAcknowledgement f xfer refusal s
  | .waitedTransferCompletion f xfer bytes => Sys2Proof.Machine.execWaitedTransferCompletion f xfer bytes s
  | .rmaWriteArrival job sender win off bytes => Sys2Proof.Machine.execRmaWriteArrival job sender win off bytes s
  | .rmaReadArrival job sender win off len => Sys2Proof.Machine.execRmaReadArrival job sender win off len s
  | .remoteArrival job sender win off scope => Sys2Proof.Machine.execRemoteArrival job sender win off scope s
  | .managementReceive port job fea bytes => Sys2Proof.Machine.execManagementReceive port job fea bytes s
  | .managementSendCompletion fn ok => Sys2Proof.Machine.execManagementSendCompletion fn ok s
  | .collectiveTimeout f => Sys2Proof.Machine.execCollectiveTimeout f s
  | .hbmPatrolScrub pa => Sys2Proof.Machine.execHbmPatrolScrub pa s
  | .counterCarry owner kind unit n => Sys2Proof.Machine.execCounterCarry owner kind unit n s
  | .packetRetransmission f => Sys2Proof.Machine.execPacketRetransmission f s
  | .nodeBarrierWaitMet handle => Sys2Proof.Machine.execNodeBarrierWaitMet handle s
  | .postedTransferLocalCompletion f xfer => Sys2Proof.Machine.execPostedTransferLocalCompletion f xfer s

end Sys2Proof.Machine
end

