-- ==== Sys2Proof/Machine/Issue.lean ====
section
/-! DEFINITION. Issue: what surrounds the meaning of an instruction when a pod, a bunch, the sprout or a fabric processor runs it
(R32 to R35, R41, R49, R135, R148, R150, R304). -/

namespace Sys2Proof.Machine

/-- Outstanding results whose destination meets a register group, delivered in order; the others stay outstanding (R148). -/
def Pod.deliverMeeting (p : Pod) (rs : List RegRef) : Pod :=
  let hit (x : Pending) : Bool := rs.any fun r => r.meets x.res.ref
  { (p.pending.filter hit).foldl (fun q x => q.deliver x.res) p with pending := p.pending.filter fun x => !hit x }

/-- R148: whether an engine command holds a scalar that an instruction reads or writes. -/
def Pod.holds (p : Pod) (i : Instr) : Bool := p.held.any fun h => (touches i).any fun r => r.meets (.scalar h.reg 1)

/-- A word issued alone for the focused agent: its checks, the registers it waits for, its meaning, and what its completion leaves.
The note says whether it completed. -/
def issueWord (s : State) (w : W32) (lit : Option W32) : Host.Outcome State Fault Refusal :=
  let s := { s with word := w, note := .none }
  match checkWord s.pod w lit with
  | .error t => .next (takeTrap s t)
  | .ok i =>
    if s.pod.holds i then .next (markWait s .register)
    else
      match exec i (s.mapPod (·.deliverMeeting (touches i))) with
      | .next u => match u.note with
        | .none => .next (retireWord u i w (activeMask s))
        | .trapped x => .next (if x.after then retireWord u i w (activeMask s) else u)
        | .waits _ => .next u
      | r => r

/-! ### Chained pairs (R135) -/

/-- R267: the fault of a TRAP or BRK. -/
def softwareOf (s : State) (i : Instr) : Option Stop :=
  match i with
  | .trap n => some (softwareStop s .softwareTrap n)
  | .brk n => some (softwareStop s .breakpoint n)
  | _ => none

/-- The word and literal in slot k of a packet. -/
def slotWord (ws : List W32) (k : Nat) : W32 × Option W32 := (wordAt ws k, if k < 2 then some (wordAt ws (k + 1)) else none)

/-- One word of a pair carried out. A TRAP or BRK only completes here: its fault is taken when the pair is complete (R267). -/
def runPaired (s : State) (w : W32) (i : Instr) : Host.Outcome State Fault Refusal :=
  let s := { s with word := w, note := .none }
  match (match softwareOf s i with | some _ => .next (s.advance 1) | none => exec i s : Host.Outcome State Fault Refusal) with
  | .next t => match t.note with
    | .none => .next (retireWord t i w (activeMask s))
    | _ => .next t
  | r => r

/-- R135, R237: the pair waits as a unit before its first word, at one of its words: of what its words did, only their arrivals at barrier
instances stay (log 24). -/
def pairWaits (before t : State) (second : Bool) (k : Wait) : State :=
  markWait { before.mapPod (fun p => { p with arrivals := t.pod.arrivals, second := second }) with team := { before.team with bars := t.team.bars } } k

/-- R267: what a pair's TRAP or BRK raises once the pair is complete: the first word's comes first (log 24). -/
def pairSoftware (before t : State) (i j : Instr) : Option (W32 × Stop) :=
  match softwareOf before i, softwareOf (before.advance 1) j with
  | some x, _ => some (before.word, x)
  | none, some y => some (t.word, y)
  | none, none => none

/-- Whether a word is BAR. -/
def isBar (i : Instr) : Bool := match i with | .bar => true | _ => false

/-- R232: whether a pair holds a BAR whose instance is not complete. -/
def barOpen (before : State) (i j : Instr) : Bool := (isBar i || isBar j) && decide (before.team.bars ≤ before.pod.barsDone)

/-- R135: a pair's beginning as its second word reads it. -/
def asSecond (before : State) : State := { before with snap := some ⟨before.pod, before.team, before.ctx⟩ }

/-- R225: the updates of a TKSKIP that stops as a pair's second word, without those of the first word: up to the granule at which it stopped in ran, in
which it ran, and no further (log 24). -/
def secondSkip (before ran : State) (x y : BitVec 5) : SkipOut :=
  if (pairOf ran y.toNat).toNat % 64 != 0 then ⟨asSecond before, skipCount (asSecond before), none⟩
  else skipUpTo (asSecond before) x y (skipUpTo ran x y (skipTotal ran x)).done

/-- R225, R237: a pair whose second word waits; a TKSKIP keeps the granules that it has done. -/
def secondWaits (before ran u : State) (j : Instr) (k : Wait) : State :=
  match j with
  | .tkskip x y =>
    let r := secondSkip before ran x y
    pairWaits { skipTo r.state r.done with snap := none } u true k
  | _ => pairWaits before u true k

/-- R124: what a BARRIVE whose parent's arrival raises leaves: its own object with ARRIVED = EXPECT. -/
def arrivalKept (s : State) (y : BitVec 5) : State :=
  let r := arrive s s.ctx.owner (pairOf s y.toNat).toNat
  match r.token with
  | .error _ => r.state
  | .ok _ => s

/-- R124, R135, R225, R254: the fault of a pair's second word: neither word has any effect, but a TKSKIP keeps the granules that it has done, a
BARRIVE its own object's arrival where the parent's raises, and the partners of a failing TROT leg fault. ran is the state in which the word ran. -/
def secondTraps (before ran : State) (w : W32) (j : Instr) (x : Stop) : State :=
  let stop (s : State) : State := { takePodTrap { s with word := w } x true with note := .trapped x }
  match j with
  | .tkskip a b => stop { skipKept (secondSkip before ran a b) a b with snap := none }
  | .barrive _ y _ _ => stop (arrivalKept before y)
  | .trot a b l =>
    let m := newMatrix ran (.trot a b l) a b 0#5
    if trotFails ran m then trotFailed (stop before) m else stop before
  | _ => stop before

/-- R44, R267: what a pair's TRAP or BRK raises once the pair is complete. A pod that the pair's EXIT has ended stays ended (log 24). -/
def pairTraps (u : State) (x : W32 × Stop) : State :=
  let t := takeTrap { u with snap := none, word := x.1 } x.2
  if u.pod.phase == .ended then { t.mapTeamPod u.team.id u.pod.index (fun p => { p with phase := .ended }) with note := t.note } else t

/-- R135: the two words of a pair whose checks they have passed and whose registers are free. before is the state that both read. A pair with a
BAR goes on only after its instance is complete (R118, R237); a second word that touches the scalar that the first word's command holds issues
when the command is complete (R148, log 24), and the issue counts then, once (R375). -/
def runPair (before : State) (v : W32) (i : Instr) (w : W32) (j : Instr) : Host.Outcome State Fault Refusal :=
  match runPaired before v i with
  | .next t => match t.note with
    | .waits _ => .next t
    | .trapped _ => .next t
    | .none =>
      let ran := { t.mapPod (·.deliverMeeting (regWrites j)) with snap := some ⟨before.pod, before.team, before.ctx⟩ }
      match runPaired ran w j with
      | .next u => match u.note with
        | .trapped x => .next (secondTraps before ran w j x)
        | n =>
          if t.pod.holds j then .next (markWait (t.mapPod fun p => { p with grant := none }) .register)
          else match n with
            | .waits k => .next (secondWaits before ran u j k)
            | _ =>
              if barOpen before i j then .next (pairWaits before u (!isBar i) .bar)
              else match pairSoftware before u i j with
                | some x => .next (pairTraps u x)
                | none => .next { u with snap := none }
      | r => r
  | r => r

/-- R135, R148, R150: a pair of the focused pod: the checks of the first word, its own faults among them, then those of the second, under the
window that the first opens; the registers both wait for; then both words, each of which reads the pair's own beginning (log 23). -/
def issuePair (s : State) (ws : List W32) (k : Nat) : Host.Outcome State Fault Refusal :=
  let s := s.mapPod fun p => { p with second := false }
  let a := slotWord ws k
  let b := slotWord ws (k + 1)
  match checkWord s.pod a.1 a.2 with
  | .error t => .next (takeTrap { s with word := a.1 } t)
  | .ok i =>
    let later := { s.pod.retire i 0#4 with windows := (s.pod.retire i 0#4).windows ++ opensWindows i, parity := s.pod.parity }
    if s.pod.holds i then .next (markWait { s with word := a.1 } .register)
    else match checkWord later b.1 b.2 with
    | .error t => match runPaired (s.mapPod (·.deliverMeeting (touches i))) a.1 i with
      | .next u => match u.note with
        | .trapped _ => .next u
        | _ => .next { takePodTrap { s with word := b.1 } t true with note := .trapped t }
      | r => r
    | .ok j =>
      if s.pod.holds j then .next ((markWait { s with word := a.1 } .register).mapPod fun p => { p with second := true })
      else runPair { s.mapPod (·.deliverMeeting (touches i ++ touches j)) with word := a.1 } a.1 i b.1 j

/-- R150: the focused pod issues its next word, or pair. -/
def issuePod (s : State) : Host.Outcome State Fault Refusal :=
  match fetchPacket s s.pod.pc.toNat with
  | .error t => .next (takeTrap s t)
  | .ok ws =>
    let k := s.pod.slot.toNat
    let w := wordAt ws k
    if chainOf w == 1#1 then
      if chainBad w (if k < 2 then some (wordAt ws (k + 1)) else none) then .next (takeTrap { s with word := w } (Stop.plain .chainForm))
      else issuePair s ws k
    else issueWord s w (slotWord ws k).2

/-- After a pod's issue: what a completed issue leaves on the pod, and the focus closed. -/
def finishPod (k : Nat) (r : Host.Outcome State Fault Refusal) : Host.Outcome State Fault Refusal :=
  match r with
  | .next t =>
    let done : Bool := match t.note with | .none => true | _ => false
    let t := if done then t.mapPod fun p => { p with grant := none, lastIssue := max p.lastIssue k } else t
    .next { closeFocus t with note := t.note, snap := none }
  | r => r

/-- R37, R41: whether a pod may be offered an issue slot; a waiting pod looks again at what it waits for. -/
def canIssue (p : Pod) : Bool :=
  match p.phase with
  | .ready => true
  | .waiting .rejoin _ => false
  | .waiting _ _ => true
  | _ => false

/-- How a pod stands, for R33: pods that stand differently leave their bunch. -/
def standing (p : Pod) : Nat :=
  match p.phase with
  | .ready => 0 | .waiting .rejoin _ => 1 | .waiting _ _ => 2 | .asleep _ => 3 | .suspended _ => 4 | .ended => 5

/-- R32: the bunch of a pod that may issue: the pods of its home bunch with its bunch's number, its key and its standing. -/
def bunchOf (t : Team) (pod : Nat) : List Nat :=
  match t.pods.find? (·.index == pod) with
  | none => []
  | some p =>
    if canIssue p then
      (t.pods.filter fun q => q.index / 16 == p.index / 16 && q.bunch == p.bunch && q.key == p.key && canIssue q).map (·.index)
    else []

/-- R33: the pods of a bunch, after an issue, in bunches that stand alike: the first keeps the bunch's number, and whichever sleeps, faults
or exits stands alone. -/
def regroupPods (first : Option Pod) (ids : Nat) : List Pod → List (Pod × Nat)
  | [] => []
  | p :: ps =>
    match first with
    | none => (p, p.bunch) :: regroupPods (some p) ids ps
    | some f => (p, if p.key == f.key && standing p == standing f && standing p < 3 then f.bunch else ids) :: regroupPods first ids ps

/-- R33: the members of an issue regrouped, round by round; fuel is their number. -/
def regroup (s : State) (team : Nat) : Nat → List Nat → State
  | 0, _ => s
  | n + 1, members =>
    match s.teams.find? (·.id == team) with
    | none => s
    | some t =>
      let out := regroupPods none s.ids (t.pods.filter fun p => members.contains p.index)
      let split := (out.filter fun x => x.2 == s.ids).map (·.1.index)
      if split.isEmpty then s
      else
        let u := s.mapTeam team fun t => { t with pods := t.pods.map fun p => if split.contains p.index then { p with bunch := s.ids } else p }
        regroup { u with ids := s.ids + 1 } team n split

/-- One pod of a team issues, if it still may. -/
def issueMember (s : State) (team pod : Nat) : Host.Outcome State Fault Refusal :=
  match openPod s team pod with
  | none => .next s
  | some t => if canIssue t.pod then finishPod s.tick (issuePod t) else .next s

/-- R355: what a pod raises beside an issue that has ended its grid, when its own issue in that cycle faults too: its site and fault, its active
lanes, and the words that a TRAP or BRK leaves completed. Its grid is over, so that no RESUME can follow (R347). -/
structure Beside where
  site : Site
  stop : Stop
  lanes : Nat
  words : List (W32 × Option W32)
  deriving DecidableEq, Repr

/-- R355: what a pod raises beside an issue that has ended its grid. -/
def faultBeside (s : State) (team pod : Nat) : Option Beside :=
  match openPod s team pod, issueMember { s with note := .none } team pod with
  | some o, .next u => match u.note with
    | .trapped x =>
      let second := match (u.ctxOf o.ctx.owner).records.getLast? with | some r => (wordAt r.words 0).getLsbD 16 | none => false
      some ⟨{ podSite u second with resum := false }, withWord u x, maskCount (activeMask o), if x.after then wordsAt o o.grid o.ctx o.pod else []⟩
    | _ => none
  | _, _ => none

/-- R370, R375: words of a pod counted as issued. -/
def countIssued (s : State) (owner core lanes : Nat) (ws : List (W32 × Option W32)) : State :=
  ws.foldl (fun s w => match decodeCore w.1 w.2 with | .ok i => countWord s owner core lanes i w.1 | .error _ => s) s

/-- R354, R355: the other pods of a bunch whose grid a fault of this issue has ended each report their own fault; PARITY ends the context. -/
def reportBeside (t : State) (out : List Beside) : State :=
  out.foldl (fun t x =>
    let u := postRecord (countIssued t x.site.owner x.site.unit x.lanes x.words) x.site x.stop
    if x.stop.code == .parity then endContext u x.site.owner x.stop.code.number x.stop.code.number else u) t

/-- Whether a team's grid runs. -/
def teamRuns (s : State) (team : Nat) : Bool :=
  match (s.teams.find? (·.id == team)).bind fun t => s.gridOf t.handle with
  | some g => (match g.status with | .running => true | _ => false)
  | none => false

/-- Whether an issue that left a note has completed its words. -/
def Note.complete : Note → Bool
  | .none => true
  | .trapped x => x.after
  | .waits _ => false

/-- The pods of a bunch issue, one after another; done tells whether one of them completed an issue. A fault that ends their grid ends the
issue, and the others report theirs (R355). -/
def issueMembers (s : State) (team : Nat) (done : Bool) : List Nat → Host.Outcome (State × Bool) Fault Refusal
  | [] => .next (s, done)
  | p :: ps =>
    match issueMember { s with note := .none } team p with
    | .next t =>
      if teamRuns s team && !teamRuns t team then
        let out := ps.filterMap (faultBeside s team)
        .next (reportBeside t out, done || t.note.complete || out.any (·.stop.after))
      else issueMembers t team (done || t.note.complete) ps
    | .fault f => .fault f
    | .refused r => .refused r

/-- R232: a pod that waits at a BAR whose instance is complete. -/
def Pod.barMet (p : Pod) (bars : Nat) : Bool := p.barsDone < bars && (match p.phase with | .waiting .bar _ => true | _ => false)

/-- R232, R375: the members of an issue that wait at a BAR whose instance the issue has completed. -/
def barMembers (s : State) (team : Nat) (ms : List Nat) : List Nat :=
  match s.teams.find? (·.id == team) with
  | none => []
  | some t => (t.pods.filter fun p => ms.contains p.index && p.barMet t.bars).map (·.index)

/-- R118, R232: the pods of a team whose pair ends in a BAR and whose instance is complete: the accesses of their first words come before every
access after the instance. -/
def pairBars (s : State) (team : Nat) : List Pod :=
  match s.teams.find? (·.id == team) with
  | none => []
  | some t => match s.gridOf t.handle with
    | none => []
    | some g => t.pods.filter fun p => p.barMet t.bars && (match wordsAt s g (s.ctxOf t.owner) p with
        | [_, b] => (match decodeCore b.1 b.2 with | .ok .bar => true | _ => false)
        | _ => false)

/-- One bunch's issue counted (R375), and its pods regrouped (R33). -/
def endIssue (s : State) (team : Nat) (done : Bool) (ms : List Nat) : State :=
  let u := match s.teams.find? (·.id == team) with
    | some t => if done then countCore s t.owner t.core 0x03 1 else s
    | none => s
  regroup u team ms.length ms

/-- Pods of a team issue, bunch by bunch; fuel is their number. -/
def issueBunches (s : State) (team : Nat) : Nat → List Pod → Host.Outcome State Fault Refusal
  | 0, _ => .next s
  | _, [] => .next s
  | n + 1, p :: ps =>
    let mine (q : Pod) : Bool := q.index / 16 == p.index / 16 && q.bunch == p.bunch
    let ms := p.index :: (ps.filter mine).map (·.index)
    match issueMembers s team false ms with
    | .next (u, done) => issueBunches (endIssue u team done ms) team n (ps.filter fun q => !mine q)
    | .fault f => .fault f
    | .refused r => .refused r

/-- R32, R294: one issue of a bunch: pods of the team's owner issue only while it is resident. The pods whose BAR the issue completes go on
with it, and before them every pod of the team whose pair ends in that BAR. -/
def issueBunch (s : State) (team pod : Nat) : Host.Outcome State Fault Refusal :=
  match s.teams.find? (·.id == team) with
  | none => .next s
  | some t =>
    let ms := bunchOf t pod
    if !isResident s t.owner || ms.isEmpty then .next s
    else
      match issueMembers s team false ms with
      | .next (u, done) =>
        let out := pairBars u team
        match issueMembers u team done ((out.filter fun p => ms.contains p.index).map (·.index)) with
        | .next (u, done) =>
          match issueBunches u team out.length (out.filter fun p => !ms.contains p.index) with
          | .next u =>
            match issueMembers u team done (barMembers u team ms) with
            | .next (u, done) => .next { endIssue u team done ms with note := .none }
            | .fault f => .fault f
            | .refused r => .refused r
          | r => r
        | .fault f => .fault f
        | .refused r => .refused r
      | .fault f => .fault f
      | .refused r => .refused r

/-- R355: the pods named that do not stand in the bunch of one named before them. -/
def bunchHeads (t : Team) : List Nat → List Nat
  | [] => []
  | p :: ps => p :: (bunchHeads t ps).filter fun q => !(bunchOf t p).contains q

/-- R355, R375: a bunch that issues in the cycle in which another has ended its grid, as the state u of before that issue has it: its pods report
their own faults. -/
def besideBunch (u : State) (team : Nat) (t : State) (pod : Nat) : State :=
  match u.teams.find? (·.id == team) with
  | none => t
  | some m =>
    let out := (bunchOf m pod).filterMap (faultBeside u team)
    let t := reportBeside t out
    if out.any (·.stop.after) then countCore t m.owner m.core 0x03 1 else t

/-- R41, R355: bunches of one team that issue in one cycle, each as issueBunch has it; once one has ended the team's grid, the pods of the others
report the faults that they raise in that cycle. -/
def issueHeads (s : State) (team : Nat) : List Nat → Host.Outcome State Fault Refusal
  | [] => .next s
  | p :: ps => match issueBunch s team p with
    | .next t => if teamRuns s team && !teamRuns t team then .next (ps.foldl (besideBunch s team) t) else issueHeads t team ps
    | r => r

/-- R41, R355: one cycle of a team's pods: the bunches of the pods named issue. -/
def issueCycle (s : State) (team : Nat) (pods : List Nat) : Host.Outcome State Fault Refusal :=
  match s.teams.find? (·.id == team) with
  | none => .next s
  | some t => issueHeads s team (bunchHeads t pods)

/-- R49: whether the sprout may issue the words at its place. -/
def sproutWords (s : State) : Bool :=
  (wordsAt s s.grid s.ctx s.pod).all fun w => match decodeCore w.1 w.2 with
    | .ok i => sproutMay i w.1
    | .error _ => true

/-- R48 to R50: the sprout issues; it changes no FLAGS bit, and whatever it may not do or would fault on ends it. -/
def issueSprout (s : State) (team : Nat) : Host.Outcome State Fault Refusal :=
  match openSprout s team with
  | none => .next s
  | some t =>
    if !isResident s t.ctx.owner then .next s
    else
      let stop (u : State) : State :=
        countCore { (u.mapTeam team fun m => { m with sprout := none }) with note := .none, snap := none } t.ctx.owner t.team.core 0x0C 1
      if !sproutWords t then .next (stop s)
      else match issuePod t with
        | .next u => match u.note, u.cur with
          | .none, .sprout _ => .next { closeFocus { u with team := { u.team with flags := t.team.flags } } with note := .none, snap := none }
          | .none, _ => .next (stop (countCore s t.ctx.owner t.team.core 0x0B (wordsAt t t.grid t.ctx t.pod).length))
          | _, _ => .next (stop s)
        | r => r

/-- R296, R330, R331: whether a fabric processor may issue: it runs, or stands at a wait that it looks at again. -/
def fabricMay (s : State) : Bool :=
  let ph : Bool := match s.fp.phase with
    | .ready | .waiting .memory _ | .waiting .tkfence _ => true
    | _ => false
  ph && s.coll.stopped.isEmpty && isResident s s.ctx.owner

/-- R304, R351: a fabric processor fetches, decodes and runs its next word. -/
def issueFabric (s : State) (f : Nat) : Host.Outcome State Fault Refusal :=
  match openFabric s f with
  | none => .next s
  | some t =>
    if !fabricMay t then .next s
    else match fetchZilkan t with
      | .error e => .next { takeTrap t e with note := .none }
      | .ok w =>
        let t := { t with word := w }
        match decodeZilkan w with
        | .error _ => .next { takeTrap t (zilkanStop 0) with note := .none }
        | .ok i => match exec i t with
          | .next u => .next { closeFocus u with note := .none, snap := none }
          | r => r

end Sys2Proof.Machine
end

