-- ==== Sys2Proof/Machine/Turn.lean ====
section
/-! DEFINITION. One turn of the machine: the agent that acts, or the event that happens, and the place where a given word is fetched
next (log 18). -/

namespace Sys2Proof.Machine

/-- Which turn comes when none is listed: the environment's choice, by the step's number; none: time passes (log 19). -/
opaque freeTurn : Nat → Option Turn

/-- R97, R98: a TLB of an owner takes the translation of an address. -/
def fillTlb (s : State) (owner va : Nat) (run : Bool) : State :=
  match tlbEntryFor s (s.ctxOf owner) va run with
  | some e => s.mapCtx owner fun c => { c with tlb := e :: c.tlb }
  | none => s

/-- R105, R377: the events that a TLP from the host brings: its writes and reads of memory and of registers, its commands, a function-level
reset. -/
def Instr.isTlp (i : Instr) : Bool :=
  match i with
  | .functionLevelReset _ | .hostPostedWrite _ _ _ | .hostRead _ _ _ | .registerWrite _ _ _ | .posttailWrite _ _ _ | .cplheadWrite _ _ _ => true
  | .streamEnable _ _ | .fqheadWrite _ _ | .mrheadWrite _ _ | .mstailWrite _ _ | .winload _ _ | .inval _ _ _ | .resume _ _ => true
  | .terminate _ _ | .termgrid _ _ | .create _ _ _ _ _ _ | .setgrant _ _ _ | .destroy _ _ | .attest _ _ _ | .logread _ | .fusedSvnRaise _ _ => true
  | _ => false

/-- R361, R377: whether a created owner's grant reaches host memory. -/
def hostReach (s : State) : Bool := s.owners.any fun c => c.created && c.grant.any fun r => decide (2 ^ 47 < (r.1 + r.2) * 2 ^ 27)

/-- R105: the IDE error of a completion whose MAC fails, where the turn reads host memory: the completion is dropped and reported, and the read is
made again (log 62). -/
def reportCompletion (s : State) (r : Host.Outcome State Fault Refusal) : Host.Outcome State Fault Refusal :=
  match r with
  | .next t => .next (if hostReach s && Config.completionFails s.tick then { t with out := t.out ++ [.ideError] } else t)
  | r => r

/-- R105: an event; a TLP whose IDE MAC fails is dropped, and an IDE error is reported to the PF (log 62). -/
def runEvent (s : State) (i : Instr) : Host.Outcome State Fault Refusal :=
  if !i.isEvent then .next s
  else if Instr.isTlp i then (if Config.macFails s.tick then .next { s with out := s.out ++ [.ideError] } else exec i s)
  else reportCompletion s (exec i s)

/-- One turn: a bunch, the bunches of one cycle, a sprout or a fabric processor issues, a TLB takes an entry, or an event happens. -/
def runTurn (s : State) (t : Turn) : Host.Outcome State Fault Refusal :=
  match t with
  | .pods team pod => reportCompletion s (issueBunch s team pod)
  | .cycle team pods => reportCompletion s (issueCycle s team pods)
  | .sprout team => reportCompletion s (issueSprout s team)
  | .fabric f => reportCompletion s (issueFabric s f)
  | .fill owner va run => reportCompletion s (.next (fillTlb s owner va run))
  | .event i => runEvent s i

/-- The next turn and the list that remains. -/
def nextTurn (s : State) : Option Turn × List Turn :=
  match s.agenda with
  | t :: r => (some t, r)
  | [] => (freeTurn s.tick, [])

/-- One step: the clocks pass, and the next turn is run. -/
def stepOnce (s : State) : Host.Outcome State Fault Refusal :=
  let n := nextTurn s
  let t := passStep { s with agenda := n.2 }
  match n.1 with
  | some x => runTurn t x
  | none => .next t

/-! ### Placing a word (log 18) -/

/-- A table entry of R95 for a table, or a leaf with X, WR and RD, at a physical page. -/
def placedEntry (leaf : Bool) (pfn : Nat) : List Byte := natBytes 8 (if leaf then 3 + 7 * 2 ^ 56 + pfn * 2 ^ 15 else 1 + pfn * 2 ^ 15)

/-- The owner 0 that runs the placed word: created, granted its first 128 MiB, resident, with a page table that maps virtual page 0 to
physical page 3. -/
def placedContext (c : Context) : Context :=
  { c with created := true, key := 1, dead := false, grant := [(0, 1)], part := 0, ptbr := 0#33, tlb := [] }

/-- Page tables and code words in memory. -/
def placedMemory (s : State) (words : List W32) : State :=
  let s := storeAt { s with poison := [] } 1 0 (placedEntry false 1)
  let s := storeAt s 1 0x8000 (placedEntry false 2)
  let s := storeAt s 1 0x10000 (placedEntry true 3)
  storeAt s 1 0x18000 (wordsBytes words)

/-- The owner resident and in focus of nothing. -/
def placedBase (s : State) (words : List W32) : State :=
  let s := (placedMemory s words).mapCtx 0 placedContext
  { s with cur := .none, note := .none, snap := none, resident := s.resident.setIfInBounds 0 (some 0) }

/-- A pod of a team of a grid of owner 0 at packet 0, next in turn. -/
def placePod (s : State) (words : List W32) : State :=
  let s := placedBase s words
  let g : Grid := { Grid.reset with handle := 1#32, teams := 1, started := 1, loaded := true, ws := 8#4, pods := 1, code := s.mem, codeKeys := s.lineKey }
  let t : Team := { Team.reset with id := s.ids, handle := 1#32, size := 1, tileSize := 0x180000, pods := [Pod.reset] }
  { s with grids := [g], teams := [t], ids := s.ids + 1, agenda := [.pods s.ids 0] }

/-- Fabric processor 0 of a collective of owner 0 at address 0, next in turn. -/
def placeFabric (s : State) (words : List W32) : State :=
  let s := placedBase s words
  let c : Collective := { Collective.reset with id := s.ids, nfp := 1, tlim := 1#32, cds := [0x80000000#32, 1#32, 0x00010000#32] }
  { s with colls := [c], ids := s.ids + 1, agenda := [.fabric 0],
           fabric := replaceIf s.fabric (·.index == 0) fun f => { f with coll := some s.ids, cds := c.cds, tlim := c.tlim, pc := 0#51, phase := .ready } }

/-- A word of the opcode table, with the word above it, placed where the next step fetches: read as decodeTableWord reads it, so that a
Zilkan word goes to a fabric processor and any other to a pod. -/
def placeWord (s : State) (w : Nat) : State :=
  let words := [BitVec.ofNat 32 w, BitVec.ofNat 32 (w / 2 ^ 32), 0#32]
  match decodeTableWord 64 w with
  | some i => if i.isZilkan then placeFabric s words else placePod s words
  | none => placePod s words

end Sys2Proof.Machine
end

