-- ==== Sys2Proof/Machine/Step.lean ====
section
/-! DEFINITION. The step of the machine, and the placing of a word for it. -/

namespace Sys2Proof.Machine

/-- One step: time passes, and the next agent acts or the next event happens. -/
def step (s : State) : Host.Outcome State Fault Refusal := stepOnce s

/-- s with a word stored where the next step fetches, and that step due (log 18). -/
def State.withFetchWord (s : State) (_nbits w : Nat) : State := placeWord s w

end Sys2Proof.Machine
end

