-- ==== Sys2Proof/Safety.lean ====
section
/-! DEFINITION. The terms of the claims: a step that goes on, the form of the memory, and what an instruction leaves as it was and what
it gives, said of the state before it and the state after it. -/

namespace Sys2Proof.Machine

/-- A step that goes on. -/
def Goes (s : State) : Prop := ∃ t, step s = .next t

/-- The memory is in its canonical form. -/
def MemoryOk (s : State) : Prop := Memory.wf s.mem = true

/-- Every byte of every byte store reads as it did. -/
def SameMemory (s t : State) : Prop := ∀ a, memRead t.mem a = memRead s.mem a

/-- Every byte outside some places reads as it did for the focused owner (R101, R102). -/
def SameOutside (s t : State) (stored : Nat → Prop) : Prop := ∀ a, ¬stored a → keyedByte t s.ctx.key a = keyedByte s s.ctx.key a

/-- R134: the pod stands n words further; a wait it stood in is over, and none of a TKSKIP's granules is left counted. -/
def Advances (s t : State) (n : Nat) : Prop :=
  t.pod.pc = (if s.pod.slot.toNat + n < 3 then s.pod.pc else s.pod.pc + 1#48) ∧
  t.pod.slot = (if s.pod.slot.toNat + n < 3 then BitVec.ofNat 2 (s.pod.slot.toNat + n) else 0#2) ∧
  t.pod.phase = s.pod.phase.goOn ∧ t.pod.skip = 0

/-- Of the module only the focused pod and the FLAGS of its team differ; of the pod only its registers and where it stands: a wait it
stood in is over. -/
def RegisterFrame (s t : State) : Prop :=
  t = { s with pod := t.pod, team := { s.team with flags := t.team.flags } } ∧
  t.pod = { s.pod with v := t.pod.v, p := t.pod.p, s := t.pod.s, pc := t.pod.pc, slot := t.pod.slot, phase := s.pod.phase.goOn, skip := 0 } ∧
  SameMemory s t

/-- R30: of the registers only n lane registers from d differ, in active lanes. -/
def LaneForm (s t : State) (d n : Nat) : Prop :=
  RegisterFrame s t ∧ t.pod.p = s.pod.p ∧ t.pod.s = s.pod.s ∧ (∀ r, r < d ∨ d + n ≤ r → t.pod.reg r = s.pod.reg r) ∧
  ∀ r l, (activeMask s).getLsbD l = false → t.pod.lane r l = s.pod.lane r l

/-- R30, R140: of the registers only predicate k differs, in active lanes; p7 reads 1 in every lane. -/
def PredForm (s t : State) (k : Nat) : Prop :=
  RegisterFrame s t ∧ t.pod.v = s.pod.v ∧ t.pod.s = s.pod.s ∧ t.pod.pred 7 = 0xF#4 ∧ (∀ j, j ≠ k → t.pod.pred j = s.pod.pred j) ∧
  ∀ j l, (activeMask s).getLsbD l = false → (t.pod.pred j).getLsbD l = (s.pod.pred j).getLsbD l

/-- A pod effect: of the registers only n scalars from d differ, and no FLAGS bit does. -/
def ScalarForm (s t : State) (d n : Nat) : Prop :=
  RegisterFrame s t ∧ t.team.flags = s.team.flags ∧ t.pod.v = s.pod.v ∧ t.pod.p = s.pod.p ∧
  ∀ k, k < d ∨ d + n ≤ k → t.pod.scalar k = s.pod.scalar k

/-- i completes, k words long: every active lane of register d takes its word, and nothing else changes. -/
def LaneWrites (i : Instr) (s : State) (d : BitVec 7) (k : Nat) (word : Nat → W32) : Prop :=
  ∃ t, exec i s = .next t ∧ LaneForm s t d.toNat 1 ∧ t.team.flags = s.team.flags ∧ Advances s t k ∧
    ∀ l, (activeMask s).getLsbD l = true → t.pod.lane d.toNat l = word l

/-- i completes: every active lane of register d takes its word, FLAGS takes every bit that an active lane sets (R64), and nothing else
changes. -/
def LaneFlagWrites (i : Instr) (s : State) (d : BitVec 7) (word flags : Nat → W32) : Prop :=
  ∃ t, exec i s = .next t ∧ LaneForm s t d.toNat 1 ∧ Advances s t 1 ∧
    (∀ l, (activeMask s).getLsbD l = true → t.pod.lane d.toNat l = word l) ∧
    ∀ b, t.team.flags.getLsbD b = true ↔ s.team.flags.getLsbD b = true ∨ ∃ l, (activeMask s).getLsbD l = true ∧ (flags l).getLsbD b = true

/-- i completes: every active lane of predicate d takes its bit, unless d is 7, whose writes are discarded; FLAGS takes every bit that
an active lane sets. -/
def PredWrites (i : Instr) (s : State) (d : BitVec 3) (bit : Nat → Bool) (flags : Nat → W32) : Prop :=
  ∃ t, exec i s = .next t ∧ PredForm s t d.toNat ∧ Advances s t 1 ∧
    (d ≠ 7#3 → ∀ l, (activeMask s).getLsbD l = true → (t.pod.pred d.toNat).getLsbD l = bit l) ∧
    ∀ b, t.team.flags.getLsbD b = true ↔ s.team.flags.getLsbD b = true ∨ ∃ l, (activeMask s).getLsbD l = true ∧ (flags l).getLsbD b = true

/-- R148: register writes that an instruction leaves outstanding: under the active mask, from register d on, with a window of la words
after its own, under a number of their own; no register has changed. -/
def Outstands (s t : State) (d : Nat) (vals : List LaneWord) (la : Nat) : Prop :=
  t.ids = s.ids + 1 ∧ t.pod.pending = s.pod.pending ++ [⟨s.ids, .lanes (activeMask s) d vals⟩] ∧
  t.pod.windows = s.pod.windows ++ [⟨false, d, vals.length, la + 1⟩] ∧ t.pod.v = s.pod.v ∧ t.pod.p = s.pod.p ∧ t.pod.s = s.pod.s

/-- R148: a scalar result of scalar d: written at once with LA = 0; outstanding otherwise, under a number of its own, with a window of la
words after its own. No other register and no FLAGS bit differs. -/
def ScalarResult (s t : State) (d : Nat) (word : W32) (la : Nat) : Prop :=
  t.pod.v = s.pod.v ∧ t.pod.p = s.pod.p ∧ t.team.flags = s.team.flags ∧ (∀ k, k ≠ d → t.pod.scalar k = s.pod.scalar k) ∧
  if la = 0 then t.pod.scalar d = word ∧ t.pod.pending = s.pod.pending ∧ t.pod.windows = s.pod.windows ∧ t.ids = s.ids
  else t.pod.scalar d = s.pod.scalar d ∧ t.pod.pending = s.pod.pending ++ [⟨s.ids, .scalar d word⟩] ∧
    t.pod.windows = s.pod.windows ++ [⟨true, d, 1, la + 1⟩] ∧ t.ids = s.ids + 1

/-- i completes, k words long: scalar d takes its word whatever the active mask, and nothing else changes. -/
def ScalarWrites (i : Instr) (s : State) (d : BitVec 5) (k : Nat) (word : W32) : Prop :=
  ∃ t, exec i s = .next t ∧ ScalarForm s t d.toNat 1 ∧ Advances s t k ∧ t.pod.scalar d.toNat = word

/-- i completes and changes nothing but where the pod stands. -/
def OnlyAdvances (i : Instr) (s : State) : Prop :=
  ∃ t, exec i s = .next t ∧ RegisterFrame s t ∧ t.team.flags = s.team.flags ∧ t.pod.v = s.pod.v ∧ t.pod.p = s.pod.p ∧ t.pod.s = s.pod.s ∧
    Advances s t 1

/-- Of the contexts only that of the focused owner may differ, whose stored copy the focus replaces when it closes. -/
def OthersKept (s t : State) : Prop :=
  t.owners.map (·.owner) = s.owners.map (·.owner) ∧
  t.owners.filter (fun c => c.owner != s.ctx.owner) = s.owners.filter (fun c => c.owner != s.ctx.owner)

/-- R52, R55: a float type of the module. -/
def FTy.known (t : FTy) : Prop := t = tyF32 ∨ t = tyF16 ∨ t = tyBF16 ∨ t = tyE4M3 ∨ t = tyE5M2 ∨ t = tyE3M2 ∨ t = tyE2M3 ∨ t = tyE2M1

/-- R52, R55, R60: the magnitude of code k of a float type, the exponent unbounded above: subnormals below 2^mb, then binades of 2^mb
codes. -/
def FTy.mag (t : FTy) (k : Nat) : ℚ :=
  if k < 2 ^ t.mb then (k : ℚ) * 2 ^ (1 - (t.bias : Int) - t.mb)
  else ((2 ^ t.mb + k % 2 ^ t.mb : Nat) : ℚ) * 2 ^ (((k / 2 ^ t.mb : Nat) : Int) - t.bias - t.mb)

/-- R60: whether a rounding takes the next magnitude U rather than T, for T of mantissa code k and φ = (a - T) / (U - T). -/
def TakesNext (c : RCtx) (neg : Bool) (k : Nat) (φ : ℝ) : Prop :=
  0 < φ ∧ match c.mode with
    | .rtz => False
    | .rdn => neg = true
    | .rup => neg = false
    | .rne => 1 / 2 < φ ∨ (φ = 1 / 2 ∧ k % 2 = 1)
    | .rna => 1 / 2 ≤ φ
    | .sr => (c.x0.toNat : Int) < ⌊φ * 2 ^ 32⌋

/-- R60: m is the one of k and k + 1 that a rounding takes. -/
def RoundsAt (c : RCtx) (neg : Bool) (k : Nat) (φ : ℝ) (m : Nat) : Prop :=
  (TakesNext c neg k φ ∧ m = k + 1) ∨ (¬TakesNext c neg k φ ∧ m = k)

/-- R57: the code of a magnitude past the largest finite one. -/
def FTy.past (t : FTy) (c : RCtx) (neg : Bool) : Nat :=
  let sgn := if neg then t.signAt else 0
  if c.mode = .rtz ∨ (c.mode = .rdn ∧ neg = false) ∨ (c.mode = .rup ∧ neg = true) then sgn + t.top
  else if t = tyE4M3 then (if c.satf8 then sgn + t.top else 0x7F)
  else if t = tyE5M2 then (if c.satf8 then sgn + t.top else sgn + 0x7C)
  else if t = tyF32 then sgn + 0x7F800000 else if t = tyF16 then sgn + 0x7C00 else if t = tyBF16 then sgn + 0x7F80
  else sgn + t.top

/-- R53, R54, R57, R60: r is the code in type t, with its flags, of the real ±a rounded once, a > 0. T is code k, U code k + 1; u × 2^(b - mb)
is a rounded with an exponent range unbounded in both directions, which decides tininess. -/
def RoundsTo (t : FTy) (c : RCtx) (neg : Bool) (a : ℝ) (r : Nat × W32) : Prop :=
  ∀ (k m j u : Nat) (b : Int), (t.mag k : ℝ) ≤ a → a < (t.mag (k + 1) : ℝ) →
    RoundsAt c neg k ((a - (t.mag k : ℝ)) / ((t.mag (k + 1) : ℝ) - (t.mag k : ℝ))) m →
    (2 : ℝ) ^ b ≤ a → a < (2 : ℝ) ^ (b + 1) → (j : ℝ) ≤ a / 2 ^ (b - t.mb) → a / 2 ^ (b - t.mb) < (j : ℝ) + 1 →
    RoundsAt c neg j (a / 2 ^ (b - t.mb) - j) u →
    let sgn := if neg then t.signAt else 0
    let tiny : Prop := (u : ℝ) * 2 ^ (b - t.mb) < 2 ^ (1 - (t.bias : Int))
    let zeroed : Prop := tiny ∧ c.ftz = true ∧ (t = tyF32 ∨ t = tyF16 ∨ t = tyBF16)
    (zeroed → r = (sgn, 12#32)) ∧
    (¬zeroed → t.top < m → r = (t.past c neg, 10#32)) ∧
    (¬zeroed → m ≤ t.top → r.1 = sgn + m ∧ (a = (t.mag k : ℝ) → r.2 = 0#32) ∧ (a ≠ (t.mag k : ℝ) → tiny → r.2 = 12#32) ∧
      (a ≠ (t.mag k : ℝ) → ¬tiny → r.2 = 8#32))

/-- The number of a finite value. -/
def numberOf (neg : Bool) (m : Nat) (e : Int) : ℚ := (if neg then -1 else 1) * ((m : ℚ) * 2 ^ e)

/-- Checks in order, each with the stop of its failure: i takes the stop of the first that fails; where none does, the rest is said. -/
def Checked (i : Instr) (s : State) (l : List (Prop × Stop)) (rest : Prop) : Prop :=
  (∀ n p e, l[n]? = some (p, e) → (∀ q ∈ l.take n, q.1) → ¬p → exec i s = .next (takeTrap s e)) ∧ ((∀ q ∈ l, q.1) → rest)

/-- R86: the bits of an element of a format; 0 for a reserved code. -/
def elementBits (fmt : Nat) : Nat :=
  if fmt ∈ [0x01, 0x02, 0x18, 0x19, 0x1D] then 8 else if fmt ∈ [0x03, 0x04, 0x11, 0x12] then 16 else if fmt ∈ [0x05, 0x06, 0x10] then 32
  else if fmt ∈ [0x07, 0x08] then 64 else if fmt ∈ [0x1A, 0x1B] then 6 else if fmt = 0x1C then 4 else if fmt = 0x20 then 2
  else if fmt = 0x21 then 1 else 0

/-- R86: the MX formats. -/
def isMx (fmt : Nat) : Prop := 0x18 ≤ fmt ∧ fmt ≤ 0x1C

/-- R242, R243: the bytes of an operand of r rows of k elements, its scale area included. -/
def operandSize (r k fmt : Nat) (tr : Bool) : Nat :=
  let n := (r * k * elementBits fmt + 7) / 8
  (if tr then (n + 1023) / 1024 * 1024 else (n + 63) / 64 * 64) + if 0x18 ≤ fmt ∧ fmt ≤ 0x1C then (r * k / 32 + 63) / 64 * 64 else 0

/-- Bits lo to lo + n - 1 of word k of a record. -/
def recordField (d : List W32) (k lo n : Nat) : Nat := (d.getD k 0#32).toNat / 2 ^ lo % 2 ^ n

/-- R85, R86: the reserved fields of a descriptor are 0, and where it is valid its limits hold. -/
def GoodDescriptor (d : List W32) : Prop :=
  let f := recordField d
  let fmt := f 0 0 8
  let blk := f 0 17 3
  let size (k : Nat) : Nat := f (6 + k) 0 32
  let stride (k : Nat) : Nat := f (9 + k) 0 32 + 2 ^ 32 * f 13 (8 * (k - 1)) 8
  let base := f 2 0 32 + 2 ^ 32 * f 3 0 32
  f 0 29 2 = 0 ∧ f 0 8 7 = 0 ∧ f 13 24 8 = 0 ∧
  (f 0 31 1 = 1 → elementBits fmt ≠ 0 ∧ (isMx fmt → blk = 3) ∧ (fmt = 0x20 ∨ fmt = 0x21 → 1 ≤ blk ∧ blk ≤ 5) ∧
    (¬isMx fmt → fmt ≠ 0x20 → fmt ≠ 0x21 → blk = 0) ∧ (∀ k < 4, 1 ≤ size k ∧ (f 0 15 2 < k → size k = 1)) ∧
    size 0 * (size 1 * size 2 * size 3) ≤ 2 ^ 48 ∧ base < 2 ^ 51 ∧ f 4 0 32 + 2 ^ 32 * f 5 0 32 < 2 ^ 51 ∧
    (8 ≤ elementBits fmt → base % (elementBits fmt / 8) = 0 ∧ ∀ k, 1 ≤ k → k ≤ 3 → stride k % (elementBits fmt / 8) = 0))

/-- The number of an F32 code that is finite. -/
def numberF32 (x : Nat) : Option ℚ := match tyF32.decode x with | .num n m e => some (numberOf n m e) | _ => none

/-- R317: y is RoundBF16RNE of the F32 code x that is not negative. -/
def RoundsBf16 (x y : Nat) : Prop :=
  (numberF32 x = none → y = 0x7F80) ∧ (numberF32 x = some 0 → y = 0) ∧
  ∀ a : ℚ, 0 < a → numberF32 x = some a → ∃ f, RoundsTo tyBF16 plainRne false (a : ℝ) (y, f)

/-- R317: y is the scale of a block: of S1 the mean magnitude, summed in index order, and of T2 the largest. -/
def ScaleOf (code : Nat) (es : List Nat) (y : Nat) : Prop :=
  let sum := es.foldl (fun a x => addF tyF32 a (x % 2 ^ 31)) 0
  if code = 1 then
    (numberF32 sum = none → y = 0x7F80) ∧ (numberF32 sum = some 0 → y = 0) ∧
    ∀ a : ℚ, 0 < a → numberF32 sum = some a → ∃ q f, RoundsTo tyF32 plainRne false ((a : ℝ) / es.length) (q, f) ∧ RoundsBf16 q y
  else RoundsBf16 (es.foldl (fun a x => max a (x % 2 ^ 31)) 0) y

/-- R58, R316, R317: the scale, codes and residuals of a block of F32 codes. A Bad block has the scale 0x7FC0, codes 0 and NaN residuals.
A residual that is exactly 0 is +0: its element and its code times the scale are never two zeros of the negative sign (log 61). -/
def Compresses (code : Nat) (draw : Nat → W32) (es : List Nat) (sc : Nat) (cs rs : List Nat) : Prop :=
  let bad : Prop := (∃ x ∈ es, numberF32 x = none) ∨ ScaleOf code es 0x7F80
  (bad → sc = 0x7FC0 ∧ cs = es.map (fun _ => 0) ∧ rs = es.map (fun _ => 0x7FC00000)) ∧
  (¬bad → ScaleOf code es sc ∧ cs.length = es.length ∧ rs.length = es.length ∧
    ∀ i < es.length, ∀ x scale : ℚ, numberF32 (es.getD i 0) = some x → numberF32 (sc * 2 ^ 16) = some scale →
      let sgn := if x < 0 then 3 else 1
      (code = 1 → cs.getD i 0 = if x < 0 then 1 else 0) ∧
      (code ≠ 1 → scale = 0 → cs.getD i 0 = 0) ∧
      (code = 2 → scale ≠ 0 → cs.getD i 0 = if scale / 2 ≤ |x| then sgn else 0) ∧
      (code = 3 → scale ≠ 0 → x = 0 → cs.getD i 0 = 0) ∧
      (code = 3 → scale ≠ 0 → x ≠ 0 → ∃ q f, RoundsTo tyF32 plainRne false ((|x| : ℚ) / scale : ℝ) (q, f) ∧
        cs.getD i 0 = if ((draw i).toNat : Int) < (match numberF32 q with | some z => min ⌊z * 2 ^ 32⌋ (2 ^ 32 - 1) | none => 2 ^ 32 - 1) then sgn else 0) ∧
      let value : ℚ := if code = 1 then (if cs.getD i 0 = 1 then -1 else 1) else if cs.getD i 0 = 3 then -1 else if cs.getD i 0 = 1 then 1 else 0
      let left := x - value * scale
      (left = 0 → rs.getD i 0 = 0) ∧
      (left ≠ 0 → ∃ f, RoundsTo tyF32 plainRne (decide (left < 0)) ((|left| : ℚ) : ℝ) (rs.getD i 0, f)))

/-- R370: no counter of the focused owner counts an event, of cores (kind 0) or slices (kind 1). -/
def Uncounted (s : State) (kind ev : Nat) : Prop := ∀ n, selCounts (selOf (s.ctxOf s.ctx.owner) kind n) ev = false

/-- R57, R206: r is the code in type t, with its flags, of a value converted. -/
def ConvertsTo (t : FTy) (c : RCtx) (v : Val) (r : Nat × W32) : Prop :=
  let ieee : Prop := t = tyF32 ∨ t = tyF16 ∨ t = tyBF16
  let holdsNan : Prop := ieee ∨ t = tyE4M3 ∨ t = tyE5M2
  let sgn (b : Bool) : Nat := if b then t.signAt else 0
  (∀ g, v = .nan g → (holdsNan → r = (t.nan, if g = true then 1#32 else 0#32)) ∧ (¬holdsNan → r = (0, 1#32))) ∧
  (∀ g, v = .inf g →
    (ieee ∨ (t = tyE5M2 ∧ c.satf8 = false) → r = (sgn g + (2 ^ t.eb - 1) * 2 ^ t.mb, 0#32)) ∧
    (t = tyE4M3 ∧ c.satf8 = false → r = (0x7F, 0#32)) ∧
    (¬ieee → ¬(t = tyE5M2 ∧ c.satf8 = false) → ¬(t = tyE4M3 ∧ c.satf8 = false) → r = (sgn g + t.top, 2#32))) ∧
  ∀ g m e, v = .num g m e → (m = 0 → r = (sgn g, 0#32)) ∧ (m ≠ 0 → RoundsTo t c g ((m : ℝ) * (2 : ℝ) ^ e) r)

/-- R60: z is the integer that a mode other than SR rounds x to. -/
def RoundsInt (mode : RMode) (x : ℚ) (z : Int) : Prop :=
  ∀ i k : Nat, (i : ℚ) ≤ |x| → |x| < (i : ℚ) + 1 → RoundsAt ⟨mode, 0#32, false, false⟩ (decide (x < 0)) i ((|x| - i : ℚ) : ℝ) k →
    z = if x < 0 then -(k : Int) else k

/-- The product of two values is an infinity, negative or not. -/
def ProductInf (p : Val × Val) (neg : Bool) : Prop :=
  ∃ a b : Bool, neg = (a != b) ∧ ((p.1 = .inf a ∧ p.2 = .inf b) ∨ (p.1 = .inf a ∧ ∃ m e, m ≠ 0 ∧ p.2 = .num b m e) ∨
    (p.2 = .inf b ∧ ∃ m e, m ≠ 0 ∧ p.1 = .num a m e))

/-- The product of two values is ∞ × 0. -/
def ProductNone (p : Val × Val) : Prop :=
  ∃ a b e, (p.1 = .inf a ∧ p.2 = .num b 0 e) ∨ (p.2 = .inf a ∧ p.1 = .num b 0 e)

/-- The exact product of two finite values, and 0 of others. -/
def productOf (p : Val × Val) : ℚ :=
  match p with
  | (.num a m e, .num b n f) => numberOf a m e * numberOf b n f
  | _ => 0

/-- R70, R71: a K-block of element pairs, MX with two scale codes or without, takes the accumulator's F32 code to r, with its flags. -/
def BlockStep (mx : Bool) (xa xb : Nat) (ps : List (Val × Val)) (acc : Nat) (r : Nat × W32) : Prop :=
  let given : Prop := (mx = true ∧ (xa = 0xFF ∨ xb = 0xFF)) ∨ ∃ p ∈ ps, ∃ g, p.1 = .nan g ∨ p.2 = .nan g
  let inf (b : Bool) : Prop := ∃ p ∈ ps, ProductInf p b
  let made : Prop := (∃ p ∈ ps, ProductNone p) ∨ (inf true ∧ inf false)
  let old := tyF32.decode acc
  let sum : ℚ := (ps.map productOf).sum * if mx then (2 : ℚ) ^ ((xa + xb : Nat) - 254 : Int) else 1
  (given → r = (0x7FC00000, 0#32)) ∧
  (¬given → made → r = (0x7FC00000, 1#32)) ∧
  (¬given → ¬made → (∀ g, old = .nan g → r = (0x7FC00000, 0#32)) ∧
    (∀ b, inf b → (old = .inf b → r = (acc, 0#32)) ∧ (old = .inf (!b) → r = (0x7FC00000, 1#32)) ∧
      (∀ g m e, old = .num g m e → r = (if b then 0xFF800000 else 0x7F800000, 0#32))) ∧
    ((∀ b, ¬inf b) → (∀ g, old = .inf g → r = (acc, 0#32)) ∧ ∀ g m e, old = .num g m e →
      let x := numberOf g m e + sum
      (sum = 0 → r = (acc, 0#32)) ∧ (sum ≠ 0 → x = 0 → r = (0, 0#32)) ∧
      (sum ≠ 0 → x ≠ 0 → ∃ f, RoundsTo tyF32 plainRne (decide (x < 0)) ((|x| : ℚ) : ℝ) (r.1, f) ∧ r.2 = f &&& 2#32)))

/-- R246: r, with its flags, is the last of the accumulators that n K-blocks give, from one, each flag raised by a block. -/
def BlocksGive {α : Type} (n : Nat) (acc : α) (step : Nat → α → α × W32 → Prop) (r : α × W32) : Prop :=
  ∃ (x : Nat → α) (f : Nat → W32), x 0 = acc ∧ (∀ k < n, step k (x k) (x (k + 1), f k)) ∧ r.1 = x n ∧
    ∀ b, r.2.getLsbD b = true ↔ ∃ k < n, (f k).getLsbD b = true

/-- R72: a K-block's exact sum takes an integer accumulator to r, with its flag. -/
def IntegerStep (sat : Bool) (sum acc : Int) (r : Int × W32) : Prop :=
  let t := acc + sum
  let z := max (-(2 ^ 31)) (min t (2 ^ 31 - 1))
  if sat = true then r = (z, if z = t then 0#32 else 16#32)
  else -(2 ^ 31) ≤ r.1 ∧ r.1 < 2 ^ 31 ∧ (r.1 - t) % 2 ^ 32 = 0 ∧ r.2 = 0#32

/-- R251: the scale code, element codes and flags of a block of F32 codes narrowed to an MX type, element j rounding as it is told. -/
def MxBlockOf (t : FTy) (how : Nat → RCtx) (es : List Nat) (r : Nat × List Nat × W32) : Prop :=
  let emax : Int := if t = tyE4M3 then 8 else if t = tyE5M2 then 15 else if t = tyE3M2 then 4 else 2
  ((∃ x ∈ es, numberF32 x = none) → r = (0xFF, es.map (fun _ => 0), 1#32)) ∧
  ((∀ x ∈ es, numberF32 x ≠ none) →
    ((∀ x ∈ es, numberF32 x = some 0) → r.1 = 0) ∧
    (∀ y ∈ es, ∀ (q : ℚ) (e : Int), numberF32 y = some q → (∀ x ∈ es, ∀ z, numberF32 x = some z → |z| ≤ |q|) → (2 : ℚ) ^ e ≤ |q| → |q| < (2 : ℚ) ^ (e + 1) →
      (r.1 : Int) = max 0 (min 254 (e - emax + 127))) ∧
    r.2.1.length = es.length ∧
    ∃ fl : Nat → W32, (∀ j < es.length, ∀ g m e, tyF32.decode (es.getD j 0) = .num g m e →
        ConvertsTo t (how j) (.num g m (e - ((r.1 : Int) - 127))) (r.2.1.getD j 0, fl j)) ∧
      ∀ b, r.2.2.getLsbD b = true ↔ ∃ j < es.length, (fl j).getLsbD b = true)

/-- Only the byte stores differ. -/
def OnlyBytes (s u : State) : Prop := u = { s with mem := u.mem, lineKey := u.lineKey, dirty := u.dirty, poison := u.poison }

/-- n bytes from a virtual address have places of their own that stay theirs whatever those places hold. -/
def Placed (s : State) (d : Context) (va n : Nat) (place : Nat → Nat) : Prop :=
  (∀ i < n, ∀ j < n, place i = place j → i = j) ∧
  ∀ u : State, OnlyBytes s u → (∀ g ∈ u.poison, g ∈ s.poison) →
    (∀ y, (∀ i < n, y ≠ place i) → keyedByte u d.key y = keyedByte s d.key y) → ∀ i < n, translate u d (va + i) accWrite 0 = .ok (place i)

/-- Bytes put at their places, and nothing else done. -/
def Lands (s u : State) (key : Nat) (place : Nat → Nat) (l : List Byte) : Prop :=
  OnlyBytes s u ∧ (∀ i < l.length, keyedByte u key (place i) = l.getD i 0#8) ∧
  ∀ y, (∀ i < l.length, y ≠ place i) → keyedByte u key y = keyedByte s key y

/-- R282, R283, R287, R289, R290, R297, R333: the reserved fields of a node record are 0 and its limits hold. -/
def GoodRecord (w : List W32) : Prop :=
  let f := recordField w
  let wide (k : Nat) : Nat := f k 0 32 + 2 ^ 32 * f (k + 1) 0 32
  let clear (a b : Nat) : Prop := ∀ k, a ≤ k → k ≤ b → f k 0 32 = 0
  let dst := f 23 28 2
  f 0 6 17 = 0 ∧ f 1 3 29 = 0 ∧ f 7 0 32 = 0 ∧ (∀ k ∈ [8, 10, 12, 14, 16, 18], wide k / 2 ^ 39 ≠ 0 → wide k % 2 ^ 39 + wide k / 2 ^ 39 ≤ 2 ^ 39) ∧
  f 0 28 4 ≤ 5 ∧
  (f 0 28 4 = 0 → wide 20 % 32 = 0 ∧ wide 22 % 64 = 0 ∧ f 24 24 7 = 0 ∧ f 24 0 24 ≠ 0 ∧ (f 24 31 1 = 1 → f 24 0 24 % 4 = 0) ∧ f 25 8 24 = 0 ∧
    1 ≤ f 25 0 3 ∧ f 25 0 3 ≤ 6 ∧ f 25 3 3 = 0 ∧ wide 26 % 64 = 0 ∧ f 28 0 32 % 64 = 0 ∧ 64 ≤ f 28 0 32 ∧ f 28 0 32 ≤ 2 ^ 20 ∧ clear 29 31) ∧
  (f 0 28 4 = 1 → f 22 0 32 ≠ 0 ∧ f 23 30 2 ≠ 3 ∧ dst ≠ 3 ∧ (dst = 0 → f 23 23 2 = 0) ∧ f 23 0 23 = 0 ∧ (dst ≠ 0 → clear 24 25) ∧ f 25 24 8 = 0 ∧
    (dst ≠ 2 → f 27 0 32 = 0) ∧ f 26 0 6 = 0 ∧ f 28 24 8 = 0 ∧ f 28 0 24 ≠ 0 ∧ (f 23 27 1 = 1 ↔ f 29 0 32 ≠ 0) ∧ clear 30 31) ∧
  (f 0 28 4 = 2 → wide 20 % 4 = 0 ∧ wide 22 % 64 = 0 ∧ wide 24 % 64 = 0 ∧ f 26 8 24 = 0 ∧ f 26 5 3 = 0 ∧ 1 ≤ f 26 0 5 ∧ f 26 0 5 ≤ 16 ∧
    f 27 0 32 ≠ 0 ∧ clear 28 31) ∧
  (f 0 28 4 = 3 → wide 20 % 64 = 0 ∧ wide 22 % 64 = 0 ∧ wide 24 % 64 = 0 ∧ 64 ≤ wide 24 ∧ wide 24 ≤ 2 ^ 40 ∧
    (wide 20 + wide 24 ≤ wide 22 ∨ wide 22 + wide 24 ≤ wide 20) ∧ clear 26 31) ∧
  (f 0 28 4 = 4 → f 22 0 32 ≤ 2 ∧ (f 22 0 32 = 0 → wide 20 % 4 = 0) ∧ (f 22 0 32 = 1 → wide 20 % 64 = 0) ∧ clear 24 31) ∧
  (f 0 28 4 = 5 → f 20 0 32 ≤ 4096 ∧ clear 21 31)

/-- R282: a record waits on a node's handle. -/
def WaitsOn (w : List W32) (h : W32) : Prop :=
  (recordField w 1 0 1 = 1 ∧ h = w.getD 2 0#32) ∨ (recordField w 1 1 1 = 1 ∧ h = w.getD 3 0#32)

/-- R283: regions of two records, by the words where they stand, that share a page. -/
def RegionsMeet (a b : List W32) (j k : Nat) : Prop :=
  let first (w : List W32) (k : Nat) : Nat := (recordField w k 0 32 + 2 ^ 32 * recordField w (k + 1) 0 32) % 2 ^ 39
  let count (w : List W32) (k : Nat) : Nat := (recordField w k 0 32 + 2 ^ 32 * recordField w (k + 1) 0 32) / 2 ^ 39
  ∃ p, first a j ≤ p ∧ p < first a j + count a j ∧ first b k ≤ p ∧ p < first b k + count b k

end Sys2Proof.Machine
end

