-- ==== Sys2Proof/Certificates/Slice0/Obligations.lean ====
section
/-! DEFINITION. The statements about the model: encodings, invariants of every step, what reset leaves, and what each instruction and each
event does. -/

open Sys2Proof Sys2Proof.Machine

/-- For every well-formed core instruction, every chain bit and every following word where it carries no literal (its literal where it does), the decoder reads the encoded word as that instruction; for every well-formed Zilkan instruction the Zilkan decoder reads its encoded word as it. (R133, R135, R137, R141, R142, R143, R144, R145, R146, R147, R302, R303) -/
def Obligations.DecodeEncode : Prop :=
  (∀ (i : Instr) (c : BitVec 1) (lit : Option W32), i.wf = true → i.isEvent = false → i.isZilkan = false → (literalOf i = none ∨ lit = literalOf i) →
     decodeCore (encode c i) lit = .ok i ∧ chainOf (encode c i) = c) ∧
  (∀ (i : Instr) (c : BitVec 1), i.wf = true → i.isZilkan = true → decodeZilkan (encode c i) = .ok i)

/-- When the core decoder reads a word, with some following word, as an instruction, the instruction is well formed, the word is the instruction's encoding under the word's own chain bit, and where it carries a literal the following word is that literal; the all-zero word is no instruction. (R133, R135, R137, R141, R142, R143, R144, R145, R146, R147, R150) -/
def Obligations.CoreWordsAreWhole : Prop :=
  (∀ (w : W32) (lit : Option W32) (i : Instr), decodeCore w lit = .ok i →
     i.wf = true ∧ encode (chainOf w) i = w ∧ (literalOf i = none ∨ lit = literalOf i)) ∧
  (∀ lit, decodeCore 0#32 lit = .error .illegalOpcode) ∧ decodeZilkan 0#32 = .error .zilkanDecode

/-- One word of each format, written out from the spec's encodings, decodes to its instruction: an integer addition, a compare, a branch, a call, a stack store, a rotation command, a scalar shift, an addition of an immediate with its chain bit set, a literal move, and two Zilkan words; a word of an unused opcode and a word with a reserved bit set are refused by name. (R141, R142, R144, R145, R146, R147, R302) -/
def Obligations.DecodeExamples : Prop :=
  decodeCore 0x10018307#32 none = .ok (.iadd 0#2 6#7 6#7 7#7) ∧
  decodeCore 0x18804188#32 none = .ok (.icmp 4#3 1#3 3#7 8#7) ∧
  decodeCore 0x012FFFFE#32 none = .ok (.bra 1#3 1#2 0x7FFFE#19) ∧
  decodeCore 0x02000040#32 none = .ok (.call 0#3 0#2 64#19) ∧
  decodeCore 0x6BE23E04#32 none = .ok (.stk 0x3FC#10 8#7 4#3) ∧
  decodeCore 0x75063800#32 none = .ok (.trot 6#5 7#5 0#4) ∧
  decodeCore 0x2B020006#32 none = .ok (.sshl 2#5 0#5 0#2 6#5) ∧
  decodeCore 0x92004081#32 none = .ok (.iaddi 1#10 1#7 1#7) ∧ chainOf 0x92004081#32 = 1#1 ∧
  decodeCore 0x24010000#32 (some 0xDEADBEEF#32) = .ok (.movl 4#7 0xDEADBEEF#32) ∧ decodeCore 0x24010000#32 none = .error .reservedField ∧
  decodeZilkan 0x10904002#32 = .ok (.zadd 1#4 2#4 0#4 1#1 2#14) ∧
  decodeZilkan 0xC0000000#32 = .ok .zhalt ∧
  decodeCore 0x0D000000#32 none = .error .illegalOpcode ∧ decodeCore 0x10818307#32 none = .error .reservedField

/-- A step passes its clocks and then takes the next turn. Where that is the turn of a bunch, its pods issue one after another: each that may issue is opened, issues, and its state goes back to its team; then the issue is counted at its core once when a pod has completed it, and the pods are grouped again. A pod's issue: where its packet can be fetched, its word is not chained and passes its checks as instruction i, and no engine command holds its scalars, the results that i touches are delivered, i is executed, and when i completes its windows and counters advance. A packet that cannot be fetched, a chain bit that R135 forbids, and a word that fails a check raise their trap: the checks are that the word is an instruction and no pool marker, then that its registers lie in the pod's window, then that no open window holds one, then that no register it reads has lost its parity. Of a chained pair that holds no TRAP or BRK (R267), the first word's checks and its own faults come first and then the second's, under the windows that the first opens; a failing word raises its trap with nothing done (of a second word that is none of TKSKIP, TROT and BARRIVE). Where both pass, both words read the state in which the pair began: the second is executed on what the first leaves, with the pair's own beginning as its source; it issues later where it touches the scalar that the first's command holds (R148); of a pair with BAR, the case is that its instance is complete. Where it is a sprout's turn, its word, or pair, issues in the same way: it goes on where it completes, and ends silently, counted, where R49 does not let it run the word, where the word would fault or wait, and at EXIT. Where it is the turn of a fabric processor that may issue and its word is read as i, i is executed and the processor's state goes back. Where it is an event's turn, the event happens, but for a TLP whose IDE MAC fails, which is dropped and reported (R105). Bunches whose turn is one cycle issue in order, and where the first ends the grid those of the other report their faults (R355). The turns listed come in order; with none listed the free choice of log 19 gives the turn, or only time passes. (Model's choices: that results are delivered to the word that touches them at its issue, log 22; that the first word's checks all come before the second's, log 23; where a pair's faults and waits leave it, log 24; the snapshot, log 21; which TLPs fail their MAC, and that a failed completion is reported and its read made again, log 62.) (R32, R33, R48, R49, R105, R134, R135, R138, R148, R150, R304, R355) -/
def Obligations.StepRunsDecoded : Prop :=
  ∀ (s : State) (rest : List Turn),
    let p := passStep { s with agenda := rest }
    let told (t : State) : State := if Config.completionFails p.tick = true ∧ hostReach p = true then { t with out := t.out ++ [.ideError] } else t
    (∀ (id k : Nat) (m : Team) (vs : List State), nextTurn s = (some (.pods id k), rest) → p.teams.find? (·.id == id) = some m → isResident p m.owner = true →
      let ms := bunchOf m k
      ms ≠ [] → vs.length = ms.length + 1 → vs[0]? = some p →
      (∀ j < ms.length, ∃ f v w, vs[j]? = some v ∧ vs[j + 1]? = some w ∧ openPod { v with note := .none } id (ms.getD j 0) = some f ∧ canIssue f.pod = true ∧
        finishPod v.tick (issuePod f) = .next w ∧ (j + 1 < ms.length → teamRuns w id = true)) →
      ∀ v m', vs[ms.length]? = some v → v.teams.find? (·.id == id) = some m' → barMembers v id ms = [] → pairBars v id = [] →
        step s = .next (told { regroup (if (vs.drop 1).any (fun v => v.note.complete) then countCore v m'.owner m'.core 0x03 1 else v) id ms.length ms with note := .none })) ∧
    (∀ (n : Nat) (u : State), finishPod n (.next u) = .next (
      let v := if u.note = .none then u.mapPod (fun q => { q with grant := none, lastIssue := max q.lastIssue n }) else u
      { closeFocus v with note := u.note, snap := none })) ∧
    (∀ f : State, f.note = .none → f.snap = none →
      let does (t : State) : Prop := issuePod f = .next t
      (∀ e, fetchPacket f f.pod.pc.toNat = .error e → does (takeTrap f e)) ∧
      ∀ ws, fetchPacket f f.pod.pc.toNat = .ok ws →
        let n := f.pod.slot.toNat
        let w := wordAt ws n
        let lit := if n < 2 then some (wordAt ws (n + 1)) else none
        let fails (e : Trap) : Prop := does (takeTrap { f with word := w } (Stop.plain e))
        let inWindow (q : Pod) (i : Instr) : Prop := (touches i).all (fun r => r.fits q.window) = true
        let shut (q : Pod) (i : Instr) : Prop := (q.windows.any fun x => x.left != 0 && (touches i).any fun r => r.meets x.ref) = true
        let broken (q : Pod) (i : Instr) : Prop := (parityReads i q.active).any q.parity.contains = true
        (chainOf w = 0#1 →
          (∀ i, decodeCore w lit = .ok i → sproutWords f = sproutMay i w) ∧
          (decodeCore w lit = .error .illegalOpcode → fails .illegalOpcode) ∧ (decodeCore w lit = .error .reservedField → fails .reservedField) ∧
          (∀ n, decodeCore w lit = .ok (.poolMarker n) → fails .poolExecution) ∧
          ∀ i, decodeCore w lit = .ok i → (∀ n, i ≠ .poolMarker n) →
            (¬inWindow f.pod i → fails .reservedField) ∧ (inWindow f.pod i → shut f.pod i → fails .lookahead) ∧
            (inWindow f.pod i → ¬shut f.pod i → broken f.pod i → fails .parity) ∧
            (inWindow f.pod i → ¬shut f.pod i → ¬broken f.pod i → f.pod.holds i = false → ∀ u,
              exec i { f with word := w, note := .none, pod := f.pod.deliverMeeting (touches i) } = .next u → u.note = .none →
              does (retireWord u i w (activeMask f)))) ∧
        (chainOf w = 1#1 → chainBad w lit = true → fails .chainForm) ∧
        (chainOf w = 1#1 → chainBad w lit = false →
          let w2 := wordAt ws (n + 1)
          let lit2 := if n + 1 < 2 then some (wordAt ws (n + 1 + 1)) else none
          let g : State := { f with word := w, note := .none, pod := { f.pod with second := false } }
          (∀ e, checkWord g.pod w lit = .error e → does (takeTrap g e)) ∧
          ∀ i, checkWord g.pod w lit = .ok i → g.pod.holds i = false → (∀ x, i ≠ .trap x ∧ i ≠ .brk x) →
            let later := { g.pod.retire i 0#4 with windows := (g.pod.retire i 0#4).windows ++ opensWindows i, parity := g.pod.parity }
            (∀ e, checkWord later w2 lit2 = .error e →
              let alone : State := { g with pod := g.pod.deliverMeeting (touches i) }
              (∀ t x, exec i alone = .next t → t.note = .trapped x → does t) ∧
              (∀ t, exec i alone = .next t → (∀ x, t.note ≠ .trapped x) → does { takePodTrap { g with word := w2 } e true with note := .trapped e })) ∧
            ∀ j, checkWord later w2 lit2 = .ok j → g.pod.holds j = false → (∀ x, j ≠ .trap x ∧ j ≠ .brk x) →
              let before : State := { g with pod := g.pod.deliverMeeting (touches i ++ touches j) }
              (∀ t x, exec i before = .next t → t.note = .trapped x → does t) ∧
              ∀ t, exec i before = .next t → t.note = .none →
                let left := retireWord t i w (activeMask before)
                let second : State := { left with pod := left.pod.deliverMeeting (regWrites j), snap := some ⟨before.pod, before.team, before.ctx⟩, word := w2, note := .none }
                srcPod second = before.pod ∧ srcTeam second = before.team ∧ srcCtx second = before.ctx ∧
                (∀ u x, exec j second = .next u → u.note = .trapped x → (∀ a b c d, j ≠ .tkskip a b ∧ j ≠ .trot a b c ∧ j ≠ .barrive d a b c) →
                  does { takePodTrap { before with word := w2 } x true with note := .trapped x }) ∧
                ∀ u, exec j second = .next u → u.note = .none →
                  (left.pod.holds j = true → does (markWait { left with pod := { left.pod with grant := none } } .register)) ∧
                  (left.pod.holds j = false → barOpen before i j = false → does { retireWord u j w2 (activeMask second) with snap := none }))) ∧
    (∀ (id : Nat) (f : State), nextTurn s = (some (.sprout id), rest) → openSprout p id = some f → isResident p f.ctx.owner = true →
      let gone (u : State) : State := countCore { (u.mapTeam id fun m => { m with sprout := none }) with note := .none, snap := none } f.ctx.owner f.team.core 0x0C 1
      (sproutWords f = false → step s = .next (told (gone p))) ∧
      ∀ u, sproutWords f = true → issuePod f = .next u →
        (u.note ≠ .none → step s = .next (told (gone p))) ∧
        (u.note = .none → u.cur = .sprout id → step s = .next (told { closeFocus { u with team := { u.team with flags := f.team.flags } } with note := .none, snap := none })) ∧
        (u.note = .none → (∀ k, u.cur ≠ .sprout k) → step s = .next (told (gone (countCore p f.ctx.owner f.team.core 0x0B (wordsAt f f.grid f.ctx f.pod).length))))) ∧
    (∀ (n : Nat) (f u : State) (w : W32) (i : Instr), nextTurn s = (some (.fabric n), rest) → openFabric p n = some f → fabricMay f = true → fetchZilkan f = .ok w →
      (decodeZilkan w = .ok i → exec i { f with word := w } = .next u → step s = .next (told { closeFocus u with note := .none, snap := none })) ∧
      (decodeZilkan w = .error .zilkanDecode → step s = .next (told { takeTrap { f with word := w } (zilkanStop 0) with note := .none }))) ∧
    (∀ i, nextTurn s = (some (.event i), rest) → i.isEvent = true →
      (Sys2Proof.Machine.Instr.isTlp i = true → Config.macFails p.tick = false → step s = exec i p) ∧
      (Sys2Proof.Machine.Instr.isTlp i = true → Config.macFails p.tick = true → step s = .next { p with out := p.out ++ [.ideError] }) ∧
      (Sys2Proof.Machine.Instr.isTlp i = false → ∀ t, exec i p = .next t → step s = .next (told t))) ∧
    (∀ (id k l : Nat) (m : Team) (t : State), p.teams.find? (·.id == id) = some m → runTurn p (.cycle id [k]) = runTurn p (.pods id k) ∧
      (nextTurn s = (some (.cycle id [k, l]), rest) → l ∉ bunchOf m k → issueBunch p id k = .next t →
        (teamRuns t id = true → ∀ u, issueBunch t id l = .next u → step s = .next (told u)) ∧
        (teamRuns p id = true → teamRuns t id = false → step s = .next (told (besideBunch p id t l))))) ∧
    (s.agenda = [] → step s = match freeTurn s.tick with | some x => runTurn (passStep s) x | none => .next (passStep s)) ∧
    (∀ x, s.agenda = x :: rest → nextTurn s = (some x, rest))

/-- Whatever the state, and whichever agent or event has the turn: when the memory is in canonical form (addresses strictly rising, no listed byte that an unlisted address would read as) and a step goes on, the memory is in canonical form after it. (R10, R96, R101, R106, R130, R385) -/
def Obligations.StepKeepsMemoryForm : Prop :=
  ∀ (s t : State), MemoryOk s → step s = .next t → MemoryOk t

/-- After reset no team, grid, command, collective or transform exists, every stream is without owner and disabled, no context is resident or created, the fabric processors are idle, Hernus has not booted, the link is down, the module is one partition with quanta of 10 ms and a power cap of 3,600, every counter and select register is 0, and every owner's LSCTL and TKCTL stand at their reset values. The memory is in canonical form. (Model's choices: unlisted memory reads 0, log 4; the clock's start at 700 MHz, log 1.) (R11, R16, R62, R271, R280, R294, R295, R296, R363, R364, R378, R385) -/
def Obligations.ResetState : Prop :=
  let s := State.reset
  MemoryOk s ∧ (∀ a, memRead s.mem a = 0#8) ∧ s.poison = [] ∧ s.dirty = [] ∧ s.teams = [] ∧ s.grids = [] ∧ s.mats = [] ∧ s.colls = [] ∧ s.parked = [] ∧ (∀ x ∈ s.xforms.toList, x = none) ∧
  (∀ st ∈ s.streams.toList, st.owner = 0x3F#6 ∧ st.enable = false ∧ st.nodes = []) ∧ (∀ o ∈ s.resident.toList, o = none) ∧ (∀ q ∈ s.quantum.toList, q = 10) ∧
  s.parts = 1 ∧ s.pwrcap = 3600 ∧ s.vfs = 0 ∧ s.freq = 700 ∧ s.linkUp = false ∧ s.hernus.bootstat = 0#32 ∧ s.hernus.log = [] ∧ s.hernus.mr = List.replicate 64 0#8 ∧
  (s.owners.map (·.owner) = List.range 33) ∧
  (∀ c ∈ s.owners, c.created = false ∧ c.lsctl = 0x07D01800#32 ∧ c.tkctl = 0x18#32 ∧ c.lscale = 0#32 ∧ (∀ w ∈ c.cntsel.toList, w = 0#32) ∧ c.cnt = [] ∧
    (∀ w ∈ c.slsel.toList, w = 0#32) ∧ c.slcnt = [] ∧ (∀ r ∈ c.regions.toList, r = none) ∧ c.entries = [] ∧ c.tlb = [] ∧ c.group = [] ∧ c.windows = []) ∧
  (s.fabric.map (·.index) = List.range 16) ∧ (∀ f ∈ s.fabric, f.coll = none ∧ f.transfers = []) ∧
  (∀ w ∈ s.fpsel.toList, w = 0#32) ∧ (∀ n ∈ s.fpcnt.toList, n = 0#48) ∧ (∀ w ∈ s.errSlice.toList, w = 0#32) ∧ (∀ w ∈ s.errStack.toList, w = 0#32)

/-- A pod of a running grid that takes a fault, other than PARITY, posts one record to its owner: the record takes the owner's next SEQ and is kept; while the queue has a free entry and nothing is held, its 16 words stand in the entry at the tail, the tail advances and vector 0 is sent; otherwise it is held and nothing is written. With SUSP the pod is suspended by that record and nothing else of its team changes; without SUSP its grid ends with the fault's code and every pod of it is ended. PARITY ends the context. The 16 words of the record are those of R347: code, whether it can be resumed, cause, number, node, grid, team, core and pod, place, and the fault's own fields. A fabric processor's fault posts its record too, with the low 48 bits of its address (log 29), suspends its collective with SUSP and ends it without. (Model's choices: that the queue's base is a virtual address of the owner, log 28; the low 48 bits, log 29.) (R45, R330, R346, R347, R348, R349, R351, R352, R353, R354) -/
def Obligations.FaultTaken : Prop :=
  ∀ (s t : State) (x : Stop) (id i f : Nat),
    let u := takeTrap s x
    let seq := s.ctx.seq
    let one (g : Context → Prop) : Prop := ∀ c ∈ u.owners, c.owner = s.ctx.owner → g c
    (s.cur = .pod id i → s.grid.status = .running → x.code ≠ .parity →
      let words := recordWords (podSite s false) (withWord s x) false 0 seq
      let info0 : W32 := if x.code = .illegalOpcode ∨ x.code = .reservedField ∨ x.code = .chainForm ∨ x.code = .lookahead ∨ x.code = .poolExecution ∨
        x.code = .zilkanDecode then s.word else x.info0
      let resum : BitVec 1 := if s.grid.susp = true then 1#1 else 0#1
      let p : Pod := { s.pod with grant := none, phase := if s.grid.susp = true then .suspended seq else s.pod.phase }
      u.note = .trapped x ∧ u.cur = .none ∧
      (x.cause < 16 → s.team.core < 1024 → s.pod.index < 256 → words =
        [BitVec.ofNat 8 x.code.number ++ 0#1 ++ resum ++ 0#3 ++ 0#2 ++ 0#1 ++ BitVec.ofNat 4 x.cause ++ 0#12, BitVec.ofNat 32 seq, s.grid.node, s.grid.handle,
         0#8 ++ BitVec.ofNat 24 s.team.number, 0#10 ++ BitVec.ofNat 10 s.team.core ++ 0#4 ++ BitVec.ofNat 8 s.pod.index,
         s.pod.pc.extractLsb' 0 32, 0#14 ++ s.pod.slot ++ s.pod.pc.extractLsb' 32 16,
         x.addr.extractLsb' 0 32, x.addr.extractLsb' 32 32, info0, x.info1, x.info2, x.info3, 0#32, 0#32]) ∧
      (∃ r : Record, r.words = words ∧ r.seq = seq ∧ r.code = x.code ∧ r.resum = s.grid.susp ∧ r.handle = s.grid.handle ∧ r.agent = .pod s.team.id s.pod.index ∧ r.answered = false ∧
        one (fun c => c.seq = seq + 1 ∧ c.records = s.ctx.records ++ [r]) ∧
        (s.ctx.fq.full = true ∨ s.ctx.held ≠ [] → one (fun c => c.held = s.ctx.held ++ [r] ∧ c.fq = s.ctx.fq) ∧ u.mem = s.mem ∧ u.out = s.out) ∧
        (s.ctx.fq.full = false → s.ctx.held = [] →
          let c1 : Context := { s.ctx with seq := seq + 1, records := s.ctx.records ++ [r] }
          let s1 : State := { s with pod := p, ctx := c1, owners := replaceIf s.owners (·.owner == s.ctx.owner) fun c => { c with seq := c.seq + 1, records := c.records ++ [r] } }
          engineWrite s1 c1 (s.ctx.fq.entryAt s.ctx.fq.tail 64) (wordsBytes words) = .ok t →
          one (fun c => c.held = [] ∧ c.fq = { s.ctx.fq with tail := s.ctx.fq.tail + 1#32 }) ∧ u.mem = t.mem ∧ u.out = s.out ++ [.msix s.ctx.owner 0])) ∧
      (s.grid.susp = true → u.grids = replaceIf s.grids (·.handle == s.grid.handle) (fun _ => s.grid) ∧
        u.teams = replaceIf s.teams (·.id == id) fun _ => { s.team with pods := replaceIf s.team.pods (·.index == i) fun _ => p }) ∧
      (s.grid.susp = false → (∀ g ∈ u.grids, g.handle = s.grid.handle → g.status = .ending x.code.number (BitVec.ofNat 32 x.code.number)) ∧
        ∀ m ∈ u.teams, m.handle = s.grid.handle → ∀ q ∈ m.pods, q.phase = .ended)) ∧
    (s.cur = .pod id i → x.code = .parity → one fun c => c.dead = true) ∧
    (s.cur = .fabric f → x.cause < 16 → s.fp.index < 1024 → ∃ r : Record,
      r.words = [BitVec.ofNat 8 x.code.number ++ 0#1 ++ (if s.coll.susp = true then 1#1 else 0#1) ++ 4#3 ++ 0#2 ++ 0#1 ++ BitVec.ofNat 4 x.cause ++ 0#12, BitVec.ofNat 32 seq,
        s.coll.node, 0#32, 0#32, 0#10 ++ BitVec.ofNat 10 s.fp.index ++ 0#12, s.fp.pc.extractLsb' 0 32, 0#16 ++ s.fp.pc.extractLsb' 32 16,
        x.addr.extractLsb' 0 32, x.addr.extractLsb' 32 32, (withWord s x).info0, x.info1, x.info2, x.info3, 0#32, 0#32] ∧
      r.seq = seq ∧ r.code = x.code ∧ r.resum = s.coll.susp ∧ r.agent = .fabric s.fp.index ∧ one fun c => c.seq = seq + 1 ∧ c.records = s.ctx.records ++ [r]) ∧
    (s.cur = .fabric f → s.coll.susp = true → (∀ c ∈ u.colls, c.id = s.coll.id → c.stopped = s.coll.stopped ++ [seq]) ∧ ∀ g ∈ u.fabric, g.index = f → g.phase = .suspended seq) ∧
    (s.cur = .fabric f → s.coll.susp = false → ∀ c ∈ u.colls, c.id ≠ s.coll.id)

/-- For every state and operands IADD, ISUB, IMUL and IMAD complete: each active lane takes the exact result wrapped, or clamped to I32 or N32 under F[1], FLAGS.ISAT is set when some active lane's exact result lies outside the range it was clamped to, and nothing else but the pod's place changes. (R166, R30, R64, R134) -/
def Obligations.IntegerArithmetic : Prop :=
  ∀ (f : BitVec 2) (d a b : BitVec 7) (s : State),
    let val (w : W32) : Int := if f.getLsbD 0 then (w.toNat : Int) else w.toInt
    let lo : Int := if f.getLsbD 0 then 0 else -2147483648
    let hi : Int := if f.getLsbD 0 then 4294967295 else 2147483647
    let word (e : Int) : W32 := BitVec.ofInt 32 (if f.getLsbD 1 then max lo (min e hi) else e)
    let isat (e : Int) : W32 := if f.getLsbD 1 ∧ (e < lo ∨ hi < e) then 16#32 else 0#32
    let x (l : Nat) := val (src s a l)
    let y (l : Nat) := val (src s b l)
    LaneFlagWrites (.iadd f d a b) s d (fun l => word (x l + y l)) (fun l => isat (x l + y l)) ∧
    LaneFlagWrites (.isub f d a b) s d (fun l => word (x l - y l)) (fun l => isat (x l - y l)) ∧
    LaneFlagWrites (.imul f d a b) s d (fun l => word (x l * y l)) (fun l => isat (x l * y l)) ∧
    LaneFlagWrites (.imad f d a b) s d (fun l => word (x l * y l + val (src s d l))) (fun l => isat (x l * y l + val (src s d l)))

/-- A word of OP 0x12 in format B is IADDI, with its immediate in bits [23:21] and [6:0]. For every state and operands IADDI completes: each active lane of D takes the sum of the value of A and the sign-extended 10-bit immediate, wrapped to 32 bits; FLAGS and everything else but the pod's place are unchanged. (R167) -/
def Obligations.IntegerImmediateAdd : Prop :=
  ∀ (c : BitVec 1) (lit : Option W32) (i : BitVec 10) (d a : BitVec 7) (s : State),
    decodeCore (c ++ 0x12#7 ++ (i.extractLsb' 7 3 ++ d ++ a ++ i.extractLsb' 0 7)) lit = .ok (.iaddi i d a) ∧
    LaneWrites (.iaddi i d a) s d 1 fun l => BitVec.ofInt 32 ((src s a l).toInt + i.toInt)

/-- IMULH with F = 0, 1 or 2 writes the floor of the exact product over 2^32 for signed, natural and mixed operands; IMIN and IMAX write the lesser and the greater operand as signed (F[0] = 0) or natural values; IABS writes the absolute value, wrapped for F = 0 and clamped with FLAGS.ISAT for F = 1. Each completes for every state and changes nothing else. ICMP with F from 0 to 5 writes to each active lane of predicate D whether the signed operands compare as the condition says, a write of p7 being discarded; ISEL writes to each active lane of D the operand that predicate F selects. Both complete for every state and change nothing else. (R168, R169, R30, R64, R170, R171, R140) -/
def Obligations.ProductsAndComparisons : Prop :=
  (∀ (d a b : BitVec 7) (s : State),
     let i (r : BitVec 7) (l : Nat) : Int := (src s r l).toInt
     let n (r : BitVec 7) (l : Nat) : Int := ((src s r l).toNat : Int)
     LaneWrites (.imulh 0#3 d a b) s d 1 (fun l => BitVec.ofInt 32 ((i a l * i b l) / 4294967296)) ∧
     LaneWrites (.imulh 1#3 d a b) s d 1 (fun l => BitVec.ofInt 32 ((n a l * n b l) / 4294967296)) ∧
     LaneWrites (.imulh 2#3 d a b) s d 1 (fun l => BitVec.ofInt 32 ((i a l * n b l) / 4294967296)) ∧
     LaneWrites (.imin 0#1 d a b) s d 1 (fun l => BitVec.ofInt 32 (min (i a l) (i b l))) ∧
     LaneWrites (.imin 1#1 d a b) s d 1 (fun l => BitVec.ofInt 32 (min (n a l) (n b l))) ∧
     LaneWrites (.imax 0#1 d a b) s d 1 (fun l => BitVec.ofInt 32 (max (i a l) (i b l))) ∧
     LaneWrites (.imax 1#1 d a b) s d 1 (fun l => BitVec.ofInt 32 (max (n a l) (n b l))) ∧
     LaneFlagWrites (.iabs 0#1 d a) s d (fun l => BitVec.ofInt 32 |i a l|) (fun _ => 0#32) ∧
     LaneFlagWrites (.iabs 1#1 d a) s d (fun l => if src s a l = 0x80000000#32 then 0x7FFFFFFF#32 else BitVec.ofInt 32 |i a l|)
       (fun l => if src s a l = 0x80000000#32 then 16#32 else 0#32)) ∧
  (∀ (p d : BitVec 3) (r a b : BitVec 7) (s : State),
     let x (l : Nat) : Int := (src s a l).toInt
     let y (l : Nat) : Int := (src s b l).toInt
     PredWrites (.icmp 0#3 d a b) s d (fun l => decide (x l = y l)) (fun _ => 0#32) ∧
     PredWrites (.icmp 1#3 d a b) s d (fun l => decide (x l ≠ y l)) (fun _ => 0#32) ∧
     PredWrites (.icmp 2#3 d a b) s d (fun l => decide (x l < y l)) (fun _ => 0#32) ∧
     PredWrites (.icmp 3#3 d a b) s d (fun l => decide (x l ≤ y l)) (fun _ => 0#32) ∧
     PredWrites (.icmp 4#3 d a b) s d (fun l => decide (y l < x l)) (fun _ => 0#32) ∧
     PredWrites (.icmp 5#3 d a b) s d (fun l => decide (y l ≤ x l)) (fun _ => 0#32) ∧
     LaneWrites (.isel p r a b) s r 1 (fun l => if (srcPred s p.toNat).getLsbD l then src s a l else src s b l) ∧
     LaneWrites (.isel 7#3 r a b) s r 1 (fun l => src s a l))

/-- SHL, SHR and SAR take the whole of B as the amount, so that amounts of 32 and above give 0, 0 and the sign in every bit; ROL rotates by the amount modulo 32; SHLI, SHRI and SARI do the same with their immediate amount. Each completes for every state and changes nothing else. With POS = B[4:0], LEN = B[13:8] and n the lesser of LEN and 32 - POS, BFX writes bits [POS+n-1:POS] of A, extended with zeros or with the field's top bit, and BFI writes the low n bits of A to those bits of the old D and keeps the others. Both complete for every state and change nothing else. (R172, R173, R30, R176) -/
def Obligations.ShiftsAndFields : Prop :=
  (∀ (d a b : BitVec 7) (k : BitVec 5) (s : State),
     let n (l : Nat) : Nat := (src s b l).toNat
     let shl (x : W32) (n : Nat) : W32 := if n < 32 then BitVec.ofNat 32 (x.toNat * 2 ^ n) else 0#32
     let shr (x : W32) (n : Nat) : W32 := if n < 32 then BitVec.ofNat 32 (x.toNat / 2 ^ n) else 0#32
     let sar (x : W32) (n : Nat) : W32 := if n < 32 then BitVec.ofInt 32 (x.toInt / 2 ^ n) else if x.getLsbD 31 then 0xFFFFFFFF#32 else 0#32
     LaneWrites (.shl d a b) s d 1 (fun l => shl (src s a l) (n l)) ∧
     LaneWrites (.shr d a b) s d 1 (fun l => shr (src s a l) (n l)) ∧
     LaneWrites (.sar d a b) s d 1 (fun l => sar (src s a l) (n l)) ∧
     LaneWrites (.rol d a b) s d 1 (fun l => (src s a l) <<< (n l % 32) ||| (src s a l) >>> (32 - n l % 32)) ∧
     LaneWrites (.shli d a k) s d 1 (fun l => shl (src s a l) k.toNat) ∧
     LaneWrites (.shri d a k) s d 1 (fun l => shr (src s a l) k.toNat) ∧
     LaneWrites (.sari d a k) s d 1 (fun l => sar (src s a l) k.toNat)) ∧
  (∀ (d a b : BitVec 7) (s : State),
     let pos (l : Nat) : Nat := (src s b l).toNat % 32
     let n (l : Nat) : Nat := min ((src s b l).toNat / 256 % 64) (32 - pos l)
     let field (l k : Nat) : Bool := decide (k < n l) && (src s a l).getLsbD (pos l + k)
     let top (l : Nat) : Bool := decide (0 < n l) && (src s a l).getLsbD (pos l + n l - 1)
     LaneWrites (.bfx 0#1 d a b) s d 1 (fun l => BitVec.ofFnLE fun k : Fin 32 => field l k.val) ∧
     LaneWrites (.bfx 1#1 d a b) s d 1 (fun l => BitVec.ofFnLE fun k : Fin 32 => if k.val < n l then field l k.val else top l) ∧
     LaneWrites (.bfi d a b) s d 1 (fun l => BitVec.ofFnLE fun k : Fin 32 =>
       if pos l ≤ k.val ∧ k.val < pos l + n l then (src s a l).getLsbD (k.val - pos l) else (src s d l).getLsbD k.val))

/-- Words of OP 0x1C with F from 0 to 3 are AND, OR, XOR and ANDN and with F from 4 to 7 reserved; words of OP 0x1D, 0x1E and 0x1F in format B are ANDI, ORI and XORI. AND, OR, XOR and ANDN, and ANDI, ORI and XORI with the sign-extended 10-bit immediate, write each bit of each active lane of D as the operation of the operands' bits, complete for every state and change nothing else, so no flag. (R174) -/
def Obligations.Logic : Prop :=
  ∀ (c : BitVec 1) (lit : Option W32) (f : BitVec 3) (d a b : BitVec 7) (i : BitVec 10) (s : State),
    let word (op : BitVec 7) : W32 := c ++ op ++ (i.extractLsb' 7 3 ++ d ++ a ++ i.extractLsb' 0 7)
    let bits (f : Nat → Nat → Bool) (l : Nat) : W32 := BitVec.ofFnLE fun k : Fin 32 => f l k.val
    let x (l k : Nat) : Bool := (src s a l).getLsbD k
    let y (l k : Nat) : Bool := (src s b l).getLsbD k
    let m (k : Nat) : Bool := if k < 10 then i.getLsbD k else i.getLsbD 9
    decodeCore (c ++ 0x1C#7 ++ (f ++ d ++ a ++ b)) lit = (if f = 0#3 then .ok (.and d a b) else if f = 1#3 then .ok (.or d a b)
      else if f = 2#3 then .ok (.xor d a b) else if f = 3#3 then .ok (.andn d a b) else .error .reservedField) ∧
    decodeCore (word 0x1D#7) lit = .ok (.andi i d a) ∧ decodeCore (word 0x1E#7) lit = .ok (.ori i d a) ∧
    decodeCore (word 0x1F#7) lit = .ok (.xori i d a) ∧
    LaneWrites (.and d a b) s d 1 (bits fun l k => x l k && y l k) ∧
    LaneWrites (.or d a b) s d 1 (bits fun l k => x l k || y l k) ∧
    LaneWrites (.xor d a b) s d 1 (bits fun l k => x l k != y l k) ∧
    LaneWrites (.andn d a b) s d 1 (bits fun l k => x l k && !y l k) ∧
    LaneWrites (.andi i d a) s d 1 (bits fun l k => x l k && m k) ∧
    LaneWrites (.ori i d a) s d 1 (bits fun l k => x l k || m k) ∧
    LaneWrites (.xori i d a) s d 1 (bits fun l k => x l k != m k)

/-- Words of OP 0x20 with B = 0 and F from 0 to 2 are CLZ, POPC and BREV, and all others of that OP are reserved. CLZ writes the number of zero bits above the highest 1, which is 32 for zero; POPC writes the number of 1 bits; BREV moves bit i to bit 31 - i. Each completes for every state, for every active lane, and changes nothing else. (R175) -/
def Obligations.BitCounts : Prop :=
  ∀ (c : BitVec 1) (lit : Option W32) (f : BitVec 3) (d a b : BitVec 7) (s : State),
    decodeCore (c ++ 0x20#7 ++ (f ++ d ++ a ++ b)) lit = (if b ≠ 0#7 then .error .reservedField else if f = 0#3 then .ok (.clz d a)
      else if f = 1#3 then .ok (.popc d a) else if f = 2#3 then .ok (.brev d a) else .error .reservedField) ∧
    (∃ t, exec (.clz d a) s = .next t ∧ LaneForm s t d.toNat 1 ∧ t.team.flags = s.team.flags ∧ Advances s t 1 ∧
      ∀ l, (activeMask s).getLsbD l = true →
        let z := (t.pod.lane d.toNat l).toNat
        z ≤ 32 ∧ (src s a l).toNat < 2 ^ (32 - z) ∧ (z < 32 → 2 ^ (31 - z) ≤ (src s a l).toNat)) ∧
    LaneWrites (.popc d a) s d 1 (fun l => BitVec.ofNat 32 ((List.range 32).filter fun k => (src s a l).getLsbD k).length) ∧
    LaneWrites (.brev d a) s d 1 (fun l => BitVec.ofFnLE fun k : Fin 32 => (src s a l).getLsbD (31 - k.val))

/-- MOV copies A, MOVI writes the sign-extended 17-bit immediate, MOVL writes its literal word and goes on after it, MOVS writes a scalar to every active lane, and SMOV writes lane l of A to a scalar whatever the active mask. Each completes for every state (MOVL where a literal can follow in its packet) and changes nothing else. SMOVI, SADD, SADDI (immediate and literal), SAND and SSHL (left, logical right and arithmetic right) write their scalar whatever the active mask, complete for every state (the literal forms where a literal can follow) and change nothing else. (R177, R178, R137, R30, R179, R173) -/
def Obligations.MovesAndScalars : Prop :=
  (∀ (d a : BitVec 7) (i : BitVec 17) (v : W32) (x : BitVec 5) (l : BitVec 2) (s : State),
     LaneWrites (.mov d a) s d 1 (fun k => src s a k) ∧
     LaneWrites (.movi i d) s d 1 (fun _ => BitVec.ofInt 32 i.toInt) ∧
     (s.pod.slot.toNat < 2 → LaneWrites (.movl d v) s d 2 (fun _ => v)) ∧
     LaneWrites (.movs d x) s d 1 (fun _ => (srcPod s).scalar x.toNat) ∧
     ScalarWrites (.smov x a l) s x 1 (src s a l.toNat)) ∧
  (∀ (d a b : BitVec 5) (i : BitVec 11) (v : W32) (k : BitVec 5) (s : State),
     let x := (srcPod s).scalar a.toNat
     let y := (srcPod s).scalar b.toNat
     ScalarWrites (.smovi d i) s d 1 (BitVec.ofInt 32 i.toInt) ∧
     (s.pod.slot.toNat < 2 → ScalarWrites (.smoviLiteral d v) s d 2 v) ∧
     ScalarWrites (.sadd d a b) s d 1 (BitVec.ofNat 32 (x.toNat + y.toNat)) ∧
     ScalarWrites (.saddi d a i) s d 1 (BitVec.ofInt 32 (x.toInt + i.toInt)) ∧
     (s.pod.slot.toNat < 2 → ScalarWrites (.saddiLiteral d a v) s d 2 (BitVec.ofNat 32 (x.toNat + v.toNat))) ∧
     ScalarWrites (.sand d a b) s d 1 (x &&& y) ∧
     ScalarWrites (.sshl d a 0#2 k) s d 1 (BitVec.ofNat 32 (x.toNat * 2 ^ k.toNat)) ∧
     ScalarWrites (.sshl d a 1#2 k) s d 1 (BitVec.ofNat 32 (x.toNat / 2 ^ k.toNat)) ∧
     ScalarWrites (.sshl d a 2#2 k) s d 1 (BitVec.ofInt 32 (x.toInt / 2 ^ k.toNat)))

/-- With .b (W = 1) or .h elements of type N or I, PADD and PSUB write each element wrapped, or clamped with FLAGS.ISAT when saturation changes some element of an active lane; PMIN, PMAX, PABD, PAVG, PMUL and PMULH write each element of the exact result wrapped to the element. Each completes for every state and changes nothing else. The amount of each element is the natural value of the same element of B, with no masking: amounts of the element's width and above give 0, and for PSHR.A the element's sign in every bit. Both complete for every state and change nothing else. (R180, R30, R64, R181) -/
def Obligations.PackedArithmetic : Prop :=
  (∀ (w n : BitVec 1) (d a b : BitVec 7) (s : State),
     let m : Nat := if w = 1#1 then 8 else 16
     let v (x : W32) (k : Nat) : Int := if n = 1#1 then ((x.extractLsb' (m * k) m).toNat : Int) else (x.extractLsb' (m * k) m).toInt
     let lo : Int := if n = 1#1 then 0 else -(2 ^ (m - 1))
     let hi : Int := if n = 1#1 then 2 ^ m - 1 else 2 ^ (m - 1) - 1
     let put (e : Nat → Int) : W32 := BitVec.ofFnLE fun j : Fin 32 => (BitVec.ofInt m (e (j.val / m))).getLsbD (j.val % m)
     let clamp (e : Nat → Int) : W32 := put fun k => max lo (min (e k) hi)
     let isat (e : Nat → Int) : W32 := if ∃ k < 32 / m, e k < lo ∨ hi < e k then 16#32 else 0#32
     let x (l k : Nat) := v (src s a l) k
     let y (l k : Nat) := v (src s b l) k
     LaneFlagWrites (.padd (w ++ 0#1 ++ n) d a b) s d (fun l => put fun k => x l k + y l k) (fun _ => 0#32) ∧
     LaneFlagWrites (.padd (w ++ 1#1 ++ n) d a b) s d (fun l => clamp fun k => x l k + y l k) (fun l => isat fun k => x l k + y l k) ∧
     LaneFlagWrites (.psub (w ++ 0#1 ++ n) d a b) s d (fun l => put fun k => x l k - y l k) (fun _ => 0#32) ∧
     LaneFlagWrites (.psub (w ++ 1#1 ++ n) d a b) s d (fun l => clamp fun k => x l k - y l k) (fun l => isat fun k => x l k - y l k) ∧
     LaneWrites (.pmin w n d a b) s d 1 (fun l => put fun k => min (x l k) (y l k)) ∧
     LaneWrites (.pmax w n d a b) s d 1 (fun l => put fun k => max (x l k) (y l k)) ∧
     LaneWrites (.pabd w n d a b) s d 1 (fun l => put fun k => |x l k - y l k|) ∧
     LaneWrites (.pavg w n d a b) s d 1 (fun l => put fun k => (x l k + y l k + 1) / 2) ∧
     LaneWrites (.pmul w n d a b) s d 1 (fun l => put fun k => x l k * y l k) ∧
     LaneWrites (.pmulh w n d a b) s d 1 (fun l => put fun k => x l k * y l k / 2 ^ m)) ∧
  (∀ (w : BitVec 1) (d a b : BitVec 7) (s : State),
     let m : Nat := if w = 1#1 then 8 else 16
     let x (l k : Nat) : BitVec m := (src s a l).extractLsb' (m * k) m
     let n (l k : Nat) : Nat := ((src s b l).extractLsb' (m * k) m).toNat
     let put (e : Nat → BitVec m) : W32 := BitVec.ofFnLE fun j : Fin 32 => (e (j.val / m)).getLsbD (j.val % m)
     LaneWrites (.pshl w d a b) s d 1 (fun l => put fun k => x l k <<< n l k) ∧
     LaneWrites (.pshr w 0#1 d a b) s d 1 (fun l => put fun k => x l k >>> n l k) ∧
     LaneWrites (.pshr w 1#1 d a b) s d 1 (fun l => put fun k => (x l k).sshiftRight (n l k)))

/-- PACS writes to each active lane the lesser of the two saturated sums for each half, decision 1 where the second is strictly less, in the predicates pF and pF+1, and FLAGS.ISAT when one of the four sums of an active lane exceeds 65535; it completes for every F from 0 to 5 and changes nothing else. The products of four bytes, eight nibbles or two halfwords of A and B, each operand signed or natural as F says, are summed exactly with the signed old D and wrapped; DOT4 with F[2] clamps the whole sum once to I32 and sets FLAGS.ISAT when that changes it in an active lane. Each completes for every state and changes nothing else. (R182, R30, R64, R140, R183) -/
def Obligations.DotProductsAndSelection : Prop :=
  (∀ (f : BitVec 3) (d a b : BitVec 7) (s : State), f.toNat < 6 →
     let h (x : W32) (k : Nat) : Nat := (x.extractLsb' (16 * k) 16).toNat
     let x0 (l : Nat) := h (src s a l) 0 + h (src s b l) 0
     let y0 (l : Nat) := h (src s a l) 1 + h (src s b l) 1
     let x1 (l : Nat) := h (src s a l) 0 + h (src s b l) 1
     let y1 (l : Nat) := h (src s a l) 1 + h (src s b l) 0
     let sat (e : Nat) : BitVec 16 := BitVec.ofNat 16 (min e 65535)
     ∃ t, exec (.pacs f d a b) s = .next t ∧ RegisterFrame s t ∧ Advances s t 1 ∧ t.pod.s = s.pod.s ∧
       (∀ r, r ≠ d.toNat → t.pod.reg r = s.pod.reg r) ∧ (∀ k, k ≠ f.toNat → k ≠ f.toNat + 1 → t.pod.pred k = s.pod.pred k) ∧
       (∀ l, (activeMask s).getLsbD l = false → t.pod.lane d.toNat l = s.pod.lane d.toNat l ∧
         ∀ k, (t.pod.pred k).getLsbD l = (s.pod.pred k).getLsbD l) ∧
       (∀ l, (activeMask s).getLsbD l = true →
         t.pod.lane d.toNat l = sat (min (x1 l) (y1 l)) ++ sat (min (x0 l) (y0 l)) ∧
         (t.pod.pred f.toNat).getLsbD l = decide (min (y0 l) 65535 < min (x0 l) 65535) ∧
         (t.pod.pred (f.toNat + 1)).getLsbD l = decide (min (y1 l) 65535 < min (x1 l) 65535)) ∧
       ∀ k, t.team.flags.getLsbD k = true ↔ s.team.flags.getLsbD k = true ∨ k = 4 ∧ ∃ l, (activeMask s).getLsbD l = true ∧
         (65535 < x0 l ∨ 65535 < y0 l ∨ 65535 < x1 l ∨ 65535 < y1 l)) ∧
  (∀ (na nb : BitVec 1) (d a b : BitVec 7) (s : State),
     let v (w : Nat) (n : BitVec 1) (x : W32) (k : Nat) : Int :=
       if n = 1#1 then ((x.extractLsb' (w * k) w).toNat : Int) else (x.extractLsb' (w * k) w).toInt
     let e (n w l : Nat) : Int := (src s d l).toInt + ((List.range n).map fun k => v w na (src s a l) k * v w nb (src s b l) k).sum
     LaneFlagWrites (.dot4 (0#1 ++ nb ++ na) d a b) s d (fun l => BitVec.ofInt 32 (e 4 8 l)) (fun _ => 0#32) ∧
     LaneFlagWrites (.dot4 (1#1 ++ nb ++ na) d a b) s d (fun l => BitVec.ofInt 32 (max (-2147483648) (min (e 4 8 l) 2147483647)))
       (fun l => if e 4 8 l < -2147483648 ∨ 2147483647 < e 4 8 l then 16#32 else 0#32) ∧
     LaneWrites (.dot8 (nb ++ na) d a b) s d 1 (fun l => BitVec.ofInt 32 (e 8 4 l)) ∧
     LaneWrites (.dot2 (nb ++ na) d a b) s d 1 (fun l => BitVec.ofInt 32 (e 2 16 l)))

/-- For sample widths 10, 12 and 14, PUNPK reads two samples at the offset from a register pair, bits above 63 reading 0; PPACK writes two samples, each at most 2^w - 1, to that place of the pair D, keeps every other bit of it and sets FLAGS.ISAT when a sample of an active lane is cut; TBL replaces each byte of D by the table byte it indexes in n registers from A, or by the fill. Each completes for every state and changes nothing else. (R184, R185, R186, R30, R64) -/
def Obligations.SamplePacking : Prop :=
  ∀ (w n : BitVec 2) (x : BitVec 8) (d a b : BitVec 7) (s : State),
    let m : Nat := 10 + 2 * w.toNat
    let pair (r : BitVec 7) (l k : Nat) : Bool := if k < 32 then (src s r l).getLsbD k else (srcN s (r.toNat + 1) l).getLsbD (k - 32)
    let o (l : Nat) : Nat := (src s b l).toNat % 64
    let h (l k : Nat) : Nat := ((src s a l).extractLsb' (16 * k) 16).toNat
    let sample (l k : Nat) : Nat := min (h l k) (2 ^ m - 1)
    let packed (l k : Nat) : Bool :=
      if o l ≤ k ∧ k < o l + m then (sample l 0).testBit (k - o l)
      else if o l + m ≤ k ∧ k < o l + 2 * m then (sample l 1).testBit (k - o l - m) else pair d l k
    let byte (l k : Nat) : Nat := ((src s d l).extractLsb' (8 * k) 8).toNat
    let table (l i : Nat) : BitVec 8 := if i < 4 * 2 ^ n.toNat then (srcN s (a.toNat + i / 4) l).extractLsb' (8 * (i % 4)) 8 else x
    (w.toNat < 3 → LaneWrites (.punpk w d a b) s d 1 fun l => BitVec.ofFnLE fun k : Fin 32 =>
      decide (k.val % 16 < m) && decide (o l + k.val / 16 * m + k.val % 16 < 64) && pair a l (o l + k.val / 16 * m + k.val % 16)) ∧
    (w.toNat < 3 → d.toNat % 2 = 0 → ∃ t, exec (.ppack w d a b) s = .next t ∧ LaneForm s t d.toNat 2 ∧ Advances s t 1 ∧
      (∀ l, (activeMask s).getLsbD l = true → t.pod.lane d.toNat l = (BitVec.ofFnLE fun k : Fin 32 => packed l k.val) ∧
        t.pod.lane (d.toNat + 1) l = BitVec.ofFnLE fun k : Fin 32 => packed l (32 + k.val)) ∧
      ∀ k, t.team.flags.getLsbD k = true ↔ s.team.flags.getLsbD k = true ∨ k = 4 ∧ ∃ l, (activeMask s).getLsbD l = true ∧
        (2 ^ m ≤ h l 0 ∨ 2 ^ m ≤ h l 1)) ∧
    LaneWrites (.tbl n x d a) s d 1 fun l => BitVec.ofFnLE fun k : Fin 32 => (table l (byte l (k.val / 8))).getLsbD (k.val % 8)

/-- For any scope, of n positions with their active ones, registers and predicates, and any position h of it: SHFL gives A of the source position its mode and B name, when that is an active position, and A of h otherwise; SCAN gives the operation over the active positions below h (and h, unless exclusive) and RED over all of them, from the operation's identity; VOTE.ANY, ALL and COUNT test and count the predicate over the active positions; VOTE.PACK packs it, into one word at POD scope and two at BUNCH scope; MATCH gives the lowest active position of equal value and 256 times their number. The positions of POD scope are the pod's four lanes with its registers, predicates and active mask; those of BUNCH scope are the 64 lanes of the pods that take part, position h being lane h mod 4 of the pod whose index in its home bunch is h / 4, and inactive where no such pod takes part. At POD scope each of SHFL, SCAN, RED, VOTE and MATCH completes for every state: each active lane of its destination takes what the form gives its position among the pod's four lanes, and nothing else changes. At BUNCH scope the pod waits until its home bunch has converged; with the results of a convergence at hand it completes by writing the next of them, which is then used up, and nothing else changes. (R187, R188, R189, R190, R36, R38, R37, R30) -/
def Obligations.CrossLaneForms : Prop :=
  (∀ (x : Positions) (h : Nat) (m : BitVec 2) (z : BitVec 1) (d a b : BitVec 7) (p q o : BitVec 3), h < x.count →
     let k := (x.reg b.toNat h).toNat
     let from_ : Nat := if m = 0#2 then k else if m = 1#2 then (((h : Int) - k) % x.count).toNat else if m = 2#2 then (h + k) % x.count else h ^^^ (k % x.count)
     let unit : W32 := if o = 1#3 then 0x7FFFFFFF#32 else if o = 2#3 then 0x80000000#32 else if o = 3#3 ∨ o = 5#3 then 0xFFFFFFFF#32 else 0#32
     let op (u v : W32) : W32 :=
       if o = 0#3 then u + v else if o = 1#3 then (if v.slt u then v else u) else if o = 2#3 then (if u.slt v then v else u)
       else if o = 3#3 then (if v.ult u then v else u) else if o = 4#3 then (if u.ult v then v else u)
       else if o = 5#3 then u &&& v else if o = 6#3 then u ||| v else u ^^^ v
     let upTo (n : Nat) : W32 := (((List.range n).filter x.active).map (x.reg a.toNat)).foldl op unit
     let live := (List.range x.count).filter x.active
     let yes := live.filter (x.pred q.toNat)
     let same := live.filter fun j => x.reg a.toNat j = x.reg a.toNat h
     crossWords (.shfl (z ++ m) d a b) x h = [if x.active from_ then x.reg a.toNat from_ else x.reg a.toNat h] ∧
     crossWords (.scan d a z 0#1 o) x h = [upTo (h + 1)] ∧ crossWords (.scan d a z 1#1 o) x h = [upTo h] ∧
     crossWords (.red d a z o) x h = [upTo x.count] ∧
     crossWords (.voteAny z p q) x h = [if yes = [] then 0#32 else 1#32] ∧
     crossWords (.voteAll z p q) x h = [if yes = live then 1#32 else 0#32] ∧
     crossWords (.voteCount z d q) x h = [BitVec.ofNat 32 yes.length] ∧
     (crossWords (.votePack 0#1 d q) x h).length = 1 ∧ (crossWords (.votePack 1#1 d q) x h).length = 2 ∧
     (∀ j < 32, ((crossWords (.votePack 0#1 d q) x h).getD 0 0#32).getLsbD j = decide (j ∈ yes)) ∧
     (∀ j, (((crossWords (.votePack 1#1 d q) x h).getD (j / 32) 0#32).getLsbD (j % 32) = true ↔ j < 64 ∧ j ∈ yes)) ∧
     (x.active h = true → ∃ l, same.head? = some l ∧ crossWords (.matchLanes z d a) x h = [BitVec.ofNat 32 (l + 256 * same.length)])) ∧
  (∀ (p : Pod) (ps : List Pod) (r k l h : Nat), l < 4 → h < 64 →
     (podPositions p).count = 4 ∧ (podPositions p).active l = p.active.getLsbD l ∧ (podPositions p).reg r l = p.lane r l ∧
     (podPositions p).pred k l = (p.pred k).getLsbD l ∧ (bunchPositions ps).count = 64 ∧
     (∀ q, ps.find? (fun q => q.index % 16 == h / 4) = some q → (bunchPositions ps).active h = q.active.getLsbD (h % 4) ∧
       (bunchPositions ps).reg r h = q.lane r (h % 4) ∧ (bunchPositions ps).pred k h = (q.pred k).getLsbD (h % 4)) ∧
     (ps.find? (fun q => q.index % 16 == h / 4) = none → (bunchPositions ps).active h = false)) ∧
  (∀ (f : BitVec 3) (e : BitVec 1) (d a b : BitVec 7) (p q o : BitVec 3) (s : State),
     let at_ (i : Instr) (l : Nat) : W32 := (crossWords i (podPositions (srcPod s)) l).getD 0 0#32
     (f.toNat < 4 → LaneWrites (.shfl f d a b) s d 1 (at_ (.shfl f d a b))) ∧
     LaneWrites (.scan d a 0#1 e o) s d 1 (at_ (.scan d a 0#1 e o)) ∧
     LaneWrites (.red d a 0#1 o) s d 1 (at_ (.red d a 0#1 o)) ∧
     PredWrites (.voteAny 0#1 p q) s p (fun l => at_ (.voteAny 0#1 p q) l != 0#32) (fun _ => 0#32) ∧
     PredWrites (.voteAll 0#1 p q) s p (fun l => at_ (.voteAll 0#1 p q) l != 0#32) (fun _ => 0#32) ∧
     LaneWrites (.voteCount 0#1 d q) s d 1 (at_ (.voteCount 0#1 d q)) ∧
     LaneWrites (.votePack 0#1 d q) s d 1 (at_ (.votePack 0#1 d q)) ∧
     LaneWrites (.matchLanes 0#1 d a) s d 1 (at_ (.matchLanes 0#1 d a)) ∧
     ∀ i, i = .shfl (f ||| 4#3) d a b ∨ i = .scan d a 1#1 e o ∨ i = .red d a 1#1 o ∨ i = .voteAny 1#1 p q ∨ i = .voteAll 1#1 p q ∨
         i = .voteCount 1#1 d q ∨ i = .votePack 1#1 d q ∨ i = .matchLanes 1#1 d a →
       (s.pod.grant = none → exec i s = .next (markWait s .converge)) ∧
       ∀ r rest, s.pod.grant = some (r :: rest) → ∃ t, exec i s = .next t ∧ Advances s t 1 ∧
         t = { s with pod := t.pod } ∧
         t.pod = { s.pod with v := t.pod.v, p := t.pod.p, s := t.pod.s, pc := t.pod.pc, slot := t.pod.slot, phase := s.pod.phase.goOn, skip := 0, grant := some rest } ∧
         (∀ m n vals, r = .lanes m n vals → t.pod.p = s.pod.p ∧ t.pod.s = s.pod.s ∧ (∀ j, j < n ∨ n + vals.length ≤ j → t.pod.reg j = s.pod.reg j) ∧
           ∀ j l, n + j < 128 → l < 4 → j < vals.length →
             t.pod.lane (n + j) l = if m.getLsbD l then (vals.getD j (Vector.replicate 4 0#32)).getD l 0#32 else s.pod.lane (n + j) l) ∧
         (∀ m n w, r = .pred m n w → t.pod.v = s.pod.v ∧ t.pod.s = s.pod.s ∧ (∀ j, j ≠ n → t.pod.pred j = s.pod.pred j) ∧
           (n < 7 → ∀ l < 4, (t.pod.pred n).getLsbD l = if m.getLsbD l then w.getLsbD l else (s.pod.pred n).getLsbD l)))

/-- A word of OP 0x3E whose three register fields have bits [6:3] equal to 0 is PLOG, and any other of that OP is reserved. PLOG writes to each active lane of predicate D the operation that F names on the bits of the predicates A and B, p7 reading 1 and a write of p7 being discarded; it completes for every state and changes nothing else. (R191) -/
def Obligations.PredicateLogic : Prop :=
  ∀ (c : BitVec 1) (lit : Option W32) (f d a b : BitVec 3) (u v w : BitVec 4) (s : State),
    let x (l : Nat) : Bool := (srcPred s a.toNat).getLsbD l
    let y (l : Nat) : Bool := (srcPred s b.toNat).getLsbD l
    decodeCore (c ++ 0x3E#7 ++ (f ++ (u ++ d) ++ (v ++ a) ++ (w ++ b))) lit =
      (if u = 0#4 ∧ v = 0#4 ∧ w = 0#4 then .ok (.plog f d a b) else .error .reservedField) ∧
    PredWrites (.plog 0#3 d a b) s d (fun l => x l && y l) (fun _ => 0#32) ∧
    PredWrites (.plog 1#3 d a b) s d (fun l => x l || y l) (fun _ => 0#32) ∧
    PredWrites (.plog 2#3 d a b) s d (fun l => x l != y l) (fun _ => 0#32) ∧
    PredWrites (.plog 3#3 d a b) s d (fun l => x l && !y l) (fun _ => 0#32) ∧
    PredWrites (.plog 4#3 d a b) s d (fun l => x l || !y l) (fun _ => 0#32) ∧
    PredWrites (.plog 5#3 d a b) s d (fun l => !(x l && y l)) (fun _ => 0#32) ∧
    PredWrites (.plog 6#3 d a b) s d (fun l => !(x l || y l)) (fun _ => 0#32) ∧
    PredWrites (.plog 7#3 d a b) s d (fun l => x l == y l) (fun _ => 0#32)

/-- A word of OP 0x3F with B = 0 is PMOV of the kind F names, 3 to 7 being reserved. PMOV of a register to a predicate writes whether each active lane is not zero, of a predicate to a register 1 or 0, and of a predicate to a predicate its bits; each completes for every state and changes nothing else. (R192) -/
def Obligations.PredicateMoves : Prop :=
  ∀ (c : BitVec 1) (lit : Option W32) (f : BitVec 3) (p q : BitVec 3) (d a b : BitVec 7) (s : State),
    (b ≠ 0#7 ∨ 3 ≤ f.toNat → decodeCore (c ++ 0x3F#7 ++ (f ++ d ++ a ++ b)) lit = .error .reservedField) ∧
    decodeCore (c ++ 0x3F#7 ++ (0#3 ++ (0#4 ++ p) ++ a ++ 0#7)) lit = .ok (.pmovPredicateFromRegister p a) ∧
    decodeCore (c ++ 0x3F#7 ++ (1#3 ++ d ++ (0#4 ++ q) ++ 0#7)) lit = .ok (.pmovRegisterFromPredicate d q) ∧
    decodeCore (c ++ 0x3F#7 ++ (2#3 ++ (0#4 ++ p) ++ (0#4 ++ q) ++ 0#7)) lit = .ok (.pmovPredicateFromPredicate p q) ∧
    PredWrites (.pmovPredicateFromRegister p a) s p (fun l => src s a l != 0#32) (fun _ => 0#32) ∧
    LaneWrites (.pmovRegisterFromPredicate d q) s d 1 (fun l => if (srcPred s q.toNat).getLsbD l then 1#32 else 0#32) ∧
    PredWrites (.pmovPredicateFromPredicate p q) s p (fun l => (srcPred s q.toNat).getLsbD l) (fun _ => 0#32)

/-- FADD, FSUB, FMUL and FSCALE write to each active lane the exact result of the flushed sources rounded once in the mode that F and MODE.RM give, BFADD2 and BFMUL2 do so for both halves, and each sets the FLAGS bits its active lanes raise; FFMA and BFFMA2 round the product plus the old D once, and also add their operations to the grid's sampled FLOPs. Each completes for every state and changes nothing else. FSCALE scales by the I32 of B, which is never flushed: a NaN gives the canonical NaN, an infinity or a zero itself, and any other number its product with the power of two, rounded once. (The signs of FSUB's exact zeros are those of R60's words for x and y, log 61.) (R193, R194, R195, R200, R203, R59, R60, R61, R64) -/
def Obligations.FloatArithmetic : Prop :=
  ∀ (f : BitVec 3) (d a b : BitVec 7) (s : State),
    let mode : RMode := if f = 0#3 then (if modeRm s = 6 then .rne else rmodeOf (modeRm s)) else rmodeOf f.toNat
    let c : RCtx := ⟨mode, 0#32, s |> modeSatf8, s |> modeFtz⟩
    let v (r : BitVec 7) (l : Nat) : Val := tyF32.decode (if modeFtz s then tyF32.flush (src s r l).toNat else (src s r l).toNat)
    let h (r : BitVec 7) (l k : Nat) : Val :=
      let x := ((src s r l).extractLsb' (16 * k) 16).toNat
      tyBF16.decode (if modeFtz s then tyBF16.flush x else x)
    let w (r : Nat → Nat × W32) (l : Nat) : W32 := BitVec.ofNat 32 (r l).1
    let pair (r : Nat → Nat → Nat × W32) (l : Nat) : W32 := BitVec.ofNat 32 ((r l 0).1 + 65536 * (r l 1).1)
    let fma (i : Instr) (n : Nat) (word flags : Nat → W32) : Prop :=
      let u := s.sample 0 (n * activeLaneCount s)
      ∃ t, exec i s = .next t ∧ LaneForm u t d.toNat 1 ∧ Advances s t 1 ∧ (∀ l, (activeMask s).getLsbD l = true → t.pod.lane d.toNat l = word l) ∧
        ∀ k, t.team.flags.getLsbD k = true ↔ s.team.flags.getLsbD k = true ∨ ∃ l, (activeMask s).getLsbD l = true ∧ (flags l).getLsbD k = true
    let add (l : Nat) := addVal tyF32 c (v a l) (v b l)
    let sub (l : Nat) := subVal tyF32 c (v a l) (v b l)
    let mul (l : Nat) := mulVal tyF32 c (v a l) (v b l)
    let ffma (l : Nat) := fmaVal tyF32 c (v a l) (v b l) (v d l)
    let scale (l : Nat) := fscaleWord c (v a l) (src s b l).toInt
    let add2 (l k : Nat) := addVal tyBF16 c (h a l k) (h b l k)
    let mul2 (l k : Nat) := mulVal tyBF16 c (h a l k) (h b l k)
    let fma2 (l k : Nat) := fmaVal tyBF16 c (h a l k) (h b l k) (h d l k)
    LaneFlagWrites (.fadd f d a b) s d (w add) (fun l => (add l).2) ∧
    LaneFlagWrites (.fsub f d a b) s d (w sub) (fun l => (sub l).2) ∧
    LaneFlagWrites (.fmul f d a b) s d (w mul) (fun l => (mul l).2) ∧
    LaneFlagWrites (.fscale f d a b) s d (w scale) (fun l => (scale l).2) ∧
    LaneFlagWrites (.bfadd2 f d a b) s d (pair add2) (fun l => (add2 l 0).2 ||| (add2 l 1).2) ∧
    LaneFlagWrites (.bfmul2 f d a b) s d (pair mul2) (fun l => (mul2 l 0).2 ||| (mul2 l 1).2) ∧
    fma (.ffma f d a b) 2 (w ffma) (fun l => (ffma l).2) ∧
    fma (.bffma2 f d a b) 4 (pair fma2) (fun l => (fma2 l 0).2 ||| (fma2 l 1).2) ∧
    ∀ (x : W32) (n : Int),
      let m := x.toNat % 2 ^ 31
      let neg := x.getLsbD 31
      let r := fscaleWord c (tyF32.decode x.toNat) n
      (0x7F800000 < m → r = (0x7FC00000, if m < 0x7FC00000 then 1#32 else 0#32)) ∧
      (m = 0x7F800000 ∨ m = 0 → r = (x.toNat, 0#32)) ∧
      (0 < m → m < 0x7F800000 → RoundsTo tyF32 c neg ((tyF32.mag m : ℝ) * (2 : ℝ) ^ n) r)

/-- In FADD, FSUB and FMUL an active lane with a NaN source, with infinities whose sum or difference has no value, or with a zero times an infinity takes 0x7FC00000; FLAGS.NV becomes set exactly when some active lane has a signalling NaN source, or no NaN source and such an invalid case. With MODE.FTZ a subnormal source counts as a zero. (R53, R194, R195, R64) -/
def Obligations.FloatInvalid : Prop :=
  ∀ (f : BitVec 3) (d a b : BitVec 7) (s : State),
    let mag (r : BitVec 7) (l : Nat) : Nat := (src s r l).toNat % 2 ^ 31
    let neg (r : BitVec 7) (l : Nat) : Bool := (src s r l).getLsbD 31
    let nan (l : Nat) : Prop := 0x7F800000 < mag a l ∨ 0x7F800000 < mag b l
    let snan (l : Nat) : Prop := (0x7F800000 < mag a l ∧ mag a l < 0x7FC00000) ∨ (0x7F800000 < mag b l ∧ mag b l < 0x7FC00000)
    let inf (r : BitVec 7) (l : Nat) : Prop := mag r l = 0x7F800000
    let zero (r : BitVec 7) (l : Nat) : Prop := mag r l = 0 ∨ (modeFtz s = true ∧ mag r l < 0x00800000)
    let bad (i : Instr) (invalid : Nat → Prop) : Prop := ∃ t, exec i s = .next t ∧
      (∀ l, (activeMask s).getLsbD l = true → nan l ∨ invalid l → t.pod.lane d.toNat l = 0x7FC00000#32) ∧
      (t.team.flags.getLsbD 0 = true ↔ s.team.flags.getLsbD 0 = true ∨ ∃ l, (activeMask s).getLsbD l = true ∧ (snan l ∨ (¬nan l ∧ invalid l)))
    bad (.fadd f d a b) (fun l => inf a l ∧ inf b l ∧ neg a l ≠ neg b l) ∧
    bad (.fsub f d a b) (fun l => inf a l ∧ inf b l ∧ neg a l = neg b l) ∧
    bad (.fmul f d a b) (fun l => (zero a l ∧ inf b l) ∨ (inf a l ∧ zero b l))

/-- On flushed sources, FMIN and FMAX write the lesser and greater number, -0 being less than +0, the other source beside one NaN and the canonical NaN beside two, with FLAGS.NV for a signalling NaN; FABS clears and FNEG inverts the sign, a NaN giving the canonical NaN; FCMP writes whether the sources compare as F says, zeros being equal and NaN unordered, with FLAGS.NV for a signalling NaN and, in LT, LE, GT and GE, for any NaN. Each completes for every state and changes nothing else. (R54, R196, R197, R198, R140, R64) -/
def Obligations.FloatComparisons : Prop :=
  ∀ (p : BitVec 3) (d a b : BitVec 7) (s : State),
    let flush (w : W32) : W32 := if modeFtz s = true ∧ w.toNat % 2 ^ 31 < 0x00800000 then w &&& 0x80000000#32 else w
    let x (l : Nat) := flush (src s a l)
    let y (l : Nat) := flush (src s b l)
    let nan (w : W32) : Bool := decide (0x7F800000 < w.toNat % 2 ^ 31)
    let snan (w : W32) : Bool := nan w && !w.getLsbD 22
    let order (w : W32) : Int := if w.getLsbD 31 then -((w.toNat % 2 ^ 31 : Nat) : Int) - 1 else (w.toNat : Int)
    let value (w : W32) : Int := if w.getLsbD 31 then -((w.toNat % 2 ^ 31 : Nat) : Int) else (w.toNat : Int)
    let nv (c : Bool) : W32 := if c then 1#32 else 0#32
    let pick (l : Nat) (less : Bool) : W32 :=
      if nan (x l) && nan (y l) then 0x7FC00000#32 else if nan (x l) then y l else if nan (y l) then x l else if less then y l else x l
    let un (l : Nat) : Bool := nan (x l) || nan (y l)
    let sn (l : Nat) : W32 := nv (snan (x l) || snan (y l))
    LaneFlagWrites (.fmin d a b) s d (fun l => pick l (order (y l) < order (x l))) sn ∧
    LaneFlagWrites (.fmax d a b) s d (fun l => pick l (order (x l) < order (y l))) sn ∧
    LaneFlagWrites (.fabs d a) s d (fun l => if nan (x l) then 0x7FC00000#32 else x l &&& 0x7FFFFFFF#32) (fun l => nv (snan (x l))) ∧
    LaneFlagWrites (.fneg d a) s d (fun l => if nan (x l) then 0x7FC00000#32 else x l ^^^ 0x80000000#32) (fun l => nv (snan (x l))) ∧
    PredWrites (.fcmp 0#3 p a b) s p (fun l => !un l && decide (value (x l) = value (y l))) sn ∧
    PredWrites (.fcmp 1#3 p a b) s p (fun l => un l || decide (value (x l) ≠ value (y l))) sn ∧
    PredWrites (.fcmp 2#3 p a b) s p (fun l => !un l && decide (value (x l) < value (y l))) (fun l => nv (un l)) ∧
    PredWrites (.fcmp 3#3 p a b) s p (fun l => !un l && decide (value (x l) ≤ value (y l))) (fun l => nv (un l)) ∧
    PredWrites (.fcmp 4#3 p a b) s p (fun l => !un l && decide (value (y l) < value (x l))) (fun l => nv (un l)) ∧
    PredWrites (.fcmp 5#3 p a b) s p (fun l => !un l && decide (value (y l) ≤ value (x l))) (fun l => nv (un l)) ∧
    PredWrites (.fcmp 6#3 p a b) s p un sn

/-- A word of OP 0x47 with F = 0 and B = 0 is FCLASS and any other of that OP is reserved. FCLASS writes to each active lane the one-hot class mask of the encoding of A as stored, whatever MODE.FTZ, sets no flag, completes for every state and changes nothing else. (R199) -/
def Obligations.FloatClass : Prop :=
  ∀ (c : BitVec 1) (lit : Option W32) (f : BitVec 3) (d a b : BitVec 7) (s : State),
    let cls (w : W32) : Nat :=
      let neg := w.getLsbD 31
      let m := w.toNat % 2 ^ 31
      if 0x7FC00000 ≤ m then 9 else if 0x7F800000 < m then 8
      else if m = 0x7F800000 then (if neg then 0 else 7)
      else if 0x00800000 ≤ m then (if neg then 1 else 6)
      else if 0 < m then (if neg then 2 else 5)
      else if neg then 3 else 4
    decodeCore (c ++ 0x47#7 ++ (f ++ d ++ a ++ b)) lit = (if f = 0#3 ∧ b = 0#7 then .ok (.fclass d a) else .error .reservedField) ∧
    LaneWrites (.fclass d a) s d 1 fun l => BitVec.twoPow 32 (cls (src s a l))

/-- FRCP, FRSQ, FSQRT, FEXP2, FLOG2, FSIN, FCOS and FTANH complete for every state: the results for the active lanes become one outstanding write of register D under the active mask, with a lookahead window of LA words, FLAGS takes the bits the active lanes raise, no register changes yet, and nothing else but the pod's place changes. For a NaN source every special function gives the canonical NaN, with NV exactly when it is signalling; at the infinities, the zeros (a subnormal counting as one under FTZ) and, where the function has no value, at negative finite sources, each gives the result of the table of R202, with NV exactly where the table says so. At every other source FRCP, FRSQ and FSQRT give the exact reciprocal, reciprocal root or root rounded once to nearest even; FEXP2 of an integer, or of a source of magnitude 1,024 or more, and FLOG2 of a power of two likewise; FTANH of a magnitude of 64 or more is 1 with its sign and FLAGS.NX. The rounding is that of R60: in each float type the code of a nonzero number is that of the representable magnitude that the mode takes of the two around it, flushed, past the largest finite value, and with the flags OF, UF and NX as R53, R54 and R57 say. Sums, products and the fused form of finite values are their exact values so rounded, differences alike, an exact zero having the sign that R60 gives it for the operands as written, and infinities and NaN give what R195 says, a NaN or infinite addend of a finite product among them. (Model's choices: the outstanding result rests on log 22; the sign of a difference's exact zero, taken from the operands x and y themselves, on log 61, a reading; the sign of a zero product and +0 for FLOG2 of 1.0 on log 63; the other results of FEXP2, FLOG2, FSIN, FCOS and FTANH on log 12.) (R52, R53, R54, R57, R60, R148, R195, R201, R202, R219, R59, R64) -/
def Obligations.SpecialFunctions : Prop :=
  (∀ (d a : BitVec 7) (la : BitVec 4) (s : State),
     let gives (i : Instr) (n : Nat) : Prop :=
       let r (l : Nat) := special n (modeFtz s) (src s a l)
       ∃ t, exec i s = .next t ∧ Outstands s t d.toNat [laneWord fun l => (r l).1] la.toNat ∧
         t = { s with pod := t.pod, ids := t.ids, team := { s.team with flags := t.team.flags } } ∧ Advances s t 1 ∧
         t.pod = { s.pod with pending := t.pod.pending, windows := t.pod.windows, pc := t.pod.pc, slot := t.pod.slot, phase := s.pod.phase.goOn, skip := 0 } ∧
         ∀ k, t.team.flags.getLsbD k = true ↔ s.team.flags.getLsbD k = true ∨ ∃ l, (activeMask s).getLsbD l = true ∧ ((r l).2).getLsbD k = true
     gives (.frcp d a la) 0 ∧ gives (.frsq d a la) 1 ∧ gives (.fsqrt d a la) 2 ∧ gives (.fexp2 d a la) 3 ∧
     gives (.flog2 d a la) 4 ∧ gives (.fsin d a la) 5 ∧ gives (.fcos d a la) 6 ∧ gives (.ftanh d a la) 7) ∧
  (∀ (ftz : Bool) (w : W32),
     let m := w.toNat % 2 ^ 31
     let neg := w.getLsbD 31
     let sgn : W32 := if neg then 0x80000000#32 else 0#32
     let nv : W32 × W32 := (0x7FC00000#32, 1#32)
     let inf : W32 := 0x7F800000#32
     let c : RCtx := ⟨.rne, 0#32, false, ftz⟩
     let r (n : Nat) : Nat × W32 := ((special n ftz w).1.toNat, (special n ftz w).2)
     let x : ℝ := (tyF32.mag m : ℝ)
     let y : ℝ := if neg then -x else x
     (0x7F800000 < m → ∀ n < 8, special n ftz w = (0x7FC00000#32, if m < 0x7FC00000 then 1#32 else 0#32)) ∧
     (m = 0x7F800000 → special 0 ftz w = (sgn, 0#32) ∧ special 1 ftz w = (if neg then nv else (0#32, 0#32)) ∧
       special 2 ftz w = (if neg then nv else (inf, 0#32)) ∧ special 3 ftz w = (if neg then 0#32 else inf, 0#32) ∧
       special 4 ftz w = (if neg then nv else (inf, 0#32)) ∧ special 5 ftz w = nv ∧ special 6 ftz w = nv ∧
       special 7 ftz w = (sgn ||| 0x3F800000#32, 0#32)) ∧
     (m = 0 ∨ (ftz = true ∧ m < 0x00800000) → special 0 ftz w = (sgn ||| inf, 0#32) ∧ special 1 ftz w = (sgn ||| inf, 0#32) ∧
       special 2 ftz w = (sgn, 0#32) ∧ special 3 ftz w = (0x3F800000#32, 0#32) ∧ special 4 ftz w = (0xFF800000#32, 0#32) ∧
       special 5 ftz w = (sgn, 0#32) ∧ special 6 ftz w = (0x3F800000#32, 0#32) ∧ special 7 ftz w = (sgn, 0#32)) ∧
     (m < 0x7F800000 → 0 < m → (ftz = true → 0x00800000 ≤ m) →
       (neg = true → special 1 ftz w = nv ∧ special 2 ftz w = nv ∧ special 4 ftz w = nv) ∧
       RoundsTo tyF32 c neg (1 / x) (r 0) ∧
       (neg = false → RoundsTo tyF32 c false (1 / Real.sqrt x) (r 1) ∧ RoundsTo tyF32 c false (Real.sqrt x) (r 2)) ∧
       ((∃ k : Int, y = k) ∨ 1024 ≤ x → RoundsTo tyF32 c false ((2 : ℝ) ^ y) (r 3)) ∧
       (∀ k : Int, neg = false → x = (2 : ℝ) ^ k →
         (k = 0 → r 4 = (0, 0#32)) ∧ (k ≠ 0 → RoundsTo tyF32 c (decide (k < 0)) |(k : ℝ)| (r 4))) ∧
       (64 ≤ x → special 7 ftz w = (sgn ||| 0x3F800000#32, 8#32)))) ∧
  (∀ (t : FTy) (c : RCtx), t.known →
     let sgn (b : Bool) : Nat := if b then t.signAt else 0
     let inf : Nat := (2 ^ t.eb - 1) * 2 ^ t.mb
     let nv (b : Bool) : W32 := if b then 1#32 else 0#32
     (∀ (neg : Bool) (n d : Nat) (e : Int), 0 < n → 0 < d → RoundsTo t c neg ((n : ℝ) / d * (2 : ℝ) ^ e) (roundTo t c neg n d e)) ∧
     (∀ code < 2 * t.signAt,
       let m := code % t.signAt
       let neg := decide (t.signAt ≤ code)
       (m ≤ t.top → ∃ n e, t.decode code = .num neg n e ∧ numberOf false n e = t.mag m) ∧
       (t.top < m → t.decode code = if m = inf ∧ t ≠ tyE4M3 then .inf neg else .nan (decide ((t = tyF32 ∨ t = tyF16 ∨ t = tyBF16) ∧ m < inf + 2 ^ (t.mb - 1))))) ∧
     (∀ (p q : Bool) (m n : Nat) (e f : Int),
       let sum := numberOf p m e + numberOf q n f
       let prod := numberOf p m e * numberOf q n f
       (sum ≠ 0 → RoundsTo t c (decide (sum < 0)) |(sum : ℝ)| (addVal t c (.num p m e) (.num q n f))) ∧
       (sum = 0 → addVal t c (.num p m e) (.num q n f) = (sgn (if m = 0 ∧ n = 0 ∧ p = q then p else decide (c.mode = .rdn)), 0#32)) ∧
       (sum = 0 → subVal t c (.num p m e) (.num (!q) n f) = (sgn (if m = 0 ∧ n = 0 ∧ p ≠ q then p else decide (c.mode = .rdn)), 0#32)) ∧
       (sum ≠ 0 → subVal t c (.num p m e) (.num (!q) n f) = addVal t c (.num p m e) (.num q n f)) ∧
       (prod ≠ 0 → RoundsTo t c (p != q) |(prod : ℝ)| (mulVal t c (.num p m e) (.num q n f))) ∧
       (prod = 0 → mulVal t c (.num p m e) (.num q n f) = (sgn (p != q), 0#32)) ∧
       (∀ g : Bool, fmaVal t c (.num p m e) (.num q n f) (.inf g) = (sgn g + inf, 0#32) ∧ fmaVal t c (.num p m e) (.num q n f) (.nan g) = (t.nan, nv g)) ∧
       ∀ (g : Bool) (k : Nat) (h : Int),
         let all := prod + numberOf g k h
         (all ≠ 0 → RoundsTo t c (decide (all < 0)) |(all : ℝ)| (fmaVal t c (.num p m e) (.num q n f) (.num g k h))) ∧
         (all = 0 → fmaVal t c (.num p m e) (.num q n f) (.num g k h) =
           (sgn (if prod = 0 ∧ (p != q) = g then g else decide (c.mode = .rdn)), 0#32))) ∧
     (∀ (x y z : Val) (p q : Bool) (m : Nat) (e : Int),
       (x.isNan = true ∨ y.isNan = true → addVal t c x y = (t.nan, nv (x.isSnan || y.isSnan)) ∧ mulVal t c x y = (t.nan, nv (x.isSnan || y.isSnan)) ∧
         fmaVal t c x y z = (t.nan, nv (x.isSnan || y.isSnan || z.isSnan))) ∧
       (x.isNan = true ∨ y.isNan = true → subVal t c x y = (t.nan, nv (x.isSnan || y.isSnan))) ∧
       subVal t c (.inf p) (.inf q) = (if p = q then (t.nan, 1#32) else (sgn p + inf, 0#32)) ∧
       subVal t c (.inf p) (.num q m e) = (sgn p + inf, 0#32) ∧ subVal t c (.num q m e) (.inf p) = (sgn (!p) + inf, 0#32) ∧
       addVal t c (.inf p) (.inf q) = (if p = q then (sgn p + inf, 0#32) else (t.nan, 1#32)) ∧
       addVal t c (.inf p) (.num q m e) = (sgn p + inf, 0#32) ∧ addVal t c (.num q m e) (.inf p) = (sgn p + inf, 0#32) ∧
       mulVal t c (.inf p) (.inf q) = (sgn (p != q) + inf, 0#32) ∧
       mulVal t c (.inf p) (.num q m e) = (if m = 0 then (t.nan, 1#32) else (sgn (p != q) + inf, 0#32)) ∧
       mulVal t c (.num q m e) (.inf p) = (if m = 0 then (t.nan, 1#32) else (sgn (q != p) + inf, 0#32)) ∧
       fmaVal t c (.inf p) (.num q 0 e) z = (t.nan, 1#32) ∧ fmaVal t c (.num q 0 e) (.inf p) z = (t.nan, 1#32) ∧
       fmaVal t c (.inf p) (.inf q) z = addVal t c (.inf (p != q)) z ∧
       (m ≠ 0 → fmaVal t c (.inf p) (.num q m e) z = addVal t c (.inf (p != q)) z ∧ fmaVal t c (.num q m e) (.inf p) z = addVal t c (.inf (q != p)) z))) ∧
  (∀ x y : W32,
     let c : RCtx := ⟨.rne, 0#32, false, false⟩
     let half (k : Nat) : Nat := (addVal tyBF16 c (tyBF16.decode (x.extractLsb' (16 * k) 16).toNat) (tyBF16.decode (y.extractLsb' (16 * k) 16).toNat)).1
     addFWord false x y = BitVec.ofNat 32 (addVal tyF32 c (tyF32.decode x.toNat) (tyF32.decode y.toNat)).1 ∧
     addFWord true x y = BitVec.ofNat 16 (half 1) ++ BitVec.ofNat 16 (half 0))

/-- Each CVT that does not round stochastically completes for every state: bit i of register r of the destination group of an active lane is bit 32 r + i of the string of its converted elements, or with PK = 0 of its one element, extended with its sign for I8 and I16; the flags its elements raise are set, and nothing else changes. A float element converts to a float as NaN, infinity and rounding (R57, R60) say; to an integer by rounding to an integer by the mode and clamping to the type, with NV for NaN and where the clamp changes it, and NX where the rounding does; an integer converts to a float by one rounding of its value, and to an integer by wrapping, or with saturation by clamping with ISAT. SCLX writes to each active lane the scale of the active lanes' block: 0xFF with NV where an element is no number, 0 where all are zero, and otherwise the floor of the logarithm of the largest magnitude less Emax plus 127, from 0 to 254. A CVT that rounds stochastically completes where the descriptor that SRSEL names is valid, with one word of Philox for each element, and stops with TENSOR-DESCRIPTOR where it is not. LSUPD writes LSCALE and its scalar with the exponent, lowered on an overflow or raised after INTERVAL clean updates within its bounds, the count of clean updates and the bits that say which bound holds it, and posts the warning on first meeting a bound. (Model's choice: where no interval ends it, the count of clean updates wraps in its field, log 32.) (R204, R205, R206, R207, R208, R209, R210, R57, R64, R74, R211, R350) -/
def Obligations.Conversions : Prop :=
  ∀ (f t q : BitVec 3) (k : BitVec 1) (d a : BitVec 7) (s : State),
    let mode : RMode := if f = 0#3 then (if modeRm s = 6 then .rne else rmodeOf (modeRm s)) else rmodeOf f.toNat
    let T : FTy := fltTy t.toNat
    let ieee : Prop := T = tyF32 ∨ T = tyF16 ∨ T = tyBF16
    let source (x : Nat) : Val := (fltTy q.toNat).decode (if modeFtz s then (fltTy q.toNat).flush x else x)
    let result (u : State) (fs fd : Nat) (signed : Bool) (rel : Nat → Nat → Nat → Nat × W32 → Prop) : Prop :=
      let n := cvtCount fs fd k
      let elem (l j : Nat) : Nat := (BitVec.ofFnLE fun i : Fin fs => (srcN s (a.toNat + (fs * j + i.val) / 32) l).getLsbD ((fs * j + i.val) % 32)).toNat
      ∃ e : Nat → Nat → Nat × W32, (∀ l j, (activeMask s).getLsbD l = true → j < n → rel l j (elem l j) (e l j)) ∧
        LaneForm s u d.toNat (cvtRegs fd n k) ∧ Advances s u 1 ∧
        (∀ l r, (activeMask s).getLsbD l = true → r < cvtRegs fd n k → ∀ i < 32, (u.pod.lane (d.toNat + r) l).getLsbD i =
          let b := 32 * r + i
          if k = 1#1 then decide (b / fd < n) && (e l (b / fd)).1.testBit (b % fd)
          else if b < fd then (e l 0).1.testBit b else signed && decide (fd < 32) && (e l 0).1.testBit (fd - 1)) ∧
        ∀ b, u.team.flags.getLsbD b = true ↔ s.team.flags.getLsbD b = true ∨ ∃ l, (activeMask s).getLsbD l = true ∧ ∃ j < n, ((e l j).2).getLsbD b = true
    let gives (i : Instr) (fs fd : Nat) (signed : Bool) (rel : Nat → Nat × W32 → Prop) : Prop :=
      i.wf = true → ∃ u, exec i s = .next u ∧ result u fs fd signed fun _ _ => rel
    let toFloat (c : RCtx) (x : Nat) (r : Nat × W32) : Prop :=
      let sgn (b : Bool) : Nat := if b then T.signAt else 0
      (∀ g, source x = .nan g → r = (if ieee ∨ T = tyE4M3 ∨ T = tyE5M2 then T.nan else 0, if g = true ∨ ¬(ieee ∨ T = tyE4M3 ∨ T = tyE5M2) then 1#32 else 0#32)) ∧
      (∀ g, source x = .inf g → r = if ieee ∨ (T = tyE5M2 ∧ c.satf8 = false) then (sgn g + (2 ^ T.eb - 1) * 2 ^ T.mb, 0#32)
        else if T = tyE4M3 ∧ c.satf8 = false then (0x7F, 0#32) else (sgn g + T.top, 2#32)) ∧
      ∀ g m e, source x = .num g m e → (m = 0 → r = (sgn g, 0#32)) ∧ (m ≠ 0 → RoundsTo T c g ((m : ℝ) * (2 : ℝ) ^ e) r)
    let bounds (sg : Bool) (n : Nat) : Int × Int := if sg then (-(2 ^ (n - 1)), 2 ^ (n - 1) - 1) else (0, 2 ^ n - 1)
    let clamp (sg : Bool) (n : Nat) (z : Int) : Int := max (bounds sg n).1 (min z (bounds sg n).2)
    let code (n : Nat) (z : Int) : Nat := (z % 2 ^ n).toNat
    let whole (sg : Bool) (n x : Nat) : Int := if sg = true ∧ 2 ^ (n - 1) ≤ x then (x : Int) - 2 ^ n else x
    let toInt (sg : Bool) (n x : Nat) (r : Nat × W32) : Prop :=
      (∀ g, source x = .nan g → r = (0, 1#32)) ∧
      (∀ g, source x = .inf g → r = (code n (if g then (bounds sg n).1 else (bounds sg n).2), 1#32)) ∧
      ∀ g m e i z, source x = .num g m e → ((i : Nat) : ℝ) ≤ (m : ℝ) * (2 : ℝ) ^ e → (m : ℝ) * (2 : ℝ) ^ e < (i : ℝ) + 1 →
        RoundsAt ⟨mode, 0#32, false, false⟩ g i ((m : ℝ) * (2 : ℝ) ^ e - i) z →
        let y : Int := if g then -(z : Int) else z
        r.1 = code n (clamp sg n y) ∧ (clamp sg n y ≠ y → r.2 = 1#32) ∧
        (clamp sg n y = y → ((m : ℝ) * (2 : ℝ) ^ e = i → r.2 = 0#32) ∧ ((m : ℝ) * (2 : ℝ) ^ e ≠ i → r.2 = 8#32))
    let sr := cvtReadsD f t q && (f == 6#3 || modeRm s == 6)
    let sel := (srcPod s).srsel
    let tid := (sel.extractLsb' 4 12).toNat
    let draw (l j : Nat) : W32 := philox ((srcCtx s).srkey.getD (sel.toNat % 16) 0#32) tid ((src s d l).toNat + j) (srcCtx s).srstep 1
    (sr = false → gives (.cvtFloatToFloat f d a t q k) (fltWidth q) (fltWidth t) false (toFloat ⟨mode, 0#32, modeSatf8 s, modeFtz s⟩)) ∧
    gives (.cvtFloatToInteger f d a t q k) (fltWidth q) (intWidth t) (intSigned t) (toInt (intSigned t) (intWidth t)) ∧
    gives (.cvtIntegerToFloat f d a t q k) (intWidth q) (fltWidth t) false
      (fun x r => let z := whole (intSigned q) (intWidth q) x
        (z = 0 → r = (0, 0#32)) ∧ (z ≠ 0 → RoundsTo T ⟨mode, 0#32, modeSatf8 s, modeFtz s⟩ (decide (z < 0)) |(z : ℝ)| r)) ∧
    gives (.cvtIntegerToInteger f d a t q k) (intWidth q) (intWidth t) (intSigned t)
      (fun x r => let z := whole (intSigned q) (intWidth q) x
        r = if f = 1#3 then (code (intWidth t) (clamp (intSigned t) (intWidth t) z), if clamp (intSigned t) (intWidth t) z = z then 0#32 else 16#32)
          else (code (intWidth t) z, 0#32)) ∧
    (sr = true → (Instr.cvtFloatToFloat f d a t q k).wf = true → descValid (descOf (srcCtx s) tid) = true →
      ∃ u, result u (fltWidth q) (fltWidth t) false (fun l j => toFloat ⟨.sr, draw l j, modeSatf8 s, modeFtz s⟩) ∧
        exec (.cvtFloatToFloat f d a t q k) s = .next (if activeMask s = 0#4 then u
          else performSrStep u (podSite s false) tid (srcCtx s).srstep s.team.handle (.grid (((s.gridOf s.team.handle).map (·.uid)).getD 0)))) ∧
    (sr = true → descValid (descOf (srcCtx s) tid) = false →
      exec (.cvtFloatToFloat f d a t q k) s = .next (takeTrap s { code := .tensorDescriptor, info0 := BitVec.ofNat 32 tid })) ∧
    (∃ u, exec (.sclx d a t) s = .next u ∧ LaneForm s u d.toNat 1 ∧ Advances s u 1 ∧
      let mag (l i : Nat) : Nat :=
        let y := (srcN s (a.toNat + i) l).toNat % 2 ^ 31
        if modeFtz s = true ∧ y < 0x00800000 then 0 else y
      let emax : Int := if t = 3#3 then 8 else if t = 4#3 then 15 else if t = 5#3 then 4 else 2
      let log (m : Nat) : Int := if 0x00800000 ≤ m then ((m / 2 ^ 23 : Nat) : Int) - 127 else (Nat.log2 m : Int) - 149
      let bad : Prop := ∃ l i, (activeMask s).getLsbD l = true ∧ i < 8 ∧ 0x7F800000 ≤ mag l i
      (bad → u.team.flags = s.team.flags ||| 1#32 ∧ ∀ l, (activeMask s).getLsbD l = true → u.pod.lane d.toNat l = 0xFF#32) ∧
      (¬bad → u.team.flags = s.team.flags ∧ ∀ m, (∃ l i, (activeMask s).getLsbD l = true ∧ i < 8 ∧ mag l i = m) →
        (∀ l i, (activeMask s).getLsbD l = true → i < 8 → mag l i ≤ m) → ∀ l, (activeMask s).getLsbD l = true →
          u.pod.lane d.toNat l = if m = 0 then 0#32 else BitVec.ofInt 32 (max 0 (min (log m - emax + 127) 254)))) ∧
    ∀ z : BitVec 5,
      let ov : Prop := (srcTeam s).flags.getLsbD 0 = true ∨ (srcTeam s).flags.getLsbD 1 = true
      let lo := ((srcCtx s).lsctl.extractLsb' 0 8).toInt
      let hi := ((srcCtx s).lsctl.extractLsb' 8 8).toInt
      let every := ((srcCtx s).lsctl.extractLsb' 16 16).toNat
      let e := clampInt ((srcCtx s).lscale.extractLsb' 0 8).toInt lo hi
      let clean := ((srcCtx s).lscale.extractLsb' 8 16).toNat + 1
      let held := (srcCtx s).lscale.extractLsb' 28 2
      let sticky := (srcCtx s).lscale.extractLsb' 30 2
      let due : Prop := every ≠ 0 ∧ every ≤ clean
      let word (sticky held : BitVec 2) (clean : Nat) (x : Int) : W32 := sticky ++ (held ++ (0#4 ++ (BitVec.ofNat 16 clean ++ BitVec.ofInt 8 x)))
      let scaled (w : W32) : State := { s with ctx := { s.ctx with lscale := w } }
      let gives (t : State) (w : W32) : Prop := exec (.lsupd z) s = .next ((t.setScalar z.toNat w).advance 1)
      let warns (cause : Nat) (w : W32) : Prop := gives (postWarning (scaled w) { podSite s false with resum := false } { code := .lossScaleBound, cause := cause, info0 := w } .context) w
      (ov → lo < e → gives (scaled (word sticky 0#2 0 (e - 1))) (word sticky 0#2 0 (e - 1))) ∧
      (ov → ¬lo < e → held = 1#2 → gives (scaled (word sticky 1#2 0 e)) (word sticky 1#2 0 e)) ∧
      (ov → ¬lo < e → held ≠ 1#2 → warns 0 (word (sticky ||| 1#2) 1#2 0 e)) ∧
      (¬ov → ¬due → gives (scaled (word sticky held clean e)) (word sticky held clean e)) ∧
      (¬ov → due → e < hi → gives (scaled (word sticky 0#2 0 (e + 1))) (word sticky 0#2 0 (e + 1))) ∧
      (¬ov → due → ¬e < hi → held = 2#2 → gives (scaled (word sticky 2#2 0 e)) (word sticky 2#2 0 e)) ∧
      (¬ov → due → ¬e < hi → held ≠ 2#2 → warns 1 (word (sticky ||| 2#2) 2#2 0 e))

/-- The test of BRA holds always, when some active lane holds 1, when every active lane does (so also when none is active), or when none does. Where it fails the pod goes on with the next word; where it holds and the target is addressable the pod stands at slot 0 of it; in both cases nothing else changes. A target that cannot be addressed raises TRANSLATION at the branch. Where the pair names an addressable packet whose slot 0 holds LAND, BRX places the pod at slot 0 of it and changes nothing else; where the target is not addressable, cannot be fetched or does not start with LAND, it raises INDIRECT-TARGET with the target. (Model's choice: that ADDR of a branch out of range is 12 times the target, log 31.) (R31, R144, R260, R134, R139, R263) -/
def Obligations.Branches : Prop :=
  (∀ (p : BitVec 3) (n : BitVec 2) (o : BitVec 19) (s : State),
     let m := activeMask s
     let one (l : Nat) : Prop := (srcPred s p.toNat).getLsbD l = true
     let taken : Prop := n = 0#2 ∨ (n = 1#2 ∧ ∃ l, m.getLsbD l = true ∧ one l) ∨ (n = 2#2 ∧ ∀ l, m.getLsbD l = true → one l) ∨
       (n = 3#2 ∧ ∀ l, m.getLsbD l = true → ¬one l)
     let target : Int := (s.pod.pc.toNat : Int) + o.toInt
     (¬taken → OnlyAdvances (.bra p n o) s) ∧
     (taken → 0 ≤ target → 12 * target < 2 ^ 51 → ∃ t, exec (.bra p n o) s = .next t ∧ RegisterFrame s t ∧ t.team.flags = s.team.flags ∧
       t.pod.v = s.pod.v ∧ t.pod.p = s.pod.p ∧ t.pod.s = s.pod.s ∧ (t.pod.pc.toNat : Int) = target ∧ t.pod.slot = 0#2) ∧
     (taken → target < 0 ∨ 2 ^ 51 ≤ 12 * target →
       exec (.bra p n o) s = .next (takeTrap s { code := .translation, addr := BitVec.ofInt 64 (12 * target), info1 := 0#32 }))) ∧
  (∀ (a : BitVec 5) (s : State),
     let t := ((srcPod s).scalar (a.toNat + 1) ++ (srcPod s).scalar a.toNat).toNat
     let lands : Prop := ∃ ws, fetchPacket s t = .ok ws ∧ (wordAt ws 0 = 0x04200000#32 ∨ wordAt ws 0 = 0x84200000#32)
     (t < 2 ^ 48 → 12 * t < 2 ^ 51 → lands → ∃ u, exec (.brx a) s = .next u ∧ RegisterFrame s u ∧ u.team.flags = s.team.flags ∧
       u.pod.v = s.pod.v ∧ u.pod.p = s.pod.p ∧ u.pod.s = s.pod.s ∧ u.pod.pc.toNat = t ∧ u.pod.slot = 0#2) ∧
     (¬(t < 2 ^ 48 ∧ 12 * t < 2 ^ 51 ∧ lands) → exec (.brx a) s = .next (takeTrap s { code := .indirectTarget, addr := BitVec.ofNat 64 t })))

/-- A CALL whose test fails only advances. Taken, with an addressable target, CD below 255, SP a multiple of 16, and the 16 bytes below SP inside the pod's stack, translated for a write and outside every counter array, CALL writes the return record (the place after the call, and the new depth) to those 16 bytes and no others, subtracts 16 from SP, adds 1 to CD and enters slot 0 of the target; CALLX does so for the target of its pair where that passes the landing check. At CD = 255 each raises STACK-OVERFLOW, before anything is written. With CD above 0, SP a multiple of 16, and the 16 bytes at SP inside the pod's stack, translated for a read, outside every counter array and not poisoned, RET takes the packet and slot of the record, adds 16 to SP and subtracts 1 from CD, memory staying as it is, when RSLOT is not 3, the reserved fields are 0 and RCD is CD; any other record, and CD = 0, raises STACK-OVERFLOW. (Model's choice: a target that cannot be addressed is reported before CD = 255, log 31.) (R29, R83, R260, R261, R263, R139, R106, R262) -/
def Obligations.CallsAndReturns : Prop :=
  (∀ (p : BitVec 3) (n : BitVec 2) (o : BitVec 19) (a : BitVec 5) (s : State) (pa : Nat), MemoryOk s →
     let sp := (srcPod s).sp
     let back := s.pod.advance 1
     let record : List W32 := [back.pc.extractLsb' 0 32, BitVec.ofNat 32 (back.slot.toNat * 65536 + back.pc.toNat / 2 ^ 32), BitVec.ofNat 32 (s.pod.cd.toNat + 1), 0#32]
     let room : Prop := sp.toNat % 16 = 0 ∧ stackPlace s ((sp.toNat : Int) - 16) accWrite = .ok pa ∧ s.ctx.guards pa 16 = false
     let direct : Int := (s.pod.pc.toNat : Int) + o.toInt
     let far := ((srcPod s).scalar (a.toNat + 1) ++ (srcPod s).scalar a.toNat).toNat
     let calls (i : Instr) (target : Int) : Prop := ∃ t, exec i s = .next t ∧
       t.pod = { s.pod with pc := t.pod.pc, slot := 0#2, phase := s.pod.phase.goOn, skip := 0, sp := sp - 16#64, cd := s.pod.cd + 1#8 } ∧
       (t.pod.pc.toNat : Int) = target ∧ t = { s with pod := t.pod, mem := t.mem, lineKey := t.lineKey, dirty := t.dirty, poison := t.poison } ∧
       SameOutside s t (fun x => pa ≤ x ∧ x < pa + 16) ∧ keyedBytes t s.ctx.key pa 16 = wordsBytes record
     (branchTest s p n = false → OnlyAdvances (.call p n o) s) ∧
     (branchTest s p n = true → 0 ≤ direct → 12 * direct < 2 ^ 51 → s.pod.cd ≠ 255#8 → room → calls (.call p n o) direct) ∧
     (far < 2 ^ 48 → 12 * far < 2 ^ 51 → s.pod.cd ≠ 255#8 → landingOk s far = true → room → calls (.callx a) far) ∧
     (branchTest s p n = true → 0 ≤ direct → 12 * direct < 2 ^ 51 → s.pod.cd = 255#8 →
       exec (.call p n o) s = .next (takeTrap s { code := .stackOverflow })) ∧
     (far < 2 ^ 48 → 12 * far < 2 ^ 51 → s.pod.cd = 255#8 → exec (.callx a) s = .next (takeTrap s { code := .stackOverflow }))) ∧
  (∀ (s : State) (pa : Nat),
     let sp := (srcPod s).sp
     let e := bytesWords 4 (keyedBytes s s.ctx.key pa 16)
     let w (k : Nat) : Nat := (e.getD k 0#32).toNat
     let good : Prop := w 1 / 65536 < 3 ∧ w 2 = s.pod.cd.toNat ∧ w 3 = 0
     let place : Prop := sp.toNat % 16 = 0 ∧ stackPlace s sp.toNat accRead = .ok pa ∧ s.ctx.guards pa 16 = false ∧ poisonIn s.poison pa 16 = none
     (s.pod.cd ≠ 0#8 → place → good → ∃ t, exec .ret s = .next t ∧ t = { s with pod := t.pod } ∧
       t.pod = { s.pod with pc := t.pod.pc, slot := t.pod.slot, phase := s.pod.phase.goOn, skip := 0, sp := sp + 16#64, cd := s.pod.cd - 1#8 } ∧
       t.pod.pc.toNat = w 0 + 2 ^ 32 * (w 1 % 65536) ∧ t.pod.slot.toNat = w 1 / 65536) ∧
     (s.pod.cd ≠ 0#8 → place → ¬good → exec .ret s = .next (takeTrap s { code := .stackOverflow })) ∧
     (s.pod.cd = 0#8 → exec .ret s = .next (takeTrap s { code := .stackOverflow })))

/-- MPUSH at a depth below 7 puts the old active mask AND the predicate of every lane into the next entry and goes to it; MELSE above depth 0 gives the current entry the lanes of the entry below that it lacked; MPOP above depth 0 clears the current entry and goes to the one below. Every other entry stays, and nothing else but the place changes. At depth 7 MPUSH, and at depth 0 MELSE and MPOP, raise STACK-OVERFLOW. (R27, R28, R265) -/
def Obligations.MaskStack : Prop :=
  ∀ (f : BitVec 3) (s : State),
    let md := (srcPod s).md.toNat
    let entry (w : W32) (k : Nat) : Mask := w.extractLsb' (4 * k) 4
    let m (k : Nat) : Mask := entry (srcPod s).pw k
    let gives (i : Instr) (k : Nat) (new : Mask) (depth : Nat) : Prop := ∃ t, exec i s = .next t ∧ t = { s with pod := t.pod } ∧ Advances s t 1 ∧
      t.pod = { s.pod with pw := t.pod.pw, md := BitVec.ofNat 3 depth, pc := t.pod.pc, slot := t.pod.slot, phase := s.pod.phase.goOn, skip := 0 } ∧
      entry t.pod.pw k = new ∧ ∀ j < 8, j ≠ k → entry t.pod.pw j = m j
    (md < 7 → gives (.mpush f) (md + 1) (m md &&& srcPred s f.toNat) (md + 1)) ∧
    (0 < md → s.pod.md = (srcPod s).md → gives .melse md (m (md - 1) &&& ~~~(m md)) md) ∧
    (0 < md → gives .mpop md 0#4 (md - 1)) ∧
    (md = 7 → exec (.mpush f) s = .next (takeTrap s { code := .stackOverflow })) ∧
    (md = 0 → exec .melse s = .next (takeTrap s { code := .stackOverflow }) ∧ exec .mpop s = .next (takeTrap s { code := .stackOverflow }))

/-- NOP, LAND, PREF, the three FENCE forms, SLEEP #0, and TKFENCE when no update of the pod is left to apply, complete and change nothing but where the pod stands. REJOIN, YIELD and SLEEP complete, the pod standing at the next word: held since this clock, last in issue order, or asleep until n clocks have passed. EXIT ends the pod and discards its outstanding writes, and completes the team's barrier instance where every pod left has arrived at it. BAR counts the pod as arrived at its next instance: where the team has completed that instance, or this arrival completes it, the pod goes on with it done, and otherwise it waits. TRAP and BRK complete and then stop the pod after themselves with their n, packet and slot; a pool marker raises POOL-EXECUTION. Memory stays as it was except where a fault is posted. (Model's choices: that the FENCE forms change nothing, log 20; that a REJOIN hold ends when the environment says so, log 44.) (R139, R217, R229, R231, R265, R266, R34, R41, R44, R232, R267) -/
def Obligations.SchedulingForms : Prop :=
  (∀ (o : BitVec 6) (a : BitVec 7) (z : BitVec 5) (s : State),
     OnlyAdvances .nop s ∧ OnlyAdvances .land s ∧ OnlyAdvances (.pref o a) s ∧ OnlyAdvances (.fenceAcq z) s ∧ OnlyAdvances (.fenceRel z) s ∧
     OnlyAdvances (.fenceAr z) s ∧ OnlyAdvances (.sleep 0#17) s ∧ (updatesLeft s = false → OnlyAdvances (.tkfence z) s)) ∧
  (∀ (i : BitVec 17) (n : BitVec 24) (s : State),
     let after := (s.pod.advance 1)
     let raised (c : Trap) : Stop := { code := c, info0 := BitVec.ofNat 32 i.toNat, info1 := s.pod.pc.extractLsb' 0 32, info2 := BitVec.ofNat 32 (s.pod.slot.toNat * 2 ^ 30 + s.pod.pc.toNat / 2 ^ 32), after := true }
     let here : Pod := { s.pod with arrivals := max s.pod.arrivals (s.pod.barsDone + 1) }
     let gone : Pod := { after with phase := .ended, pending := [], windows := [] }
     let whole (q : Pod) : Prop :=
       let pods := replaceIf s.team.pods (·.index == s.pod.index) fun _ => q
       (∃ p ∈ pods, p.phase ≠ .ended) ∧ ∀ p ∈ pods, p.phase ≠ .ended → s.team.bars < p.arrivals
     let counted (n : Nat) : Team := { s.team with bars := n }
     let bars := s.team.bars
     exec .rejoin s = .next { s with pod := { after with phase := .waiting .rejoin s.clock, heldAt := some (s.pod.pc, s.pod.slot, s.pod.cd, s.pod.md) } } ∧
     exec .yield s = .next { s with pod := { after with lastIssue := s.tick + 1 } } ∧
     (i ≠ 0#17 → exec (.sleep i) s = .next { s with pod := { after with phase := .asleep (s.clock + i.toNat) } }) ∧
     ((∀ k, s.cur ≠ .sprout k) → (whole gone → exec .exit s = .next { s with pod := gone, team := counted (bars + 1) }) ∧
       (¬whole gone → exec .exit s = .next { s with pod := gone })) ∧
     (whole here → s.pod.barsDone ≤ bars → exec .bar s = .next { s with team := counted (bars + 1), pod := { here.advance 1 with barsDone := s.pod.barsDone + 1 } }) ∧
     (¬whole here → s.pod.barsDone < bars → exec .bar s = .next { s with pod := { here.advance 1 with barsDone := s.pod.barsDone + 1 } }) ∧
     (¬whole here → bars ≤ s.pod.barsDone → exec .bar s = .next (markWait { s with pod := here } .bar)) ∧
     exec (.trap i) s = .next (takeTrap (s.advance 1) (raised .softwareTrap)) ∧
     exec (.brk i) s = .next (takeTrap (s.advance 1) (raised .breakpoint)) ∧
     exec (.poolMarker n) s = .next (takeTrap s { code := .poolExecution }))

/-- SYSRD writes the named register's value to the active lanes of a lane register or to a scalar, LANE being the only name whose value differs between lanes, completes for every state and changes nothing else; the values of the names are those of the table. CNTRD writes the low 32 bits of the counter of the pod's core to a scalar and its high 16 bits, with the overflow bit in bit 31, to the next, and changes nothing else. (R268, R269, R271, R272, R21, R26) -/
def Obligations.SystemReads : Prop :=
  ∀ (d b : BitVec 7) (x : BitVec 5) (n : BitVec 2) (l : Nat) (s : State),
    let c := srcCtx s
    let w (n : Nat) : W32 := BitVec.ofNat 32 n
    let count := (counterOf c.cnt s.team.core n.toNat).count
    LaneWrites (.sysrd 0#1 d b) s d 1 (sysValue s b.toNat) ∧
    ScalarWrites (.sysrd 1#1 (0#2 ++ x) b) s x 1 (sysValue s b.toNat 0) ∧
    sysValue s 0 l = (srcTeam s).mode ∧ sysValue s 1 l = (srcTeam s).flags ∧
    sysValue s 3 l ++ sysValue s 2 l = (srcPod s).sp ∧ sysValue s 4 l = c.tkctl ∧ sysValue s 5 l = c.lscale ∧ sysValue s 6 l = c.lsctl ∧
    sysValue s 7 l = (0#16 ++ (srcPod s).srsel : W32) ∧ (∀ k < 4, sysValue s (8 + k) l = c.cntsel.getD k 0#32) ∧
    sysValue s 32 l = w l ∧ sysValue s 33 l = w (srcPod s).index ∧ sysValue s 34 l = w (srcTeam s).number ∧ sysValue s 35 l = (srcTeam s).handle ∧
    sysValue s 36 l = w (srcTeam s).core ∧ sysValue s 37 l = w ((srcTeam s).core / 4) ∧ sysValue s 38 l = w ((srcTeam s).core / 144) ∧
    sysValue s 39 l = w (srcPod s).cd.toNat ∧ sysValue s 41 l ++ sysValue s 40 l = cycleOf s ∧
    sysValue s 42 l = w (srcTeam s).size ∧ sysValue s 43 l = w s.grid.teams ∧ sysValue s 44 l = c.srstep ∧ sysValue s 45 l = (srcPod s).pw ∧
    sysValue s 46 l = w (srcPod s).md.toNat ∧
    (∀ k < 4, sysValue s (47 + k) l = ((srcTeam s).chans.getD k Channel.reset).seq ++ ((srcTeam s).chans.getD k Channel.reset).cnt) ∧
    sysValue s 51 l = w s.grid.depth ∧ sysValue s 52 l = w c.owner ∧
    (x.toNat % 2 = 0 → ∃ t, exec (.cntrd x n) s = .next t ∧ ScalarForm s t x.toNat 2 ∧ Advances s t 1 ∧
      t.pod.scalar x.toNat = w count.toNat ∧
      t.pod.scalar (x.toNat + 1) = w (count.toNat / 2 ^ 32 + if (c.cntsel.getD n.toNat 0#32).getLsbD 30 then 2 ^ 31 else 0))

/-- SYSWR of MODE keeps its defined fields, and raises RESERVED-FIELD for RM of 0 or 7; of FLAGS clears the bits written 1; of SPLO and SPHI replaces half of SP, where its low or high reserved bits are 0; of TKCTL keeps its defined fields where GAP is not 1 to 9; of LSCALE keeps HELD and clears the sticky bits written 1; of LSCTL takes bounds in order and at least -126; of SRSEL takes 16 bits; of CNTSEL takes a known event. A select register of cores or of slices then holds EN, ZERO, IE and EVENT as written, OVF cleared where 1 was written, and 0 in its reserved bits; under ZERO its counts are 0; the other select registers and their counters stay. (Model's choices: each counter's own overflow bit, and the part of an event that another EVENT drops, log 25.) SRKEY and SRSTEP write their register. Each completes and changes nothing else. (R4, R62, R63, R73, R222, R269, R270, R273, R369) -/
def Obligations.SystemWrites : Prop :=
  ∀ (n a : BitVec 5) (k : BitVec 4) (s : State),
    let w := (srcPod s).scalar a.toNat
    let next (i : Instr) (t : State) : Prop := exec i s = .next (t.advance 1)
    let takes (ok : Prop) (t : State) : Prop := (ok → next (.syswr n a) t) ∧ (¬ok → exec (.syswr n a) s = .next (takeTrap s { code := .reservedField }))
    let ctx (c : Context) : State := { s with ctx := c }
    let rm := w.toNat % 8
    let lo := (w.extractLsb' 0 8).toInt
    let hi := (w.extractLsb' 8 8).toInt
    (n = 0#5 → takes (rm ≠ 0 ∧ rm ≠ 7) { s with team := { s.team with mode := w &&& 0xC7#32 } }) ∧
    (n = 1#5 → next (.syswr n a) { s with team := { s.team with flags := s.team.flags &&& ~~~w } }) ∧
    (n = 2#5 → takes (w.toNat % 16 = 0) { s with pod := { s.pod with sp := s.pod.sp.extractLsb' 32 32 ++ w } }) ∧
    (n = 3#5 → takes (w.toNat < 2 ^ 19) { s with pod := { s.pod with sp := w ++ s.pod.sp.extractLsb' 0 32 } }) ∧
    (n = 4#5 → takes (¬(1 ≤ w.toNat % 32 ∧ w.toNat % 32 ≤ 9)) (ctx { s.ctx with tkctl := w &&& 0x8000001F#32 })) ∧
    (n = 5#5 → next (.syswr n a)
      (ctx { s.ctx with lscale := (w &&& 0x00FFFFFF#32) ||| (s.ctx.lscale &&& 0x30000000#32) ||| (s.ctx.lscale &&& ~~~w &&& 0xC0000000#32) })) ∧
    (n = 6#5 → takes (lo ≤ hi ∧ -126 ≤ lo) (ctx { s.ctx with lsctl := w })) ∧
    (n = 7#5 → next (.syswr n a) { s with pod := { s.pod with srsel := w.extractLsb' 0 16 } }) ∧
    (8 ≤ n.toNat → n.toNat < 12 → takes (w.toNat % 256 ≤ 13) (ctx (s.ctx.writeSel 0 (n.toNat - 8) w))) ∧
    (∀ (c : Context) (kind m : Nat) (v : W32), m < 4 → kind < 2 →
      let sels (c : Context) (i : Nat) : W32 := if kind = 0 then c.cntsel.getD i 0#32 else c.slsel.getD i 0#32
      let counts (c : Context) : List Counter := if kind = 0 then c.cnt else c.slcnt
      let old := sels c m
      let u := c.writeSel kind m v
      let r := selWritten old v
      sels u m = r ∧ (∀ i < 4, i ≠ m → sels u i = sels c i) ∧
      r.getLsbD 31 = v.getLsbD 31 ∧ r.getLsbD 30 = (old.getLsbD 30 && !v.getLsbD 30) ∧ r.getLsbD 29 = v.getLsbD 29 ∧ r.getLsbD 28 = v.getLsbD 28 ∧
      r.toNat / 2 ^ 8 % 2 ^ 20 = 0 ∧ r.toNat % 256 = v.toNat % 256 ∧
      u = (if kind = 0 then { c with cntsel := u.cntsel, cnt := u.cnt } else { c with slsel := u.slsel, slcnt := u.slcnt }) ∧
      (((counts c).map fun x => (x.unit, x.n)).Nodup → ∀ unit i, let x := counterOf (counts c) unit i
        counterOf (counts u) unit i = if i = m then { x with ovf := x.ovf && !v.getLsbD 30, count := if v.getLsbD 29 = true then 0#48 else x.count, frac := if v.getLsbD 29 = true ∨ v.toNat % 256 ≠ old.toNat % 256 then 0 else x.frac } else x)) ∧
    next (.srkey k a) (ctx { s.ctx with srkey := s.ctx.srkey.setIfInBounds k.toNat w }) ∧
    next (.srstep a) (ctx { s.ctx with srstep := w })

/-- Where the accesses of the active lanes pass the checks of R213, a load completes: its destination registers are outstanding for the active lanes with the bytes that each lane's place holds, zero-extended, low bytes in the lowest register, behind a window of LA words, while no register and no byte of memory has changed. LDG addresses by a lane's register pair and OFS units, LDT and LDD by its register, LDK by SP with one value's width from lane to lane. Where a check fails, the load takes that fault. (No counter of the owner counts line requests, or for LDT bank conflicts. Model's choice: that the bytes are those at issue and the write is outstanding, log 22.) (R145, R148, R212, R213, R214, R216, R83, R30, R9) -/
def Obligations.Loads : Prop :=
  ∀ (o : BitVec 6) (k : BitVec 10) (d a : BitVec 7) (w : BitVec 3) (la : BitVec 4) (s : State),
    let lanes := [0, 1, 2, 3].filter fun l => (activeMask s).getLsbD l
    let pair (l : Nat) : Int := ((srcN s a.toNat l).toNat + 2 ^ 32 * (srcN s (a.toNat + 1) l).toNat : Nat)
    let one (l : Nat) : Int := (srcN s a.toNat l).toNat
    let loads (i : Instr) (sp : Space) (addr : Nat → Int) (w n : Nat) : Prop :=
      let checks := laneChecks s sp accRead w true true (lanes.map fun l => (l, addr l))
      (∀ ps, checks = .ok ps → (sp = .g ∨ sp = .k → Uncounted s 0 7) → (sp = .t → Uncounted s 0 6) → ∃ t, exec i s = .next t ∧ Advances s t 1 ∧
        Outstands s t d.toNat (laneWords (ps.map fun x => (x.1, bytesNat (keyedBytes s s.ctx.key x.2 w))) n) la.toNat ∧
        t = { s with pod := t.pod, ids := t.ids, grid := { s.grid with bytes := t.grid.bytes } } ∧
        t.pod = { s.pod with pending := t.pod.pending, windows := t.pod.windows, pc := t.pod.pc, slot := t.pod.slot, phase := s.pod.phase.goOn, skip := 0 }) ∧
      ∀ x, checks = .error x → exec i s = .next (takeTrap s x)
    loads (.ldgN8 o d a la) .g (fun l => pair l + o.toInt) 1 1 ∧ loads (.ldgN16 o d a la) .g (fun l => pair l + o.toInt * 2) 2 1 ∧
    loads (.ldgI32 o d a la) .g (fun l => pair l + o.toInt * 4) 4 1 ∧ loads (.ldgI64 o d a la) .g (fun l => pair l + o.toInt * 8) 8 2 ∧
    loads (.ldgB128 o d a la) .g (fun l => pair l + o.toInt * 16) 16 4 ∧
    loads (.ldtN8 o d a la) .t (fun l => one l + o.toInt) 1 1 ∧ loads (.ldtN16 o d a la) .t (fun l => one l + o.toInt * 2) 2 1 ∧
    loads (.ldtI32 o d a la) .t (fun l => one l + o.toInt * 4) 4 1 ∧ loads (.ldtI64 o d a la) .t (fun l => one l + o.toInt * 8) 8 2 ∧
    loads (.ldtB128 o d a la) .t (fun l => one l + o.toInt * 16) 16 4 ∧
    loads (.lddN8 o d a la) .d (fun l => one l + o.toInt) 1 1 ∧ loads (.lddN16 o d a la) .d (fun l => one l + o.toInt * 2) 2 1 ∧
    loads (.lddI32 o d a la) .d (fun l => one l + o.toInt * 4) 4 1 ∧ loads (.lddI64 o d a la) .d (fun l => one l + o.toInt * 8) 8 2 ∧
    loads (.lddB128 o d a la) .d (fun l => one l + o.toInt * 16) 16 4 ∧
    (w.toNat ≤ 4 → loads (.ldk k d w la) .k (fun l => ((srcPod s).sp.toNat : Int) + k.toInt * (2 ^ w.toNat : Nat) + (l * 2 ^ w.toNat : Nat))
      (2 ^ w.toNat) (if w.toNat = 4 then 4 else if w.toNat = 3 then 2 else 1))

/-- Where the accesses of the active lanes pass the checks of R213, a store of 1, 2, 4, 8 or 16 bytes completes: each byte of a lane's place holds that byte of the lane's registers from D on, unless a higher lane stores it too; every byte outside the lanes' places reads as before; no register changes. Where a check fails, the store takes that fault and writes nothing. (For STT, no counter of the owner counts bank conflicts.) (R145, R212, R213, R215, R216, R111, R83, R101, R30) -/
def Obligations.Stores : Prop :=
  ∀ (o : BitVec 6) (k : BitVec 10) (d a : BitVec 7) (w : BitVec 3) (s : State), MemoryOk s → w.toNat ≤ 4 →
    let n := 2 ^ w.toNat
    let lanes := [0, 1, 2, 3].filter fun l => (activeMask s).getLsbD l
    let pair (l : Nat) : Int := ((srcN s a.toNat l).toNat + 2 ^ 32 * (srcN s (a.toNat + 1) l).toNat : Nat)
    let one (l : Nat) : Int := (srcN s a.toNat l).toNat
    let stores (i : Instr) (sp : Space) (addr : Nat → Int) : Prop :=
      let checks := laneChecks s sp accWrite n false true (lanes.map fun l => (l, addr l))
      (∀ ps, checks = .ok ps → (sp = .t → Uncounted s 0 6) → ∃ t, exec i s = .next t ∧ Advances s t 1 ∧
        t = { s with pod := t.pod, mem := t.mem, lineKey := t.lineKey, dirty := t.dirty, poison := t.poison, grid := { s.grid with bytes := t.grid.bytes } } ∧
        t.pod = { s.pod with pc := t.pod.pc, slot := t.pod.slot, phase := s.pod.phase.goOn, skip := 0 } ∧
        SameOutside s t (fun x => ∃ y ∈ ps, y.2 ≤ x ∧ x < y.2 + n) ∧
        ∀ y ∈ ps, ∀ j < n, (∀ z ∈ ps, y.1 < z.1 → y.2 + j < z.2 ∨ z.2 + n ≤ y.2 + j) →
          keyedByte t s.ctx.key (y.2 + j) = (srcN s (d.toNat + j / 4) y.1).extractLsb' (8 * (j % 4)) 8) ∧
      ∀ x, checks = .error x → exec i s = .next (takeTrap s x)
    stores (.stg o d a w) .g (fun l => pair l + o.toInt * n) ∧ stores (.stt o d a w) .t (fun l => one l + o.toInt * n) ∧
    stores (.std o d a w) .d (fun l => one l + o.toInt * n) ∧
    stores (.stk k d w) .k (fun l => ((srcPod s).sp.toNat : Int) + k.toInt * n + (l * n : Nat))

/-- A 4-byte load or store whose lowest misaligned active lane is l raises MISALIGNED with that lane's address, the lane and the kind of access, whatever the other checks would find. With every active lane aligned, a tile address outside the team's tile region raises REGION-BOUNDS, and a stack address outside the pod's stack raises STACK-OVERFLOW. For accesses of every width and space, the checks of all lanes are those of R213 in its order: alignment, range, translation and permission, the counter arrays, and poison on what is read; the first check that some lane fails decides, with its lowest failing lane, and where none fails each lane reaches its place. A virtual address that no TLB entry of the owner covers is translated by the walk of R96: three levels of entries read under the owner's key, their valid, reserved, leaf and hint bits, alignment, permission, the reserved range and the grant; one that an entry covers, through that entry or by the walk (log 7). (R213, R212, R77, R83, R348, R94, R95, R96, R98, R100, R106, R221) -/
def Obligations.AccessChecks : Prop :=
  (∀ (o : BitVec 6) (k : BitVec 10) (d a : BitVec 7) (la : BitVec 4) (s : State) (l : Nat),
     let m := activeMask s
     let pair (l : Nat) : Int := ((srcN s a.toNat l).toNat + 2 ^ 32 * (srcN s (a.toNat + 1) l).toNat : Nat) + o.toInt * 4
     let one (l : Nat) : Int := (srcN s a.toNat l).toNat + o.toInt * 4
     let top (l : Nat) : Int := (srcPod s).sp.toNat + k.toInt * 4 + (l * 4 : Nat)
     let lo : Int := s.grid.stackBase.toNat + ((s.team.number * s.team.size + s.pod.index) * s.grid.stackSize.toNat : Nat)
     let hits (x : Int) (kind : Nat) : Stop := { code := .misaligned, addr := BitVec.ofInt 64 x, info0 := BitVec.ofNat 32 l, info1 := BitVec.ofNat 32 kind }
     let first (x : Nat → Int) : Prop := m.getLsbD l = true ∧ x l % 4 ≠ 0 ∧ ∀ j < l, m.getLsbD j = true → x j % 4 = 0
     let whole (x : Nat → Int) : Prop := ∀ j, m.getLsbD j = true → x j % 4 = 0
     (first pair → exec (.ldgI32 o d a la) s = .next (takeTrap s (hits (pair l) 1)) ∧ exec (.stg o d a 2#3) s = .next (takeTrap s (hits (pair l) 2))) ∧
     (first one → exec (.ldtI32 o d a la) s = .next (takeTrap s (hits (one l) 1)) ∧ exec (.stt o d a 2#3) s = .next (takeTrap s (hits (one l) 2)) ∧
       exec (.lddI32 o d a la) s = .next (takeTrap s (hits (one l) 1)) ∧ exec (.std o d a 2#3) s = .next (takeTrap s (hits (one l) 2))) ∧
     (first top → exec (.ldk k d 2#3 la) s = .next (takeTrap s (hits (top l) 1)) ∧ exec (.stk k d 2#3) s = .next (takeTrap s (hits (top l) 2))) ∧
     (whole one → m.getLsbD l = true → one l < 0 ∨ (s.team.tileSize : Int) < one l + 4 →
       exec (.ldtI32 o d a la) s = .next (takeTrap s { code := .regionBounds }) ∧ exec (.stt o d a 2#3) s = .next (takeTrap s { code := .regionBounds })) ∧
     (whole top → m.getLsbD l = true → top l < lo ∨ lo + s.grid.stackSize.toNat < top l + 4 →
       exec (.ldk k d 2#3 la) s = .next (takeTrap s { code := .stackOverflow }) ∧ exec (.stk k d 2#3) s = .next (takeTrap s { code := .stackOverflow }))) ∧
  (∀ (s : State) (sp : Space) (kind w : Nat) (reads guarded : Bool) (addrs : List (Nat × Int)),
     let fault (c : Trap) (x : Nat × Int) : Stop := { code := c, addr := BitVec.ofInt 64 x.2, info0 := BitVec.ofNat 32 x.1, info1 := BitVec.ofNat 32 kind }
     let stack : Int := s.grid.stackBase.toNat + ((s.team.number * s.team.size + s.pod.index) * s.grid.stackSize.toNat : Nat)
     let outside (a : Int) : Bool := match sp with
       | .g => decide (a < 0 ∨ 2 ^ 51 ≤ a)
       | .t => decide (a < 0 ∨ (s.team.tileSize : Int) < a + w)
       | .d => decide (a < 0 ∨ ((s.ctx.scratch * 0x300000 : Nat) : Int) < a + w)
       | .k => decide (a < stack ∨ stack + s.grid.stackSize.toNat < a + w)
     let rangeFault (x : Nat × Int) : Stop := match sp with | .g => fault .translation x | .k => { code := .stackOverflow } | _ => { code := .regionBounds }
     let place (a : Int) : Except Stop Nat := match sp with
       | .t => .ok (2 ^ 48 + s.team.core * 0x180000 + (s.team.tileBase + a.toNat))
       | .d => .ok (2 ^ 49 + s.team.core / 144 * 0x3000000 + a.toNat)
       | .g => translate s s.ctx a.toNat kind 0
       | .k => translate s s.ctx a.toNat kind 3
     let out := laneChecks s sp kind w reads guarded addrs
     (∀ x, addrs.find? (fun (y : Nat × Int) => decide (y.2 % w ≠ 0)) = some x → out = .error (fault .misaligned x)) ∧
     ((∀ x ∈ addrs, x.2 % w = 0) →
       (∀ x, addrs.find? (fun (y : Nat × Int) => outside y.2) = some x → out = .error (rangeFault x)) ∧
       ((∀ x ∈ addrs, outside x.2 = false) →
         (∀ x e, addrs.find? (fun (y : Nat × Int) => match place y.2 with | .ok _ => false | .error _ => true) = some x → place x.2 = .error e →
           out = .error (if e.code = .translation ∨ e.code = .permission then { e with info0 := BitVec.ofNat 32 x.1 } else e)) ∧
         ∀ f : Nat × Int → Nat, (∀ x ∈ addrs, place x.2 = .ok (f x)) →
           (∀ x, guarded = true → addrs.find? (fun (y : Nat × Int) => s.ctx.guards (f y) w) = some x → out = .error (fault .permission x)) ∧
           ((guarded = true → ∀ x ∈ addrs, s.ctx.guards (f x) w = false) →
             (∀ x p, reads = true → addrs.find? (fun (y : Nat × Int) => (poisonIn s.poison (f y) w).isSome) = some x → poisonIn s.poison (f x) w = some p →
               out = .error { code := .uncorrectable, addr := BitVec.ofInt 64 (x.2 - x.2 % 64 + ((p : Int) - ((f x - f x % 64 : Nat) : Int))), info0 := BitVec.ofNat 32 sp.number }) ∧
             ((reads = true → ∀ x ∈ addrs, poisonIn s.poison (f x) w = none) → out = .ok (addrs.map fun x => (x.1, f x))))))) ∧
  (∀ (c : Context) (poison : List Nat) (pa n p : Nat),
     (c.guards pa n = true ↔ ∃ r, some r ∈ c.regions.toList ∧ ∃ i < n, ∃ j, r.pages[j]? = some ((pa + i) / 2 ^ 15) ∧
       r.cntr ≤ (r.cntr / 2 ^ 15 + j) * 2 ^ 15 + (pa + i) % 2 ^ 15 ∧ (r.cntr / 2 ^ 15 + j) * 2 ^ 15 + (pa + i) % 2 ^ 15 < r.cntr + 2 * r.ngran) ∧
     (poisonIn poison pa n = none ↔ ∀ g ∈ poison, pa + n ≤ 64 * g ∨ 64 * g + 64 ≤ pa) ∧
     (poisonIn poison pa n = some p → ∃ g ∈ poison, p = 64 * g ∧ 64 * g < pa + n ∧ pa < 64 * g + 64)) ∧
  (∀ (s : State) (c : Context) (va kind space : Nat),
     let fail (t : Trap) : Except Stop Nat := .error { code := t, addr := BitVec.ofNat 64 va, info1 := BitVec.ofNat 32 kind }
     let reserved (p : Nat) : Prop := 0x8000000000 ≤ p ∧ p < 0x800000000000
     let granted (p : Nat) : Prop := ∃ r ∈ c.grant, r.1 ≤ p / 2 ^ 27 ∧ p / 2 ^ 27 < r.1 + r.2
     let allows (x wr rd : Bool) : Prop := (kind = 0 ∧ x = true) ∨ (kind = 1 ∧ rd = true) ∨ (kind = 2 ∧ wr = true) ∨ (3 ≤ kind ∧ rd = true ∧ wr = true)
     let leaf (base size : Nat) (x wr rd : Bool) (r : Except Stop Nat) : Prop :=
       (base % size ≠ 0 → r = fail .translation) ∧ (base % size = 0 → ¬allows x wr rd → r = fail .permission) ∧
       (base % size = 0 → allows x wr rd → reserved (base + va % size) → r = fail .translation) ∧
       (base % size = 0 → allows x wr rd → ¬reserved (base + va % size) → ¬granted (base + va % size) → r = fail .permission) ∧
       (base % size = 0 → allows x wr rd → ¬reserved (base + va % size) → granted (base + va % size) → r = .ok (base + va % size))
     let at_ (t lvl : Nat) : Nat := t + 8 * (va / 2 ^ (51 - 12 * lvl) % 4096)
     let entry (t lvl : Nat) : Nat := bytesNat (keyedBytes s c.key (at_ t lvl) 8)
     let next (e : Nat) : Nat := e / 2 ^ 15 % 2 ^ 33 * 2 ^ 15
     let level (lvl t : Nat) (go : Nat → Prop) (r : Except Stop Nat) : Prop :=
       let e := entry t lvl
       let good : Prop := e.testBit 0 = true ∧ e / 2 ^ 59 = 0 ∧ e / 2 ^ 48 % 256 = 0 ∧ e / 8 % 4096 = 0 ∧ (e.testBit 2 = true → lvl = 3 ∧ e.testBit 1 = true)
       (reserved (at_ t lvl) ∨ ¬granted (at_ t lvl) → r = fail .translation) ∧
       (¬reserved (at_ t lvl) → granted (at_ t lvl) →
         (poisonIn s.poison (at_ t lvl) 8 ≠ none → r = .error { code := .uncorrectable, addr := BitVec.ofNat 64 va, info0 := BitVec.ofNat 32 space }) ∧
         (poisonIn s.poison (at_ t lvl) 8 = none →
           (¬good → r = fail .translation) ∧ (good → e.testBit 1 = false → go (next e)) ∧
           (good → e.testBit 1 = true → lvl = 1 → r = fail .translation) ∧
           (good → e.testBit 1 = true → lvl ≠ 1 → leaf (next e) (if lvl = 2 then 2 ^ 27 else 2 ^ 15) (e.testBit 58) (e.testBit 57) (e.testBit 56) r)))
     let walks (r : Except Stop Nat) : Prop :=
       level 1 (c.ptbr.toNat * 2 ^ 15) (fun t2 => level 2 t2 (fun t3 => level 3 t3 (fun _ => r = fail .translation) r) r) r
     (2 ^ 51 ≤ va → translate s c va kind space = fail .translation) ∧
     (va < 2 ^ 51 →
       ((∀ e ∈ c.tlb, va / 2 ^ 15 < e.vpage ∨ e.vpage + e.npages ≤ va / 2 ^ 15) → walks (translate s c va kind space)) ∧
       (walks (translate s c va kind space) ∨ ∃ e ∈ c.tlb, e.vpage ≤ va / 2 ^ 15 ∧ va / 2 ^ 15 < e.vpage + e.npages ∧
         leaf ((e.ppage + (va / 2 ^ 15 - e.vpage)) % 2 ^ 33 * 2 ^ 15) (2 ^ 15) (e.perms.getLsbD 2) (e.perms.getLsbD 1) (e.perms.getLsbD 0) (translate s c va kind space))))

/-- Where the accesses of the active lanes pass the checks for an atomic access, an atomic completes: lanes act in order, so that a lane finds what the lower lanes of its place left; each lane's old value is outstanding for D (two registers for W = 1 of an integer form) behind a window of LA words, each place holds what its last lane left, and every other byte reads as before. AADD wraps; AMIN and AMAX compare signed or natural values; ACAS stores the new value only where the old is as expected; AFADD adds one F32 or two BF16. Where a check fails, it takes that fault and writes nothing. (No counter of the owner counts atomics. Model's choice: that the old values are those at issue and the write is outstanding, log 22.) (R218, R219, R213, R111, R148, R127, R102) -/
def Obligations.Atomics : Prop :=
  ∀ (d a : BitVec 7) (la : BitVec 4) (w n : BitVec 1) (s : State), MemoryOk s →
    let lanes := [0, 1, 2, 3].filter fun l => (activeMask s).getLsbD l
    let addr (l : Nat) : Int := ((srcN s a.toNat l).toNat + 2 ^ 32 * (srcN s (a.toNat + 1) l).toNat : Nat)
    let b := if w = 1#1 then 8 else 4
    let low (r l : Nat) : Nat := (srcN s r l).toNat
    let arg (r l : Nat) : Nat := if w = 1#1 then low r l + 2 ^ 32 * low (r + 1) l else low r l
    let less (x y : Nat) : Bool := if n = 1#1 then decide (x < y) else decide ((BitVec.ofNat (8 * b) x).toInt < (BitVec.ofNat (8 * b) y).toInt)
    let acts (i : Instr) (w : Nat) (op : Nat → Nat → Nat) : Prop :=
      let checks := laneChecks s .g accAtomic w true true (lanes.map fun l => (l, addr l))
      (∀ ps, checks = .ok ps → Uncounted s 1 3 →
        let old (p : Nat) : Nat := bytesNat (keyedBytes s s.ctx.key p w)
        let found (y : Nat × Nat) : Nat := (ps.filter fun z => z.2 == y.2 && decide (z.1 < y.1)).foldl (fun x z => op z.1 x) (old y.2)
        ∃ t, exec i s = .next t ∧ Advances s t 1 ∧ Outstands s t d.toNat (laneWords (ps.map fun y => (y.1, found y)) (w / 4)) la.toNat ∧
          t = { s with pod := t.pod, ids := t.ids, mem := t.mem, lineKey := t.lineKey, dirty := t.dirty, poison := t.poison } ∧
          t.pod = { s.pod with pending := t.pod.pending, windows := t.pod.windows, pc := t.pod.pc, slot := t.pod.slot, phase := s.pod.phase.goOn, skip := 0 } ∧
          SameOutside s t (fun x => ∃ y ∈ ps, y.2 ≤ x ∧ x < y.2 + w) ∧
          ∀ y ∈ ps, bytesNat (keyedBytes t s.ctx.key y.2 w) = (ps.filter fun z => z.2 == y.2).foldl (fun x z => op z.1 x) (old y.2)) ∧
      ∀ x, checks = .error x → exec i s = .next (takeTrap s x)
    let r := d.toNat
    let word (k : Nat) : W32 := srcN s r k
    acts (.aadd d a la w) b (fun k x => (x + arg r k) % 2 ^ (8 * b)) ∧
    acts (.amin d a la w n) b (fun k x => if less (arg r k) x then arg r k else x) ∧
    acts (.amax d a la w n) b (fun k x => if less x (arg r k) then arg r k else x) ∧
    acts (.aand d a la w) b (fun k x => x &&& arg r k) ∧ acts (.aor d a la w) b (fun k x => x ||| arg r k) ∧
    acts (.axor d a la w) b (fun k x => x ^^^ arg r k) ∧ acts (.axch d a la w) b (fun k _ => arg r k) ∧
    (r + b / 4 < 128 → acts (.acas d a la w) b (fun k x => if x = arg r k then arg (r + b / 4) k else x)) ∧
    acts (.afadd d a la 0#1) 4 (fun k x => (addFWord false (BitVec.ofNat 32 x) (word k)).toNat) ∧
    acts (.afadd d a la 1#1) 4 (fun k x => (addFWord true (BitVec.ofNat 32 x) (word k)).toNat)

/-- Where the lines that the active lanes name pass the checks, DISCARD leaves every byte of them 0, for a reader with the pod's key, and unpoisoned, and every other byte as it was; FLUSH leaves every byte as it was and the lines clean. Both change no register. Where a check fails they take that fault. (No counter of the owner counts line writes. Model's choice: that DISCARD is checked and reported as an atomic access, log 26.) (R217, R104, R106, R213) -/
def Obligations.LineForms : Prop :=
  ∀ (o : BitVec 6) (a : BitVec 7) (s : State), MemoryOk s →
    let lanes := [0, 1, 2, 3].filter fun l => (activeMask s).getLsbD l
    let line (l : Nat) : Int := 64 * ((((srcN s a.toNat l).toNat + 2 ^ 32 * (srcN s (a.toNat + 1) l).toNat : Nat) : Int) / 64 + o.toInt)
    let kept (t : State) : Prop := t.pod = { s.pod with pc := t.pod.pc, slot := t.pod.slot, phase := s.pod.phase.goOn, skip := 0 } ∧ Advances s t 1
    let zeroes := laneChecks s .g accAtomic 64 false true (lanes.map fun l => (l, line l))
    let cleans := laneChecks s .g accRead 64 false false (lanes.map fun l => (l, line l))
    (∀ ps, zeroes = .ok ps → Uncounted s 1 7 → ∃ t, exec (.discard o a) s = .next t ∧ kept t ∧
      t = { s with pod := t.pod, mem := t.mem, lineKey := t.lineKey, dirty := t.dirty, poison := t.poison } ∧
      SameOutside s t (fun x => ∃ y ∈ ps, y.2 ≤ x ∧ x < y.2 + 64) ∧
      ∀ y ∈ ps, y.2 / 64 ∉ t.poison ∧ ∀ j < 64, keyedByte t s.ctx.key (y.2 + j) = 0#8) ∧
    (∀ ps, cleans = .ok ps → ∃ t, exec (.flush o a) s = .next t ∧ kept t ∧ t = { s with pod := t.pod, dirty := t.dirty } ∧
      ∀ k, k ∈ t.dirty ↔ k ∈ s.dirty ∧ ∀ y ∈ ps, y.2 / 64 ≠ k) ∧
    (∀ x, zeroes = .error x → exec (.discard o a) s = .next (takeTrap s x)) ∧
    (∀ x, cleans = .error x → exec (.flush o a) s = .next (takeTrap s x))

/-- With no active lane TKFADD only advances. Otherwise the lowest active lane's address names the granule: not a multiple of 64 raises MISALIGNED; an address that does not translate for an atomic access takes that fault, with its lane; one in no declared region raises TICKET-RANGE; one whose granule lies in a counter array raises PERMISSION; and an update whose ticket is t, of a granule whose counter is c and of which none is pending, is applied where t = c (each word of an active lane becomes AddF of the old word and the lane's, the counter becomes c + 1, everything else stays), is added to the pending entries where t lies 1 to 32,767 past c and the slice has an entry free (nothing else changes), waits where it has none, and raises TICKET-RANGE further past; one whose ticket is pending raises TICKET-DUPLICATE. Of the regions, the lowest one that holds the address counts. (No counter of the owner counts tickets. Model's choice, log 26: that the record of a granule in no declared region gives region and counter 0.) (R127, R219, R221, R222, R223, R224, R226, R227, R228, R348) -/
def Obligations.TicketedAdd : Prop :=
  (∀ (d a : BitVec 7) (w : BitVec 1) (s : State) (l k pa : Nat) (r : Region), MemoryOk s → s.cur ≠ .none →
    let m := activeMask s
    let i : Instr := .tkfadd d a w
    let g := (srcN s a.toNat l).toNat + 2 ^ 32 * (srcN s (a.toNat + 1) l).toNat
    let ticket := (srcN s (d.toNat + 4) l).extractLsb' 0 16
    let gran := (g - r.base) / 64
    let u : TkEntry := ⟨k, gran, BitVec.ofNat 64 g, pa, ticket, BitVec.ofFnLE fun (j : Fin 16) => m.getLsbD (j.val / 4), w == 1#1,
      (List.range 16).map (fun j => srcN s (d.toNat + j % 4) (j / 4)), s.team.id, s.pod.index, s.team.core, s.team.handle, s.clock⟩
    let c := r.counter s s.ctx.key gran
    let past := (ticket - c).toNat
    let pending (t : BitVec 16) : Prop := ∃ e ∈ s.ctx.entries, e.region = k ∧ e.granule = gran ∧ e.ticket = t
    let free : Prop := shareUsed s s.ctx.part (homeSlice pa) < 512 / max 1 s.parts
    let fault (code : Trap) : Stop := { code := code, addr := BitVec.ofNat 64 g, info0 := BitVec.ofNat 32 k, info1 := c.zeroExtend 32, info2 := ticket.zeroExtend 32 }
    let kept (t : State) : Prop := Advances s t 1 ∧ t.pod = { s.pod with pc := t.pod.pc, slot := t.pod.slot, phase := s.pod.phase.goOn, skip := 0 } ∧ OthersKept s t
    (m = 0#4 → OnlyAdvances i s) ∧
    (m.getLsbD l = true → (∀ j < l, m.getLsbD j = false) →
      (g % 64 ≠ 0 → exec i s = .next (takeTrap s { code := .misaligned, addr := BitVec.ofNat 64 g, info0 := BitVec.ofNat 32 l, info1 := 3#32 })) ∧
      (∀ e, g % 64 = 0 → translate s s.ctx g 3 0 = .error e →
        exec i s = .next (takeTrap s (if e.code = .translation ∨ e.code = .permission then { e with info0 := BitVec.ofNat 32 l } else e))) ∧
      (g % 64 = 0 → translate s s.ctx g 3 0 = .ok pa →
        (s.ctx.regionOf g = none → exec i s = .next (takeTrap s { code := .ticketRange, addr := BitVec.ofNat 64 g, info2 := ticket.zeroExtend 32 })) ∧
        (s.ctx.regionOf g = some (k, r) →
          (s.ctx.guards pa 64 = true → exec i s = .next (takeTrap s { code := .permission, addr := BitVec.ofNat 64 g, info0 := BitVec.ofNat 32 l, info1 := 3#32 })) ∧
          (s.ctx.guards pa 64 = false → Uncounted s 0 10 → Uncounted s 1 4 →
            (32768 ≤ past → exec i s = .next (takeTrap s (fault .ticketRange))) ∧
            (past < 32768 → pending ticket → exec i s = .next (takeTrap s (fault .ticketDuplicate))) ∧
            (0 < past → past < 32768 → ¬pending ticket → free → ∃ t, exec i s = .next t ∧ kept t ∧
              t = { s with pod := t.pod, owners := t.owners, ctx := { s.ctx with entries := s.ctx.entries ++ [u] } }) ∧
            (0 < past → past < 32768 → ¬pending ticket → ¬free → exec i s = .next (markWait s .ticket)) ∧
            (past = 0 → (∀ x, ¬pending x) → ∃ t, exec i s = .next t ∧ kept t ∧ t.ctx = { s.ctx with regions := t.ctx.regions } ∧
              t = { s with pod := t.pod, owners := t.owners, ctx := t.ctx, mem := t.mem, lineKey := t.lineKey, dirty := t.dirty, poison := t.poison } ∧
              t.ctx.regions.getD k none = some { r with counters := setGranule r.counters gran (c + 1#16) } ∧
              (∀ j, j ≠ k → t.ctx.regions.getD j none = s.ctx.regions.getD j none) ∧
              SameOutside s t (fun x => ∃ j < 16, m.getLsbD (j / 4) = true ∧ pa + 4 * j ≤ x ∧ x < pa + 4 * j + 4) ∧
              ∀ j < 16, m.getLsbD (j / 4) = true → bytesNat (keyedBytes t s.ctx.key (pa + 4 * j) 4) =
                (addFWord (w == 1#1) (BitVec.ofNat 32 (bytesNat (keyedBytes s s.ctx.key (pa + 4 * j) 4))) (srcN s (d.toNat + j % 4) (j / 4))).toNat)))))) ∧
  (∀ (c : Context) (va k : Nat) (r : Region),
    let holds (j : Nat) (q : Region) : Prop := c.regions.getD j none = some q ∧ q.base ≤ va ∧ va < q.base + 64 * q.ngran
    (c.regionOf va = some (k, r) ↔ k < 16 ∧ holds k r ∧ ∀ j < k, ∀ q, ¬holds j q) ∧ (c.regionOf va = none ↔ ∀ j < 16, ∀ q, ¬holds j q))

/-- Where a home slice accepts an update whose ticket t equals its granule's counter, it goes on applying pending updates of that granule, those with tickets t + 1, t + 2 and on, until none has the counter's ticket. The applied ones leave the pending entries; the others stay. The counter ends at t plus 1 plus the number of entries gone; each word of the granule is the old one with the word of each applied update added, in ticket order, where its mask names it; no byte outside the granule changes, and no update of another granule is touched. (Premises that hold of every pending entry the model makes: the entries of one granule have different tickets and one physical place.) (R127, R219, R224) -/
def Obligations.TicketOrder : Prop :=
  ∀ (s t : State) (n : Nat) (u : TkEntry) (r q : Region), MemoryOk s → acceptUpdate s n u = .accepted t →
    (s.ctxOf n).regions.getD u.region none = some r → u.ticket = r.counter s (s.ctxOf n).key u.granule →
    (t.ctxOf n).regions.getD u.region none = some q →
    let key := (s.ctxOf n).key
    let here (e : TkEntry) : Bool := e.region == u.region && e.granule == u.granule
    let own := (s.ctxOf n).entries.filter here
    (own.map (·.ticket)).Nodup → (∀ e ∈ own, e.pa = u.pa) →
    (∀ e ∈ (t.ctxOf n).entries, here e = true → e.ticket ≠ q.counter t key u.granule) ∧
    (t.ctxOf n).entries.filter (fun e => !here e) = (s.ctxOf n).entries.filter (fun e => !here e) ∧
    (t.ctxOf n).entries.Sublist (s.ctxOf n).entries ∧
    (∃ gone : List TkEntry, (gone ++ (t.ctxOf n).entries.filter here).Perm own ∧
      gone.map (·.ticket) = (List.range gone.length).map (fun j => u.ticket + 1#16 + BitVec.ofNat 16 j) ∧
      q.counter t key u.granule = u.ticket + 1#16 + BitVec.ofNat 16 gone.length ∧
      ∀ j < 16, bytesNat (keyedBytes t key (u.pa + 4 * j) 4) =
        ((u :: gone).foldl (fun x e => if e.mask.getLsbD j then addFWord e.bf16 x (e.data.getD j 0#32) else x)
          (BitVec.ofNat 32 (bytesNat (keyedBytes s key (u.pa + 4 * j) 4)))).toNat) ∧
    (∀ g, g ≠ u.granule → q.counters.find? (·.1 == g) = r.counters.find? (·.1 == g)) ∧
    (∀ a, a < u.pa ∨ u.pa + 64 ≤ a → keyedByte t key a = keyedByte s key a)

/-- TKSKIP of granules of declared regions whose counters all stand at its ticket, with nothing pending, adds 1 to each of their counters and changes no other counter and no byte of memory; with an address that is no multiple of 64 it raises MISALIGNED. In every case it offers its granules in order, from the one where it stood, each as an update with an empty mask, which the home slice applies, holds or answers as it does TKFADD's, with pending updates or without; a stalled one makes the pod wait there with the granules done, and a fault leaves them done and the address and the count advanced past them. TKREG reads its 32-byte record, counter arrays included. With nothing pending in region K, a record that keeps the limits declares region K with its BASE, NGRAN and CNTR and the pages of its counter array; where the region was declared before, its counters are first written back to its own array, as its pages now translate (the counters that no application has advanced too, where the mapping of their page has changed); a record with V = 0 releases the region and writes the counters back, and of a region that is not declared changes nothing; nonzero reserved bits, a broken limit or a pending update raise TICKET-RANGE; a record or an array page that cannot be reached takes the fault of its access. TKQRY inside a declared region gives the granule's counter, and outside every region raises TICKET-RANGE. (No counter of the owner counts tickets. Model's choices, log 26: what the TICKET-RANGE records of TKREG and TKQRY hold, that a replacement translates the old array before the new one, and that TKQRY translates nothing; log 22: a scalar result with LA = 0 is written at once.) (R220, R221, R225, R229, R148, R213, R348) -/
def Obligations.TicketForms : Prop :=
  ∀ (x y : BitVec 5) (la : BitVec 4) (s : State) (at_ : Nat → Nat × Nat) (r : Region) (b : List Byte) (pages old : List Nat), MemoryOk s → s.cur ≠ .none →
    let va := ((srcPod s).scalar (y.toNat + 1) ++ (srcPod s).scalar y.toNat).toNat
    let sx := (srcPod s).scalar x.toNat
    let n := sx.toNat / 2 ^ 16 + 1
    let ticket := sx.extractLsb' 0 16
    let kept (t : State) : Prop := Advances s t 1 ∧ t.pod = { s.pod with pc := t.pod.pc, slot := t.pod.slot, phase := s.pod.phase.goOn, skip := 0 }
    let k := sx.toNat % 16
    let place (g : Nat) : Nat := ({ r with pages := old } : Region).place g
    let entry := regionRecord b
    let range (base region : Nat) : Stop := { code := .ticketRange, addr := BitVec.ofNat 64 base, info0 := BitVec.ofNat 32 region }
    let others (t : State) : Prop := ∀ j, j ≠ k → t.ctx.regions.getD j none = s.ctx.regions.getD j none
    let clean (ps : List Nat) : Prop := ∀ g, ∀ p ∈ ps, g / 512 = p → g ∉ s.poison
    let written (t : State) : Prop :=
      t = { s with pod := t.pod, ctx := { s.ctx with regions := t.ctx.regions }, mem := t.mem, lineKey := t.lineKey, dirty := t.dirty, poison := t.poison } ∧
      (old = r.pages → SameOutside s t (fun a => ∃ z ∈ r.counters, place z.1 ≤ a ∧ a < place z.1 + 2)) ∧
      (r.cntr % 2 = 0 → SameOutside s t (fun a => (∃ z ∈ r.counters, place z.1 ≤ a ∧ a < place z.1 + 2) ∨ ∃ g < r.ngran, place g ≠ r.place g ∧ place g ≤ a ∧ a < place g + 2)) ∧
      (r.cntr % 2 = 0 → r.pages.length = old.length → old.Nodup → ∀ g < r.ngran, (∀ z ∈ r.counters, z.1 < r.ngran ∧ z.1 ≠ g) →
        bytesNat (keyedBytes t s.ctx.key (place g) 2) = bytesNat (keyedBytes s s.ctx.key (r.place g) 2)) ∧
      ∀ z ∈ r.counters, (∀ q ∈ r.counters, place q.1 < place z.1 + 2 → place z.1 < place q.1 + 2 → q = z) →
        bytesNat (keyedBytes t s.ctx.key (place z.1) 2) = z.2.toNat
    (va % 64 ≠ 0 → exec (.tkskip x y) s = .next (takeTrap s { code := .misaligned, addr := BitVec.ofNat 64 va, info1 := 3#32 })) ∧
    (va % 64 = 0 → skipCount s = 0 → s.ctx.entries = [] → Uncounted s 0 10 → Uncounted s 1 4 →
      (∀ j < n, ∃ pa q, translate s s.ctx (va + 64 * j) 3 0 = .ok pa ∧ s.ctx.guards pa 64 = false ∧ s.ctx.regionOf (va + 64 * j) = some ((at_ j).1, q) ∧
        (at_ j).2 = (va + 64 * j - q.base) / 64 ∧ q.counter s s.ctx.key (at_ j).2 = ticket) →
      ∃ t, exec (.tkskip x y) s = .next t ∧ kept t ∧ OthersKept s t ∧ t = { s with pod := t.pod, owners := t.owners, ctx := { s.ctx with regions := t.ctx.regions } } ∧
        ∀ j, (s.ctx.regions.getD j none = none → t.ctx.regions.getD j none = none) ∧
          ∀ q, s.ctx.regions.getD j none = some q → ∃ z, t.ctx.regions.getD j none = some { q with counters := z } ∧
            ∀ g, ({ q with counters := z } : Region).counter t s.ctx.key g =
              if (∃ i < n, at_ i = (j, g)) then ticket + 1#16 else q.counter s s.ctx.key g) ∧
    (∀ (m : Nat) (vs : List State), let update (v : State) (j : Nat) : Except Stop TkEntry := podUpdate v (va + 64 * (skipCount s + j)) 0 ticket 0#16 false (List.replicate 16 0#32)
      let done (j : Nat) (v : State) : State := { v with pod := if v.snap.isSome = true then { v.pod with skip2 := j } else { v.pod with skip := j } }
      let at_ := skipCount s + m
      va % 64 = 0 → vs.length = m + 1 → vs[0]? = some s →
      (∀ j < m, ∃ v w e, vs[j]? = some v ∧ update v j = .ok e ∧ acceptUpdate v v.ctx.owner e = .accepted w ∧ vs[j + 1]? = some (countCore w v.ctx.owner v.team.core 0x0A 1)) →
      ∀ v, vs[m]? = some v →
        (at_ = n → exec (.tkskip x y) s = .next ((done 0 v).advance 1)) ∧
        (at_ < n → (∀ e, update v m = .ok e → acceptUpdate v v.ctx.owner e = .stalled → exec (.tkskip x y) s = .next (markWait (done at_ v) .ticket)) ∧
          ∀ z, (update v m = .error z ∨ ∃ e, update v m = .ok e ∧ acceptUpdate v v.ctx.owner e = .rejected z) →
            exec (.tkskip x y) s = .next (takeTrap (done 0 { v with pod := skipScalars v.pod x y at_ }) z))) ∧
    (sx.toNat < 16 → podBytes s false va 32 32 = .ok b → entry.valid = false → entry.clean = true → (∀ e ∈ s.ctx.entries, e.region ≠ k) → s.ctx.regions.getD k none = none →
      ∃ t, exec (.tkreg x y) s = .next t ∧ kept t ∧ t = { s with pod := t.pod }) ∧
    (podBytes s false va 32 32 = .ok b →
      (sx.toNat < 16 → entry.valid = true → entry.clean = true → regionBad s.ctx k entry = false → (∀ e ∈ s.ctx.entries, e.region ≠ k) →
        (s.ctx.regions.getD k none = none → arrayPages s s.ctx (pagesOf entry.cntr (2 * entry.ngran)) = .ok pages → clean pages →
          ∃ t, exec (.tkreg x y) s = .next t ∧ kept t ∧ others t ∧ t = { s with pod := t.pod, ctx := { s.ctx with regions := t.ctx.regions } } ∧
            t.ctx.regions.getD k none = some ⟨entry.base, entry.ngran, entry.cntr, pages, [], []⟩) ∧
        (s.ctx.regions.getD k none = some r → arrayPages s s.ctx (pagesOf r.cntr (2 * r.ngran)) = .ok old →
          arrayPages s s.ctx (pagesOf entry.cntr (2 * entry.ngran)) = .ok pages → clean pages →
          ∃ t, exec (.tkreg x y) s = .next t ∧ kept t ∧ others t ∧ written t ∧
            t.ctx.regions.getD k none = some ⟨entry.base, entry.ngran, entry.cntr, pages, [], []⟩) ∧
        (∀ e, s.ctx.regions.getD k none = some r → arrayPages s s.ctx (pagesOf r.cntr (2 * r.ngran)) = .error e → exec (.tkreg x y) s = .next (takeTrap s e)) ∧
        ∀ e, (s.ctx.regions.getD k none = none ∨ (s.ctx.regions.getD k none = some r ∧ arrayPages s s.ctx (pagesOf r.cntr (2 * r.ngran)) = .ok old)) →
          arrayPages s s.ctx (pagesOf entry.cntr (2 * entry.ngran)) = .error e → exec (.tkreg x y) s = .next (takeTrap s e)) ∧
      (sx.toNat < 16 → entry.valid = false → entry.clean = true → (∀ e ∈ s.ctx.entries, e.region ≠ k) → s.ctx.regions.getD k none = some r →
        arrayPages s s.ctx (pagesOf r.cntr (2 * r.ngran)) = .ok old → ∃ t, exec (.tkreg x y) s = .next t ∧ kept t ∧ others t ∧ written t ∧
          t.ctx.regions.getD k none = none) ∧
      (16 ≤ sx.toNat ∨ entry.clean = false ∨ (entry.valid = true ∧ regionBad s.ctx k entry = true) ∨ (∃ e ∈ s.ctx.entries, e.region = k) →
        exec (.tkreg x y) s = .next (takeTrap s (range entry.base k)))) ∧
    (∀ e, podBytes s false va 32 32 = .error e → exec (.tkreg x y) s = .next (takeTrap s e)) ∧
    (∀ j, s.ctx.regionOf va = some (j, r) → ∃ t, exec (.tkqry x y la) s = .next t ∧ Advances s t 1 ∧ t = { s with pod := t.pod, ids := t.ids } ∧
      ScalarResult s t x.toNat ((r.counter s s.ctx.key ((va - r.base) / 64)).zeroExtend 32) la.toNat) ∧
    (s.ctx.regionOf va = none → exec (.tkqry x y la) s = .next (takeTrap s (range va 0)))

/-- An arrival at a well-formed object that waits for no parent adds 1 to ARRIVED and gives PHASE as its token where ARRIVED + 1 is below EXPECT; with EXPECT reached and no parent it adds 1 to PHASE and sets ARRIVED to PEND and PEND to 0, the token being the old PHASE; every other word stays. An arrival that reaches EXPECT of an object with a parent arrives at the parent, keeps the token it gets there and waits. An arrival at an object that waits for its parent adds 1 to PEND, its token being the next phase. BARRIVE completes with the token as its scalar result, or takes the fault of an object that cannot be read or is not well formed. (No counter of the owner counts atomics. Model's choice, log 22: a scalar result with LA = 0 is written at once.) (R123, R124, R233, R148) -/
def Obligations.BarrierArrival : Prop :=
  ∀ (x y z : BitVec 5) (la : BitVec 4) (s : State) (pa : Nat) (o : List W32), MemoryOk s → s.cur ≠ .none → Uncounted s 1 3 →
    let va := ((srcPod s).scalar (y.toNat + 1) ++ (srcPod s).scalar y.toNat).toNat
    let field (k : Nat) : Nat := (o.getD k 0#32).toNat % 2 ^ 24
    let waits : Prop := (o.getD 3 0#32).getLsbD 31 = true
    let gives (token : W32) (new : List W32) : Prop := ∃ t, exec (.barrive x y z la) s = .next t ∧ Advances s t 1 ∧ ScalarResult s t x.toNat token la.toNat ∧
      t = { s with pod := t.pod, ids := t.ids, mem := t.mem, lineKey := t.lineKey, dirty := t.dirty, poison := t.poison } ∧
      SameOutside s t (fun a => pa ≤ a ∧ a < pa + 64) ∧ bytesWords 16 (keyedBytes t s.ctx.key pa 64) = new
    (readObject s s.ctx.owner va = .ok (pa, o) → ¬waits →
      (field 1 + 1 < field 0 → gives (o.getD 2 0#32) (o.set 1 (BitVec.ofNat 32 (field 1 + 1)))) ∧
      (field 1 + 1 = field 0 → o.getD 4 0#32 = 0#32 → o.getD 5 0#32 = 0#32 →
        gives (o.getD 2 0#32) (((o.set 2 (o.getD 2 0#32 + 1#32)).set 1 (BitVec.ofNat 32 (field 3))).set 3 0#32)) ∧
      (field 0 ≤ field 1 → exec (.barrive x y z la) s = .next (takeTrap s { code := .barrierObject, addr := BitVec.ofNat 64 va }))) ∧
    (∀ up r, readObject s s.ctx.owner va = .ok (pa, o) → waits → field 3 + 1 < field 0 →
      let parent := (o.getD 5 0#32 ++ o.getD 4 0#32 : W64).toNat
      readObject s s.ctx.owner parent = .ok (up, r) → (r.getD 3 0#32).getLsbD 31 = false → phasePast (r.getD 2 0#32) (o.getD 6 0#32) = false →
      gives (o.getD 2 0#32 + 1#32) (o.set 3 (o.getD 3 0#32 + 1#32))) ∧
    (∀ up r, readObject s s.ctx.owner va = .ok (pa, o) → ¬waits → field 1 + 1 = field 0 →
      let parent := (o.getD 5 0#32 ++ o.getD 4 0#32 : W64).toNat
      parent ≠ 0 → readObject (storeAt s s.ctx.key pa (wordsBytes (o.set 1 (o.getD 1 0#32 + 1#32)))) s.ctx.owner parent = .ok (up, r) → (up + 64 ≤ pa ∨ pa + 64 ≤ up) → (r.getD 3 0#32).getLsbD 31 = false →
      (r.getD 1 0#32).toNat % 2 ^ 24 + 1 < (r.getD 0 0#32).toNat % 2 ^ 24 →
      ∃ t, exec (.barrive x y z la) s = .next t ∧ Advances s t 1 ∧ ScalarResult s t x.toNat (o.getD 2 0#32) la.toNat ∧
        t = { s with pod := t.pod, ids := t.ids, mem := t.mem, lineKey := t.lineKey, dirty := t.dirty, poison := t.poison } ∧
        SameOutside s t (fun a => (pa ≤ a ∧ a < pa + 64) ∨ (up ≤ a ∧ a < up + 64)) ∧
        bytesWords 16 (keyedBytes t s.ctx.key up 64) = r.set 1 (r.getD 1 0#32 + 1#32) ∧
        bytesWords 16 (keyedBytes t s.ctx.key pa 64) =
          ((o.set 1 (o.getD 1 0#32 + 1#32)).set 6 (r.getD 2 0#32)).set 3 (o.getD 3 0#32 ||| 0x80000000#32)) ∧
    (∀ e, readObject s s.ctx.owner va = .error e → exec (.barrive x y z la) s = .next (takeTrap s e))

/-- At an object that waits for no parent, BWAIT completes where PHASE lies 1 to 2^31 - 1 past its token and waits otherwise; BTRY completes at once; each writes PHASE to sX. WAITPTR completes where the pointer has the target's sequence number and a count not below the target's, or a sequence number 1 to 127 past it; WAITMEM completes where the word equals sX, differs from it, or has not fallen behind it, as G says; each writes what it read to sX. A wait whose condition fails leaves everything else as it was, and a word that cannot be read raises the fault of its access. (No counter of the owner counts atomics, of which each read of PHASE is one.) (R124, R234, R235, R236, R237) -/
def Obligations.BarrierWaits : Prop :=
  ∀ (x y z : BitVec 5) (g : BitVec 2) (s : State) (pa : Nat) (o : List W32) (b : List Byte),
    let va := ((srcPod s).scalar (y.toNat + 1) ++ (srcPod s).scalar y.toNat).toNat
    let sx := (srcPod s).scalar x.toNat
    let ends (i : Instr) (ok : Prop) (w : W32) (k : Wait) : Prop := (ok → ScalarWrites i s x 1 w) ∧ (¬ok → exec i s = .next (markWait s k))
    let phase := o.getD 2 0#32
    let ptr := if z.toNat < 4 then (s.team.chans.getD z.toNat Channel.reset).seq ++ (s.team.chans.getD z.toNat Channel.reset).cnt else s.team.xfptr.getD (z.toNat - 16) 0#32
    let ahead := (ptr.toNat / 2 ^ 24 + 256 - sx.toNat / 2 ^ 24) % 256
    let word : W32 := BitVec.ofNat 32 (bytesNat b)
    let met : Prop := (g = 0#2 ∧ word = sx) ∨ (g = 1#2 ∧ word ≠ sx) ∨ (g = 2#2 ∧ 0 ≤ (word - sx).toInt)
    (Uncounted s 1 3 → readObject s s.ctx.owner va = .ok (pa, o) → (o.getD 3 0#32).getLsbD 31 = false →
      ends (.bwait x y z) (1 ≤ (phase - sx).toNat ∧ (phase - sx).toNat < 2 ^ 31) phase .barrier ∧ ScalarWrites (.btry x y z) s x 1 phase) ∧
    ends (.waitptr x z) ((ahead = 0 ∧ sx.toNat % 2 ^ 24 ≤ ptr.toNat % 2 ^ 24) ∨ (1 ≤ ahead ∧ ahead ≤ 127)) ptr .pointer ∧
    (g ≠ 3#2 → podRecord s va 4 4 = .ok b → ends (.waitmem x y g) met word .memory) ∧
    (∀ e, podRecord s va 4 4 = .error e → exec (.waitmem x y g) s = .next (takeTrap s e)) ∧
    (∀ e, readObject s s.ctx.owner va = .error e → exec (.bwait x y z) s = .next (takeTrap s e) ∧ exec (.btry x y z) s = .next (takeTrap s e))

/-- SHAPE grants M, N and K, each the largest of 16, 32, 64 and 128 that does not exceed its request, and no grant where a request is below 16; SHAPEQ writes the grant's word, or 0. TDSET of a tensor id stores the 16 words of its record where its reserved fields are 0 and, for a valid one, its limits hold (FMT, BLK, sizes, addresses and strides), and raises TENSOR-DESCRIPTOR otherwise; a record that cannot be read takes that fault. TDGET stores the 16 words of the entry to its record; a misaligned, untranslated or guarded place takes that fault. TDINV clears VALID and keeps every other field; each raises TENSOR-DESCRIPTOR for an id of 4096 or more, before its address is looked at and with its low 12 bits as TID. Each changes nothing else. (Model's choice: that order and that TID, log 34.) (R244, R84, R85, R86, R257, R89, R26, R221, R348) -/
def Obligations.ShapeAndDescriptors : Prop :=
  ∀ (x y z : BitVec 5) (s : State) (b : List Byte) (pa : Nat), MemoryOk s →
    let w (k : BitVec 5) : Nat := ((srcPod s).scalar k.toNat).toNat
    let va := ((srcPod s).scalar (y.toNat + 1) ++ (srcPod s).scalar y.toNat).toNat
    let size (n : Nat) : Nat := if n < 32 then 16 else if n < 64 then 32 else if n < 128 then 64 else 128
    let big : Prop := 16 ≤ w x ∧ 16 ≤ w y ∧ 16 ≤ w z
    let g := (srcPod s).shape
    let part (g : BitVec 7) (k : Nat) : Nat := 16 * 2 ^ (g.toNat / 4 ^ k % 4)
    let sets (i : Instr) (d : List W32) : Prop := ∃ t, exec i s = .next t ∧ Advances s t 1 ∧
      t.pod = { s.pod with pc := t.pod.pc, slot := t.pod.slot, phase := s.pod.phase.goOn, skip := 0 } ∧
      t = { s with pod := t.pod, ctx := { s.ctx with descs := t.ctx.descs } } ∧ descOf t.ctx (w x) = d ∧
      ∀ k, k ≠ w x → descOf t.ctx k = descOf s.ctx k
    let stops (i : Instr) : Prop := exec i s = .next (takeTrap s { code := .tensorDescriptor, info0 := BitVec.ofNat 32 (w x % 4096) })
    (∃ t, exec (.shape x y z) s = .next t ∧ Advances s t 1 ∧ t = { s with pod := t.pod } ∧
      t.pod = { s.pod with shape := t.pod.shape, pc := t.pod.pc, slot := t.pod.slot, phase := s.pod.phase.goOn, skip := 0 } ∧
      (t.pod.shape.getLsbD 6 = true ↔ big) ∧
      (big → part t.pod.shape 0 = size (w x) ∧ part t.pod.shape 1 = size (w y) ∧ part t.pod.shape 2 = size (w z))) ∧
    ScalarWrites (.shapeq x) s x 1 (if g.getLsbD 6 then BitVec.ofNat 32 (2 ^ 31 + part g 2 * 2 ^ 16 + part g 1 * 2 ^ 8 + part g 0) else 0#32) ∧
    (w x < 4096 → podRecord s va 64 64 = .ok b →
      (GoodDescriptor (bytesWords 16 b) → sets (.tdset x y) (bytesWords 16 b)) ∧ (¬GoodDescriptor (bytesWords 16 b) → stops (.tdset x y))) ∧
    (∀ e, w x < 4096 → podRecord s va 64 64 = .error e → exec (.tdset x y) s = .next (takeTrap s e)) ∧
    (w x < 4096 → va % 64 ≠ 0 → exec (.tdget x y) s = .next (takeTrap s { code := .misaligned, addr := BitVec.ofNat 64 va, info1 := 2#32 })) ∧
    (∀ e, w x < 4096 → va % 64 = 0 → translate s s.ctx va accWrite 0 = .error e → exec (.tdget x y) s = .next (takeTrap s e)) ∧
    (w x < 4096 → va % 64 = 0 → translate s s.ctx va accWrite 0 = .ok pa → s.ctx.guards pa 64 = true →
      exec (.tdget x y) s = .next (takeTrap s { code := .permission, addr := BitVec.ofNat 64 va, info1 := 2#32 })) ∧
    (w x < 4096 → va % 64 = 0 → translate s s.ctx va accWrite 0 = .ok pa → s.ctx.guards pa 64 = false → ∃ t, exec (.tdget x y) s = .next t ∧
      Advances s t 1 ∧ t.pod = { s.pod with pc := t.pod.pc, slot := t.pod.slot, phase := s.pod.phase.goOn, skip := 0 } ∧
      t = { s with pod := t.pod, mem := t.mem, lineKey := t.lineKey, dirty := t.dirty, poison := t.poison } ∧
      SameOutside s t (fun a => pa ≤ a ∧ a < pa + 64) ∧
      bytesWords 16 (keyedBytes t s.ctx.key pa 64) = (List.range 16).map (wordAt (descOf (srcCtx s) (w x)))) ∧
    (w x < 4096 → sets (.tdinv x) ((descOf (srcCtx s) (w x)).set 0 (wordAt (descOf (srcCtx s) (w x)) 0 &&& 0x7FFFFFFF#32))) ∧
    (4096 ≤ w x → stops (.tdset x y) ∧ stops (.tdget x y) ∧ stops (.tdinv x))

/-- Each command makes its checks in this order and takes the stop of the first that fails: the control nibbles (RESERVED-FIELD); for each region word in operand order a valid descriptor of a format it accepts (TENSOR-DESCRIPTOR with the tensor id); the alignment of each transposed source; a grant (SHAPE), for those that need one; each region's extent inside the allocation (REGION-BOUNDS); then the command's own checks: for products the pairing of formats, F and UA and UB of a float product, K of an MX product, and overlap with C; for MDRAIN the mode, its fields, the size of an MX tile, its column, TKEN and the declared region of a ticketed drain; for TSCL F, N and the column; for TZERO the count; for TROT the count, TR and a cluster grid. Where none fails and fewer than 16 commands of resident owners are queued on its core (those that a fault has stopped among them), it is appended to the queue with the operands, grant, step, MODE and descriptors that stand at issue; SX is held by it, behind a window when LA is not 0; no register and no byte of memory changes. With 16 queued the pod waits. TROT takes the next leg number of its team; one that fails also stops the legs of its partners under its number, and one whose partner has failed so takes REGION-BOUNDS, cause 2. (Model's choices: what is captured when, log 33; where SHAPE, the pairings, the words that their records name and MDRAIN's own checks stand in the order, the address of an odd column's MISALIGNED, and that a stopped command keeps its entry, log 34; when a TROT's partner faults, log 37.) (R81, R238, R239, R240, R242, R244, R245, R247, R249, R252, R254, R258) -/
def Obligations.MatrixCommands : Prop :=
  ∀ (f : BitVec 1) (h : BitVec 3) (x y z : BitVec 5) (l : BitVec 4) (g : BitVec 2) (e : BitVec 1) (s : State),
    let team := srcTeam s
    let reg (k : Nat) : W32 := (srcPod s).scalar k
    let a := (reg x.toNat).toNat
    let b := (reg y.toNat).toNat
    let c := (reg z.toNat).toNat
    let c1 := (reg (z.toNat + 1)).toNat
    let tid (w : Nat) : Nat := w / 2 ^ 15 % 4096
    let desc (w : Nat) : List W32 := descOf (srcCtx s) (tid w)
    let fmt (w : Nat) : Nat := recordField (desc w) 0 0 8
    let grant := (srcPod s).shape
    let size (k : Nat) : Nat := 16 * 2 ^ (grant.toNat / 4 ^ k % 4)
    let mm := size 0; let nn := size 1; let kk := size 2
    let resv : Stop := { code := .reservedField }
    let noDesc (w : Nat) : Stop := { code := .tensorDescriptor, info0 := BitVec.ofNat 32 (tid w) }
    let nibbles (free : Prop) : Prop × Stop := ((free ∨ a / 2 ^ 28 % 4 = 0) ∧ (b / 2 ^ 28 = 0 ∨ 4 ≤ a / 2 ^ 28) ∧ b / 2 ^ 28 < 12, resv)
    let names (w : Nat) (ok : Nat → Prop) : Prop × Stop := (recordField (desc w) 0 31 1 = 1 ∧ ok (fmt w), noDesc w)
    let blocks (w : Nat) : Prop × Stop := (w.testBit 27 = true → w % 16 = 0, { code := .misaligned, addr := BitVec.ofNat 64 (64 * (w % 2 ^ 15)), info1 := 1#32 })
    let granted : Prop × Stop := (grant.getLsbD 6 = true, { code := .shape })
    let inside (w n : Nat) : Prop × Stop := (64 * (w % 2 ^ 15) + n ≤ s.team.tileSize, { code := .regionBounds })
    let room : Prop := (s.mats.filter fun m => m.core == team.core && isResident s (match s.teamOf m.team with | some t => t.owner | none => 0)).length < 16
    let captured (m : MatCmd) (i : Instr) (z : BitVec 5) : Prop := m.id = s.ids ∧ m.core = team.core ∧ m.team = team.id ∧ m.pod = s.pod.index ∧ m.instr = i ∧
      m.sx = reg x.toNat ∧ m.sy = reg y.toNat ∧ m.sz = reg z.toNat ∧ m.sz1 = reg (z.toNat + 1) ∧ m.shape = grant ∧ m.step = (srcCtx s).srstep ∧
      m.mode = team.mode ∧ m.dx = desc a ∧ m.dy = desc b ∧ m.dz = desc (reg z.toNat).toNat ∧ m.started = false ∧ m.stopped = none ∧ m.next = 0 ∧ m.legNo = s.team.trots ∧ m.stall = none
    let queues (i : Instr) (z : BitVec 5) (t0 : Team) : Prop :=
      (room → ∃ t m, exec i s = .next t ∧ Advances s t 1 ∧ captured m i z ∧ t = { s with mats := s.mats ++ [m], ids := s.ids + 1, pod := t.pod, team := t0 } ∧
        t.pod = { s.pod with held := s.pod.held ++ [⟨x.toNat, s.ids⟩], windows := s.pod.windows ++ (if l = 0#4 then [] else [⟨true, x.toNat, 1, l.toNat + 1⟩]), pc := t.pod.pc, slot := t.pod.slot, phase := s.pod.phase.goOn, skip := 0 }) ∧
      (¬room → exec i s = .next (markWait s .engine))
    let int8 (n : Nat) : Prop := n = 1 ∨ n = 2
    let factor (n : Nat) : Prop := isMx n ∨ n = 0x12 ∨ int8 n ∨ n = 3 ∨ n = 4
    let floats : Prop := (isMx (fmt b) ∧ isMx (fmt c)) ∨ (fmt b = 0x12 ∧ fmt c = 0x12)
    let ints : Prop := (int8 (fmt b) ∧ int8 (fmt c)) ∨ ((fmt b = 3 ∨ fmt b = 4) ∧ (fmt c = 3 ∨ fmt c = 4))
    let meets (p n q m : Nat) : Prop := 64 * (p % 2 ^ 15) < 64 * (q % 2 ^ 15) + m ∧ 64 * (q % 2 ^ 15) < 64 * (p % 2 ^ 15) + n
    let product (d : Nat) : List (Prop × Stop) :=
      let u := if d = 1 then 1 else 16
      let nc := u * operandSize (mm / d) (nn / d) (fmt a) false; let na := u * operandSize (mm / d) kk (fmt b) (b.testBit 27); let nb := u * operandSize (nn / d) kk (fmt c) (c.testBit 27)
      [((nibbles False).1 ∧ c / 2 ^ 28 = 0, resv), names a (fun n => n = 0x10 ∨ n = 5), names b factor, names c factor, blocks b, blocks c, granted,
       inside a nc, inside b na, inside c nb, (floats ∨ ints, noDesc c), ((floats ∧ fmt a = 0x10) ∨ (ints ∧ fmt a = 5), noDesc a), (fmt a = 5 ∨ (f = 0#1 ∧ g = 0#2), resv),
       (isMx (fmt b) → kk ≠ 16, { code := .shape }), (¬meets a nc b na ∧ ¬meets a nc c nb, { code := .regionBounds, cause := 1 })]
    let add : Prop := a.testBit 29 = true
    let tkt : Prop := a.testBit 28 = true
    let copy : Prop := fmt b = 0x10 ∧ fmt a = 0x10
    let narrow : Prop := fmt b = 0x10 ∧ (fmt a = 0x11 ∨ fmt a = 0x12)
    let mx : Prop := fmt b = 0x10 ∧ isMx (fmt a)
    let icopy : Prop := fmt b = 5 ∧ fmt a = 5
    let requant : Prop := fmt b = 5 ∧ int8 (fmt a)
    let wholeTile := operandSize mm nn (fmt b) (b.testBit 27)
    let drainBytes := if fmt b = 5 ∧ (fmt a = 1 ∨ fmt a = 2) then max wholeTile ((4 * mm * nn + 63) / 64 * 64 + 8 * nn) else wholeTile
    let cell := recordField (desc a)
    let n (k : Nat) : Nat := cell (6 + k) 0 32
    let stride (k : Nat) : Nat := cell (9 + k) 0 32 + 2 ^ 32 * cell 13 (8 * (k - 1)) 8
    let row (i : Nat) : Nat := let q := 16 * (c / 2 ^ 16) + i
      cell 2 0 32 + 2 ^ 32 * cell 3 0 32 + q % n 1 * stride 1 + q / n 1 % n 2 * stride 2 + q / (n 1 * n 2) * stride 3 + 16 * (c % 2 ^ 16) * elementBits (fmt a) / 8
    let drain : List (Prop × Stop) :=
      [nibbles True, names a (fun n => n = 0x10 ∨ n = 0x11 ∨ n = 0x12 ∨ n = 5 ∨ int8 n ∨ isMx n), names b (fun n => n = 0x10 ∨ n = 5), blocks b, granted,
       (e = 0#1 → (inside a (operandSize mm nn (fmt a) false)).1, { code := .regionBounds }), inside b drainBytes,
       (copy ∨ narrow ∨ mx ∨ icopy ∨ requant, noDesc a), (e = 0#1 ∨ a % 2 ^ 15 = 0, resv),
       ((narrow ∨ mx → h ≠ 7#3) ∧ (icopy → h = 0#3) ∧ (copy ∨ requant → h ≠ 6#3 ∧ h ≠ 7#3), resv), (add → copy ∨ icopy, resv), (tkt → copy ∧ add ∧ e = 1#1, resv),
       ((tkt → c1 / 2 ^ 16 = 0) ∧ (¬tkt → c1 = 0), resv), (mx → 32 ≤ nn, { code := .shape }), (mx → c.testBit 0 = false, { code := .misaligned, addr := BitVec.ofNat 64 (if e = 1#1 then row 0 else 64 * (a % 2 ^ 15)), info1 := 2#32 }),
       (tkt → recordField (desc a) 0 28 1 = 1, noDesc a)]
    let count (w : Nat) : Prop := w / 2 ^ 15 % 2 ^ 13 = 0 ∧ 1 ≤ w % 2 ^ 15
    let region : List (Prop × Stop) := [nibbles False, names a (fun _ => True), (b % 2 ^ 15 ≤ 24576, resv), inside a (64 * (b % 2 ^ 15))]
    let tkr := recordField (desc a) 0 24 4
    let gs := (newMatrix s (.mdrain h x y z l e) x y z).granules
    let across (i : Nat) : Nat := if 16 * (c / 2 ^ 16) + i < n 1 * n 2 * n 3 then min nn (n 0 - 16 * (c % 2 ^ 16)) else 0
    let range (g : Nat) : Stop := { code := .ticketRange, addr := BitVec.ofNat 64 (64 * g), info0 := BitVec.ofNat 32 tkr, info2 := BitVec.ofNat 32 (c1 % 2 ^ 16) }
    let held (r : Region) (g : Nat) : Bool := decide (r.base ≤ 64 * g) && decide (64 * g < r.base + 64 * r.ngran)
    Checked (.mma f x y z l g) s (product 1) (queues (.mma f x y z l g) z s.team) ∧
    Checked (.mmab f x y z l g) s (product 4) (queues (.mmab f x y z l g) z s.team) ∧
    (gs.Pairwise (· < ·) ∧ ∀ p, p ∈ gs ↔ ∃ i < mm, ∃ j < across i, p = (row i + 4 * j) / 64) ∧
    Checked (.mdrain h x y z l e) s drain (
      (¬tkt → queues (.mdrain h x y z l e) z s.team) ∧
      (tkt → (srcCtx s).regions.getD tkr none = none → exec (.mdrain h x y z l e) s = .next (takeTrap s (range (gs.headD 0)))) ∧
      ∀ r, tkt → (srcCtx s).regions.getD tkr none = some r →
        (∀ n, gs.find? (fun n => !held r n) = some n → exec (.mdrain h x y z l e) s = .next (takeTrap s (range n))) ∧
        ((∀ n ∈ gs, held r n = true) → queues (.mdrain h x y z l e) z s.team)) ∧
    Checked (.tzero x y l) s (region ++ [(count b, resv)]) (queues (.tzero x y l) 0#5 s.team) ∧
    Checked (.tscl h x y z l) s [nibbles False, names a isMx, names b (fun n => n = 0x10), blocks b, granted, inside a (operandSize mm nn (fmt a) false),
      inside b wholeTile, (h ≠ 7#3, resv), (32 ≤ nn, { code := .shape }), (c.testBit 0 = false, { code := .misaligned, addr := BitVec.ofNat 64 (64 * (a % 2 ^ 15)), info1 := 2#32 })] (queues (.tscl h x y z l) z s.team) ∧
    (let i : Instr := .trot x y l
     let turns := region ++ [(count b ∧ a.testBit 27 = false, resv), (s.grid.cluster = true, { code := .permission })]
     let failed : Prop := ∃ u ∈ s.teams, u.id ≠ team.id ∧ u.handle = s.team.handle ∧ u.number / 4 = s.team.number / 4 ∧ u.trotBad = some s.team.trots
     (∀ n p t, turns[n]? = some (p, t) → (∀ q ∈ turns.take n, q.1) → ¬p →
       let u := (takeTrap s t).mapTeam team.id fun w => { w with trotBad := some s.team.trots }
       let mates : List MatCmd := match u.teamOf team.id with | none => [] | some w => u.mats.filter fun (m : MatCmd) => m.team != team.id && m.legNo == s.team.trots && m.stopped.isNone &&
         (match m.instr with | .trot _ _ _ => true | _ => false) && (match u.teamOf m.team with | some v => v.handle == w.handle && v.number / 4 == w.number / 4 | none => false)
       exec i s = .next { mates.foldl (fun v m => stopMatrix v m { code := .regionBounds, cause := 2 }) u with note := u.note }) ∧
     ((∀ q ∈ turns, q.1) → (failed → exec i s = .next (takeTrap s { code := .regionBounds, cause := 2 })) ∧
       (¬failed → queues i 0#5 { s.team with trots := s.team.trots + 1, trotBad := none })))

/-- A TZERO whose control nibbles break the rule raises RESERVED-FIELD; else one whose region names an invalid descriptor raises TENSOR-DESCRIPTOR with the tensor id; else one whose count is above 24,576 raises RESERVED-FIELD; else one whose region does not end inside the team's tile allocation raises REGION-BOUNDS; else one whose reserved bits are not 0 or whose count is 0 raises RESERVED-FIELD; a TZERO that breaks none of these is queued while its core has fewer than 16 commands of resident owners, whatever the pod's grant. (Model's choices: that a command captures its operands at issue, log 33; that a stopped command keeps its entry, and that a count above 24,576 is refused before the bounds, log 34.) (R81, R89, R239, R240, R253, R346, R348) -/
def Obligations.CommandChecks : Prop :=
  ∀ (x y : BitVec 5) (l : BitVec 4) (s : State),
    let a := (srcPod s).scalar x.toNat
    let b := (srcPod s).scalar y.toNat
    let scope := b.toNat / 2 ^ 28
    let n := b.toNat % 2 ^ 15
    let id := a.toNat / 2 ^ 15 % 4096
    let control : Prop := a.toNat / 2 ^ 28 % 4 = 0 ∧ (scope = 0 ∨ 4 ≤ a.toNat / 2 ^ 28) ∧ scope < 12
    let valid : Prop := (wordAt (descOf (srcCtx s) id) 0).getLsbD 31 = true
    let fits : Prop := 64 * (a.toNat % 2 ^ 15) + 64 * n ≤ s.team.tileSize
    let count : Prop := b.toNat / 2 ^ 15 % 2 ^ 13 = 0 ∧ 1 ≤ n
    let i : Instr := .tzero x y l
    (¬control → exec i s = .next (takeTrap s { code := .reservedField })) ∧
    (control → ¬valid → exec i s = .next (takeTrap s { code := .tensorDescriptor, info0 := BitVec.ofNat 32 id })) ∧
    (control → valid → 24576 < n → exec i s = .next (takeTrap s { code := .reservedField })) ∧
    (control → valid → n ≤ 24576 → ¬fits → exec i s = .next (takeTrap s { code := .regionBounds })) ∧
    (control → valid → n ≤ 24576 → fits → ¬count → exec i s = .next (takeTrap s { code := .reservedField })) ∧
    (control → valid → n ≤ 24576 → fits → count → (s.mats.filter fun m => m.core == (srcTeam s).core && isResident s (match s.teamOf m.team with | some t => t.owner | none => 0)).length < 16 →
      ∃ t m, exec i s = .next t ∧ t.mats = s.mats ++ [m] ∧ m.instr = i ∧ m.sx = a ∧ m.sy = b ∧ t.mem = s.mem)

/-- A copy makes its checks in this order and takes the stop of the first that fails: the control nibbles (RESERVED-FIELD); a valid descriptor of its region (TENSOR-DESCRIPTOR); the alignment of a transposed source (MISALIGNED); its extent inside the allocation (REGION-BOUNDS); then for TCPY a count that is not 0 (RESERVED-FIELD), an address or offset that is a multiple of 64 (MISALIGNED) and, for D, an end inside the scratch (REGION-BOUNDS), and for TCPYW bit 26 clear and rows of whole granules (RESERVED-FIELD). Where none fails and its channel holds fewer than eight queued commands, it is appended to the channel that its control word names with the operands and the descriptor that stand at issue, and SX is held by it, behind a window when LA is not 0; no register and no byte of memory changes. With eight queued the pod waits. (Model's choices: the order among a copy's own checks, log 34; the extent of a copy out with TR = 1, rounded up to whole blocks, log 35; that the running command is not one of the eight, log 39.) (R81, R82, R90, R238, R240, R243, R255, R256, R148, R348) -/
def Obligations.CopyCommands : Prop :=
  ∀ (x y z : BitVec 5) (l : BitVec 4) (s : State),
    let reg (k : Nat) : W32 := (srcPod s).scalar k
    let a := (reg x.toNat).toNat
    let b := (reg y.toNat).toNat
    let c := (reg z.toNat).toNat
    let k := c / 2 ^ 24 % 4
    let ch := s.team.chans.getD k Channel.reset
    let d := descOf (srcCtx s) (a / 2 ^ 15 % 4096)
    let out := c.testBit 27
    let die := c.testBit 26
    let resv : Stop := { code := .reservedField }
    let place : W64 := if die then BitVec.ofNat 64 b else reg (y.toNat + 1) ++ reg y.toNat
    let region (n : Nat) : List (Prop × Stop) :=
      [(a / 2 ^ 28 % 4 = 0 ∧ (c / 2 ^ 28 = 0 ∨ 4 ≤ a / 2 ^ 28) ∧ c / 2 ^ 28 < 12, resv),
       (recordField d 0 31 1 = 1, { code := .tensorDescriptor, info0 := BitVec.ofNat 32 (a / 2 ^ 15 % 4096) }),
       (out = true → a.testBit 27 = true → a % 16 = 0, { code := .misaligned, addr := BitVec.ofNat 64 (64 * (a % 2 ^ 15)), info1 := 1#32 }),
       (64 * (a % 2 ^ 15) + (if out && a.testBit 27 then (n + 1023) / 1024 * 1024 else n) ≤ s.team.tileSize, { code := .regionBounds })]
    let row := 16 * (c % 2 ^ 12 + 1) * elementBits (recordField d 0 0 8)
    let queued (i : Instr) (checks : List (Prop × Stop)) : Prop :=
      let q : CopyCmd := ⟨s.ids, s.pod.index, i, reg x.toNat, reg y.toNat, reg (y.toNat + 1), reg z.toNat, d⟩
      Checked i s checks (
        (ch.queue.length < 8 → ∃ t, exec i s = .next t ∧ Advances s t 1 ∧
          t = { s with ids := s.ids + 1, pod := t.pod, team := { s.team with chans := t.team.chans } } ∧
          t.pod = { s.pod with held := s.pod.held ++ [⟨x.toNat, s.ids⟩], windows := s.pod.windows ++ (if l = 0#4 then [] else [⟨true, x.toNat, 1, l.toNat + 1⟩]), pc := t.pod.pc, slot := t.pod.slot, phase := s.pod.phase.goOn, skip := 0 } ∧
          t.team.chans.getD k Channel.reset = { ch with queue := ch.queue ++ [q] } ∧
          ∀ j, j ≠ k → t.team.chans.getD j Channel.reset = s.team.chans.getD j Channel.reset) ∧
        (8 ≤ ch.queue.length → exec i s = .next (markWait s .engine)))
    queued (.tcpy x y z l) (region (64 * (c % 2 ^ 24)) ++ [(c % 2 ^ 24 ≠ 0, resv),
      (place.toNat % 64 = 0, { code := .misaligned, addr := place, info1 := if out then 2#32 else 1#32 }),
      (die = true → b + 64 * (c % 2 ^ 24) ≤ s.ctx.scratch * 0x300000, { code := .regionBounds })]) ∧
    queued (.tcpyw x y z l) (region ((c / 2 ^ 12 % 2 ^ 12 + 1) * row / 8) ++ [(die = false ∧ row / 8 % 64 = 0, resv)])

/-- Pod 0 of a team below depth 10 whose KERNEL record reads and passes the node checks launches by GLAUNCH a grid of the record's teams, MODE, stack, kernel record and parameters, one deeper, in its own stream, node and priority, and gets its handle; no other pod may, and at depth 10 NESTING-DEPTH is raised. GWAIT of a child writes its status word once it has retired and waits until then, while it runs and while it is ending; GWAIT.TRY writes it at once, 0 until it has retired; a grid that is no child raises PERMISSION. GNODE appends a checked record to its owner's stream with the dependences of R285 and gets its handle, waiting while the stream or the device is full or the stream accepts no posts. TAPEPUSH writes a checked KERNEL record to the next place of its stream's tape and gets the new count; at 4096 it raises TAPE-OVERFLOW. FQPOST posts a record to an enabled queue with the keys and the step that stand, and gets its sequence number, waiting at 64 requests. (Model's choices: the child's node, stream, priority and SUSP and the order of the checks, log 39; the wait at a stream that accepts no posts, log 40; the handle of a new grid, log 11; a scalar result with LA = 0 is written at once, log 22; PERMISSION for a queue whose EN is 0, log 45.) (R21, R46, R274, R275, R276, R277, R278, R279, R281, R298, R148, R221) -/
def Obligations.Launches : Prop :=
  ∀ (x y : BitVec 5) (l : BitVec 4) (s : State) (b : List Byte) (u : State) (q : FqQueue),
    let sx := (srcPod s).scalar x.toNat
    let va := ((srcPod s).scalar (y.toNat + 1) ++ (srcPod s).scalar y.toNat).toNat
    let r := bytesWords 32 b
    let field (k : Nat) : W64 := wordAt r (k + 1) ++ wordAt r k
    let kernel : Prop := podRecord s va 128 64 = .ok b ∧ recType r = 0 ∧ recordStop s s.ctx.owner r = none
    let denied (i : Instr) (c : Trap) : Prop := exec i s = .next (takeTrap s { code := c })
    let ends (i : Instr) (w : W32) (f : State → Prop) : Prop := ∃ t, exec i s = .next t ∧ Advances s t 1 ∧ ScalarResult s t x.toNat w l.toNat ∧ f t
    let k := sx.toNat % 64
    let st := s.streams.getD k Stream.reset
    let mine := s.stream s.grid.stream
    let place := mine.tapeBase.toNat + 128 * mine.tape
    let child : Prop := sx ∈ s.team.children
    (s.pod.index = 0 → s.grid.depth < 10 → kernel → ends (.glaunch x y l) (newGridHandle s) (fun t => ∃ g : Grid,
      t = { s with pod := t.pod, ids := t.ids, grids := s.grids ++ [g], stamp := s.stamp + 1, draw := s.draw + 1, team := { s.team with children := s.team.children ++ [newGridHandle s] } } ∧
      g.handle = newGridHandle s ∧ g.parent = some s.grid.handle ∧ g.leader = some s.team.id ∧ g.depth = s.grid.depth + 1 ∧ g.owner = s.grid.owner ∧
      g.stream = s.grid.stream ∧ g.node = s.grid.node ∧ g.pri = s.grid.pri ∧ g.susp = s.grid.susp ∧ g.stamp = s.stamp ∧ g.status = .running ∧
      g.teams = (wordAt r 24).toNat % 2 ^ 24 ∧ g.cluster = (wordAt r 24).getLsbD 31 ∧ g.mode = wordAt r 25 &&& 0xFF#32 ∧ g.krec = field 20 ∧
      g.param = field 22 ∧ g.stackBase = field 26 ∧ g.stackSize = wordAt r 28 ∧ g.started = 0 ∧ g.loaded = false)) ∧
    (s.pod.index ≠ 0 → denied (.glaunch x y l) .permission) ∧
    (s.pod.index = 0 → 10 ≤ s.grid.depth → denied (.glaunch x y l) .nestingDepth) ∧
    (child → (∀ g ∈ s.grids, g.handle ≠ sx) → ScalarWrites (.gwait x) s x 1 0x80000000#32 ∧ ScalarWrites (.gwaitTry x) s x 1 0x80000000#32) ∧
    (∀ g code fail w, child → s.grids.find? (·.handle == sx) = some g → g.status = .retired code fail w →
      let status : W32 := BitVec.ofNat 32 (2 ^ 31 + code % 256 * 256 + if fail then 1 else 0)
      ScalarWrites (.gwait x) s x 1 status ∧ ScalarWrites (.gwaitTry x) s x 1 status) ∧
    (∀ g, child → s.grids.find? (·.handle == sx) = some g → g.status = .running ∨ (∃ code w, g.status = .ending code w) →
      exec (.gwait x) s = .next (markWait s .gwait) ∧ ScalarWrites (.gwaitTry x) s x 1 0#32) ∧
    (¬child → denied (.gwait x) .permission ∧ denied (.gwaitTry x) .permission) ∧
    (sx.toNat < 64 → st.owner.toNat = s.ctx.owner → podRecord s va 128 64 = .ok b → recordStop s s.ctx.owner r = none →
      (st.enable = true → st.nodes.length < 1024 → unfinished s < 4096 → ends (.gnode x y l) (BitVec.ofNat 32 (k * 2 ^ 26 + st.next % 2 ^ 26)) (fun t => ∃ n : Node,
        t = { s with pod := t.pod, ids := t.ids, streams := t.streams, stamp := s.stamp + 1 } ∧
        (∀ j, j ≠ k → t.streams.getD j Stream.reset = s.streams.getD j Stream.reset) ∧
        t.streams.getD k Stream.reset = { st with next := st.next + 1, nodes := st.nodes ++ [n], failed := st.failed.filter (· != n.handle) } ∧
        n.handle = BitVec.ofNat 32 (k * 2 ^ 26 + st.next % 2 ^ 26) ∧ n.words = r ∧ n.stamp = s.stamp ∧
        n.deps = (st.nodes.filter fun e => dependsOn r e.words).map (·.handle))) ∧
      (st.enable = false ∨ 1024 ≤ st.nodes.length ∨ 4096 ≤ unfinished s → exec (.gnode x y l) s = .next (markWait s .launch))) ∧
    (64 ≤ sx.toNat ∨ st.owner.toNat ≠ s.ctx.owner → denied (.gnode x y l) .permission) ∧
    (kernel → mine.tape < 4096 → s.grid.stream < 64 → engineWrite s s.ctx place (wordsBytes r) = .ok u →
      ends (.tapepush x y l) (BitVec.ofNat 32 (mine.tape + 1)) (fun t => t = { u with pod := t.pod, ids := t.ids, streams := t.streams } ∧
        t.streams.getD s.grid.stream Stream.reset = { mine with tape := mine.tape + 1 } ∧
        ∀ j, j ≠ s.grid.stream → t.streams.getD j Stream.reset = s.streams.getD j Stream.reset)) ∧
    (kernel → 4096 ≤ mine.tape → denied (.tapepush x y l) .tapeOverflow) ∧
    (sx.toNat < 256 → s.ctx.queues.find? (fun q => q.index == sx.toNat && q.cfg.getLsbD 31) = some q → podRecord s va 64 64 = .ok b →
      (q.requests.length < 64 → ends (.fqpost x y l) (BitVec.ofNat 32 q.next) (fun t =>
        t = { s with pod := t.pod, ids := t.ids, stamp := s.stamp + 1, ctx := { s.ctx with queues := t.ctx.queues } } ∧
        t.ctx.queues = s.ctx.queues.map (fun p => if p.index == q.index then { p with next := (p.next + 1) % 2 ^ 32, requests := p.requests ++ [⟨bytesWords 16 b, q.next, s.stamp, (srcCtx s).srkey.toList, (srcCtx s).srstep, false⟩] } else p))) ∧
      (64 ≤ q.requests.length → exec (.fqpost x y l) s = .next (markWait s .launch))) ∧
    (256 ≤ sx.toNat ∨ s.ctx.queues.find? (fun q => q.index == sx.toNat && q.cfg.getLsbD 31) = none → denied (.fqpost x y l) .permission)

/-- ZLI writes its zero-extended immediate, or for H above 0 replaces 16 bits; ZADD, ZSUB and ZAND wrap and take a register or a signed immediate; ZSHL shifts left by n, or logically right by -n, n being signed; ZCYC writes the fabric clock. Each writes one register, goes on to the next word and changes nothing else. ZBR tests as its code says and ZLOOP counts fA down to 0; taken, they go to PC + 4 x OFS, and a target that cannot be addressed raises TRANSLATION with nothing written. ZFENCE acquire only goes on; a release or both goes on where no error is left to report and, at GROUP scope or wider, every posted transfer has been acknowledged; ZTRAP goes on and raises SOFTWARE-TRAP. (Model's choices: that ZFENCE.AR reports errors too, log 45; that PC wraps at 2^51, log 29; the address that a bad target's record holds, log 31; that an acquire has nothing to wait for, log 20.) (R296, R302, R304, R306, R307, R309, R312, R326, R3) -/
def Obligations.ZilkanRegisters : Prop :=
  ∀ (d a b z : BitVec 4) (i : BitVec 1) (h : BitVec 2) (m : BitVec 14) (k o : BitVec 16) (c : BitVec 3) (s : State),
    let f (r : BitVec 4) : W64 := s.fp.f.getD r.toNat 0#64
    let y := if i = 1#1 then m.signExtend 64 else f b
    let on (p : Fabric) : State := { s with fp := { p with pc := s.fp.pc + 4#51, phase := .ready } }
    let set (r : BitVec 4) (v : W64) : Fabric := { s.fp with f := s.fp.f.setIfInBounds r.toNat v }
    let gives (i : Instr) (v : W64) : Prop := exec i s = .next (on (set d v))
    let n : Int := if i = 1#1 then m.toInt else ((f b).extractLsb' 0 7).toInt
    let taken : Prop := c = 0#3 ∨ (c = 1#3 ∧ f a = f b) ∨ (c = 2#3 ∧ f a ≠ f b) ∨ (c = 3#3 ∧ (f a).toNat < (f b).toNat) ∨
      (c = 4#3 ∧ (f b).toNat ≤ (f a).toNat) ∨ (c = 5#3 ∧ (f a).toInt < (f b).toInt) ∨ (c = 6#3 ∧ (f b).toInt ≤ (f a).toInt)
    let target : Int := (s.fp.pc.toNat : Int) + 4 * o.toInt
    let inside : Prop := 0 ≤ target ∧ target < 2 ^ 51
    let goes (i : Instr) (p : Fabric) : Prop := (inside → exec i s = .next { s with fp := { p with pc := BitVec.ofInt 51 target, phase := .ready } }) ∧
      (¬inside → exec i s = .next (takeTrap s { code := .translation, addr := BitVec.ofInt 64 target }))
    let held : Prop := 9 ≤ z.toNat ∧ ∃ t ∈ s.fp.transfers, t.coll = s.coll.id ∧ t.kind ≠ .fetch ∧ t.kind ≠ .clone
    let fences (i : Instr) : Prop := (held → exec i s = .next (fabricWait s .tkfence)) ∧ (¬held → s.fp.errors = [] → exec i s = .next (on s.fp)) ∧
      ∀ e r, ¬held → s.fp.errors = e :: r → exec i s = .next (takeTrap { s with fp := { s.fp with errors := r } } e)
    (h = 0#2 → gives (.zli d h k) (k.zeroExtend 64)) ∧
    (h ≠ 0#2 → gives (.zli d h k) ((f d &&& ~~~(0xFFFF#64 <<< (16 * h.toNat))) ||| (k.zeroExtend 64 <<< (16 * h.toNat)))) ∧
    gives (.zadd d a b i m) (f a + y) ∧ gives (.zsub d a b i m) (f a - y) ∧ gives (.zand d a b i m) (f a &&& y) ∧
    (0 ≤ n → gives (.zshl d a b i m) (f a <<< n.toNat)) ∧ (n < 0 → gives (.zshl d a b i m) (f a >>> (-n).toNat)) ∧
    gives (.zcyc d) (BitVec.ofNat 64 s.fabClock) ∧
    (taken → goes (.zbr c a b o) s.fp) ∧ (c ≠ 7#3 → ¬taken → exec (.zbr c a b o) s = .next (on s.fp)) ∧
    (f a ≠ 1#64 → goes (.zloop a o) (set a (f a - 1#64))) ∧ (f a = 1#64 → exec (.zloop a o) s = .next (on (set a 0#64))) ∧
    exec (.zfenceAcq z) s = .next (on s.fp) ∧ fences (.zfenceRel z) ∧ fences (.zfenceAr z) ∧
    exec (.ztrap k) s = .next (takeTrap (on s.fp) { code := .softwareTrap, info0 := k.zeroExtend 32, info1 := s.fp.pc.extractLsb' 0 32, info2 := (s.fp.pc.extractLsb' 32 19).zeroExtend 32, after := true })

/-- ZLD and ZST of an aligned address that translates, outside every counter array (and not poisoned, for a load) read and write its 4 or 8 bytes; a misaligned address raises MISALIGNED. ZWAIT on an object writes PHASE where it lies past the token, and on a flag the flag where it has not fallen behind; otherwise it waits (for an object, where no slice counter of the owner counts arrivals). With nothing to await, ZSIG arrives at its object and gets the token; its remote form lists one arrival, sent to a peer outside the module, and a rank of P or more raises PERMISSION. ZHALT with no unacknowledged transfer and no error ends the program: the collective completes with its last processor. (Model's choices: that ZSIG at GROUP or wider waits for acknowledgements, log 45; that PC wraps at 2^51, log 29.) (R296, R297, R299, R301, R308, R310, R312, R326, R327, R328, R330, R331) -/
def Obligations.ZilkanMemory : Prop :=
  ∀ (d a b w z : BitVec 4) (q : BitVec 1) (o : BitVec 18) (s : State) (pa : Nat) (obj : List W32), MemoryOk s →
    let f (r : BitVec 4) : W64 := s.fp.f.getD r.toNat 0#64
    let on (t : State) (p : Fabric) : State := { t with fp := { p with pc := s.fp.pc + 4#51, phase := .ready } }
    let set (r : BitVec 4) (v : W64) : Fabric := { s.fp with f := s.fp.f.setIfInBounds r.toNat v }
    let n : Nat := if q = 1#1 then 8 else 4
    let va : Int := ((f a).toNat : Int) + o.toInt
    let stops (i : Instr) (e : Stop) : Prop := exec i s = .next (takeTrap s e)
    let reads (va n : Nat) : Prop := translate s s.ctx va accRead 0 = .ok pa ∧ s.ctx.guards pa n = false ∧ poisonIn s.poison pa n = none
    let value (n : Nat) : Nat := bytesNat (keyedBytes s s.ctx.key pa n)
    let held (z : Nat) : Prop := 9 ≤ z ∧ ∃ t ∈ s.fp.transfers, t.coll = s.coll.id ∧ t.kind ≠ .fetch ∧ t.kind ≠ .clone
    let token := (f d).extractLsb' 0 32
    let phase := obj.getD 2 0#32
    let k := (f b).toNat % 2 ^ 16
    let sent : Transfer := ⟨s.ids, s.coll.id, s.ctx.owner, .arrival, k, s.coll.peers.getD k [], k == s.coll.rank, w.toNat, 0#64, f a, 0, none, none, false, z.toNat, [], true, false, 0⟩
    let last := closeFocus { s with fp := { s.fp with phase := .ended } }
    (va % n ≠ 0 → stops (.zld d a q o) { code := .misaligned, addr := BitVec.ofInt 64 va, info1 := 1#32 } ∧
      stops (.zst d a q o) { code := .misaligned, addr := BitVec.ofInt 64 va, info1 := 2#32 }) ∧
    (0 ≤ va → va < 2 ^ 51 → va % n = 0 → reads va.toNat n → exec (.zld d a q o) s = .next (on s (set d (BitVec.ofNat 64 (value n))))) ∧
    (0 ≤ va → va < 2 ^ 51 → va % n = 0 → translate s s.ctx va.toNat accWrite 0 = .ok pa → s.ctx.guards pa n = false →
      ∃ t, exec (.zst d a q o) s = .next t ∧ t = on { s with mem := t.mem, lineKey := t.lineKey, dirty := t.dirty, poison := t.poison } s.fp ∧
        SameOutside s t (fun x => pa ≤ x ∧ x < pa + n) ∧ bytesNat (keyedBytes t s.ctx.key pa n) = (f d).toNat % 2 ^ (8 * n)) ∧
    (readObject s s.ctx.owner (f a).toNat = .ok (pa, obj) → (obj.getD 3 0#32).getLsbD 31 = false → Uncounted s 1 3 →
      let past : Prop := 1 ≤ (phase - token).toNat ∧ (phase - token).toNat < 2 ^ 31
      (past → exec (.zwaitBar d a z) s = .next (on s (set d (phase.zeroExtend 64)))) ∧ (¬past → exec (.zwaitBar d a z) s = .next (fabricWait s .memory))) ∧
    ((f a).toNat % 4 = 0 → reads (f a).toNat 4 →
      let m : W32 := BitVec.ofNat 32 (value 4)
      (0 ≤ (m - token).toInt → exec (.zwaitFlag d a z) s = .next (on s (set d (m.zeroExtend 64)))) ∧
      ((m - token).toInt < 0 → exec (.zwaitFlag d a z) s = .next (fabricWait s .memory))) ∧
    (¬held z.toNat → ∀ t v, arrive s s.ctx.owner (f a).toNat = ⟨t, .ok v⟩ → t.fp = s.fp → exec (.zsig d a b w z) s = .next (on t (set d (v.zeroExtend 64)))) ∧
    (¬held z.toNat → k < (s.coll.cds.getD 2 0#32).toNat / 2 ^ 16 → exec (.zsigRemote a b w z) s = .next { on s { s.fp with transfers := s.fp.transfers ++ [sent] } with ids := s.ids + 1, out := if k = s.coll.rank then s.out else s.out ++ [.arrive s.fp.index (s.coll.peers.getD k []) w.toNat (f a) z.toNat] }) ∧
    (¬held z.toNat → (s.coll.cds.getD 2 0#32).toNat / 2 ^ 16 ≤ k → stops (.zsigRemote a b w z) { code := .permission, info0 := BitVec.ofNat 32 k }) ∧
    (held z.toNat → exec (.zsig d a b w z) s = .next (fabricWait s .tkfence) ∧ exec (.zsigRemote a b w z) s = .next (fabricWait s .tkfence)) ∧
    (¬held 11 → s.fp.errors = [] → (∃ g ∈ last.fabric, g.coll = some s.coll.id ∧ g.phase ≠ .ended) → exec .zhalt s = .next last) ∧
    (¬held 11 → s.fp.errors = [] → (∀ g ∈ last.fabric, g.coll = some s.coll.id → g.phase = .ended) → exec .zhalt s = .next (endCollective last s.coll.id 0)) ∧
    (held 11 → exec .zhalt s = .next (fabricWait s .tkfence)) ∧
    ∀ e r, ¬held 11 → s.fp.errors = e :: r → exec .zhalt s = .next (takeTrap { s with fp := { s.fp with errors := r } } e)

/-- With offsets and length multiples of 64, a length of 64 bytes to 2^40, a peer rank below P or a target below NTGT, and a local range that reads, a posted transfer (ZSEND, ZAGS with its flag, ZCKPT) is listed with its operands and the processor stands at the next word until its source bytes have been read; with a local range that translates for a write, or an input handle of the owner, a waited transfer (ZFETCH, ZCLONE) is listed and, outside the module, requested, and the processor stands at it. No register and no byte of memory changes. A local or remote address or a length that is no multiple of 64, and a flag offset that is no multiple of 4, raises MISALIGNED, a length of 0 or above 2^40 ZILKAN-DECODE, a bad rank or target PERMISSION with it, a local range that does not read or translate its own fault, and a handle that names no waiting TRANSFORM node of the owner PERMISSION; a ZCLONE with RZ raises RESIDUAL-BUFFER where no descriptor is named or it breaks its format, and the fault of a descriptor or buffer that does not read or translate. (Model's choices: the order of a transfer's checks, the bad rank in INFO0, ADDR 0 of a misaligned length, the record of a handle, and that a ZCLONE with RZ checks its residual buffer at issue and raises RESIDUAL-BUFFER with R320's causes 0 and 1, log 45; that PC wraps at 2^51, log 29.) (R296, R299, R301, R310, R311, R313, R319, R324, R335, R348) -/
def Obligations.ZilkanTransfers : Prop :=
  ∀ (d a b w : BitVec 4) (q : BitVec 1) (s : State) (bytes : List Byte) (r : Residual),
    let f (r : BitVec 4) : W64 := s.fp.f.getD r.toNat 0#64
    let g (k : Nat) : W64 := s.fp.f.getD (a.toNat + k) 0#64
    let len := (g 2).toNat
    let even : Prop := (g 1).toNat % 64 = 0 ∧ len % 64 = 0
    let sized : Prop := len ≠ 0 ∧ len ≤ 2 ^ 40
    let near : Prop := (g 0).toNat % 64 = 0
    let word (k : Nat) : Nat := (s.coll.cds.getD k 0#32).toNat
    let peer := (f d).toNat % 2 ^ 16
    let target := (f d).toNat % 2 ^ 8
    let home : Bool := peer == s.coll.rank
    let toPeer (kind : TransferKind) (flag : Option (W64 × W32)) (rz read : Bool) : Transfer := ⟨s.ids, s.coll.id, s.ctx.owner, kind, peer, s.coll.peers.getD peer [], home, w.toNat, g 0, g 1, len, flag, none, rz, 0, [], read, false, 0⟩
    let toTarget (kind : TransferKind) (input : Option W32) (read : Bool) : Transfer := ⟨s.ids, s.coll.id, s.ctx.owner, kind, target, s.coll.targets.getD target [], false, 0, g 0, g 1, len, none, input, false, 0, [], read, false, 0⟩
    let posts (i : Instr) (x : Transfer) : Prop := exec i s = .next { s with ids := s.ids + 1, fp := { s.fp with transfers := s.fp.transfers ++ [x], pc := s.fp.pc + 4#51, phase := .waiting .launch s.clock, waitFrom := s.fabClock } }
    let awaits (i : Instr) (x : Transfer) (sent : Bool) : Prop := exec i s = .next { s with ids := s.ids + 1, fp := { s.fp with transfers := s.fp.transfers ++ [x], phase := .waiting .engine s.clock, waitFrom := s.fabClock }, out := if sent then s.out ++ [.read s.fp.index x.entry x.win (g 1) len] else s.out }
    let stops (i : Instr) (e : Stop) : Prop := exec i s = .next (takeTrap s e)
    let source : Prop := engineRead s s.ctx (g 0).toNat len = .ok bytes
    let sink (va n : Nat) : Prop := translateRange s s.ctx accWrite 0 (pagesOf va n) = .ok ()
    (near → even → sized → peer < word 2 / 2 ^ 16 → source → posts (.zsend d a w) (toPeer .send none false false)) ∧
    (near → even → (g 3).toNat % 4 = 0 → sized → peer < word 2 / 2 ^ 16 → source →
      posts (.zags d a b w) (toPeer .ags (some (g 3, (f b).extractLsb' 0 32)) false false)) ∧
    (near → even → sized → target < word 3 % 2 ^ 8 → source → posts (.zckpt d a) (toTarget .ckpt none false)) ∧
    (near → even → sized → target < word 3 % 2 ^ 8 → sink (g 0).toNat len → awaits (.zfetch d a 0#1) (toTarget .fetch none true) true) ∧
    (even → sized → target < word 3 % 2 ^ 8 → (inputNode s s.ctx.owner (g 0)).isSome = true →
      awaits (.zfetch d a 1#1) (toTarget .fetch (some ((g 0).extractLsb' 0 32)) true) true) ∧
    (near → even → sized → peer < word 2 / 2 ^ 16 → sink (g 0).toNat len → awaits (.zclone d a 0#1 w) (toPeer .clone none false true) (!home)) ∧
    (near → even → sized → peer < word 2 / 2 ^ 16 → sink (g 0).toNat len → residualOf s (fun _ t => t) = .ok r → sink r.base r.size → sink r.addr 64 →
      awaits (.zclone d a 1#1 w) (toPeer .clone none true true) (!home)) ∧
    (¬near → stops (.zsend d a w) { code := .misaligned, addr := g 0, info1 := 1#32 } ∧ stops (.zags d a b w) { code := .misaligned, addr := g 0, info1 := 1#32 } ∧
      stops (.zckpt d a) { code := .misaligned, addr := g 0, info1 := 1#32 } ∧ stops (.zfetch d a 0#1) { code := .misaligned, addr := g 0, info1 := 2#32 } ∧
      stops (.zclone d a q w) { code := .misaligned, addr := g 0, info1 := 2#32 }) ∧
    (let off (k : Nat) : Stop := { code := .misaligned, addr := (g 1), info1 := BitVec.ofNat 32 k }
     let far : Prop := (g 1).toNat % 64 ≠ 0
     (near → far → stops (.zsend d a w) (off 2) ∧ stops (.zags d a b w) (off 2) ∧ stops (.zckpt d a) (off 2) ∧ stops (.zfetch d a 0#1) (off 1) ∧ stops (.zclone d a q w) (off 1)) ∧
     (far → stops (.zfetch d a 1#1) (off 1))) ∧
    (let odd : Stop := { code := .misaligned }
     let whole : Prop := (g 1).toNat % 64 = 0 ∧ len % 64 ≠ 0
     (near → whole → stops (.zsend d a w) odd ∧ stops (.zags d a b w) odd ∧ stops (.zckpt d a) odd ∧ stops (.zfetch d a 0#1) odd ∧ stops (.zclone d a q w) odd) ∧
     (whole → stops (.zfetch d a 1#1) odd)) ∧
    (near → even → (g 3).toNat % 4 ≠ 0 → stops (.zags d a b w) { code := .misaligned, addr := g 3, info1 := 2#32 }) ∧
    (let bad : Stop := { code := .zilkanDecode }
     (near → even → ¬sized → stops (.zsend d a w) bad ∧ stops (.zckpt d a) bad ∧ stops (.zclone d a q w) bad ∧ stops (.zfetch d a 0#1) bad) ∧
     (even → ¬sized → stops (.zfetch d a 1#1) bad) ∧ (near → even → (g 3).toNat % 4 = 0 → ¬sized → stops (.zags d a b w) bad)) ∧
    (near → even → (g 3).toNat % 4 = 0 → sized → word 2 / 2 ^ 16 ≤ peer → stops (.zags d a b w) { code := .permission, info0 := BitVec.ofNat 32 peer }) ∧
    (∀ e, engineRead s s.ctx (g 0).toNat len = .error e → near → even → sized →
      (peer < word 2 / 2 ^ 16 → stops (.zsend d a w) e ∧ ((g 3).toNat % 4 = 0 → stops (.zags d a b w) e)) ∧ (target < word 3 % 2 ^ 8 → stops (.zckpt d a) e)) ∧
    (∀ e, translateRange s s.ctx accWrite 0 (pagesOf (g 0).toNat len) = .error e → near → even → sized →
      (target < word 3 % 2 ^ 8 → stops (.zfetch d a 0#1) e) ∧ (peer < word 2 / 2 ^ 16 → stops (.zclone d a q w) e)) ∧
    (even → sized → target < word 3 % 2 ^ 8 → inputNode s s.ctx.owner (g 0) = none → stops (.zfetch d a 1#1) { code := .permission, addr := BitVec.ofNat 64 (g 0).toNat, info1 := 2#32 }) ∧
    (near → even → sized → peer < word 2 / 2 ^ 16 → sink (g 0).toNat len →
      let rbd := word 4 + 2 ^ 32 * word 5
      let wrong (cause : Nat) : Prop := stops (.zclone d a 1#1 w) { code := .residualBuffer, cause := cause, addr := BitVec.ofNat 64 rbd }
      (rbd = 0 → wrong 0) ∧ (∀ e, rbd ≠ 0 → engineRead s s.ctx rbd 64 = .error e → stops (.zclone d a 1#1 w) e) ∧
      (∀ rec0, rbd ≠ 0 → engineRead s s.ctx rbd 64 = .ok rec0 →
        let v (k : Nat) : Nat := (wordAt (bytesWords 16 rec0) k).toNat
        let base := v 2 + 2 ^ 32 * v 3
        let size := v 4 + 2 ^ 32 * v 5
        let good : Prop := 2 ^ 31 ≤ v 0 ∧ v 0 % 2 ^ 30 = 0 ∧ (∀ k, 6 ≤ k → k < 16 → v k = 0) ∧ base % 64 = 0 ∧ size % 64 = 0 ∧ size ≤ 2 ^ 40
        (¬good → wrong 1) ∧ (good → residualOf s (fun _ t => t) = .ok ⟨rbd, (v 0).testBit 30, BitVec.ofNat 32 (v 1), base, size⟩)) ∧
      (∀ e, residualOf s (fun _ t => t) = .ok r → translateRange s s.ctx accWrite 0 (pagesOf r.base r.size) = .error e → stops (.zclone d a 1#1 w) e) ∧
      ∀ e, residualOf s (fun _ t => t) = .ok r → sink r.base r.size → translateRange s s.ctx accWrite 0 (pagesOf r.addr 64) = .error e → stops (.zclone d a 1#1 w) e) ∧
    (near → even → sized → word 2 / 2 ^ 16 ≤ peer → stops (.zsend d a w) { code := .permission, info0 := BitVec.ofNat 32 peer } ∧
      stops (.zclone d a q w) { code := .permission, info0 := BitVec.ofNat 32 peer }) ∧
    (near → even → sized → word 3 % 2 ^ 8 ≤ target → stops (.zckpt d a) { code := .permission, info0 := BitVec.ofNat 32 target } ∧
      stops (.zfetch d a 0#1) { code := .permission, info0 := BitVec.ofNat 32 target }) ∧
    (even → sized → word 3 % 2 ^ 8 ≤ target → stops (.zfetch d a 1#1) { code := .permission, info0 := BitVec.ofNat 32 target })

/-- A hop whose CODE is 0, whose reserved bits are not 0 or whose element count is no multiple of the block size from one block to 2^24 raises ZILKAN-DECODE. Where the other checks of a hop pass, its operands read, every incoming code has a value, the descriptor of TID is valid under stochastic T2 and its output can be written: ZRSF writes Dequant(c) + g and ZDQA y + Dequant(c) for each element; ZQNT adds the residuals to its elements, and ZRSC those to Dequant(c) + g, and each compresses the sums block by block and writes the chunk and the new residuals. An incoming code 2 of T2 raises ZILKAN-DECODE, and an invalid descriptor of TID under stochastic T2 TENSOR-DESCRIPTOR. Each goes on to the next word and changes no register. Quantise gives S1 blocks the mean magnitude as scale and the signs as codes, T2 blocks the largest magnitude and codes 0 and the sign by half the scale or by the draw, Bad blocks the scale 0x7FC0, codes 0 and NaN residuals; a residual is the element less the code times the scale, +0 where that is exactly 0. Dequant is exact, and a chunk holds the scales, then the codes end to end, each area padded with zeros. Each draw is word 0 of the ten Philox rounds of R67. The step on the record of TID sets its writer tag, and its last step where the new one is later or there was no writer; it posts SR-KEY-REUSE, unless TKCTL.REPLAY is 1, where another write of the record stands at this step or later; as the second word of a pair it reads the record and TKCTL as they stood before the pair. (No fabric counter of the processor counts hops. Model's choices: that PC wraps at 2^51, log 29; the operands whose signs a residual of exactly 0 keeps, the element and the product, log 61.) (R58, R299, R314, R315, R316, R317, R318, R319, R320, R67, R68, R370) -/
def Obligations.Hops : Prop :=
  (∀ (d a b : BitVec 4) (s u v : State) (slot : Nat) (cb gb ob : List Byte) (r : Residual),
    let g (k : Nat) : Nat := (s.fp.f.getD (a.toNat + k) 0#64).toNat
    let e := (s.fp.f.getD d.toNat 0#64).toNat % 2 ^ 25
    let code := (s.coll.cds.getD 0 0#32).toNat / 2 ^ 28 % 8
    let blk := 4 * 2 ^ ((s.coll.cds.getD 0 0#32).toNat / 2 ^ 25 % 8)
    let counted : Prop := code ≠ 0 ∧ (s.fp.f.getD d.toNat 0#64).toNat / 2 ^ 25 = 0 ∧ g 3 / 2 ^ 48 = 0 ∧ e % blk = 0 ∧ blk ≤ e ∧ e ≤ 2 ^ 24
    let width := if code = 1 then 1 else 2
    let area := 64 * ((2 * (e / blk) + 63) / 64)
    let size := area + 64 * ((e * width / 8 + 63) / 64)
    let bits (k : Nat) : Nat := (cb.getD (area + width * k / 8) 0#8).toNat / 2 ^ (width * k % 8) % 2 ^ width
    let value (k : Nat) : Int := if code = 1 then (if bits k = 0 then 1 else -1) else if bits k = 0 then 0 else if bits k = 1 then 1 else -1
    let full (k : Nat) : Nat := dequant (value k) (bytesNat ((cb.drop (2 * (k / blk))).take 2))
    let elem (k : Nat) : Nat := bytesNat ((gb.drop (4 * k)).take 4)
    let words (x : Nat → Nat) : List Byte := (List.range e).flatMap fun k => natBytes 4 (x k)
    let sums (x : Nat → Nat) : List Nat := (List.range e).map fun k => addF tyF32 (x k) (if r.bf16 then bytesNat ((ob.drop (2 * k)).take 2) * 2 ^ 16 else bytesNat ((ob.drop (4 * k)).take 4))
    let tid := (s.coll.cds.getD 0 0#32).toNat % 2 ^ 12
    let draw (k : Nat) : W32 := philox s.coll.key tid (g 3 % 2 ^ 48 + k) s.coll.step 2
    let blocks (x : Nat → Nat) := (List.range (e / blk)).map fun j => compressBlock code (fun i => draw (blk * j + i)) (((sums x).drop (blk * j)).take blk)
    let chunk (x : Nat → Nat) : List Byte := chunkOf code e blk ((blocks x).map (·.1)) ((blocks x).flatMap fun y => y.2.1)
    let left (x : Nat → Nat) : List Byte := ((blocks x).flatMap fun y => y.2.2).flatMap fun y => if r.bf16 then natBytes 2 (toBf16 y) else natBytes 4 y
    let begun : State := if code = 3 then performSrStep s (fabricSite s) tid s.coll.step (s.coll.cds.getD 1 0#32) (.collective s.coll.id) else s
    let done (i : Instr) (t : State) : Prop := exec i s = .next { t with fp := { s.fp with pc := s.fp.pc + 4#51, phase := .ready } }
    let quiet (t : State) : Prop := ∀ n < 4, selCounts (t.fpsel.getD (4 * t.fp.index + n) 0#32) 4 = false
    let out (rw : Bool) (k : Nat) : HopRange := ⟨g k, 4 * e, 4, rw, true⟩
    let inC : HopRange := ⟨g 0, size, 64, true, false⟩
    let inG : HopRange := ⟨g 1, 4 * e, 4, true, false⟩
    let outC : HopRange := ⟨g 2, size, 64, false, true⟩
    let heard : Prop := engineRead s s.ctx (g 0) size = .ok cb
    let known : Prop := ∀ k < e, code = 1 ∨ bits k ≠ 2
    let given : Prop := engineRead s s.ctx (g 1) (4 * e) = .ok gb
    let steady : Prop := code = 3 → (wordAt (descOf s.ctx tid) 0).getLsbD 31 = true
    let owes (rs : List HopRange) : Prop := residualOf s hopUnread = .ok r ∧ slotRange s r (s.fp.f.getD b.toNat 0#64).toNat e rs = .ok slot
    let owed : Prop := vbytes s s.ctx 0 slot (e * if r.bf16 then 2 else 4) = .ok ob
    let writes (x : Nat → Nat) : Prop := fabricWrite begun (g 2) (chunk x) = .ok u ∧ fabricWrite u slot (left x) = .ok v
    let stops (i : Instr) (x : Stop) : Prop := exec i s = .next (takeTrap s x)
    let unsteady : Stop := { code := .tensorDescriptor, info0 := BitVec.ofNat 32 tid }
    (¬counted → stops (.zqnt d a b) { code := .zilkanDecode } ∧ stops (.zrsc d a b) { code := .zilkanDecode } ∧ stops (.zrsf d a) { code := .zilkanDecode } ∧
      stops (.zdqa d a) { code := .zilkanDecode }) ∧
    (counted →
      (hopChecks s true [inC, inG, out false 2] = .ok () → heard →
        (known → steady → given → fabricWrite s (g 2) (words fun k => addF tyF32 (full k) (elem k)) = .ok u → quiet u → done (.zrsf d a) u) ∧
        (known → ¬steady → stops (.zrsf d a) unsteady) ∧ (¬known → stops (.zrsf d a) { code := .zilkanDecode })) ∧
      (hopChecks s false [inC, out true 1] = .ok () → heard →
        (known → steady → given → fabricWrite s (g 1) (words fun k => addF tyF32 (elem k) (full k)) = .ok u → quiet u → done (.zdqa d a) u) ∧
        (known → ¬steady → stops (.zdqa d a) unsteady) ∧ (¬known → stops (.zdqa d a) { code := .zilkanDecode })) ∧
      (hopChecks s false [inG, outC] = .ok () → owes [inG, outC] → given →
        (steady → owed → writes elem → quiet v → done (.zqnt d a b) v) ∧ (¬steady → stops (.zqnt d a b) unsteady)) ∧
      (hopChecks s false [inC, inG, outC] = .ok () → owes [inC, inG, outC] → heard →
        (known → given → steady → owed → writes (fun k => addF tyF32 (full k) (elem k)) → quiet v → done (.zrsc d a b) v) ∧
        (known → given → ¬steady → stops (.zrsc d a b) unsteady) ∧ (¬known → stops (.zrsc d a b) { code := .zilkanDecode })))) ∧
  (∀ (code : Nat) (draw : Nat → W32) (es : List Nat), 1 ≤ code → code ≤ 3 → es ≠ [] → (∀ x ∈ es, x < 2 ^ 32) →
    let out := compressBlock code draw es
    Compresses code draw es out.1 out.2.1 out.2.2) ∧
  (∀ x neg m k, tyF32.decode x = .num neg m k → m ≠ 0 → ∃ f, RoundsTo tyBF16 plainRne neg ((m : ℝ) * 2 ^ k) (toBf16 x, f)) ∧
  (∀ sc < 2 ^ 16,
    let nan : Prop := 0x7F80 < sc % 2 ^ 15
    (nan → ∀ v, v = 0 ∨ v = 1 ∨ v = -1 → dequant v sc = 0x7FC00000) ∧ (sc % 2 ^ 15 = 0x7F80 → dequant 0 sc = 0x7FC00000) ∧
    (sc % 2 ^ 15 < 0x7F80 → dequant 0 sc = sc / 2 ^ 15 * 2 ^ 31) ∧
    (¬nan → dequant 1 sc = sc * 2 ^ 16 ∧ dequant (-1) sc = (sc + 2 ^ 15) % 2 ^ 16 * 2 ^ 16)) ∧
  (∀ (code e b : Nat) (scales codes : List Nat), 1 ≤ b → e % b = 0 → e % 8 = 0 → scales.length = e / b → codes.length = e → (∀ x ∈ scales, x < 2 ^ 16) →
    let w := if code = 1 then 1 else 2
    (∀ x ∈ codes, x < 2 ^ w) →
    let area := 64 * ((2 * (e / b) + 63) / 64)
    let out := chunkOf code e b scales codes
    out.length = area + 64 * ((e * w / 8 + 63) / 64) ∧ (∀ j < e / b, bytesNat ((out.drop (2 * j)).take 2) = scales.getD j 0) ∧
    (∀ k < e, (out.getD (area + w * k / 8) 0#8).toNat / 2 ^ (w * k % 8) % 2 ^ w = codes.getD k 0) ∧
    (∀ i, (2 * (e / b) ≤ i ∧ i < area) ∨ area + e * w / 8 ≤ i → out.getD i 0#8 = 0#8)) ∧
  (∀ (key step : W32) (tid index purpose : Nat) (k c : Nat → Nat × Nat) (d : Nat → Nat × Nat),
    k 0 = (key.toNat, tid) → c 0 = (index % 2 ^ 32, index / 2 ^ 32 % 2 ^ 32) → d 0 = (step.toNat, purpose) →
    (∀ i, k (i + 1) = (((k i).1 + 0x9E3779B9) % 2 ^ 32, ((k i).2 + 0xBB67AE85) % 2 ^ 32)) →
    (∀ i, let p := 0xD2511F53 * (c i).1
      let q := 0xCD9E8D57 * (d i).1
      c (i + 1) = (q / 2 ^ 32 ^^^ (c i).2 ^^^ (k i).1, q % 2 ^ 32) ∧ d (i + 1) = (p / 2 ^ 32 ^^^ (d i).2 ^^^ (k i).2, p % 2 ^ 32)) →
    philox key tid index step purpose = BitVec.ofNat 32 (c 10).1) ∧
  ∀ (s : State) (x : Site) (t : Nat) (src : WarnSource) (step tag : W32),
    let c := match s.snap with | some p => if p.ctx.owner = x.owner then p.ctx else s.ctxOf x.owner | none => s.ctxOf x.owner
    let rec0 := descOf c t
    let last := wordAt rec0 14
    let writer := wordAt rec0 15
    let comesLater : Prop := 1 ≤ (step - last).toNat ∧ (step - last).toNat < 2 ^ 31
    let reuse : Prop := c.tkctl.getLsbD 31 = false ∧ writer ≠ 0#32 ∧ ¬(tag = writer ∧ step = last) ∧ ¬comesLater
    let written (l : W32) : State := s.mapCtx x.owner fun c => { c with descs := putDesc c.descs t (((descOf c t).set 14 l).set 15 tag) }
    let warned (u : State) : State := postWarning u { x with resum := false } { code := .srKeyReuse, info0 := BitVec.ofNat 32 t, info1 := step, info2 := last, info3 := writer } src
    (writer = 0#32 ∨ comesLater → performSrStep s x t step tag src = written step) ∧
    (reuse → performSrStep s x t step tag src = warned (written last)) ∧
    (writer ≠ 0#32 → ¬comesLater → ¬reuse → performSrStep s x t step tag src = written last)

/-- For a pod of a team of a resident owner: an outstanding result that returns is written to the active lanes it was issued for and is no longer outstanding; a sleep ends once its clocks have passed, and the pod stands in a bunch of its own; the end of a REJOIN hold lets the pods held there that came with equal ganging keys and still have them go on as one bunch; a home bunch all of whose live pods stand at one BUNCH-scope word converges, each pod getting its results, and one whose pods stand at different words raises WATCHDOG for them; a waiting BWAIT or WAITMEM that stands alone completes, waits on or faults as the object or the word it reads says, and in a pair makes the pair ready where its condition holds; a wait that has lasted 2^32 clocks raises WATCHDOG with its cause, a wait on a register only at the scalar of a TROT leg that waits for its partners, and with it every such wait of its team that began in the same cycle: each pod's record names the word of a pair that waits, and the last one's ends the grid where it has no SUSP. A granule whose oldest pending entry has waited 2^GAPX clocks is reported as TICKET-GAP, once for each counter value. (Model's choices: when a hold ends, a load returns and a gap is reported, and that such a record names no node, log 44; the causes of WATCHDOG, log 43; the outstanding result, log 22.) (R33, R34, R37, R39, R93, R148, R227, R234, R236, R237, R266, R355) -/
def Obligations.PodEvents : Prop :=
  ∀ (team pod tag hb : Nat) (s o : State) (t : Team) (p p0 : Pod) (x : Pending) (rest : List Pod) (g : Grid),
    let found : Prop := s.teams.find? (·.id == team) = some t ∧ isResident s t.owner = true
    let here (f : Pod → Pod) : State := { s with teams := s.teams.map fun m => if m.id == team then { m with pods := m.pods.map f } else m }
    let one (f : Pod → Pod) : State := here fun q => if q.index == pod then f q else q
    let live := t.pods.filter fun p => p.index / 16 == hb && p.phase != .ended
    let shared : Prop := ∃ q ∈ t.pods, q.index ≠ pod ∧ q.index / 16 = p.index / 16 ∧ q.bunch = p.bunch ∧ q.phase ≠ .ended
    let leg (q : Pod) : Prop := ∃ h ∈ q.held, (∃ m ∈ s.mats, m.id = h.cmd ∧ (∃ a b l, m.instr = .trot a b l) ∧ ¬(m.started = true ∧ m.stopped = none ∧ 0 < m.next ∧ m.ticketed = false)) ∧
      ∃ w ∈ wordsAt s g (s.ctxOf t.owner) q, ∃ i, decodeCore w.1 w.2 = .ok i ∧ ∃ r ∈ touches i, r.meets (.scalar h.reg 1) = true
    let code (q : Pod) (w : Wait) (cause : Nat) : Prop := (w = .converge ∧ cause = 1) ∨ (w = .engine ∧ cause = 3) ∨ (w = .launch ∧ cause = 4) ∨
      (cause = 2 ∧ (w = .bar ∨ w = .barrier ∨ w = .pointer ∨ w = .memory ∨ w = .tkfence ∨ w = .ticket)) ∨ (w = .register ∧ cause = 3 ∧ leg q)
    let left (u : State) : State := { leaveBunch (closeFocus u) team pod with note := .none, snap := none }
    let ended (i : Instr) (u : State) : State :=
      let v := (retireWord u i (wordAtPod o) (activeMask o)).mapPod fun q => { q with grant := none, lastIssue := max q.lastIssue o.tick }
      { leaveBunch (countCore (closeFocus v) o.ctx.owner o.team.core 3 1) team pod with note := .none, snap := none }
    let finishes (i ev : Instr) (d : BitVec 5) (w : W32) : Prop := ∃ u, exec i o = .next u ∧ u.note = .none ∧ u.pod.scalar d.toNat = w ∧ Advances o u 1 ∧ exec ev s = .next (ended i u)
    let still (k : Wait) : State := { closeFocus (markWait o k) with note := .none, snap := none }
    let ready : State := closeFocus { o with pod := { o.pod with phase := .ready } }
    (found → t.pods.find? (·.index == pod) = some p →
      (p.pending.find? (·.tag == tag) = some x → exec (.loadDataReturn team pod tag) s = .next (one fun q => q.deliverTag tag) ∧
        p.deliverTag tag = { p.deliver x.res with pending := p.pending.filter (·.tag != tag) } ∧
        ∀ m r vals, x.res = .lanes m r vals → ∀ k l, r + k < 128 → l < 4 → (p.deliver x.res).lane (r + k) l =
          if k < vals.length ∧ m.getLsbD l = true then (vals.getD k (Vector.replicate 4 0#32)).getD l 0#32 else p.lane (r + k) l) ∧
      (∀ n, p.phase = .asleep n → n ≤ s.clock →
        (¬shared → exec (.sleepEnd team pod) s = .next (one fun q => { q with phase := .ready })) ∧
        (shared → exec (.sleepEnd team pod) s = .next { one (fun q => { q with phase := .ready, bunch := s.ids }) with ids := s.ids + 1 })) ∧
      (∀ k, p.phase = .waiting .rejoin k → exec (.rejoinHoldEnd team pod) s = .next (here fun q =>
        if q.atRejoin && q.index / 16 == p.index / 16 && q.heldAt == p.heldAt && q.pc == p.pc && q.slot == p.slot && q.cd == p.cd && q.md == p.md then
          { q with phase := .ready, bunch := p.bunch, heldAt := none } else q)) ∧
      (∀ w k, p.phase = .waiting w k → k + 2 ^ 32 ≤ s.clock → s.gridOf t.handle = some g →
        let due := watchdogDue s t g k
        ((due.map (·.1)).Sublist t.pods ∧ (∀ q ∈ t.pods, ∀ n, (q, n) ∈ due ↔ ∃ v, q.phase = .waiting v k ∧ code q v n)) ∧
        ((∃ x ∈ due, x.1.index = pod) → exec (.watchdog team pod) s = .next (watchdogAll team due s)) ∧
        ((∀ x ∈ due, x.1.index ≠ pod) → exec (.watchdog team pod) s = .next s)) ∧
      (∀ w k, p.phase = .waiting w k → s.clock < k + 2 ^ 32 → exec (.watchdog team pod) s = .next s) ∧
      (¬shared → leaveBunch s team pod = s) ∧ (shared → leaveBunch s team pod = { one (fun q => { q with bunch := s.ids }) with ids := s.ids + 1 })) ∧
    (found → live = p0 :: rest → (∀ q ∈ live, ∃ k, q.phase = .waiting .converge k) → s.gridOf t.handle = some g →
      let place (q : Pod) : BitVec 48 × List Nat := (q.pc, ((wordsAt s g (s.ctxOf t.owner) q).zipIdx.filter fun x =>
        match decodeCore x.1.1 x.1.2 with | .ok i => bunchScope i | .error _ => false).map fun x => q.slot.toNat + x.2)
      ((∀ q ∈ live, place q = place p0) → exec (.bunchConvergence team hb) s = .next (here fun q => if q.index / 16 == hb && q.phase != .ended then
        { q with phase := .ready, grant := some (grantFor (wordsAt s g (s.ctxOf t.owner) q) (bunchPositions live) q) } else q)) ∧
      ((∃ q ∈ live, place q ≠ place p0) → exec (.bunchConvergence team hb) s = .next (watchdogAll team (live.map fun q => (q, 0)) s))) ∧
    watchdogAll team [] s = s ∧
    (∀ q n ps, openPod s team q.index = some o → o.pod.skip = 0 → o.pod.skip2 = 0 → watchdogAll team ((q, n) :: ps) s = watchdogAll team ps (if o.grid.susp = true ∨ ps = [] then
      { leaveBunch (takePodTrap o { code := .watchdog, cause := n } o.pod.second) team q.index with note := .none } else postRecord s (podSite o o.pod.second) { code := .watchdog, cause := n })) ∧
    (∀ k, openPod s team pod = some o → o.pod.phase = .waiting .barrier k → ∀ a b c,
      let va := (o.pod.scalar (b.toNat + 1) ++ o.pod.scalar b.toNat).toNat
      let ev : Instr := .bwaitCompletion team pod
      (∀ e, loneInstr o = some (.bwait a b c) → readObject o o.ctx.owner va = .error e → exec ev s = .next (left (takeTrap o e))) ∧
      ∀ pa obj, readObject o o.ctx.owner va = .ok (pa, obj) → (obj.getD 3 0#32).getLsbD 31 = false → Uncounted o 1 3 →
        let phase := obj.getD 2 0#32
        let past : Prop := 1 ≤ (phase - o.pod.scalar a.toNat).toNat ∧ (phase - o.pod.scalar a.toNat).toNat < 2 ^ 31
        (loneInstr o = some (.bwait a b c) → (past → finishes (.bwait a b c) ev a phase) ∧ (¬past → exec ev s = .next (still .barrier))) ∧
        (loneInstr o = none → (pairInstrs o).find? (fun i => match i with | .bwait _ _ _ => true | _ => false) = some (.bwait a b c) →
          (past → exec ev s = .next ready) ∧ (¬past → exec ev s = .next (closeFocus o)))) ∧
    (∀ k, openPod s team pod = some o → o.pod.phase = .waiting .memory k → ∀ a b c,
      let va := (o.pod.scalar (b.toNat + 1) ++ o.pod.scalar b.toNat).toNat
      let ev : Instr := .waitmemCompletion team pod
      (∀ e, loneInstr o = some (.waitmem a b c) → podRecord o va 4 4 = .error e → exec ev s = .next (left (takeTrap o e))) ∧
      ∀ y, podRecord o va 4 4 = .ok y → c ≠ 3#2 →
        let word : W32 := BitVec.ofNat 32 (bytesNat y)
        let sx := o.pod.scalar a.toNat
        let met : Prop := (c = 0#2 ∧ word = sx) ∨ (c = 1#2 ∧ word ≠ sx) ∨ (c = 2#2 ∧ 0 ≤ (word - sx).toInt)
        (loneInstr o = some (.waitmem a b c) → (met → finishes (.waitmem a b c) ev a word) ∧ (¬met → exec ev s = .next (still .memory))) ∧
        (loneInstr o = none → (pairInstrs o).find? (fun i => match i with | .waitmem _ _ _ => true | _ => false) = some (.waitmem a b c) →
          (met → exec ev s = .next ready) ∧ (¬met → exec ev s = .next (closeFocus o)))) ∧
    ∀ owner k n r (e : TkEntry) es, isResident s owner = true →
      let c := s.ctxOf owner
      let now := r.counter s c.key n
      let age := (e :: es).foldl (fun a x => min a x.since) e.since
      let low := es.foldl (fun (a : BitVec 16) x => if (x.ticket - now).toNat < (a - now).toNat then x.ticket else a) e.ticket
      c.regions.getD k none = some r → c.entries.filter (fun e => e.region == k && e.granule == n) = e :: es →
      c.tkctl.toNat % 32 ≠ 0 → age + 2 ^ (c.tkctl.toNat % 32) ≤ s.clock → (n, now) ∉ r.posted →
      exec (.ticketGap owner k n) s = .next (postRecord (s.mapCtx owner fun c => { c with regions := c.regions.setIfInBounds k ((c.regions.getD k none).map fun r => { r with posted := setGranule r.posted n now }) }) { owner := owner, agent := .slice, kind := 6, unit := homeSlice e.pa } { code := .ticketGap, addr := BitVec.ofNat 64 (r.base + 64 * n), info0 := BitVec.ofNat 32 k, info1 := now.zeroExtend 32, info2 := low.zeroExtend 32 })

/-- For a resident owner: an accepted command that clashes with no earlier one, when every earlier one of a resident owner on its core has started or stopped, starts; a started command performs its effect, leaves the queue and frees its scalar, and one whose operands fail is stopped with its record. TZERO zeroes its granules and changes no other byte. MMA, and each of the sixteen products of MMAB, write every element of C as its K-blocks in order give it: each block's exact sum of products, with its scales, rounded once into the F32 accumulator with NaN, infinity and FLAGS as R71 says, or added to the integer accumulator with wrapping or a clamp. MDRAIN into T and TSCL write the drained codes end to end and then the scales, with ADD added to the old ones; a drained row is copied, narrowed, requantised with its column's multiplier and shift, or taken in MX blocks of 32 under a scale; MDRAIN into G writes so much of each row as lies in the tensor, at the row's address, and its scales, other bits of a last byte kept. Four started legs of a TROT move each region to the same offset in the next core of the cluster and then complete; legs that differ are stopped; a ticketed drain offers one granule at a time. A channel with nothing running starts its next copy, SEQ rising and CNT starting at 0; each delivery moves one granule and raises CNT, and the last frees the scalar: TCPY between T, transposed where TR is 1, and G or D, TCPYW a granule of a window, zero bits read and nothing written outside the tensor. (No counter of the owner counts these events.) (Model's choices: a command's effect as one step at its completion, log 33; that a TCPY copy out is transposed where TR is 1, log 35; the rotation of a TROT and a ticketed drain's turns, log 37; the records of stopped commands, log 34.) (R71, R72, R79, R90, R93, R243, R246, R247, R251, R252, R254, R255) -/
def Obligations.EngineEvents : Prop :=
  ∀ (cmd team ch : Nat) (s u : State) (t : Team) (m : MatCmd) (c q : CopyCmd) (e : Stop), MemoryOk s →
    isResident s t.owner = true →
    let key := (s.ctxOf t.owner).key
    let base := tileAt t.core t.tileBase
    let mark (f : MatCmd → MatCmd) (s : State) : State := { s with mats := s.mats.map fun x => if x.id == cmd then f x else x }
    let gone (s : State) : State := releaseHeld { s with mats := s.mats.filter (·.id != cmd) } m.team m.pod cmd
    let kept (u : State) (lo n : Nat) : Prop := ∀ a, a < lo ∨ lo + n ≤ a → keyedByte u key a = keyedByte s key a
    let d := s.ctxOf t.owner
    let streamed (tr : Bool) (o : Nat) : Nat := if tr then 1024 * (o / 1024) + 64 * (o % 64 / 4) + 4 * (o % 1024 / 64) + o % 4 else o
    let signed (w : W32) : Int := w.toInt
    let size (r : List W32) (k : Nat) : Nat := recordField r (6 + k) 0 32
    let rowAt (r : List W32) (rho : Nat) : Nat :=
      let stride (k : Nat) : Nat := recordField r (9 + k) 0 32 + 2 ^ 32 * recordField r 13 (8 * (k - 1)) 8
      recordField r 2 0 32 + 2 ^ 32 * recordField r 3 0 32 + rho % size r 1 * stride 1 + rho / size r 1 % size r 2 * stride 2 + rho / (size r 1 * size r 2) * stride 3
    let words (u : State) (p : Nat) : Nat := bytesNat (memBytes u.mem p 4)
    let quiet (kind ev : Nat) : Prop := ∀ n, selCounts (selOf (s.ctxOf t.owner) kind n) ev = false
    (s.mats.find? (·.id == cmd) = some m → m.id = cmd → s.teamOf m.team = some t →
      (m.started = false → m.stopped = none → (∀ x ∈ s.mats, x.core = m.core → isResident s (matOwner s x) = true → x.stopped = none → x.started = true ∨ cmd ≤ x.id) →
        blocked s m.core cmd (cmdRanges s m) = false → exec (.matrixCommandStart cmd) s = .next (mark (fun x => { x with started := true }) s)) ∧
      (m.started = true → m.stopped = none → (∀ a b k, m.instr ≠ .trot a b k) → m.ticketed = false →
        (runMatrix s t m = some (.ok u) → exec (.matrixCommandCompletion cmd) s = .next (gone u)) ∧
        (runMatrix s t m = some (.error e) → exec (.matrixCommandCompletion cmd) s = .next (stopMatrix s m e)) ∧
        (∀ a b k, m.instr = .tzero a b k → let lo := base + 64 * (m.sx.toNat % 2 ^ 15); let n := 64 * (m.sy.toNat % 2 ^ 15)
          ∃ v, runMatrix s t m = some (.ok v) ∧ v = { s with mem := v.mem, lineKey := v.lineKey, dirty := v.dirty, poison := v.poison } ∧
            kept v lo n ∧ ∀ i < n, memRead v.mem (lo + i) = 0#8) ∧
        (∀ f a b k l g dv np, (m.instr = .mma f a b k l g ∧ dv = 1 ∧ np = 1) ∨ (m.instr = .mmab f a b k l g ∧ dv = 4 ∧ np = 16) →
          tilePoison s base (m.ranges.map fun r => (r.1, r.2.1)) = none →
          let mm := 16 * 2 ^ (m.shape.toNat % 4) / dv; let nn := 16 * 2 ^ (m.shape.toNat / 4 % 4) / dv; let kk := 16 * 2 ^ (m.shape.toNat / 16 % 4)
          let at_ (w : W32) : Nat := base + 64 * (w.toNat % 2 ^ 15)
          let x (p : Nat) : Factor := ⟨at_ m.sy + p * operandSize mm kk (descFmt m.dy) (m.sy.getLsbD 27), m.sy.getLsbD 27, mm, kk, descFmt m.dy⟩
          let y (p : Nat) : Factor := ⟨at_ m.sz + p * operandSize nn kk (descFmt m.dz) (m.sz.getLsbD 27), m.sz.getLsbD 27, nn, kk, descFmt m.dz⟩
          let place (p i j : Nat) : Nat := at_ m.sx + 4 * (p * mm * nn + i * nn + j)
          let elem (p i j : Nat) : Nat × W32 := productElem s (x p) (y p) (words s (place p i j)) (f == 1#1) (g.getLsbD 1) (g.getLsbD 0) i j
          quiet 0 5 → ∃ v, runMatrix s t m = some (.ok v) ∧ kept v (at_ m.sx) (4 * np * mm * nn) ∧
            (∀ p < np, ∀ i < mm, ∀ j < nn, words v (place p i j) = (elem p i j).1 % 2 ^ 32) ∧
            ∀ n, v.teamOf m.team = some n → ∀ b, n.flags.getLsbD b = true ↔ t.flags.getLsbD b = true ∨ ∃ p < np, ∃ i < mm, ∃ j < nn, (elem p i j).2.getLsbD b = true)) ∧
      (m.started = true → m.stopped = none → m.ticketed = false → tilePoison s base m.reads = none →
        let M := 16 * 2 ^ (m.shape.toNat % 4); let N := 16 * 2 ^ (m.shape.toNat / 4 % 4)
        let w := elementBits (descFmt m.dx)
        let s1 := matrixSrStep s m
        let row (i n : Nat) : DrainRow := drainRow s m m.fField (m.source t) i n
        let add (old new : Nat) : Nat := if descFmt m.dx = 0x10 then addF tyF32 old new else (old + new) % 2 ^ 32
        let flagged (v : State) (n : Nat → Nat) : Prop := ∃ F : W32, v.teamOf m.team = (s1.teamOf m.team).map (fun x => { x with flags := x.flags ||| F }) ∧
          ∀ b, F.getLsbD b = true ↔ ∃ i < M, (row i (n i)).flags.getLsbD b = true
        ((∃ f a b c l, m.instr = .mdrain f a b c l 0#1 ∨ m.instr = .tscl f a b c l) →
          let dst := base + 64 * (m.sx.toNat % 2 ^ 15)
          let area := dst + (M * N * w / 8)
          let codes := (List.range M).flatMap fun i => (row i N).codes
          let scales := (List.range M).flatMap fun i => (row i N).scales
          ∃ v, runMatrix s t m = some (.ok v) ∧ flagged v (fun _ => N) ∧
            (m.adds = false → w ≠ 0 → memBytes v.mem dst (M * N * w / 8) = packBits w codes) ∧
            (m.adds = true → descFmt m.dy = descFmt m.dx → descFmt m.dx = 0x10 ∨ descFmt m.dx = 0x05 → ∀ i < M, ∀ j < N, words v (dst + 4 * (i * N + j)) = add (words s (dst + 4 * (i * N + j))) ((row i N).codes.getD j 0)) ∧
            memBytes v.mem area scales.length = scales.map (BitVec.ofNat 8) ∧
            ∀ a, a < dst ∨ area + scales.length ≤ a → keyedByte v key a = keyedByte s1 key a) ∧
        (∀ f a b c l, m.instr = .mdrain f a b c l 1#1 →
          let x0 := 16 * (m.sz.toNat % 2 ^ 16)
          let rho (i : Nat) : Nat := 16 * (m.sz.toNat / 2 ^ 16) + i
          let kind := if m.sx.getLsbD 29 = true then accAtomic else accWrite
          (∀ i, m.inside i = (if rho i < size m.dx 1 * size m.dx 2 * size m.dx 3 then min N (size m.dx 0 - x0) else 0) ∧ m.rowAt i = rowAt m.dx (rho i) + x0 * w / 8 ∧
            m.spans i = (if m.inside i = 0 then [] else (m.rowAt i, (m.inside i * w + 7) / 8) :: (if 0x18 ≤ descFmt m.dx ∧ descFmt m.dx ≤ 0x1C then
              [(recordField m.dx 4 0 32 + 2 ^ 32 * recordField m.dx 5 0 32 + (rho i * ((size m.dx 0 + descBlock m.dx - 1) / descBlock m.dx) + x0 / descBlock m.dx), (m.inside i + 31) / 32)] else []))) ∧
          (∀ z, drainPages s d m = some z → runMatrix s t m = some (.error z) ∧
            ∃ i < M, ∃ r ∈ m.spans i, engineRange s d kind r.1 r.2 = some z ∨ (m.sx.getLsbD 29 = true ∧ vbytes s d 0 r.1 r.2 = .error z)) ∧
          ((∀ i < M, ∀ r ∈ m.spans i, engineRange s d kind r.1 r.2 = none ∧ (m.sx.getLsbD 29 = true → ∃ b, vbytes s d 0 r.1 r.2 = .ok b)) → drainPages s d m = none) ∧
          (drainPages s d m = none → ∃ v, runMatrix s t m = some (.ok v) ∧
            let put := ((List.range M).map fun i => (i, row i (m.inside i))).foldl (writeGlobalRow t.owner m) s1
            (quiet 1 3 → flagged v m.inside ∧ ∀ a, keyedByte v key a = keyedByte put key a)) ∧
          ∀ (u : State) (i : Nat) (r : DrainRow), let e := u.ctxOf t.owner; let n := m.inside i; let va := m.rowAt i
            (n = 0 → writeGlobalRow t.owner m u (i, r) = u) ∧
            (n ≠ 0 → r.codes.length = n →
              let old (j : Nat) : Nat := bytesNat (peekBytes u e (va + 4 * j) 4)
              let codes := if m.adds = true then (List.range n).map (fun j => add (old j) (r.codes.getD j 0)) else r.codes
              let z := putChecked u t.owner va (mergeTail u e va (n * w) (packBits w codes))
              (m.adds = true → descFmt m.dy = descFmt m.dx ∧ (descFmt m.dx = 0x10 ∨ descFmt m.dx = 0x05)) →
              writeGlobalRow t.owner m u (i, r) = if r.scales = [] then z else putChecked z t.owner (descScaleAt m.dx (rho i) x0) (r.scales.map (BitVec.ofNat 8))))) ∧
      (∀ f, let rm := if f = 0#3 then m.mode.toNat % 8 else f.toNat
        let src := descFmt m.dy; let dst := descFmt m.dx
        let narrow : Prop := src = 0x10 ∧ (dst = 0x11 ∨ dst = 0x12)
        let mx : Prop := src = 0x10 ∧ 0x18 ≤ dst ∧ dst ≤ 0x1C
        let T := fmtTy dst
        let M := 16 * 2 ^ (m.shape.toNat % 4); let N := 16 * 2 ^ (m.shape.toNat / 4 % 4)
        (m.rounding f = if rm = 6 ∧ ¬(narrow ∨ mx) then .rne else rmodeOf rm) ∧
        (m.rounding m.fField = .sr → matrixSrStep s m = performSrStep s (matSite s m) (regionTid m.sx) m.step (matSite s m).handle (.grid (((s.gridOf (matSite s m).handle).map (·.uid)).getD 0))) ∧
        (m.rounding m.fField ≠ .sr → matrixSrStep s m = s) ∧
        (∀ i j, m.elemCtx f i j = ⟨m.rounding f, if m.rounding f = .sr then philox m.key (regionTid m.sx)
          ((16 * (m.sz.toNat / 2 ^ 16) + i) * size m.dx 0 + 16 * (m.sz.toNat % 2 ^ 16) + j) m.step 0 else 0#32, m.mode.getLsbD 7, false⟩) ∧
        ∀ from_ i n, let r := drainRow s m f from_ i n
          let z (j : Nat) : Nat := tileElem s from_ (m.sy.getLsbD 27) N 32 i j
          let raised (fl : Nat → W32) (k : Nat) : Prop := ∀ b, r.flags.getLsbD b = true ↔ ∃ j < k, (fl j).getLsbD b = true
          ((src = 0x10 ∧ dst = 0x10) ∨ (src = 0x05 ∧ dst = 0x05) → r = ⟨(List.range n).map z, [], 0#32⟩) ∧
          (narrow → r.codes.length = n ∧ r.scales = [] ∧ ∃ fl, (∀ j < n, ConvertsTo T (m.elemCtx f i j) (tyF32.decode (z j)) (r.codes.getD j 0, fl j)) ∧ raised fl n) ∧
          (src = 0x05 → dst = 0x01 ∨ dst = 0x02 → r.codes.length = n ∧ r.scales = [] ∧ ∃ fl, raised fl n ∧ ∀ j < n,
            let mu := signed (BitVec.ofNat 32 (words s (from_ + 4 * M * N + 8 * j))); let sigma := words s (from_ + 4 * M * N + 8 * j + 4) % 64
            ∃ q, RoundsInt (m.rounding f) ((signed (BitVec.ofNat 32 (z j)) * mu : Int) / 2 ^ sigma) q ∧
              let v := q + signed (wordAt m.dx 1)
              let k := if dst = 0x01 then max (-128) (min v 127) else max 0 (min v 255)
              r.codes.getD j 0 = (k % 256).toNat ∧ fl j = if k = v then 0#32 else 16#32) ∧
          (mx → r.codes.length = n ∧ r.scales.length = (n + 31) / 32 ∧ ∃ fl, raised fl ((n + 31) / 32) ∧ ∀ b < (n + 31) / 32,
            MxBlockOf T (fun j => m.elemCtx f i (32 * b + j)) ((((List.range n).map z).drop (32 * b)).take 32) (r.scales.getD b 0, (r.codes.drop (32 * b)).take 32, fl b))) ∧
      (∀ a b k, m.instr = .trot a b k → m.started = true → m.stopped = none → m.next ≠ 0 → exec (.matrixCommandCompletion cmd) s = .next (gone s)) ∧
      (m.started = true → m.stopped = none → m.ticketed = true → drainApplied s t m = true → exec (.matrixCommandCompletion cmd) s = .next (gone s)) ∧
      (let legs := trotLegs s m; let moves := legs.map (legMove s legs)
        legs.length = 4 → (∀ x ∈ legs, x.started = true ∧ x.sx.toNat % 2 ^ 15 = m.sx.toNat % 2 ^ 15 ∧ x.sy.toNat % 2 ^ 15 = m.sy.toNat % 2 ^ 15) →
        (∀ x ∈ legs, ∀ n, s.teamOf x.team = some n → tilePoison s (tileAt n.core n.tileBase) (x.ranges.map fun r => (r.1, r.2.1)) = none) →
        ∃ v, exec (.trotRotation cmd) s = .next v ∧ v.mats = s.mats.map (fun x => if legs.any (·.id == x.id) then { x with next := 1 } else x) ∧
          (∀ x ∈ legs, ∀ n y q, s.teamOf x.team = some n → legs.find? (fun c => c.core % 4 == (x.core + 1) % 4) = some y → s.teamOf y.team = some q →
            let off := 64 * (x.sx.toNat % 2 ^ 15)
            legMove s legs x = (tileAt q.core (q.tileBase + off), memBytes s.mem (tileAt n.core (n.tileBase + off)) (64 * (x.sy.toNat % 2 ^ 15)))) ∧
          (moves.Pairwise (fun a b => a.1 + a.2.length ≤ b.1 ∨ b.1 + b.2.length ≤ a.1) → (∀ a ∈ moves, 2 ^ 48 ≤ a.1) →
            ∀ a ∈ moves, memBytes v.mem a.1 a.2.length = a.2)) ∧
      (let legs := trotLegs s m; legs.length = 4 → (∃ x ∈ legs, x.sx.toNat % 2 ^ 15 ≠ m.sx.toNat % 2 ^ 15 ∨ x.sy.toNat % 2 ^ 15 ≠ m.sy.toNat % 2 ^ 15) →
        exec (.trotRotation cmd) s = .next (legs.foldl (fun s x => stopMatrix s x { code := .regionBounds, cause := 3 }) s)) ∧
      (∀ pa v, let va := 64 * m.granules.getD m.next 0
        m.ticketed = true → m.started = true → m.stopped = none → 0 < m.next → m.next < m.granules.length → translate s (s.ctxOf t.owner) va accAtomic 0 = .ok pa →
        m.ticketStop (s.ctxOf t.owner) = none →
        (acceptUpdate s t.owner (drainUpdate s t m va pa) = .accepted v → (∀ k, selCounts (selOf (v.ctxOf t.owner) 0 k) 10 = false) →
          exec (.ticketUpdateAccept cmd) s = .next (mark (fun x => { x with next := x.next + 1, stall := none }) v)) ∧
        (acceptUpdate s t.owner (drainUpdate s t m va pa) = .stalled → exec (.ticketUpdateAccept cmd) s = .next (mark (fun x => { x with stall := some pa }) s)) ∧
        ∀ e, acceptUpdate s t.owner (drainUpdate s t m va pa) = .rejected e → exec (.ticketUpdateAccept cmd) s = .next (stopMatrix s m e))) ∧
    (s.teamOf team = some t → ch < 4 →
      let chan := t.chans.getD ch Channel.reset
      (∀ r, chan.current = none → chan.queue = q :: r → blocked s t.core q.id (copyRanges t q) = false →
        exec (.copyCommandStart team ch) s = .next (s.mapChan team ch fun k => { k with seq := k.seq + 1#8, cnt := 0#24, current := some q, queue := r })) ∧
      (chan.current = some c → chan.stopped = none →
        let sampled (u : State) : State := u.mapGrid t.handle fun g => if t.number < 4 then { g with bytes := g.bytes + 64 } else g
        let n := chan.cnt.toNat
        (copyGranule s t c n = .ok u → (∀ k, selCounts (selOf (u.ctxOf t.owner) 0 k) 8 = false) →
          (n + 1 < copyBytes c / 64 → exec (.copyGranuleDelivery team ch) s = .next ((sampled u).mapChan team ch fun k => { k with cnt := k.cnt + 1#24 })) ∧
          (copyBytes c / 64 ≤ n + 1 → exec (.copyGranuleDelivery team ch) s = .next (releaseHeld ((sampled u).mapChan team ch fun k => { k with cnt := k.cnt + 1#24, current := none }) team c.pod c.id))) ∧
        (copyGranule s t c n = .error e → exec (.copyGranuleDelivery team ch) s = .next (stopCopy s t ch e)) ∧
        (∀ x y z l b, c.instr = .tcpy x y z l → c.sz.getLsbD 27 = false → c.sz.getLsbD 26 = false →
          let lo := base + 64 * (c.sx.toNat % 2 ^ 15) + 64 * n
          engineRead s (s.ctxOf t.owner) ((c.sy1 ++ c.sy).toNat + 64 * n) 64 = .ok b → b.length = 64 →
          ∃ v, copyGranule s t c n = .ok v ∧ kept v lo 64 ∧ ∀ i < 64, memRead v.mem (lo + i) = b.getD i 0#8) ∧
        let tile := base + 64 * (c.sx.toNat % 2 ^ 15)
        let die := scratchAt (t.core / 144) (c.sy.toNat + 64 * n)
        let taken := (List.range 64).map fun i => memRead s.mem (tile + streamed (c.sx.getLsbD 27) (64 * n + i))
        let clean : Prop := ∀ i < 64, poisonIn s.poison (tile + streamed (c.sx.getLsbD 27) (64 * n + i)) 1 = none
        (∀ x y z l, c.instr = .tcpy x y z l →
          (c.sz.getLsbD 27 = false → c.sz.getLsbD 26 = true → poisonIn s.poison die 64 = none →
            ∃ v, copyGranule s t c n = .ok v ∧ kept v (tile + 64 * n) 64 ∧ memBytes v.mem (tile + 64 * n) 64 = memBytes s.mem die 64) ∧
          (c.sz.getLsbD 27 = true → c.sz.getLsbD 26 = true → clean → ∃ v, copyGranule s t c n = .ok v ∧ kept v die 64 ∧ memBytes v.mem die 64 = taken) ∧
          (c.sz.getLsbD 27 = true → c.sz.getLsbD 26 = false → clean → copyGranule s t c n = engineWrite s d ((c.sy1 ++ c.sy).toNat + 64 * n) taken)) ∧
        ∀ x y z l, c.instr = .tcpyw x y z l →
          let w := elementBits (descFmt c.desc)
          let per := max 1 (16 * (c.sz.toNat % 2 ^ 12 + 1) * w / 8 / 64)
          let rho := 16 * (c.sy.toNat / 2 ^ 16) + n / per
          let x0 := 16 * (c.sy.toNat % 2 ^ 16)
          let bits := min 512 ((if rho < size c.desc 1 * size c.desc 2 * size c.desc 3 then (size c.desc 0 - x0) * w else 0) - 512 * (n % per))
          let va := rowAt c.desc rho + x0 * w / 8 + 64 * (n % per)
          let bytes := (bits + 7) / 8
          (c.sz.getLsbD 27 = false →
            (bits = 0 → ∃ v, copyGranule s t c n = .ok v ∧ kept v (tile + 64 * n) 64 ∧ memBytes v.mem (tile + 64 * n) 64 = List.replicate 64 0#8) ∧
            (bits ≠ 0 → ∀ b, engineRead s d va bytes = .ok b →
              ∃ v, copyGranule s t c n = .ok v ∧ kept v (tile + 64 * n) 64 ∧ memBytes v.mem (tile + 64 * n) 64 = natBytes 64 (bytesNat b % 2 ^ bits))) ∧
          (c.sz.getLsbD 27 = true → clean →
            (bits = 0 → copyGranule s t c n = .ok s) ∧ (bits ≠ 0 → copyGranule s t c n = engineWrite s d va (mergeTail s d va bits (taken.take bytes)))))) ∧
    (∀ (at_ k w i x : Nat) (tr : Bool), let e := tileElem s at_ tr k w i x
      e < 2 ^ w ∧ ∀ b < w, let o := (i * k + x) * w + b; e.testBit b = (memRead s.mem (at_ + streamed tr (o / 8))).getLsbD (o % 8)) ∧
    (∀ (w : Nat) (l : List Nat), (packBits w l).length = (w * l.length + 7) / 8 ∧
      ∀ k < l.length, ∀ b < w, ((packBits w l).getD ((w * k + b) / 8) 0#8).getLsbD ((w * k + b) % 8) = (l.getD k 0).testBit b) ∧
    (∀ (x y : Factor) (acc i j : Nat) (sat na nb : Bool),
      let n := max 1 (x.k / 32); let per := min 32 x.k
      let int : Prop := 1 ≤ x.fmt ∧ x.fmt ≤ 4
      let val (natural : Bool) (k : Nat) : Int := if natural then k else (BitVec.ofNat (elementBits x.fmt) k).toInt
      let r := productElem s x y acc sat na nb i j
      (int → elementBits y.fmt = elementBits x.fmt → ∃ z : Int × W32, r = ((z.1 % 2 ^ 32).toNat, z.2) ∧ BlocksGive n (BitVec.ofNat 32 acc).toInt
        (fun b => IntegerStep sat ((List.range per).map fun k => val na (x.code s i (32 * b + k)) * val nb (y.code s j (32 * b + k))).sum) z) ∧
      (¬int → BlocksGive n acc (fun b => BlockStep (decide (0x18 ≤ x.fmt) && decide (x.fmt ≤ 0x1C)) (x.scale s i b) (y.scale s j b)
        ((List.range per).map fun k => ((fmtTy x.fmt).decode (x.code s i (32 * b + k)), (fmtTy y.fmt).decode (y.code s j (32 * b + k))))) r) ∧
      (∀ k, x.code s i k = tileElem s x.base x.tr x.k (elementBits x.fmt) i k) ∧
      ∀ b, x.scale s i b = (memRead s.mem (x.base + (let z := (x.rows * x.k * elementBits x.fmt + 7) / 8; if x.tr then (z + 1023) / 1024 * 1024 else (z + 63) / 64 * 64) + i * (x.k / 32) + b)).toNat) ∧
    (∀ (u : State) (o va : Nat) (l : List Byte) (place : Nat → Nat), MemoryOk u → let e := u.ctxOf o
      Placed u e va l.length place → Lands u (putChecked u o va l) e.key place l ∧
        ((∀ i < l.length, e.guards (place i) 1 = false) → ∃ v, engineWrite u e va l = .ok v ∧ Lands u v e.key place l)) ∧
    ∀ (u : State) (e : Context) (va bits pa : Nat) (l : List Byte),
      (bits % 8 = 0 → mergeTail u e va bits l = l) ∧
      (bits % 8 ≠ 0 → l.length = bits / 8 + 1 → translate u e (va + bits / 8) accWrite 0 = .ok pa → ∃ x, mergeTail u e va bits l = l.take (bits / 8) ++ [x] ∧
        ∀ b < 8, x.getLsbD b = if b < bits % 8 then (l.getD (bits / 8) 0#8).getLsbD b else (keyedByte u e.key pa).getLsbD b) ∧
      ∀ i n, i < n → translate u e (va + i) accWrite 0 = .ok pa → (peekBytes u e va n).getD i 0#8 = keyedByte u e.key pa

/-- NODE_APPEND reads the record at POSTHEAD of an enabled stream, appends it to the stream that it names where that is its owner's and it passes the node checks, waits while that stream has no room or is not enabled, and reports it where it is refused or cannot be read; POSTHEAD goes on. A record with a reserved field or a field outside its limits is RESERVED-FIELD, one that names a node of another owner's stream PERMISSION. An appended node gets the next handle of its stream, the next stamp and the dependences of R285: the unfinished earlier nodes of its stream that are serial, as it may be, or share a page with it that one of them writes. It is ready when they have completed, every node that it waits on has been appended and has completed, and its barrier wait is met; a node whose barrier lies past its token is met. The first ready node of its class runs: COPY moves a granule at a time and finishes with its last, SIGNAL writes its word, arrives at its object or does neither and finishes, TAPE pops the newest tape record and launches its grid, or finishes when the tape is empty or its count is reached; the retired grid of a TAPE node fails it with its status or lets it go on, though not in a context that has ended. A finished node leaves its stream with one completion entry of its handle, status and stamp; a failed one cancels the posted nodes that depend on it or wait for it, whose own completion cancels theirs in turn; CMSI sends the stream's interrupt; it stays unfinished while the completion ring is full or its entry cannot be written, which is reported once. A broken barrier object fails its node as BARRIER-OBJECT, once nothing else holds it back; a record popped from the tape that is no good KERNEL record fails the TAPE node with its address. (Model's choices: what stream a post goes to and that a bad post is passed over, and that a completion entry which cannot be written waits, log 40; that the rings and the tape are read and written at virtual addresses of the owner, log 28; which handles count as appended, log 38; that COPY, SIGNAL and TAPE share one class and a COPY moves a granule a step, log 41; the stamp and the priority of a popped grid, log 42.) (R281, R282, R283, R284, R285, R286, R289, R290, R291, R292, R379, R387) -/
def Obligations.GraphNodes : Prop :=
  ∀ (k : Nat) (h : W32) (s t : State) (n : Node) (b : List Byte) (e : Stop),
    let st := s.streams.getD k Stream.reset
    let c := s.ctxOf st.owner.toNat
    let owner := nodeOwner s h
    let o := s.ctxOf owner
    let here := s.stream (handleStream h)
    let w := n.words
    let field (j : Nat) : Nat := (wordAt w (j + 1) ++ wordAt w j).toNat
    let kind := (wordAt w 0).toNat / 2 ^ 28
    let first : Prop := isResident s owner = true ∧ nodeReady s n = true ∧ firstOfClass s n [3, 4, 5] = true
    let running : Prop := n.status = .running ∧ isResident s owner = true
    let run := runNode s h
    let ends (t : State) : State := t.finishNode h 0#32
    let broken (e : Stop) : Stop := if e.code = .misaligned then { code := .barrierObject, addr := e.addr } else e
    let count := (wordAt w 20).toNat
    let pops : Prop := (count = 0 ∨ n.popped < count) ∧ here.tape ≠ 0
    let record : Prop := engineRead s o (here.tapeBase.toNat + 128 * (here.tape - 1)) 128 = .ok b
    (k < 64 → st.enable = true → c.created = true → c.dead = false → st.postHead ≠ st.postTail → st.postRing.entries ≠ 0 →
      let next (t : State) : State := t.mapStream k fun st => { st with postHead := st.postHead + 1#32 }
      (∀ x, engineRead s c (st.postRing.entryAt st.postHead 128) 128 = .error x → exec (.nodeAppend k) s = .next (next (postFailure s k st x))) ∧
      (engineRead s c (st.postRing.entryAt st.postHead 128) 128 = .ok b →
        let r := bytesWords 32 b
        let target := s.streams.getD ((wordAt r 0).toNat % 64) Stream.reset
        let room : Prop := target.enable = true ∧ target.nodes.length < 1024 ∧ unfinished s < 4096
        (target.owner ≠ st.owner → exec (.nodeAppend k) s = .next (next (postFailure s k st { code := .permission }))) ∧
        (∀ x, target.owner = st.owner → recordStop s st.owner.toNat r = some x → exec (.nodeAppend k) s = .next (next (postFailure s k st { code := x }))) ∧
        (target.owner = st.owner → recordStop s st.owner.toNat r = none →
          (room → exec (.nodeAppend k) s = .next (next (appendNode s ((wordAt r 0).toNat % 64) r))) ∧ (¬room → exec (.nodeAppend k) s = .next s)))) ∧
    (∀ r : List W32, k < 64 → let u := appendNode s k r
      u = { s with streams := u.streams, stamp := s.stamp + 1 } ∧ (∀ j, j ≠ k → u.streams.getD j Stream.reset = s.streams.getD j Stream.reset) ∧
      ∃ m : Node, u.streams.getD k Stream.reset = { st with next := st.next + 1, nodes := st.nodes ++ [m], failed := st.failed.filter (· != m.handle) } ∧
        m.handle = BitVec.ofNat 32 (k * 2 ^ 26 + st.next % 2 ^ 26) ∧ m.words = r ∧ m.stamp = s.stamp ∧ m.deps = (st.nodes.filter fun e => dependsOn r e.words).map (·.handle) ∧
        m.barMet = false ∧ m.grid = none ∧ m.popped = 0 ∧
        m.status = if (∃ x ∈ recHandles r, appended (s.streams.getD (x.toNat / 2 ^ 26) Stream.reset) x = true ∧ x ∈ (s.streams.getD (x.toNat / 2 ^ 26) Stream.reset).failed) then .finished 0x100#32 else .posted) ∧
    (∀ (r q : List W32) (x : W32),
      let stream := s.streams.getD (x.toNat / 2 ^ 26) Stream.reset
      let back := (2 ^ 26 + stream.next % 2 ^ 26 - x.toNat % 2 ^ 26) % 2 ^ 26
      let serial (w : List W32) : Prop := recordField w 0 25 1 = 1
      let regions := [8, 10, 12, 14, 16, 18]
      (x ∈ recHandles r ↔ WaitsOn r x) ∧ (appended stream x = true ↔ 1 ≤ back ∧ back ≤ 2 ^ 25 ∧ back ≤ stream.next) ∧
      (dependsOn r q = true ↔ serial r ∨ serial q ∨ ∃ j ∈ regions, ∃ k ∈ regions, (16 ≤ j ∨ 16 ≤ k) ∧ RegionsMeet r q j k)) ∧
    (∀ (a : Nat) (r : List W32),
      let foreign (x : W32) : Prop := (s.streams.getD (x.toNat / 2 ^ 26) Stream.reset).owner.toNat ≠ a
      let names : Prop := (∃ x, WaitsOn r x ∧ foreign x) ∨ (recordField r 0 28 4 = 1 ∧ recordField r 23 28 2 = 0 ∧ foreign (r.getD 24 0#32))
      (¬GoodRecord r → recordStop s a r = some .reservedField) ∧ (GoodRecord r → names → recordStop s a r = some .permission) ∧
      (GoodRecord r → ¬names → recordStop s a r = none)) ∧
    (nodeReady s n = true ↔ n.status = .posted ∧ (∀ x ∈ n.deps, s.nodeOf x = none) ∧
      (∀ x, WaitsOn n.words x → appended (s.streams.getD (x.toNat / 2 ^ 26) Stream.reset) x = true ∧ s.nodeOf x = none) ∧ ((wordAt n.words 1).getLsbD 2 = true → n.barMet = true)) ∧
    (∃ f : Node → Node, cancelDependants s h = { s with streams := s.streams.map fun st => { st with nodes := st.nodes.map f } } ∧ ∀ m,
      ((h ∈ m.deps ∨ WaitsOn m.words h) → m.status = .posted → f m = { m with status := .finished 0x100#32 }) ∧
      (¬((h ∈ m.deps ∨ WaitsOn m.words h) ∧ m.status = .posted) → f m = m)) ∧
    (s.nodeOf h = some n →
      (∀ status, n.status = .finished status → here.cplRing.full = false →
        engineWrite s (s.ctxOf here.owner.toNat) (here.cplRing.entryAt here.cplTail 16) (wordsBytes [h, status, BitVec.ofNat 32 n.stamp, 0#32]) = .ok t →
        let left (bad : List W32) : State := t.mapStream (handleStream h) fun st => { st with nodes := st.nodes.filter (·.handle != h), cplTail := st.cplTail + 1#32, cplFault := false, failed := st.failed ++ bad }
        let told (u : State) : State := if (wordAt w 0).getLsbD 23 then { u with out := u.out ++ [.msix here.owner.toNat (2 + handleStream h)] } else u
        exec (.nodeCompletion h) s = .next (told (if status = 0#32 then left [] else cancelDependants (left [h]) h))) ∧
      (∀ status, n.status = .finished status → here.cplRing.full = true → exec (.nodeCompletion h) s = .next s) ∧
      (∀ status, n.status = .finished status → here.cplRing.full = false →
        engineWrite s (s.ctxOf here.owner.toNat) (here.cplRing.entryAt here.cplTail 16) (wordsBytes [h, status, BitVec.ofNat 32 n.stamp, 0#32]) = .error e →
        exec (.nodeCompletion h) s = .next (if here.cplFault = true then s
          else (postRecord s (graphSite here.owner.toNat h 0#32) e).mapStream (handleStream h) fun st => { st with cplFault := true })) ∧
      (∀ p, n.status = .posted → (wordAt w 1).getLsbD 2 = true → n.barMet = false → isResident s owner = true → readPhase s owner (field 4) = .ok (t, p) →
        1 ≤ (p - wordAt w 6).toNat → (p - wordAt w 6).toNat < 2 ^ 31 →
        exec (.nodeBarrierWaitMet h) s = .next (t.mapNode h fun n => { n with barMet := true })) ∧
      (∀ p, n.status = .posted → (wordAt w 1).getLsbD 2 = true → n.barMet = false → isResident s owner = true → readPhase s owner (field 4) = .ok (t, p) →
        ¬(1 ≤ (p - wordAt w 6).toNat ∧ (p - wordAt w 6).toNat < 2 ^ 31) → exec (.nodeBarrierWaitMet h) s = .next t) ∧
      (n.status = .posted → (wordAt w 1).getLsbD 2 = true → n.barMet = false → isResident s owner = true → readPhase s owner (field 4) = .error e →
        exec (.nodeBarrierWaitMet h) s = .next (if nodeFree s n then failNode s owner h 0#32 (broken e) else s)) ∧
      (n.handle = h → kind = 3 → first ∨ running → engineRead run o (field 20 + 64 * n.popped) 64 = .ok b → engineWrite run o (field 22 + 64 * n.popped) b = .ok t →
        exec (.copyNode h) s = .next (if 64 * (n.popped + 1) < field 24 then t.mapNode h fun n => { n with popped := n.popped + 1 } else ends t)) ∧
      (n.handle = h → kind = 4 → first →
        (wordAt w 22 = 0#32 → engineWrite s o (field 20) (natBytes 4 (wordAt w 23).toNat) = .ok t → exec (.signalNode h) s = .next (ends t)) ∧
        (∀ v, wordAt w 22 = 1#32 → arrive s owner (field 20) = ⟨t, .ok v⟩ → exec (.signalNode h) s = .next (ends t)) ∧
        (wordAt w 22 = 1#32 → arrive s owner (field 20) = ⟨t, .error e⟩ → exec (.signalNode h) s = .next (failNode t owner h 0#32 (broken e))) ∧
        (wordAt w 22 = 2#32 → exec (.signalNode h) s = .next (ends s)) ∧
        (wordAt w 22 = 0#32 → engineWrite s o (field 20) (natBytes 4 (wordAt w 23).toNat) = .error e → exec (.signalNode h) s = .next (failNode s owner h 0#32 e))) ∧
      (n.handle = h → kind = 5 → first → exec (.tapeNodeStart h) s = .next (tapeTurn run h)) ∧
      (∀ r g code fail status, kind = 5 → n.status = .running → isResident s owner = true ∨ o.dead = true → n.grid = some r → s.gridOf r = some g → g.status = .retired code fail status →
        let freed : State := { s with grids := s.grids.filter (·.handle != r) }
        exec (.tapePop h) s = .next (if fail then freed.finishNode h status else if o.dead then freed.finishNode h 0x200#32 else tapeTurn freed h)) ∧
      (¬pops → tapeTurn s h = ends s) ∧
      (∀ x, pops → record → (recType (bytesWords 32 b) ≠ 0 ∧ x = .reservedField) ∨ (recType (bytesWords 32 b) = 0 ∧ recordStop s owner (bytesWords 32 b) = some x) →
        tapeTurn s h = failNode (s.mapStream (handleStream h) fun st => { st with tape := st.tape - 1 }) owner h 0#32
          { code := x, addr := BitVec.ofNat 64 (here.tapeBase.toNat + 128 * (here.tape - 1)) }) ∧
      (pops → engineRead s o (here.tapeBase.toNat + 128 * (here.tape - 1)) 128 = .error e → tapeTurn s h = failNode s owner h 0#32 e) ∧
      (handleStream h < 64 → pops → record → recType (bytesWords 32 b) = 0 → recordStop s owner (bytesWords 32 b) = none → ∃ u g, tapeTurn s h = u ∧
        u.grids = s.grids ++ [g] ∧ g.node = h ∧ g.stream = handleStream h ∧ g.owner = owner ∧ g.stamp = n.stamp ∧ g.parent = none ∧ g.status = .running ∧
        g.teams = (wordAt (bytesWords 32 b) 24).toNat % 2 ^ 24 ∧ (u.stream (handleStream h)).tape = here.tape - 1 ∧
        u.nodeOf h = some { n with popped := n.popped + 1, grid := some g.handle }))

/-- Where no other entry of the core class that could start on its cores comes first, and a kernel whose class is known has no better core, the next team of a loaded grid, or of a ready KERNEL node whose kernel record and scalars read, starts on a core of its resident owner's partition that has room, or its next four on the cores of the cluster (of a grid and a node of one number that could both start there, the earlier in the pool): each is added to the teams and the grid counts it; a team's pods start at the grid's entry with the launch scalars in s0 to s15, an active mask of all lanes at depth 0, CD 0 and SP at the top of their stacks, and with lane registers and predicates of zeros on a core that no team of the owner has used; with SPRT not 0 and no sprout on the core, the team has one; the node runs. A team ends when its pods have ended and nothing of it is left, the registers of their windows stay in the core's register files, its grid counts it, its sprout's silent end is counted, and the transforms that write to it fail; a grid all of whose teams have ended, or all started teams once it is ending, and whose children have retired, retires: its node is finished with its status, or its handle stays for its launcher. (Model's choices: what a pod's lane registers hold on a core that the owner has used, log 2; which register partition a home bunch gets, log 14; which grid has its turn, log 19; a number that names a grid and a node, log 11; the sprout's address, log 60.) (R22, R23, R24, R25, R44, R47, R103, R276, R287, R291, R292, R293) -/
def Obligations.GridEvents : Prop :=
  ∀ (h : W32) (core team : Nat) (s u : State) (g x : Grid) (n : Node) (t : Team),
    let free (owner : Nat) : Prop := isResident s owner = true ∧ core < 576 ∧ core / 144 * s.parts / 4 = (s.ctxOf owner).part
    let cores (g : Grid) (core : Nat) : List Nat := if g.cluster then (List.range 4).map (core - core % 4 + ·) else [core]
    let starts (g : Grid) (core : Nat) : Prop := (∃ e, loadGrid s g = .error e) ∨ ∃ y, loadGrid s g = .ok y ∧ (startNext s y core).isSome = true
    let waiting (e : Grid) (owner : Nat) : Prop := (e ∈ s.grids ∧ e.owner = owner ∧ e.started < e.teams ∧ e.status = .running) ∨
      ∃ st ∈ s.streams.toList, st.owner.toNat = owner ∧ ∃ m ∈ st.nodes, recType m.words = 0 ∧ nodeReady s m = true ∧ e = gridOfNode s m
    let turn (g : Grid) : Prop := ∀ e, waiting e g.owner → (e.pri < g.pri ∨ (e.pri = g.pri ∧ e.stamp < g.stamp)) → ∀ q ∈ cores g core, ¬starts e q
    let holds (c : Bool) (qs : List Nat) : Prop := ∃ q ∈ qs, ∃ m ∈ s.teams, m.core = q ∧ isResident s m.owner = true ∧ ∃ k, s.gridOf m.handle = some k ∧ k.memBound = some c
    let before (a b : Grid) : Prop := a.pri < b.pri ∨ (a.pri = b.pri ∧ a.stamp < b.stamp)
    let can (e : Grid) : Prop := free e.owner ∧ starts e core
    let kernel (p : Node → Prop) : Prop := ∀ m, s.nodeOf h = some m → recType m.words = 0 → nodeReady s m = true → p m
    let grid (p : Grid → Prop) : Prop := ∀ q, s.grids.find? (fun g => g.handle == h && g.hasTeams) = some q → p q
    let content (y : Grid) : Prop := ∀ c, y.memBound = some c → holds (!c) (cores y core) ∨
      ∀ q < 576, q / 144 * s.parts / 4 = (s.ctxOf y.owner).part → holds (!c) (cores y q) → startNext s y q = none
    let put (s : State) (g : Grid) (core : Nat) (t : Team) : State := { s with teams := s.teams ++ [t], ids := s.ids + 1 + (g.pods + 15) / 16, draw := s.draw + 1, used := if core ∈ s.used then s.used else core :: s.used }
    let more (g : Grid) (k : Nat) : Grid := { g with started := g.started + k }
    let gone (v : State) : State := { v with teams := v.teams.filter (·.id != team), mem := t.pods.foldl (leaveWindow t.core) v.mem }.mapGrid t.handle fun g => { g.classify t.number with endedTeams := g.endedTeams + 1 }
    let freed (m : State) : State := { m with grids := (m.grids.filter fun g => !(g.leader == some team && (match g.status with | .retired _ _ _ => true | _ => false))).map fun g => if g.leader == some team then { g with leader := none } else g }
    let kids : Prop := ∀ k ∈ s.grids, k.parent = some h → ∃ a b c, k.status = .retired a b c
    let keeps (code : Nat) (fail : Bool) (st : W32) : State := s.mapGrid h fun g => { g with status := .retired code fail st }
    let drop : State := { s with grids := s.grids.filter (·.handle != h) }
    (∀ y, s.grids.find? (fun g => g.handle == h && g.hasTeams) = some g → free g.owner → turn g → loadGrid s g = .ok y → content y →
      (startNext s y core = some (u, x) → kernel (fun m => ¬(before (gridOfNode s m) g ∧ can (gridOfNode s m))) →
        exec (.teamStart h core) s = .next (u.mapGrid x.handle fun _ => x)) ∧
      (startNext s y core = none → kernel (fun m => ¬can (gridOfNode s m)) → exec (.teamStart h core) s = .next s)) ∧
    (∀ y, s.nodeOf h = some n → recType n.words = 0 → nodeReady s n = true → free (nodeOwner s h) →
      g = gridOfNode s n → turn g → loadGrid s g = .ok y → content y →
      (startNext s y core = some (u, x) → grid (fun q => can q → before g q) → exec (.teamStart h core) s = .next (State.mapNode { u with grids := u.grids ++ [x], draw := u.draw + 1 } x.node
        fun n => { n with status := .running, grid := some x.handle })) ∧
      (startNext s y core = none → grid (fun q => ¬can q) → exec (.teamStart h core) s = .next s)) ∧
    (g.cluster = false → (placeTeam s g g.started core = some t → startNext s g core = some (put s g core t, more g 1)) ∧
      (placeTeam s g g.started core = none → startNext s g core = none)) ∧
    (∀ t1 t2 t3 t4, g.cluster = true → let k := core - core % 4
      let s1 := put s g k t1; let s2 := put s1 g (k + 1) t2; let s3 := put s2 g (k + 2) t3
      placeTeam s g g.started k = some t1 → placeTeam s1 (more g 1) (g.started + 1) (k + 1) = some t2 → placeTeam s2 (more g 2) (g.started + 2) (k + 2) = some t3 →
      placeTeam s3 (more g 3) (g.started + 3) (k + 3) = some t4 → startNext s g core = some (put s3 g (k + 3) t4, more g 4)) ∧
    (placeTeam s g g.started core = some t → t.core = core ∧ t.handle = g.handle ∧ t.number = g.started ∧ t.size = g.pods ∧ t.mode = g.mode ∧ t.flags = 0#32 ∧
      t.tileSize = 4096 * g.tile ∧ t.tileBase + t.tileSize ≤ 0x180000 ∧ t.pods.length = g.pods ∧ t.id = s.ids ∧ t.owner = g.owner ∧ t.bars = 0 ∧ t.children = [] ∧
      (∀ m ∈ s.teams, m.core = core → isResident s m.owner = true → t.tileBase + t.tileSize ≤ m.tileBase ∨ m.tileBase + m.tileSize ≤ t.tileBase) ∧
      (g.sprout ≠ 0#64 → (∀ m ∈ s.teams, m.core = core → isResident s m.owner = true → m.sprout = none) → ∃ q, t.sprout = some q ∧ q.index = 256 ∧
        q.pc = g.sprout.extractLsb' 0 48 ∧ q.slot = 0#2 ∧ q.ws = 2#4 ∧ q.phase = .ready ∧ ∀ k < 32, q.scalar k = if k < 16 then g.scalars.getD k 0#32 else 0#32) ∧
      (g.sprout = 0#64 ∨ (∃ m ∈ s.teams, m.core = core ∧ isResident s m.owner = true ∧ m.sprout ≠ none) → t.sprout = none) ∧
      ∀ p ∈ t.pods, p.index < g.pods ∧ p.pc = g.entry ∧ p.slot = 0#2 ∧ p.pw = 0xF#32 ∧ p.md = 0#3 ∧ p.cd = 0#8 ∧ p.shape = 0#7 ∧ p.srsel = 0#16 ∧ p.ws = g.ws ∧ p.phase = .ready ∧
        p.sp = BitVec.ofNat 64 (g.stackBase.toNat + (g.started * g.pods + p.index + 1) * g.stackSize.toNat) ∧
        (∀ k < 32, p.scalar k = if k < 16 then g.scalars.getD k 0#32 else 0#32) ∧
        (core ∉ s.used → (∀ r < 128, ∀ l < 4, p.lane r l = 0#32) ∧ ∀ k < 7, p.pred k = 0#4)) ∧
    (s.teams.find? (·.id == team) = some t → (∀ p ∈ t.pods, p.phase = .ended) → (∀ m ∈ s.mats, m.team ≠ team) → (∀ c ∈ t.chans.toList, c.current = none ∧ c.queue = []) →
      (∀ e ∈ (s.ctxOf t.owner).entries, e.team ≠ team) → (∀ e ∈ (s.ctxOf t.owner).image.spill, e.2.team ≠ team) →
      exec (.teamEnd team) s = .next (freed (gone (if t.sprout = none then failWriters s team else countCore (failWriters s team) t.owner t.core 0x0C 1)))) ∧
    (∀ q : Pod, MemoryOk s → let m := leaveWindow core s.mem q
      let lane (r l : Nat) : Nat := 2 ^ 50 + core * 0x100000 + 0x20000 * q.part + 16 * (16 * (q.wb.toNat + r) + q.index % 16) + 4 * l
      (∀ r < 16 * q.ws.toNat, ∀ l < 4, memBytes m (lane r l) 4 = natBytes 4 (q.lane r l).toNat) ∧
      ∀ a, (∀ r < 16 * q.ws.toNat, ∀ l < 4, a < lane r l ∨ lane r l + 4 ≤ a) → memRead m a = memRead s.mem a) ∧
    ((∀ y, some y ∈ s.xforms.toList ∨ y ∈ s.parked → y.team ≠ some team) → failWriters s team = s) ∧
    (∀ y z, (s.xforms.toList.filterMap id ++ s.parked).filter (·.team == some team) = [y] → s.nodeOf y.node = some z →
      failWriters s team = stopXform s y z.words { code := .regionBounds }) ∧
    (s.gridOf h = some g → g.handle = h → kids →
      (g.parent ≠ none → g.leader ≠ none → g.status = .running → g.endedTeams = g.teams → exec (.gridRetirement h) s = .next (keeps 0 false 0#32)) ∧
      (∀ code st, g.parent ≠ none → g.leader ≠ none → g.status = .ending code st → g.endedTeams = g.started → exec (.gridRetirement h) s = .next (keeps code true st)) ∧
      (g.parent = none → s.nodeOf g.node = some n → recType n.words = 0 →
        (g.status = .running → g.endedTeams = g.teams → exec (.gridRetirement h) s = .next (drop.finishNode g.node 0#32)) ∧
        ∀ code st, g.status = .ending code st → g.endedTeams = g.started → exec (.gridRetirement h) s = .next (drop.finishNode g.node st)))

/-- The first of a partition's fabric class, captured without a fault, starts when enough fabric processors are idle, and waits until then: its processors take its program, its arguments, their rank and their number, and its node or request runs; one that cannot be captured fails at that moment, one that asks for more processors than its partition has at once. A ready TRANSFORM node whose target stands, in the owner's partition, on a free engine with no earlier claim, with its range inside its destination, starts there; its engine writes its next granule at DADDR plus 64 bytes for each granule before it, in the team's tile store, the die scratch or G, and CNT of the team's pointer counts it, SEQ rising with the node's first; it ends when its source gives no more. Its decoder takes the source piece by piece and holds all that it needs of what it has read; a granule or a check that is due comes before the next piece. Deflate: a canonical code gives the symbol whose code the bits spell; literals, lengths and distances, stored, fixed and dynamic blocks put out their bytes, and what RFC 1951 and R338 forbid is a breach where it stands. STS: a header and record heads within their tables, residuals literal or inflated, samples under their predictor, a back-reference's earlier tile; the granules of a tile go out, then its CRC-32C lets the next tile begin or stops the node. A source that ends too early, and each other breach, is TRANSFORM-FORMAT with its source offset. Source bytes that a ZFETCH brings are appended in order, as many as the engine has room for and the source still lacks; more than it lacks raise PERMISSION in the processor; an input that stays away ILIM microseconds, while there is room for it, raises COLLECTIVE-TIMEOUT. (Model's choices: that a queue request waits while its queue is disabled, log 45; that a node whose team has not started waits, where a broken stream is found, and the 4 KiB of undecoded source bytes that an engine holds, log 46; that a PROG of 2^51 or more is cut to 51 bits, log 45.) (R296, R297, R334, R335, R336, R337, R338, R339, R340, R341, R342, R343) -/
def Obligations.UnitEvents : Prop :=
  ∀ (part eng owner f id : Nat) (h : W32) (s t : State) (x : FabricWork) (c : Collective) (args : List W32) (e : Stop) (n : Node) (y z : Xform) (b bytes : List Byte) (p : Fabric) (m : Transfer) (team : Option Team),
    let w := n.words
    let kind := xfKind w
    let stays (t : State) (y : Xform) : State := { t with xforms := t.xforms.setIfInBounds eng (some y) }
    let word (k : Nat) : Nat := (wordAt w k).toNat
    let nfp := (wordAt x.words 26).toNat % 32
    let work : Prop := engineWork s eng = some (y, n) ∧ teamGone s y = false
    let feeds (a : XfAction) : Prop := feedXform s w (word 22 / 64 + 2) y = .ok (z, a)
    let place (x : Xform) : Nat := x.got - x.buf.length + if x.dec.bit = 0 then 0 else 1
    let padded (l : List Byte) : List Byte := l ++ List.replicate (64 - l.length) 0#8
    let full (n : Nat) (l : List Nat) : List Nat := l ++ List.replicate (n - l.length) 0
    let puts (d : Decoder) (o : List Byte) : Decoder := { d with window := (o ++ d.window).take 32768, ready := d.ready + o.length }
    let ended (d : Decoder) : Decoder := { d with block := if d.final then .over else .head }
    (part < 4 → s.resident.getD part none = some owner → (s.ctxOf owner).dead = false → firstWork (nodeWork s owner ++ queueWork s owner) = some x →
      (nfp ≤ (partFabric s (s.ctxOf owner).part).length → (idleFabric s part).length < nfp → exec (.collectiveStart part) s = .next s) ∧
      (captureWork s owner s.ids x = .ok (c, args) → c.nfp = nfp → nfp ≤ (idleFabric s part).length →
        exec (.collectiveStart part) s = .next (placeCollective s c x args ((idleFabric s part).take c.nfp))) ∧
      (captureWork s owner s.ids x = .error e → nfp ≤ (idleFabric s part).length ∨ (partFabric s (s.ctxOf owner).part).length < nfp → exec (.collectiveStart part) s = .next (failWork s owner x e))) ∧
    (f < 16 → s.fabric.length = 16 → (∀ i (_ : i < s.fabric.length), s.fabric[i].index = i) → ∃ g, (placeCollective s c x args [f]).fabric[f]? = some g ∧ g.coll = some c.id ∧
      g.phase = .ready ∧ g.rank = 0 ∧ g.pc = BitVec.ofNat 51 (fieldAt x.words 20) ∧ (∀ k < 8, g.f.getD k 0#64 = wordAt args (2 * k + 1) ++ wordAt args (2 * k)) ∧
      g.f.getD 8 0#64 = 0#64 ∧ g.f.getD 9 0#64 = BitVec.ofNat 64 c.nfp ∧ g.cds = c.cds ∧ g.key = c.key ∧ g.step = c.step ∧ g.tlim = c.tlim ∧ g.errors = []) ∧
    (part < 4 → s.resident.getD part none = some owner → (s.ctxOf owner).dead = true → exec (.collectiveStart part) s = .next s) ∧
    (s.nodeOf h = some n → recType w = 1 → isResident s (nodeOwner s h) = true →
      (s.parked.find? (·.node == h) = none → nodeReady s n = true → n.handle = h → (xfDst w = 0 → ∃ t, targetTeam s (nodeOwner s h) w = .team t) →
        xfEngine s (nodeOwner s h) w = some (eng, team) → partOfDie s (eng / 4) = (s.ctxOf (nodeOwner s h)).part → s.xforms.getD eng none = none → engineQueue s n eng = false →
        (xfFits s (nodeOwner s h) w team = true → exec (.transformNodeStart h) s = .next (stays (runNode s h) ⟨h, eng, nodeOwner s h, team.map (·.id), 0, [], ⟨0, .head, false, [], 0, none, none, [], []⟩, 0, 0, s.fabClock, none⟩)) ∧
        (xfFits s (nodeOwner s h) w team = false → exec (.transformNodeStart h) s = .next (failNode s (nodeOwner s h) h 0#32 { code := .regionBounds }))) ∧
      (s.parked.find? (·.node == h) = some y → y.eng = eng → y.stopped = none → s.xforms.getD eng none = none →
        exec (.transformNodeStart h) s = .next { stays s { y with waitFrom := s.fabClock } with parked := s.parked.filter (·.node != h) })) ∧
    (work →
      (feeds .finished → exec (.transformGranuleWrite eng) s = .next (endTransform s z.node 0#32)) ∧
      (feeds (.write b) → z.written < word 28 % 2 ^ 24 → xfPut s z w b = .ok t →
        let v : Xform := { z with written := z.written + 1, buf := if kind = 0 then z.buf.drop 64 else z.buf, dec := if kind = 1 then { z.dec with ready := z.dec.ready - 64 } else z.dec }
        (z.eng = eng → (xfNext w v).2 ≠ .finished → exec (.transformGranuleWrite eng) s = .next (stays (xfPoint t z) v)) ∧
        ((xfNext w v).2 = .finished → exec (.transformGranuleWrite eng) s = .next (endTransform (xfPoint t z) z.node 0#32))) ∧
      (feeds (.write b) → word 28 % 2 ^ 24 ≤ z.written → exec (.transformGranuleWrite eng) s = .next (stopXform s z w (xfStop s z w .transformFormat (place z)))) ∧
      (feeds (.write b) → z.written < word 28 % 2 ^ 24 → xfPut s z w b = .error e → exec (.transformGranuleWrite eng) s = .next (stopXform s z w e)) ∧
      (feeds .mismatch → exec (.transformGranuleWrite eng) s = .next (stopXform s z w (xfStop s z w .transformCheck (place z)))) ∧
      (∀ o, feeds (.broken o) → exec (.transformGranuleWrite eng) s = .next (stopXform s z w (xfStop s z w .transformFormat o))) ∧
      (feeds .pass →
        let v : Xform := { z with buf := z.buf.drop 4, checked := z.checked + 1, dec := { z.dec with tile := none, cur := [], tiles := z.dec.cur :: z.dec.tiles } }
        (z.eng = eng → (xfNext w v).2 ≠ .finished → exec (.transformGranuleWrite eng) s = .next (stays s v)) ∧
        ((xfNext w v).2 = .finished → exec (.transformGranuleWrite eng) s = .next (endTransform s z.node 0#32))) ∧
      (feeds .needs → z.eng = eng → exec (.transformGranuleWrite eng) s = .next (stays s z)) ∧
      (feedXform s w (word 22 / 64 + 2) y = .error e → exec (.transformGranuleWrite eng) s = .next (stopXform s y w e))) ∧
    (∀ (k : Nat) (x : Xform), let r := xfNext w x; let va := fieldAt w 20 + r.1.got; let n := min (64 - va % 64) (word 22 - r.1.got)
      (r.2 ≠ .needs ∨ (wordAt w 23).getLsbD 27 = true → feedXform s w k x = .ok r) ∧
      (r.2 = .needs → (wordAt w 23).getLsbD 27 = false → (∀ e, engineRead s (s.ctxOf r.1.owner) va n = .error e → feedXform s w (k + 1) x = .error e) ∧
        ∀ b, engineRead s (s.ctxOf r.1.owner) va n = .ok b → feedXform s w (k + 1) x = feedXform s w k { r.1 with got := r.1.got + b.length, buf := r.1.buf ++ b })) ∧
    (let d := s.ctxOf z.owner
      let off := word 26 + 64 * z.written
      let dst := word 23 / 2 ^ 28 % 4
      MemoryOk s →
      (∀ k v, dst = 0 → z.team = some k → s.teamOf k = some v → ∃ u, xfPut s z w b = .ok u ∧ Lands s u d.key (fun i => tileAt v.core (v.tileBase + off) + i) b) ∧
      (dst = 1 → ∃ u, xfPut s z w b = .ok u ∧ Lands s u d.key (fun i => scratchAt (z.eng / 4) off + i) b) ∧
      (dst = 2 → xfPut s z w b = engineWrite s d ((wordAt w 27 ++ wordAt w 26).toNat + 64 * z.written) b) ∧
      (z.team = none → xfPoint s z = s) ∧
      ∀ k, z.team = some k → ∃ f : W32 → W32, xfPoint s z = s.mapTeam k (fun m => { m with xfptr := m.xfptr.setIfInBounds (z.eng % 4) (f (m.xfptr.getD (z.eng % 4) 0#32)) }) ∧
        ∀ x, (f x).toNat % 2 ^ 24 = (z.written + 1) % 2 ^ 24 ∧ (f x).toNat / 2 ^ 24 = (x.toNat / 2 ^ 24 + if z.written = 0 then 1 else 0) % 256) ∧
    (∀ (k : Nat) (x : Xform), let go := decodeXform w (k + 1) x
      xfNext w x = decodeXform w (8 * x.buf.length + 2) x ∧
      (∀ a, x.due w = some a → go = (x, a)) ∧
      (x.due w = none →
        (∀ y, decodeStride kind x = .on y → go = decodeXform w k y) ∧ (∀ o, decodeStride kind x = .broken o → go = (x, .broken o)) ∧
        (decodeStride kind x = .needs → go = (x, if word 22 ≤ x.got then .broken (word 22) else .needs)))) ∧
    (∀ x : Xform, let d := x.dec; let n := min 64 (word 22 - 64 * x.written); let o := (d.window.take d.ready).reverse
      (kind = 0 → x.due w = if n = 0 then some .finished else if n ≤ x.buf.length then some (.write (padded (x.buf.take n))) else none) ∧
      (kind = 1 → x.due w = if 64 ≤ d.ready then some (.write (o.take 64)) else if d.block ≠ .over then none else if d.ready = 0 then some .finished else some (.write (padded o))) ∧
      (2 ≤ kind → (d.header = none → x.due w = none) ∧
        ∀ hd : StsHeader, d.header = some hd → let g := (2 * hd.tw * hd.th + 63) / 64; let k := x.written - x.checked * g
          (d.tile = none → x.due w = if x.checked = hd.ntile then some .finished else none) ∧
          ∀ r : StsRecord, d.tile = some r →
            (k < g → x.due w = if min (2 * hd.tw * hd.th) (64 * (k + 1)) ≤ d.cur.length then some (.write (padded ((d.cur.drop (64 * k)).take 64))) else none) ∧
            (g ≤ k → (r.rk = 1 ∧ d.block ≠ .over) ∨ r.left ≠ 0 ∨ x.buf.length < 4 → x.due w = none) ∧
            (g ≤ k → (r.rk = 1 → d.block = .over) → r.left = 0 → 4 ≤ x.buf.length →
              x.due w = some (if BitVec.ofNat 32 (bytesNat (x.buf.take 4)) = crc32c d.cur then .pass else .mismatch)))) ∧
    (∀ (lens : List Nat) (k : Nat) (code rest : List Bool),
      let len (j : Nat) : Nat := lens.getD j 0
      let kraft := (lens.map fun x => if x = 0 then 0 else 2 ^ (15 - x)).sum
      (∀ x ∈ lens, x ≤ 15) →
      (kraft ≤ 2 ^ 15 → len k = code.length → 0 < code.length →
        code.foldl (fun a b => 2 * a + if b then 1 else 0) 0 =
          ((List.range lens.length).map fun j => if len j ≠ 0 ∧ (len j < len k ∨ (len j = len k ∧ j < k)) then 2 ^ (len k - len j) else 0).sum →
        huffSym (huffOf lens) (code ++ rest) = .ok k rest) ∧
      (huffComplete lens = true ↔ kraft = 2 ^ 15) ∧
      (huffDistance lens = true ↔ kraft = 2 ^ 15 ∨ (∀ x ∈ lens, x = 0) ∨ lens.filter (· ≠ 0) = [1])) ∧
    ((List.range 29).map lengthCode = [3, 4, 5, 6, 7, 8, 9, 10, 11, 13, 15, 17, 19, 23, 27, 31, 35, 43, 51, 59, 67, 83, 99, 115, 131, 163, 195, 227, 258].zip
        (List.replicate 8 0 ++ List.replicate 4 1 ++ List.replicate 4 2 ++ List.replicate 4 3 ++ List.replicate 4 4 ++ List.replicate 4 5 ++ [0]) ∧
      (List.range 30).map distanceCode = [1, 2, 3, 4, 5, 7, 9, 13, 17, 25, 33, 49, 65, 97, 129, 193, 257, 385, 513, 769, 1025, 1537, 2049, 3073, 4097, 6145, 8193, 12289, 16385, 24577].zip
        ([0, 0, 0, 0] ++ (List.range 26).map (fun k => k / 2 + 1)) ∧
      fixedLit = ((List.range 288).map fun k => if k < 144 then 8 else if k < 256 then 9 else if k < 280 then 7 else 8) ∧ fixedDist = List.replicate 32 5) ∧
    (∀ l r : List Bool, takeBits l.length (l ++ r) = some (l.foldr (fun b a => (if b then 1 else 0) + 2 * a) 0, r)) ∧
    (∀ (d : Decoder) (lit dist : Huff) (k : Nat) (l r : List Bool), let go := inflateSymbol d lit dist l
      (huffSym lit l = .more → go = .more) ∧ (huffSym lit l = .bad r → go = .bad r) ∧
      (huffSym lit l = .ok k r →
        (k < 256 → go = .ok (puts d [BitVec.ofNat 8 k]) r) ∧ (k = 256 → go = .ok (ended d) r) ∧ (285 < k → go = .bad r) ∧
        ∀ x q r1 r2, 256 < k → k ≤ 285 → takeBits (lengthCode (k - 257)).2 r = some (x, r1) → huffSym dist r1 = .ok q r2 →
          (29 < q → go = .bad r2) ∧
          ∀ y r3, q ≤ 29 → takeBits (distanceCode q).2 r2 = some (y, r3) → let n := (distanceCode q).1 + y; let m := (lengthCode (k - 257)).1 + x
            go = if d.window.length < n then .bad r3 else .ok (puts d ((copyBack n m d.window).take m)) r3)) ∧
    (∀ (d n : Nat) (o : List Byte), 1 ≤ d → d ≤ o.length → let c := copyBack d n o
      c.length = n + o.length ∧ c.drop n = o ∧ ∀ j < n, c.getD j 0#8 = c.getD (j + d) 0#8) ∧
    (∀ (d : Decoder) (l r : List Bool) (last : Bool) (v n : Nat) (lit dist : List Nat), let d1 : Decoder := { d with final := last }
      let head (a b : Bool) : Got Decoder := inflateHead d (last :: a :: b :: r)
      (d.block = .head → inflateStep d l = inflateHead d l) ∧ (d.block = .codes lit dist → inflateStep d l = inflateSymbol d (huffOf lit) (huffOf dist) l) ∧
      (d.block = .stored n → (takeBits 8 l = none → inflateStep d l = .more) ∧
        (takeBits 8 l = some (v, r) → let o := puts d [BitVec.ofNat 8 v]; inflateStep d l = .ok (if n ≤ 1 then ended o else { o with block := .stored (n - 1) }) r)) ∧
      (l.length < 3 → inflateHead d l = .more) ∧ (takeBits 32 (r.drop (r.length % 8)) = none → head false false = .more) ∧
      (∀ q, takeBits 32 (r.drop (r.length % 8)) = some (n, q) → head false false =
        if n % 65536 + n / 65536 ≠ 65535 then .bad q else .ok (if n % 65536 = 0 then ended d1 else { d1 with block := .stored (n % 65536) }) q) ∧
      head true false = .ok { d1 with block := .codes fixedLit fixedDist } r ∧ head true true = .bad r ∧
      (dynamicCodes r = .more → head false true = .more) ∧ (∀ q, dynamicCodes r = .bad q → head false true = .bad q) ∧
      (∀ q, dynamicCodes r = .ok (lit, dist) q → head false true = .ok { d1 with block := .codes lit dist } q)) ∧
    (∀ (l r q : List Bool) (x : Nat) (ls lens : List Nat), takeBits 14 l = some (x, r) → takeThrees (x / 1024 + 4) r = some (ls, q) → lens.length = 19 →
      (∀ i < 19, lens.getD ([16, 17, 18, 0, 8, 7, 9, 6, 10, 5, 11, 4, 12, 3, 13, 2, 14, 1, 15].getD i 0) 0 = ls.getD i 0) →
      let nl := x % 32 + 257; let nd := x / 32 % 32 + 1
      (286 < nl ∨ huffComplete lens = false → dynamicCodes l = .bad q) ∧
      (nl ≤ 286 → huffComplete lens = true → (∀ r, codeLengths (huffOf lens) (nl + nd) (nl + nd) [] q = .bad r → dynamicCodes l = .bad r) ∧
        ∀ all r, codeLengths (huffOf lens) (nl + nd) (nl + nd) [] q = .ok all r → dynamicCodes l =
          if huffComplete (all.take nl) = true ∧ huffDistance (all.drop nl) = true then .ok (full 288 (all.take nl), full 32 (all.drop nl)) r else .bad r)) ∧
    (∀ (h : Huff) (n fuel k : Nat) (acc : List Nat) (l r : List Bool), (acc.length = n → codeLengths h n fuel acc l = .ok acc.reverse l) ∧
      (acc.length ≠ n → huffSym h l = .ok k r → let go := codeLengths h n (fuel + 1) acc l
        (k < 16 → go = codeLengths h n fuel (k :: acc) r) ∧
        ∀ x r1, 16 ≤ k → takeBits (if k = 16 then 2 else if k = 17 then 3 else 7) r = some (x, r1) → let m := (if k = 18 then 11 else 3) + x
          go = if (k = 16 ∧ acc = []) ∨ n < acc.length + m then .bad r1 else codeLengths h n fuel (List.replicate m (if k = 16 then acc.headD 0 else 0) ++ acc) r1)) ∧
    (∀ (src : List Byte) (tw th nt : Nat), let v (k n : Nat) : Nat := bytesNat ((src.drop k).take n)
      (stsHeader src = some ⟨tw, th, nt⟩ ↔ src.take 5 = [0x53#8, 0x54#8, 0x53#8, 0x31#8, 1#8] ∧ v 5 1 = 0 ∧ v 6 2 = tw ∧ v 8 2 = th ∧ v 10 2 = 0 ∧ v 12 4 = nt ∧ v 16 16 = 0 ∧
        1 ≤ tw ∧ 1 ≤ th ∧ tw * th ≤ 32768 ∧ 1 ≤ nt ∧ nt ≤ 2 ^ 24) ∧
      ∀ n size, let h := (src.getD 0 0#8).toNat; let dist := (src.getD 1 0#8).toNat
        (stsHeadOk src n size = true ↔ h < 16 ∧ h % 4 ≠ 3 ∧ h / 4 ≠ 3 ∧ v 2 2 = 0 ∧
          (h % 4 = 2 → h / 4 = 0 ∧ 1 ≤ dist ∧ dist ≤ 64 ∧ dist ≤ n ∧ v 4 4 = 0) ∧ (h % 4 ≠ 2 → dist = 0) ∧ (h % 4 = 0 → v 4 4 = size) ∧ (h % 4 = 1 → 1 ≤ v 4 4))) ∧
    (∀ (pred tw th : Nat) (res : List Byte), 1 ≤ tw → res.length = 2 * tw * th → pred ≤ 2 →
      let out := addSamples pred tw res []
      let r (i j : Nat) : Nat := bytesNat ((res.drop (2 * (j * tw + i))).take 2)
      let o (i j : Nat) : Nat := bytesNat ((out.drop (2 * (j * tw + i))).take 2)
      out.length = res.length ∧ ∀ i < tw, ∀ j < th,
        let left := if i = 0 then 0 else o (i - 1) j; let up := if j = 0 then 0 else o i (j - 1)
        o i j = (r i j + if pred = 0 then 0 else if pred = 1 then left else (left + up) / 2) % 65536) ∧
    (∀ (pred tw : Nat) (l r cur : List Byte), l.length % 2 = 0 → addSamples pred tw (l ++ r) cur = addSamples pred tw r (addSamples pred tw l cur)) ∧
    (crc32c [] = 0#32 ∧ ∀ (l : List Byte) (a : Byte), crc32c (l ++ [a]) = ~~~((List.range 8).foldl (fun c _ => if c.getLsbD 0 then (c >>> 1) ^^^ 0x82F63B78#32 else c >>> 1)
      (~~~(crc32c l) ^^^ a.zeroExtend 32))) ∧
    (∀ (x y : Xform) (hd : StsHeader) (r : StsRecord) (n : Nat), let d := x.dec
      let at_ := x.got - x.buf.length
      let view := x.buf.take n; let bits := (bitsOf view).drop d.bit; let size := 2 * hd.tw * hd.th
      let h0 := (x.buf.getD 0 0#8).toNat
      let goes := deflateStride x r.left
      (inflateStep d bits = .more → deflateStride x n = if n ≤ x.buf.length then .broken (at_ + n) else .needs) ∧
      (∀ q, inflateStep d bits = .bad q → deflateStride x n = .broken (at_ + (view.length - q.length / 8))) ∧
      (∀ v q, inflateStep d bits = .ok v q → deflateStride x n = .on { x with buf := x.buf.drop (view.length - (q.length + 7) / 8), dec := { v with bit := (8 - q.length % 8) % 8 } }) ∧
      (kind = 1 → decodeStride kind x = deflateStride x (x.buf.length + 1)) ∧
      (kind = 2 → (d.header = none → decodeStride kind x =
          if x.buf.length < 32 then .needs else match stsHeader x.buf with | none => .broken (place x) | some hd => .on { x with buf := x.buf.drop 32, dec := { d with header := some hd } }) ∧
        (d.header = some hd → d.tile = none → decodeStride kind x =
          if x.buf.length < 8 then .needs else if stsHeadOk x.buf x.checked size = false then .broken (place x)
          else .on { x with buf := x.buf.drop 8, dec := ⟨0, .head, false, [], 0, some hd, some ⟨h0 % 4, h0 / 4 % 4, bytesNat ((x.buf.drop 4).take 4)⟩, if h0 % 4 = 2 then d.tiles.getD ((x.buf.getD 1 0#8).toNat - 1) [] else [], d.tiles.take 63⟩ }) ∧
        (d.header = some hd → d.tile = some r →
          (r.rk = 0 → d.cur.length < size → decodeStride kind x =
            if x.buf.length < 2 then .needs
            else .on { x with buf := x.buf.drop 2, dec := { d with tile := some { r with left := r.left - 2 }, cur := addSamples r.pred hd.tw (x.buf.take 2) d.cur } }) ∧
          (r.rk = 1 → d.block ≠ .over →
            (goes = .needs → decodeStride kind x = .needs) ∧ (∀ o, goes = .broken o → decodeStride kind x = .broken o) ∧
            (goes = .on y → size < y.dec.cur.length + y.dec.ready → decodeStride kind x = .broken (place y)) ∧
            (goes = .on y → y.dec.cur.length + y.dec.ready ≤ size → decodeStride kind x = .on { y with dec := { y.dec with tile := some { r with left := r.left - (x.buf.length - y.buf.length) }, ready := y.dec.ready % 2, cur := addSamples r.pred hd.tw (y.dec.window.take y.dec.ready).reverse y.dec.cur } })) ∧
          (r.rk ≠ 0 → (r.rk = 1 → d.block = .over) → d.cur.length < size → decodeStride kind x = .broken (place x)) ∧
          ((r.rk = 1 → d.block = .over) → size ≤ d.cur.length → decodeStride kind x =
            if r.left = 0 then .needs else if x.buf = [] then .needs
            else .on { x with buf := x.buf.drop r.left, dec := { d with bit := 0, tile := some { r with left := r.left - x.buf.length } } })))) ∧
    (engineWork s eng = some (y, n) → (wordAt w 23).getLsbD 27 = true → y.got < word 22 → y.buf.length < 4096 → y.waitFrom + 1400 * word 29 ≤ s.fabClock →
      exec (.transformInputTimeout eng) s = .next (stopXform s y w { code := .collectiveTimeout, info0 := BitVec.ofNat 32 y.got, info1 := wordAt w 29 })) ∧
    (∀ k, findTransfer s f id = some (p, m) → m.input = some h → p.phase = .waiting .engine k → inputNode s m.owner m.place = some n → findXform s h = some y →
      let got := bytes.take (min (m.len - m.landed) (4096 - y.buf.length))
      let room := word 22 - y.got
      let give (now : Nat) (x : Xform) : Xform := if x.node == h then { x with got := x.got + (got.take room).length, buf := x.buf ++ got.take room, waitFrom := now } else x
      let given : State := { s with xforms := s.xforms.map fun x => x.map (give s.fabClock), parked := s.parked.map (give 0) }
      got ≠ [] → (∀ j < 4, selCounts (s.fpsel.getD (4 * f + j) 0#32) 2 = false) →
      (got.length ≤ room → exec (.transformInputArrival f id bytes) s = .next (mapTransfer given id fun t => { t with landed := t.landed + got.length })) ∧
      (room < got.length → exec (.transformInputArrival f id bytes) s = .next (faultWaiting given f id 0#51 { code := .permission, addr := m.place, info1 := 2#32 })))

/-- A posted transfer whose source reads is sent, and its processor goes on, also where its collective has ended. Its acknowledgement takes it off the list, and a refusal is noted for the next release; a ZAGS stays listed until its flag, which goes out once its data and every earlier posted transfer of the processor's collective have been acknowledged, is acknowledged too. A waited transfer's bytes are written to their place, under RZ the residual buffer that its descriptor then names is zeroed and the GEN that then stands is raised, and the processor goes on; a place that no longer takes them, or a source that no longer reads, stops the processor at the transfer, and a transfer left over from an ended collective leaves a record only. An incoming write, read or arrival of a job with a loaded key, on a port of the module, is received by the processor of its port, and served where the sender belongs to the group and the window, its right and its pages allow it; otherwise it is refused and reported, an object that refuses an arrival staying as it was, and one of an unknown job changes nothing. A waiting ZWAIT whose object or flag meets its condition completes, and otherwise waits on; a wait of TLIM microseconds raises COLLECTIVE-TIMEOUT, at a waited transfer also while its collective is suspended or over, which names the peer or target of the waited transfer at which the processor stands, or of its oldest posted one; a retransmitted packet is counted. (Where it says so, no fabric counter counts the bytes, and no slice counter the read of an object. Model's choices: that a processor whose transfer stays inside the module is named in the window's reports, what a transfer that a completed check turns away leaves, the record of a leftover transfer, and the peer of a wait on no transfer of its own, log 45; that PC wraps at 2^51, log 29; that the environment's turns bring what arrives, log 19.) (R7, R13, R300, R310, R311, R312, R313, R326, R327, R328, R331, R370) -/
def Obligations.FabricEvents : Prop :=
  ∀ (f id refusal win len : Nat) (job : BitVec 32) (sender : Sender) (off : BitVec 64) (s o u : State) (p : Fabric) (m : Transfer) (k0 : Collective) (e : Stop) (b bytes : List Byte),
    let quiet (g ev : Nat) : Prop := ∀ n < 4, selCounts (s.fpsel.getD (4 * g + n) 0#32) ev = false
    let held (g : Fabric → Fabric) (s : State) : State := mapHolder s id g
    let more (x : Outgoing) (s : State) : State := { s with out := s.out ++ [x] }
    let on (t : State) : State := held (fun q => match q.phase with
      | .waiting .engine _ => if q.coll = some m.coll ∧ m.posted = false then (if t.colls.any (·.id == m.coll) then { q with pc := q.pc + 4#51, phase := .ready } else { q with coll := none, phase := .ended }) else q
      | _ => q) t
    let site (w g : Nat) : Site := { owner := w, agent := .fabric g, kind := 4, unit := g }
    let c := s.ctxOf m.owner
    let fpsite (n : BitVec 51) : Site := { owner := c.owner, agent := .fabric p.index, kind := 4, resum := k0.susp, named := k0.queue.isNone, node := k0.node, unit := p.index, pc := (p.pc - n).toNat }
    let sink (va n : Nat) : Except Stop Unit := translateRange s c accWrite 0 (pagesOf va n)
    let quietIn (t : State) (ev : Nat) : Prop := ∀ n < 4, selCounts (t.fpsel.getD (4 * f + n) 0#32) ev = false
    let acks (t : State) : Prop := exec (.transferAcknowledgement f id refusal) s = .next t
    let waited (t : State) : Prop := exec (.waitedTransferCompletion f id bytes) s = .next t
    (findTransfer s f id = some (p, m) → m.id = id → m.read = false → m.posted = true →
      (p.coll = some m.coll → ∃ k, p.phase = .waiting .launch k) →
      (engineRead s c m.place.toNat m.len = .ok b → quiet f 1 → exec (.postedTransferLocalCompletion f id) s = .next (
        let t := mapTransfer (held (fun p => if p.coll == some m.coll then { p with phase := .ready } else p) s) id fun x => { x with read := true, data := if m.inside then b else [] }
        if m.inside then t else more (.write f m.entry m.win m.remote b) t)) ∧
      (engineRead s c m.place.toNat m.len = .error e → exec (.postedTransferLocalCompletion f id) s = .next (faultWaiting s f id 4#51 e))) ∧
    (findTransfer s f id = some (p, m) → m.read = true ∨ m.posted = false → exec (.postedTransferLocalCompletion f id) s = .next s) ∧
    (∀ (q : Fabric) (x : Transfer), flagDue q x = true ↔ x.acked = true ∧ ∀ y ∈ q.transfers, y.posted = true → y.coll = x.coll → x.id ≤ y.id) ∧
    ((∀ q ∈ u.fabric ++ u.owners.flatMap (·.processors), q.index = f → ∀ x ∈ q.transfers, flagDue q x = false) → sendFlags u f = u) ∧
    (∀ (q : Fabric) (x : Transfer) (at_ : W64) (v : W32), (u.fabric ++ u.owners.flatMap (·.processors)).filter (·.index == f) = [q] → q.transfers.filter (flagDue q) = [x] →
      x.flag = some (at_, v) → (x.inside = false → quietIn u 1) →
      let data : List Byte := natBytes 4 v.toNat
      let w := mapTransfer u x.id fun t => { t with flag := none, acked := false, remote := at_, len := 4, data := if t.inside then data else [] }
      sendFlags u f = if x.inside then w else more (.write f x.entry x.win at_ data) w) ∧
    (findTransfer s f id = some (p, m) → m.id = id →
      (∀ n, s.colls.find? (fun k => p.coll == some k.id && m.coll == k.id) = none → faultWaiting s f id n e = dropTransfer (on (postRecord s (site m.owner f) e)) id) ∧
      (∀ n, s.colls.find? (fun k => p.coll == some k.id && m.coll == k.id) = some k0 →
        (k0.susp = true → faultWaiting s f id n e = (
          let t := dropTransfer (held (fun q => { q with pc := p.pc - n, phase := .suspended c.seq }) (postRecord s (fpsite n) e)) id
          { t with colls := replaceIf t.colls (·.id == k0.id) fun x => { x with stopped := x.stopped ++ [c.seq] } })) ∧
        (k0.susp = false → faultWaiting s f id n e = endCollective (dropTransfer (held (fun q => { q with pc := p.pc - n }) (postRecord s (fpsite n) e)) id) k0.id e.code.number)) ∧
      (∀ n, noteRefusal s m n = dropTransfer (held (fun q => if q.coll == some m.coll then { q with errors := q.errors ++ [if n = 0x1B then
        { code := .barrierObject, addr := m.remote, info0 := BitVec.ofNat 32 m.peer } else { code := .permission, addr := m.remote, info0 := BitVec.ofNat 32 m.peer, info1 := if m.kind = .arrival then 3#32 else if m.posted then 2#32 else 1#32 }] } else q) s) id) ∧
      (m.read = false ∨ m.acked = true → acks s) ∧
      (m.read = true → m.acked = false →
        let answered (t : State) : Prop := acks (sendFlags t f)
        let landed (t : State) : Prop := (m.flag = none → answered (dropTransfer t id)) ∧ (m.flag ≠ none → answered (mapTransfer t id fun t => { t with acked := true }))
        (m.posted = true → m.inside = false → (refusal = 0 → landed s) ∧ (refusal ≠ 0 → answered (noteRefusal s m refusal))) ∧
        (m.posted = true → m.inside = true → m.kind ≠ .arrival →
          (landWrite s m.owner f m.win m.remote m.data = (u, true) → landed u) ∧
          (landWrite s m.owner f m.win m.remote m.data = (u, false) → answered (noteRefusal u m Trap.permission.number))) ∧
        (∀ n, m.inside = true → m.kind = .arrival → landArrival s m.owner f m.win m.remote = (u, n) →
          (n = 0 → landed u) ∧ (n ≠ 0 → answered (noteRefusal u m n))) ∧
        (m.posted = false → refusal = 0 ∨ m.inside = true → acks s) ∧
        (m.posted = false → m.inside = false → refusal ≠ 0 → acks (noteRefusal (on s) m refusal))) ∧
      (∀ k, p.phase = .waiting .engine k → m.posted = false → p.coll = some m.coll →
        (m.input.isSome = true → waited (if m.landed = m.len then dropTransfer (on s) id else s)) ∧
        (m.input = none →
          (m.inside = false → bytes.length ≠ m.len → waited s) ∧
          (m.inside = false → bytes.length = m.len → landWaited s f p m bytes = .ok u → quietIn u 2 → waited (dropTransfer (on u) id)) ∧
          (m.inside = false → bytes.length = m.len → landWaited s f p m bytes = .error e → waited (faultWaiting s f id 0#51 e)) ∧
          (m.inside = true → windowPlace s c m.win m.remote m.len accRead = none →
            waited (noteRefusal (on (postRecord s (site m.owner f) { code := .permission, addr := m.remote, info1 := 1#32 })) m Trap.permission.number)) ∧
          ∀ va, m.inside = true → windowPlace s c m.win m.remote m.len accRead = some va →
            (engineRead s c va m.len = .ok b → landWaited s f p m b = .ok u → waited (dropTransfer (on u) id)) ∧
            (engineRead s c va m.len = .ok b → landWaited s f p m b = .error e → waited (faultWaiting s f id 0#51 e)) ∧
            (engineRead s c va m.len = .error e → waited (faultWaiting s f id 0#51 e)))) ∧
      (let t := putDiscarding s (site m.owner f) c m.place.toNat bytes
       let z : State := { t with coll := p.view Collective.reset, ctx := t.ctxOf m.owner }
       let wide (va n : Nat) : Except Stop Unit := translateRange z z.ctx accWrite 0 (pagesOf va n)
       (sink m.place.toNat m.len = .error e → landWaited s f p m bytes = .error e) ∧
       (sink m.place.toNat m.len = .ok () →
         (m.rz = false → landWaited s f p m bytes = .ok t) ∧
         (m.rz = true → residualOf z (fun _ t => t) = .error e → landWaited s f p m bytes = .error e) ∧
         ∀ r, m.rz = true → residualOf z (fun _ t => t) = .ok r →
           (wide r.base r.size = .error e → landWaited s f p m bytes = .error e) ∧
           (wide r.base r.size = .ok () → wide r.addr 64 = .error e → landWaited s f p m bytes = .error e) ∧
           (wide r.base r.size = .ok () → wide r.addr 64 = .ok () →
             let x := putDiscarding t (site m.owner f) (t.ctxOf m.owner) r.base (List.replicate r.size 0#8)
             let y := x.ctxOf (t.ctxOf m.owner).owner
             let raised (gen : Nat) : Prop := landWaited s f p m bytes = .ok (putDiscarding x (site m.owner f) y (r.addr + 4) (natBytes 4 (gen + 1)))
             (∀ l, engineRead x y (r.addr + 4) 4 = .ok l → raised (bytesNat l)) ∧ ∀ z, engineRead x y (r.addr + 4) 4 = .error z → raised r.gen.toNat)))) ∧
    (jobOwner s job = none ∨ 48 ≤ sender.port → exec (.rmaWriteArrival job sender win off bytes) s = .next s ∧ exec (.rmaReadArrival job sender win off len) s = .next s ∧
      exec (.remoteArrival job sender win off len) s = .next s) ∧
    (∀ w, let x := s.ctxOf w
      let e := x.windows.getD win []
      let word (k : Nat) : W32 := e.getD k 0#32
      let base := (word 0).toNat + 2 ^ 32 * (word 1).toNat
      let size := (word 2).toNat + 2 ^ 32 * ((word 3).toNat % 256)
      let opens (n kind : Nat) : Prop := (word 3).getLsbD (if kind = accRead then 30 else 31) = true ∧ off.toNat + n ≤ size ∧
        translateRange s x kind 0 (pagesOf (base + off.toNat) n) = .ok ()
      let refused (g kind : Nat) : State := postRecord s (site w g) { code := .permission, addr := off, info1 := BitVec.ofNat 32 kind }
      (∀ n kind, kind ≤ 3 → (opens n kind → windowPlace s x win off n kind = some (base + off.toNat)) ∧ (¬opens n kind → windowPlace s x win off n kind = none)) ∧
      (∀ g, (windowPlace s x win off bytes.length accWrite = none → landWrite s w g win off bytes = (refused g 2, false)) ∧
        (∀ va, windowPlace s x win off bytes.length accWrite = some va → landWrite s w g win off bytes = (putDiscarding s (site w g) x va bytes, true)) ∧
        (windowPlace s x win off 64 accWrite = none → landArrival s w g win off = (refused g 3, Trap.permission.number)) ∧
        ∀ va, windowPlace s x win off 64 accWrite = some va → (∀ n, arrive s w va = ⟨u, .ok n⟩ → landArrival s w g win off = (u, 0)) ∧
          ∀ t, arrive s w va = ⟨u, .error t⟩ → landArrival s w g win off = (s, if t.code = .barrierObject then Trap.barrierObject.number else Trap.permission.number)) ∧
      (jobOwner s job = some w → sender.port < 48 →
        let g := sender.port / 3
        (sender.fea ∈ x.group → landWrite s w g win off bytes = (u, true) → u.fpsel = s.fpsel → quiet g 2 →
          exec (.rmaWriteArrival job sender win off bytes) s = .next (more (.landed sender.fea) u)) ∧
        (sender.fea ∈ x.group → landWrite s w g win off bytes = (u, false) → u.fpsel = s.fpsel → quiet g 2 →
          exec (.rmaWriteArrival job sender win off bytes) s = .next (more (.refusal sender.fea .permission) u)) ∧
        (sender.fea ∉ x.group → (refused g 2).fpsel = s.fpsel → quiet g 2 → exec (.rmaWriteArrival job sender win off bytes) s = .next (more (.refusal sender.fea .permission) (refused g 2))) ∧
        (∀ va, sender.fea ∈ x.group → windowPlace s x win off len accRead = some va → engineRead s x va len = .ok b → quiet g 1 →
          exec (.rmaReadArrival job sender win off len) s = .next (more (.served sender.fea b) s)) ∧
        (∀ va t, sender.fea ∈ x.group → windowPlace s x win off len accRead = some va → engineRead s x va len = .error t → exec (.rmaReadArrival job sender win off len) s =
          .next (more (.refusal sender.fea t.code) (postRecord s (site w g) (if t.code = .uncorrectable then t else { t with info1 := 1#32 })))) ∧
        (sender.fea ∉ x.group ∨ windowPlace s x win off len accRead = none → exec (.rmaReadArrival job sender win off len) s = .next (more (.refusal sender.fea .permission) (refused g 1))) ∧
        (sender.fea ∈ x.group → landArrival s w g win off = (u, 0) → exec (.remoteArrival job sender win off len) s = .next (more (.landed sender.fea) u)) ∧
        (∀ n, n ≠ 0 → sender.fea ∈ x.group → landArrival s w g win off = (u, n) →
          exec (.remoteArrival job sender win off len) s = .next (more (.refusal sender.fea (if n = 0x1B then .barrierObject else .permission)) u)) ∧
        (sender.fea ∉ x.group → exec (.remoteArrival job sender win off len) s = .next (more (.refusal sender.fea .permission) (refused g 3))))) ∧
    (openFabric s f = some o → ∀ k, isResident s o.ctx.owner = true → o.coll.stopped = [] →
      let ends (t : State) : State := { closeFocus t with note := .none, snap := none }
      let reg (r : BitVec 4) : W64 := o.fp.f.getD r.toNat 0#64
      let gives (d : BitVec 4) (y : W64) : State := { o with fp := { o.fp with f := o.fp.f.setIfInBounds d.toNat y, pc := o.fp.pc + 4#51, phase := .ready } }
      (∀ w d a z, o.fp.phase = .waiting .memory k → fetchZilkan o = .ok w →
        let va := (reg a).toNat
        (decodeZilkan w = .ok (.zwaitBar d a z) →
          (∀ t, readObject o o.ctx.owner va = .error t → exec (.zwaitCompletion f) s = .next (ends (takeTrap o t))) ∧
          ∀ pa obj, readObject o o.ctx.owner va = .ok (pa, obj) → (obj.getD 3 0#32).getLsbD 31 = false → Uncounted o 1 3 →
            let phase := obj.getD 2 0#32
            let past : Prop := 1 ≤ (phase - (reg d).extractLsb' 0 32).toNat ∧ (phase - (reg d).extractLsb' 0 32).toNat < 2 ^ 31
            (past → exec (.zwaitCompletion f) s = .next (ends (gives d (phase.zeroExtend 64)))) ∧
            (¬past → exec (.zwaitCompletion f) s = .next (ends { o with fp := { o.fp with phase := .waiting .memory k } }))) ∧
        (decodeZilkan w = .ok (.zwaitFlag d a z) → va % 4 = 0 →
          (∀ t, engineRead o o.ctx va 4 = .error t → exec (.zwaitCompletion f) s = .next (ends (takeTrap o t))) ∧
          ∀ l, engineRead o o.ctx va 4 = .ok l →
            let y : W32 := BitVec.ofNat 32 (bytesNat l)
            (0 ≤ (y - (reg d).extractLsb' 0 32).toInt → exec (.zwaitCompletion f) s = .next (ends (gives d (y.zeroExtend 64)))) ∧
            ((y - (reg d).extractLsb' 0 32).toInt < 0 → exec (.zwaitCompletion f) s = .next (ends { o with fp := { o.fp with phase := .waiting .memory k } })))) ∧
      (∀ (k : Nat) (x : Transfer) (l r : List Transfer) (n : Wait), o.fp.transfers = l ++ x :: r → x.coll = o.coll.id → o.fp.phase = .waiting n k →
        (n = .engine → x.posted = false → (∀ y ∈ l, y.coll = o.coll.id → y.posted = true) → waitedPeer o = x.peer) ∧
        (n ≠ .engine → x.posted = true → (∀ y ∈ l, y.coll = o.coll.id → y.posted = false) → waitedPeer o = x.peer))) ∧
    (∀ w k, openFabric s f = some o → isResident s o.ctx.owner = true → o.fp.phase = .waiting w k → w = .engine ∨ (o.coll.stopped = [] ∧ (w = .memory ∨ w = .tkfence)) →
      o.fp.waitFrom + 1400 * o.coll.tlim.toNat ≤ s.fabClock → exec (.collectiveTimeout f) s = .next { takeFabricTrap { o with fp := { o.fp with transfers := o.fp.transfers.filter fun x => x.posted || x.coll != o.coll.id } } { code := .collectiveTimeout, info0 := BitVec.ofNat 32 (waitedPeer o), info1 := o.coll.tlim } with note := .none }) ∧
    (openFabric s f = none → s.fabric.find? (·.index == f) = some p → p.waited = some m → isResident s m.owner = true → p.waitFrom + 1400 * p.tlim.toNat ≤ s.fabClock →
      exec (.collectiveTimeout f) s = .next (faultWaiting s f m.id 0#51 { code := .collectiveTimeout, info0 := BitVec.ofNat 32 m.peer, info1 := p.tlim })) ∧
    (f < 16 → (∀ n < 4, s.fpfrac.getD (4 * f + n) 0 = 0 ∧ (s.fpcnt.getD (4 * f + n) 0#48).toNat + 1 < 2 ^ 48) → ∃ t, exec (.packetRetransmission f) s = .next t ∧
      t = { s with fpcnt := t.fpcnt } ∧ ∀ k < 64, t.fpcnt.getD k 0#48 =
        if 4 * f ≤ k ∧ k < 4 * f + 4 ∧ selCounts (s.fpsel.getD k 0#32) 3 = true then s.fpcnt.getD k 0#48 + 1#48 else s.fpcnt.getD k 0#48)

/-- While the link is up, Hernus is ready and the function is visible: a posted write lands and a read returns its bytes, and one that faults is reported; POSTTAIL, CPLHEAD and ENABLE of a stream that the function holds, FQHEAD, MRHEAD and MSTAIL take their values, enabling a stream clearing its completion indices and each new send entry in turn going out or, where it breaks its format, being reported with its index; WINLOAD of 1 replaces both tables or reads 2; PTBR, the ring registers, the command words and the PF's registers take the values written within their limits, PGCFG while its partition holds no resident context. On the counter page of a resident owner SLSEL is written as R369 says (the write of a select register: SystemWrites), the slice counters of its partition read with OVF in bit 63, and the fabric selects and error counts are the PF's alone, which may replace the error counts; a fabric select then holds EN, ZERO, IE and EVENT as written, OVF cleared where 1 was written and 0 in its reserved bits, and under ZERO its count is 0; a reserved EVENT is reported and changes nothing; writes of an owner that is not resident are ignored. A host's or the fabric's bytes land at their places, each in full, but those of a declared counter array are discarded and reported once as PERMISSION with the first one's address. Before that, every such access changes nothing. A management message that arrives on a port is written to the receive ring with its vector; where the ring is full the sender is told so, one that is too long is refused, and one whose entry cannot be written is refused and reported; one that was acknowledged leaves the send ring. (The host's accesses are reported as those of the graph engine, log 28; offsets that R378 does not fix, log 3; that a tail past the ring is ignored, and that entries which cannot be read are reported at the write of MSTAIL and passed in order, log 53; a counter's part of an event that another EVENT drops, log 25; QUANTUM's bits [9:0], a reserved EVENT's report and the PF's writes while its owner is not resident, log 54; that nothing but the register follows from PWRCAP and PGCFG, log 58; which of a port group's ports sends a message, that a full ring and a bad message are answered, and that one whose entry cannot be written is refused, log 56: model's choices.) (R130, R349, R369, R373, R378, R379, R382, R383, R384, R385, R280, R221) -/
def Obligations.HostRegisters : Prop :=
  ∀ (fn off k len port : Nat) (v va : BitVec 64) (w job : BitVec 32) (fea : BitVec 64) (s t : State) (b bytes : List Byte) (gr : List W64) (win : List (List W32)) (e : Stop),
    let open_ : Prop := s.linkUp = true ∧ fn ≤ 32 ∧ (fn = 0 ∨ fn ≤ s.vfs) ∧ s.hernus.bootstat.getLsbD 31 = true
    let c := s.ctxOf fn
    let quiet (g ev : Nat) : Prop := ∀ n < 4, selCounts (s.fpsel.getD (4 * g + n) 0#32) ev = false
    let st := s.streams.getD k Stream.reset
    let streams (f : Stream → Stream) (i : Instr) : Prop := ∃ t, exec i s = .next t ∧ t = { s with streams := t.streams } ∧ t.streams.getD k Stream.reset = f st ∧
      ∀ j, j ≠ k → t.streams.getD j Stream.reset = s.streams.getD j Stream.reset
    let holds : Prop := k < 64 ∧ st.owner.toNat = fn
    let sets (i : Instr) (f : Context → Context) : Prop := exec i s = .next (s.mapCtx fn f)
    let writes (off : Nat) (f : Context → Context) : Prop := sets (.registerWrite fn off v) f
    let low : W32 := v.extractLsb' 0 32
    let pf (off : Nat) (t : State) : Prop := exec (.registerWrite 0 off v) s = .next t
    (open_ →
      (c.created = true → translateRange s c accWrite 0 (pagesOf va.toNat bytes.length) = .ok () →
        exec (.hostPostedWrite fn va bytes) s = .next (putDiscarding s (hostSite fn) c va.toNat bytes)) ∧
      (c.created = true → translateRange s c accWrite 0 (pagesOf va.toNat bytes.length) = .error e → exec (.hostPostedWrite fn va bytes) s = .next (postRecord s (hostSite fn) e)) ∧
      (c.created = true → vbytes s c 0 va.toNat len = .error e → exec (.hostRead fn va len) s = .next (postRecord s (hostSite fn) e)) ∧
      (c.created = true → vbytes s c 0 va.toNat len = .ok b → exec (.hostRead fn va len) s = .next { s with out := s.out ++ [.readData fn b] }) ∧
      (holds → streams (fun st => { st with postTail := w }) (.posttailWrite fn k w) ∧ streams (fun st => { st with cplHead := w }) (.cplheadWrite fn k w) ∧
        streams (fun st => if st.enable = true then st else { st with enable := true, cplHead := 0#32, cplTail := 0#32 }) (.streamEnable fn k)) ∧
      (c.held = [] → sets (.fqheadWrite fn w) (fun c => { c with fq := { c.fq with head := w } })) ∧
      sets (.mrheadWrite fn w) (fun c => { c with mr := { c.mr with head := w } }) ∧
      (w = c.ms.tail + 1#32 → (∀ x ∈ s.ctx :: s.owners, x.owner = fn → x.sends.head? ≠ some false) → c.sends.length < c.ms.entries → sendEntry s c c.ms.tail = .ok b →
        quiet ((12 * ((b.getD 14 0#8).toNat % 4) + (Config.sendPort s.draw).val) / 3) 1 →
        exec (.mstailWrite fn w) s = .next { s.mapCtx fn fun c => { c with sends := c.sends ++ [true], ms := { c.ms with tail := w } } with out := s.out ++ [.manage fn b], draw := s.draw + 1 }) ∧
      (∀ after : Nat → State, after 0 = s → (∀ i, after (i + 1) = sendOne (after i) fn (c.ms.tail + BitVec.ofNat 32 i)) →
        let n := (w - c.ms.tail).toNat
        (c.sends.length + n ≤ c.ms.entries → exec (.mstailWrite fn w) s = .next ((after n).mapCtx fn fun c => Context.passUnsent { c with ms := { c.ms with tail := w } })) ∧
        (c.ms.entries < c.sends.length + n → exec (.mstailWrite fn w) s = .next s)) ∧
      (loadTables s c = some (gr, win) → sets (.winload fn 1#32) (fun c => { c with group := gr, windows := win, winload := 0#32 })) ∧
      (loadTables s c = none → sets (.winload fn 1#32) (fun c => { c with winload := 2#32 })) ∧
      (w ≠ 1#32 → exec (.winload fn w) s = .next s) ∧
      (writes 0x020 fun c => { c with ptbr := v.extractLsb' 0 33 }) ∧ (writes 0x100 fun c => { c with fq := { c.fq with base := v } }) ∧
      (writes 0x108 fun c => { c with fq := { c.fq with size := low } }) ∧ (writes 0x140 fun c => { c with nr := { c.nr with base := v } }) ∧
      (writes 0x14C fun c => { c with nr := { c.nr with head := low } }) ∧ (writes 0x180 fun c => { c with mr := { c.mr with base := v } }) ∧
      (writes 0x1A0 fun c => { c with ms := { c.ms with base := v } }) ∧ (writes 0x200 fun c => { c with cmd := c.cmd.setIfInBounds 0 low }) ∧
      (writes 0x5000 fun c => { c with gtbase := v }) ∧ (writes 0x5010 fun c => { c with winbase := v }) ∧
      (holds → st.enable = false → streams (fun st => { st with postBase := v }) (.registerWrite fn (0x1000 + 64 * k) v)) ∧
      (holds → st.enable = true → streams id (.registerWrite fn (0x1000 + 64 * k) v)) ∧
      (fn = 0 → (v.toNat = 1 ∨ v.toNat = 2 ∨ v.toNat = 4) → (∀ x ∈ s.resident.toList, x = none) → s.hernus.log.length < 1024 →
        ∃ h, pf 0x6000 { s with parts := v.toNat, hernus := h } ∧ h.log.length = s.hernus.log.length + 1) ∧
      (fn = 0 → k < 64 → v.toNat ≤ 32 ∨ v = 0x3F#64 → streams (fun st => { st with owner := v.extractLsb' 0 6 }) (.registerWrite 0 (0x6004 + 4 * k) v)) ∧
      (fn = 0 → k < 4 → 1 ≤ v.toNat % 1024 → v.toNat % 1024 ≤ 1000 → pf (0x6300 + 4 * k) { s with quantum := s.quantum.setIfInBounds k (v.toNat % 1024) }) ∧
      (fn = 0 → pf 0x6400 { s with pwrcap := if 1500 ≤ v.toNat ∧ v.toNat ≤ 3600 then v.toNat else s.pwrcap }) ∧
      (fn = 0 → k < 4 →
        (s.resident.getD (k * s.parts / 4) none = none → pf (0x6208 + 16 * k) { s with pgcfg := s.pgcfg.setIfInBounds k (v.extractLsb' 32 32 ++ (0#29 ++ (v.extractLsb' 0 3 ++ 0#64))) }) ∧
        (s.resident.getD (k * s.parts / 4) none ≠ none → pf (0x6208 + 16 * k) s) ∧ pf (0x6200 + 16 * k) s) ∧
      (isResident s fn = true →
        (k < 4 → low.toNat % 256 ≤ 7 → sets (.registerWrite fn (0x8000 + 4 * k) v) (fun c => c.writeSel 1 k low)) ∧
        (k < 4 → 7 < low.toNat % 256 → exec (.registerWrite fn (0x8000 + 4 * k) v) s = .next (postRecord s (hostSite fn) { code := .reservedField })) ∧
        (fn ≠ 0 → ∀ n, 0x8010 ≤ n → n < 0x10000 → exec (.registerWrite fn n v) s = .next s) ∧
        (fn = 0 → k < 128 → pf (0x9400 + 4 * k) { s with errSlice := s.errSlice.setIfInBounds k low }) ∧
        (fn = 0 → k < 8 → pf (0x9600 + 4 * k) { s with errStack := s.errStack.setIfInBounds k low }) ∧
        (fn = 0 → k < 64 → low.toNat % 256 ≤ 5 →
          let old := s.fpsel.getD k 0#32
          let r : W32 := low.extractLsb' 31 1 ++ (old.extractLsb' 30 1 &&& ~~~(low.extractLsb' 30 1)) ++ low.extractLsb' 28 2 ++ 0#20 ++ low.extractLsb' 0 8
          pf (0x9100 + 4 * k) { s with fpsel := s.fpsel.setIfInBounds k r, fpcnt := if low.getLsbD 29 = true then s.fpcnt.setIfInBounds k 0#48 else s.fpcnt, fpfrac := if low.getLsbD 29 = true ∨ low.toNat % 256 ≠ old.toNat % 256 then s.fpfrac.setIfInBounds k 0 else s.fpfrac }) ∧
        (fn = 0 → k < 64 → 5 < low.toNat % 256 → pf (0x9100 + 4 * k) (postRecord s (hostSite 0) { code := .reservedField })) ∧
        (k < 4 → (readRegister s fn (0x8000 + 4 * k)).toNat = (c.slsel.getD k 0#32).toNat) ∧
        ∀ u n, u < 128 → n < 4 → (readRegister s fn (0x8100 + 32 * u + 8 * n)).toNat =
          if u / 32 * s.parts / 4 = c.part then (counterOf c.slcnt u n).count.toNat + (if (counterOf c.slcnt u n).ovf then 2 ^ 63 else 0) else 0) ∧
      (isResident s fn = false → ∀ n, 0x8000 ≤ n → n < 0x10000 → exec (.registerWrite fn n v) s = .next s) ∧
      (fn ≠ 0 → ∀ n, 0x9100 ≤ n → n < 0x9620 → readRegister s fn n = 0#64) ∧
      (fn = 0 → (k < 128 → (readRegister s fn (0x9400 + 4 * k)).toNat = (s.errSlice.getD k 0#32).toNat) ∧ (k < 8 → (readRegister s fn (0x9600 + 4 * k)).toNat = (s.errStack.getD k 0#32).toNat)) ∧
      (fn ≠ 0 → ∀ n, 0x6000 ≤ n → n < 0x8000 → exec (.registerWrite fn n v) s = .next s)) ∧
    (¬open_ → exec (.hostPostedWrite fn va bytes) s = .next s ∧ exec (.hostRead fn va len) s = .next s ∧ exec (.posttailWrite fn k w) s = .next s ∧
      exec (.cplheadWrite fn k w) s = .next s ∧ exec (.streamEnable fn k) s = .next s ∧ exec (.fqheadWrite fn w) s = .next s ∧ exec (.mrheadWrite fn w) s = .next s ∧
      exec (.mstailWrite fn w) s = .next s ∧ exec (.winload fn w) s = .next s ∧ exec (.registerWrite fn off v) s = .next s) ∧
    (∀ i, let d := s.ctxOf fn
      let g := (12 * ((b.getD 14 0#8).toNat % 4) + (Config.sendPort s.draw).val) / 3
      (sendEntry s d i = .ok b → quiet g 1 → sendOne s fn i = (let u : State := { s with draw := s.draw + 1, out := s.out ++ [.manage fn b] }; u.mapCtx fn fun c => { c with sends := c.sends ++ [true] })) ∧
      (sendEntry s d i = .error e → sendOne s fn i = (postRecord s (hostSite fn) e).mapCtx fn fun c => { c with sends := c.sends ++ [false] })) ∧
    (∀ (d : Context) (n : Nat) (rest : List Bool), d.sends = List.replicate n false ++ rest → rest.head? ≠ some false →
      d.passUnsent = { d with sends := rest, ms := { d.ms with head := d.ms.head + BitVec.ofNat 32 n } }) ∧
    (∀ (x : Site) (d : Context) (a : Nat) (l : List Byte) (place : Nat → Nat), MemoryOk s →
      (∀ i < l.length, ∀ j < l.length, place i = place j → i = j) →
      (∀ u : State, u = { s with mem := u.mem, lineKey := u.lineKey, dirty := u.dirty, poison := u.poison } → (∀ g ∈ u.poison, g ∈ s.poison) →
        (∀ y, (∀ i < l.length, y ≠ place i) → keyedByte u d.key y = keyedByte s d.key y) → ∀ i < l.length, translate u d (a + i) accWrite 0 = .ok (place i)) →
      let open_ (i : Nat) : Prop := d.guards (place i) 1 = false
      let lands (u : State) : Prop := u = { s with mem := u.mem, lineKey := u.lineKey, dirty := u.dirty, poison := u.poison } ∧
        (∀ i < l.length, open_ i → keyedByte u d.key (place i) = l.getD i 0#8) ∧ ∀ y, (∀ i < l.length, open_ i → y ≠ place i) → keyedByte u d.key y = keyedByte s d.key y
      ((∀ i < l.length, open_ i) → lands (putDiscarding s x d a l)) ∧
      ∀ i < l.length, ¬open_ i → (∀ j < i, open_ j) → ∃ u, lands u ∧
        putDiscarding s x d a l = postRecord u { x with resum := false } { code := .permission, addr := BitVec.ofNat 64 (a + i), info1 := 2#32 }) ∧
    (jobOwner s job = none ∨ 48 ≤ port → exec (.managementReceive port job fea bytes) s = .next s) ∧
    (∀ o, jobOwner s job = some o → port < 48 → let x := s.ctxOf o
      let entry := natBytes 8 fea.toNat ++ natBytes 4 job.toNat ++ natBytes 2 bytes.length ++ natBytes 1 (port / 12 % 4) ++ List.replicate 49 0#8 ++ bytes
      let short : Prop := bytes ≠ [] ∧ bytes.length ≤ 8128
      let answers (a : Outgoing) : Prop := exec (.managementReceive port job fea bytes) s = .next { s with out := s.out ++ [a] }
      (¬short → answers (.refusal fea .permission)) ∧ (short → x.mr.full = true → answers (.notReady fea)) ∧
      (short → x.mr.full = false → engineWrite s x (x.mr.entryAt x.mr.tail 8192) entry = .error e →
        let told := postRecord s { owner := o, agent := .fabric (port / 3), kind := 4, unit := port / 3 } e
        exec (.managementReceive port job fea bytes) s = .next { told with out := told.out ++ [.refusal fea e.code] }) ∧
      (short → x.mr.full = false → engineWrite s x (x.mr.entryAt x.mr.tail 8192) entry = .ok t → t.fpsel = s.fpsel → quiet (port / 3) 2 →
        exec (.managementReceive port job fea bytes) s = .next { t.mapCtx o fun c => { c with mr := { c.mr with tail := c.mr.tail + 1#32 } } with out := t.out ++ [.msix o 66] })) ∧
    (∀ rest, c.sends = true :: rest → rest.head? ≠ some false →
      exec (.managementSendCompletion fn true) s = .next (s.mapCtx fn fun c => { c with sends := rest, ms := { c.ms with head := c.ms.head + 1#32 } }))

/-- From a function whose page is open, INVAL drops the translations of the pages it names; RESUME of a resumable record marks it answered and lets its agent go on, at once for a resident owner and at its next restore otherwise; TERMINATE of a record ends its unretired grid, or its unfinished COLLECTIVE or TRANSFORM node, with its code; TERMGRID ends a grid of the owner with CODE 0; each shows 0 in CMDGO, and 1 where it is refused: a record not received or not resumable, one that names neither such a grid nor such a node, a grid that has retired, that stands no more or that another owner holds. From the PF, with Hernus ready: CREATE measures itself and gives an owner a fresh key, its grant, the context that the table of R363 gives and empty, disabled streams; SETGRANT measures itself and adds ranges; DESTROY of an owner that is neither resident nor has work measures itself and leaves no key, no grant, no dirty L2 line and nothing that ran or was in flight of that owner, on a processor in its place or on one saved with another owner; and the fused minimum SVN rises to no more than the running firmware's; ATTEST answers a report with the fields of R367 at their bytes and its signature, and LOGREAD the log. Each answers, and a refused one changes nothing else. (Model's choices: the parameters, texts, stages and signatures that the environment gives, log 5; the record a RESUME or TERMINATE may name, log 49; what CREATE leaves of an earlier owner of the number, log 51; the keys of the jobs that a new context holds, log 15; what the other commands are called with, log 52; the image that CREATE writes, log 16.) (R98, R343, R352, R353, R355, R362, R363, R364, R365, R366, R367, R380) -/
def Obligations.HostCommands : Prop :=
  ∀ (fn owner part scratch : Nat) (va : BitVec 64) (pages seq h svn : BitVec 32) (grant : List (Nat × Nat)) (image : Nat × Nat) (nonce : List Byte) (s : State) (r : Record) (g : Grid),
    let open_ : Prop := s.linkUp = true ∧ fn ≤ 32 ∧ (fn = 0 ∨ fn ≤ s.vfs) ∧ s.hernus.bootstat.getLsbD 31 = true
    let seen : Prop := s.linkUp = true ∧ fn ≤ 32 ∧ (fn = 0 ∨ fn ≤ s.vfs)
    let answered (ok : Bool) (s : State) : State := s.mapCtx fn fun c => { c with cmdgo := if ok then 0#32 else 1#32 }
    let c := s.ctxOf fn
    let known : Prop := (∀ x ∈ c.held, x.seq ≠ seq.toNat) ∧ c.records.find? (·.seq == seq.toNat) = some r
    let unknown : Prop := (∃ x ∈ c.held, x.seq = seq.toNat) ∨ ∀ x ∈ c.records, x.seq ≠ seq.toNat
    let names (r : Record) (n : Node) : Prop := s.nodeOf r.node = some n ∧ r.stamp = some n.stamp ∧ (recType n.words = 1 ∨ recType n.words = 2) ∧ ∀ st, n.status ≠ .finished st
    let no : State := { s with out := s.out ++ [.reply fn false] }
    let yes (t : State) (b : List Byte) : State := { t with out := t.out ++ [.reply fn true], hernus := { t.hernus with replies := t.hernus.replies ++ [(fn, b)] } }
    let ready : Prop := s.linkUp = true ∧ fn = 0 ∧ s.hernus.bootstat.getLsbD 31 = true ∧ s.hernus.log.length < 1024
    let made : Prop := owner ≤ 32 ∧ part < s.parts ∧ (s.ctxOf owner).created = false ∧ grantMeets s owner grant = false ∧ grant.length ≤ 64 ∧
      areaIn grant image.1 image.2 = true ∧ scratch ≤ 16
    let measured (type : Nat) (args : List Nat) : State := { s with hernus := { s.hernus with mr := sha3 (s.hernus.mr ++ sha3 (Config.mailboxBytes type args)), log := s.hernus.log ++ [⟨type, owner, sha3 (Config.mailboxBytes type args), asciiText (List.ofFn (Config.logText s.hernus.log.length))⟩] } }
    let flat := grant.flatMap fun r => [r.1, r.2]
    (open_ →
      exec (.inval fn va pages) s = .next (answered true (s.mapCtx fn fun c => { c with tlb := c.tlb.filter fun e => pages != 0#32 && !(decide (e.vpage < va.toNat / 2 ^ 15 + pages.toNat) && decide (va.toNat / 2 ^ 15 < e.vpage + e.npages)) })) ∧
      (known → resumable s fn r = true → isResident s fn = true → exec (.resume fn seq) s = .next (answered true (resumeAgent (markAnswered s fn seq.toNat) fn r))) ∧
      (known → resumable s fn r = false → exec (.resume fn seq) s = .next (answered false s)) ∧
      (known → r.handle ≠ 0#32 → recordGrid s r = some g → g.retired = false →
        exec (.terminate fn seq) s = .next (answered true (terminateGrids s [g.handle] r.code.number (BitVec.ofNat 32 r.code.number)))) ∧
      (s.gridOf h = some g → g.owner = fn → g.retired = false → exec (.termgrid fn h) s = .next (answered true (terminateGrids s [h] 0 0x200#32))) ∧
      (s.gridOf h = none → exec (.termgrid fn h) s = .next (answered false s)) ∧
      (s.gridOf h = some g → g.owner ≠ fn ∨ g.retired = true → exec (.termgrid fn h) s = .next (answered false s)) ∧
      (known → resumable s fn r = true → isResident s fn = false →
        exec (.resume fn seq) s = .next (answered true ((markAnswered s fn seq.toNat).mapCtx fn fun c => { c with resumes := c.resumes ++ [seq.toNat] }))) ∧
      (unknown → exec (.resume fn seq) s = .next (answered false s) ∧ exec (.terminate fn seq) s = .next (answered false s)) ∧
      (known → r.handle ≠ 0#32 → recordGrid s r = none ∨ (recordGrid s r = some g ∧ g.retired = true) → exec (.terminate fn seq) s = .next (answered false s)) ∧
      (∀ n, known → r.handle = 0#32 → names r n →
        (∀ k, s.colls.find? (fun c => c.queue.isNone && c.node == n.handle) = some k → exec (.terminate fn seq) s = .next (answered true (endCollective s k.id r.code.number))) ∧
        (s.colls.find? (fun c => c.queue.isNone && c.node == n.handle) = none → exec (.terminate fn seq) s = .next (answered true (endTransform s n.handle (BitVec.ofNat 32 r.code.number))))) ∧
      (known → r.handle = 0#32 → (∀ n, ¬names r n) → exec (.terminate fn seq) s = .next (answered false s))) ∧
    (∀ z st, endTransform s z st = State.finishNode { s with xforms := s.xforms.map (fun x => x.filter (·.node != z)), parked := s.parked.filter (·.node != z) } z st) ∧
    (∀ (q : Fabric) (id : Nat), q.leave id = if q.coll = some id ∧ q.waited = none then { q with coll := none, phase := .ended } else q) ∧
    (∀ k code, s.colls.find? (·.id == k.id) = some k → let u : State := { s with colls := s.colls.filter (·.id != k.id), fabric := s.fabric.map (·.leave k.id), owners := s.owners.map fun o => { o with processors := o.processors.map (·.leave k.id) } }
      (k.queue = none → endCollective s k.id code = u.finishNode k.node (BitVec.ofNat 32 code)) ∧ ∀ q n, k.queue = some (q, n) → endCollective s k.id code = completeRequest u k.owner q n k.done code) ∧
    (∀ (c : Context) (key : Nat), let n := newContext c key part scratch grant image
      n.owner = c.owner ∧ n.created = true ∧ n.dead = false ∧ n.key = key ∧ n.grant = grant ∧ n.part = part ∧ n.imageBase = image.1 ∧ n.imageSize = image.2 ∧ n.scratch = scratch ∧
      n.jobs = Config.jobKeys key ∧ n.tkctl = 0x18#32 ∧ n.lscale = 0#32 ∧ n.lsctl = 0x07D01800#32 ∧ (∀ k < 16, n.srkey.getD k 1#32 = 0#32) ∧ n.srstep = 0#32 ∧
      (∀ k < 4, n.cntsel.getD k 1#32 = 0#32 ∧ n.slsel.getD k 1#32 = 0#32) ∧ n.cnt = [] ∧ n.slcnt = [] ∧ (∀ k < 16, n.regions.getD k none = none) ∧ n.entries = [] ∧
      (∀ t, descOf n t = List.replicate 16 0#32) ∧ n.queues = [] ∧ n.gtbase = 0#64 ∧ n.gtcount = 0#32 ∧ n.group = [] ∧ n.winbase = 0#64 ∧ n.winload = 0#32 ∧ n.windows = [] ∧
      n.mr = Ring.reset ∧ n.ms = Ring.reset ∧ n.fq = Ring.reset ∧ n.nr = Ring.reset ∧ n.ptbr = 0#33 ∧ n.sends = [] ∧ n.seq = 0 ∧ n.notice = 0 ∧ n.records = [] ∧ n.held = [] ∧ n.warned = [] ∧
      n.processors = [] ∧ n.resumes = [] ∧ n.tlb = []) ∧
    (let e := emptyStreams s owner; e = { s with streams := e.streams } ∧ ∀ k < 64, e.stream k = if (s.stream k).owner.toNat = owner then { Stream.reset with owner := (s.stream k).owner } else s.stream k) ∧
    (MemoryOk s → (s.ctxOf owner).created = true → let e := eraseOwner s owner
      let own (l : Nat) : Prop := lineKeyOf s.lineKey l = some (s.ctxOf owner).key
      e.teams = s.teams.filter (·.owner != owner) ∧ e.grids = s.grids.filter (·.owner != owner) ∧ e.parked = s.parked.filter (·.owner != owner) ∧
      e.colls = s.colls.filter (·.owner != owner) ∧ (∀ m, m ∈ e.mats ↔ m ∈ s.mats ∧ ∀ t ∈ s.teams, t.id = m.team → t.owner ≠ owner) ∧ e.streams = s.streams ∧ e.resident = s.resident ∧
      (∃ f : Fabric → Fabric, e.fabric = s.fabric.map f ∧ ∀ p, let ours : Prop := (∃ k ∈ s.colls, k.owner = owner ∧ p.coll = some k.id) ∨ ∃ x, p.waited = some x ∧ x.owner = owner
        (f p).transfers = (p.transfers ++ ((s.ctxOf owner).processors.filter (·.index == p.index)).flatMap (·.transfers)).filter (fun x => x.owner != owner) ∧ (ours → (f p).coll = none ∧ (f p).phase = .ended) ∧ (¬ours → (f p).coll = p.coll ∧ (f p).phase = p.phase)) ∧
      (∀ l, l ∈ e.dirty ↔ l ∈ s.dirty ∧ ¬own l) ∧ (∀ a, a / 64 ∉ s.dirty ∨ ¬own (a / 64) → memRead e.mem a = memRead s.mem a) ∧
      (let n := e.ctxOf owner; n.created = false ∧ n.key = 0 ∧ n.grant = [] ∧ n.jobs = [] ∧ n.entries = [] ∧ n.regions = Vector.replicate 16 none ∧ n.group = [] ∧ n.windows = [] ∧
        n.processors = [] ∧ n.held = [] ∧ n.records = [] ∧ n.seq = 0 ∧ n.image = Image.reset) ∧
      ∀ o, o ≠ owner → e.ctxOf o = { s.ctxOf o with processors := (s.ctxOf o).processors.map fun p => { p with transfers := p.transfers.filter fun x => x.owner != owner } }) ∧
    (nonce.length = 64 → s.hernus.mr.length = 64 → owner < 256 → (s.ctxOf owner).grant.length ≤ 64 →
      let b := reportBytes s owner nonce; let c := s.ctxOf owner
      let v (k n : Nat) : Nat := bytesNat ((b.drop k).take n)
      b.length = 1024 ∧ v 0 4 = 0x48545352 ∧ v 4 4 = 1 ∧ (b.drop 8).take 16 = List.ofFn Config.serial ∧ (b.drop 24).take 64 = nonce ∧ (b.drop 88).take 64 = s.hernus.mr ∧
      v 152 4 = s.hernus.log.length % 2 ^ 32 ∧ v 156 4 = s.hernus.svn % 2 ^ 32 ∧ v 160 1 = owner ∧ v 161 1 = c.part % 256 ∧ v 162 1 = s.parts % 256 ∧
      v 163 1 = (s.owners.filter fun o => o.created && o.part == c.part).length % 256 ∧ v 164 4 = c.grant.length ∧
      (∀ i (_ : i < c.grant.length), v (168 + 8 * i) 4 = c.grant[i].1 % 2 ^ 32 ∧ v (172 + 8 * i) 4 = c.grant[i].2 % 2 ^ 32) ∧
      ∀ i, 168 + 8 * c.grant.length ≤ i → i < 1024 → b.getD i 1#8 = 0#8) ∧
    (ready → made → exec (.create fn owner grant part image scratch) s = .next (
      let m := measured 2 ([owner, part, image.1, image.2, scratch] ++ flat)
      let t := emptyStreams { m with hernus := { m.hernus with keys := s.hernus.keys + 1 } } owner
      yes (writeImage (t.mapCtx owner fun c => newContext c (s.hernus.keys + 1) part scratch grant image) owner) [])) ∧
    (¬ready ∨ ¬made → exec (.create fn owner grant part image scratch) s = .next no) ∧
    (ready → (s.ctxOf owner).created = true → grantMeets s owner grant = false → (s.ctxOf owner).grant.length + grant.length ≤ 64 →
      exec (.setgrant fn owner grant) s = .next (yes ((measured 3 (owner :: flat)).mapCtx owner fun c => { c with grant := c.grant ++ grant }) [])) ∧
    (ready → (s.ctxOf owner).created = true → isResident s owner = false → hasWork s owner = false →
      exec (.destroy fn owner) s = .next (yes (eraseOwner (measured 4 [owner]) owner) [])) ∧
    (isResident s owner = true → exec (.destroy fn owner) s = .next no) ∧
    (seen → fn = 0 ∨ fn = owner → owner ≤ 32 → nonce.length = 64 →
      exec (.attest fn owner nonce) s = .next (yes s (reportBytes s owner nonce ++ (List.range 4627).map (Config.signature (sha3 (reportBytes s owner nonce)))))) ∧
    (seen → exec (.logread fn) s = .next (yes s (s.hernus.log.zipIdx.flatMap logBytes))) ∧
    (s.linkUp = true → fn = 0 → s.hernus.bootstat.getLsbD 31 = true → svn.toNat ≤ s.hernus.svn →
      exec (.fusedSvnRaise fn svn) s = .next (yes { s with hernus := { s.hernus with minSvn := max s.hernus.minSvn svn.toNat } } [])) ∧
    (∀ l, (asciiText l).length = 48 ∧ (∀ x ∈ asciiText l, x.toNat < 128) ∧ ∃ n ≤ 48, (∀ x ∈ (asciiText l).take n, x ≠ 0#8) ∧ ∀ x ∈ (asciiText l).drop n, x = 0#8)

/-- A module reset under power, or a junction at its limit, leaves the state after reset, with HBM4E as it stands but for lost dirty lines, and the fused minimum SVN; a loss of power leaves nothing in HBM4E either, and the host's memory as it stands. The boot runs the firmware stages once, each measured and run where its key, digest, signature and SVN pass, the first that fails shown in BOOTSTAT; the link trains once the boot has ended. Throttling moves the clock by 25 MHz between 350 and 700. A function-level reset of a visible VF ends its context and clears its register page, with the counts in its image that the page shows; a VF in the TDISP ERROR state ends its context; each node of an ended context is finished, but for one whose grid has still to retire. A patrol scrub counts what it corrected at the line's stack. A quantum's end switches to the next owner with work, and without one the resident owner runs on; an owner whose context has ended is left. The cycle of a carry counts one clock: a counter keeps the low 48 bits of its sum, and a carry sets OVF and, from OVF 0 with IE, writes its notice and sends the counter vector, unless the ring is full or the entry cannot be written, which is reported. A world switch stops the pods at their boundaries, their outstanding writes done and their waits to issue again, runs what matrix commands have begun and queues the others again, and writes the image; a scrub leaves the cores' tile stores and register files and the dies' scratch of the partition zero and every other byte as it was; a restore leaves no entry in the owner's TLBs and reads the image back, or ends the context with a RESERVED-FIELD record to the PF; what an image holds of a counter, a pod, a matrix command, a processor and a ticket entry is what is read back, where the record that holds a suspended one is the owner's, and bytes put into an image are read from it. (Model's choices: which of PERST# and a loss of power a module reset is, log 59; what a lost line leaves, log 9; what a read corrects, log 13; the places in an image that the spec leaves open, log 16; CODE 0 of a context so ended, log 17; that a switch takes one step, log 48; the PF's registers, log 54; that a select register's OVF stands for the overflow bit that each unit keeps, that a notice which is lost takes no number and that one which cannot be written is reported, log 25; that the notice ring's base is a virtual address of the owner, log 28; the firmware stages, keys and texts, log 5.) (R16, R19, R103, R295, R356, R357, R358, R359, R364, R371, R372, R385) -/
def Obligations.ModuleEvents : Prop :=
  ∀ (fn pa owner kind unit n part out : Nat) (s : State),
    let seen : Prop := s.linkUp = true ∧ fn ≤ 32 ∧ fn ≠ 0 ∧ fn ≤ s.vfs
    let hernus : Hernus := { Hernus.reset with minSvn := s.hernus.minSvn, keys := s.hernus.keys }
    let reset (i : Instr) : Prop := ∃ t, exec i s = .next t ∧
      t = { State.reset with mem := t.mem, poison := t.poison, lineKey := s.lineKey, out := s.out, tick := s.tick, draw := s.draw + 1, ids := s.ids, agenda := s.agenda, hernus := hernus } ∧
      (∀ g, g ∈ t.poison ↔ g ∈ s.poison ∧ 64 * g < 2 ^ 48) ∧
      (MemoryOk s → ∀ a, memRead t.mem a = if a < 2 ^ 48 ∧ (a / 64 ∉ s.dirty ∨ 0x8000000000 ≤ a) then memRead s.mem a else if a < 2 ^ 48 then Config.lostByte s.draw a else 0#8)
    let stack := 2 * (pa / 2 ^ 37 % 4) + pa / 2 ^ 8 % 2
    let ended : State := endContext s fn 0 0x200
    let cleared : State := (ended.ctxOf fn).image.dies.foldl (fun t d => imagePut t (ended.ctxOf fn) d.2 (List.replicate 2048 0#8)) ended
    let from_ := s.quantumFrom.getD part 0 + 1400000 * s.quantum.getD part 10
    let vacated (t : State) : State := { t with resident := t.resident.setIfInBounds part none }
    let holder (c : Context) (k : Nat) : Prop := (∃ r ∈ c.records, r.seq = k) ∧ ∀ r ∈ c.records, r.seq % 2 ^ 32 = k % 2 ^ 32 → r.seq = k
    (Config.powerHeld s.tick = true → reset .moduleReset) ∧ reset .overtempReset ∧
    (Config.powerHeld s.tick = false → ∃ t, exec .moduleReset s = .next t ∧
      t = { State.reset with mem := t.mem, poison := t.poison, out := s.out, tick := s.tick, draw := s.draw + 1, ids := s.ids, agenda := s.agenda, hernus := hernus } ∧
      (∀ g, g ∈ t.poison ↔ g ∈ s.poison ∧ 2 ^ 47 ≤ 64 * g ∧ 64 * g < 2 ^ 48) ∧
      (MemoryOk s → ∀ a, memRead t.mem a = if 2 ^ 47 ≤ a ∧ a < 2 ^ 48 then memRead s.mem a else 0#8)) ∧
    (∀ (h : Hernus) (k : Nat) (x : Stage) (r : List Stage),
      let passes : Prop := sha3 x.key = Config.fusedKey ∧ sha3 x.body = x.digest ∧ Config.verifies x.key x.digest x.sig = true ∧ max Config.fusedSvn h.minSvn ≤ x.svn
      (passes → h.log.length < 1024 → ∃ text, text.length = 48 ∧ bootStages h k (x :: r) =
        bootStages { h with mr := sha3 (h.mr ++ x.digest), log := h.log ++ [⟨0, x.svn, x.digest, text⟩], svn := x.svn } (k + 1) r) ∧
      (¬passes → k < 256 → ∃ w, bootStages h k (x :: r) = { h with bootstat := w } ∧ w.getLsbD 31 = false ∧ w.getLsbD 30 = true ∧ w.toNat % 2 ^ 30 = k) ∧
      (k ≠ 1 → bootStages h k [] = { h with bootstat := 0x80000000#32 })) ∧
    exec .hernusBoot s = .next (if s.hernus.bootstat = 0#32 then { s with hernus := bootStages s.hernus 1 Config.stages } else s) ∧
    exec .linkTraining s = .next { s with linkUp := s.linkUp || s.hernus.bootstat != 0#32 } ∧
    exec .throttleStepDown s = .next { s with freq := max 350 (s.freq - 25) } ∧ exec .throttleStepUp s = .next { s with freq := min 700 (s.freq + 25) } ∧
    (seen → ∃ t, exec (.functionLevelReset fn) s = .next t ∧ t = { cleared with owners := t.owners, ctx := t.ctx, streams := t.streams } ∧
      (∀ k, (ended.stream k).owner.toNat = fn → t.stream k = { Stream.reset with owner := (ended.stream k).owner }) ∧
      (∀ k, (ended.stream k).owner.toNat ≠ fn → t.stream k = ended.stream k) ∧
      t.owners.filter (fun c => c.owner != fn) = ended.owners.filter (fun c => c.owner != fn) ∧
      ∀ c ∈ t.owners, c.owner = fn → c.ptbr = 0#33 ∧ c.fq = Ring.reset ∧ c.nr = Ring.reset ∧ c.mr = Ring.reset ∧ c.ms = Ring.reset ∧ c.sends = [] ∧ c.queues = [] ∧ c.cmdgo = 0#32 ∧
        c.gtbase = 0#64 ∧ c.gtcount = 0#32 ∧ c.winbase = 0#64 ∧ c.winload = 0#32 ∧ c.slsel = Vector.replicate 4 0#32 ∧ c.slcnt = [] ∧ c.held = [] ∧ c.dead = true) ∧
    (seen → exec (.tdiError fn) s = .next ended) ∧
    (∀ code st, let t := endContext s fn code st
      ∀ x ∈ t.streams.toList, x.owner.toNat = fn → ∀ m ∈ x.nodes, (∃ w, m.status = .finished w) ∨ gridRuns t m = true) ∧
    (¬seen → exec (.functionLevelReset fn) s = .next s ∧ exec (.tdiError fn) s = .next s) ∧
    (pa < 0x8000000000 → exec (.hbmPatrolScrub pa) s = .next { s with errStack := s.errStack.setIfInBounds stack (BitVec.ofNat 32 (min (2 ^ 32 - 1) ((s.errStack.getD stack 0#32).toNat + Config.corrected s.tick))) }) ∧
    ((∃ u ∈ cycleUnits s owner, u.1 = kind ∧ u.2.2.1 = unit ∧ roomOf (s.ctxOf owner) u n = some 0) → isResident s owner = true →
      exec (.counterCarry owner kind unit n) s = .next (passClocks s 1 1)) ∧
    (∀ (u : State) (o kind unit n ev amount scale : Nat),
      let c := u.ctxOf o
      let sel := selOf c kind n
      let counts : Prop := sel.getLsbD 31 = true ∧ sel.getLsbD 29 = false ∧ sel.toNat % 256 = ev ∧ ev ≠ 0 ∧ amount ≠ 0 ∧ isResident u o = true
      let list (c : Context) : List Counter := if kind = 0 then c.cnt else c.slcnt
      let x := counterOf (list c) unit n
      let total := x.count.toNat + (x.frac + amount) / scale
      let carry := decide (2 ^ 48 ≤ total)
      let shown := if carry then sel ||| 0x40000000#32 else sel
      (¬counts → countOne u o kind unit n ev amount scale = u) ∧
      (counts → c.owner = o → c.created = true → n < 4 → ∃ (f : Context → Context) (v : State), v = u.mapCtx o f ∧ (f c).owner = o ∧
        counterOf (list (f c)) unit n = ⟨unit, n, BitVec.ofNat 48 total, x.ovf || carry, (x.frac + amount) % scale⟩ ∧
        (∀ j m, m < 4 → (j, m) ≠ (unit, n) → counterOf (list (f c)) j m = counterOf (list c) j m) ∧
        (∀ j m, selOf (f c) j m = if (j = 0 ↔ kind = 0) ∧ m = n then shown else selOf c j m) ∧
        countOne u o kind unit n ev amount scale = if carry = true ∧ sel.getLsbD 30 = false ∧ sel.getLsbD 28 = true then postNotice v o kind unit n shown else v)) ∧
    (∀ (u w : State) (o kind unit n : Nat) (sel : BitVec 32), let c := u.ctxOf o
      let entry := wordsBytes [BitVec.ofNat 32 (kind * 2 ^ 30 + unit * 2 ^ 20 + n * 2 ^ 18), BitVec.ofNat 32 c.notice, sel, 0#32]
      (c.nr.full = true → postNotice u o kind unit n sel = u) ∧
      (∀ x, c.nr.full = false → engineWrite u c (c.nr.entryAt c.nr.tail 16) entry = .error x → postNotice u o kind unit n sel = postRecord u (graphSite o 0#32 0#32) x) ∧
      (c.nr.full = false → engineWrite u c (c.nr.entryAt c.nr.tail 16) entry = .ok w → postNotice u o kind unit n sel =
        (let t := w.mapCtx o fun c => { c with nr := { c.nr with tail := c.nr.tail + 1#32 }, notice := c.notice + 1 }; { t with out := t.out ++ [.msix o 1] }))) ∧
    (∀ (o k m : Nat) (u : State), passClocks s k m = (let v := countFabricCycles (countCycles s k) m; { v with clock := v.clock + k, fabClock := v.fabClock + m }) ∧
      countCycles s k = (residents s).foldl (fun u o => (cycleUnits u o).foldl (fun u x => countUnit u o x.1 x.2.2.1 x.2.1 (k * x.2.2.2) 1) u) s ∧
      ∀ kind unit ev amount scale, countUnit u o kind unit ev amount scale = [0, 1, 2, 3].foldl (fun u n => countOne u o kind unit n ev amount scale) u) ∧
    (∀ o, let a := requeue (finishBegun (stopPods s o) o) o
      saveOwner s o = ((saveTransforms (writeImage (saveTickets (saveFabric a o) o) o) o).mapCtx o fun c => { c with tlb := [] }) ∧
      (stopPods s o = { s with teams := s.teams.map fun t => if t.owner == o then stopTeam s t else t }) ∧
      (∀ t : Team, (stopTeam s t).sprout = none ∧ ∀ p ∈ (stopTeam s t).pods, ∃ q ∈ t.pods, ∃ u, p = stopPod u t.bars q) ∧
      (∃ f : MatCmd → MatCmd, requeue s o = { s with mats := s.mats.map f } ∧ ∀ m, (f m = if matOwner s m = o ∧ m.begun = false then { m with started := false } else m))) ∧
    (∀ (u : State) (bars : Nat) (p : Pod), p.skip = 0 → p.skip2 = 0 → let q := stopPod u bars p
      q.pending = [] ∧ q.windows = [] ∧ q.heldAt = none ∧ q.arrivals = min p.arrivals bars ∧ (q.v, q.p, q.s) = (p.deliverAll.v, p.deliverAll.p, p.deliverAll.s) ∧
      (q.pc, q.slot, q.pw, q.md, q.cd, q.sp, q.shape, q.srsel, q.index) = (p.pc, p.slot, p.pw, p.md, p.cd, p.sp, p.shape, p.srsel, p.index) ∧
      q.phase = match p.phase with | .waiting _ _ | .asleep _ => .ready | x => x) ∧
    (MemoryOk s → let z := scrub s part
      let tile (a : Nat) : Prop := ∃ k < 576, partOfDie s (k / 144) = part ∧ tileAt k 0 ≤ a ∧ a < tileAt k 0 + 0x180000
      let die (a : Nat) : Prop := ∃ k < 4, partOfDie s k = part ∧ scratchAt k 0 ≤ a ∧ a < scratchAt k 0 + 0x3000000
      let file (a : Nat) : Prop := ∃ k < 576, partOfDie s (k / 144) = part ∧ fileAt k 0 ≤ a ∧ a < fileAt k 0 + 0x100000
      z = { s with mem := z.mem, lineKey := z.lineKey, dirty := z.dirty, poison := z.poison, used := z.used } ∧
      (∀ k, k ∈ z.used ↔ k ∈ s.used ∧ ¬(k < 576 ∧ partOfDie s (k / 144) = part)) ∧
      ∀ a, (tile a ∨ die a ∨ file a → memRead z.mem a = 0#8) ∧ (¬(tile a ∨ die a ∨ file a) → memRead z.mem a = memRead s.mem a)) ∧
    (∀ o, let z := (scrub s part).mapCtx o fun c => { c with tlb := [] }
      let a : State := { z with resident := z.resident.setIfInBounds part (some o), quantumFrom := z.quantumFrom.setIfInBounds part z.fabClock }
      imageHole (a.ctxOf o) (a.ctxOf o).image.size = none →
      (∀ t, readImage a o = some t → restoreOwner s part o = formAll (applyResumes (restoreTransforms (restoreFabric t o) o) o) o) ∧
      (readImage a o = none → restoreOwner s part o = endContext (postRecord a (graphSite 0 0#32 0#32) { code := .reservedField }) o 2 2)) ∧
    (∀ (c : Context) (o : Nat) (b : List Byte), MemoryOk s → imageHole c (o + b.length) = none → c.imageBase + c.imageSize ≤ 2 ^ 48 → c.owner ≤ 32 → o + b.length ≤ 2 ^ 54 →
      let t := imagePut s c o b
      OnlyBytes s t ∧ imageGet t c o b.length = b ∧
      ∀ j m, j + m ≤ o ∨ o + b.length ≤ j → imageHole c (j + m) = none → j + m ≤ 2 ^ 54 → imageGet t c j m = imageGet s c j m) ∧
    (∀ (c : Context) (o unit n frac : Nat) (x : Counter), imageGet s c o 8 = wordsBytes (countWords x) → restoreCount s c false o unit n frac = some ⟨unit, n, x.count, x.ovf, frac⟩) ∧
    (∀ (c : Context) (o file team : Nat) (a : AgentRef) (p : Pod),
      imageWords s c o 48 = podWords team p →
      (∀ r l, r < 16 * p.ws.toNat → l < 4 → imageWords s c (file + 0x20000 * p.part + 16 * (16 * (p.wb.toNat + r) + p.index % 16) + 4 * l) 1 = [p.lane r l]) →
      p.pw.toNat % 16 = 15 → p.pw.toNat < 2 ^ (4 * (p.md.toNat + 1)) → p.sp.toNat % 16 = 0 → p.sp.toNat < 2 ^ 51 → p.slot ≠ 3#2 → (∀ k, p.phase = .suspended k → holder c k) → p.ws.toNat ≤ 8 →
      restorePod s c o file team a p = some { p with phase := match p.phase with | .waiting _ _ | .asleep _ => .ready | x => x }) ∧
    (∀ (c : Context) (teams : List Nat) (o : Nat) (m : MatCmd),
      imageWords s c o 64 = matWords teams m → savedCommand true (encode 0#1 m.instr) = some m.instr → m.team ∈ teams → teams.length < 2 ^ 32 → m.pod < 256 → m.next < 2 ^ 31 → m.legNo < 2 ^ 32 →
      (∀ k, m.stopped = some k → holder c k) → (∃ t ∈ s.teams, t.id = m.team ∧ ∃ p ∈ t.pods, p.index = m.pod) → grantOfWord (shapeWord m.shape) = m.shape → modeWritten m.mode = m.mode → modeRmOk m.mode = true →
      (∀ d ∈ [m.dx, m.dy, m.dz], d.length = 16 ∧ descOk d = true) → m.passes c (((s.teams.find? (·.id == m.team)).map (·.tileSize)).getD 0) = true →
      (m.ticketed = true → m.next ≤ m.granules.length) → restoreMat s c teams o m = some m) ∧
    (∀ (c : Context) (o : Nat) (p : Fabric) (k : Collective), s.colls.find? (fun k => p.coll == some k.id) = some k → c.processors.find? (fun q => q.index == p.index && q.coll.isSome) = some p →
      imageWords s c o 64 = fabricWords s c p.index → p.pc.toNat % 4 = 0 → p.cds.length = 16 → cdsOk p.cds = true → p.tlim ≠ 0#32 → (∀ n, p.phase = .suspended n → holder c n) →
      (∀ n, p.phase ≠ .asleep n) → restoreProcessor s c o p = some p) ∧
    (∀ (c : Context) (o : Nat) (e : TkEntry) (r : Region), imageGet s c o 96 = entryBytes e → c.regions.getD e.region none = some r → e.region < 16 → e.va.toNat % 64 = 0 →
      r.base ≤ e.va.toNat → e.va.toNat < r.base + 64 * r.ngran → e.granule = (e.va.toNat - r.base) / 64 → e.pod < 256 → e.core < 2 ^ 16 → e.data.length = 16 →
      translate s c e.va.toNat accAtomic 0 = .ok e.pa → restoreEntry s c o e = some e) ∧
    (part < s.parts → s.resident.getD part none = some out →
      ((s.ctxOf out).dead = false → from_ ≤ s.fabClock →
        (∀ o, nextOwner s part out = some o → exec (.quantumEnd part) s = .next (restoreOwner (vacated (saveOwner s out)) part o)) ∧
        (nextOwner s part out = none → exec (.quantumEnd part) s = .next { s with quantumFrom := s.quantumFrom.setIfInBounds part s.fabClock })) ∧
      ((s.ctxOf out).dead = false → s.fabClock < from_ → exec (.quantumEnd part) s = .next s) ∧
      ((s.ctxOf out).dead = true → (∀ o, nextOwner s part out = some o → exec (.quantumEnd part) s = .next (restoreOwner (vacated (finishBegun s out)) part o)) ∧
        (nextOwner s part out = none → exec (.quantumEnd part) s = .next (scrub (vacated (finishBegun s out)) part)))) ∧
    (part < s.parts → s.resident.getD part none = none → ∀ o, nextOwner s part 65 = some o → exec (.quantumEnd part) s = .next (restoreOwner s part o))
end

