-- ==== Sys2Proof/Laws/Memory.lean ====
section
/-! SUPPORT. The byte store: what a read gives after a write, and that every memory operation keeps the canonical form. -/

namespace Sys2Proof.Machine

theorem memWfFrom_weaken {m : List Host.Cell} : ∀ {lo hi : Nat}, lo ≤ hi → memWfFrom hi m = true → memWfFrom lo m = true := by
  cases m with
  | nil => intros; rfl
  | cons c r =>
    obtain ⟨k, b⟩ := c
    intro lo hi h hw
    simp only [memWfFrom, Bool.and_eq_true, decide_eq_true_eq] at hw ⊢
    exact ⟨⟨by omega, hw.1.2⟩, hw.2⟩

theorem memRead_below {m : List Host.Cell} {lo a : Nat} (hw : memWfFrom lo m = true) (h : a < lo) : memRead m a = memDefault := by
  cases m with
  | nil => rfl
  | cons c r =>
    obtain ⟨k, b⟩ := c
    simp only [memWfFrom, Bool.and_eq_true, decide_eq_true_eq] at hw
    have h1 : (k == a) = false := by simp; omega
    have h2 : a < k := by omega
    simp [memRead, h1, h2]

theorem memRead_memWrite_same {m : List Host.Cell} {a : Nat} {v : Byte} : ∀ {lo : Nat}, memWfFrom lo m = true → memRead (memWrite m a v) a = v := by
  induction m with
  | nil => intro lo _; by_cases hv : v = memDefault <;> simp [memWrite, memRead, hv]
  | cons c r ih =>
    obtain ⟨k, b⟩ := c
    intro lo hw
    simp only [memWfFrom, Bool.and_eq_true, decide_eq_true_eq] at hw
    unfold memWrite
    by_cases h1 : a < k
    · by_cases hv : v = memDefault
      · have h2 : (k == a) = false := by simp; omega
        simp [h1, hv, memRead, h2]
      · simp [h1, hv, memRead]
    · by_cases h2 : k = a
      · subst h2
        by_cases hv : v = memDefault
        · simp [hv, memRead_below hw.2 (Nat.lt_succ_self k)]
        · simp [hv, memRead]
      · have h3 : (k == a) = false := by simp; omega
        simp [h1, h3, memRead, ih hw.2]

theorem memRead_memWrite_other {m : List Host.Cell} {a x : Nat} {v : Byte} (hx : x ≠ a) :
    ∀ {lo : Nat}, memWfFrom lo m = true → memRead (memWrite m a v) x = memRead m x := by
  have hb : (a == x) = false := by simp; omega
  induction m with
  | nil =>
    intro lo _
    by_cases hv : v = memDefault
    · simp [memWrite, hv]
    · simp [memWrite, hv, memRead, hb]
  | cons c r ih =>
    obtain ⟨k, b⟩ := c
    intro lo hw
    simp only [memWfFrom, Bool.and_eq_true, decide_eq_true_eq] at hw
    unfold memWrite
    by_cases h1 : a < k
    · by_cases hv : v = memDefault
      · simp [h1, hv]
      · by_cases h4 : x < a
        · have h5 : (k == x) = false := by simp; omega
          have h6 : x < k := by omega
          simp [h1, hv, memRead, hb, h4, h5, h6]
        · simp [h1, hv, memRead, hb, h4]
    · by_cases h2 : k = a
      · subst h2
        have h7 : ¬ k = x := by omega
        by_cases hv : v = memDefault
        · by_cases h4 : x < k
          · simp [hv, memRead, h7, h4, memRead_below hw.2 (Nat.lt_succ_of_lt h4)]
          · simp [hv, memRead, h7, h4]
        · simp [hv, memRead, h7]
      · have h3 : (k == a) = false := by simp; omega
        simp [h1, h3, memRead, ih hw.2]

theorem memWrite_wfFrom {m : List Host.Cell} {a : Nat} {v : Byte} :
    ∀ {lo : Nat}, lo ≤ a → memWfFrom lo m = true → memWfFrom lo (memWrite m a v) = true := by
  induction m with
  | nil =>
    intro lo hl _
    by_cases hv : v = memDefault <;> simp [memWrite, memWfFrom, hv, hl]
  | cons c r ih =>
    obtain ⟨k, b⟩ := c
    intro lo hl hw
    simp only [memWfFrom, Bool.and_eq_true, decide_eq_true_eq] at hw
    unfold memWrite
    by_cases h1 : a < k
    · by_cases hv : v = memDefault
      · simp [h1, hv, memWfFrom, hw.1.1, hw.1.2, hw.2]
      · have h4 : a + 1 ≤ k := h1
        simp [h1, hv, memWfFrom, hl, h4, hw.2]
        simpa using hw.1.2
    · by_cases h2 : k = a
      · subst h2
        by_cases hv : v = memDefault
        · simp [hv]
          exact memWfFrom_weaken (by omega) hw.2
        · simp [hv, memWfFrom, hl, hw.2]
      · have h3 : (k == a) = false := by simp; omega
        simp [h1, h3, memWfFrom, hw.1.1, ih (by omega : k + 1 ≤ a) hw.2]
        simpa using hw.1.2

/-- A write keeps the canonical form. -/
theorem memWrite_wf {m : List Host.Cell} {a : Nat} {v : Byte} (h : Memory.wf m = true) : Memory.wf (memWrite m a v) = true :=
  memWrite_wfFrom (Nat.zero_le a) h

/-- A write of consecutive bytes keeps the canonical form. -/
theorem memPut_wf {l : List Byte} : ∀ {m : List Host.Cell} {a : Nat}, Memory.wf m = true → Memory.wf (memPut m a l) = true := by
  induction l with
  | nil => intro m a h; exact h
  | cons b r ih => intro m a h; exact ih (memWrite_wf h)

/-- Reading outside the bytes of a write gives what it gave before. -/
theorem memRead_memPut_outside {x : Nat} {l : List Byte} : ∀ {m : List Host.Cell} {a : Nat}, Memory.wf m = true →
    x < a ∨ a + l.length ≤ x → memRead (memPut m a l) x = memRead m x := by
  induction l with
  | nil => intros; rfl
  | cons b r ih =>
    intro m a hw hx
    simp only [List.length_cons] at hx
    rw [memPut, ih (memWrite_wf hw) (by omega)]
    exact memRead_memWrite_other (by omega) hw

/-- Reading a byte of a write gives that byte. -/
theorem memRead_memPut_inside {l : List Byte} : ∀ {m : List Host.Cell} {a i : Nat}, Memory.wf m = true →
    i < l.length → memRead (memPut m a l) (a + i) = l.getD i 0#8 := by
  induction l with
  | nil => intro m a i _ h; exact absurd h (Nat.not_lt_zero i)
  | cons b r ih =>
    intro m a i hw hi
    cases i with
    | zero =>
      rw [memPut, memRead_memPut_outside (memWrite_wf hw) (by omega)]
      simpa using memRead_memWrite_same hw
    | succ j =>
      have h := ih (m := memWrite m a b) (a := a + 1) (i := j) (memWrite_wf hw) (by simpa using hi)
      have e : a + (j + 1) = a + 1 + j := by omega
      rw [memPut, e, h]
      simp

/-- The cells that a test keeps are in canonical form. -/
theorem filter_wfFrom {f : Host.Cell → Bool} {m : List Host.Cell} : ∀ {lo : Nat}, memWfFrom lo m = true → memWfFrom lo (m.filter f) = true := by
  induction m with
  | nil => intros; rfl
  | cons c r ih =>
    obtain ⟨k, b⟩ := c
    intro lo hw
    simp only [memWfFrom, Bool.and_eq_true, decide_eq_true_eq] at hw
    by_cases hf : f (k, b) = true
    · simp [hf, memWfFrom, hw.1.1, ih hw.2]
      simpa using hw.1.2
    · simp only [List.filter_cons, hf]
      exact ih (memWfFrom_weaken (by omega) hw.2)

theorem filter_wf {f : Host.Cell → Bool} {m : List Host.Cell} (h : Memory.wf m = true) : Memory.wf (m.filter f) = true := filter_wfFrom h

theorem rekey_wf {s : State} {key line : Nat} (h : Memory.wf s.mem = true) : Memory.wf (rekey s key line).mem = true := by
  unfold rekey
  split
  · split
    · split
      · exact h
      · dsimp only; exact memPut_wf h
    · exact h
  · exact h

theorem touchLines_wf {key : Nat} : ∀ {n : Nat} {s : State} {line : Nat}, Memory.wf s.mem = true → Memory.wf (touchLines s key line n).mem = true := by
  intro n
  induction n with
  | zero => intro s line h; exact h
  | succ k ih =>
    intro s line h
    unfold touchLines
    apply ih
    split
    · exact rekey_wf h
    · exact rekey_wf h

/-- Every store keeps the canonical form. -/
theorem storeAt_wf {s : State} {key a : Nat} {b : List Byte} (h : Memory.wf s.mem = true) : Memory.wf (storeAt s key a b).mem = true := by
  unfold storeAt
  exact memPut_wf (touchLines_wf h)

theorem lineKeyOf_assocSet {l : List (Nat × Nat)} {k v x : Nat} :
    lineKeyOf (assocSet l k v) x = if k = x then some v else lineKeyOf l x := by
  induction l with
  | nil => by_cases h : k = x <;> simp [assocSet, lineKeyOf, h]
  | cons c r ih =>
    obtain ⟨a, b⟩ := c
    unfold assocSet
    by_cases ha : a = k
    · subst ha
      by_cases h : a = x <;> simp [lineKeyOf, h]
    · by_cases h : k = x
      · subst h; simp [lineKeyOf, ha, ih]
      · simp [lineKeyOf, ha, ih, h]

theorem keyedBytes_length {s : State} {key : Nat} : ∀ {n a : Nat}, (keyedBytes s key a n).length = n := by
  intro n
  induction n with
  | zero => intro a; rfl
  | succ k ih => intro a; simp [keyedBytes, ih]

theorem keyedBytes_getD {s : State} {key : Nat} : ∀ {n a i : Nat}, i < n →
    (keyedBytes s key a n).getD i 0#8 = keyedByte s key (a + i) := by
  intro n
  induction n with
  | zero => intro a i h; omega
  | succ k ih =>
    intro a i h
    cases i with
    | zero => simp [keyedBytes]
    | succ j =>
      have e : a + (j + 1) = a + 1 + j := by omega
      rw [e, ← ih (a := a + 1) (i := j) (by omega)]
      simp [keyedBytes]

/-- Bytes read outside the bytes of a write are what they were. -/
theorem memBytes_memPut_outside {m : List Host.Cell} {a : Nat} {l : List Byte} (h : Memory.wf m = true) :
    ∀ {n x : Nat}, x + n ≤ a ∨ a + l.length ≤ x → memBytes (memPut m a l) x n = memBytes m x n := by
  intro n
  induction n with
  | zero => intros; rfl
  | succ k ih =>
    intro x hx
    rw [memBytes, memBytes, memRead_memPut_outside h (by omega), ih (by omega)]

/-- Giving a line a writer's key changes no byte that this writer reads (R101, R102). -/
theorem keyedByte_rekey {s : State} {key line : Nat} (h : Memory.wf s.mem = true) (a : Nat) :
    keyedByte (rekey s key line) key a = keyedByte s key a := by
  unfold rekey
  split
  next hb =>
    split
    next k hk =>
      split
      · rfl
      next hne =>
        by_cases hl : a / 64 = line
        · have ha : a = line * 64 + a % 64 := by omega
          have hlt : a % 64 < (keyedBytes s key (line * 64) 64).length := by rw [keyedBytes_length]; omega
          have hm := memRead_memPut_inside (a := line * 64) h hlt
          rw [keyedBytes_getD (by omega), ← ha] at hm
          have hbm : isHbm a = true := by simp [isHbm] at hb ⊢; omega
          conv => lhs; unfold keyedByte
          dsimp only
          rw [hm]
          simp [hbm, lineKeyOf_assocSet, hl]
        · have hout := memRead_memPut_outside (x := a) (l := keyedBytes s key (line * 64) 64) (m := s.mem) (a := line * 64) h
            (by rw [keyedBytes_length]; omega)
          have hall := memBytes_memPut_outside (x := 64 * (a / 64)) (n := 64) (l := keyedBytes s key (line * 64) 64) (m := s.mem) (a := line * 64) h
            (by rw [keyedBytes_length]; omega)
          have hl' : ¬line = a / 64 := fun e => hl e.symm
          unfold keyedByte
          dsimp only
          rw [hout, hall, lineKeyOf_assocSet]
          simp [hl']
    next hk =>
      unfold keyedByte
      dsimp only
      rw [lineKeyOf_assocSet]
      by_cases hl : line = a / 64
      · rw [if_pos hl, ← hl, hk]; simp
      · rw [if_neg hl]
  · rfl

theorem keyedByte_dirty {s : State} {d : List Nat} {key a : Nat} : keyedByte { s with dirty := d } key a = keyedByte s key a := rfl

theorem keyedByte_touchLines {key a : Nat} : ∀ {n : Nat} {s : State} {line : Nat}, Memory.wf s.mem = true →
    keyedByte (touchLines s key line n) key a = keyedByte s key a := by
  intro n
  induction n with
  | zero => intro s line h; rfl
  | succ k ih =>
    intro s line h
    unfold touchLines
    dsimp only
    split
    · rw [ih (by exact rekey_wf h), keyedByte_dirty, keyedByte_rekey h]
    · rw [ih (rekey_wf h), keyedByte_rekey h]

theorem lineKeyOf_rekey {s : State} {key line x : Nat} :
    lineKeyOf (rekey s key line).lineKey x = if isHbm (line * 64) = true ∧ line = x then some key else lineKeyOf s.lineKey x := by
  unfold rekey
  split
  next hb =>
    split
    next k hk =>
      split
      next he =>
        by_cases hl : line = x
        · subst hl; simpa [hb, hk] using he
        · simp [hl]
      · simp [lineKeyOf_assocSet, hb]
    · simp [lineKeyOf_assocSet, hb]
  next hb => simp [hb]

theorem lineKeyOf_touchLines {key x : Nat} : ∀ {n : Nat} {s : State} {line : Nat},
    lineKeyOf (touchLines s key line n).lineKey x =
      if isHbm (x * 64) = true ∧ line ≤ x ∧ x < line + n then some key else lineKeyOf s.lineKey x := by
  intro n
  induction n with
  | zero =>
    intro s line
    rw [if_neg (by omega)]
    rfl
  | succ k ih =>
    intro s line
    unfold touchLines
    dsimp only
    have hx : lineKeyOf (if isHbm (line * 64) = true then { rekey s key line with dirty := addOnce (rekey s key line).dirty line } else rekey s key line).lineKey x
        = lineKeyOf (rekey s key line).lineKey x := by split <;> rfl
    rw [ih, hx, lineKeyOf_rekey]
    by_cases hb : isHbm (x * 64) = true
    · by_cases hl : line = x
      · subst hl; simp [hb]
      · have : (line < x ∧ x < line + 1 + k) ↔ (line ≤ x ∧ x < line + (k + 1)) := by omega
        simp [hb, hl, this]
    · by_cases hl : line = x
      · subst hl; simp [hb]
      · simp [hb, hl]

/-- A store leaves every other byte as its writer reads it. -/
theorem keyedByte_storeAt_outside {s : State} {key a x : Nat} {b : List Byte} (h : Memory.wf s.mem = true) (hx : x < a ∨ a + b.length ≤ x) :
    keyedByte (storeAt s key a b) key x = keyedByte s key x := by
  rw [← keyedByte_touchLines (key := key) (line := a / 64) (n := if b.isEmpty then 0 else (a + b.length - 1) / 64 - a / 64 + 1) h]
  unfold keyedByte storeAt
  dsimp only
  rw [memRead_memPut_outside (touchLines_wf h) hx, lineKeyOf_touchLines]
  by_cases hn : isHbm (x / 64 * 64) = true ∧ a / 64 ≤ x / 64 ∧
      x / 64 < a / 64 + if b.isEmpty = true then 0 else (a + b.length - 1) / 64 - a / 64 + 1
  · rw [if_pos hn]
    simp
  · split
    next hb =>
      have hb' : isHbm (x / 64 * 64) = true := by simp [isHbm] at hb ⊢; omega
      cases b with
      | nil => rfl
      | cons c r =>
        rw [memBytes_memPut_outside (touchLines_wf h)]
        simp [hb'] at hn ⊢
        omega
    · rfl

/-- A store gives its writer the bytes it wrote. -/
theorem keyedByte_storeAt_inside {s : State} {key a i : Nat} {b : List Byte} (h : Memory.wf s.mem = true) (hi : i < b.length) :
    keyedByte (storeAt s key a b) key (a + i) = b.getD i 0#8 := by
  unfold keyedByte storeAt
  dsimp only
  rw [memRead_memPut_inside (touchLines_wf h) hi, lineKeyOf_touchLines]
  have he : b.isEmpty = false := by cases b with
    | nil => simp at hi
    | cons _ _ => rfl
  split
  next hb =>
    have hb' : isHbm ((a + i) / 64 * 64) = true := by simp [isHbm] at hb ⊢; omega
    rw [if_pos ⟨hb', by omega, by simp only [he]; simp; omega⟩]
    simp
  · rfl

/-- R96: a level of the walk reads the same entry in two states whose poison and whose bytes of that entry agree; where the next level
agrees too, the walks do. -/
theorem walk_level {u s : State} {c : Context} {va kind space f t : Nat} (hp : u.poison = s.poison)
    (ha : keyedBytes u c.key (t + 8 * (va / 2 ^ (51 - 12 * (3 - f)) % 2 ^ 12)) 8 = keyedBytes s c.key (t + 8 * (va / 2 ^ (51 - 12 * (3 - f)) % 2 ^ 12)) 8)
    (hr : let b := entryBase (bytesNat (keyedBytes s c.key (t + 8 * (va / 2 ^ (51 - 12 * (3 - f)) % 2 ^ 12)) 8)); walk u c va kind space f b = walk s c va kind space f b) :
    walk u c va kind space (f + 1) t = walk s c va kind space (f + 1) t := by
  simp only [walk, hp, ha, hr]

end Sys2Proof.Machine
end

