-- ==== Sys2Proof/Laws/State.lean ====
section
/-! SUPPORT. What the updates of a pod and of the state leave of each field. -/

namespace Sys2Proof.Machine

/-! ### Pods -/

@[simp] theorem Pod.setReg_index (p : Pod) (r : Nat) (w : LaneWord) : (p.setReg r w).index = p.index := rfl
@[simp] theorem Pod.setReg_pc (p : Pod) (r : Nat) (w : LaneWord) : (p.setReg r w).pc = p.pc := rfl
@[simp] theorem Pod.setReg_slot (p : Pod) (r : Nat) (w : LaneWord) : (p.setReg r w).slot = p.slot := rfl
@[simp] theorem Pod.setReg_pw (p : Pod) (r : Nat) (w : LaneWord) : (p.setReg r w).pw = p.pw := rfl
@[simp] theorem Pod.setReg_md (p : Pod) (r : Nat) (w : LaneWord) : (p.setReg r w).md = p.md := rfl
@[simp] theorem Pod.setReg_wb (p : Pod) (r : Nat) (w : LaneWord) : (p.setReg r w).wb = p.wb := rfl
@[simp] theorem Pod.setReg_ws (p : Pod) (r : Nat) (w : LaneWord) : (p.setReg r w).ws = p.ws := rfl
@[simp] theorem Pod.setReg_cd (p : Pod) (r : Nat) (w : LaneWord) : (p.setReg r w).cd = p.cd := rfl
@[simp] theorem Pod.setReg_sp (p : Pod) (r : Nat) (w : LaneWord) : (p.setReg r w).sp = p.sp := rfl
@[simp] theorem Pod.setReg_shape (p : Pod) (r : Nat) (w : LaneWord) : (p.setReg r w).shape = p.shape := rfl
@[simp] theorem Pod.setReg_srsel (p : Pod) (r : Nat) (w : LaneWord) : (p.setReg r w).srsel = p.srsel := rfl
@[simp] theorem Pod.setReg_s (p : Pod) (r : Nat) (w : LaneWord) : (p.setReg r w).s = p.s := rfl
@[simp] theorem Pod.setReg_p (p : Pod) (r : Nat) (w : LaneWord) : (p.setReg r w).p = p.p := rfl
@[simp] theorem Pod.setReg_part (p : Pod) (r : Nat) (w : LaneWord) : (p.setReg r w).part = p.part := rfl
@[simp] theorem Pod.setReg_phase (p : Pod) (r : Nat) (w : LaneWord) : (p.setReg r w).phase = p.phase := rfl
@[simp] theorem Pod.setReg_pending (p : Pod) (r : Nat) (w : LaneWord) : (p.setReg r w).pending = p.pending := rfl
@[simp] theorem Pod.setReg_windows (p : Pod) (r : Nat) (w : LaneWord) : (p.setReg r w).windows = p.windows := rfl
@[simp] theorem Pod.setReg_held (p : Pod) (r : Nat) (w : LaneWord) : (p.setReg r w).held = p.held := rfl
@[simp] theorem Pod.setReg_arrivals (p : Pod) (r : Nat) (w : LaneWord) : (p.setReg r w).arrivals = p.arrivals := rfl
@[simp] theorem Pod.setReg_barsDone (p : Pod) (r : Nat) (w : LaneWord) : (p.setReg r w).barsDone = p.barsDone := rfl
@[simp] theorem Pod.setReg_heldAt (p : Pod) (r : Nat) (w : LaneWord) : (p.setReg r w).heldAt = p.heldAt := rfl
@[simp] theorem Pod.setReg_grant (p : Pod) (r : Nat) (w : LaneWord) : (p.setReg r w).grant = p.grant := rfl
@[simp] theorem Pod.setReg_second (p : Pod) (r : Nat) (w : LaneWord) : (p.setReg r w).second = p.second := rfl
@[simp] theorem Pod.setReg_skip (p : Pod) (r : Nat) (w : LaneWord) : (p.setReg r w).skip = p.skip := rfl
@[simp] theorem Pod.setReg_skip2 (p : Pod) (r : Nat) (w : LaneWord) : (p.setReg r w).skip2 = p.skip2 := rfl
@[simp] theorem Pod.setReg_bunch (p : Pod) (r : Nat) (w : LaneWord) : (p.setReg r w).bunch = p.bunch := rfl
@[simp] theorem Pod.setReg_lastIssue (p : Pod) (r : Nat) (w : LaneWord) : (p.setReg r w).lastIssue = p.lastIssue := rfl
@[simp] theorem Pod.setReg_parity (p : Pod) (r : Nat) (w : LaneWord) : (p.setReg r w).parity = p.parity := rfl
@[simp] theorem Pod.setReg_v (p : Pod) (r : Nat) (w : LaneWord) : (p.setReg r w).v = p.v.setIfInBounds r w := rfl
@[simp] theorem Pod.setLanes_index (p : Pod) (m : Mask) (r : Nat) (w : LaneWord) : (p.setLanes m r w).index = p.index := rfl
@[simp] theorem Pod.setLanes_pc (p : Pod) (m : Mask) (r : Nat) (w : LaneWord) : (p.setLanes m r w).pc = p.pc := rfl
@[simp] theorem Pod.setLanes_slot (p : Pod) (m : Mask) (r : Nat) (w : LaneWord) : (p.setLanes m r w).slot = p.slot := rfl
@[simp] theorem Pod.setLanes_pw (p : Pod) (m : Mask) (r : Nat) (w : LaneWord) : (p.setLanes m r w).pw = p.pw := rfl
@[simp] theorem Pod.setLanes_md (p : Pod) (m : Mask) (r : Nat) (w : LaneWord) : (p.setLanes m r w).md = p.md := rfl
@[simp] theorem Pod.setLanes_wb (p : Pod) (m : Mask) (r : Nat) (w : LaneWord) : (p.setLanes m r w).wb = p.wb := rfl
@[simp] theorem Pod.setLanes_ws (p : Pod) (m : Mask) (r : Nat) (w : LaneWord) : (p.setLanes m r w).ws = p.ws := rfl
@[simp] theorem Pod.setLanes_cd (p : Pod) (m : Mask) (r : Nat) (w : LaneWord) : (p.setLanes m r w).cd = p.cd := rfl
@[simp] theorem Pod.setLanes_sp (p : Pod) (m : Mask) (r : Nat) (w : LaneWord) : (p.setLanes m r w).sp = p.sp := rfl
@[simp] theorem Pod.setLanes_shape (p : Pod) (m : Mask) (r : Nat) (w : LaneWord) : (p.setLanes m r w).shape = p.shape := rfl
@[simp] theorem Pod.setLanes_srsel (p : Pod) (m : Mask) (r : Nat) (w : LaneWord) : (p.setLanes m r w).srsel = p.srsel := rfl
@[simp] theorem Pod.setLanes_s (p : Pod) (m : Mask) (r : Nat) (w : LaneWord) : (p.setLanes m r w).s = p.s := rfl
@[simp] theorem Pod.setLanes_p (p : Pod) (m : Mask) (r : Nat) (w : LaneWord) : (p.setLanes m r w).p = p.p := rfl
@[simp] theorem Pod.setLanes_part (p : Pod) (m : Mask) (r : Nat) (w : LaneWord) : (p.setLanes m r w).part = p.part := rfl
@[simp] theorem Pod.setLanes_phase (p : Pod) (m : Mask) (r : Nat) (w : LaneWord) : (p.setLanes m r w).phase = p.phase := rfl
@[simp] theorem Pod.setLanes_pending (p : Pod) (m : Mask) (r : Nat) (w : LaneWord) : (p.setLanes m r w).pending = p.pending := rfl
@[simp] theorem Pod.setLanes_windows (p : Pod) (m : Mask) (r : Nat) (w : LaneWord) : (p.setLanes m r w).windows = p.windows := rfl
@[simp] theorem Pod.setLanes_held (p : Pod) (m : Mask) (r : Nat) (w : LaneWord) : (p.setLanes m r w).held = p.held := rfl
@[simp] theorem Pod.setLanes_arrivals (p : Pod) (m : Mask) (r : Nat) (w : LaneWord) : (p.setLanes m r w).arrivals = p.arrivals := rfl
@[simp] theorem Pod.setLanes_barsDone (p : Pod) (m : Mask) (r : Nat) (w : LaneWord) : (p.setLanes m r w).barsDone = p.barsDone := rfl
@[simp] theorem Pod.setLanes_heldAt (p : Pod) (m : Mask) (r : Nat) (w : LaneWord) : (p.setLanes m r w).heldAt = p.heldAt := rfl
@[simp] theorem Pod.setLanes_grant (p : Pod) (m : Mask) (r : Nat) (w : LaneWord) : (p.setLanes m r w).grant = p.grant := rfl
@[simp] theorem Pod.setLanes_second (p : Pod) (m : Mask) (r : Nat) (w : LaneWord) : (p.setLanes m r w).second = p.second := rfl
@[simp] theorem Pod.setLanes_skip (p : Pod) (m : Mask) (r : Nat) (w : LaneWord) : (p.setLanes m r w).skip = p.skip := rfl
@[simp] theorem Pod.setLanes_skip2 (p : Pod) (m : Mask) (r : Nat) (w : LaneWord) : (p.setLanes m r w).skip2 = p.skip2 := rfl
@[simp] theorem Pod.setLanes_bunch (p : Pod) (m : Mask) (r : Nat) (w : LaneWord) : (p.setLanes m r w).bunch = p.bunch := rfl
@[simp] theorem Pod.setLanes_lastIssue (p : Pod) (m : Mask) (r : Nat) (w : LaneWord) : (p.setLanes m r w).lastIssue = p.lastIssue := rfl
@[simp] theorem Pod.setLanes_parity (p : Pod) (m : Mask) (r : Nat) (w : LaneWord) : (p.setLanes m r w).parity = p.parity := rfl
@[simp] theorem Pod.setLanes_v (p : Pod) (m : Mask) (r : Nat) (w : LaneWord) : (p.setLanes m r w).v = p.v.setIfInBounds r (mergeLanes m (p.reg r) w) := rfl
@[simp] theorem Pod.setPred_index (p : Pod) (m : Mask) (k : Nat) (w : Mask) : (p.setPred m k w).index = p.index := by unfold Pod.setPred; split <;> rfl
@[simp] theorem Pod.setPred_pc (p : Pod) (m : Mask) (k : Nat) (w : Mask) : (p.setPred m k w).pc = p.pc := by unfold Pod.setPred; split <;> rfl
@[simp] theorem Pod.setPred_slot (p : Pod) (m : Mask) (k : Nat) (w : Mask) : (p.setPred m k w).slot = p.slot := by unfold Pod.setPred; split <;> rfl
@[simp] theorem Pod.setPred_pw (p : Pod) (m : Mask) (k : Nat) (w : Mask) : (p.setPred m k w).pw = p.pw := by unfold Pod.setPred; split <;> rfl
@[simp] theorem Pod.setPred_md (p : Pod) (m : Mask) (k : Nat) (w : Mask) : (p.setPred m k w).md = p.md := by unfold Pod.setPred; split <;> rfl
@[simp] theorem Pod.setPred_wb (p : Pod) (m : Mask) (k : Nat) (w : Mask) : (p.setPred m k w).wb = p.wb := by unfold Pod.setPred; split <;> rfl
@[simp] theorem Pod.setPred_ws (p : Pod) (m : Mask) (k : Nat) (w : Mask) : (p.setPred m k w).ws = p.ws := by unfold Pod.setPred; split <;> rfl
@[simp] theorem Pod.setPred_cd (p : Pod) (m : Mask) (k : Nat) (w : Mask) : (p.setPred m k w).cd = p.cd := by unfold Pod.setPred; split <;> rfl
@[simp] theorem Pod.setPred_sp (p : Pod) (m : Mask) (k : Nat) (w : Mask) : (p.setPred m k w).sp = p.sp := by unfold Pod.setPred; split <;> rfl
@[simp] theorem Pod.setPred_shape (p : Pod) (m : Mask) (k : Nat) (w : Mask) : (p.setPred m k w).shape = p.shape := by unfold Pod.setPred; split <;> rfl
@[simp] theorem Pod.setPred_srsel (p : Pod) (m : Mask) (k : Nat) (w : Mask) : (p.setPred m k w).srsel = p.srsel := by unfold Pod.setPred; split <;> rfl
@[simp] theorem Pod.setPred_s (p : Pod) (m : Mask) (k : Nat) (w : Mask) : (p.setPred m k w).s = p.s := by unfold Pod.setPred; split <;> rfl
@[simp] theorem Pod.setPred_v (p : Pod) (m : Mask) (k : Nat) (w : Mask) : (p.setPred m k w).v = p.v := by unfold Pod.setPred; split <;> rfl
@[simp] theorem Pod.setPred_part (p : Pod) (m : Mask) (k : Nat) (w : Mask) : (p.setPred m k w).part = p.part := by unfold Pod.setPred; split <;> rfl
@[simp] theorem Pod.setPred_phase (p : Pod) (m : Mask) (k : Nat) (w : Mask) : (p.setPred m k w).phase = p.phase := by unfold Pod.setPred; split <;> rfl
@[simp] theorem Pod.setPred_pending (p : Pod) (m : Mask) (k : Nat) (w : Mask) : (p.setPred m k w).pending = p.pending := by unfold Pod.setPred; split <;> rfl
@[simp] theorem Pod.setPred_windows (p : Pod) (m : Mask) (k : Nat) (w : Mask) : (p.setPred m k w).windows = p.windows := by unfold Pod.setPred; split <;> rfl
@[simp] theorem Pod.setPred_held (p : Pod) (m : Mask) (k : Nat) (w : Mask) : (p.setPred m k w).held = p.held := by unfold Pod.setPred; split <;> rfl
@[simp] theorem Pod.setPred_arrivals (p : Pod) (m : Mask) (k : Nat) (w : Mask) : (p.setPred m k w).arrivals = p.arrivals := by unfold Pod.setPred; split <;> rfl
@[simp] theorem Pod.setPred_barsDone (p : Pod) (m : Mask) (k : Nat) (w : Mask) : (p.setPred m k w).barsDone = p.barsDone := by unfold Pod.setPred; split <;> rfl
@[simp] theorem Pod.setPred_heldAt (p : Pod) (m : Mask) (k : Nat) (w : Mask) : (p.setPred m k w).heldAt = p.heldAt := by unfold Pod.setPred; split <;> rfl
@[simp] theorem Pod.setPred_grant (p : Pod) (m : Mask) (k : Nat) (w : Mask) : (p.setPred m k w).grant = p.grant := by unfold Pod.setPred; split <;> rfl
@[simp] theorem Pod.setPred_second (p : Pod) (m : Mask) (k : Nat) (w : Mask) : (p.setPred m k w).second = p.second := by unfold Pod.setPred; split <;> rfl
@[simp] theorem Pod.setPred_skip (p : Pod) (m : Mask) (k : Nat) (w : Mask) : (p.setPred m k w).skip = p.skip := by unfold Pod.setPred; split <;> rfl
@[simp] theorem Pod.setPred_skip2 (p : Pod) (m : Mask) (k : Nat) (w : Mask) : (p.setPred m k w).skip2 = p.skip2 := by unfold Pod.setPred; split <;> rfl
@[simp] theorem Pod.setPred_bunch (p : Pod) (m : Mask) (k : Nat) (w : Mask) : (p.setPred m k w).bunch = p.bunch := by unfold Pod.setPred; split <;> rfl
@[simp] theorem Pod.setPred_lastIssue (p : Pod) (m : Mask) (k : Nat) (w : Mask) : (p.setPred m k w).lastIssue = p.lastIssue := by unfold Pod.setPred; split <;> rfl
@[simp] theorem Pod.setPred_parity (p : Pod) (m : Mask) (k : Nat) (w : Mask) : (p.setPred m k w).parity = p.parity := by unfold Pod.setPred; split <;> rfl
@[simp] theorem Pod.setScalar_index (p : Pod) (k : Nat) (w : W32) : (p.setScalar k w).index = p.index := rfl
@[simp] theorem Pod.setScalar_pc (p : Pod) (k : Nat) (w : W32) : (p.setScalar k w).pc = p.pc := rfl
@[simp] theorem Pod.setScalar_slot (p : Pod) (k : Nat) (w : W32) : (p.setScalar k w).slot = p.slot := rfl
@[simp] theorem Pod.setScalar_pw (p : Pod) (k : Nat) (w : W32) : (p.setScalar k w).pw = p.pw := rfl
@[simp] theorem Pod.setScalar_md (p : Pod) (k : Nat) (w : W32) : (p.setScalar k w).md = p.md := rfl
@[simp] theorem Pod.setScalar_wb (p : Pod) (k : Nat) (w : W32) : (p.setScalar k w).wb = p.wb := rfl
@[simp] theorem Pod.setScalar_ws (p : Pod) (k : Nat) (w : W32) : (p.setScalar k w).ws = p.ws := rfl
@[simp] theorem Pod.setScalar_cd (p : Pod) (k : Nat) (w : W32) : (p.setScalar k w).cd = p.cd := rfl
@[simp] theorem Pod.setScalar_sp (p : Pod) (k : Nat) (w : W32) : (p.setScalar k w).sp = p.sp := rfl
@[simp] theorem Pod.setScalar_shape (p : Pod) (k : Nat) (w : W32) : (p.setScalar k w).shape = p.shape := rfl
@[simp] theorem Pod.setScalar_srsel (p : Pod) (k : Nat) (w : W32) : (p.setScalar k w).srsel = p.srsel := rfl
@[simp] theorem Pod.setScalar_v (p : Pod) (k : Nat) (w : W32) : (p.setScalar k w).v = p.v := rfl
@[simp] theorem Pod.setScalar_p (p : Pod) (k : Nat) (w : W32) : (p.setScalar k w).p = p.p := rfl
@[simp] theorem Pod.setScalar_part (p : Pod) (k : Nat) (w : W32) : (p.setScalar k w).part = p.part := rfl
@[simp] theorem Pod.setScalar_phase (p : Pod) (k : Nat) (w : W32) : (p.setScalar k w).phase = p.phase := rfl
@[simp] theorem Pod.setScalar_pending (p : Pod) (k : Nat) (w : W32) : (p.setScalar k w).pending = p.pending := rfl
@[simp] theorem Pod.setScalar_windows (p : Pod) (k : Nat) (w : W32) : (p.setScalar k w).windows = p.windows := rfl
@[simp] theorem Pod.setScalar_held (p : Pod) (k : Nat) (w : W32) : (p.setScalar k w).held = p.held := rfl
@[simp] theorem Pod.setScalar_arrivals (p : Pod) (k : Nat) (w : W32) : (p.setScalar k w).arrivals = p.arrivals := rfl
@[simp] theorem Pod.setScalar_barsDone (p : Pod) (k : Nat) (w : W32) : (p.setScalar k w).barsDone = p.barsDone := rfl
@[simp] theorem Pod.setScalar_heldAt (p : Pod) (k : Nat) (w : W32) : (p.setScalar k w).heldAt = p.heldAt := rfl
@[simp] theorem Pod.setScalar_grant (p : Pod) (k : Nat) (w : W32) : (p.setScalar k w).grant = p.grant := rfl
@[simp] theorem Pod.setScalar_second (p : Pod) (k : Nat) (w : W32) : (p.setScalar k w).second = p.second := rfl
@[simp] theorem Pod.setScalar_skip (p : Pod) (k : Nat) (w : W32) : (p.setScalar k w).skip = p.skip := rfl
@[simp] theorem Pod.setScalar_skip2 (p : Pod) (k : Nat) (w : W32) : (p.setScalar k w).skip2 = p.skip2 := rfl
@[simp] theorem Pod.setScalar_bunch (p : Pod) (k : Nat) (w : W32) : (p.setScalar k w).bunch = p.bunch := rfl
@[simp] theorem Pod.setScalar_lastIssue (p : Pod) (k : Nat) (w : W32) : (p.setScalar k w).lastIssue = p.lastIssue := rfl
@[simp] theorem Pod.setScalar_parity (p : Pod) (k : Nat) (w : W32) : (p.setScalar k w).parity = p.parity := rfl
@[simp] theorem Pod.setScalar_s (p : Pod) (k : Nat) (w : W32) : (p.setScalar k w).s = p.s.setIfInBounds k w := rfl
@[simp] theorem Pod.advance_index (p : Pod) (n : Nat) : (p.advance n).index = p.index := by unfold Pod.advance; dsimp only; split <;> rfl
@[simp] theorem Pod.advance_pw (p : Pod) (n : Nat) : (p.advance n).pw = p.pw := by unfold Pod.advance; dsimp only; split <;> rfl
@[simp] theorem Pod.advance_md (p : Pod) (n : Nat) : (p.advance n).md = p.md := by unfold Pod.advance; dsimp only; split <;> rfl
@[simp] theorem Pod.advance_wb (p : Pod) (n : Nat) : (p.advance n).wb = p.wb := by unfold Pod.advance; dsimp only; split <;> rfl
@[simp] theorem Pod.advance_ws (p : Pod) (n : Nat) : (p.advance n).ws = p.ws := by unfold Pod.advance; dsimp only; split <;> rfl
@[simp] theorem Pod.advance_cd (p : Pod) (n : Nat) : (p.advance n).cd = p.cd := by unfold Pod.advance; dsimp only; split <;> rfl
@[simp] theorem Pod.advance_sp (p : Pod) (n : Nat) : (p.advance n).sp = p.sp := by unfold Pod.advance; dsimp only; split <;> rfl
@[simp] theorem Pod.advance_shape (p : Pod) (n : Nat) : (p.advance n).shape = p.shape := by unfold Pod.advance; dsimp only; split <;> rfl
@[simp] theorem Pod.advance_srsel (p : Pod) (n : Nat) : (p.advance n).srsel = p.srsel := by unfold Pod.advance; dsimp only; split <;> rfl
@[simp] theorem Pod.advance_s (p : Pod) (n : Nat) : (p.advance n).s = p.s := by unfold Pod.advance; dsimp only; split <;> rfl
@[simp] theorem Pod.advance_v (p : Pod) (n : Nat) : (p.advance n).v = p.v := by unfold Pod.advance; dsimp only; split <;> rfl
@[simp] theorem Pod.advance_p (p : Pod) (n : Nat) : (p.advance n).p = p.p := by unfold Pod.advance; dsimp only; split <;> rfl
@[simp] theorem Pod.advance_part (p : Pod) (n : Nat) : (p.advance n).part = p.part := by unfold Pod.advance; dsimp only; split <;> rfl
@[simp] theorem Pod.advance_pending (p : Pod) (n : Nat) : (p.advance n).pending = p.pending := by unfold Pod.advance; dsimp only; split <;> rfl
@[simp] theorem Pod.advance_windows (p : Pod) (n : Nat) : (p.advance n).windows = p.windows := by unfold Pod.advance; dsimp only; split <;> rfl
@[simp] theorem Pod.advance_held (p : Pod) (n : Nat) : (p.advance n).held = p.held := by unfold Pod.advance; dsimp only; split <;> rfl
@[simp] theorem Pod.advance_arrivals (p : Pod) (n : Nat) : (p.advance n).arrivals = p.arrivals := by unfold Pod.advance; dsimp only; split <;> rfl
@[simp] theorem Pod.advance_barsDone (p : Pod) (n : Nat) : (p.advance n).barsDone = p.barsDone := by unfold Pod.advance; dsimp only; split <;> rfl
@[simp] theorem Pod.advance_heldAt (p : Pod) (n : Nat) : (p.advance n).heldAt = p.heldAt := by unfold Pod.advance; dsimp only; split <;> rfl
@[simp] theorem Pod.advance_grant (p : Pod) (n : Nat) : (p.advance n).grant = p.grant := by unfold Pod.advance; dsimp only; split <;> rfl
@[simp] theorem Pod.advance_second (p : Pod) (n : Nat) : (p.advance n).second = p.second := by unfold Pod.advance; dsimp only; split <;> rfl
@[simp] theorem Pod.advance_skip2 (p : Pod) (n : Nat) : (p.advance n).skip2 = p.skip2 := by unfold Pod.advance; dsimp only; split <;> rfl
@[simp] theorem Pod.advance_bunch (p : Pod) (n : Nat) : (p.advance n).bunch = p.bunch := by unfold Pod.advance; dsimp only; split <;> rfl
@[simp] theorem Pod.advance_lastIssue (p : Pod) (n : Nat) : (p.advance n).lastIssue = p.lastIssue := by unfold Pod.advance; dsimp only; split <;> rfl
@[simp] theorem Pod.advance_parity (p : Pod) (n : Nat) : (p.advance n).parity = p.parity := by unfold Pod.advance; dsimp only; split <;> rfl
@[simp] theorem Pod.advance_phase (p : Pod) (n : Nat) : (p.advance n).phase = p.phase.goOn := by unfold Pod.advance; dsimp only; split <;> rfl
@[simp] theorem Pod.advance_skip (p : Pod) (n : Nat) : (p.advance n).skip = 0 := by unfold Pod.advance; dsimp only; split <;> rfl
@[simp] theorem Pod.jump_index (p : Pod) (t : BitVec 48) : (p.jump t).index = p.index := rfl
@[simp] theorem Pod.jump_pw (p : Pod) (t : BitVec 48) : (p.jump t).pw = p.pw := rfl
@[simp] theorem Pod.jump_md (p : Pod) (t : BitVec 48) : (p.jump t).md = p.md := rfl
@[simp] theorem Pod.jump_wb (p : Pod) (t : BitVec 48) : (p.jump t).wb = p.wb := rfl
@[simp] theorem Pod.jump_ws (p : Pod) (t : BitVec 48) : (p.jump t).ws = p.ws := rfl
@[simp] theorem Pod.jump_cd (p : Pod) (t : BitVec 48) : (p.jump t).cd = p.cd := rfl
@[simp] theorem Pod.jump_sp (p : Pod) (t : BitVec 48) : (p.jump t).sp = p.sp := rfl
@[simp] theorem Pod.jump_shape (p : Pod) (t : BitVec 48) : (p.jump t).shape = p.shape := rfl
@[simp] theorem Pod.jump_srsel (p : Pod) (t : BitVec 48) : (p.jump t).srsel = p.srsel := rfl
@[simp] theorem Pod.jump_s (p : Pod) (t : BitVec 48) : (p.jump t).s = p.s := rfl
@[simp] theorem Pod.jump_v (p : Pod) (t : BitVec 48) : (p.jump t).v = p.v := rfl
@[simp] theorem Pod.jump_p (p : Pod) (t : BitVec 48) : (p.jump t).p = p.p := rfl
@[simp] theorem Pod.jump_part (p : Pod) (t : BitVec 48) : (p.jump t).part = p.part := rfl
@[simp] theorem Pod.jump_pending (p : Pod) (t : BitVec 48) : (p.jump t).pending = p.pending := rfl
@[simp] theorem Pod.jump_windows (p : Pod) (t : BitVec 48) : (p.jump t).windows = p.windows := rfl
@[simp] theorem Pod.jump_held (p : Pod) (t : BitVec 48) : (p.jump t).held = p.held := rfl
@[simp] theorem Pod.jump_arrivals (p : Pod) (t : BitVec 48) : (p.jump t).arrivals = p.arrivals := rfl
@[simp] theorem Pod.jump_barsDone (p : Pod) (t : BitVec 48) : (p.jump t).barsDone = p.barsDone := rfl
@[simp] theorem Pod.jump_heldAt (p : Pod) (t : BitVec 48) : (p.jump t).heldAt = p.heldAt := rfl
@[simp] theorem Pod.jump_grant (p : Pod) (t : BitVec 48) : (p.jump t).grant = p.grant := rfl
@[simp] theorem Pod.jump_second (p : Pod) (t : BitVec 48) : (p.jump t).second = p.second := rfl
@[simp] theorem Pod.jump_skip2 (p : Pod) (t : BitVec 48) : (p.jump t).skip2 = p.skip2 := rfl
@[simp] theorem Pod.jump_bunch (p : Pod) (t : BitVec 48) : (p.jump t).bunch = p.bunch := rfl
@[simp] theorem Pod.jump_lastIssue (p : Pod) (t : BitVec 48) : (p.jump t).lastIssue = p.lastIssue := rfl
@[simp] theorem Pod.jump_parity (p : Pod) (t : BitVec 48) : (p.jump t).parity = p.parity := rfl
@[simp] theorem Pod.jump_pc (p : Pod) (t : BitVec 48) : (p.jump t).pc = t := rfl
@[simp] theorem Pod.jump_slot (p : Pod) (t : BitVec 48) : (p.jump t).slot = 0#2 := rfl

/-! ### The module -/

@[simp] theorem State.mapPod_mem (s : State) (f : Pod → Pod) : (s.mapPod f).mem = s.mem := rfl
@[simp] theorem State.mapPod_poison (s : State) (f : Pod → Pod) : (s.mapPod f).poison = s.poison := rfl
@[simp] theorem State.mapPod_lineKey (s : State) (f : Pod → Pod) : (s.mapPod f).lineKey = s.lineKey := rfl
@[simp] theorem State.mapPod_dirty (s : State) (f : Pod → Pod) : (s.mapPod f).dirty = s.dirty := rfl
@[simp] theorem State.mapPod_owners (s : State) (f : Pod → Pod) : (s.mapPod f).owners = s.owners := rfl
@[simp] theorem State.mapPod_teams (s : State) (f : Pod → Pod) : (s.mapPod f).teams = s.teams := rfl
@[simp] theorem State.mapPod_grids (s : State) (f : Pod → Pod) : (s.mapPod f).grids = s.grids := rfl
@[simp] theorem State.mapPod_mats (s : State) (f : Pod → Pod) : (s.mapPod f).mats = s.mats := rfl
@[simp] theorem State.mapPod_fabric (s : State) (f : Pod → Pod) : (s.mapPod f).fabric = s.fabric := rfl
@[simp] theorem State.mapPod_colls (s : State) (f : Pod → Pod) : (s.mapPod f).colls = s.colls := rfl
@[simp] theorem State.mapPod_xforms (s : State) (f : Pod → Pod) : (s.mapPod f).xforms = s.xforms := rfl
@[simp] theorem State.mapPod_parked (s : State) (f : Pod → Pod) : (s.mapPod f).parked = s.parked := rfl
@[simp] theorem State.mapPod_streams (s : State) (f : Pod → Pod) : (s.mapPod f).streams = s.streams := rfl
@[simp] theorem State.mapPod_stamp (s : State) (f : Pod → Pod) : (s.mapPod f).stamp = s.stamp := rfl
@[simp] theorem State.mapPod_parts (s : State) (f : Pod → Pod) : (s.mapPod f).parts = s.parts := rfl
@[simp] theorem State.mapPod_resident (s : State) (f : Pod → Pod) : (s.mapPod f).resident = s.resident := rfl
@[simp] theorem State.mapPod_quantum (s : State) (f : Pod → Pod) : (s.mapPod f).quantum = s.quantum := rfl
@[simp] theorem State.mapPod_quantumFrom (s : State) (f : Pod → Pod) : (s.mapPod f).quantumFrom = s.quantumFrom := rfl
@[simp] theorem State.mapPod_pgcfg (s : State) (f : Pod → Pod) : (s.mapPod f).pgcfg = s.pgcfg := rfl
@[simp] theorem State.mapPod_pwrcap (s : State) (f : Pod → Pod) : (s.mapPod f).pwrcap = s.pwrcap := rfl
@[simp] theorem State.mapPod_vfs (s : State) (f : Pod → Pod) : (s.mapPod f).vfs = s.vfs := rfl
@[simp] theorem State.mapPod_freq (s : State) (f : Pod → Pod) : (s.mapPod f).freq = s.freq := rfl
@[simp] theorem State.mapPod_linkUp (s : State) (f : Pod → Pod) : (s.mapPod f).linkUp = s.linkUp := rfl
@[simp] theorem State.mapPod_hernus (s : State) (f : Pod → Pod) : (s.mapPod f).hernus = s.hernus := rfl
@[simp] theorem State.mapPod_fpsel (s : State) (f : Pod → Pod) : (s.mapPod f).fpsel = s.fpsel := rfl
@[simp] theorem State.mapPod_fpcnt (s : State) (f : Pod → Pod) : (s.mapPod f).fpcnt = s.fpcnt := rfl
@[simp] theorem State.mapPod_fpfrac (s : State) (f : Pod → Pod) : (s.mapPod f).fpfrac = s.fpfrac := rfl
@[simp] theorem State.mapPod_errSlice (s : State) (f : Pod → Pod) : (s.mapPod f).errSlice = s.errSlice := rfl
@[simp] theorem State.mapPod_errStack (s : State) (f : Pod → Pod) : (s.mapPod f).errStack = s.errStack := rfl
@[simp] theorem State.mapPod_clock (s : State) (f : Pod → Pod) : (s.mapPod f).clock = s.clock := rfl
@[simp] theorem State.mapPod_fabClock (s : State) (f : Pod → Pod) : (s.mapPod f).fabClock = s.fabClock := rfl
@[simp] theorem State.mapPod_out (s : State) (f : Pod → Pod) : (s.mapPod f).out = s.out := rfl
@[simp] theorem State.mapPod_tick (s : State) (f : Pod → Pod) : (s.mapPod f).tick = s.tick := rfl
@[simp] theorem State.mapPod_draw (s : State) (f : Pod → Pod) : (s.mapPod f).draw = s.draw := rfl
@[simp] theorem State.mapPod_ids (s : State) (f : Pod → Pod) : (s.mapPod f).ids = s.ids := rfl
@[simp] theorem State.mapPod_used (s : State) (f : Pod → Pod) : (s.mapPod f).used = s.used := rfl
@[simp] theorem State.mapPod_agenda (s : State) (f : Pod → Pod) : (s.mapPod f).agenda = s.agenda := rfl
@[simp] theorem State.mapPod_cur (s : State) (f : Pod → Pod) : (s.mapPod f).cur = s.cur := rfl
@[simp] theorem State.mapPod_note (s : State) (f : Pod → Pod) : (s.mapPod f).note = s.note := rfl
@[simp] theorem State.mapPod_word (s : State) (f : Pod → Pod) : (s.mapPod f).word = s.word := rfl
@[simp] theorem State.mapPod_snap (s : State) (f : Pod → Pod) : (s.mapPod f).snap = s.snap := rfl
@[simp] theorem State.mapPod_ctx (s : State) (f : Pod → Pod) : (s.mapPod f).ctx = s.ctx := rfl
@[simp] theorem State.mapPod_grid (s : State) (f : Pod → Pod) : (s.mapPod f).grid = s.grid := rfl
@[simp] theorem State.mapPod_team (s : State) (f : Pod → Pod) : (s.mapPod f).team = s.team := rfl
@[simp] theorem State.mapPod_fp (s : State) (f : Pod → Pod) : (s.mapPod f).fp = s.fp := rfl
@[simp] theorem State.mapPod_coll (s : State) (f : Pod → Pod) : (s.mapPod f).coll = s.coll := rfl
@[simp] theorem State.mapPod_pod (s : State) (f : Pod → Pod) : (s.mapPod f).pod = f s.pod := rfl
@[simp] theorem State.advance_mem (s : State) (n : Nat) : (s.advance n).mem = s.mem := rfl
@[simp] theorem State.advance_poison (s : State) (n : Nat) : (s.advance n).poison = s.poison := rfl
@[simp] theorem State.advance_lineKey (s : State) (n : Nat) : (s.advance n).lineKey = s.lineKey := rfl
@[simp] theorem State.advance_dirty (s : State) (n : Nat) : (s.advance n).dirty = s.dirty := rfl
@[simp] theorem State.advance_owners (s : State) (n : Nat) : (s.advance n).owners = s.owners := rfl
@[simp] theorem State.advance_teams (s : State) (n : Nat) : (s.advance n).teams = s.teams := rfl
@[simp] theorem State.advance_grids (s : State) (n : Nat) : (s.advance n).grids = s.grids := rfl
@[simp] theorem State.advance_mats (s : State) (n : Nat) : (s.advance n).mats = s.mats := rfl
@[simp] theorem State.advance_fabric (s : State) (n : Nat) : (s.advance n).fabric = s.fabric := rfl
@[simp] theorem State.advance_colls (s : State) (n : Nat) : (s.advance n).colls = s.colls := rfl
@[simp] theorem State.advance_xforms (s : State) (n : Nat) : (s.advance n).xforms = s.xforms := rfl
@[simp] theorem State.advance_parked (s : State) (n : Nat) : (s.advance n).parked = s.parked := rfl
@[simp] theorem State.advance_streams (s : State) (n : Nat) : (s.advance n).streams = s.streams := rfl
@[simp] theorem State.advance_stamp (s : State) (n : Nat) : (s.advance n).stamp = s.stamp := rfl
@[simp] theorem State.advance_parts (s : State) (n : Nat) : (s.advance n).parts = s.parts := rfl
@[simp] theorem State.advance_resident (s : State) (n : Nat) : (s.advance n).resident = s.resident := rfl
@[simp] theorem State.advance_quantum (s : State) (n : Nat) : (s.advance n).quantum = s.quantum := rfl
@[simp] theorem State.advance_quantumFrom (s : State) (n : Nat) : (s.advance n).quantumFrom = s.quantumFrom := rfl
@[simp] theorem State.advance_pgcfg (s : State) (n : Nat) : (s.advance n).pgcfg = s.pgcfg := rfl
@[simp] theorem State.advance_pwrcap (s : State) (n : Nat) : (s.advance n).pwrcap = s.pwrcap := rfl
@[simp] theorem State.advance_vfs (s : State) (n : Nat) : (s.advance n).vfs = s.vfs := rfl
@[simp] theorem State.advance_freq (s : State) (n : Nat) : (s.advance n).freq = s.freq := rfl
@[simp] theorem State.advance_linkUp (s : State) (n : Nat) : (s.advance n).linkUp = s.linkUp := rfl
@[simp] theorem State.advance_hernus (s : State) (n : Nat) : (s.advance n).hernus = s.hernus := rfl
@[simp] theorem State.advance_fpsel (s : State) (n : Nat) : (s.advance n).fpsel = s.fpsel := rfl
@[simp] theorem State.advance_fpcnt (s : State) (n : Nat) : (s.advance n).fpcnt = s.fpcnt := rfl
@[simp] theorem State.advance_fpfrac (s : State) (n : Nat) : (s.advance n).fpfrac = s.fpfrac := rfl
@[simp] theorem State.advance_errSlice (s : State) (n : Nat) : (s.advance n).errSlice = s.errSlice := rfl
@[simp] theorem State.advance_errStack (s : State) (n : Nat) : (s.advance n).errStack = s.errStack := rfl
@[simp] theorem State.advance_clock (s : State) (n : Nat) : (s.advance n).clock = s.clock := rfl
@[simp] theorem State.advance_fabClock (s : State) (n : Nat) : (s.advance n).fabClock = s.fabClock := rfl
@[simp] theorem State.advance_out (s : State) (n : Nat) : (s.advance n).out = s.out := rfl
@[simp] theorem State.advance_tick (s : State) (n : Nat) : (s.advance n).tick = s.tick := rfl
@[simp] theorem State.advance_draw (s : State) (n : Nat) : (s.advance n).draw = s.draw := rfl
@[simp] theorem State.advance_ids (s : State) (n : Nat) : (s.advance n).ids = s.ids := rfl
@[simp] theorem State.advance_used (s : State) (n : Nat) : (s.advance n).used = s.used := rfl
@[simp] theorem State.advance_agenda (s : State) (n : Nat) : (s.advance n).agenda = s.agenda := rfl
@[simp] theorem State.advance_cur (s : State) (n : Nat) : (s.advance n).cur = s.cur := rfl
@[simp] theorem State.advance_note (s : State) (n : Nat) : (s.advance n).note = s.note := rfl
@[simp] theorem State.advance_word (s : State) (n : Nat) : (s.advance n).word = s.word := rfl
@[simp] theorem State.advance_snap (s : State) (n : Nat) : (s.advance n).snap = s.snap := rfl
@[simp] theorem State.advance_ctx (s : State) (n : Nat) : (s.advance n).ctx = s.ctx := rfl
@[simp] theorem State.advance_grid (s : State) (n : Nat) : (s.advance n).grid = s.grid := rfl
@[simp] theorem State.advance_team (s : State) (n : Nat) : (s.advance n).team = s.team := rfl
@[simp] theorem State.advance_fp (s : State) (n : Nat) : (s.advance n).fp = s.fp := rfl
@[simp] theorem State.advance_coll (s : State) (n : Nat) : (s.advance n).coll = s.coll := rfl
@[simp] theorem State.advance_pod (s : State) (n : Nat) : (s.advance n).pod = s.pod.advance n := rfl
@[simp] theorem State.setScalar_mem (s : State) (k : Nat) (w : W32) : (s.setScalar k w).mem = s.mem := rfl
@[simp] theorem State.setScalar_poison (s : State) (k : Nat) (w : W32) : (s.setScalar k w).poison = s.poison := rfl
@[simp] theorem State.setScalar_lineKey (s : State) (k : Nat) (w : W32) : (s.setScalar k w).lineKey = s.lineKey := rfl
@[simp] theorem State.setScalar_dirty (s : State) (k : Nat) (w : W32) : (s.setScalar k w).dirty = s.dirty := rfl
@[simp] theorem State.setScalar_owners (s : State) (k : Nat) (w : W32) : (s.setScalar k w).owners = s.owners := rfl
@[simp] theorem State.setScalar_teams (s : State) (k : Nat) (w : W32) : (s.setScalar k w).teams = s.teams := rfl
@[simp] theorem State.setScalar_grids (s : State) (k : Nat) (w : W32) : (s.setScalar k w).grids = s.grids := rfl
@[simp] theorem State.setScalar_mats (s : State) (k : Nat) (w : W32) : (s.setScalar k w).mats = s.mats := rfl
@[simp] theorem State.setScalar_fabric (s : State) (k : Nat) (w : W32) : (s.setScalar k w).fabric = s.fabric := rfl
@[simp] theorem State.setScalar_colls (s : State) (k : Nat) (w : W32) : (s.setScalar k w).colls = s.colls := rfl
@[simp] theorem State.setScalar_xforms (s : State) (k : Nat) (w : W32) : (s.setScalar k w).xforms = s.xforms := rfl
@[simp] theorem State.setScalar_parked (s : State) (k : Nat) (w : W32) : (s.setScalar k w).parked = s.parked := rfl
@[simp] theorem State.setScalar_streams (s : State) (k : Nat) (w : W32) : (s.setScalar k w).streams = s.streams := rfl
@[simp] theorem State.setScalar_stamp (s : State) (k : Nat) (w : W32) : (s.setScalar k w).stamp = s.stamp := rfl
@[simp] theorem State.setScalar_parts (s : State) (k : Nat) (w : W32) : (s.setScalar k w).parts = s.parts := rfl
@[simp] theorem State.setScalar_resident (s : State) (k : Nat) (w : W32) : (s.setScalar k w).resident = s.resident := rfl
@[simp] theorem State.setScalar_quantum (s : State) (k : Nat) (w : W32) : (s.setScalar k w).quantum = s.quantum := rfl
@[simp] theorem State.setScalar_quantumFrom (s : State) (k : Nat) (w : W32) : (s.setScalar k w).quantumFrom = s.quantumFrom := rfl
@[simp] theorem State.setScalar_pgcfg (s : State) (k : Nat) (w : W32) : (s.setScalar k w).pgcfg = s.pgcfg := rfl
@[simp] theorem State.setScalar_pwrcap (s : State) (k : Nat) (w : W32) : (s.setScalar k w).pwrcap = s.pwrcap := rfl
@[simp] theorem State.setScalar_vfs (s : State) (k : Nat) (w : W32) : (s.setScalar k w).vfs = s.vfs := rfl
@[simp] theorem State.setScalar_freq (s : State) (k : Nat) (w : W32) : (s.setScalar k w).freq = s.freq := rfl
@[simp] theorem State.setScalar_linkUp (s : State) (k : Nat) (w : W32) : (s.setScalar k w).linkUp = s.linkUp := rfl
@[simp] theorem State.setScalar_hernus (s : State) (k : Nat) (w : W32) : (s.setScalar k w).hernus = s.hernus := rfl
@[simp] theorem State.setScalar_fpsel (s : State) (k : Nat) (w : W32) : (s.setScalar k w).fpsel = s.fpsel := rfl
@[simp] theorem State.setScalar_fpcnt (s : State) (k : Nat) (w : W32) : (s.setScalar k w).fpcnt = s.fpcnt := rfl
@[simp] theorem State.setScalar_fpfrac (s : State) (k : Nat) (w : W32) : (s.setScalar k w).fpfrac = s.fpfrac := rfl
@[simp] theorem State.setScalar_errSlice (s : State) (k : Nat) (w : W32) : (s.setScalar k w).errSlice = s.errSlice := rfl
@[simp] theorem State.setScalar_errStack (s : State) (k : Nat) (w : W32) : (s.setScalar k w).errStack = s.errStack := rfl
@[simp] theorem State.setScalar_clock (s : State) (k : Nat) (w : W32) : (s.setScalar k w).clock = s.clock := rfl
@[simp] theorem State.setScalar_fabClock (s : State) (k : Nat) (w : W32) : (s.setScalar k w).fabClock = s.fabClock := rfl
@[simp] theorem State.setScalar_out (s : State) (k : Nat) (w : W32) : (s.setScalar k w).out = s.out := rfl
@[simp] theorem State.setScalar_tick (s : State) (k : Nat) (w : W32) : (s.setScalar k w).tick = s.tick := rfl
@[simp] theorem State.setScalar_draw (s : State) (k : Nat) (w : W32) : (s.setScalar k w).draw = s.draw := rfl
@[simp] theorem State.setScalar_ids (s : State) (k : Nat) (w : W32) : (s.setScalar k w).ids = s.ids := rfl
@[simp] theorem State.setScalar_used (s : State) (k : Nat) (w : W32) : (s.setScalar k w).used = s.used := rfl
@[simp] theorem State.setScalar_agenda (s : State) (k : Nat) (w : W32) : (s.setScalar k w).agenda = s.agenda := rfl
@[simp] theorem State.setScalar_cur (s : State) (k : Nat) (w : W32) : (s.setScalar k w).cur = s.cur := rfl
@[simp] theorem State.setScalar_note (s : State) (k : Nat) (w : W32) : (s.setScalar k w).note = s.note := rfl
@[simp] theorem State.setScalar_word (s : State) (k : Nat) (w : W32) : (s.setScalar k w).word = s.word := rfl
@[simp] theorem State.setScalar_snap (s : State) (k : Nat) (w : W32) : (s.setScalar k w).snap = s.snap := rfl
@[simp] theorem State.setScalar_ctx (s : State) (k : Nat) (w : W32) : (s.setScalar k w).ctx = s.ctx := rfl
@[simp] theorem State.setScalar_grid (s : State) (k : Nat) (w : W32) : (s.setScalar k w).grid = s.grid := rfl
@[simp] theorem State.setScalar_team (s : State) (k : Nat) (w : W32) : (s.setScalar k w).team = s.team := rfl
@[simp] theorem State.setScalar_fp (s : State) (k : Nat) (w : W32) : (s.setScalar k w).fp = s.fp := rfl
@[simp] theorem State.setScalar_coll (s : State) (k : Nat) (w : W32) : (s.setScalar k w).coll = s.coll := rfl
@[simp] theorem State.setScalar_pod (s : State) (k : Nat) (w : W32) : (s.setScalar k w).pod = s.pod.setScalar k w := rfl
@[simp] theorem State.orFlags_mem (s : State) (f : W32) : (s.orFlags f).mem = s.mem := rfl
@[simp] theorem State.orFlags_poison (s : State) (f : W32) : (s.orFlags f).poison = s.poison := rfl
@[simp] theorem State.orFlags_lineKey (s : State) (f : W32) : (s.orFlags f).lineKey = s.lineKey := rfl
@[simp] theorem State.orFlags_dirty (s : State) (f : W32) : (s.orFlags f).dirty = s.dirty := rfl
@[simp] theorem State.orFlags_owners (s : State) (f : W32) : (s.orFlags f).owners = s.owners := rfl
@[simp] theorem State.orFlags_teams (s : State) (f : W32) : (s.orFlags f).teams = s.teams := rfl
@[simp] theorem State.orFlags_grids (s : State) (f : W32) : (s.orFlags f).grids = s.grids := rfl
@[simp] theorem State.orFlags_mats (s : State) (f : W32) : (s.orFlags f).mats = s.mats := rfl
@[simp] theorem State.orFlags_fabric (s : State) (f : W32) : (s.orFlags f).fabric = s.fabric := rfl
@[simp] theorem State.orFlags_colls (s : State) (f : W32) : (s.orFlags f).colls = s.colls := rfl
@[simp] theorem State.orFlags_xforms (s : State) (f : W32) : (s.orFlags f).xforms = s.xforms := rfl
@[simp] theorem State.orFlags_parked (s : State) (f : W32) : (s.orFlags f).parked = s.parked := rfl
@[simp] theorem State.orFlags_streams (s : State) (f : W32) : (s.orFlags f).streams = s.streams := rfl
@[simp] theorem State.orFlags_stamp (s : State) (f : W32) : (s.orFlags f).stamp = s.stamp := rfl
@[simp] theorem State.orFlags_parts (s : State) (f : W32) : (s.orFlags f).parts = s.parts := rfl
@[simp] theorem State.orFlags_resident (s : State) (f : W32) : (s.orFlags f).resident = s.resident := rfl
@[simp] theorem State.orFlags_quantum (s : State) (f : W32) : (s.orFlags f).quantum = s.quantum := rfl
@[simp] theorem State.orFlags_quantumFrom (s : State) (f : W32) : (s.orFlags f).quantumFrom = s.quantumFrom := rfl
@[simp] theorem State.orFlags_pgcfg (s : State) (f : W32) : (s.orFlags f).pgcfg = s.pgcfg := rfl
@[simp] theorem State.orFlags_pwrcap (s : State) (f : W32) : (s.orFlags f).pwrcap = s.pwrcap := rfl
@[simp] theorem State.orFlags_vfs (s : State) (f : W32) : (s.orFlags f).vfs = s.vfs := rfl
@[simp] theorem State.orFlags_freq (s : State) (f : W32) : (s.orFlags f).freq = s.freq := rfl
@[simp] theorem State.orFlags_linkUp (s : State) (f : W32) : (s.orFlags f).linkUp = s.linkUp := rfl
@[simp] theorem State.orFlags_hernus (s : State) (f : W32) : (s.orFlags f).hernus = s.hernus := rfl
@[simp] theorem State.orFlags_fpsel (s : State) (f : W32) : (s.orFlags f).fpsel = s.fpsel := rfl
@[simp] theorem State.orFlags_fpcnt (s : State) (f : W32) : (s.orFlags f).fpcnt = s.fpcnt := rfl
@[simp] theorem State.orFlags_fpfrac (s : State) (f : W32) : (s.orFlags f).fpfrac = s.fpfrac := rfl
@[simp] theorem State.orFlags_errSlice (s : State) (f : W32) : (s.orFlags f).errSlice = s.errSlice := rfl
@[simp] theorem State.orFlags_errStack (s : State) (f : W32) : (s.orFlags f).errStack = s.errStack := rfl
@[simp] theorem State.orFlags_clock (s : State) (f : W32) : (s.orFlags f).clock = s.clock := rfl
@[simp] theorem State.orFlags_fabClock (s : State) (f : W32) : (s.orFlags f).fabClock = s.fabClock := rfl
@[simp] theorem State.orFlags_out (s : State) (f : W32) : (s.orFlags f).out = s.out := rfl
@[simp] theorem State.orFlags_tick (s : State) (f : W32) : (s.orFlags f).tick = s.tick := rfl
@[simp] theorem State.orFlags_draw (s : State) (f : W32) : (s.orFlags f).draw = s.draw := rfl
@[simp] theorem State.orFlags_ids (s : State) (f : W32) : (s.orFlags f).ids = s.ids := rfl
@[simp] theorem State.orFlags_used (s : State) (f : W32) : (s.orFlags f).used = s.used := rfl
@[simp] theorem State.orFlags_agenda (s : State) (f : W32) : (s.orFlags f).agenda = s.agenda := rfl
@[simp] theorem State.orFlags_cur (s : State) (f : W32) : (s.orFlags f).cur = s.cur := rfl
@[simp] theorem State.orFlags_note (s : State) (f : W32) : (s.orFlags f).note = s.note := rfl
@[simp] theorem State.orFlags_word (s : State) (f : W32) : (s.orFlags f).word = s.word := rfl
@[simp] theorem State.orFlags_snap (s : State) (f : W32) : (s.orFlags f).snap = s.snap := rfl
@[simp] theorem State.orFlags_ctx (s : State) (f : W32) : (s.orFlags f).ctx = s.ctx := rfl
@[simp] theorem State.orFlags_grid (s : State) (f : W32) : (s.orFlags f).grid = s.grid := rfl
@[simp] theorem State.orFlags_pod (s : State) (f : W32) : (s.orFlags f).pod = s.pod := rfl
@[simp] theorem State.orFlags_fp (s : State) (f : W32) : (s.orFlags f).fp = s.fp := rfl
@[simp] theorem State.orFlags_coll (s : State) (f : W32) : (s.orFlags f).coll = s.coll := rfl
@[simp] theorem State.orFlags_team (s : State) (f : W32) : (s.orFlags f).team = { s.team with flags := s.team.flags ||| f } := rfl
@[simp] theorem State.mapCtx_mem (s : State) (n : Nat) (f : Context → Context) : (s.mapCtx n f).mem = s.mem := rfl
@[simp] theorem State.mapCtx_poison (s : State) (n : Nat) (f : Context → Context) : (s.mapCtx n f).poison = s.poison := rfl
@[simp] theorem State.mapCtx_lineKey (s : State) (n : Nat) (f : Context → Context) : (s.mapCtx n f).lineKey = s.lineKey := rfl
@[simp] theorem State.mapCtx_dirty (s : State) (n : Nat) (f : Context → Context) : (s.mapCtx n f).dirty = s.dirty := rfl
@[simp] theorem State.mapCtx_teams (s : State) (n : Nat) (f : Context → Context) : (s.mapCtx n f).teams = s.teams := rfl
@[simp] theorem State.mapCtx_grids (s : State) (n : Nat) (f : Context → Context) : (s.mapCtx n f).grids = s.grids := rfl
@[simp] theorem State.mapCtx_mats (s : State) (n : Nat) (f : Context → Context) : (s.mapCtx n f).mats = s.mats := rfl
@[simp] theorem State.mapCtx_fabric (s : State) (n : Nat) (f : Context → Context) : (s.mapCtx n f).fabric = s.fabric := rfl
@[simp] theorem State.mapCtx_colls (s : State) (n : Nat) (f : Context → Context) : (s.mapCtx n f).colls = s.colls := rfl
@[simp] theorem State.mapCtx_xforms (s : State) (n : Nat) (f : Context → Context) : (s.mapCtx n f).xforms = s.xforms := rfl
@[simp] theorem State.mapCtx_parked (s : State) (n : Nat) (f : Context → Context) : (s.mapCtx n f).parked = s.parked := rfl
@[simp] theorem State.mapCtx_streams (s : State) (n : Nat) (f : Context → Context) : (s.mapCtx n f).streams = s.streams := rfl
@[simp] theorem State.mapCtx_stamp (s : State) (n : Nat) (f : Context → Context) : (s.mapCtx n f).stamp = s.stamp := rfl
@[simp] theorem State.mapCtx_parts (s : State) (n : Nat) (f : Context → Context) : (s.mapCtx n f).parts = s.parts := rfl
@[simp] theorem State.mapCtx_resident (s : State) (n : Nat) (f : Context → Context) : (s.mapCtx n f).resident = s.resident := rfl
@[simp] theorem State.mapCtx_quantum (s : State) (n : Nat) (f : Context → Context) : (s.mapCtx n f).quantum = s.quantum := rfl
@[simp] theorem State.mapCtx_quantumFrom (s : State) (n : Nat) (f : Context → Context) : (s.mapCtx n f).quantumFrom = s.quantumFrom := rfl
@[simp] theorem State.mapCtx_pgcfg (s : State) (n : Nat) (f : Context → Context) : (s.mapCtx n f).pgcfg = s.pgcfg := rfl
@[simp] theorem State.mapCtx_pwrcap (s : State) (n : Nat) (f : Context → Context) : (s.mapCtx n f).pwrcap = s.pwrcap := rfl
@[simp] theorem State.mapCtx_vfs (s : State) (n : Nat) (f : Context → Context) : (s.mapCtx n f).vfs = s.vfs := rfl
@[simp] theorem State.mapCtx_freq (s : State) (n : Nat) (f : Context → Context) : (s.mapCtx n f).freq = s.freq := rfl
@[simp] theorem State.mapCtx_linkUp (s : State) (n : Nat) (f : Context → Context) : (s.mapCtx n f).linkUp = s.linkUp := rfl
@[simp] theorem State.mapCtx_hernus (s : State) (n : Nat) (f : Context → Context) : (s.mapCtx n f).hernus = s.hernus := rfl
@[simp] theorem State.mapCtx_fpsel (s : State) (n : Nat) (f : Context → Context) : (s.mapCtx n f).fpsel = s.fpsel := rfl
@[simp] theorem State.mapCtx_fpcnt (s : State) (n : Nat) (f : Context → Context) : (s.mapCtx n f).fpcnt = s.fpcnt := rfl
@[simp] theorem State.mapCtx_fpfrac (s : State) (n : Nat) (f : Context → Context) : (s.mapCtx n f).fpfrac = s.fpfrac := rfl
@[simp] theorem State.mapCtx_errSlice (s : State) (n : Nat) (f : Context → Context) : (s.mapCtx n f).errSlice = s.errSlice := rfl
@[simp] theorem State.mapCtx_errStack (s : State) (n : Nat) (f : Context → Context) : (s.mapCtx n f).errStack = s.errStack := rfl
@[simp] theorem State.mapCtx_clock (s : State) (n : Nat) (f : Context → Context) : (s.mapCtx n f).clock = s.clock := rfl
@[simp] theorem State.mapCtx_fabClock (s : State) (n : Nat) (f : Context → Context) : (s.mapCtx n f).fabClock = s.fabClock := rfl
@[simp] theorem State.mapCtx_out (s : State) (n : Nat) (f : Context → Context) : (s.mapCtx n f).out = s.out := rfl
@[simp] theorem State.mapCtx_tick (s : State) (n : Nat) (f : Context → Context) : (s.mapCtx n f).tick = s.tick := rfl
@[simp] theorem State.mapCtx_draw (s : State) (n : Nat) (f : Context → Context) : (s.mapCtx n f).draw = s.draw := rfl
@[simp] theorem State.mapCtx_ids (s : State) (n : Nat) (f : Context → Context) : (s.mapCtx n f).ids = s.ids := rfl
@[simp] theorem State.mapCtx_used (s : State) (n : Nat) (f : Context → Context) : (s.mapCtx n f).used = s.used := rfl
@[simp] theorem State.mapCtx_agenda (s : State) (n : Nat) (f : Context → Context) : (s.mapCtx n f).agenda = s.agenda := rfl
@[simp] theorem State.mapCtx_cur (s : State) (n : Nat) (f : Context → Context) : (s.mapCtx n f).cur = s.cur := rfl
@[simp] theorem State.mapCtx_note (s : State) (n : Nat) (f : Context → Context) : (s.mapCtx n f).note = s.note := rfl
@[simp] theorem State.mapCtx_word (s : State) (n : Nat) (f : Context → Context) : (s.mapCtx n f).word = s.word := rfl
@[simp] theorem State.mapCtx_snap (s : State) (n : Nat) (f : Context → Context) : (s.mapCtx n f).snap = s.snap := rfl
@[simp] theorem State.mapCtx_grid (s : State) (n : Nat) (f : Context → Context) : (s.mapCtx n f).grid = s.grid := rfl
@[simp] theorem State.mapCtx_team (s : State) (n : Nat) (f : Context → Context) : (s.mapCtx n f).team = s.team := rfl
@[simp] theorem State.mapCtx_pod (s : State) (n : Nat) (f : Context → Context) : (s.mapCtx n f).pod = s.pod := rfl
@[simp] theorem State.mapCtx_fp (s : State) (n : Nat) (f : Context → Context) : (s.mapCtx n f).fp = s.fp := rfl
@[simp] theorem State.mapCtx_coll (s : State) (n : Nat) (f : Context → Context) : (s.mapCtx n f).coll = s.coll := rfl
@[simp] theorem State.mapCtx_owners (s : State) (n : Nat) (f : Context → Context) : (s.mapCtx n f).owners = replaceIf s.owners (·.owner == n) f := rfl
@[simp] theorem State.mapCtx_ctx (s : State) (n : Nat) (f : Context → Context) : (s.mapCtx n f).ctx = if s.ctx.owner == n then f s.ctx else s.ctx := rfl
@[simp] theorem State.mapTeam_mem (s : State) (n : Nat) (f : Team → Team) : (s.mapTeam n f).mem = s.mem := rfl
@[simp] theorem State.mapTeam_poison (s : State) (n : Nat) (f : Team → Team) : (s.mapTeam n f).poison = s.poison := rfl
@[simp] theorem State.mapTeam_lineKey (s : State) (n : Nat) (f : Team → Team) : (s.mapTeam n f).lineKey = s.lineKey := rfl
@[simp] theorem State.mapTeam_dirty (s : State) (n : Nat) (f : Team → Team) : (s.mapTeam n f).dirty = s.dirty := rfl
@[simp] theorem State.mapTeam_owners (s : State) (n : Nat) (f : Team → Team) : (s.mapTeam n f).owners = s.owners := rfl
@[simp] theorem State.mapTeam_grids (s : State) (n : Nat) (f : Team → Team) : (s.mapTeam n f).grids = s.grids := rfl
@[simp] theorem State.mapTeam_mats (s : State) (n : Nat) (f : Team → Team) : (s.mapTeam n f).mats = s.mats := rfl
@[simp] theorem State.mapTeam_fabric (s : State) (n : Nat) (f : Team → Team) : (s.mapTeam n f).fabric = s.fabric := rfl
@[simp] theorem State.mapTeam_colls (s : State) (n : Nat) (f : Team → Team) : (s.mapTeam n f).colls = s.colls := rfl
@[simp] theorem State.mapTeam_xforms (s : State) (n : Nat) (f : Team → Team) : (s.mapTeam n f).xforms = s.xforms := rfl
@[simp] theorem State.mapTeam_parked (s : State) (n : Nat) (f : Team → Team) : (s.mapTeam n f).parked = s.parked := rfl
@[simp] theorem State.mapTeam_streams (s : State) (n : Nat) (f : Team → Team) : (s.mapTeam n f).streams = s.streams := rfl
@[simp] theorem State.mapTeam_stamp (s : State) (n : Nat) (f : Team → Team) : (s.mapTeam n f).stamp = s.stamp := rfl
@[simp] theorem State.mapTeam_parts (s : State) (n : Nat) (f : Team → Team) : (s.mapTeam n f).parts = s.parts := rfl
@[simp] theorem State.mapTeam_resident (s : State) (n : Nat) (f : Team → Team) : (s.mapTeam n f).resident = s.resident := rfl
@[simp] theorem State.mapTeam_quantum (s : State) (n : Nat) (f : Team → Team) : (s.mapTeam n f).quantum = s.quantum := rfl
@[simp] theorem State.mapTeam_quantumFrom (s : State) (n : Nat) (f : Team → Team) : (s.mapTeam n f).quantumFrom = s.quantumFrom := rfl
@[simp] theorem State.mapTeam_pgcfg (s : State) (n : Nat) (f : Team → Team) : (s.mapTeam n f).pgcfg = s.pgcfg := rfl
@[simp] theorem State.mapTeam_pwrcap (s : State) (n : Nat) (f : Team → Team) : (s.mapTeam n f).pwrcap = s.pwrcap := rfl
@[simp] theorem State.mapTeam_vfs (s : State) (n : Nat) (f : Team → Team) : (s.mapTeam n f).vfs = s.vfs := rfl
@[simp] theorem State.mapTeam_freq (s : State) (n : Nat) (f : Team → Team) : (s.mapTeam n f).freq = s.freq := rfl
@[simp] theorem State.mapTeam_linkUp (s : State) (n : Nat) (f : Team → Team) : (s.mapTeam n f).linkUp = s.linkUp := rfl
@[simp] theorem State.mapTeam_hernus (s : State) (n : Nat) (f : Team → Team) : (s.mapTeam n f).hernus = s.hernus := rfl
@[simp] theorem State.mapTeam_fpsel (s : State) (n : Nat) (f : Team → Team) : (s.mapTeam n f).fpsel = s.fpsel := rfl
@[simp] theorem State.mapTeam_fpcnt (s : State) (n : Nat) (f : Team → Team) : (s.mapTeam n f).fpcnt = s.fpcnt := rfl
@[simp] theorem State.mapTeam_fpfrac (s : State) (n : Nat) (f : Team → Team) : (s.mapTeam n f).fpfrac = s.fpfrac := rfl
@[simp] theorem State.mapTeam_errSlice (s : State) (n : Nat) (f : Team → Team) : (s.mapTeam n f).errSlice = s.errSlice := rfl
@[simp] theorem State.mapTeam_errStack (s : State) (n : Nat) (f : Team → Team) : (s.mapTeam n f).errStack = s.errStack := rfl
@[simp] theorem State.mapTeam_clock (s : State) (n : Nat) (f : Team → Team) : (s.mapTeam n f).clock = s.clock := rfl
@[simp] theorem State.mapTeam_fabClock (s : State) (n : Nat) (f : Team → Team) : (s.mapTeam n f).fabClock = s.fabClock := rfl
@[simp] theorem State.mapTeam_out (s : State) (n : Nat) (f : Team → Team) : (s.mapTeam n f).out = s.out := rfl
@[simp] theorem State.mapTeam_tick (s : State) (n : Nat) (f : Team → Team) : (s.mapTeam n f).tick = s.tick := rfl
@[simp] theorem State.mapTeam_draw (s : State) (n : Nat) (f : Team → Team) : (s.mapTeam n f).draw = s.draw := rfl
@[simp] theorem State.mapTeam_ids (s : State) (n : Nat) (f : Team → Team) : (s.mapTeam n f).ids = s.ids := rfl
@[simp] theorem State.mapTeam_used (s : State) (n : Nat) (f : Team → Team) : (s.mapTeam n f).used = s.used := rfl
@[simp] theorem State.mapTeam_agenda (s : State) (n : Nat) (f : Team → Team) : (s.mapTeam n f).agenda = s.agenda := rfl
@[simp] theorem State.mapTeam_cur (s : State) (n : Nat) (f : Team → Team) : (s.mapTeam n f).cur = s.cur := rfl
@[simp] theorem State.mapTeam_note (s : State) (n : Nat) (f : Team → Team) : (s.mapTeam n f).note = s.note := rfl
@[simp] theorem State.mapTeam_word (s : State) (n : Nat) (f : Team → Team) : (s.mapTeam n f).word = s.word := rfl
@[simp] theorem State.mapTeam_snap (s : State) (n : Nat) (f : Team → Team) : (s.mapTeam n f).snap = s.snap := rfl
@[simp] theorem State.mapTeam_ctx (s : State) (n : Nat) (f : Team → Team) : (s.mapTeam n f).ctx = s.ctx := rfl
@[simp] theorem State.mapTeam_grid (s : State) (n : Nat) (f : Team → Team) : (s.mapTeam n f).grid = s.grid := rfl
@[simp] theorem State.mapTeam_team (s : State) (n : Nat) (f : Team → Team) : (s.mapTeam n f).team = s.team := rfl
@[simp] theorem State.mapTeam_pod (s : State) (n : Nat) (f : Team → Team) : (s.mapTeam n f).pod = s.pod := rfl
@[simp] theorem State.mapTeam_fp (s : State) (n : Nat) (f : Team → Team) : (s.mapTeam n f).fp = s.fp := rfl
@[simp] theorem State.mapTeam_coll (s : State) (n : Nat) (f : Team → Team) : (s.mapTeam n f).coll = s.coll := rfl
@[simp] theorem State.mapTeam_teams (s : State) (n : Nat) (f : Team → Team) : (s.mapTeam n f).teams = replaceIf s.teams (·.id == n) f := rfl
@[simp] theorem State.mapGrid_mem (s : State) (h : W32) (f : Grid → Grid) : (s.mapGrid h f).mem = s.mem := rfl
@[simp] theorem State.mapGrid_poison (s : State) (h : W32) (f : Grid → Grid) : (s.mapGrid h f).poison = s.poison := rfl
@[simp] theorem State.mapGrid_lineKey (s : State) (h : W32) (f : Grid → Grid) : (s.mapGrid h f).lineKey = s.lineKey := rfl
@[simp] theorem State.mapGrid_dirty (s : State) (h : W32) (f : Grid → Grid) : (s.mapGrid h f).dirty = s.dirty := rfl
@[simp] theorem State.mapGrid_owners (s : State) (h : W32) (f : Grid → Grid) : (s.mapGrid h f).owners = s.owners := rfl
@[simp] theorem State.mapGrid_teams (s : State) (h : W32) (f : Grid → Grid) : (s.mapGrid h f).teams = s.teams := rfl
@[simp] theorem State.mapGrid_mats (s : State) (h : W32) (f : Grid → Grid) : (s.mapGrid h f).mats = s.mats := rfl
@[simp] theorem State.mapGrid_fabric (s : State) (h : W32) (f : Grid → Grid) : (s.mapGrid h f).fabric = s.fabric := rfl
@[simp] theorem State.mapGrid_colls (s : State) (h : W32) (f : Grid → Grid) : (s.mapGrid h f).colls = s.colls := rfl
@[simp] theorem State.mapGrid_xforms (s : State) (h : W32) (f : Grid → Grid) : (s.mapGrid h f).xforms = s.xforms := rfl
@[simp] theorem State.mapGrid_parked (s : State) (h : W32) (f : Grid → Grid) : (s.mapGrid h f).parked = s.parked := rfl
@[simp] theorem State.mapGrid_streams (s : State) (h : W32) (f : Grid → Grid) : (s.mapGrid h f).streams = s.streams := rfl
@[simp] theorem State.mapGrid_stamp (s : State) (h : W32) (f : Grid → Grid) : (s.mapGrid h f).stamp = s.stamp := rfl
@[simp] theorem State.mapGrid_parts (s : State) (h : W32) (f : Grid → Grid) : (s.mapGrid h f).parts = s.parts := rfl
@[simp] theorem State.mapGrid_resident (s : State) (h : W32) (f : Grid → Grid) : (s.mapGrid h f).resident = s.resident := rfl
@[simp] theorem State.mapGrid_quantum (s : State) (h : W32) (f : Grid → Grid) : (s.mapGrid h f).quantum = s.quantum := rfl
@[simp] theorem State.mapGrid_quantumFrom (s : State) (h : W32) (f : Grid → Grid) : (s.mapGrid h f).quantumFrom = s.quantumFrom := rfl
@[simp] theorem State.mapGrid_pgcfg (s : State) (h : W32) (f : Grid → Grid) : (s.mapGrid h f).pgcfg = s.pgcfg := rfl
@[simp] theorem State.mapGrid_pwrcap (s : State) (h : W32) (f : Grid → Grid) : (s.mapGrid h f).pwrcap = s.pwrcap := rfl
@[simp] theorem State.mapGrid_vfs (s : State) (h : W32) (f : Grid → Grid) : (s.mapGrid h f).vfs = s.vfs := rfl
@[simp] theorem State.mapGrid_freq (s : State) (h : W32) (f : Grid → Grid) : (s.mapGrid h f).freq = s.freq := rfl
@[simp] theorem State.mapGrid_linkUp (s : State) (h : W32) (f : Grid → Grid) : (s.mapGrid h f).linkUp = s.linkUp := rfl
@[simp] theorem State.mapGrid_hernus (s : State) (h : W32) (f : Grid → Grid) : (s.mapGrid h f).hernus = s.hernus := rfl
@[simp] theorem State.mapGrid_fpsel (s : State) (h : W32) (f : Grid → Grid) : (s.mapGrid h f).fpsel = s.fpsel := rfl
@[simp] theorem State.mapGrid_fpcnt (s : State) (h : W32) (f : Grid → Grid) : (s.mapGrid h f).fpcnt = s.fpcnt := rfl
@[simp] theorem State.mapGrid_fpfrac (s : State) (h : W32) (f : Grid → Grid) : (s.mapGrid h f).fpfrac = s.fpfrac := rfl
@[simp] theorem State.mapGrid_errSlice (s : State) (h : W32) (f : Grid → Grid) : (s.mapGrid h f).errSlice = s.errSlice := rfl
@[simp] theorem State.mapGrid_errStack (s : State) (h : W32) (f : Grid → Grid) : (s.mapGrid h f).errStack = s.errStack := rfl
@[simp] theorem State.mapGrid_clock (s : State) (h : W32) (f : Grid → Grid) : (s.mapGrid h f).clock = s.clock := rfl
@[simp] theorem State.mapGrid_fabClock (s : State) (h : W32) (f : Grid → Grid) : (s.mapGrid h f).fabClock = s.fabClock := rfl
@[simp] theorem State.mapGrid_out (s : State) (h : W32) (f : Grid → Grid) : (s.mapGrid h f).out = s.out := rfl
@[simp] theorem State.mapGrid_tick (s : State) (h : W32) (f : Grid → Grid) : (s.mapGrid h f).tick = s.tick := rfl
@[simp] theorem State.mapGrid_draw (s : State) (h : W32) (f : Grid → Grid) : (s.mapGrid h f).draw = s.draw := rfl
@[simp] theorem State.mapGrid_ids (s : State) (h : W32) (f : Grid → Grid) : (s.mapGrid h f).ids = s.ids := rfl
@[simp] theorem State.mapGrid_used (s : State) (h : W32) (f : Grid → Grid) : (s.mapGrid h f).used = s.used := rfl
@[simp] theorem State.mapGrid_agenda (s : State) (h : W32) (f : Grid → Grid) : (s.mapGrid h f).agenda = s.agenda := rfl
@[simp] theorem State.mapGrid_cur (s : State) (h : W32) (f : Grid → Grid) : (s.mapGrid h f).cur = s.cur := rfl
@[simp] theorem State.mapGrid_note (s : State) (h : W32) (f : Grid → Grid) : (s.mapGrid h f).note = s.note := rfl
@[simp] theorem State.mapGrid_word (s : State) (h : W32) (f : Grid → Grid) : (s.mapGrid h f).word = s.word := rfl
@[simp] theorem State.mapGrid_snap (s : State) (h : W32) (f : Grid → Grid) : (s.mapGrid h f).snap = s.snap := rfl
@[simp] theorem State.mapGrid_ctx (s : State) (h : W32) (f : Grid → Grid) : (s.mapGrid h f).ctx = s.ctx := rfl
@[simp] theorem State.mapGrid_grid (s : State) (h : W32) (f : Grid → Grid) : (s.mapGrid h f).grid = s.grid := rfl
@[simp] theorem State.mapGrid_team (s : State) (h : W32) (f : Grid → Grid) : (s.mapGrid h f).team = s.team := rfl
@[simp] theorem State.mapGrid_pod (s : State) (h : W32) (f : Grid → Grid) : (s.mapGrid h f).pod = s.pod := rfl
@[simp] theorem State.mapGrid_fp (s : State) (h : W32) (f : Grid → Grid) : (s.mapGrid h f).fp = s.fp := rfl
@[simp] theorem State.mapGrid_coll (s : State) (h : W32) (f : Grid → Grid) : (s.mapGrid h f).coll = s.coll := rfl
@[simp] theorem State.mapGrid_grids (s : State) (h : W32) (f : Grid → Grid) : (s.mapGrid h f).grids = replaceIf s.grids (·.handle == h) f := rfl
@[simp] theorem State.mapStream_mem (s : State) (k : Nat) (f : Stream → Stream) : (s.mapStream k f).mem = s.mem := by dsimp only [State.mapStream]
@[simp] theorem State.mapStream_poison (s : State) (k : Nat) (f : Stream → Stream) : (s.mapStream k f).poison = s.poison := by dsimp only [State.mapStream]
@[simp] theorem State.mapStream_lineKey (s : State) (k : Nat) (f : Stream → Stream) : (s.mapStream k f).lineKey = s.lineKey := by dsimp only [State.mapStream]
@[simp] theorem State.mapStream_dirty (s : State) (k : Nat) (f : Stream → Stream) : (s.mapStream k f).dirty = s.dirty := by dsimp only [State.mapStream]
@[simp] theorem State.mapStream_owners (s : State) (k : Nat) (f : Stream → Stream) : (s.mapStream k f).owners = s.owners := by dsimp only [State.mapStream]
@[simp] theorem State.mapStream_teams (s : State) (k : Nat) (f : Stream → Stream) : (s.mapStream k f).teams = s.teams := by dsimp only [State.mapStream]
@[simp] theorem State.mapStream_grids (s : State) (k : Nat) (f : Stream → Stream) : (s.mapStream k f).grids = s.grids := by dsimp only [State.mapStream]
@[simp] theorem State.mapStream_mats (s : State) (k : Nat) (f : Stream → Stream) : (s.mapStream k f).mats = s.mats := by dsimp only [State.mapStream]
@[simp] theorem State.mapStream_fabric (s : State) (k : Nat) (f : Stream → Stream) : (s.mapStream k f).fabric = s.fabric := by dsimp only [State.mapStream]
@[simp] theorem State.mapStream_colls (s : State) (k : Nat) (f : Stream → Stream) : (s.mapStream k f).colls = s.colls := by dsimp only [State.mapStream]
@[simp] theorem State.mapStream_xforms (s : State) (k : Nat) (f : Stream → Stream) : (s.mapStream k f).xforms = s.xforms := by dsimp only [State.mapStream]
@[simp] theorem State.mapStream_parked (s : State) (k : Nat) (f : Stream → Stream) : (s.mapStream k f).parked = s.parked := by dsimp only [State.mapStream]
@[simp] theorem State.mapStream_stamp (s : State) (k : Nat) (f : Stream → Stream) : (s.mapStream k f).stamp = s.stamp := by dsimp only [State.mapStream]
@[simp] theorem State.mapStream_parts (s : State) (k : Nat) (f : Stream → Stream) : (s.mapStream k f).parts = s.parts := by dsimp only [State.mapStream]
@[simp] theorem State.mapStream_resident (s : State) (k : Nat) (f : Stream → Stream) : (s.mapStream k f).resident = s.resident := by dsimp only [State.mapStream]
@[simp] theorem State.mapStream_quantum (s : State) (k : Nat) (f : Stream → Stream) : (s.mapStream k f).quantum = s.quantum := by dsimp only [State.mapStream]
@[simp] theorem State.mapStream_quantumFrom (s : State) (k : Nat) (f : Stream → Stream) : (s.mapStream k f).quantumFrom = s.quantumFrom := by dsimp only [State.mapStream]
@[simp] theorem State.mapStream_pgcfg (s : State) (k : Nat) (f : Stream → Stream) : (s.mapStream k f).pgcfg = s.pgcfg := by dsimp only [State.mapStream]
@[simp] theorem State.mapStream_pwrcap (s : State) (k : Nat) (f : Stream → Stream) : (s.mapStream k f).pwrcap = s.pwrcap := by dsimp only [State.mapStream]
@[simp] theorem State.mapStream_vfs (s : State) (k : Nat) (f : Stream → Stream) : (s.mapStream k f).vfs = s.vfs := by dsimp only [State.mapStream]
@[simp] theorem State.mapStream_freq (s : State) (k : Nat) (f : Stream → Stream) : (s.mapStream k f).freq = s.freq := by dsimp only [State.mapStream]
@[simp] theorem State.mapStream_linkUp (s : State) (k : Nat) (f : Stream → Stream) : (s.mapStream k f).linkUp = s.linkUp := by dsimp only [State.mapStream]
@[simp] theorem State.mapStream_hernus (s : State) (k : Nat) (f : Stream → Stream) : (s.mapStream k f).hernus = s.hernus := by dsimp only [State.mapStream]
@[simp] theorem State.mapStream_fpsel (s : State) (k : Nat) (f : Stream → Stream) : (s.mapStream k f).fpsel = s.fpsel := by dsimp only [State.mapStream]
@[simp] theorem State.mapStream_fpcnt (s : State) (k : Nat) (f : Stream → Stream) : (s.mapStream k f).fpcnt = s.fpcnt := by dsimp only [State.mapStream]
@[simp] theorem State.mapStream_fpfrac (s : State) (k : Nat) (f : Stream → Stream) : (s.mapStream k f).fpfrac = s.fpfrac := by dsimp only [State.mapStream]
@[simp] theorem State.mapStream_errSlice (s : State) (k : Nat) (f : Stream → Stream) : (s.mapStream k f).errSlice = s.errSlice := by dsimp only [State.mapStream]
@[simp] theorem State.mapStream_errStack (s : State) (k : Nat) (f : Stream → Stream) : (s.mapStream k f).errStack = s.errStack := by dsimp only [State.mapStream]
@[simp] theorem State.mapStream_clock (s : State) (k : Nat) (f : Stream → Stream) : (s.mapStream k f).clock = s.clock := by dsimp only [State.mapStream]
@[simp] theorem State.mapStream_fabClock (s : State) (k : Nat) (f : Stream → Stream) : (s.mapStream k f).fabClock = s.fabClock := by dsimp only [State.mapStream]
@[simp] theorem State.mapStream_out (s : State) (k : Nat) (f : Stream → Stream) : (s.mapStream k f).out = s.out := by dsimp only [State.mapStream]
@[simp] theorem State.mapStream_tick (s : State) (k : Nat) (f : Stream → Stream) : (s.mapStream k f).tick = s.tick := by dsimp only [State.mapStream]
@[simp] theorem State.mapStream_draw (s : State) (k : Nat) (f : Stream → Stream) : (s.mapStream k f).draw = s.draw := by dsimp only [State.mapStream]
@[simp] theorem State.mapStream_ids (s : State) (k : Nat) (f : Stream → Stream) : (s.mapStream k f).ids = s.ids := by dsimp only [State.mapStream]
@[simp] theorem State.mapStream_used (s : State) (k : Nat) (f : Stream → Stream) : (s.mapStream k f).used = s.used := by dsimp only [State.mapStream]
@[simp] theorem State.mapStream_agenda (s : State) (k : Nat) (f : Stream → Stream) : (s.mapStream k f).agenda = s.agenda := by dsimp only [State.mapStream]
@[simp] theorem State.mapStream_cur (s : State) (k : Nat) (f : Stream → Stream) : (s.mapStream k f).cur = s.cur := by dsimp only [State.mapStream]
@[simp] theorem State.mapStream_note (s : State) (k : Nat) (f : Stream → Stream) : (s.mapStream k f).note = s.note := by dsimp only [State.mapStream]
@[simp] theorem State.mapStream_word (s : State) (k : Nat) (f : Stream → Stream) : (s.mapStream k f).word = s.word := by dsimp only [State.mapStream]
@[simp] theorem State.mapStream_snap (s : State) (k : Nat) (f : Stream → Stream) : (s.mapStream k f).snap = s.snap := by dsimp only [State.mapStream]
@[simp] theorem State.mapStream_ctx (s : State) (k : Nat) (f : Stream → Stream) : (s.mapStream k f).ctx = s.ctx := by dsimp only [State.mapStream]
@[simp] theorem State.mapStream_grid (s : State) (k : Nat) (f : Stream → Stream) : (s.mapStream k f).grid = s.grid := by dsimp only [State.mapStream]
@[simp] theorem State.mapStream_team (s : State) (k : Nat) (f : Stream → Stream) : (s.mapStream k f).team = s.team := by dsimp only [State.mapStream]
@[simp] theorem State.mapStream_pod (s : State) (k : Nat) (f : Stream → Stream) : (s.mapStream k f).pod = s.pod := by dsimp only [State.mapStream]
@[simp] theorem State.mapStream_fp (s : State) (k : Nat) (f : Stream → Stream) : (s.mapStream k f).fp = s.fp := by dsimp only [State.mapStream]
@[simp] theorem State.mapStream_coll (s : State) (k : Nat) (f : Stream → Stream) : (s.mapStream k f).coll = s.coll := by dsimp only [State.mapStream]
@[simp] theorem State.mapNode_mem (s : State) (h : W32) (f : Node → Node) : (s.mapNode h f).mem = s.mem := by dsimp only [State.mapNode, State.mapStream]
@[simp] theorem State.mapNode_poison (s : State) (h : W32) (f : Node → Node) : (s.mapNode h f).poison = s.poison := by dsimp only [State.mapNode, State.mapStream]
@[simp] theorem State.mapNode_lineKey (s : State) (h : W32) (f : Node → Node) : (s.mapNode h f).lineKey = s.lineKey := by dsimp only [State.mapNode, State.mapStream]
@[simp] theorem State.mapNode_dirty (s : State) (h : W32) (f : Node → Node) : (s.mapNode h f).dirty = s.dirty := by dsimp only [State.mapNode, State.mapStream]
@[simp] theorem State.mapNode_owners (s : State) (h : W32) (f : Node → Node) : (s.mapNode h f).owners = s.owners := by dsimp only [State.mapNode, State.mapStream]
@[simp] theorem State.mapNode_teams (s : State) (h : W32) (f : Node → Node) : (s.mapNode h f).teams = s.teams := by dsimp only [State.mapNode, State.mapStream]
@[simp] theorem State.mapNode_grids (s : State) (h : W32) (f : Node → Node) : (s.mapNode h f).grids = s.grids := by dsimp only [State.mapNode, State.mapStream]
@[simp] theorem State.mapNode_mats (s : State) (h : W32) (f : Node → Node) : (s.mapNode h f).mats = s.mats := by dsimp only [State.mapNode, State.mapStream]
@[simp] theorem State.mapNode_fabric (s : State) (h : W32) (f : Node → Node) : (s.mapNode h f).fabric = s.fabric := by dsimp only [State.mapNode, State.mapStream]
@[simp] theorem State.mapNode_colls (s : State) (h : W32) (f : Node → Node) : (s.mapNode h f).colls = s.colls := by dsimp only [State.mapNode, State.mapStream]
@[simp] theorem State.mapNode_xforms (s : State) (h : W32) (f : Node → Node) : (s.mapNode h f).xforms = s.xforms := by dsimp only [State.mapNode, State.mapStream]
@[simp] theorem State.mapNode_parked (s : State) (h : W32) (f : Node → Node) : (s.mapNode h f).parked = s.parked := by dsimp only [State.mapNode, State.mapStream]
@[simp] theorem State.mapNode_stamp (s : State) (h : W32) (f : Node → Node) : (s.mapNode h f).stamp = s.stamp := by dsimp only [State.mapNode, State.mapStream]
@[simp] theorem State.mapNode_parts (s : State) (h : W32) (f : Node → Node) : (s.mapNode h f).parts = s.parts := by dsimp only [State.mapNode, State.mapStream]
@[simp] theorem State.mapNode_resident (s : State) (h : W32) (f : Node → Node) : (s.mapNode h f).resident = s.resident := by dsimp only [State.mapNode, State.mapStream]
@[simp] theorem State.mapNode_quantum (s : State) (h : W32) (f : Node → Node) : (s.mapNode h f).quantum = s.quantum := by dsimp only [State.mapNode, State.mapStream]
@[simp] theorem State.mapNode_quantumFrom (s : State) (h : W32) (f : Node → Node) : (s.mapNode h f).quantumFrom = s.quantumFrom := by dsimp only [State.mapNode, State.mapStream]
@[simp] theorem State.mapNode_pgcfg (s : State) (h : W32) (f : Node → Node) : (s.mapNode h f).pgcfg = s.pgcfg := by dsimp only [State.mapNode, State.mapStream]
@[simp] theorem State.mapNode_pwrcap (s : State) (h : W32) (f : Node → Node) : (s.mapNode h f).pwrcap = s.pwrcap := by dsimp only [State.mapNode, State.mapStream]
@[simp] theorem State.mapNode_vfs (s : State) (h : W32) (f : Node → Node) : (s.mapNode h f).vfs = s.vfs := by dsimp only [State.mapNode, State.mapStream]
@[simp] theorem State.mapNode_freq (s : State) (h : W32) (f : Node → Node) : (s.mapNode h f).freq = s.freq := by dsimp only [State.mapNode, State.mapStream]
@[simp] theorem State.mapNode_linkUp (s : State) (h : W32) (f : Node → Node) : (s.mapNode h f).linkUp = s.linkUp := by dsimp only [State.mapNode, State.mapStream]
@[simp] theorem State.mapNode_hernus (s : State) (h : W32) (f : Node → Node) : (s.mapNode h f).hernus = s.hernus := by dsimp only [State.mapNode, State.mapStream]
@[simp] theorem State.mapNode_fpsel (s : State) (h : W32) (f : Node → Node) : (s.mapNode h f).fpsel = s.fpsel := by dsimp only [State.mapNode, State.mapStream]
@[simp] theorem State.mapNode_fpcnt (s : State) (h : W32) (f : Node → Node) : (s.mapNode h f).fpcnt = s.fpcnt := by dsimp only [State.mapNode, State.mapStream]
@[simp] theorem State.mapNode_fpfrac (s : State) (h : W32) (f : Node → Node) : (s.mapNode h f).fpfrac = s.fpfrac := by dsimp only [State.mapNode, State.mapStream]
@[simp] theorem State.mapNode_errSlice (s : State) (h : W32) (f : Node → Node) : (s.mapNode h f).errSlice = s.errSlice := by dsimp only [State.mapNode, State.mapStream]
@[simp] theorem State.mapNode_errStack (s : State) (h : W32) (f : Node → Node) : (s.mapNode h f).errStack = s.errStack := by dsimp only [State.mapNode, State.mapStream]
@[simp] theorem State.mapNode_clock (s : State) (h : W32) (f : Node → Node) : (s.mapNode h f).clock = s.clock := by dsimp only [State.mapNode, State.mapStream]
@[simp] theorem State.mapNode_fabClock (s : State) (h : W32) (f : Node → Node) : (s.mapNode h f).fabClock = s.fabClock := by dsimp only [State.mapNode, State.mapStream]
@[simp] theorem State.mapNode_out (s : State) (h : W32) (f : Node → Node) : (s.mapNode h f).out = s.out := by dsimp only [State.mapNode, State.mapStream]
@[simp] theorem State.mapNode_tick (s : State) (h : W32) (f : Node → Node) : (s.mapNode h f).tick = s.tick := by dsimp only [State.mapNode, State.mapStream]
@[simp] theorem State.mapNode_draw (s : State) (h : W32) (f : Node → Node) : (s.mapNode h f).draw = s.draw := by dsimp only [State.mapNode, State.mapStream]
@[simp] theorem State.mapNode_ids (s : State) (h : W32) (f : Node → Node) : (s.mapNode h f).ids = s.ids := by dsimp only [State.mapNode, State.mapStream]
@[simp] theorem State.mapNode_used (s : State) (h : W32) (f : Node → Node) : (s.mapNode h f).used = s.used := by dsimp only [State.mapNode, State.mapStream]
@[simp] theorem State.mapNode_agenda (s : State) (h : W32) (f : Node → Node) : (s.mapNode h f).agenda = s.agenda := by dsimp only [State.mapNode, State.mapStream]
@[simp] theorem State.mapNode_cur (s : State) (h : W32) (f : Node → Node) : (s.mapNode h f).cur = s.cur := by dsimp only [State.mapNode, State.mapStream]
@[simp] theorem State.mapNode_note (s : State) (h : W32) (f : Node → Node) : (s.mapNode h f).note = s.note := by dsimp only [State.mapNode, State.mapStream]
@[simp] theorem State.mapNode_word (s : State) (h : W32) (f : Node → Node) : (s.mapNode h f).word = s.word := by dsimp only [State.mapNode, State.mapStream]
@[simp] theorem State.mapNode_snap (s : State) (h : W32) (f : Node → Node) : (s.mapNode h f).snap = s.snap := by dsimp only [State.mapNode, State.mapStream]
@[simp] theorem State.mapNode_ctx (s : State) (h : W32) (f : Node → Node) : (s.mapNode h f).ctx = s.ctx := by dsimp only [State.mapNode, State.mapStream]
@[simp] theorem State.mapNode_grid (s : State) (h : W32) (f : Node → Node) : (s.mapNode h f).grid = s.grid := by dsimp only [State.mapNode, State.mapStream]
@[simp] theorem State.mapNode_team (s : State) (h : W32) (f : Node → Node) : (s.mapNode h f).team = s.team := by dsimp only [State.mapNode, State.mapStream]
@[simp] theorem State.mapNode_pod (s : State) (h : W32) (f : Node → Node) : (s.mapNode h f).pod = s.pod := by dsimp only [State.mapNode, State.mapStream]
@[simp] theorem State.mapNode_fp (s : State) (h : W32) (f : Node → Node) : (s.mapNode h f).fp = s.fp := by dsimp only [State.mapNode, State.mapStream]
@[simp] theorem State.mapNode_coll (s : State) (h : W32) (f : Node → Node) : (s.mapNode h f).coll = s.coll := by dsimp only [State.mapNode, State.mapStream]

end Sys2Proof.Machine
end

