-- ==== Sys2Proof/Laws/Lanes.lean ====
section
/-! SUPPORT. What the shared operations of the lane, predicate and scalar forms do, said once (R30, R64, R134, R140). -/

namespace Sys2Proof.Machine

theorem mask_lt {m : Mask} {l : Nat} (h : m.getLsbD l = true) : l < 4 := by
  by_contra hl
  simp [BitVec.getLsbD_of_ge m l (by omega)] at h

theorem reg_setReg_same {p : Pod} {r : Nat} {w : LaneWord} (h : r < 128) : (p.setReg r w).reg r = w := by
  simp [Pod.reg, Pod.setReg, Vector.getD, h]

theorem reg_setReg_other {p : Pod} {r k : Nat} {w : LaneWord} (h : k ≠ r) : (p.setReg r w).reg k = p.reg k := by
  simp only [Pod.reg, Pod.setReg, Vector.getD]
  by_cases hk : k < 128
  · simp [hk, Ne.symm h]
  · simp [hk]

theorem mergeLanes_active {m : Mask} {old new : LaneWord} {l : Nat} (h : m.getLsbD l = true) : (mergeLanes m old new).getD l 0#32 = new.getD l 0#32 := by
  have hl := mask_lt h
  simp [mergeLanes, Vector.getD, hl, h]

theorem mergeLanes_inactive {m : Mask} {old new : LaneWord} {l : Nat} (h : m.getLsbD l = false) : (mergeLanes m old new).getD l 0#32 = old.getD l 0#32 := by
  by_cases hl : l < 4
  · simp [mergeLanes, Vector.getD, hl]
    intro hm
    rw [BitVec.getLsbD_eq_getElem hl] at h
    rw [h] at hm
    exact absurd hm (by decide)
  · simp [Vector.getD, hl]

theorem laneWord_getD {f : Nat → W32} {l : Nat} (h : l < 4) : (laneWord f).getD l 0#32 = f l := by
  simp [laneWord, Vector.getD, h]

/-- What laneFlags collects: a bit is set exactly when an active lane sets it. -/
theorem laneFlags_bit {s : State} {f : Nat → W32} {b : Nat} :
    (laneFlags s f).getLsbD b = true ↔ ∃ l, (activeMask s).getLsbD l = true ∧ (f l).getLsbD b = true := by
  constructor
  · intro h
    by_contra hn
    push Not at hn
    revert h
    simp only [laneFlags, List.foldl_cons, List.foldl_nil]
    repeat' split
    all_goals simp_all
  · rintro ⟨l, hl, hb⟩
    have h4 := mask_lt hl
    simp only [laneFlags, List.foldl_cons, List.foldl_nil]
    obtain h | h | h | h : l = 0 ∨ l = 1 ∨ l = 2 ∨ l = 3 := by omega
    all_goals subst h; simp only [hl, if_true]; repeat' split
    all_goals simp [BitVec.getLsbD_or, hb]

theorem setLanes_reg_other {p : Pod} {m : Mask} {r k : Nat} {w : LaneWord} (h : k ≠ r) : (p.setLanes m r w).reg k = p.reg k :=
  reg_setReg_other h

theorem setLanes_lane_active {p : Pod} {m : Mask} {r l : Nat} {f : Nat → W32} (hr : r < 128) (h : m.getLsbD l = true) :
    (p.setLanes m r (laneWord f)).lane r l = f l := by
  unfold Pod.lane Pod.setLanes
  rw [reg_setReg_same hr, mergeLanes_active h, laneWord_getD (mask_lt h)]

theorem setLanes_lane_inactive {p : Pod} {m : Mask} {r k l : Nat} {w : LaneWord} (h : m.getLsbD l = false) :
    (p.setLanes m r w).lane k l = p.lane k l := by
  by_cases hk : k = r
  · subst hk
    by_cases hr : k < 128
    · unfold Pod.lane Pod.setLanes
      rw [reg_setReg_same hr, mergeLanes_inactive h]
    · simp [Pod.lane, Pod.reg, Pod.setLanes, Pod.setReg, Vector.getD, hr]
  · unfold Pod.lane; rw [setLanes_reg_other hk]

theorem pred_setPred_same {p : Pod} {m : Mask} {k l : Nat} {w : Mask} (hk : k < 7) (h : m.getLsbD l = true) :
    ((p.setPred m k w).pred k).getLsbD l = w.getLsbD l := by
  have hl := mask_lt h
  rw [BitVec.getLsbD_eq_getElem hl] at h
  simp [Pod.setPred, Pod.pred, Vector.getD, hk, hl, h]

theorem pred_setPred_other {p : Pod} {m : Mask} {k j : Nat} {w : Mask} (h : j ≠ k) : (p.setPred m k w).pred j = p.pred j := by
  by_cases hk : k < 7
  · by_cases hj : j < 7
    · simp [Pod.setPred, Pod.pred, Vector.getD, hk, hj, Ne.symm h]
    · simp [Pod.pred, hj]
  · simp [Pod.setPred, hk]

theorem pred_setPred_inactive {p : Pod} {m : Mask} {k j l : Nat} {w : Mask} (h : m.getLsbD l = false) :
    ((p.setPred m k w).pred j).getLsbD l = (p.pred j).getLsbD l := by
  by_cases hj : j = k
  · subst hj
    by_cases hk : j < 7
    · by_cases hl : l < 4
      · rw [BitVec.getLsbD_eq_getElem hl] at h
        simp [Pod.setPred, Pod.pred, Vector.getD, hk, hl, h]
      · rw [BitVec.getLsbD_of_ge _ _ (by omega), BitVec.getLsbD_of_ge _ _ (by omega)]
    · simp [Pod.setPred, hk]
  · rw [pred_setPred_other hj]

theorem pred_seven {p : Pod} : p.pred 7 = 0xF#4 := by simp [Pod.pred]

theorem laneMask_bit {f : Nat → Bool} {l : Nat} (h : l < 4) : (laneMask f).getLsbD l = f l := by
  obtain h | h | h | h : l = 0 ∨ l = 1 ∨ l = 2 ∨ l = 3 := by omega
  all_goals
    subst h
    unfold laneMask
    simp only [BitVec.getLsbD_append]
    simp

theorem advance_frame {p : Pod} {n : Nat} :
    p.advance n = { p with pc := (p.advance n).pc, slot := (p.advance n).slot, phase := p.phase.goOn, skip := 0 } := by
  unfold Pod.advance
  dsimp only
  split <;> rfl

theorem advance_reg {p : Pod} {n r : Nat} : (p.advance n).reg r = p.reg r := by rw [advance_frame]; rfl

theorem advance_pred {p : Pod} {n k : Nat} : (p.advance n).pred k = p.pred k := by rw [advance_frame]; rfl

theorem advance_scalar {p : Pod} {n k : Nat} : (p.advance n).scalar k = p.scalar k := by rw [advance_frame]; rfl

/-- What a change of the pod's registers and place leaves alone. -/
theorem registerFrame_of {s t : State} (hs : t = { s with pod := t.pod, team := { s.team with flags := t.team.flags } })
    (hp : t.pod = { s.pod with v := t.pod.v, p := t.pod.p, s := t.pod.s, pc := t.pod.pc, slot := t.pod.slot, phase := s.pod.phase.goOn, skip := 0 }) :
    RegisterFrame s t :=
  ⟨hs, hp, fun _ => by rw [hs]⟩

end Sys2Proof.Machine
end

