-- ==== Sys2Proof/Laws/Effects.lean ====
section
/-! SUPPORT. What the shared effects of the lane, predicate and scalar forms do to a state, said once. -/

namespace Sys2Proof.Machine

theorem advance_advances {s t : State} {n : Nat} (h : t.pod.pc = s.pod.pc ∧ t.pod.slot = s.pod.slot ∧ t.pod.phase = s.pod.phase) :
    Advances s (t.advance n) n := by
  obtain ⟨hp, hs, hf⟩ := h
  simp only [Advances, State.advance, State.mapPod, Pod.advance, hp, hs, hf]
  split <;> simp

/-- A pod whose registers changed, further on. -/
theorem advance_of {p q : Pod} {n : Nat} (h : q = { p with v := q.v, p := q.p, s := q.s }) :
    q.advance n = { p with v := (q.advance n).v, p := (q.advance n).p, s := (q.advance n).s, pc := (q.advance n).pc, slot := (q.advance n).slot, phase := p.phase.goOn, skip := 0 } := by
  generalize q.v = a, q.p = b, q.s = c at h
  subst h
  unfold Pod.advance
  dsimp only
  split <;> rfl

theorem setPred_frame {p : Pod} {m : Mask} {k : Nat} {w : Mask} : p.setPred m k w = { p with p := (p.setPred m k w).p } := by
  unfold Pod.setPred
  split <;> rfl

/-- What laneEffect leaves: one register, in active lanes, and the place. -/
theorem laneEffect_form {s : State} {d : BitVec 7} {f : Nat → W32} : LaneForm s (laneEffect s d f) d.toNat 1 := by
  refine ⟨registerFrame_of rfl ?_, ?_, ?_, ?_, ?_⟩
  · exact advance_of (p := s.pod) (q := s.pod.setLanes (activeMask s) d.toNat (laneWord f)) rfl
  · show (Pod.advance _ 1).p = _
    rw [advance_frame]; rfl
  · show (Pod.advance _ 1).s = _
    rw [advance_frame]; rfl
  · intro r hr
    show (Pod.advance _ 1).reg r = _
    rw [advance_reg]
    exact setLanes_reg_other (by omega)
  · intro r l hl
    show (Pod.advance _ 1).lane r l = _
    unfold Pod.lane
    rw [advance_reg]
    exact setLanes_lane_inactive hl

/-- What laneEffect gives the active lanes. -/
theorem laneEffect_lane {s : State} {d : BitVec 7} {f : Nat → W32} {l : Nat} (h : (activeMask s).getLsbD l = true) :
    (laneEffect s d f).pod.lane d.toNat l = f l := by
  show (Pod.advance _ 1).lane d.toNat l = _
  unfold Pod.lane
  rw [advance_reg]
  exact setLanes_lane_active d.isLt h

theorem laneEffect_advances {s : State} {d : BitVec 7} {f : Nat → W32} : Advances s (laneEffect s d f) 1 :=
  advance_advances ⟨rfl, rfl, rfl⟩

/-- A lane instruction that is a laneEffect writes what the effect says. -/
theorem laneWrites_of {i : Instr} {s : State} {d : BitVec 7} {f : Nat → W32} (h : exec i s = .next (laneEffect s d f)) : LaneWrites i s d 1 f :=
  ⟨_, h, laneEffect_form, rfl, laneEffect_advances, fun _ hl => laneEffect_lane hl⟩

/-- A lane instruction that also sets FLAGS bits writes what its effect says. -/
theorem laneFlagWrites_of {i : Instr} {s : State} {d : BitVec 7} {f : Nat → W32 × W32} (h : exec i s = .next (laneFlagEffect s d f)) :
    LaneFlagWrites i s d (fun l => (f l).1) (fun l => (f l).2) := by
  refine ⟨_, h, ?_, laneEffect_advances, fun _ hl => laneEffect_lane hl, fun b => ?_⟩
  · obtain ⟨_, hp, hs, hr, hl⟩ := laneEffect_form (s := s.orFlags (laneFlags s fun l => (f l).2)) (d := d) (f := fun l => (f l).1)
    refine ⟨registerFrame_of rfl ?_, hp, hs, hr, hl⟩
    exact advance_of (p := s.pod) (q := s.pod.setLanes (activeMask s) d.toNat (laneWord fun l => (f l).1)) rfl
  · show (s.team.flags ||| laneFlags s fun l => (f l).2).getLsbD b = true ↔ _
    rw [BitVec.getLsbD_or, Bool.or_eq_true, laneFlags_bit]

/-- A predicate instruction writes what its effect says. -/
theorem predWrites_of {i : Instr} {s : State} {d : BitVec 3} {f : Nat → Bool} {g : Nat → W32}
    (h : exec i s = .next (predEffect (s.orFlags (laneFlags s g)) d.toNat f)) : PredWrites i s d f g := by
  refine ⟨_, h, ⟨registerFrame_of rfl ?_, ?_, ?_, pred_seven, ?_, ?_⟩, advance_advances ⟨?_, ?_, ?_⟩, ?_, fun b => ?_⟩
  · refine advance_of (p := s.pod) (q := s.pod.setPred (activeMask s) d.toNat (laneMask f)) ?_
    rw [setPred_frame]
  · show (Pod.advance _ 1).v = _
    rw [advance_frame]
    show (Pod.setPred _ _ _ _).v = _
    unfold Pod.setPred
    split <;> rfl
  · show (Pod.advance _ 1).s = _
    rw [advance_frame]
    show (Pod.setPred _ _ _ _).s = _
    unfold Pod.setPred
    split <;> rfl
  · intro j hj
    show (Pod.advance _ 1).pred j = _
    rw [advance_pred]
    exact pred_setPred_other hj
  · intro j l hl
    show ((Pod.advance _ 1).pred j).getLsbD l = _
    rw [advance_pred]
    exact pred_setPred_inactive hl
  · show (Pod.setPred _ _ _ _).pc = _
    unfold Pod.setPred
    split <;> rfl
  · show (Pod.setPred _ _ _ _).slot = _
    unfold Pod.setPred
    split <;> rfl
  · show (Pod.setPred _ _ _ _).phase = _
    unfold Pod.setPred
    split <;> rfl
  · intro hd l hl
    show ((Pod.advance _ 1).pred d.toNat).getLsbD l = _
    rw [advance_pred]
    have h7 : d.toNat < 7 := by
      have := d.isLt
      have : d.toNat ≠ 7 := fun h => hd (BitVec.eq_of_toNat_eq h)
      omega
    exact (pred_setPred_same h7 hl).trans (laneMask_bit (mask_lt hl))
  · show (s.team.flags ||| laneFlags s g).getLsbD b = true ↔ _
    rw [BitVec.getLsbD_or, Bool.or_eq_true, laneFlags_bit]

theorem scalar_setScalar_same {p : Pod} {k : Nat} {w : W32} (h : k < 32) : (p.setScalar k w).scalar k = w := by
  simp [Pod.scalar, Pod.setScalar, Vector.getD, h]

theorem scalar_setScalar_other {p : Pod} {k j : Nat} {w : W32} (h : j ≠ k) : (p.setScalar k w).scalar j = p.scalar j := by
  by_cases hj : j < 32
  · simp [Pod.scalar, Pod.setScalar, Vector.getD, hj, Ne.symm h]
  · simp [Pod.scalar, Vector.getD, hj]

/-- A pod effect that writes one scalar writes what its effect says. -/
theorem scalarWrites_of {i : Instr} {s : State} {d : BitVec 5} {w : W32} (h : exec i s = .next (scalarEffect s d w)) : ScalarWrites i s d 1 w := by
  refine ⟨_, h, ⟨registerFrame_of rfl ?_, rfl, ?_, ?_, ?_⟩, advance_advances ⟨rfl, rfl, rfl⟩, ?_⟩
  · exact advance_of (p := s.pod) (q := s.pod.setScalar d.toNat w) rfl
  · show (Pod.advance _ 1).v = _
    rw [advance_frame]; rfl
  · show (Pod.advance _ 1).p = _
    rw [advance_frame]; rfl
  · intro k hk
    show (Pod.advance _ 1).scalar k = _
    rw [advance_scalar]
    exact scalar_setScalar_other (by omega)
  · show (Pod.advance _ 1).scalar d.toNat = _
    rw [advance_scalar]
    exact scalar_setScalar_same d.isLt

/-- A window left in the register files keeps the canonical form of memory. -/
theorem leaveWindow_wf {core : Nat} {m : List Host.Cell} {p : Pod} (h : Memory.wf m = true) : Memory.wf (leaveWindow core m p) = true := by
  unfold leaveWindow
  generalize List.range (16 * p.ws.toNat) = l
  induction l generalizing m with
  | nil => exact h
  | cons r l ih => exact ih (memPut_wf h)

/-- The windows of a team that ends keep it too. -/
theorem leaveWindows_wf {core : Nat} {l : List Pod} {m : List Host.Cell} (h : Memory.wf m = true) :
    Memory.wf (l.foldl (leaveWindow core) m) = true := by
  induction l generalizing m with
  | nil => exact h
  | cons p l ih => exact ih (leaveWindow_wf h)

/-- A processor that leaves a collective keeps its transfers. -/
@[simp] theorem leave_transfers {f : Fabric} {id : Nat} : (f.leave id).transfers = f.transfers := by
  unfold Fabric.leave Fabric.idle
  split <;> rfl

end Sys2Proof.Machine
end

