-- ==== Sys2Proof/Laws/Encoding.lean ====
section
/-! SUPPORT. Reading back the fields of a word: extraction from appended fields, and each format read back (R141 to R147, R302). -/

namespace Sys2Proof

set_option linter.unusedSimpArgs false

theorem extract_low {w v : Nat} {x : BitVec w} {y : BitVec v} {k n : Nat} (h : k + n ≤ v) : (x ++ y).extractLsb' k n = y.extractLsb' k n := by
  ext i hi
  simp only [BitVec.getElem_extractLsb', BitVec.getLsbD_append]
  rw [if_pos (by omega)]

theorem extract_high {w v : Nat} {x : BitVec w} {y : BitVec v} {k n : Nat} (h : v ≤ k) : (x ++ y).extractLsb' k n = x.extractLsb' (k - v) n := by
  ext i hi
  simp only [BitVec.getElem_extractLsb', BitVec.getLsbD_append]
  rw [if_neg (by omega)]
  congr 1
  omega

theorem extract_all {w : Nat} {x : BitVec w} : x.extractLsb' 0 w = x := by
  ext i hi
  simp only [BitVec.getElem_extractLsb', Nat.zero_add]
  exact BitVec.getLsbD_eq_getElem hi

theorem extract_join {w a b k m : Nat} {x : BitVec w} (h : m = k + b) : x.extractLsb' m a ++ x.extractLsb' k b = x.extractLsb' k (a + b) := by
  subst h
  ext i hi
  simp only [BitVec.getElem_append, BitVec.getElem_extractLsb']
  split
  · rfl
  · congr 1
    omega

theorem opOf_packCore {c : BitVec 1} {op : BitVec 7} {r : BitVec 24} : opOf (packCore c op r) = op := by
  simp (disch := decide) only [opOf, packCore, extract_high, extract_low, Nat.reduceSub, extract_all]

theorem restOf_packCore {c : BitVec 1} {op : BitVec 7} {r : BitVec 24} : restOf (packCore c op r) = r := by
  simp (disch := decide) only [restOf, packCore, extract_high, extract_low, Nat.reduceSub, extract_all]

theorem chainOf_packCore {c : BitVec 1} {op : BitVec 7} {r : BitVec 24} : chainOf (packCore c op r) = c := by
  simp (disch := decide) only [chainOf, packCore, extract_high, extract_low, Nat.reduceSub, extract_all]

theorem zOpOf_packZilkan {op : BitVec 5} {r : BitVec 27} : zOpOf (packZilkan op r) = op := by
  simp (disch := decide) only [zOpOf, packZilkan, extract_high, extract_low, Nat.reduceSub, extract_all]

theorem zRestOf_packZilkan {op : BitVec 5} {r : BitVec 27} : zRestOf (packZilkan op r) = r := by
  simp (disch := decide) only [zRestOf, packZilkan, extract_high, extract_low, Nat.reduceSub, extract_all]

theorem unpackA_packA {f : BitVec 3} {d : BitVec 7} {a : BitVec 7} {b : BitVec 7} : unpackA (packA f d a b) = (f, d, a, b) := by
  simp (disch := decide) only [unpackA, packA, extract_high, extract_low, Nat.reduceSub, extract_all]

theorem unpackB_packB {i : BitVec 10} {d : BitVec 7} {a : BitVec 7} : unpackB (packB i d a) = (i, d, a) := by
  simp (disch := decide) only [unpackB, packB, extract_high, extract_low, Nat.reduceSub, extract_all, Prod.mk.injEq, and_true, true_and]
  rw [extract_join (by decide)]
  exact extract_all

theorem unpackL_packL {i : BitVec 17} {d : BitVec 7} : unpackL (packL i d) = (i, d) := by
  simp (disch := decide) only [unpackL, packL, extract_high, extract_low, Nat.reduceSub, extract_all, Prod.mk.injEq, and_true, true_and]
  rw [extract_join (by decide)]
  exact extract_all

theorem unpackJ_packJ {p : BitVec 3} {n : BitVec 2} {o : BitVec 19} : unpackJ (packJ p n o) = (p, n, o) := by
  simp (disch := decide) only [unpackJ, packJ, extract_high, extract_low, Nat.reduceSub, extract_all]

theorem unpackM_packM {o : BitVec 6} {d : BitVec 7} {a : BitVec 7} {l : BitVec 4} : unpackM (packM o d a l) = (o, d, a, l) := by
  simp (disch := decide) only [unpackM, packM, extract_high, extract_low, Nat.reduceSub, extract_all, Prod.mk.injEq, and_true, true_and]
  rw [extract_join (by decide)]
  exact extract_all

theorem unpackK_packK {o : BitVec 10} {d : BitVec 7} {w : BitVec 3} {l : BitVec 4} : unpackK (packK o d w l) = (o, d, w, l) := by
  simp (disch := decide) only [unpackK, packK, extract_high, extract_low, Nat.reduceSub, extract_all, Prod.mk.injEq, and_true, true_and]
  rw [extract_join (by decide), extract_join (by decide)]
  exact extract_all

theorem unpackT_packT {f : BitVec 3} {x : BitVec 5} {y : BitVec 5} {z : BitVec 5} {l : BitVec 4} {g : BitVec 2} : unpackT (packT f x y z l g) = (f, x, y, z, l, g) := by
  simp (disch := decide) only [unpackT, packT, extract_high, extract_low, Nat.reduceSub, extract_all]

theorem unpackS_packS {f : BitVec 3} {d : BitVec 5} {a : BitVec 5} {i : BitVec 11} : unpackS (packS f d a i) = (f, d, a, i) := by
  simp (disch := decide) only [unpackS, packS, extract_high, extract_low, Nat.reduceSub, extract_all]

theorem unpackP_packP {n : BitVec 24} : unpackP (packP n) = n := by
  simp (disch := decide) only [unpackP, packP, extract_high, extract_low, Nat.reduceSub, extract_all]

theorem unpackZA_packZA {d : BitVec 4} {a : BitVec 4} {b : BitVec 4} {i : BitVec 1} {m : BitVec 14} : unpackZA (packZA d a b i m) = (d, a, b, i, m) := by
  simp (disch := decide) only [unpackZA, packZA, extract_high, extract_low, Nat.reduceSub, extract_all]

theorem unpackZG_packZG {d : BitVec 4} {a : BitVec 4} {b : BitVec 4} {t : BitVec 15} : unpackZG (packZG d a b t) = (d, a, b, t) := by
  simp (disch := decide) only [unpackZG, packZG, extract_high, extract_low, Nat.reduceSub, extract_all]

theorem unpackZM_packZM {d : BitVec 4} {a : BitVec 4} {w : BitVec 1} {o : BitVec 18} : unpackZM (packZM d a w o) = (d, a, w, o) := by
  simp (disch := decide) only [unpackZM, packZM, extract_high, extract_low, Nat.reduceSub, extract_all]

theorem unpackZL_packZL {d : BitVec 4} {h : BitVec 2} {r : BitVec 5} {m : BitVec 16} : unpackZL (packZL d h r m) = (d, h, r, m) := by
  simp (disch := decide) only [unpackZL, packZL, extract_high, extract_low, Nat.reduceSub, extract_all]

theorem unpackZJ_packZJ {c : BitVec 3} {a : BitVec 4} {b : BitVec 4} {o : BitVec 16} : unpackZJ (packZJ c a b o) = (c, a, b, o) := by
  simp (disch := decide) only [unpackZJ, packZJ, extract_high, extract_low, Nat.reduceSub, extract_all]

theorem unpackZN_packZN {d : BitVec 4} {r : BitVec 7} {o : BitVec 16} : unpackZN (packZN d r o) = (d, r, o) := by
  simp (disch := decide) only [unpackZN, packZN, extract_high, extract_low, Nat.reduceSub, extract_all]

theorem packCore_ne_zero {c : BitVec 1} {op : BitVec 7} {r : BitVec 24} (h : op ≠ 0#7) : packCore c op r ≠ 0#32 := by
  intro e
  apply h
  rw [← opOf_packCore (c := c) (op := op) (r := r), e]
  rfl

/-- A word whose fields name a well-formed instruction decodes to it. -/
theorem decodeCore_of_raw {c : BitVec 1} {op : BitVec 7} {r : BitVec 24} {lit : Option W32} {i : Instr} (h : op ≠ 0#7)
    (hr : rawDecode (packCore c op r) lit = .ok i) (hi : i.wf = true) : decodeCore (packCore c op r) lit = .ok i := by
  unfold decodeCore
  rw [if_neg (by simpa using packCore_ne_zero h), hr]
  exact if_pos hi

/-- A Zilkan word whose fields name a well-formed instruction decodes to it. -/
theorem decodeZilkan_of_raw {op : BitVec 5} {r : BitVec 27} {i : Instr} (hr : rawZilkan (packZilkan op r) = .ok i) (hi : i.wf = true) :
    decodeZilkan (packZilkan op r) = .ok i := by
  unfold decodeZilkan
  rw [hr]
  exact if_pos hi

end Sys2Proof
end

