-- ==== Sys2Proof/Laws/PerInstr.lean ====
section
/-! SUPPORT. The family Encodes: a well-formed instruction's word decodes to it, one lemma for each constructor. -/

namespace Sys2Proof.Laws.Encodes

set_option linter.unusedSimpArgs false

/-- The word of a well-formed instruction, whatever its chain bit and whatever follows it where it takes no literal, decodes to it. -/
def Statement (i : Instr) : Prop :=
  i.wf = true → i.isEvent = false → ∀ (c : BitVec 1) (lit : Option W32), (literalOf i = none ∨ lit = literalOf i) →
    if i.isZilkan then decodeZilkan (encode c i) = .ok i else decodeCore (encode c i) lit = .ok i

theorem bra : ∀ y0 y1 y2, Statement (.bra y0 y1 y2) := by
  intro y0 y1 y2 h _ c lit hl
  refine decodeCore_of_raw (by decide) ?_ h
  unfold rawDecode
  rw [opOf_packCore, restOf_packCore]
  dsimp only
  rw [unpackJ_packJ]
  rfl

theorem call : ∀ y0 y1 y2, Statement (.call y0 y1 y2) := by
  intro y0 y1 y2 h _ c lit hl
  refine decodeCore_of_raw (by decide) ?_ h
  unfold rawDecode
  rw [opOf_packCore, restOf_packCore]
  dsimp only
  rw [unpackJ_packJ]
  rfl

theorem brx : ∀ y0, Statement (.brx y0) := by
  intro y0 h _ c lit hl
  refine decodeCore_of_raw (by decide) ?_ h
  unfold rawDecode
  rw [opOf_packCore, restOf_packCore]
  dsimp only
  rw [unpackT_packT]
  refine (if_pos ?_).trans ?_
  · simp (disch := decide) only [extract_high, extract_low, Nat.reduceSub, extract_all]; rfl
  simp (disch := decide) only [extract_high, extract_low, Nat.reduceSub, extract_all]

theorem callx : ∀ y0, Statement (.callx y0) := by
  intro y0 h _ c lit hl
  refine decodeCore_of_raw (by decide) ?_ h
  unfold rawDecode
  rw [opOf_packCore, restOf_packCore]
  dsimp only
  rw [unpackT_packT]
  refine (if_neg ?_).trans ?_
  · (simp (disch := decide) only [extract_high, extract_low, Nat.reduceSub, extract_all]; simp)
  refine (if_pos ?_).trans ?_
  · simp (disch := decide) only [extract_high, extract_low, Nat.reduceSub, extract_all]; rfl
  simp (disch := decide) only [extract_high, extract_low, Nat.reduceSub, extract_all]

theorem nop : Statement .nop := by
  intro h _ c lit hl
  refine decodeCore_of_raw (by decide) ?_ h
  unfold rawDecode
  rw [opOf_packCore, restOf_packCore]
  dsimp only
  rw [unpackA_packA]
  refine (if_pos ?_).trans ?_
  · simp (disch := decide) only [extract_high, extract_low, Nat.reduceSub, extract_all]; rfl
  simp (disch := decide) only [extract_high, extract_low, Nat.reduceSub, extract_all]

theorem land : Statement .land := by
  intro h _ c lit hl
  refine decodeCore_of_raw (by decide) ?_ h
  unfold rawDecode
  rw [opOf_packCore, restOf_packCore]
  dsimp only
  rw [unpackA_packA]
  refine (if_neg ?_).trans ?_
  · (simp (disch := decide) only [extract_high, extract_low, Nat.reduceSub, extract_all]; simp)
  refine (if_pos ?_).trans ?_
  · simp (disch := decide) only [extract_high, extract_low, Nat.reduceSub, extract_all]; rfl
  simp (disch := decide) only [extract_high, extract_low, Nat.reduceSub, extract_all]

theorem rejoin : Statement .rejoin := by
  intro h _ c lit hl
  refine decodeCore_of_raw (by decide) ?_ h
  unfold rawDecode
  rw [opOf_packCore, restOf_packCore]
  dsimp only
  rw [unpackA_packA]
  refine (if_neg ?_).trans ?_
  · (simp (disch := decide) only [extract_high, extract_low, Nat.reduceSub, extract_all]; simp)
  refine (if_neg ?_).trans ?_
  · (simp (disch := decide) only [extract_high, extract_low, Nat.reduceSub, extract_all]; simp)
  refine (if_pos ?_).trans ?_
  · simp (disch := decide) only [extract_high, extract_low, Nat.reduceSub, extract_all]; rfl
  simp (disch := decide) only [extract_high, extract_low, Nat.reduceSub, extract_all]

theorem ret : Statement .ret := by
  intro h _ c lit hl
  refine decodeCore_of_raw (by decide) ?_ h
  unfold rawDecode
  rw [opOf_packCore, restOf_packCore]
  dsimp only
  rw [unpackA_packA]
  refine (if_neg ?_).trans ?_
  · (simp (disch := decide) only [extract_high, extract_low, Nat.reduceSub, extract_all]; simp)
  refine (if_neg ?_).trans ?_
  · (simp (disch := decide) only [extract_high, extract_low, Nat.reduceSub, extract_all]; simp)
  refine (if_neg ?_).trans ?_
  · (simp (disch := decide) only [extract_high, extract_low, Nat.reduceSub, extract_all]; simp)
  refine (if_pos ?_).trans ?_
  · simp (disch := decide) only [extract_high, extract_low, Nat.reduceSub, extract_all]; rfl
  simp (disch := decide) only [extract_high, extract_low, Nat.reduceSub, extract_all]

theorem exit : Statement .exit := by
  intro h _ c lit hl
  refine decodeCore_of_raw (by decide) ?_ h
  unfold rawDecode
  rw [opOf_packCore, restOf_packCore]
  dsimp only
  rw [unpackA_packA]
  refine (if_neg ?_).trans ?_
  · (simp (disch := decide) only [extract_high, extract_low, Nat.reduceSub, extract_all]; simp)
  refine (if_neg ?_).trans ?_
  · (simp (disch := decide) only [extract_high, extract_low, Nat.reduceSub, extract_all]; simp)
  refine (if_neg ?_).trans ?_
  · (simp (disch := decide) only [extract_high, extract_low, Nat.reduceSub, extract_all]; simp)
  refine (if_neg ?_).trans ?_
  · (simp (disch := decide) only [extract_high, extract_low, Nat.reduceSub, extract_all]; simp)
  refine (if_pos ?_).trans ?_
  · simp (disch := decide) only [extract_high, extract_low, Nat.reduceSub, extract_all]; rfl
  simp (disch := decide) only [extract_high, extract_low, Nat.reduceSub, extract_all]

theorem yield : Statement .yield := by
  intro h _ c lit hl
  refine decodeCore_of_raw (by decide) ?_ h
  unfold rawDecode
  rw [opOf_packCore, restOf_packCore]
  dsimp only
  rw [unpackA_packA]
  refine (if_neg ?_).trans ?_
  · (simp (disch := decide) only [extract_high, extract_low, Nat.reduceSub, extract_all]; simp)
  refine (if_neg ?_).trans ?_
  · (simp (disch := decide) only [extract_high, extract_low, Nat.reduceSub, extract_all]; simp)
  refine (if_neg ?_).trans ?_
  · (simp (disch := decide) only [extract_high, extract_low, Nat.reduceSub, extract_all]; simp)
  refine (if_neg ?_).trans ?_
  · (simp (disch := decide) only [extract_high, extract_low, Nat.reduceSub, extract_all]; simp)
  refine (if_neg ?_).trans ?_
  · (simp (disch := decide) only [extract_high, extract_low, Nat.reduceSub, extract_all]; simp)
  refine (if_pos ?_).trans ?_
  · simp (disch := decide) only [extract_high, extract_low, Nat.reduceSub, extract_all]; rfl
  simp (disch := decide) only [extract_high, extract_low, Nat.reduceSub, extract_all]

theorem melse : Statement .melse := by
  intro h _ c lit hl
  refine decodeCore_of_raw (by decide) ?_ h
  unfold rawDecode
  rw [opOf_packCore, restOf_packCore]
  dsimp only
  rw [unpackA_packA]
  refine (if_neg ?_).trans ?_
  · (simp (disch := decide) only [extract_high, extract_low, Nat.reduceSub, extract_all]; simp)
  refine (if_neg ?_).trans ?_
  · (simp (disch := decide) only [extract_high, extract_low, Nat.reduceSub, extract_all]; simp)
  refine (if_neg ?_).trans ?_
  · (simp (disch := decide) only [extract_high, extract_low, Nat.reduceSub, extract_all]; simp)
  refine (if_neg ?_).trans ?_
  · (simp (disch := decide) only [extract_high, extract_low, Nat.reduceSub, extract_all]; simp)
  refine (if_neg ?_).trans ?_
  · (simp (disch := decide) only [extract_high, extract_low, Nat.reduceSub, extract_all]; simp)
  refine (if_neg ?_).trans ?_
  · (simp (disch := decide) only [extract_high, extract_low, Nat.reduceSub, extract_all]; simp)
  refine (if_pos ?_).trans ?_
  · simp (disch := decide) only [extract_high, extract_low, Nat.reduceSub, extract_all]; rfl
  simp (disch := decide) only [extract_high, extract_low, Nat.reduceSub, extract_all]

theorem mpop : Statement .mpop := by
  intro h _ c lit hl
  refine decodeCore_of_raw (by decide) ?_ h
  unfold rawDecode
  rw [opOf_packCore, restOf_packCore]
  dsimp only
  rw [unpackA_packA]
  refine (if_neg ?_).trans ?_
  · (simp (disch := decide) only [extract_high, extract_low, Nat.reduceSub, extract_all]; simp)
  refine (if_neg ?_).trans ?_
  · (simp (disch := decide) only [extract_high, extract_low, Nat.reduceSub, extract_all]; simp)
  refine (if_neg ?_).trans ?_
  · (simp (disch := decide) only [extract_high, extract_low, Nat.reduceSub, extract_all]; simp)
  refine (if_neg ?_).trans ?_
  · (simp (disch := decide) only [extract_high, extract_low, Nat.reduceSub, extract_all]; simp)
  refine (if_neg ?_).trans ?_
  · (simp (disch := decide) only [extract_high, extract_low, Nat.reduceSub, extract_all]; simp)
  refine (if_neg ?_).trans ?_
  · (simp (disch := decide) only [extract_high, extract_low, Nat.reduceSub, extract_all]; simp)
  refine (if_neg ?_).trans ?_
  · (simp (disch := decide) only [extract_high, extract_low, Nat.reduceSub, extract_all]; simp)
  refine (if_pos ?_).trans ?_
  · simp (disch := decide) only [extract_high, extract_low, Nat.reduceSub, extract_all]; rfl
  simp (disch := decide) only [extract_high, extract_low, Nat.reduceSub, extract_all]

theorem mpush : ∀ y0, Statement (.mpush y0) := by
  intro y0 h _ c lit hl
  refine decodeCore_of_raw (by decide) ?_ h
  unfold rawDecode
  rw [opOf_packCore, restOf_packCore]
  dsimp only
  rw [unpackA_packA]
  refine (if_pos ?_).trans ?_
  · simp (disch := decide) only [extract_high, extract_low, Nat.reduceSub, extract_all]; rfl
  simp (disch := decide) only [extract_high, extract_low, Nat.reduceSub, extract_all]

theorem sleep : ∀ y0, Statement (.sleep y0) := by
  intro y0 h _ c lit hl
  refine decodeCore_of_raw (by decide) ?_ h
  unfold rawDecode
  rw [opOf_packCore, restOf_packCore]
  dsimp only
  rw [unpackL_packL]
  refine (if_pos ?_).trans ?_
  · simp (disch := decide) only [extract_high, extract_low, Nat.reduceSub, extract_all]; rfl
  simp (disch := decide) only [extract_high, extract_low, Nat.reduceSub, extract_all]

theorem trap : ∀ y0, Statement (.trap y0) := by
  intro y0 h _ c lit hl
  refine decodeCore_of_raw (by decide) ?_ h
  unfold rawDecode
  rw [opOf_packCore, restOf_packCore]
  dsimp only
  rw [unpackL_packL]
  refine (if_pos ?_).trans ?_
  · simp (disch := decide) only [extract_high, extract_low, Nat.reduceSub, extract_all]; rfl
  simp (disch := decide) only [extract_high, extract_low, Nat.reduceSub, extract_all]

theorem brk : ∀ y0, Statement (.brk y0) := by
  intro y0 h _ c lit hl
  refine decodeCore_of_raw (by decide) ?_ h
  unfold rawDecode
  rw [opOf_packCore, restOf_packCore]
  dsimp only
  rw [unpackL_packL]
  refine (if_pos ?_).trans ?_
  · simp (disch := decide) only [extract_high, extract_low, Nat.reduceSub, extract_all]; rfl
  simp (disch := decide) only [extract_high, extract_low, Nat.reduceSub, extract_all]

theorem sysrd : ∀ y0 y1 y2, Statement (.sysrd y0 y1 y2) := by
  intro y0 y1 y2 h _ c lit hl
  refine decodeCore_of_raw (by decide) ?_ h
  unfold rawDecode
  rw [opOf_packCore, restOf_packCore]
  dsimp only
  rw [unpackA_packA]
  refine (if_pos ?_).trans ?_
  · simp (disch := decide) only [extract_high, extract_low, Nat.reduceSub, extract_all]; rfl
  simp (disch := decide) only [extract_high, extract_low, Nat.reduceSub, extract_all]

theorem syswr : ∀ y0 y1, Statement (.syswr y0 y1) := by
  intro y0 y1 h _ c lit hl
  refine decodeCore_of_raw (by decide) ?_ h
  unfold rawDecode
  rw [opOf_packCore, restOf_packCore]
  dsimp only
  rw [unpackT_packT]
  refine (if_pos ?_).trans ?_
  · simp (disch := decide) only [extract_high, extract_low, Nat.reduceSub, extract_all]; rfl
  simp (disch := decide) only [extract_high, extract_low, Nat.reduceSub, extract_all]

theorem cntrd : ∀ y0 y1, Statement (.cntrd y0 y1) := by
  intro y0 y1 h _ c lit hl
  refine decodeCore_of_raw (by decide) ?_ h
  unfold rawDecode
  rw [opOf_packCore, restOf_packCore]
  dsimp only
  rw [unpackT_packT]
  refine (if_pos ?_).trans ?_
  · simp (disch := decide) only [extract_high, extract_low, Nat.reduceSub, extract_all]; rfl
  simp (disch := decide) only [extract_high, extract_low, Nat.reduceSub, extract_all]

theorem srkey : ∀ y0 y1, Statement (.srkey y0 y1) := by
  intro y0 y1 h _ c lit hl
  refine decodeCore_of_raw (by decide) ?_ h
  unfold rawDecode
  rw [opOf_packCore, restOf_packCore]
  dsimp only
  rw [unpackT_packT]
  refine (if_pos ?_).trans ?_
  · simp (disch := decide) only [extract_high, extract_low, Nat.reduceSub, extract_all]; rfl
  simp (disch := decide) only [extract_high, extract_low, Nat.reduceSub, extract_all]

theorem srstep : ∀ y0, Statement (.srstep y0) := by
  intro y0 h _ c lit hl
  refine decodeCore_of_raw (by decide) ?_ h
  unfold rawDecode
  rw [opOf_packCore, restOf_packCore]
  dsimp only
  rw [unpackT_packT]
  refine (if_neg ?_).trans ?_
  · (simp (disch := decide) only [extract_high, extract_low, Nat.reduceSub, extract_all]; simp)
  refine (if_pos ?_).trans ?_
  · simp (disch := decide) only [extract_high, extract_low, Nat.reduceSub, extract_all]; rfl
  simp (disch := decide) only [extract_high, extract_low, Nat.reduceSub, extract_all]

theorem iadd : ∀ y0 y1 y2 y3, Statement (.iadd y0 y1 y2 y3) := by
  intro y0 y1 y2 y3 h _ c lit hl
  refine decodeCore_of_raw (by decide) ?_ h
  unfold rawDecode
  rw [opOf_packCore, restOf_packCore]
  dsimp only
  rw [unpackA_packA]
  refine (if_pos ?_).trans ?_
  · simp (disch := decide) only [extract_high, extract_low, Nat.reduceSub, extract_all]; rfl
  simp (disch := decide) only [extract_high, extract_low, Nat.reduceSub, extract_all]

theorem isub : ∀ y0 y1 y2 y3, Statement (.isub y0 y1 y2 y3) := by
  intro y0 y1 y2 y3 h _ c lit hl
  refine decodeCore_of_raw (by decide) ?_ h
  unfold rawDecode
  rw [opOf_packCore, restOf_packCore]
  dsimp only
  rw [unpackA_packA]
  refine (if_pos ?_).trans ?_
  · simp (disch := decide) only [extract_high, extract_low, Nat.reduceSub, extract_all]; rfl
  simp (disch := decide) only [extract_high, extract_low, Nat.reduceSub, extract_all]

theorem iaddi : ∀ y0 y1 y2, Statement (.iaddi y0 y1 y2) := by
  intro y0 y1 y2 h _ c lit hl
  refine decodeCore_of_raw (by decide) ?_ h
  unfold rawDecode
  rw [opOf_packCore, restOf_packCore]
  dsimp only
  rw [unpackB_packB]
  rfl

theorem imul : ∀ y0 y1 y2 y3, Statement (.imul y0 y1 y2 y3) := by
  intro y0 y1 y2 y3 h _ c lit hl
  refine decodeCore_of_raw (by decide) ?_ h
  unfold rawDecode
  rw [opOf_packCore, restOf_packCore]
  dsimp only
  rw [unpackA_packA]
  refine (if_pos ?_).trans ?_
  · simp (disch := decide) only [extract_high, extract_low, Nat.reduceSub, extract_all]; rfl
  simp (disch := decide) only [extract_high, extract_low, Nat.reduceSub, extract_all]

theorem imulh : ∀ y0 y1 y2 y3, Statement (.imulh y0 y1 y2 y3) := by
  intro y0 y1 y2 y3 h _ c lit hl
  refine decodeCore_of_raw (by decide) ?_ h
  unfold rawDecode
  rw [opOf_packCore, restOf_packCore]
  dsimp only
  rw [unpackA_packA]
  rfl

theorem imad : ∀ y0 y1 y2 y3, Statement (.imad y0 y1 y2 y3) := by
  intro y0 y1 y2 y3 h _ c lit hl
  refine decodeCore_of_raw (by decide) ?_ h
  unfold rawDecode
  rw [opOf_packCore, restOf_packCore]
  dsimp only
  rw [unpackA_packA]
  refine (if_pos ?_).trans ?_
  · simp (disch := decide) only [extract_high, extract_low, Nat.reduceSub, extract_all]; rfl
  simp (disch := decide) only [extract_high, extract_low, Nat.reduceSub, extract_all]

theorem imin : ∀ y0 y1 y2 y3, Statement (.imin y0 y1 y2 y3) := by
  intro y0 y1 y2 y3 h _ c lit hl
  refine decodeCore_of_raw (by decide) ?_ h
  unfold rawDecode
  rw [opOf_packCore, restOf_packCore]
  dsimp only
  rw [unpackA_packA]
  refine (if_pos ?_).trans ?_
  · simp (disch := decide) only [extract_high, extract_low, Nat.reduceSub, extract_all]; rfl
  simp (disch := decide) only [extract_high, extract_low, Nat.reduceSub, extract_all]

theorem imax : ∀ y0 y1 y2 y3, Statement (.imax y0 y1 y2 y3) := by
  intro y0 y1 y2 y3 h _ c lit hl
  refine decodeCore_of_raw (by decide) ?_ h
  unfold rawDecode
  rw [opOf_packCore, restOf_packCore]
  dsimp only
  rw [unpackA_packA]
  refine (if_neg ?_).trans ?_
  · (simp (disch := decide) only [extract_high, extract_low, Nat.reduceSub, extract_all]; simp)
  refine (if_pos ?_).trans ?_
  · simp (disch := decide) only [extract_high, extract_low, Nat.reduceSub, extract_all]; rfl
  simp (disch := decide) only [extract_high, extract_low, Nat.reduceSub, extract_all]

theorem iabs : ∀ y0 y1 y2, Statement (.iabs y0 y1 y2) := by
  intro y0 y1 y2 h _ c lit hl
  refine decodeCore_of_raw (by decide) ?_ h
  unfold rawDecode
  rw [opOf_packCore, restOf_packCore]
  dsimp only
  rw [unpackA_packA]
  refine (if_pos ?_).trans ?_
  · simp (disch := decide) only [extract_high, extract_low, Nat.reduceSub, extract_all]; rfl
  simp (disch := decide) only [extract_high, extract_low, Nat.reduceSub, extract_all]

theorem icmp : ∀ y0 y1 y2 y3, Statement (.icmp y0 y1 y2 y3) := by
  intro y0 y1 y2 y3 h _ c lit hl
  refine decodeCore_of_raw (by decide) ?_ h
  unfold rawDecode
  rw [opOf_packCore, restOf_packCore]
  dsimp only
  rw [unpackA_packA]
  refine (if_pos ?_).trans ?_
  · simp (disch := decide) only [extract_high, extract_low, Nat.reduceSub, extract_all]; rfl
  simp (disch := decide) only [extract_high, extract_low, Nat.reduceSub, extract_all]

theorem isel : ∀ y0 y1 y2 y3, Statement (.isel y0 y1 y2 y3) := by
  intro y0 y1 y2 y3 h _ c lit hl
  refine decodeCore_of_raw (by decide) ?_ h
  unfold rawDecode
  rw [opOf_packCore, restOf_packCore]
  dsimp only
  rw [unpackA_packA]
  rfl

theorem shl : ∀ y0 y1 y2, Statement (.shl y0 y1 y2) := by
  intro y0 y1 y2 h _ c lit hl
  refine decodeCore_of_raw (by decide) ?_ h
  unfold rawDecode
  rw [opOf_packCore, restOf_packCore]
  dsimp only
  rw [unpackA_packA]
  refine (if_pos ?_).trans ?_
  · simp (disch := decide) only [extract_high, extract_low, Nat.reduceSub, extract_all]; rfl
  simp (disch := decide) only [extract_high, extract_low, Nat.reduceSub, extract_all]

theorem shr : ∀ y0 y1 y2, Statement (.shr y0 y1 y2) := by
  intro y0 y1 y2 h _ c lit hl
  refine decodeCore_of_raw (by decide) ?_ h
  unfold rawDecode
  rw [opOf_packCore, restOf_packCore]
  dsimp only
  rw [unpackA_packA]
  refine (if_neg ?_).trans ?_
  · (simp (disch := decide) only [extract_high, extract_low, Nat.reduceSub, extract_all]; simp)
  refine (if_pos ?_).trans ?_
  · simp (disch := decide) only [extract_high, extract_low, Nat.reduceSub, extract_all]; rfl
  simp (disch := decide) only [extract_high, extract_low, Nat.reduceSub, extract_all]

theorem sar : ∀ y0 y1 y2, Statement (.sar y0 y1 y2) := by
  intro y0 y1 y2 h _ c lit hl
  refine decodeCore_of_raw (by decide) ?_ h
  unfold rawDecode
  rw [opOf_packCore, restOf_packCore]
  dsimp only
  rw [unpackA_packA]
  refine (if_neg ?_).trans ?_
  · (simp (disch := decide) only [extract_high, extract_low, Nat.reduceSub, extract_all]; simp)
  refine (if_neg ?_).trans ?_
  · (simp (disch := decide) only [extract_high, extract_low, Nat.reduceSub, extract_all]; simp)
  refine (if_pos ?_).trans ?_
  · simp (disch := decide) only [extract_high, extract_low, Nat.reduceSub, extract_all]; rfl
  simp (disch := decide) only [extract_high, extract_low, Nat.reduceSub, extract_all]

theorem rol : ∀ y0 y1 y2, Statement (.rol y0 y1 y2) := by
  intro y0 y1 y2 h _ c lit hl
  refine decodeCore_of_raw (by decide) ?_ h
  unfold rawDecode
  rw [opOf_packCore, restOf_packCore]
  dsimp only
  rw [unpackA_packA]
  refine (if_neg ?_).trans ?_
  · (simp (disch := decide) only [extract_high, extract_low, Nat.reduceSub, extract_all]; simp)
  refine (if_neg ?_).trans ?_
  · (simp (disch := decide) only [extract_high, extract_low, Nat.reduceSub, extract_all]; simp)
  refine (if_neg ?_).trans ?_
  · (simp (disch := decide) only [extract_high, extract_low, Nat.reduceSub, extract_all]; simp)
  refine (if_pos ?_).trans ?_
  · simp (disch := decide) only [extract_high, extract_low, Nat.reduceSub, extract_all]; rfl
  simp (disch := decide) only [extract_high, extract_low, Nat.reduceSub, extract_all]

theorem shli : ∀ y0 y1 y2, Statement (.shli y0 y1 y2) := by
  intro y0 y1 y2 h _ c lit hl
  refine decodeCore_of_raw (by decide) ?_ h
  unfold rawDecode
  rw [opOf_packCore, restOf_packCore]
  dsimp only
  rw [unpackB_packB]
  refine (if_pos ?_).trans ?_
  · simp (disch := decide) only [extract_high, extract_low, Nat.reduceSub, extract_all]; rfl
  simp (disch := decide) only [extract_high, extract_low, Nat.reduceSub, extract_all]

theorem shri : ∀ y0 y1 y2, Statement (.shri y0 y1 y2) := by
  intro y0 y1 y2 h _ c lit hl
  refine decodeCore_of_raw (by decide) ?_ h
  unfold rawDecode
  rw [opOf_packCore, restOf_packCore]
  dsimp only
  rw [unpackB_packB]
  refine (if_neg ?_).trans ?_
  · (simp (disch := decide) only [extract_high, extract_low, Nat.reduceSub, extract_all]; simp)
  refine (if_pos ?_).trans ?_
  · simp (disch := decide) only [extract_high, extract_low, Nat.reduceSub, extract_all]; rfl
  simp (disch := decide) only [extract_high, extract_low, Nat.reduceSub, extract_all]

theorem sari : ∀ y0 y1 y2, Statement (.sari y0 y1 y2) := by
  intro y0 y1 y2 h _ c lit hl
  refine decodeCore_of_raw (by decide) ?_ h
  unfold rawDecode
  rw [opOf_packCore, restOf_packCore]
  dsimp only
  rw [unpackB_packB]
  refine (if_neg ?_).trans ?_
  · (simp (disch := decide) only [extract_high, extract_low, Nat.reduceSub, extract_all]; simp)
  refine (if_neg ?_).trans ?_
  · (simp (disch := decide) only [extract_high, extract_low, Nat.reduceSub, extract_all]; simp)
  refine (if_pos ?_).trans ?_
  · simp (disch := decide) only [extract_high, extract_low, Nat.reduceSub, extract_all]; rfl
  simp (disch := decide) only [extract_high, extract_low, Nat.reduceSub, extract_all]

theorem and : ∀ y0 y1 y2, Statement (.and y0 y1 y2) := by
  intro y0 y1 y2 h _ c lit hl
  refine decodeCore_of_raw (by decide) ?_ h
  unfold rawDecode
  rw [opOf_packCore, restOf_packCore]
  dsimp only
  rw [unpackA_packA]
  refine (if_pos ?_).trans ?_
  · simp (disch := decide) only [extract_high, extract_low, Nat.reduceSub, extract_all]; rfl
  simp (disch := decide) only [extract_high, extract_low, Nat.reduceSub, extract_all]

theorem or : ∀ y0 y1 y2, Statement (.or y0 y1 y2) := by
  intro y0 y1 y2 h _ c lit hl
  refine decodeCore_of_raw (by decide) ?_ h
  unfold rawDecode
  rw [opOf_packCore, restOf_packCore]
  dsimp only
  rw [unpackA_packA]
  refine (if_neg ?_).trans ?_
  · (simp (disch := decide) only [extract_high, extract_low, Nat.reduceSub, extract_all]; simp)
  refine (if_pos ?_).trans ?_
  · simp (disch := decide) only [extract_high, extract_low, Nat.reduceSub, extract_all]; rfl
  simp (disch := decide) only [extract_high, extract_low, Nat.reduceSub, extract_all]

theorem xor : ∀ y0 y1 y2, Statement (.xor y0 y1 y2) := by
  intro y0 y1 y2 h _ c lit hl
  refine decodeCore_of_raw (by decide) ?_ h
  unfold rawDecode
  rw [opOf_packCore, restOf_packCore]
  dsimp only
  rw [unpackA_packA]
  refine (if_neg ?_).trans ?_
  · (simp (disch := decide) only [extract_high, extract_low, Nat.reduceSub, extract_all]; simp)
  refine (if_neg ?_).trans ?_
  · (simp (disch := decide) only [extract_high, extract_low, Nat.reduceSub, extract_all]; simp)
  refine (if_pos ?_).trans ?_
  · simp (disch := decide) only [extract_high, extract_low, Nat.reduceSub, extract_all]; rfl
  simp (disch := decide) only [extract_high, extract_low, Nat.reduceSub, extract_all]

theorem andn : ∀ y0 y1 y2, Statement (.andn y0 y1 y2) := by
  intro y0 y1 y2 h _ c lit hl
  refine decodeCore_of_raw (by decide) ?_ h
  unfold rawDecode
  rw [opOf_packCore, restOf_packCore]
  dsimp only
  rw [unpackA_packA]
  refine (if_neg ?_).trans ?_
  · (simp (disch := decide) only [extract_high, extract_low, Nat.reduceSub, extract_all]; simp)
  refine (if_neg ?_).trans ?_
  · (simp (disch := decide) only [extract_high, extract_low, Nat.reduceSub, extract_all]; simp)
  refine (if_neg ?_).trans ?_
  · (simp (disch := decide) only [extract_high, extract_low, Nat.reduceSub, extract_all]; simp)
  refine (if_pos ?_).trans ?_
  · simp (disch := decide) only [extract_high, extract_low, Nat.reduceSub, extract_all]; rfl
  simp (disch := decide) only [extract_high, extract_low, Nat.reduceSub, extract_all]

theorem andi : ∀ y0 y1 y2, Statement (.andi y0 y1 y2) := by
  intro y0 y1 y2 h _ c lit hl
  refine decodeCore_of_raw (by decide) ?_ h
  unfold rawDecode
  rw [opOf_packCore, restOf_packCore]
  dsimp only
  rw [unpackB_packB]
  rfl

theorem ori : ∀ y0 y1 y2, Statement (.ori y0 y1 y2) := by
  intro y0 y1 y2 h _ c lit hl
  refine decodeCore_of_raw (by decide) ?_ h
  unfold rawDecode
  rw [opOf_packCore, restOf_packCore]
  dsimp only
  rw [unpackB_packB]
  rfl

theorem xori : ∀ y0 y1 y2, Statement (.xori y0 y1 y2) := by
  intro y0 y1 y2 h _ c lit hl
  refine decodeCore_of_raw (by decide) ?_ h
  unfold rawDecode
  rw [opOf_packCore, restOf_packCore]
  dsimp only
  rw [unpackB_packB]
  rfl

theorem clz : ∀ y0 y1, Statement (.clz y0 y1) := by
  intro y0 y1 h _ c lit hl
  refine decodeCore_of_raw (by decide) ?_ h
  unfold rawDecode
  rw [opOf_packCore, restOf_packCore]
  dsimp only
  rw [unpackA_packA]
  refine (if_pos ?_).trans ?_
  · simp (disch := decide) only [extract_high, extract_low, Nat.reduceSub, extract_all]; rfl
  simp (disch := decide) only [extract_high, extract_low, Nat.reduceSub, extract_all]

theorem popc : ∀ y0 y1, Statement (.popc y0 y1) := by
  intro y0 y1 h _ c lit hl
  refine decodeCore_of_raw (by decide) ?_ h
  unfold rawDecode
  rw [opOf_packCore, restOf_packCore]
  dsimp only
  rw [unpackA_packA]
  refine (if_neg ?_).trans ?_
  · (simp (disch := decide) only [extract_high, extract_low, Nat.reduceSub, extract_all]; simp)
  refine (if_pos ?_).trans ?_
  · simp (disch := decide) only [extract_high, extract_low, Nat.reduceSub, extract_all]; rfl
  simp (disch := decide) only [extract_high, extract_low, Nat.reduceSub, extract_all]

theorem brev : ∀ y0 y1, Statement (.brev y0 y1) := by
  intro y0 y1 h _ c lit hl
  refine decodeCore_of_raw (by decide) ?_ h
  unfold rawDecode
  rw [opOf_packCore, restOf_packCore]
  dsimp only
  rw [unpackA_packA]
  refine (if_neg ?_).trans ?_
  · (simp (disch := decide) only [extract_high, extract_low, Nat.reduceSub, extract_all]; simp)
  refine (if_neg ?_).trans ?_
  · (simp (disch := decide) only [extract_high, extract_low, Nat.reduceSub, extract_all]; simp)
  refine (if_pos ?_).trans ?_
  · simp (disch := decide) only [extract_high, extract_low, Nat.reduceSub, extract_all]; rfl
  simp (disch := decide) only [extract_high, extract_low, Nat.reduceSub, extract_all]

theorem bfx : ∀ y0 y1 y2 y3, Statement (.bfx y0 y1 y2 y3) := by
  intro y0 y1 y2 y3 h _ c lit hl
  refine decodeCore_of_raw (by decide) ?_ h
  unfold rawDecode
  rw [opOf_packCore, restOf_packCore]
  dsimp only
  rw [unpackA_packA]
  refine (if_pos ?_).trans ?_
  · simp (disch := decide) only [extract_high, extract_low, Nat.reduceSub, extract_all]; rfl
  simp (disch := decide) only [extract_high, extract_low, Nat.reduceSub, extract_all]

theorem bfi : ∀ y0 y1 y2, Statement (.bfi y0 y1 y2) := by
  intro y0 y1 y2 h _ c lit hl
  refine decodeCore_of_raw (by decide) ?_ h
  unfold rawDecode
  rw [opOf_packCore, restOf_packCore]
  dsimp only
  rw [unpackA_packA]
  refine (if_neg ?_).trans ?_
  · (simp (disch := decide) only [extract_high, extract_low, Nat.reduceSub, extract_all]; simp)
  refine (if_pos ?_).trans ?_
  · simp (disch := decide) only [extract_high, extract_low, Nat.reduceSub, extract_all]; rfl
  simp (disch := decide) only [extract_high, extract_low, Nat.reduceSub, extract_all]

theorem mov : ∀ y0 y1, Statement (.mov y0 y1) := by
  intro y0 y1 h _ c lit hl
  refine decodeCore_of_raw (by decide) ?_ h
  unfold rawDecode
  rw [opOf_packCore, restOf_packCore]
  dsimp only
  rw [unpackA_packA]
  refine (if_pos ?_).trans ?_
  · simp (disch := decide) only [extract_high, extract_low, Nat.reduceSub, extract_all]; rfl
  simp (disch := decide) only [extract_high, extract_low, Nat.reduceSub, extract_all]

theorem movi : ∀ y0 y1, Statement (.movi y0 y1) := by
  intro y0 y1 h _ c lit hl
  refine decodeCore_of_raw (by decide) ?_ h
  unfold rawDecode
  rw [opOf_packCore, restOf_packCore]
  dsimp only
  rw [unpackL_packL]
  rfl

theorem movl : ∀ y0 y1, Statement (.movl y0 y1) := by
  intro y0 y1 h _ c lit hl
  obtain hl | hl := hl
  · cases hl
  subst hl
  refine decodeCore_of_raw (by decide) ?_ h
  unfold rawDecode
  rw [opOf_packCore, restOf_packCore]
  dsimp only
  rw [unpackL_packL]
  rfl

theorem movs : ∀ y0 y1, Statement (.movs y0 y1) := by
  intro y0 y1 h _ c lit hl
  refine decodeCore_of_raw (by decide) ?_ h
  unfold rawDecode
  rw [opOf_packCore, restOf_packCore]
  dsimp only
  rw [unpackA_packA]
  refine (if_pos ?_).trans ?_
  · simp (disch := decide) only [extract_high, extract_low, Nat.reduceSub, extract_all]; rfl
  simp (disch := decide) only [extract_high, extract_low, Nat.reduceSub, extract_all]

theorem smov : ∀ y0 y1 y2, Statement (.smov y0 y1 y2) := by
  intro y0 y1 y2 h _ c lit hl
  refine decodeCore_of_raw (by decide) ?_ h
  unfold rawDecode
  rw [opOf_packCore, restOf_packCore]
  dsimp only
  rw [unpackA_packA]
  refine (if_pos ?_).trans ?_
  · simp (disch := decide) only [extract_high, extract_low, Nat.reduceSub, extract_all]; rfl
  simp (disch := decide) only [extract_high, extract_low, Nat.reduceSub, extract_all]

theorem smovi : ∀ y0 y1, Statement (.smovi y0 y1) := by
  intro y0 y1 h _ c lit hl
  refine decodeCore_of_raw (by decide) ?_ h
  unfold rawDecode
  rw [opOf_packCore, restOf_packCore]
  dsimp only
  rw [unpackS_packS]
  refine (if_pos ?_).trans ?_
  · simp (disch := decide) only [extract_high, extract_low, Nat.reduceSub, extract_all]; rfl
  simp (disch := decide) only [extract_high, extract_low, Nat.reduceSub, extract_all]

theorem smoviLiteral : ∀ y0 y1, Statement (.smoviLiteral y0 y1) := by
  intro y0 y1 h _ c lit hl
  obtain hl | hl := hl
  · cases hl
  subst hl
  refine decodeCore_of_raw (by decide) ?_ h
  unfold rawDecode
  rw [opOf_packCore, restOf_packCore]
  dsimp only
  rw [unpackS_packS]
  refine (if_neg ?_).trans ?_
  · (simp (disch := decide) only [extract_high, extract_low, Nat.reduceSub, extract_all]; simp)
  rfl

theorem sadd : ∀ y0 y1 y2, Statement (.sadd y0 y1 y2) := by
  intro y0 y1 y2 h _ c lit hl
  refine decodeCore_of_raw (by decide) ?_ h
  unfold rawDecode
  rw [opOf_packCore, restOf_packCore]
  dsimp only
  rw [unpackT_packT]
  refine (if_pos ?_).trans ?_
  · simp (disch := decide) only [extract_high, extract_low, Nat.reduceSub, extract_all]; rfl
  simp (disch := decide) only [extract_high, extract_low, Nat.reduceSub, extract_all]

theorem saddi : ∀ y0 y1 y2, Statement (.saddi y0 y1 y2) := by
  intro y0 y1 y2 h _ c lit hl
  refine decodeCore_of_raw (by decide) ?_ h
  unfold rawDecode
  rw [opOf_packCore, restOf_packCore]
  dsimp only
  rw [unpackS_packS]
  refine (if_pos ?_).trans ?_
  · simp (disch := decide) only [extract_high, extract_low, Nat.reduceSub, extract_all]; rfl
  simp (disch := decide) only [extract_high, extract_low, Nat.reduceSub, extract_all]

theorem saddiLiteral : ∀ y0 y1 y2, Statement (.saddiLiteral y0 y1 y2) := by
  intro y0 y1 y2 h _ c lit hl
  obtain hl | hl := hl
  · cases hl
  subst hl
  refine decodeCore_of_raw (by decide) ?_ h
  unfold rawDecode
  rw [opOf_packCore, restOf_packCore]
  dsimp only
  rw [unpackS_packS]
  refine (if_neg ?_).trans ?_
  · (simp (disch := decide) only [extract_high, extract_low, Nat.reduceSub, extract_all]; simp)
  rfl

theorem sand : ∀ y0 y1 y2, Statement (.sand y0 y1 y2) := by
  intro y0 y1 y2 h _ c lit hl
  refine decodeCore_of_raw (by decide) ?_ h
  unfold rawDecode
  rw [opOf_packCore, restOf_packCore]
  dsimp only
  rw [unpackT_packT]
  refine (if_pos ?_).trans ?_
  · simp (disch := decide) only [extract_high, extract_low, Nat.reduceSub, extract_all]; rfl
  simp (disch := decide) only [extract_high, extract_low, Nat.reduceSub, extract_all]

theorem sshl : ∀ y0 y1 y2 y3, Statement (.sshl y0 y1 y2 y3) := by
  intro y0 y1 y2 y3 h _ c lit hl
  refine decodeCore_of_raw (by decide) ?_ h
  unfold rawDecode
  rw [opOf_packCore, restOf_packCore]
  dsimp only
  rw [unpackS_packS]
  refine (if_pos ?_).trans ?_
  · simp (disch := decide) only [extract_high, extract_low, Nat.reduceSub, extract_all]; rfl
  simp (disch := decide) only [extract_high, extract_low, Nat.reduceSub, extract_all]

theorem padd : ∀ y0 y1 y2 y3, Statement (.padd y0 y1 y2 y3) := by
  intro y0 y1 y2 y3 h _ c lit hl
  refine decodeCore_of_raw (by decide) ?_ h
  unfold rawDecode
  rw [opOf_packCore, restOf_packCore]
  dsimp only
  rw [unpackA_packA]
  rfl

theorem psub : ∀ y0 y1 y2 y3, Statement (.psub y0 y1 y2 y3) := by
  intro y0 y1 y2 y3 h _ c lit hl
  refine decodeCore_of_raw (by decide) ?_ h
  unfold rawDecode
  rw [opOf_packCore, restOf_packCore]
  dsimp only
  rw [unpackA_packA]
  rfl

theorem pmin : ∀ y0 y1 y2 y3 y4, Statement (.pmin y0 y1 y2 y3 y4) := by
  intro y0 y1 y2 y3 y4 h _ c lit hl
  refine decodeCore_of_raw (by decide) ?_ h
  unfold rawDecode
  rw [opOf_packCore, restOf_packCore]
  dsimp only
  rw [unpackA_packA]
  refine (if_pos ?_).trans ?_
  · simp (disch := decide) only [extract_high, extract_low, Nat.reduceSub, extract_all]; rfl
  simp (disch := decide) only [extract_high, extract_low, Nat.reduceSub, extract_all]

theorem pmax : ∀ y0 y1 y2 y3 y4, Statement (.pmax y0 y1 y2 y3 y4) := by
  intro y0 y1 y2 y3 y4 h _ c lit hl
  refine decodeCore_of_raw (by decide) ?_ h
  unfold rawDecode
  rw [opOf_packCore, restOf_packCore]
  dsimp only
  rw [unpackA_packA]
  refine (if_neg ?_).trans ?_
  · (simp (disch := decide) only [extract_high, extract_low, Nat.reduceSub, extract_all]; simp)
  refine (if_pos ?_).trans ?_
  · simp (disch := decide) only [extract_high, extract_low, Nat.reduceSub, extract_all]; rfl
  simp (disch := decide) only [extract_high, extract_low, Nat.reduceSub, extract_all]

theorem pabd : ∀ y0 y1 y2 y3 y4, Statement (.pabd y0 y1 y2 y3 y4) := by
  intro y0 y1 y2 y3 y4 h _ c lit hl
  refine decodeCore_of_raw (by decide) ?_ h
  unfold rawDecode
  rw [opOf_packCore, restOf_packCore]
  dsimp only
  rw [unpackA_packA]
  refine (if_pos ?_).trans ?_
  · simp (disch := decide) only [extract_high, extract_low, Nat.reduceSub, extract_all]; rfl
  simp (disch := decide) only [extract_high, extract_low, Nat.reduceSub, extract_all]

theorem pavg : ∀ y0 y1 y2 y3 y4, Statement (.pavg y0 y1 y2 y3 y4) := by
  intro y0 y1 y2 y3 y4 h _ c lit hl
  refine decodeCore_of_raw (by decide) ?_ h
  unfold rawDecode
  rw [opOf_packCore, restOf_packCore]
  dsimp only
  rw [unpackA_packA]
  refine (if_neg ?_).trans ?_
  · (simp (disch := decide) only [extract_high, extract_low, Nat.reduceSub, extract_all]; simp)
  refine (if_pos ?_).trans ?_
  · simp (disch := decide) only [extract_high, extract_low, Nat.reduceSub, extract_all]; rfl
  simp (disch := decide) only [extract_high, extract_low, Nat.reduceSub, extract_all]

theorem pmul : ∀ y0 y1 y2 y3 y4, Statement (.pmul y0 y1 y2 y3 y4) := by
  intro y0 y1 y2 y3 y4 h _ c lit hl
  refine decodeCore_of_raw (by decide) ?_ h
  unfold rawDecode
  rw [opOf_packCore, restOf_packCore]
  dsimp only
  rw [unpackA_packA]
  refine (if_pos ?_).trans ?_
  · simp (disch := decide) only [extract_high, extract_low, Nat.reduceSub, extract_all]; rfl
  simp (disch := decide) only [extract_high, extract_low, Nat.reduceSub, extract_all]

theorem pmulh : ∀ y0 y1 y2 y3 y4, Statement (.pmulh y0 y1 y2 y3 y4) := by
  intro y0 y1 y2 y3 y4 h _ c lit hl
  refine decodeCore_of_raw (by decide) ?_ h
  unfold rawDecode
  rw [opOf_packCore, restOf_packCore]
  dsimp only
  rw [unpackA_packA]
  refine (if_neg ?_).trans ?_
  · (simp (disch := decide) only [extract_high, extract_low, Nat.reduceSub, extract_all]; simp)
  refine (if_pos ?_).trans ?_
  · simp (disch := decide) only [extract_high, extract_low, Nat.reduceSub, extract_all]; rfl
  simp (disch := decide) only [extract_high, extract_low, Nat.reduceSub, extract_all]

theorem pshl : ∀ y0 y1 y2 y3, Statement (.pshl y0 y1 y2 y3) := by
  intro y0 y1 y2 y3 h _ c lit hl
  refine decodeCore_of_raw (by decide) ?_ h
  unfold rawDecode
  rw [opOf_packCore, restOf_packCore]
  dsimp only
  rw [unpackA_packA]
  refine (if_pos ?_).trans ?_
  · simp (disch := decide) only [extract_high, extract_low, Nat.reduceSub, extract_all]; rfl
  simp (disch := decide) only [extract_high, extract_low, Nat.reduceSub, extract_all]

theorem pshr : ∀ y0 y1 y2 y3 y4, Statement (.pshr y0 y1 y2 y3 y4) := by
  intro y0 y1 y2 y3 y4 h _ c lit hl
  refine decodeCore_of_raw (by decide) ?_ h
  unfold rawDecode
  rw [opOf_packCore, restOf_packCore]
  dsimp only
  rw [unpackA_packA]
  refine (if_neg ?_).trans ?_
  · (simp (disch := decide) only [extract_high, extract_low, Nat.reduceSub, extract_all]; simp; exact (by decide : ∀ y z : BitVec 1, ¬(y ++ 1#1 ++ z).extractLsb' 0 2 = 0#2) y0 y1)
  refine (if_pos ?_).trans ?_
  · simp (disch := decide) only [extract_high, extract_low, Nat.reduceSub, extract_all]; rfl
  simp (disch := decide) only [extract_high, extract_low, Nat.reduceSub, extract_all]

theorem pacs : ∀ y0 y1 y2 y3, Statement (.pacs y0 y1 y2 y3) := by
  intro y0 y1 y2 y3 h _ c lit hl
  refine decodeCore_of_raw (by decide) ?_ h
  unfold rawDecode
  rw [opOf_packCore, restOf_packCore]
  dsimp only
  rw [unpackA_packA]
  rfl

theorem dot4 : ∀ y0 y1 y2 y3, Statement (.dot4 y0 y1 y2 y3) := by
  intro y0 y1 y2 y3 h _ c lit hl
  refine decodeCore_of_raw (by decide) ?_ h
  unfold rawDecode
  rw [opOf_packCore, restOf_packCore]
  dsimp only
  rw [unpackA_packA]
  rfl

theorem dot8 : ∀ y0 y1 y2 y3, Statement (.dot8 y0 y1 y2 y3) := by
  intro y0 y1 y2 y3 h _ c lit hl
  refine decodeCore_of_raw (by decide) ?_ h
  unfold rawDecode
  rw [opOf_packCore, restOf_packCore]
  dsimp only
  rw [unpackA_packA]
  refine (if_pos ?_).trans ?_
  · simp (disch := decide) only [extract_high, extract_low, Nat.reduceSub, extract_all]; rfl
  simp (disch := decide) only [extract_high, extract_low, Nat.reduceSub, extract_all]

theorem dot2 : ∀ y0 y1 y2 y3, Statement (.dot2 y0 y1 y2 y3) := by
  intro y0 y1 y2 y3 h _ c lit hl
  refine decodeCore_of_raw (by decide) ?_ h
  unfold rawDecode
  rw [opOf_packCore, restOf_packCore]
  dsimp only
  rw [unpackA_packA]
  refine (if_neg ?_).trans ?_
  · (simp (disch := decide) only [extract_high, extract_low, Nat.reduceSub, extract_all]; simp)
  refine (if_pos ?_).trans ?_
  · simp (disch := decide) only [extract_high, extract_low, Nat.reduceSub, extract_all]; rfl
  simp (disch := decide) only [extract_high, extract_low, Nat.reduceSub, extract_all]

theorem ppack : ∀ y0 y1 y2 y3, Statement (.ppack y0 y1 y2 y3) := by
  intro y0 y1 y2 y3 h _ c lit hl
  refine decodeCore_of_raw (by decide) ?_ h
  unfold rawDecode
  rw [opOf_packCore, restOf_packCore]
  dsimp only
  rw [unpackA_packA]
  refine (if_pos ?_).trans ?_
  · simp (disch := decide) only [extract_high, extract_low, Nat.reduceSub, extract_all]; rfl
  simp (disch := decide) only [extract_high, extract_low, Nat.reduceSub, extract_all]

theorem punpk : ∀ y0 y1 y2 y3, Statement (.punpk y0 y1 y2 y3) := by
  intro y0 y1 y2 y3 h _ c lit hl
  refine decodeCore_of_raw (by decide) ?_ h
  unfold rawDecode
  rw [opOf_packCore, restOf_packCore]
  dsimp only
  rw [unpackA_packA]
  refine (if_neg ?_).trans ?_
  · (simp (disch := decide) only [extract_high, extract_low, Nat.reduceSub, extract_all]; simp)
  refine (if_pos ?_).trans ?_
  · simp (disch := decide) only [extract_high, extract_low, Nat.reduceSub, extract_all]; rfl
  simp (disch := decide) only [extract_high, extract_low, Nat.reduceSub, extract_all]

theorem tbl : ∀ y0 y1 y2 y3, Statement (.tbl y0 y1 y2 y3) := by
  intro y0 y1 y2 y3 h _ c lit hl
  refine decodeCore_of_raw (by decide) ?_ h
  unfold rawDecode
  rw [opOf_packCore, restOf_packCore]
  dsimp only
  rw [unpackB_packB]
  show Except.ok _ = Except.ok _
  simp (disch := decide) only [extract_high, extract_low, Nat.reduceSub, extract_all]

theorem shfl : ∀ y0 y1 y2 y3, Statement (.shfl y0 y1 y2 y3) := by
  intro y0 y1 y2 y3 h _ c lit hl
  refine decodeCore_of_raw (by decide) ?_ h
  unfold rawDecode
  rw [opOf_packCore, restOf_packCore]
  dsimp only
  rw [unpackA_packA]
  rfl

theorem scan : ∀ y0 y1 y2 y3 y4, Statement (.scan y0 y1 y2 y3 y4) := by
  intro y0 y1 y2 y3 y4 h _ c lit hl
  refine decodeCore_of_raw (by decide) ?_ h
  unfold rawDecode
  rw [opOf_packCore, restOf_packCore]
  dsimp only
  rw [unpackA_packA]
  refine (if_pos ?_).trans ?_
  · simp (disch := decide) only [extract_high, extract_low, Nat.reduceSub, extract_all]; rfl
  simp (disch := decide) only [extract_high, extract_low, Nat.reduceSub, extract_all]

theorem red : ∀ y0 y1 y2 y3, Statement (.red y0 y1 y2 y3) := by
  intro y0 y1 y2 y3 h _ c lit hl
  refine decodeCore_of_raw (by decide) ?_ h
  unfold rawDecode
  rw [opOf_packCore, restOf_packCore]
  dsimp only
  rw [unpackA_packA]
  refine (if_neg ?_).trans ?_
  · (simp (disch := decide) only [extract_high, extract_low, Nat.reduceSub, extract_all]; simp)
  refine (if_pos ?_).trans ?_
  · simp (disch := decide) only [extract_high, extract_low, Nat.reduceSub, extract_all]; rfl
  simp (disch := decide) only [extract_high, extract_low, Nat.reduceSub, extract_all]

theorem voteAny : ∀ y0 y1 y2, Statement (.voteAny y0 y1 y2) := by
  intro y0 y1 y2 h _ c lit hl
  refine decodeCore_of_raw (by decide) ?_ h
  unfold rawDecode
  rw [opOf_packCore, restOf_packCore]
  dsimp only
  rw [unpackA_packA]
  refine (if_pos ?_).trans ?_
  · simp (disch := decide) only [extract_high, extract_low, Nat.reduceSub, extract_all]; rfl
  simp (disch := decide) only [extract_high, extract_low, Nat.reduceSub, extract_all]

theorem voteAll : ∀ y0 y1 y2, Statement (.voteAll y0 y1 y2) := by
  intro y0 y1 y2 h _ c lit hl
  refine decodeCore_of_raw (by decide) ?_ h
  unfold rawDecode
  rw [opOf_packCore, restOf_packCore]
  dsimp only
  rw [unpackA_packA]
  refine (if_neg ?_).trans ?_
  · (simp (disch := decide) only [extract_high, extract_low, Nat.reduceSub, extract_all]; simp)
  refine (if_pos ?_).trans ?_
  · simp (disch := decide) only [extract_high, extract_low, Nat.reduceSub, extract_all]; rfl
  simp (disch := decide) only [extract_high, extract_low, Nat.reduceSub, extract_all]

theorem voteCount : ∀ y0 y1 y2, Statement (.voteCount y0 y1 y2) := by
  intro y0 y1 y2 h _ c lit hl
  refine decodeCore_of_raw (by decide) ?_ h
  unfold rawDecode
  rw [opOf_packCore, restOf_packCore]
  dsimp only
  rw [unpackA_packA]
  refine (if_neg ?_).trans ?_
  · (simp (disch := decide) only [extract_high, extract_low, Nat.reduceSub, extract_all]; simp)
  refine (if_neg ?_).trans ?_
  · (simp (disch := decide) only [extract_high, extract_low, Nat.reduceSub, extract_all]; simp)
  refine (if_pos ?_).trans ?_
  · simp (disch := decide) only [extract_high, extract_low, Nat.reduceSub, extract_all]; rfl
  simp (disch := decide) only [extract_high, extract_low, Nat.reduceSub, extract_all]

theorem votePack : ∀ y0 y1 y2, Statement (.votePack y0 y1 y2) := by
  intro y0 y1 y2 h _ c lit hl
  refine decodeCore_of_raw (by decide) ?_ h
  unfold rawDecode
  rw [opOf_packCore, restOf_packCore]
  dsimp only
  rw [unpackA_packA]
  refine (if_neg ?_).trans ?_
  · (simp (disch := decide) only [extract_high, extract_low, Nat.reduceSub, extract_all]; simp)
  refine (if_neg ?_).trans ?_
  · (simp (disch := decide) only [extract_high, extract_low, Nat.reduceSub, extract_all]; simp)
  refine (if_neg ?_).trans ?_
  · (simp (disch := decide) only [extract_high, extract_low, Nat.reduceSub, extract_all]; simp)
  refine (if_pos ?_).trans ?_
  · simp (disch := decide) only [extract_high, extract_low, Nat.reduceSub, extract_all]; rfl
  simp (disch := decide) only [extract_high, extract_low, Nat.reduceSub, extract_all]

theorem matchLanes : ∀ y0 y1 y2, Statement (.matchLanes y0 y1 y2) := by
  intro y0 y1 y2 h _ c lit hl
  refine decodeCore_of_raw (by decide) ?_ h
  unfold rawDecode
  rw [opOf_packCore, restOf_packCore]
  dsimp only
  rw [unpackA_packA]
  refine (if_neg ?_).trans ?_
  · (simp (disch := decide) only [extract_high, extract_low, Nat.reduceSub, extract_all]; simp)
  refine (if_neg ?_).trans ?_
  · (simp (disch := decide) only [extract_high, extract_low, Nat.reduceSub, extract_all]; simp)
  refine (if_neg ?_).trans ?_
  · (simp (disch := decide) only [extract_high, extract_low, Nat.reduceSub, extract_all]; simp)
  refine (if_neg ?_).trans ?_
  · (simp (disch := decide) only [extract_high, extract_low, Nat.reduceSub, extract_all]; simp)
  refine (if_pos ?_).trans ?_
  · simp (disch := decide) only [extract_high, extract_low, Nat.reduceSub, extract_all]; rfl
  simp (disch := decide) only [extract_high, extract_low, Nat.reduceSub, extract_all]

theorem plog : ∀ y0 y1 y2 y3, Statement (.plog y0 y1 y2 y3) := by
  intro y0 y1 y2 y3 h _ c lit hl
  refine decodeCore_of_raw (by decide) ?_ h
  unfold rawDecode
  rw [opOf_packCore, restOf_packCore]
  dsimp only
  rw [unpackA_packA]
  refine (if_pos ?_).trans ?_
  · simp (disch := decide) only [extract_high, extract_low, Nat.reduceSub, extract_all]; rfl
  simp (disch := decide) only [extract_high, extract_low, Nat.reduceSub, extract_all]

theorem pmovPredicateFromRegister : ∀ y0 y1, Statement (.pmovPredicateFromRegister y0 y1) := by
  intro y0 y1 h _ c lit hl
  refine decodeCore_of_raw (by decide) ?_ h
  unfold rawDecode
  rw [opOf_packCore, restOf_packCore]
  dsimp only
  rw [unpackA_packA]
  refine (if_pos ?_).trans ?_
  · simp (disch := decide) only [extract_high, extract_low, Nat.reduceSub, extract_all]; rfl
  simp (disch := decide) only [extract_high, extract_low, Nat.reduceSub, extract_all]

theorem pmovRegisterFromPredicate : ∀ y0 y1, Statement (.pmovRegisterFromPredicate y0 y1) := by
  intro y0 y1 h _ c lit hl
  refine decodeCore_of_raw (by decide) ?_ h
  unfold rawDecode
  rw [opOf_packCore, restOf_packCore]
  dsimp only
  rw [unpackA_packA]
  refine (if_neg ?_).trans ?_
  · (simp (disch := decide) only [extract_high, extract_low, Nat.reduceSub, extract_all]; simp)
  refine (if_pos ?_).trans ?_
  · simp (disch := decide) only [extract_high, extract_low, Nat.reduceSub, extract_all]; rfl
  simp (disch := decide) only [extract_high, extract_low, Nat.reduceSub, extract_all]

theorem pmovPredicateFromPredicate : ∀ y0 y1, Statement (.pmovPredicateFromPredicate y0 y1) := by
  intro y0 y1 h _ c lit hl
  refine decodeCore_of_raw (by decide) ?_ h
  unfold rawDecode
  rw [opOf_packCore, restOf_packCore]
  dsimp only
  rw [unpackA_packA]
  refine (if_neg ?_).trans ?_
  · (simp (disch := decide) only [extract_high, extract_low, Nat.reduceSub, extract_all]; simp)
  refine (if_neg ?_).trans ?_
  · (simp (disch := decide) only [extract_high, extract_low, Nat.reduceSub, extract_all]; simp)
  refine (if_pos ?_).trans ?_
  · simp (disch := decide) only [extract_high, extract_low, Nat.reduceSub, extract_all]; rfl
  simp (disch := decide) only [extract_high, extract_low, Nat.reduceSub, extract_all]

theorem fadd : ∀ y0 y1 y2 y3, Statement (.fadd y0 y1 y2 y3) := by
  intro y0 y1 y2 y3 h _ c lit hl
  refine decodeCore_of_raw (by decide) ?_ h
  unfold rawDecode
  rw [opOf_packCore, restOf_packCore]
  dsimp only
  rw [unpackA_packA]
  rfl

theorem fsub : ∀ y0 y1 y2 y3, Statement (.fsub y0 y1 y2 y3) := by
  intro y0 y1 y2 y3 h _ c lit hl
  refine decodeCore_of_raw (by decide) ?_ h
  unfold rawDecode
  rw [opOf_packCore, restOf_packCore]
  dsimp only
  rw [unpackA_packA]
  rfl

theorem fmul : ∀ y0 y1 y2 y3, Statement (.fmul y0 y1 y2 y3) := by
  intro y0 y1 y2 y3 h _ c lit hl
  refine decodeCore_of_raw (by decide) ?_ h
  unfold rawDecode
  rw [opOf_packCore, restOf_packCore]
  dsimp only
  rw [unpackA_packA]
  rfl

theorem ffma : ∀ y0 y1 y2 y3, Statement (.ffma y0 y1 y2 y3) := by
  intro y0 y1 y2 y3 h _ c lit hl
  refine decodeCore_of_raw (by decide) ?_ h
  unfold rawDecode
  rw [opOf_packCore, restOf_packCore]
  dsimp only
  rw [unpackA_packA]
  rfl

theorem fmin : ∀ y0 y1 y2, Statement (.fmin y0 y1 y2) := by
  intro y0 y1 y2 h _ c lit hl
  refine decodeCore_of_raw (by decide) ?_ h
  unfold rawDecode
  rw [opOf_packCore, restOf_packCore]
  dsimp only
  rw [unpackA_packA]
  refine (if_pos ?_).trans ?_
  · simp (disch := decide) only [extract_high, extract_low, Nat.reduceSub, extract_all]; rfl
  simp (disch := decide) only [extract_high, extract_low, Nat.reduceSub, extract_all]

theorem fmax : ∀ y0 y1 y2, Statement (.fmax y0 y1 y2) := by
  intro y0 y1 y2 h _ c lit hl
  refine decodeCore_of_raw (by decide) ?_ h
  unfold rawDecode
  rw [opOf_packCore, restOf_packCore]
  dsimp only
  rw [unpackA_packA]
  refine (if_neg ?_).trans ?_
  · (simp (disch := decide) only [extract_high, extract_low, Nat.reduceSub, extract_all]; simp)
  refine (if_pos ?_).trans ?_
  · simp (disch := decide) only [extract_high, extract_low, Nat.reduceSub, extract_all]; rfl
  simp (disch := decide) only [extract_high, extract_low, Nat.reduceSub, extract_all]

theorem fabs : ∀ y0 y1, Statement (.fabs y0 y1) := by
  intro y0 y1 h _ c lit hl
  refine decodeCore_of_raw (by decide) ?_ h
  unfold rawDecode
  rw [opOf_packCore, restOf_packCore]
  dsimp only
  rw [unpackA_packA]
  refine (if_pos ?_).trans ?_
  · simp (disch := decide) only [extract_high, extract_low, Nat.reduceSub, extract_all]; rfl
  simp (disch := decide) only [extract_high, extract_low, Nat.reduceSub, extract_all]

theorem fneg : ∀ y0 y1, Statement (.fneg y0 y1) := by
  intro y0 y1 h _ c lit hl
  refine decodeCore_of_raw (by decide) ?_ h
  unfold rawDecode
  rw [opOf_packCore, restOf_packCore]
  dsimp only
  rw [unpackA_packA]
  refine (if_neg ?_).trans ?_
  · (simp (disch := decide) only [extract_high, extract_low, Nat.reduceSub, extract_all]; simp)
  refine (if_pos ?_).trans ?_
  · simp (disch := decide) only [extract_high, extract_low, Nat.reduceSub, extract_all]; rfl
  simp (disch := decide) only [extract_high, extract_low, Nat.reduceSub, extract_all]

theorem fcmp : ∀ y0 y1 y2 y3, Statement (.fcmp y0 y1 y2 y3) := by
  intro y0 y1 y2 y3 h _ c lit hl
  refine decodeCore_of_raw (by decide) ?_ h
  unfold rawDecode
  rw [opOf_packCore, restOf_packCore]
  dsimp only
  rw [unpackA_packA]
  refine (if_pos ?_).trans ?_
  · simp (disch := decide) only [extract_high, extract_low, Nat.reduceSub, extract_all]; rfl
  simp (disch := decide) only [extract_high, extract_low, Nat.reduceSub, extract_all]

theorem fclass : ∀ y0 y1, Statement (.fclass y0 y1) := by
  intro y0 y1 h _ c lit hl
  refine decodeCore_of_raw (by decide) ?_ h
  unfold rawDecode
  rw [opOf_packCore, restOf_packCore]
  dsimp only
  rw [unpackA_packA]
  refine (if_pos ?_).trans ?_
  · simp (disch := decide) only [extract_high, extract_low, Nat.reduceSub, extract_all]; rfl
  simp (disch := decide) only [extract_high, extract_low, Nat.reduceSub, extract_all]

theorem fscale : ∀ y0 y1 y2 y3, Statement (.fscale y0 y1 y2 y3) := by
  intro y0 y1 y2 y3 h _ c lit hl
  refine decodeCore_of_raw (by decide) ?_ h
  unfold rawDecode
  rw [opOf_packCore, restOf_packCore]
  dsimp only
  rw [unpackA_packA]
  rfl

theorem frcp : ∀ y0 y1 y2, Statement (.frcp y0 y1 y2) := by
  intro y0 y1 y2 h _ c lit hl
  refine decodeCore_of_raw (by decide) ?_ h
  unfold rawDecode
  rw [opOf_packCore, restOf_packCore]
  dsimp only
  rw [unpackA_packA]
  refine (if_pos ?_).trans ?_
  · simp (disch := decide) only [extract_high, extract_low, Nat.reduceSub, extract_all]; rfl
  simp (disch := decide) only [extract_high, extract_low, Nat.reduceSub, extract_all]

theorem frsq : ∀ y0 y1 y2, Statement (.frsq y0 y1 y2) := by
  intro y0 y1 y2 h _ c lit hl
  refine decodeCore_of_raw (by decide) ?_ h
  unfold rawDecode
  rw [opOf_packCore, restOf_packCore]
  dsimp only
  rw [unpackA_packA]
  refine (if_neg ?_).trans ?_
  · (simp (disch := decide) only [extract_high, extract_low, Nat.reduceSub, extract_all]; simp)
  refine (if_pos ?_).trans ?_
  · simp (disch := decide) only [extract_high, extract_low, Nat.reduceSub, extract_all]; rfl
  simp (disch := decide) only [extract_high, extract_low, Nat.reduceSub, extract_all]

theorem fsqrt : ∀ y0 y1 y2, Statement (.fsqrt y0 y1 y2) := by
  intro y0 y1 y2 h _ c lit hl
  refine decodeCore_of_raw (by decide) ?_ h
  unfold rawDecode
  rw [opOf_packCore, restOf_packCore]
  dsimp only
  rw [unpackA_packA]
  refine (if_neg ?_).trans ?_
  · (simp (disch := decide) only [extract_high, extract_low, Nat.reduceSub, extract_all]; simp)
  refine (if_neg ?_).trans ?_
  · (simp (disch := decide) only [extract_high, extract_low, Nat.reduceSub, extract_all]; simp)
  refine (if_pos ?_).trans ?_
  · simp (disch := decide) only [extract_high, extract_low, Nat.reduceSub, extract_all]; rfl
  simp (disch := decide) only [extract_high, extract_low, Nat.reduceSub, extract_all]

theorem fexp2 : ∀ y0 y1 y2, Statement (.fexp2 y0 y1 y2) := by
  intro y0 y1 y2 h _ c lit hl
  refine decodeCore_of_raw (by decide) ?_ h
  unfold rawDecode
  rw [opOf_packCore, restOf_packCore]
  dsimp only
  rw [unpackA_packA]
  refine (if_neg ?_).trans ?_
  · (simp (disch := decide) only [extract_high, extract_low, Nat.reduceSub, extract_all]; simp)
  refine (if_neg ?_).trans ?_
  · (simp (disch := decide) only [extract_high, extract_low, Nat.reduceSub, extract_all]; simp)
  refine (if_neg ?_).trans ?_
  · (simp (disch := decide) only [extract_high, extract_low, Nat.reduceSub, extract_all]; simp)
  refine (if_pos ?_).trans ?_
  · simp (disch := decide) only [extract_high, extract_low, Nat.reduceSub, extract_all]; rfl
  simp (disch := decide) only [extract_high, extract_low, Nat.reduceSub, extract_all]

theorem flog2 : ∀ y0 y1 y2, Statement (.flog2 y0 y1 y2) := by
  intro y0 y1 y2 h _ c lit hl
  refine decodeCore_of_raw (by decide) ?_ h
  unfold rawDecode
  rw [opOf_packCore, restOf_packCore]
  dsimp only
  rw [unpackA_packA]
  refine (if_neg ?_).trans ?_
  · (simp (disch := decide) only [extract_high, extract_low, Nat.reduceSub, extract_all]; simp)
  refine (if_neg ?_).trans ?_
  · (simp (disch := decide) only [extract_high, extract_low, Nat.reduceSub, extract_all]; simp)
  refine (if_neg ?_).trans ?_
  · (simp (disch := decide) only [extract_high, extract_low, Nat.reduceSub, extract_all]; simp)
  refine (if_neg ?_).trans ?_
  · (simp (disch := decide) only [extract_high, extract_low, Nat.reduceSub, extract_all]; simp)
  refine (if_pos ?_).trans ?_
  · simp (disch := decide) only [extract_high, extract_low, Nat.reduceSub, extract_all]; rfl
  simp (disch := decide) only [extract_high, extract_low, Nat.reduceSub, extract_all]

theorem fsin : ∀ y0 y1 y2, Statement (.fsin y0 y1 y2) := by
  intro y0 y1 y2 h _ c lit hl
  refine decodeCore_of_raw (by decide) ?_ h
  unfold rawDecode
  rw [opOf_packCore, restOf_packCore]
  dsimp only
  rw [unpackA_packA]
  refine (if_neg ?_).trans ?_
  · (simp (disch := decide) only [extract_high, extract_low, Nat.reduceSub, extract_all]; simp)
  refine (if_neg ?_).trans ?_
  · (simp (disch := decide) only [extract_high, extract_low, Nat.reduceSub, extract_all]; simp)
  refine (if_neg ?_).trans ?_
  · (simp (disch := decide) only [extract_high, extract_low, Nat.reduceSub, extract_all]; simp)
  refine (if_neg ?_).trans ?_
  · (simp (disch := decide) only [extract_high, extract_low, Nat.reduceSub, extract_all]; simp)
  refine (if_neg ?_).trans ?_
  · (simp (disch := decide) only [extract_high, extract_low, Nat.reduceSub, extract_all]; simp)
  refine (if_pos ?_).trans ?_
  · simp (disch := decide) only [extract_high, extract_low, Nat.reduceSub, extract_all]; rfl
  simp (disch := decide) only [extract_high, extract_low, Nat.reduceSub, extract_all]

theorem fcos : ∀ y0 y1 y2, Statement (.fcos y0 y1 y2) := by
  intro y0 y1 y2 h _ c lit hl
  refine decodeCore_of_raw (by decide) ?_ h
  unfold rawDecode
  rw [opOf_packCore, restOf_packCore]
  dsimp only
  rw [unpackA_packA]
  refine (if_neg ?_).trans ?_
  · (simp (disch := decide) only [extract_high, extract_low, Nat.reduceSub, extract_all]; simp)
  refine (if_neg ?_).trans ?_
  · (simp (disch := decide) only [extract_high, extract_low, Nat.reduceSub, extract_all]; simp)
  refine (if_neg ?_).trans ?_
  · (simp (disch := decide) only [extract_high, extract_low, Nat.reduceSub, extract_all]; simp)
  refine (if_neg ?_).trans ?_
  · (simp (disch := decide) only [extract_high, extract_low, Nat.reduceSub, extract_all]; simp)
  refine (if_neg ?_).trans ?_
  · (simp (disch := decide) only [extract_high, extract_low, Nat.reduceSub, extract_all]; simp)
  refine (if_neg ?_).trans ?_
  · (simp (disch := decide) only [extract_high, extract_low, Nat.reduceSub, extract_all]; simp)
  refine (if_pos ?_).trans ?_
  · simp (disch := decide) only [extract_high, extract_low, Nat.reduceSub, extract_all]; rfl
  simp (disch := decide) only [extract_high, extract_low, Nat.reduceSub, extract_all]

theorem ftanh : ∀ y0 y1 y2, Statement (.ftanh y0 y1 y2) := by
  intro y0 y1 y2 h _ c lit hl
  refine decodeCore_of_raw (by decide) ?_ h
  unfold rawDecode
  rw [opOf_packCore, restOf_packCore]
  dsimp only
  rw [unpackA_packA]
  refine (if_neg ?_).trans ?_
  · (simp (disch := decide) only [extract_high, extract_low, Nat.reduceSub, extract_all]; simp)
  refine (if_neg ?_).trans ?_
  · (simp (disch := decide) only [extract_high, extract_low, Nat.reduceSub, extract_all]; simp)
  refine (if_neg ?_).trans ?_
  · (simp (disch := decide) only [extract_high, extract_low, Nat.reduceSub, extract_all]; simp)
  refine (if_neg ?_).trans ?_
  · (simp (disch := decide) only [extract_high, extract_low, Nat.reduceSub, extract_all]; simp)
  refine (if_neg ?_).trans ?_
  · (simp (disch := decide) only [extract_high, extract_low, Nat.reduceSub, extract_all]; simp)
  refine (if_neg ?_).trans ?_
  · (simp (disch := decide) only [extract_high, extract_low, Nat.reduceSub, extract_all]; simp)
  refine (if_neg ?_).trans ?_
  · (simp (disch := decide) only [extract_high, extract_low, Nat.reduceSub, extract_all]; simp)
  refine (if_pos ?_).trans ?_
  · simp (disch := decide) only [extract_high, extract_low, Nat.reduceSub, extract_all]; rfl
  simp (disch := decide) only [extract_high, extract_low, Nat.reduceSub, extract_all]

theorem bfadd2 : ∀ y0 y1 y2 y3, Statement (.bfadd2 y0 y1 y2 y3) := by
  intro y0 y1 y2 y3 h _ c lit hl
  refine decodeCore_of_raw (by decide) ?_ h
  unfold rawDecode
  rw [opOf_packCore, restOf_packCore]
  dsimp only
  rw [unpackA_packA]
  rfl

theorem bfmul2 : ∀ y0 y1 y2 y3, Statement (.bfmul2 y0 y1 y2 y3) := by
  intro y0 y1 y2 y3 h _ c lit hl
  refine decodeCore_of_raw (by decide) ?_ h
  unfold rawDecode
  rw [opOf_packCore, restOf_packCore]
  dsimp only
  rw [unpackA_packA]
  rfl

theorem bffma2 : ∀ y0 y1 y2 y3, Statement (.bffma2 y0 y1 y2 y3) := by
  intro y0 y1 y2 y3 h _ c lit hl
  refine decodeCore_of_raw (by decide) ?_ h
  unfold rawDecode
  rw [opOf_packCore, restOf_packCore]
  dsimp only
  rw [unpackA_packA]
  rfl

theorem cvtFloatToFloat : ∀ y0 y1 y2 y3 y4 y5, Statement (.cvtFloatToFloat y0 y1 y2 y3 y4 y5) := by
  intro y0 y1 y2 y3 y4 y5 h _ c lit hl
  refine decodeCore_of_raw (by decide) ?_ h
  unfold rawDecode
  rw [opOf_packCore, restOf_packCore]
  dsimp only
  rw [unpackA_packA]
  show Except.ok _ = Except.ok _
  simp (disch := decide) only [extract_high, extract_low, Nat.reduceSub, extract_all]

theorem cvtFloatToInteger : ∀ y0 y1 y2 y3 y4 y5, Statement (.cvtFloatToInteger y0 y1 y2 y3 y4 y5) := by
  intro y0 y1 y2 y3 y4 y5 h _ c lit hl
  refine decodeCore_of_raw (by decide) ?_ h
  unfold rawDecode
  rw [opOf_packCore, restOf_packCore]
  dsimp only
  rw [unpackA_packA]
  show Except.ok _ = Except.ok _
  simp (disch := decide) only [extract_high, extract_low, Nat.reduceSub, extract_all]

theorem cvtIntegerToFloat : ∀ y0 y1 y2 y3 y4 y5, Statement (.cvtIntegerToFloat y0 y1 y2 y3 y4 y5) := by
  intro y0 y1 y2 y3 y4 y5 h _ c lit hl
  refine decodeCore_of_raw (by decide) ?_ h
  unfold rawDecode
  rw [opOf_packCore, restOf_packCore]
  dsimp only
  rw [unpackA_packA]
  show Except.ok _ = Except.ok _
  simp (disch := decide) only [extract_high, extract_low, Nat.reduceSub, extract_all]

theorem cvtIntegerToInteger : ∀ y0 y1 y2 y3 y4 y5, Statement (.cvtIntegerToInteger y0 y1 y2 y3 y4 y5) := by
  intro y0 y1 y2 y3 y4 y5 h _ c lit hl
  refine decodeCore_of_raw (by decide) ?_ h
  unfold rawDecode
  rw [opOf_packCore, restOf_packCore]
  dsimp only
  rw [unpackA_packA]
  show Except.ok _ = Except.ok _
  simp (disch := decide) only [extract_high, extract_low, Nat.reduceSub, extract_all]

theorem sclx : ∀ y0 y1 y2, Statement (.sclx y0 y1 y2) := by
  intro y0 y1 y2 h _ c lit hl
  refine decodeCore_of_raw (by decide) ?_ h
  unfold rawDecode
  rw [opOf_packCore, restOf_packCore]
  dsimp only
  rw [unpackA_packA]
  refine (if_pos ?_).trans ?_
  · simp (disch := decide) only [extract_high, extract_low, Nat.reduceSub, extract_all]; rfl
  simp (disch := decide) only [extract_high, extract_low, Nat.reduceSub, extract_all]

theorem lsupd : ∀ y0, Statement (.lsupd y0) := by
  intro y0 h _ c lit hl
  refine decodeCore_of_raw (by decide) ?_ h
  unfold rawDecode
  rw [opOf_packCore, restOf_packCore]
  dsimp only
  rw [unpackA_packA]
  refine (if_pos ?_).trans ?_
  · simp (disch := decide) only [extract_high, extract_low, Nat.reduceSub, extract_all]; rfl
  simp (disch := decide) only [extract_high, extract_low, Nat.reduceSub, extract_all]

theorem ldgN8 : ∀ y0 y1 y2 y3, Statement (.ldgN8 y0 y1 y2 y3) := by
  intro y0 y1 y2 y3 h _ c lit hl
  refine decodeCore_of_raw (by decide) ?_ h
  unfold rawDecode
  rw [opOf_packCore, restOf_packCore]
  dsimp only
  rw [unpackM_packM]
  rfl

theorem ldgN16 : ∀ y0 y1 y2 y3, Statement (.ldgN16 y0 y1 y2 y3) := by
  intro y0 y1 y2 y3 h _ c lit hl
  refine decodeCore_of_raw (by decide) ?_ h
  unfold rawDecode
  rw [opOf_packCore, restOf_packCore]
  dsimp only
  rw [unpackM_packM]
  rfl

theorem ldgI32 : ∀ y0 y1 y2 y3, Statement (.ldgI32 y0 y1 y2 y3) := by
  intro y0 y1 y2 y3 h _ c lit hl
  refine decodeCore_of_raw (by decide) ?_ h
  unfold rawDecode
  rw [opOf_packCore, restOf_packCore]
  dsimp only
  rw [unpackM_packM]
  rfl

theorem ldgI64 : ∀ y0 y1 y2 y3, Statement (.ldgI64 y0 y1 y2 y3) := by
  intro y0 y1 y2 y3 h _ c lit hl
  refine decodeCore_of_raw (by decide) ?_ h
  unfold rawDecode
  rw [opOf_packCore, restOf_packCore]
  dsimp only
  rw [unpackM_packM]
  rfl

theorem ldgB128 : ∀ y0 y1 y2 y3, Statement (.ldgB128 y0 y1 y2 y3) := by
  intro y0 y1 y2 y3 h _ c lit hl
  refine decodeCore_of_raw (by decide) ?_ h
  unfold rawDecode
  rw [opOf_packCore, restOf_packCore]
  dsimp only
  rw [unpackM_packM]
  rfl

theorem ldtN8 : ∀ y0 y1 y2 y3, Statement (.ldtN8 y0 y1 y2 y3) := by
  intro y0 y1 y2 y3 h _ c lit hl
  refine decodeCore_of_raw (by decide) ?_ h
  unfold rawDecode
  rw [opOf_packCore, restOf_packCore]
  dsimp only
  rw [unpackM_packM]
  rfl

theorem ldtN16 : ∀ y0 y1 y2 y3, Statement (.ldtN16 y0 y1 y2 y3) := by
  intro y0 y1 y2 y3 h _ c lit hl
  refine decodeCore_of_raw (by decide) ?_ h
  unfold rawDecode
  rw [opOf_packCore, restOf_packCore]
  dsimp only
  rw [unpackM_packM]
  rfl

theorem ldtI32 : ∀ y0 y1 y2 y3, Statement (.ldtI32 y0 y1 y2 y3) := by
  intro y0 y1 y2 y3 h _ c lit hl
  refine decodeCore_of_raw (by decide) ?_ h
  unfold rawDecode
  rw [opOf_packCore, restOf_packCore]
  dsimp only
  rw [unpackM_packM]
  rfl

theorem ldtI64 : ∀ y0 y1 y2 y3, Statement (.ldtI64 y0 y1 y2 y3) := by
  intro y0 y1 y2 y3 h _ c lit hl
  refine decodeCore_of_raw (by decide) ?_ h
  unfold rawDecode
  rw [opOf_packCore, restOf_packCore]
  dsimp only
  rw [unpackM_packM]
  rfl

theorem ldtB128 : ∀ y0 y1 y2 y3, Statement (.ldtB128 y0 y1 y2 y3) := by
  intro y0 y1 y2 y3 h _ c lit hl
  refine decodeCore_of_raw (by decide) ?_ h
  unfold rawDecode
  rw [opOf_packCore, restOf_packCore]
  dsimp only
  rw [unpackM_packM]
  rfl

theorem lddN8 : ∀ y0 y1 y2 y3, Statement (.lddN8 y0 y1 y2 y3) := by
  intro y0 y1 y2 y3 h _ c lit hl
  refine decodeCore_of_raw (by decide) ?_ h
  unfold rawDecode
  rw [opOf_packCore, restOf_packCore]
  dsimp only
  rw [unpackM_packM]
  rfl

theorem lddN16 : ∀ y0 y1 y2 y3, Statement (.lddN16 y0 y1 y2 y3) := by
  intro y0 y1 y2 y3 h _ c lit hl
  refine decodeCore_of_raw (by decide) ?_ h
  unfold rawDecode
  rw [opOf_packCore, restOf_packCore]
  dsimp only
  rw [unpackM_packM]
  rfl

theorem lddI32 : ∀ y0 y1 y2 y3, Statement (.lddI32 y0 y1 y2 y3) := by
  intro y0 y1 y2 y3 h _ c lit hl
  refine decodeCore_of_raw (by decide) ?_ h
  unfold rawDecode
  rw [opOf_packCore, restOf_packCore]
  dsimp only
  rw [unpackM_packM]
  rfl

theorem lddI64 : ∀ y0 y1 y2 y3, Statement (.lddI64 y0 y1 y2 y3) := by
  intro y0 y1 y2 y3 h _ c lit hl
  refine decodeCore_of_raw (by decide) ?_ h
  unfold rawDecode
  rw [opOf_packCore, restOf_packCore]
  dsimp only
  rw [unpackM_packM]
  rfl

theorem lddB128 : ∀ y0 y1 y2 y3, Statement (.lddB128 y0 y1 y2 y3) := by
  intro y0 y1 y2 y3 h _ c lit hl
  refine decodeCore_of_raw (by decide) ?_ h
  unfold rawDecode
  rw [opOf_packCore, restOf_packCore]
  dsimp only
  rw [unpackM_packM]
  rfl

theorem ldk : ∀ y0 y1 y2 y3, Statement (.ldk y0 y1 y2 y3) := by
  intro y0 y1 y2 y3 h _ c lit hl
  refine decodeCore_of_raw (by decide) ?_ h
  unfold rawDecode
  rw [opOf_packCore, restOf_packCore]
  dsimp only
  rw [unpackK_packK]
  rfl

theorem stg : ∀ y0 y1 y2 y3, Statement (.stg y0 y1 y2 y3) := by
  intro y0 y1 y2 y3 h _ c lit hl
  refine decodeCore_of_raw (by decide) ?_ h
  unfold rawDecode
  rw [opOf_packCore, restOf_packCore]
  dsimp only
  rw [unpackM_packM]
  refine (if_pos ?_).trans ?_
  · simp (disch := decide) only [extract_high, extract_low, Nat.reduceSub, extract_all]; rfl
  simp (disch := decide) only [extract_high, extract_low, Nat.reduceSub, extract_all]

theorem stt : ∀ y0 y1 y2 y3, Statement (.stt y0 y1 y2 y3) := by
  intro y0 y1 y2 y3 h _ c lit hl
  refine decodeCore_of_raw (by decide) ?_ h
  unfold rawDecode
  rw [opOf_packCore, restOf_packCore]
  dsimp only
  rw [unpackM_packM]
  refine (if_pos ?_).trans ?_
  · simp (disch := decide) only [extract_high, extract_low, Nat.reduceSub, extract_all]; rfl
  simp (disch := decide) only [extract_high, extract_low, Nat.reduceSub, extract_all]

theorem std : ∀ y0 y1 y2 y3, Statement (.std y0 y1 y2 y3) := by
  intro y0 y1 y2 y3 h _ c lit hl
  refine decodeCore_of_raw (by decide) ?_ h
  unfold rawDecode
  rw [opOf_packCore, restOf_packCore]
  dsimp only
  rw [unpackM_packM]
  refine (if_pos ?_).trans ?_
  · simp (disch := decide) only [extract_high, extract_low, Nat.reduceSub, extract_all]; rfl
  simp (disch := decide) only [extract_high, extract_low, Nat.reduceSub, extract_all]

theorem stk : ∀ y0 y1 y2, Statement (.stk y0 y1 y2) := by
  intro y0 y1 y2 h _ c lit hl
  refine decodeCore_of_raw (by decide) ?_ h
  unfold rawDecode
  rw [opOf_packCore, restOf_packCore]
  dsimp only
  rw [unpackK_packK]
  refine (if_pos ?_).trans ?_
  · simp (disch := decide) only [extract_high, extract_low, Nat.reduceSub, extract_all]; rfl
  simp (disch := decide) only [extract_high, extract_low, Nat.reduceSub, extract_all]

theorem pref : ∀ y0 y1, Statement (.pref y0 y1) := by
  intro y0 y1 h _ c lit hl
  refine decodeCore_of_raw (by decide) ?_ h
  unfold rawDecode
  rw [opOf_packCore, restOf_packCore]
  dsimp only
  rw [unpackM_packM]
  refine (if_pos ?_).trans ?_
  · simp (disch := decide) only [extract_high, extract_low, Nat.reduceSub, extract_all]; rfl
  simp (disch := decide) only [extract_high, extract_low, Nat.reduceSub, extract_all]

theorem discard : ∀ y0 y1, Statement (.discard y0 y1) := by
  intro y0 y1 h _ c lit hl
  refine decodeCore_of_raw (by decide) ?_ h
  unfold rawDecode
  rw [opOf_packCore, restOf_packCore]
  dsimp only
  rw [unpackM_packM]
  refine (if_neg ?_).trans ?_
  · (simp (disch := decide) only [extract_high, extract_low, Nat.reduceSub, extract_all]; simp)
  refine (if_pos ?_).trans ?_
  · simp (disch := decide) only [extract_high, extract_low, Nat.reduceSub, extract_all]; rfl
  simp (disch := decide) only [extract_high, extract_low, Nat.reduceSub, extract_all]

theorem flush : ∀ y0 y1, Statement (.flush y0 y1) := by
  intro y0 y1 h _ c lit hl
  refine decodeCore_of_raw (by decide) ?_ h
  unfold rawDecode
  rw [opOf_packCore, restOf_packCore]
  dsimp only
  rw [unpackM_packM]
  refine (if_neg ?_).trans ?_
  · (simp (disch := decide) only [extract_high, extract_low, Nat.reduceSub, extract_all]; simp)
  refine (if_neg ?_).trans ?_
  · (simp (disch := decide) only [extract_high, extract_low, Nat.reduceSub, extract_all]; simp)
  refine (if_pos ?_).trans ?_
  · simp (disch := decide) only [extract_high, extract_low, Nat.reduceSub, extract_all]; rfl
  simp (disch := decide) only [extract_high, extract_low, Nat.reduceSub, extract_all]

theorem aadd : ∀ y0 y1 y2 y3, Statement (.aadd y0 y1 y2 y3) := by
  intro y0 y1 y2 y3 h _ c lit hl
  refine decodeCore_of_raw (by decide) ?_ h
  unfold rawDecode
  rw [opOf_packCore, restOf_packCore]
  dsimp only
  rw [unpackA_packA]
  refine (if_pos ?_).trans ?_
  · simp (disch := decide) only [extract_high, extract_low, Nat.reduceSub, extract_all]; rfl
  simp (disch := decide) only [extract_high, extract_low, Nat.reduceSub, extract_all]

theorem amin : ∀ y0 y1 y2 y3 y4, Statement (.amin y0 y1 y2 y3 y4) := by
  intro y0 y1 y2 y3 y4 h _ c lit hl
  refine decodeCore_of_raw (by decide) ?_ h
  unfold rawDecode
  rw [opOf_packCore, restOf_packCore]
  dsimp only
  rw [unpackA_packA]
  refine (if_neg ?_).trans ?_
  · (simp (disch := decide) only [extract_high, extract_low, Nat.reduceSub, extract_all]; simp)
  refine (if_pos ?_).trans ?_
  · simp (disch := decide) only [extract_high, extract_low, Nat.reduceSub, extract_all]; rfl
  simp (disch := decide) only [extract_high, extract_low, Nat.reduceSub, extract_all]

theorem amax : ∀ y0 y1 y2 y3 y4, Statement (.amax y0 y1 y2 y3 y4) := by
  intro y0 y1 y2 y3 y4 h _ c lit hl
  refine decodeCore_of_raw (by decide) ?_ h
  unfold rawDecode
  rw [opOf_packCore, restOf_packCore]
  dsimp only
  rw [unpackA_packA]
  refine (if_neg ?_).trans ?_
  · (simp (disch := decide) only [extract_high, extract_low, Nat.reduceSub, extract_all]; simp)
  refine (if_neg ?_).trans ?_
  · (simp (disch := decide) only [extract_high, extract_low, Nat.reduceSub, extract_all]; simp)
  refine (if_pos ?_).trans ?_
  · simp (disch := decide) only [extract_high, extract_low, Nat.reduceSub, extract_all]; rfl
  simp (disch := decide) only [extract_high, extract_low, Nat.reduceSub, extract_all]

theorem aand : ∀ y0 y1 y2 y3, Statement (.aand y0 y1 y2 y3) := by
  intro y0 y1 y2 y3 h _ c lit hl
  refine decodeCore_of_raw (by decide) ?_ h
  unfold rawDecode
  rw [opOf_packCore, restOf_packCore]
  dsimp only
  rw [unpackA_packA]
  refine (if_neg ?_).trans ?_
  · (simp (disch := decide) only [extract_high, extract_low, Nat.reduceSub, extract_all]; simp)
  refine (if_neg ?_).trans ?_
  · (simp (disch := decide) only [extract_high, extract_low, Nat.reduceSub, extract_all]; simp)
  refine (if_neg ?_).trans ?_
  · (simp (disch := decide) only [extract_high, extract_low, Nat.reduceSub, extract_all]; simp)
  refine (if_pos ?_).trans ?_
  · simp (disch := decide) only [extract_high, extract_low, Nat.reduceSub, extract_all]; rfl
  simp (disch := decide) only [extract_high, extract_low, Nat.reduceSub, extract_all]

theorem aor : ∀ y0 y1 y2 y3, Statement (.aor y0 y1 y2 y3) := by
  intro y0 y1 y2 y3 h _ c lit hl
  refine decodeCore_of_raw (by decide) ?_ h
  unfold rawDecode
  rw [opOf_packCore, restOf_packCore]
  dsimp only
  rw [unpackA_packA]
  refine (if_neg ?_).trans ?_
  · (simp (disch := decide) only [extract_high, extract_low, Nat.reduceSub, extract_all]; simp)
  refine (if_neg ?_).trans ?_
  · (simp (disch := decide) only [extract_high, extract_low, Nat.reduceSub, extract_all]; simp)
  refine (if_neg ?_).trans ?_
  · (simp (disch := decide) only [extract_high, extract_low, Nat.reduceSub, extract_all]; simp)
  refine (if_neg ?_).trans ?_
  · (simp (disch := decide) only [extract_high, extract_low, Nat.reduceSub, extract_all]; simp)
  refine (if_pos ?_).trans ?_
  · simp (disch := decide) only [extract_high, extract_low, Nat.reduceSub, extract_all]; rfl
  simp (disch := decide) only [extract_high, extract_low, Nat.reduceSub, extract_all]

theorem axor : ∀ y0 y1 y2 y3, Statement (.axor y0 y1 y2 y3) := by
  intro y0 y1 y2 y3 h _ c lit hl
  refine decodeCore_of_raw (by decide) ?_ h
  unfold rawDecode
  rw [opOf_packCore, restOf_packCore]
  dsimp only
  rw [unpackA_packA]
  refine (if_neg ?_).trans ?_
  · (simp (disch := decide) only [extract_high, extract_low, Nat.reduceSub, extract_all]; simp)
  refine (if_neg ?_).trans ?_
  · (simp (disch := decide) only [extract_high, extract_low, Nat.reduceSub, extract_all]; simp)
  refine (if_neg ?_).trans ?_
  · (simp (disch := decide) only [extract_high, extract_low, Nat.reduceSub, extract_all]; simp)
  refine (if_neg ?_).trans ?_
  · (simp (disch := decide) only [extract_high, extract_low, Nat.reduceSub, extract_all]; simp)
  refine (if_neg ?_).trans ?_
  · (simp (disch := decide) only [extract_high, extract_low, Nat.reduceSub, extract_all]; simp)
  refine (if_pos ?_).trans ?_
  · simp (disch := decide) only [extract_high, extract_low, Nat.reduceSub, extract_all]; rfl
  simp (disch := decide) only [extract_high, extract_low, Nat.reduceSub, extract_all]

theorem axch : ∀ y0 y1 y2 y3, Statement (.axch y0 y1 y2 y3) := by
  intro y0 y1 y2 y3 h _ c lit hl
  refine decodeCore_of_raw (by decide) ?_ h
  unfold rawDecode
  rw [opOf_packCore, restOf_packCore]
  dsimp only
  rw [unpackA_packA]
  refine (if_neg ?_).trans ?_
  · (simp (disch := decide) only [extract_high, extract_low, Nat.reduceSub, extract_all]; simp)
  refine (if_neg ?_).trans ?_
  · (simp (disch := decide) only [extract_high, extract_low, Nat.reduceSub, extract_all]; simp)
  refine (if_neg ?_).trans ?_
  · (simp (disch := decide) only [extract_high, extract_low, Nat.reduceSub, extract_all]; simp)
  refine (if_neg ?_).trans ?_
  · (simp (disch := decide) only [extract_high, extract_low, Nat.reduceSub, extract_all]; simp)
  refine (if_neg ?_).trans ?_
  · (simp (disch := decide) only [extract_high, extract_low, Nat.reduceSub, extract_all]; simp)
  refine (if_neg ?_).trans ?_
  · (simp (disch := decide) only [extract_high, extract_low, Nat.reduceSub, extract_all]; simp)
  refine (if_pos ?_).trans ?_
  · simp (disch := decide) only [extract_high, extract_low, Nat.reduceSub, extract_all]; rfl
  simp (disch := decide) only [extract_high, extract_low, Nat.reduceSub, extract_all]

theorem acas : ∀ y0 y1 y2 y3, Statement (.acas y0 y1 y2 y3) := by
  intro y0 y1 y2 y3 h _ c lit hl
  refine decodeCore_of_raw (by decide) ?_ h
  unfold rawDecode
  rw [opOf_packCore, restOf_packCore]
  dsimp only
  rw [unpackA_packA]
  refine (if_neg ?_).trans ?_
  · (simp (disch := decide) only [extract_high, extract_low, Nat.reduceSub, extract_all]; simp)
  refine (if_neg ?_).trans ?_
  · (simp (disch := decide) only [extract_high, extract_low, Nat.reduceSub, extract_all]; simp)
  refine (if_neg ?_).trans ?_
  · (simp (disch := decide) only [extract_high, extract_low, Nat.reduceSub, extract_all]; simp)
  refine (if_neg ?_).trans ?_
  · (simp (disch := decide) only [extract_high, extract_low, Nat.reduceSub, extract_all]; simp)
  refine (if_neg ?_).trans ?_
  · (simp (disch := decide) only [extract_high, extract_low, Nat.reduceSub, extract_all]; simp)
  refine (if_neg ?_).trans ?_
  · (simp (disch := decide) only [extract_high, extract_low, Nat.reduceSub, extract_all]; simp)
  refine (if_neg ?_).trans ?_
  · (simp (disch := decide) only [extract_high, extract_low, Nat.reduceSub, extract_all]; simp)
  refine (if_pos ?_).trans ?_
  · simp (disch := decide) only [extract_high, extract_low, Nat.reduceSub, extract_all]; rfl
  simp (disch := decide) only [extract_high, extract_low, Nat.reduceSub, extract_all]

theorem afadd : ∀ y0 y1 y2 y3, Statement (.afadd y0 y1 y2 y3) := by
  intro y0 y1 y2 y3 h _ c lit hl
  refine decodeCore_of_raw (by decide) ?_ h
  unfold rawDecode
  rw [opOf_packCore, restOf_packCore]
  dsimp only
  rw [unpackA_packA]
  refine (if_neg ?_).trans ?_
  · (simp (disch := decide) only [extract_high, extract_low, Nat.reduceSub, extract_all]; simp)
  refine (if_neg ?_).trans ?_
  · (simp (disch := decide) only [extract_high, extract_low, Nat.reduceSub, extract_all]; simp)
  refine (if_neg ?_).trans ?_
  · (simp (disch := decide) only [extract_high, extract_low, Nat.reduceSub, extract_all]; simp)
  refine (if_neg ?_).trans ?_
  · (simp (disch := decide) only [extract_high, extract_low, Nat.reduceSub, extract_all]; simp)
  refine (if_neg ?_).trans ?_
  · (simp (disch := decide) only [extract_high, extract_low, Nat.reduceSub, extract_all]; simp)
  refine (if_neg ?_).trans ?_
  · (simp (disch := decide) only [extract_high, extract_low, Nat.reduceSub, extract_all]; simp)
  refine (if_neg ?_).trans ?_
  · (simp (disch := decide) only [extract_high, extract_low, Nat.reduceSub, extract_all]; simp)
  refine (if_neg ?_).trans ?_
  · (simp (disch := decide) only [extract_high, extract_low, Nat.reduceSub, extract_all]; simp)
  refine (if_pos ?_).trans ?_
  · simp (disch := decide) only [extract_high, extract_low, Nat.reduceSub, extract_all]; rfl
  simp (disch := decide) only [extract_high, extract_low, Nat.reduceSub, extract_all]

theorem tkfadd : ∀ y0 y1 y2, Statement (.tkfadd y0 y1 y2) := by
  intro y0 y1 y2 h _ c lit hl
  refine decodeCore_of_raw (by decide) ?_ h
  unfold rawDecode
  rw [opOf_packCore, restOf_packCore]
  dsimp only
  rw [unpackA_packA]
  refine (if_neg ?_).trans ?_
  · (simp (disch := decide) only [extract_high, extract_low, Nat.reduceSub, extract_all]; simp)
  refine (if_neg ?_).trans ?_
  · (simp (disch := decide) only [extract_high, extract_low, Nat.reduceSub, extract_all]; simp)
  refine (if_neg ?_).trans ?_
  · (simp (disch := decide) only [extract_high, extract_low, Nat.reduceSub, extract_all]; simp)
  refine (if_neg ?_).trans ?_
  · (simp (disch := decide) only [extract_high, extract_low, Nat.reduceSub, extract_all]; simp)
  refine (if_neg ?_).trans ?_
  · (simp (disch := decide) only [extract_high, extract_low, Nat.reduceSub, extract_all]; simp)
  refine (if_neg ?_).trans ?_
  · (simp (disch := decide) only [extract_high, extract_low, Nat.reduceSub, extract_all]; simp)
  refine (if_neg ?_).trans ?_
  · (simp (disch := decide) only [extract_high, extract_low, Nat.reduceSub, extract_all]; simp)
  refine (if_neg ?_).trans ?_
  · (simp (disch := decide) only [extract_high, extract_low, Nat.reduceSub, extract_all]; simp)
  refine (if_neg ?_).trans ?_
  · (simp (disch := decide) only [extract_high, extract_low, Nat.reduceSub, extract_all]; simp)
  refine (if_pos ?_).trans ?_
  · simp (disch := decide) only [extract_high, extract_low, Nat.reduceSub, extract_all]; rfl
  simp (disch := decide) only [extract_high, extract_low, Nat.reduceSub, extract_all]

theorem tkreg : ∀ y0 y1, Statement (.tkreg y0 y1) := by
  intro y0 y1 h _ c lit hl
  refine decodeCore_of_raw (by decide) ?_ h
  unfold rawDecode
  rw [opOf_packCore, restOf_packCore]
  dsimp only
  rw [unpackT_packT]
  refine (if_pos ?_).trans ?_
  · simp (disch := decide) only [extract_high, extract_low, Nat.reduceSub, extract_all]; rfl
  simp (disch := decide) only [extract_high, extract_low, Nat.reduceSub, extract_all]

theorem tkskip : ∀ y0 y1, Statement (.tkskip y0 y1) := by
  intro y0 y1 h _ c lit hl
  refine decodeCore_of_raw (by decide) ?_ h
  unfold rawDecode
  rw [opOf_packCore, restOf_packCore]
  dsimp only
  rw [unpackT_packT]
  refine (if_neg ?_).trans ?_
  · (simp (disch := decide) only [extract_high, extract_low, Nat.reduceSub, extract_all]; simp)
  refine (if_pos ?_).trans ?_
  · simp (disch := decide) only [extract_high, extract_low, Nat.reduceSub, extract_all]; rfl
  simp (disch := decide) only [extract_high, extract_low, Nat.reduceSub, extract_all]

theorem tkfence : ∀ y0, Statement (.tkfence y0) := by
  intro y0 h _ c lit hl
  refine decodeCore_of_raw (by decide) ?_ h
  unfold rawDecode
  rw [opOf_packCore, restOf_packCore]
  dsimp only
  rw [unpackT_packT]
  refine (if_neg ?_).trans ?_
  · (simp (disch := decide) only [extract_high, extract_low, Nat.reduceSub, extract_all]; simp)
  refine (if_neg ?_).trans ?_
  · (simp (disch := decide) only [extract_high, extract_low, Nat.reduceSub, extract_all]; simp)
  refine (if_pos ?_).trans ?_
  · simp (disch := decide) only [extract_high, extract_low, Nat.reduceSub, extract_all]; rfl
  simp (disch := decide) only [extract_high, extract_low, Nat.reduceSub, extract_all]

theorem tkqry : ∀ y0 y1 y2, Statement (.tkqry y0 y1 y2) := by
  intro y0 y1 y2 h _ c lit hl
  refine decodeCore_of_raw (by decide) ?_ h
  unfold rawDecode
  rw [opOf_packCore, restOf_packCore]
  dsimp only
  rw [unpackT_packT]
  refine (if_neg ?_).trans ?_
  · (simp (disch := decide) only [extract_high, extract_low, Nat.reduceSub, extract_all]; simp)
  refine (if_neg ?_).trans ?_
  · (simp (disch := decide) only [extract_high, extract_low, Nat.reduceSub, extract_all]; simp)
  refine (if_neg ?_).trans ?_
  · (simp (disch := decide) only [extract_high, extract_low, Nat.reduceSub, extract_all]; simp)
  refine (if_pos ?_).trans ?_
  · simp (disch := decide) only [extract_high, extract_low, Nat.reduceSub, extract_all]; rfl
  simp (disch := decide) only [extract_high, extract_low, Nat.reduceSub, extract_all]

theorem fenceAcq : ∀ y0, Statement (.fenceAcq y0) := by
  intro y0 h _ c lit hl
  refine decodeCore_of_raw (by decide) ?_ h
  unfold rawDecode
  rw [opOf_packCore, restOf_packCore]
  dsimp only
  rw [unpackT_packT]
  refine (if_pos ?_).trans ?_
  · simp (disch := decide) only [extract_high, extract_low, Nat.reduceSub, extract_all]; rfl
  simp (disch := decide) only [extract_high, extract_low, Nat.reduceSub, extract_all]

theorem fenceRel : ∀ y0, Statement (.fenceRel y0) := by
  intro y0 h _ c lit hl
  refine decodeCore_of_raw (by decide) ?_ h
  unfold rawDecode
  rw [opOf_packCore, restOf_packCore]
  dsimp only
  rw [unpackT_packT]
  refine (if_neg ?_).trans ?_
  · (simp (disch := decide) only [extract_high, extract_low, Nat.reduceSub, extract_all]; simp)
  refine (if_pos ?_).trans ?_
  · simp (disch := decide) only [extract_high, extract_low, Nat.reduceSub, extract_all]; rfl
  simp (disch := decide) only [extract_high, extract_low, Nat.reduceSub, extract_all]

theorem fenceAr : ∀ y0, Statement (.fenceAr y0) := by
  intro y0 h _ c lit hl
  refine decodeCore_of_raw (by decide) ?_ h
  unfold rawDecode
  rw [opOf_packCore, restOf_packCore]
  dsimp only
  rw [unpackT_packT]
  refine (if_neg ?_).trans ?_
  · (simp (disch := decide) only [extract_high, extract_low, Nat.reduceSub, extract_all]; simp)
  refine (if_neg ?_).trans ?_
  · (simp (disch := decide) only [extract_high, extract_low, Nat.reduceSub, extract_all]; simp)
  refine (if_pos ?_).trans ?_
  · simp (disch := decide) only [extract_high, extract_low, Nat.reduceSub, extract_all]; rfl
  simp (disch := decide) only [extract_high, extract_low, Nat.reduceSub, extract_all]

theorem bar : Statement .bar := by
  intro h _ c lit hl
  refine decodeCore_of_raw (by decide) ?_ h
  unfold rawDecode
  rw [opOf_packCore, restOf_packCore]
  dsimp only
  rw [unpackT_packT]
  refine (if_neg ?_).trans ?_
  · (simp (disch := decide) only [extract_high, extract_low, Nat.reduceSub, extract_all]; simp)
  refine (if_neg ?_).trans ?_
  · (simp (disch := decide) only [extract_high, extract_low, Nat.reduceSub, extract_all]; simp)
  refine (if_neg ?_).trans ?_
  · (simp (disch := decide) only [extract_high, extract_low, Nat.reduceSub, extract_all]; simp)
  refine (if_pos ?_).trans ?_
  · simp (disch := decide) only [extract_high, extract_low, Nat.reduceSub, extract_all]; rfl
  simp (disch := decide) only [extract_high, extract_low, Nat.reduceSub, extract_all]

theorem barrive : ∀ y0 y1 y2 y3, Statement (.barrive y0 y1 y2 y3) := by
  intro y0 y1 y2 y3 h _ c lit hl
  refine decodeCore_of_raw (by decide) ?_ h
  unfold rawDecode
  rw [opOf_packCore, restOf_packCore]
  dsimp only
  rw [unpackT_packT]
  refine (if_neg ?_).trans ?_
  · (simp (disch := decide) only [extract_high, extract_low, Nat.reduceSub, extract_all]; simp)
  refine (if_neg ?_).trans ?_
  · (simp (disch := decide) only [extract_high, extract_low, Nat.reduceSub, extract_all]; simp)
  refine (if_neg ?_).trans ?_
  · (simp (disch := decide) only [extract_high, extract_low, Nat.reduceSub, extract_all]; simp)
  refine (if_neg ?_).trans ?_
  · (simp (disch := decide) only [extract_high, extract_low, Nat.reduceSub, extract_all]; simp)
  refine (if_pos ?_).trans ?_
  · simp (disch := decide) only [extract_high, extract_low, Nat.reduceSub, extract_all]; rfl
  simp (disch := decide) only [extract_high, extract_low, Nat.reduceSub, extract_all]

theorem bwait : ∀ y0 y1 y2, Statement (.bwait y0 y1 y2) := by
  intro y0 y1 y2 h _ c lit hl
  refine decodeCore_of_raw (by decide) ?_ h
  unfold rawDecode
  rw [opOf_packCore, restOf_packCore]
  dsimp only
  rw [unpackT_packT]
  refine (if_neg ?_).trans ?_
  · (simp (disch := decide) only [extract_high, extract_low, Nat.reduceSub, extract_all]; simp)
  refine (if_neg ?_).trans ?_
  · (simp (disch := decide) only [extract_high, extract_low, Nat.reduceSub, extract_all]; simp)
  refine (if_neg ?_).trans ?_
  · (simp (disch := decide) only [extract_high, extract_low, Nat.reduceSub, extract_all]; simp)
  refine (if_neg ?_).trans ?_
  · (simp (disch := decide) only [extract_high, extract_low, Nat.reduceSub, extract_all]; simp)
  refine (if_neg ?_).trans ?_
  · (simp (disch := decide) only [extract_high, extract_low, Nat.reduceSub, extract_all]; simp)
  refine (if_pos ?_).trans ?_
  · simp (disch := decide) only [extract_high, extract_low, Nat.reduceSub, extract_all]; rfl
  simp (disch := decide) only [extract_high, extract_low, Nat.reduceSub, extract_all]

theorem btry : ∀ y0 y1 y2, Statement (.btry y0 y1 y2) := by
  intro y0 y1 y2 h _ c lit hl
  refine decodeCore_of_raw (by decide) ?_ h
  unfold rawDecode
  rw [opOf_packCore, restOf_packCore]
  dsimp only
  rw [unpackT_packT]
  refine (if_neg ?_).trans ?_
  · (simp (disch := decide) only [extract_high, extract_low, Nat.reduceSub, extract_all]; simp)
  refine (if_neg ?_).trans ?_
  · (simp (disch := decide) only [extract_high, extract_low, Nat.reduceSub, extract_all]; simp)
  refine (if_neg ?_).trans ?_
  · (simp (disch := decide) only [extract_high, extract_low, Nat.reduceSub, extract_all]; simp)
  refine (if_neg ?_).trans ?_
  · (simp (disch := decide) only [extract_high, extract_low, Nat.reduceSub, extract_all]; simp)
  refine (if_neg ?_).trans ?_
  · (simp (disch := decide) only [extract_high, extract_low, Nat.reduceSub, extract_all]; simp)
  refine (if_neg ?_).trans ?_
  · (simp (disch := decide) only [extract_high, extract_low, Nat.reduceSub, extract_all]; simp)
  refine (if_pos ?_).trans ?_
  · simp (disch := decide) only [extract_high, extract_low, Nat.reduceSub, extract_all]; rfl
  simp (disch := decide) only [extract_high, extract_low, Nat.reduceSub, extract_all]

theorem waitptr : ∀ y0 y1, Statement (.waitptr y0 y1) := by
  intro y0 y1 h _ c lit hl
  refine decodeCore_of_raw (by decide) ?_ h
  unfold rawDecode
  rw [opOf_packCore, restOf_packCore]
  dsimp only
  rw [unpackT_packT]
  refine (if_neg ?_).trans ?_
  · (simp (disch := decide) only [extract_high, extract_low, Nat.reduceSub, extract_all]; simp)
  refine (if_neg ?_).trans ?_
  · (simp (disch := decide) only [extract_high, extract_low, Nat.reduceSub, extract_all]; simp)
  refine (if_neg ?_).trans ?_
  · (simp (disch := decide) only [extract_high, extract_low, Nat.reduceSub, extract_all]; simp)
  refine (if_neg ?_).trans ?_
  · (simp (disch := decide) only [extract_high, extract_low, Nat.reduceSub, extract_all]; simp)
  refine (if_neg ?_).trans ?_
  · (simp (disch := decide) only [extract_high, extract_low, Nat.reduceSub, extract_all]; simp)
  refine (if_neg ?_).trans ?_
  · (simp (disch := decide) only [extract_high, extract_low, Nat.reduceSub, extract_all]; simp)
  refine (if_neg ?_).trans ?_
  · (simp (disch := decide) only [extract_high, extract_low, Nat.reduceSub, extract_all]; simp)
  refine (if_pos ?_).trans ?_
  · simp (disch := decide) only [extract_high, extract_low, Nat.reduceSub, extract_all]; rfl
  simp (disch := decide) only [extract_high, extract_low, Nat.reduceSub, extract_all]

theorem waitmem : ∀ y0 y1 y2, Statement (.waitmem y0 y1 y2) := by
  intro y0 y1 y2 h _ c lit hl
  refine decodeCore_of_raw (by decide) ?_ h
  unfold rawDecode
  rw [opOf_packCore, restOf_packCore]
  dsimp only
  rw [unpackT_packT]
  refine (if_neg ?_).trans ?_
  · (simp (disch := decide) only [extract_high, extract_low, Nat.reduceSub, extract_all]; simp)
  refine (if_neg ?_).trans ?_
  · (simp (disch := decide) only [extract_high, extract_low, Nat.reduceSub, extract_all]; simp)
  refine (if_neg ?_).trans ?_
  · (simp (disch := decide) only [extract_high, extract_low, Nat.reduceSub, extract_all]; simp)
  refine (if_neg ?_).trans ?_
  · (simp (disch := decide) only [extract_high, extract_low, Nat.reduceSub, extract_all]; simp)
  refine (if_neg ?_).trans ?_
  · (simp (disch := decide) only [extract_high, extract_low, Nat.reduceSub, extract_all]; simp)
  refine (if_neg ?_).trans ?_
  · (simp (disch := decide) only [extract_high, extract_low, Nat.reduceSub, extract_all]; simp)
  refine (if_neg ?_).trans ?_
  · (simp (disch := decide) only [extract_high, extract_low, Nat.reduceSub, extract_all]; simp)
  refine (if_neg ?_).trans ?_
  · (simp (disch := decide) only [extract_high, extract_low, Nat.reduceSub, extract_all]; simp)
  refine (if_pos ?_).trans ?_
  · simp (disch := decide) only [extract_high, extract_low, Nat.reduceSub, extract_all]; rfl
  simp (disch := decide) only [extract_high, extract_low, Nat.reduceSub, extract_all]

theorem shape : ∀ y0 y1 y2, Statement (.shape y0 y1 y2) := by
  intro y0 y1 y2 h _ c lit hl
  refine decodeCore_of_raw (by decide) ?_ h
  unfold rawDecode
  rw [opOf_packCore, restOf_packCore]
  dsimp only
  rw [unpackT_packT]
  refine (if_pos ?_).trans ?_
  · simp (disch := decide) only [extract_high, extract_low, Nat.reduceSub, extract_all]; rfl
  simp (disch := decide) only [extract_high, extract_low, Nat.reduceSub, extract_all]

theorem shapeq : ∀ y0, Statement (.shapeq y0) := by
  intro y0 h _ c lit hl
  refine decodeCore_of_raw (by decide) ?_ h
  unfold rawDecode
  rw [opOf_packCore, restOf_packCore]
  dsimp only
  rw [unpackT_packT]
  refine (if_neg ?_).trans ?_
  · (simp (disch := decide) only [extract_high, extract_low, Nat.reduceSub, extract_all]; simp)
  refine (if_pos ?_).trans ?_
  · simp (disch := decide) only [extract_high, extract_low, Nat.reduceSub, extract_all]; rfl
  simp (disch := decide) only [extract_high, extract_low, Nat.reduceSub, extract_all]

theorem mma : ∀ y0 y1 y2 y3 y4 y5, Statement (.mma y0 y1 y2 y3 y4 y5) := by
  intro y0 y1 y2 y3 y4 y5 h _ c lit hl
  refine decodeCore_of_raw (by decide) ?_ h
  unfold rawDecode
  rw [opOf_packCore, restOf_packCore]
  dsimp only
  rw [unpackT_packT]
  refine (if_pos ?_).trans ?_
  · simp (disch := decide) only [extract_high, extract_low, Nat.reduceSub, extract_all]; rfl
  simp (disch := decide) only [extract_high, extract_low, Nat.reduceSub, extract_all]

theorem mmab : ∀ y0 y1 y2 y3 y4 y5, Statement (.mmab y0 y1 y2 y3 y4 y5) := by
  intro y0 y1 y2 y3 y4 y5 h _ c lit hl
  refine decodeCore_of_raw (by decide) ?_ h
  unfold rawDecode
  rw [opOf_packCore, restOf_packCore]
  dsimp only
  rw [unpackT_packT]
  refine (if_pos ?_).trans ?_
  · simp (disch := decide) only [extract_high, extract_low, Nat.reduceSub, extract_all]; rfl
  simp (disch := decide) only [extract_high, extract_low, Nat.reduceSub, extract_all]

theorem mdrain : ∀ y0 y1 y2 y3 y4 y5, Statement (.mdrain y0 y1 y2 y3 y4 y5) := by
  intro y0 y1 y2 y3 y4 y5 h _ c lit hl
  refine decodeCore_of_raw (by decide) ?_ h
  unfold rawDecode
  rw [opOf_packCore, restOf_packCore]
  dsimp only
  rw [unpackT_packT]
  refine (if_pos ?_).trans ?_
  · simp (disch := decide) only [extract_high, extract_low, Nat.reduceSub, extract_all]; rfl
  simp (disch := decide) only [extract_high, extract_low, Nat.reduceSub, extract_all]

theorem tzero : ∀ y0 y1 y2, Statement (.tzero y0 y1 y2) := by
  intro y0 y1 y2 h _ c lit hl
  refine decodeCore_of_raw (by decide) ?_ h
  unfold rawDecode
  rw [opOf_packCore, restOf_packCore]
  dsimp only
  rw [unpackT_packT]
  refine (if_pos ?_).trans ?_
  · simp (disch := decide) only [extract_high, extract_low, Nat.reduceSub, extract_all]; rfl
  simp (disch := decide) only [extract_high, extract_low, Nat.reduceSub, extract_all]

theorem trot : ∀ y0 y1 y2, Statement (.trot y0 y1 y2) := by
  intro y0 y1 y2 h _ c lit hl
  refine decodeCore_of_raw (by decide) ?_ h
  unfold rawDecode
  rw [opOf_packCore, restOf_packCore]
  dsimp only
  rw [unpackT_packT]
  refine (if_pos ?_).trans ?_
  · simp (disch := decide) only [extract_high, extract_low, Nat.reduceSub, extract_all]; rfl
  simp (disch := decide) only [extract_high, extract_low, Nat.reduceSub, extract_all]

theorem tcpy : ∀ y0 y1 y2 y3, Statement (.tcpy y0 y1 y2 y3) := by
  intro y0 y1 y2 y3 h _ c lit hl
  refine decodeCore_of_raw (by decide) ?_ h
  unfold rawDecode
  rw [opOf_packCore, restOf_packCore]
  dsimp only
  rw [unpackT_packT]
  refine (if_pos ?_).trans ?_
  · simp (disch := decide) only [extract_high, extract_low, Nat.reduceSub, extract_all]; rfl
  simp (disch := decide) only [extract_high, extract_low, Nat.reduceSub, extract_all]

theorem tcpyw : ∀ y0 y1 y2 y3, Statement (.tcpyw y0 y1 y2 y3) := by
  intro y0 y1 y2 y3 h _ c lit hl
  refine decodeCore_of_raw (by decide) ?_ h
  unfold rawDecode
  rw [opOf_packCore, restOf_packCore]
  dsimp only
  rw [unpackT_packT]
  refine (if_neg ?_).trans ?_
  · (simp (disch := decide) only [extract_high, extract_low, Nat.reduceSub, extract_all]; simp)
  refine (if_pos ?_).trans ?_
  · simp (disch := decide) only [extract_high, extract_low, Nat.reduceSub, extract_all]; rfl
  simp (disch := decide) only [extract_high, extract_low, Nat.reduceSub, extract_all]

theorem tdset : ∀ y0 y1, Statement (.tdset y0 y1) := by
  intro y0 y1 h _ c lit hl
  refine decodeCore_of_raw (by decide) ?_ h
  unfold rawDecode
  rw [opOf_packCore, restOf_packCore]
  dsimp only
  rw [unpackT_packT]
  refine (if_pos ?_).trans ?_
  · simp (disch := decide) only [extract_high, extract_low, Nat.reduceSub, extract_all]; rfl
  simp (disch := decide) only [extract_high, extract_low, Nat.reduceSub, extract_all]

theorem tdget : ∀ y0 y1, Statement (.tdget y0 y1) := by
  intro y0 y1 h _ c lit hl
  refine decodeCore_of_raw (by decide) ?_ h
  unfold rawDecode
  rw [opOf_packCore, restOf_packCore]
  dsimp only
  rw [unpackT_packT]
  refine (if_neg ?_).trans ?_
  · (simp (disch := decide) only [extract_high, extract_low, Nat.reduceSub, extract_all]; simp)
  refine (if_pos ?_).trans ?_
  · simp (disch := decide) only [extract_high, extract_low, Nat.reduceSub, extract_all]; rfl
  simp (disch := decide) only [extract_high, extract_low, Nat.reduceSub, extract_all]

theorem tdinv : ∀ y0, Statement (.tdinv y0) := by
  intro y0 h _ c lit hl
  refine decodeCore_of_raw (by decide) ?_ h
  unfold rawDecode
  rw [opOf_packCore, restOf_packCore]
  dsimp only
  rw [unpackT_packT]
  refine (if_neg ?_).trans ?_
  · (simp (disch := decide) only [extract_high, extract_low, Nat.reduceSub, extract_all]; simp)
  refine (if_neg ?_).trans ?_
  · (simp (disch := decide) only [extract_high, extract_low, Nat.reduceSub, extract_all]; simp)
  refine (if_pos ?_).trans ?_
  · simp (disch := decide) only [extract_high, extract_low, Nat.reduceSub, extract_all]; rfl
  simp (disch := decide) only [extract_high, extract_low, Nat.reduceSub, extract_all]

theorem tscl : ∀ y0 y1 y2 y3 y4, Statement (.tscl y0 y1 y2 y3 y4) := by
  intro y0 y1 y2 y3 y4 h _ c lit hl
  refine decodeCore_of_raw (by decide) ?_ h
  unfold rawDecode
  rw [opOf_packCore, restOf_packCore]
  dsimp only
  rw [unpackT_packT]
  refine (if_pos ?_).trans ?_
  · simp (disch := decide) only [extract_high, extract_low, Nat.reduceSub, extract_all]; rfl
  simp (disch := decide) only [extract_high, extract_low, Nat.reduceSub, extract_all]

theorem glaunch : ∀ y0 y1 y2, Statement (.glaunch y0 y1 y2) := by
  intro y0 y1 y2 h _ c lit hl
  refine decodeCore_of_raw (by decide) ?_ h
  unfold rawDecode
  rw [opOf_packCore, restOf_packCore]
  dsimp only
  rw [unpackT_packT]
  refine (if_pos ?_).trans ?_
  · simp (disch := decide) only [extract_high, extract_low, Nat.reduceSub, extract_all]; rfl
  simp (disch := decide) only [extract_high, extract_low, Nat.reduceSub, extract_all]

theorem gwait : ∀ y0, Statement (.gwait y0) := by
  intro y0 h _ c lit hl
  refine decodeCore_of_raw (by decide) ?_ h
  unfold rawDecode
  rw [opOf_packCore, restOf_packCore]
  dsimp only
  rw [unpackT_packT]
  refine (if_neg ?_).trans ?_
  · (simp (disch := decide) only [extract_high, extract_low, Nat.reduceSub, extract_all]; simp)
  refine (if_pos ?_).trans ?_
  · simp (disch := decide) only [extract_high, extract_low, Nat.reduceSub, extract_all]; rfl
  simp (disch := decide) only [extract_high, extract_low, Nat.reduceSub, extract_all]

theorem gwaitTry : ∀ y0, Statement (.gwaitTry y0) := by
  intro y0 h _ c lit hl
  refine decodeCore_of_raw (by decide) ?_ h
  unfold rawDecode
  rw [opOf_packCore, restOf_packCore]
  dsimp only
  rw [unpackT_packT]
  refine (if_neg ?_).trans ?_
  · (simp (disch := decide) only [extract_high, extract_low, Nat.reduceSub, extract_all]; simp)
  refine (if_neg ?_).trans ?_
  · (simp (disch := decide) only [extract_high, extract_low, Nat.reduceSub, extract_all]; simp)
  refine (if_pos ?_).trans ?_
  · simp (disch := decide) only [extract_high, extract_low, Nat.reduceSub, extract_all]; rfl
  simp (disch := decide) only [extract_high, extract_low, Nat.reduceSub, extract_all]

theorem gnode : ∀ y0 y1 y2, Statement (.gnode y0 y1 y2) := by
  intro y0 y1 y2 h _ c lit hl
  refine decodeCore_of_raw (by decide) ?_ h
  unfold rawDecode
  rw [opOf_packCore, restOf_packCore]
  dsimp only
  rw [unpackT_packT]
  refine (if_pos ?_).trans ?_
  · simp (disch := decide) only [extract_high, extract_low, Nat.reduceSub, extract_all]; rfl
  simp (disch := decide) only [extract_high, extract_low, Nat.reduceSub, extract_all]

theorem tapepush : ∀ y0 y1 y2, Statement (.tapepush y0 y1 y2) := by
  intro y0 y1 y2 h _ c lit hl
  refine decodeCore_of_raw (by decide) ?_ h
  unfold rawDecode
  rw [opOf_packCore, restOf_packCore]
  dsimp only
  rw [unpackT_packT]
  refine (if_neg ?_).trans ?_
  · (simp (disch := decide) only [extract_high, extract_low, Nat.reduceSub, extract_all]; simp)
  refine (if_pos ?_).trans ?_
  · simp (disch := decide) only [extract_high, extract_low, Nat.reduceSub, extract_all]; rfl
  simp (disch := decide) only [extract_high, extract_low, Nat.reduceSub, extract_all]

theorem fqpost : ∀ y0 y1 y2, Statement (.fqpost y0 y1 y2) := by
  intro y0 y1 y2 h _ c lit hl
  refine decodeCore_of_raw (by decide) ?_ h
  unfold rawDecode
  rw [opOf_packCore, restOf_packCore]
  dsimp only
  rw [unpackT_packT]
  refine (if_pos ?_).trans ?_
  · simp (disch := decide) only [extract_high, extract_low, Nat.reduceSub, extract_all]; rfl
  simp (disch := decide) only [extract_high, extract_low, Nat.reduceSub, extract_all]

theorem poolMarker : ∀ y0, Statement (.poolMarker y0) := by
  intro y0 h _ c lit hl
  refine decodeCore_of_raw (by decide) ?_ h
  unfold rawDecode
  rw [opOf_packCore, restOf_packCore]
  dsimp only
  rw [unpackP_packP]
  rfl

theorem zli : ∀ y0 y1 y2, Statement (.zli y0 y1 y2) := by
  intro y0 y1 y2 h _ c lit hl
  refine decodeZilkan_of_raw ?_ h
  unfold rawZilkan
  rw [zOpOf_packZilkan, zRestOf_packZilkan]
  dsimp only
  rw [unpackZL_packZL]
  refine (if_pos ?_).trans ?_
  · simp (disch := decide) only [extract_high, extract_low, Nat.reduceSub, extract_all]; rfl
  simp (disch := decide) only [extract_high, extract_low, Nat.reduceSub, extract_all]

theorem zadd : ∀ y0 y1 y2 y3 y4, Statement (.zadd y0 y1 y2 y3 y4) := by
  intro y0 y1 y2 y3 y4 h _ c lit hl
  refine decodeZilkan_of_raw ?_ h
  unfold rawZilkan
  rw [zOpOf_packZilkan, zRestOf_packZilkan]
  dsimp only
  rw [unpackZA_packZA]
  rfl

theorem zsub : ∀ y0 y1 y2 y3 y4, Statement (.zsub y0 y1 y2 y3 y4) := by
  intro y0 y1 y2 y3 y4 h _ c lit hl
  refine decodeZilkan_of_raw ?_ h
  unfold rawZilkan
  rw [zOpOf_packZilkan, zRestOf_packZilkan]
  dsimp only
  rw [unpackZA_packZA]
  rfl

theorem zshl : ∀ y0 y1 y2 y3 y4, Statement (.zshl y0 y1 y2 y3 y4) := by
  intro y0 y1 y2 y3 y4 h _ c lit hl
  refine decodeZilkan_of_raw ?_ h
  unfold rawZilkan
  rw [zOpOf_packZilkan, zRestOf_packZilkan]
  dsimp only
  rw [unpackZA_packZA]
  rfl

theorem zand : ∀ y0 y1 y2 y3 y4, Statement (.zand y0 y1 y2 y3 y4) := by
  intro y0 y1 y2 y3 y4 h _ c lit hl
  refine decodeZilkan_of_raw ?_ h
  unfold rawZilkan
  rw [zOpOf_packZilkan, zRestOf_packZilkan]
  dsimp only
  rw [unpackZA_packZA]
  rfl

theorem zbr : ∀ y0 y1 y2 y3, Statement (.zbr y0 y1 y2 y3) := by
  intro y0 y1 y2 y3 h _ c lit hl
  refine decodeZilkan_of_raw ?_ h
  unfold rawZilkan
  rw [zOpOf_packZilkan, zRestOf_packZilkan]
  dsimp only
  rw [unpackZJ_packZJ]
  rfl

theorem zloop : ∀ y0 y1, Statement (.zloop y0 y1) := by
  intro y0 y1 h _ c lit hl
  refine decodeZilkan_of_raw ?_ h
  unfold rawZilkan
  rw [zOpOf_packZilkan, zRestOf_packZilkan]
  dsimp only
  rw [unpackZN_packZN]
  refine (if_pos ?_).trans ?_
  · simp (disch := decide) only [extract_high, extract_low, Nat.reduceSub, extract_all]; rfl
  simp (disch := decide) only [extract_high, extract_low, Nat.reduceSub, extract_all]

theorem zld : ∀ y0 y1 y2 y3, Statement (.zld y0 y1 y2 y3) := by
  intro y0 y1 y2 y3 h _ c lit hl
  refine decodeZilkan_of_raw ?_ h
  unfold rawZilkan
  rw [zOpOf_packZilkan, zRestOf_packZilkan]
  dsimp only
  rw [unpackZM_packZM]
  rfl

theorem zst : ∀ y0 y1 y2 y3, Statement (.zst y0 y1 y2 y3) := by
  intro y0 y1 y2 y3 h _ c lit hl
  refine decodeZilkan_of_raw ?_ h
  unfold rawZilkan
  rw [zOpOf_packZilkan, zRestOf_packZilkan]
  dsimp only
  rw [unpackZM_packZM]
  rfl

theorem zsend : ∀ y0 y1 y2, Statement (.zsend y0 y1 y2) := by
  intro y0 y1 y2 h _ c lit hl
  refine decodeZilkan_of_raw ?_ h
  unfold rawZilkan
  rw [zOpOf_packZilkan, zRestOf_packZilkan]
  dsimp only
  rw [unpackZG_packZG]
  refine (if_pos ?_).trans ?_
  · simp (disch := decide) only [extract_high, extract_low, Nat.reduceSub, extract_all]; rfl
  simp (disch := decide) only [extract_high, extract_low, Nat.reduceSub, extract_all]

theorem zags : ∀ y0 y1 y2 y3, Statement (.zags y0 y1 y2 y3) := by
  intro y0 y1 y2 y3 h _ c lit hl
  refine decodeZilkan_of_raw ?_ h
  unfold rawZilkan
  rw [zOpOf_packZilkan, zRestOf_packZilkan]
  dsimp only
  rw [unpackZG_packZG]
  refine (if_pos ?_).trans ?_
  · simp (disch := decide) only [extract_high, extract_low, Nat.reduceSub, extract_all]; rfl
  simp (disch := decide) only [extract_high, extract_low, Nat.reduceSub, extract_all]

theorem zfetch : ∀ y0 y1 y2, Statement (.zfetch y0 y1 y2) := by
  intro y0 y1 y2 h _ c lit hl
  refine decodeZilkan_of_raw ?_ h
  unfold rawZilkan
  rw [zOpOf_packZilkan, zRestOf_packZilkan]
  dsimp only
  rw [unpackZG_packZG]
  refine (if_pos ?_).trans ?_
  · simp (disch := decide) only [extract_high, extract_low, Nat.reduceSub, extract_all]; rfl
  simp (disch := decide) only [extract_high, extract_low, Nat.reduceSub, extract_all]

theorem zckpt : ∀ y0 y1, Statement (.zckpt y0 y1) := by
  intro y0 y1 h _ c lit hl
  refine decodeZilkan_of_raw ?_ h
  unfold rawZilkan
  rw [zOpOf_packZilkan, zRestOf_packZilkan]
  dsimp only
  rw [unpackZG_packZG]
  refine (if_pos ?_).trans ?_
  · simp (disch := decide) only [extract_high, extract_low, Nat.reduceSub, extract_all]; rfl
  simp (disch := decide) only [extract_high, extract_low, Nat.reduceSub, extract_all]

theorem zclone : ∀ y0 y1 y2 y3, Statement (.zclone y0 y1 y2 y3) := by
  intro y0 y1 y2 y3 h _ c lit hl
  refine decodeZilkan_of_raw ?_ h
  unfold rawZilkan
  rw [zOpOf_packZilkan, zRestOf_packZilkan]
  dsimp only
  rw [unpackZG_packZG]
  refine (if_pos ?_).trans ?_
  · simp (disch := decide) only [extract_high, extract_low, Nat.reduceSub, extract_all]; rfl
  simp (disch := decide) only [extract_high, extract_low, Nat.reduceSub, extract_all]

theorem zqnt : ∀ y0 y1 y2, Statement (.zqnt y0 y1 y2) := by
  intro y0 y1 y2 h _ c lit hl
  refine decodeZilkan_of_raw ?_ h
  unfold rawZilkan
  rw [zOpOf_packZilkan, zRestOf_packZilkan]
  dsimp only
  rw [unpackZG_packZG]
  refine (if_pos ?_).trans ?_
  · simp (disch := decide) only [extract_high, extract_low, Nat.reduceSub, extract_all]; rfl
  simp (disch := decide) only [extract_high, extract_low, Nat.reduceSub, extract_all]

theorem zrsc : ∀ y0 y1 y2, Statement (.zrsc y0 y1 y2) := by
  intro y0 y1 y2 h _ c lit hl
  refine decodeZilkan_of_raw ?_ h
  unfold rawZilkan
  rw [zOpOf_packZilkan, zRestOf_packZilkan]
  dsimp only
  rw [unpackZG_packZG]
  refine (if_pos ?_).trans ?_
  · simp (disch := decide) only [extract_high, extract_low, Nat.reduceSub, extract_all]; rfl
  simp (disch := decide) only [extract_high, extract_low, Nat.reduceSub, extract_all]

theorem zrsf : ∀ y0 y1, Statement (.zrsf y0 y1) := by
  intro y0 y1 h _ c lit hl
  refine decodeZilkan_of_raw ?_ h
  unfold rawZilkan
  rw [zOpOf_packZilkan, zRestOf_packZilkan]
  dsimp only
  rw [unpackZG_packZG]
  refine (if_pos ?_).trans ?_
  · simp (disch := decide) only [extract_high, extract_low, Nat.reduceSub, extract_all]; rfl
  simp (disch := decide) only [extract_high, extract_low, Nat.reduceSub, extract_all]

theorem zdqa : ∀ y0 y1, Statement (.zdqa y0 y1) := by
  intro y0 y1 h _ c lit hl
  refine decodeZilkan_of_raw ?_ h
  unfold rawZilkan
  rw [zOpOf_packZilkan, zRestOf_packZilkan]
  dsimp only
  rw [unpackZG_packZG]
  refine (if_pos ?_).trans ?_
  · simp (disch := decide) only [extract_high, extract_low, Nat.reduceSub, extract_all]; rfl
  simp (disch := decide) only [extract_high, extract_low, Nat.reduceSub, extract_all]

theorem zwaitBar : ∀ y0 y1 y2, Statement (.zwaitBar y0 y1 y2) := by
  intro y0 y1 y2 h _ c lit hl
  refine decodeZilkan_of_raw ?_ h
  unfold rawZilkan
  rw [zOpOf_packZilkan, zRestOf_packZilkan]
  dsimp only
  rw [unpackZG_packZG]
  refine (if_pos ?_).trans ?_
  · simp (disch := decide) only [extract_high, extract_low, Nat.reduceSub, extract_all]; rfl
  simp (disch := decide) only [extract_high, extract_low, Nat.reduceSub, extract_all]

theorem zwaitFlag : ∀ y0 y1 y2, Statement (.zwaitFlag y0 y1 y2) := by
  intro y0 y1 y2 h _ c lit hl
  refine decodeZilkan_of_raw ?_ h
  unfold rawZilkan
  rw [zOpOf_packZilkan, zRestOf_packZilkan]
  dsimp only
  rw [unpackZG_packZG]
  refine (if_neg ?_).trans ?_
  · (simp (disch := decide) only [extract_high, extract_low, Nat.reduceSub, extract_all]; simp)
  refine (if_pos ?_).trans ?_
  · simp (disch := decide) only [extract_high, extract_low, Nat.reduceSub, extract_all]; rfl
  simp (disch := decide) only [extract_high, extract_low, Nat.reduceSub, extract_all]

theorem zsig : ∀ y0 y1 y2 y3 y4, Statement (.zsig y0 y1 y2 y3 y4) := by
  intro y0 y1 y2 y3 y4 h _ c lit hl
  refine decodeZilkan_of_raw ?_ h
  unfold rawZilkan
  rw [zOpOf_packZilkan, zRestOf_packZilkan]
  dsimp only
  rw [unpackZG_packZG]
  refine (if_pos ?_).trans ?_
  · simp (disch := decide) only [extract_high, extract_low, Nat.reduceSub, extract_all]; rfl
  simp (disch := decide) only [extract_high, extract_low, Nat.reduceSub, extract_all]

theorem zsigRemote : ∀ y0 y1 y2 y3, Statement (.zsigRemote y0 y1 y2 y3) := by
  intro y0 y1 y2 y3 h _ c lit hl
  refine decodeZilkan_of_raw ?_ h
  unfold rawZilkan
  rw [zOpOf_packZilkan, zRestOf_packZilkan]
  dsimp only
  rw [unpackZG_packZG]
  refine (if_neg ?_).trans ?_
  · (simp (disch := decide) only [extract_high, extract_low, Nat.reduceSub, extract_all]; simp)
  refine (if_pos ?_).trans ?_
  · simp (disch := decide) only [extract_high, extract_low, Nat.reduceSub, extract_all]; rfl
  simp (disch := decide) only [extract_high, extract_low, Nat.reduceSub, extract_all]

theorem zfenceAcq : ∀ y0, Statement (.zfenceAcq y0) := by
  intro y0 h _ c lit hl
  refine decodeZilkan_of_raw ?_ h
  unfold rawZilkan
  rw [zOpOf_packZilkan, zRestOf_packZilkan]
  dsimp only
  rw [unpackZG_packZG]
  refine (if_pos ?_).trans ?_
  · simp (disch := decide) only [extract_high, extract_low, Nat.reduceSub, extract_all]; rfl
  simp (disch := decide) only [extract_high, extract_low, Nat.reduceSub, extract_all]

theorem zfenceRel : ∀ y0, Statement (.zfenceRel y0) := by
  intro y0 h _ c lit hl
  refine decodeZilkan_of_raw ?_ h
  unfold rawZilkan
  rw [zOpOf_packZilkan, zRestOf_packZilkan]
  dsimp only
  rw [unpackZG_packZG]
  refine (if_neg ?_).trans ?_
  · (simp (disch := decide) only [extract_high, extract_low, Nat.reduceSub, extract_all]; simp)
  refine (if_pos ?_).trans ?_
  · simp (disch := decide) only [extract_high, extract_low, Nat.reduceSub, extract_all]; rfl
  simp (disch := decide) only [extract_high, extract_low, Nat.reduceSub, extract_all]

theorem zfenceAr : ∀ y0, Statement (.zfenceAr y0) := by
  intro y0 h _ c lit hl
  refine decodeZilkan_of_raw ?_ h
  unfold rawZilkan
  rw [zOpOf_packZilkan, zRestOf_packZilkan]
  dsimp only
  rw [unpackZG_packZG]
  refine (if_neg ?_).trans ?_
  · (simp (disch := decide) only [extract_high, extract_low, Nat.reduceSub, extract_all]; simp)
  refine (if_neg ?_).trans ?_
  · (simp (disch := decide) only [extract_high, extract_low, Nat.reduceSub, extract_all]; simp)
  refine (if_pos ?_).trans ?_
  · simp (disch := decide) only [extract_high, extract_low, Nat.reduceSub, extract_all]; rfl
  simp (disch := decide) only [extract_high, extract_low, Nat.reduceSub, extract_all]

theorem zcyc : ∀ y0, Statement (.zcyc y0) := by
  intro y0 h _ c lit hl
  refine decodeZilkan_of_raw ?_ h
  unfold rawZilkan
  rw [zOpOf_packZilkan, zRestOf_packZilkan]
  dsimp only
  rw [unpackZN_packZN]
  refine (if_pos ?_).trans ?_
  · simp (disch := decide) only [extract_high, extract_low, Nat.reduceSub, extract_all]; rfl
  simp (disch := decide) only [extract_high, extract_low, Nat.reduceSub, extract_all]

theorem ztrap : ∀ y0, Statement (.ztrap y0) := by
  intro y0 h _ c lit hl
  refine decodeZilkan_of_raw ?_ h
  unfold rawZilkan
  rw [zOpOf_packZilkan, zRestOf_packZilkan]
  dsimp only
  rw [unpackZN_packZN]
  refine (if_pos ?_).trans ?_
  · simp (disch := decide) only [extract_high, extract_low, Nat.reduceSub, extract_all]; rfl
  simp (disch := decide) only [extract_high, extract_low, Nat.reduceSub, extract_all]

theorem zhalt : Statement .zhalt := by
  intro h _ c lit hl
  refine decodeZilkan_of_raw ?_ h
  unfold rawZilkan
  rw [zOpOf_packZilkan, zRestOf_packZilkan]
  dsimp only
  rw [unpackZN_packZN]
  refine (if_pos ?_).trans ?_
  · simp (disch := decide) only [extract_high, extract_low, Nat.reduceSub, extract_all]; rfl
  simp (disch := decide) only [extract_high, extract_low, Nat.reduceSub, extract_all]

theorem moduleReset : Statement .moduleReset :=
  fun _ h => nomatch h

theorem hernusBoot : Statement .hernusBoot :=
  fun _ h => nomatch h

theorem linkTraining : Statement .linkTraining :=
  fun _ h => nomatch h

theorem overtempReset : Statement .overtempReset :=
  fun _ h => nomatch h

theorem throttleStepDown : Statement .throttleStepDown :=
  fun _ h => nomatch h

theorem throttleStepUp : Statement .throttleStepUp :=
  fun _ h => nomatch h

theorem functionLevelReset : ∀ y0, Statement (.functionLevelReset y0) :=
  fun _ _ h => nomatch h

theorem tdiError : ∀ y0, Statement (.tdiError y0) :=
  fun _ _ h => nomatch h

theorem hostPostedWrite : ∀ y0 y1 y2, Statement (.hostPostedWrite y0 y1 y2) :=
  fun _ _ _ _ h => nomatch h

theorem hostRead : ∀ y0 y1 y2, Statement (.hostRead y0 y1 y2) :=
  fun _ _ _ _ h => nomatch h

theorem registerWrite : ∀ y0 y1 y2, Statement (.registerWrite y0 y1 y2) :=
  fun _ _ _ _ h => nomatch h

theorem posttailWrite : ∀ y0 y1 y2, Statement (.posttailWrite y0 y1 y2) :=
  fun _ _ _ _ h => nomatch h

theorem cplheadWrite : ∀ y0 y1 y2, Statement (.cplheadWrite y0 y1 y2) :=
  fun _ _ _ _ h => nomatch h

theorem streamEnable : ∀ y0 y1, Statement (.streamEnable y0 y1) :=
  fun _ _ _ h => nomatch h

theorem fqheadWrite : ∀ y0 y1, Statement (.fqheadWrite y0 y1) :=
  fun _ _ _ h => nomatch h

theorem mrheadWrite : ∀ y0 y1, Statement (.mrheadWrite y0 y1) :=
  fun _ _ _ h => nomatch h

theorem mstailWrite : ∀ y0 y1, Statement (.mstailWrite y0 y1) :=
  fun _ _ _ h => nomatch h

theorem winload : ∀ y0 y1, Statement (.winload y0 y1) :=
  fun _ _ _ h => nomatch h

theorem inval : ∀ y0 y1 y2, Statement (.inval y0 y1 y2) :=
  fun _ _ _ _ h => nomatch h

theorem resume : ∀ y0 y1, Statement (.resume y0 y1) :=
  fun _ _ _ h => nomatch h

theorem terminate : ∀ y0 y1, Statement (.terminate y0 y1) :=
  fun _ _ _ h => nomatch h

theorem termgrid : ∀ y0 y1, Statement (.termgrid y0 y1) :=
  fun _ _ _ h => nomatch h

theorem create : ∀ y0 y1 y2 y3 y4 y5, Statement (.create y0 y1 y2 y3 y4 y5) :=
  fun _ _ _ _ _ _ _ h => nomatch h

theorem setgrant : ∀ y0 y1 y2, Statement (.setgrant y0 y1 y2) :=
  fun _ _ _ _ h => nomatch h

theorem destroy : ∀ y0 y1, Statement (.destroy y0 y1) :=
  fun _ _ _ h => nomatch h

theorem attest : ∀ y0 y1 y2, Statement (.attest y0 y1 y2) :=
  fun _ _ _ _ h => nomatch h

theorem logread : ∀ y0, Statement (.logread y0) :=
  fun _ _ h => nomatch h

theorem fusedSvnRaise : ∀ y0 y1, Statement (.fusedSvnRaise y0 y1) :=
  fun _ _ _ h => nomatch h

theorem nodeAppend : ∀ y0, Statement (.nodeAppend y0) :=
  fun _ _ h => nomatch h

theorem teamStart : ∀ y0 y1, Statement (.teamStart y0 y1) :=
  fun _ _ _ h => nomatch h

theorem collectiveStart : ∀ y0, Statement (.collectiveStart y0) :=
  fun _ _ h => nomatch h

theorem transformNodeStart : ∀ y0, Statement (.transformNodeStart y0) :=
  fun _ _ h => nomatch h

theorem copyNode : ∀ y0, Statement (.copyNode y0) :=
  fun _ _ h => nomatch h

theorem signalNode : ∀ y0, Statement (.signalNode y0) :=
  fun _ _ h => nomatch h

theorem tapeNodeStart : ∀ y0, Statement (.tapeNodeStart y0) :=
  fun _ _ h => nomatch h

theorem tapePop : ∀ y0, Statement (.tapePop y0) :=
  fun _ _ h => nomatch h

theorem teamEnd : ∀ y0, Statement (.teamEnd y0) :=
  fun _ _ h => nomatch h

theorem gridRetirement : ∀ y0, Statement (.gridRetirement y0) :=
  fun _ _ h => nomatch h

theorem nodeCompletion : ∀ y0, Statement (.nodeCompletion y0) :=
  fun _ _ h => nomatch h

theorem quantumEnd : ∀ y0, Statement (.quantumEnd y0) :=
  fun _ _ h => nomatch h

theorem loadDataReturn : ∀ y0 y1 y2, Statement (.loadDataReturn y0 y1 y2) :=
  fun _ _ _ _ h => nomatch h

theorem bunchConvergence : ∀ y0 y1, Statement (.bunchConvergence y0 y1) :=
  fun _ _ _ h => nomatch h

theorem rejoinHoldEnd : ∀ y0 y1, Statement (.rejoinHoldEnd y0 y1) :=
  fun _ _ _ h => nomatch h

theorem sleepEnd : ∀ y0 y1, Statement (.sleepEnd y0 y1) :=
  fun _ _ _ h => nomatch h

theorem watchdog : ∀ y0 y1, Statement (.watchdog y0 y1) :=
  fun _ _ _ h => nomatch h

theorem bwaitCompletion : ∀ y0 y1, Statement (.bwaitCompletion y0 y1) :=
  fun _ _ _ h => nomatch h

theorem waitmemCompletion : ∀ y0 y1, Statement (.waitmemCompletion y0 y1) :=
  fun _ _ _ h => nomatch h

theorem zwaitCompletion : ∀ y0, Statement (.zwaitCompletion y0) :=
  fun _ _ h => nomatch h

theorem matrixCommandStart : ∀ y0, Statement (.matrixCommandStart y0) :=
  fun _ _ h => nomatch h

theorem matrixCommandCompletion : ∀ y0, Statement (.matrixCommandCompletion y0) :=
  fun _ _ h => nomatch h

theorem trotRotation : ∀ y0, Statement (.trotRotation y0) :=
  fun _ _ h => nomatch h

theorem copyCommandStart : ∀ y0 y1, Statement (.copyCommandStart y0 y1) :=
  fun _ _ _ h => nomatch h

theorem copyGranuleDelivery : ∀ y0 y1, Statement (.copyGranuleDelivery y0 y1) :=
  fun _ _ _ h => nomatch h

theorem ticketUpdateAccept : ∀ y0, Statement (.ticketUpdateAccept y0) :=
  fun _ _ h => nomatch h

theorem ticketGap : ∀ y0 y1 y2, Statement (.ticketGap y0 y1 y2) :=
  fun _ _ _ _ h => nomatch h

theorem transformGranuleWrite : ∀ y0, Statement (.transformGranuleWrite y0) :=
  fun _ _ h => nomatch h

theorem transformInputArrival : ∀ y0 y1 y2, Statement (.transformInputArrival y0 y1 y2) :=
  fun _ _ _ _ h => nomatch h

theorem transformInputTimeout : ∀ y0, Statement (.transformInputTimeout y0) :=
  fun _ _ h => nomatch h

theorem transferAcknowledgement : ∀ y0 y1 y2, Statement (.transferAcknowledgement y0 y1 y2) :=
  fun _ _ _ _ h => nomatch h

theorem waitedTransferCompletion : ∀ y0 y1 y2, Statement (.waitedTransferCompletion y0 y1 y2) :=
  fun _ _ _ _ h => nomatch h

theorem rmaWriteArrival : ∀ y0 y1 y2 y3 y4, Statement (.rmaWriteArrival y0 y1 y2 y3 y4) :=
  fun _ _ _ _ _ _ h => nomatch h

theorem rmaReadArrival : ∀ y0 y1 y2 y3 y4, Statement (.rmaReadArrival y0 y1 y2 y3 y4) :=
  fun _ _ _ _ _ _ h => nomatch h

theorem remoteArrival : ∀ y0 y1 y2 y3 y4, Statement (.remoteArrival y0 y1 y2 y3 y4) :=
  fun _ _ _ _ _ _ h => nomatch h

theorem managementReceive : ∀ y0 y1 y2 y3, Statement (.managementReceive y0 y1 y2 y3) :=
  fun _ _ _ _ _ h => nomatch h

theorem managementSendCompletion : ∀ y0 y1, Statement (.managementSendCompletion y0 y1) :=
  fun _ _ _ h => nomatch h

theorem collectiveTimeout : ∀ y0, Statement (.collectiveTimeout y0) :=
  fun _ _ h => nomatch h

theorem hbmPatrolScrub : ∀ y0, Statement (.hbmPatrolScrub y0) :=
  fun _ _ h => nomatch h

theorem counterCarry : ∀ y0 y1 y2 y3, Statement (.counterCarry y0 y1 y2 y3) :=
  fun _ _ _ _ _ h => nomatch h

theorem packetRetransmission : ∀ y0, Statement (.packetRetransmission y0) :=
  fun _ _ h => nomatch h

theorem nodeBarrierWaitMet : ∀ y0, Statement (.nodeBarrierWaitMet y0) :=
  fun _ _ h => nomatch h

theorem postedTransferLocalCompletion : ∀ y0 y1, Statement (.postedTransferLocalCompletion y0 y1) :=
  fun _ _ _ h => nomatch h

end Sys2Proof.Laws.Encodes
end

