-- ==== Sys2Proof/Tests/Slice0.lean ====
section
/-! SUPPORT. Tests: a word of each form of the opcode table decoded, ill-formed instructions refused, single steps, and states that meet the
hypotheses of the statements. -/

namespace Sys2Proof.Tests

open Sys2Proof Sys2Proof.Machine

set_option Elab.async false

/-- Words of the opcode table with operands written into their fields. -/
theorem test_decode_control :
    decodeCore 0x01880010#32 none = .ok (.bra 0x4#3 0x1#2 0x10#19) ∧
    decodeCore 0x82880018#32 none = .ok (.call 0x4#3 0x1#2 0x18#19) ∧
    decodeCore 0x83006000#32 none = .ok (.brx 0xc#5) ∧
    decodeCore 0x8320C000#32 none = .ok (.callx 0x18#5) ∧
    decodeCore 0x04000000#32 none = .ok (.nop) ∧
    decodeCore 0x04200000#32 none = .ok (.land) ∧
    decodeCore 0x84400000#32 none = .ok (.rejoin) ∧
    decodeCore 0x04600000#32 none = .ok (.ret) := by decide +kernel

/-- Words of the opcode table with operands written into their fields. -/
theorem test_decode_scheduling :
    decodeCore 0x84800000#32 none = .ok (.exit) ∧
    decodeCore 0x84A00000#32 none = .ok (.yield) ∧
    decodeCore 0x04C00000#32 none = .ok (.melse) ∧
    decodeCore 0x04E00000#32 none = .ok (.mpop) ∧
    decodeCore 0x85000000#32 none = .ok (.mpush 0x0#3) ∧
    decodeCore 0x06000014#32 none = .ok (.sleep 0x14#17) ∧
    decodeCore 0x07000004#32 none = .ok (.trap 0x4#17) ∧
    decodeCore 0x88000008#32 none = .ok (.brk 0x8#17) := by decide +kernel

/-- Words of the opcode table with operands written into their fields. -/
theorem test_decode_system :
    decodeCore 0x89260008#32 none = .ok (.sysrd 0x1#1 0x18#7 0x8#7) ∧
    decodeCore 0x8A097800#32 none = .ok (.syswr 0x9#5 0xf#5) ∧
    decodeCore 0x8B040800#32 none = .ok (.cntrd 0x4#5 0x1#2) ∧
    decodeCore 0x8C0CA000#32 none = .ok (.srkey 0xc#4 0x14#5) ∧
    decodeCore 0x0C204000#32 none = .ok (.srstep 0x8#5) := by decide +kernel

/-- Words of the opcode table with operands written into their fields. -/
theorem test_decode_integer :
    decodeCore 0x90060814#32 none = .ok (.iadd 0x0#2 0x18#7 0x10#7 0x14#7) ∧
    decodeCore 0x11220C1C#32 none = .ok (.isub 0x1#2 0x8#7 0x18#7 0x1c#7) ∧
    decodeCore 0x92060C10#32 none = .ok (.iaddi 0x10#10 0x18#7 0x18#7) ∧
    decodeCore 0x1345021C#32 none = .ok (.imul 0x2#2 0x14#7 0x4#7 0x1c#7) ∧
    decodeCore 0x94020208#32 none = .ok (.imulh 0x0#3 0x8#7 0x4#7 0x8#7) ∧
    decodeCore 0x9561060C#32 none = .ok (.imad 0x3#2 0x4#7 0xc#7 0xc#7) ∧
    decodeCore 0x96030C18#32 none = .ok (.imin 0x0#1 0xc#7 0x18#7 0x18#7) ∧
    decodeCore 0x96650E04#32 none = .ok (.imax 0x1#1 0x14#7 0x1c#7 0x4#7) ∧
    decodeCore 0x97240E00#32 none = .ok (.iabs 0x1#1 0x10#7 0x1c#7) ∧
    decodeCore 0x9881080C#32 none = .ok (.icmp 0x4#3 0x4#3 0x10#7 0xc#7) ∧
    decodeCore 0x19040208#32 none = .ok (.isel 0x0#3 0x10#7 0x4#7 0x8#7) := by decide +kernel

/-- Words of the opcode table with operands written into their fields. -/
theorem test_decode_shift :
    decodeCore 0x1A030614#32 none = .ok (.shl 0xc#7 0xc#7 0x14#7) ∧
    decodeCore 0x1A23060C#32 none = .ok (.shr 0xc#7 0xc#7 0xc#7) ∧
    decodeCore 0x1A420A14#32 none = .ok (.sar 0x8#7 0x14#7 0x14#7) ∧
    decodeCore 0x9A660A18#32 none = .ok (.rol 0x18#7 0x14#7 0x18#7) ∧
    decodeCore 0x1B060C1C#32 none = .ok (.shli 0x18#7 0x18#7 0x1c#5) ∧
    decodeCore 0x9B030828#32 none = .ok (.shri 0xc#7 0x10#7 0x8#5) ∧
    decodeCore 0x9B030E5C#32 none = .ok (.sari 0xc#7 0x1c#7 0x1c#5) := by decide +kernel

/-- Words of the opcode table with operands written into their fields. -/
theorem test_decode_logic :
    decodeCore 0x1C010608#32 none = .ok (.and 0x4#7 0xc#7 0x8#7) ∧
    decodeCore 0x1C260414#32 none = .ok (.or 0x18#7 0x8#7 0x14#7) ∧
    decodeCore 0x1C460810#32 none = .ok (.xor 0x18#7 0x10#7 0x10#7) ∧
    decodeCore 0x1C610A18#32 none = .ok (.andn 0x4#7 0x14#7 0x18#7) ∧
    decodeCore 0x1D010814#32 none = .ok (.andi 0x14#10 0x4#7 0x10#7) ∧
    decodeCore 0x1E040614#32 none = .ok (.ori 0x14#10 0x10#7 0xc#7) ∧
    decodeCore 0x9F030608#32 none = .ok (.xori 0x8#10 0xc#7 0xc#7) := by decide +kernel

/-- Words of the opcode table with operands written into their fields. -/
theorem test_decode_bits :
    decodeCore 0x20050C00#32 none = .ok (.clz 0x14#7 0x18#7) ∧
    decodeCore 0x20250A00#32 none = .ok (.popc 0x14#7 0x14#7) ∧
    decodeCore 0x20430800#32 none = .ok (.brev 0xc#7 0x10#7) ∧
    decodeCore 0x21050C10#32 none = .ok (.bfx 0x0#1 0x14#7 0x18#7 0x10#7) ∧
    decodeCore 0xA1440E10#32 none = .ok (.bfi 0x10#7 0x1c#7 0x10#7) := by decide +kernel

/-- Words of the opcode table with operands written into their fields. -/
theorem test_decode_moves :
    decodeCore 0xA2030A00#32 none = .ok (.mov 0xc#7 0x14#7) ∧
    decodeCore 0xA3060008#32 none = .ok (.movi 0x8#17 0x18#7) ∧
    decodeCore 0xA413C000#32 (some 0xDEADBEEF#32) = .ok (.movl 0x4f#7 0xdeadbeef#32) ∧
    decodeCore 0x25020C00#32 none = .ok (.movs 0x8#7 0x18#5) := by decide +kernel

/-- Words of the opcode table with operands written into their fields. -/
theorem test_decode_scalar :
    decodeCore 0x26010403#32 none = .ok (.smov 0x4#5 0x8#7 0x3#2) ∧
    decodeCore 0xA70C0018#32 none = .ok (.smovi 0xc#5 0x18#11) ∧
    decodeCore 0xA7860000#32 (some 0xDEADBEEF#32) = .ok (.smoviLiteral 0x6#5 0xdeadbeef#32) ∧
    decodeCore 0xA81C2100#32 none = .ok (.sadd 0x1c#5 0x4#5 0x4#5) ∧
    decodeCore 0x29088008#32 none = .ok (.saddi 0x8#5 0x10#5 0x8#11) ∧
    decodeCore 0x298DA800#32 (some 0x12345678#32) = .ok (.saddiLiteral 0xd#5 0x15#5 0x12345678#32) ∧
    decodeCore 0xAA048400#32 none = .ok (.sand 0x4#5 0x10#5 0x10#5) ∧
    decodeCore 0xAB10E008#32 none = .ok (.sshl 0x10#5 0x1c#5 0x0#2 0x8#5) := by decide +kernel

/-- Words of the opcode table with operands written into their fields. -/
theorem test_decode_packed :
    decodeCore 0x30070604#32 none = .ok (.padd 0x0#3 0x1c#7 0xc#7 0x4#7) ∧
    decodeCore 0x31830410#32 none = .ok (.psub 0x4#3 0xc#7 0x8#7 0x10#7) ∧
    decodeCore 0x3287041C#32 none = .ok (.pmin 0x1#1 0x0#1 0x1c#7 0x8#7 0x1c#7) ∧
    decodeCore 0xB2650614#32 none = .ok (.pmax 0x0#1 0x1#1 0x14#7 0xc#7 0x14#7) ∧
    decodeCore 0xB3A10410#32 none = .ok (.pabd 0x1#1 0x1#1 0x4#7 0x8#7 0x10#7) ∧
    decodeCore 0x33C50C14#32 none = .ok (.pavg 0x1#1 0x0#1 0x14#7 0x18#7 0x14#7) ∧
    decodeCore 0xB4230208#32 none = .ok (.pmul 0x0#1 0x1#1 0xc#7 0x4#7 0x8#7) ∧
    decodeCore 0x34C70E10#32 none = .ok (.pmulh 0x1#1 0x0#1 0x1c#7 0x1c#7 0x10#7) ∧
    decodeCore 0x35060C08#32 none = .ok (.pshl 0x0#1 0x18#7 0x18#7 0x8#7) ∧
    decodeCore 0x35440808#32 none = .ok (.pshr 0x0#1 0x0#1 0x10#7 0x10#7 0x8#7) := by decide +kernel

/-- Words of the opcode table with operands written into their fields. -/
theorem test_decode_dot :
    decodeCore 0xB6840814#32 none = .ok (.pacs 0x4#3 0x10#7 0x10#7 0x14#7) ∧
    decodeCore 0xB7820804#32 none = .ok (.dot4 0x4#3 0x8#7 0x10#7 0x4#7) ∧
    decodeCore 0xB867040C#32 none = .ok (.dot8 0x3#2 0x1c#7 0x8#7 0xc#7) ∧
    decodeCore 0x38820408#32 none = .ok (.dot2 0x0#2 0x8#7 0x8#7 0x8#7) ∧
    decodeCore 0xB9030818#32 none = .ok (.ppack 0x0#2 0xc#7 0x10#7 0x18#7) ∧
    decodeCore 0xB9A6021C#32 none = .ok (.punpk 0x1#2 0x18#7 0x4#7 0x1c#7) ∧
    decodeCore 0x3A05081C#32 none = .ok (.tbl 0x0#2 0x1c#8 0x14#7 0x10#7) := by decide +kernel

/-- Words of the opcode table with operands written into their fields. -/
theorem test_decode_cross_lane :
    decodeCore 0x3B870C14#32 none = .ok (.shfl 0x4#3 0x1c#7 0x18#7 0x14#7) ∧
    decodeCore 0x3C020A04#32 none = .ok (.scan 0x8#7 0x14#7 0x0#1 0x0#1 0x4#3) ∧
    decodeCore 0xBC250244#32 none = .ok (.red 0x14#7 0x4#7 0x1#1 0x4#3) ∧
    decodeCore 0xBD010000#32 none = .ok (.voteAny 0x0#1 0x4#3 0x0#3) ∧
    decodeCore 0xBDA00200#32 none = .ok (.voteAll 0x1#1 0x0#3 0x4#3) ∧
    decodeCore 0xBDC70200#32 none = .ok (.voteCount 0x1#1 0x1c#7 0x4#3) ∧
    decodeCore 0xBD440001#32 none = .ok (.votePack 0x0#1 0x10#7 0x0#3) ∧
    decodeCore 0x3D640200#32 none = .ok (.matchLanes 0x0#1 0x10#7 0x4#7) := by decide +kernel

/-- Words of the opcode table with operands written into their fields. -/
theorem test_decode_predicate :
    decodeCore 0x3E010000#32 none = .ok (.plog 0x0#3 0x4#3 0x0#3 0x0#3) ∧
    decodeCore 0x3F010E00#32 none = .ok (.pmovPredicateFromRegister 0x4#3 0x1c#7) ∧
    decodeCore 0xBF220000#32 none = .ok (.pmovRegisterFromPredicate 0x8#7 0x0#3) ∧
    decodeCore 0xBF400000#32 none = .ok (.pmovPredicateFromPredicate 0x0#3 0x0#3) := by decide +kernel

/-- Words of the opcode table with operands written into their fields. -/
theorem test_decode_float :
    decodeCore 0x4001040C#32 none = .ok (.fadd 0x0#3 0x4#7 0x8#7 0xc#7) ∧
    decodeCore 0xC1820E1C#32 none = .ok (.fsub 0x4#3 0x8#7 0x1c#7 0x1c#7) ∧
    decodeCore 0x4287040C#32 none = .ok (.fmul 0x4#3 0x1c#7 0x8#7 0xc#7) ∧
    decodeCore 0x43830E08#32 none = .ok (.ffma 0x4#3 0xc#7 0x1c#7 0x8#7) ∧
    decodeCore 0x44010E18#32 none = .ok (.fmin 0x4#7 0x1c#7 0x18#7) ∧
    decodeCore 0x44220C04#32 none = .ok (.fmax 0x8#7 0x18#7 0x4#7) ∧
    decodeCore 0x45030800#32 none = .ok (.fabs 0xc#7 0x10#7) ∧
    decodeCore 0xC5260C00#32 none = .ok (.fneg 0x18#7 0x18#7) ∧
    decodeCore 0x46810604#32 none = .ok (.fcmp 0x4#3 0x4#3 0xc#7 0x4#7) ∧
    decodeCore 0x47040E00#32 none = .ok (.fclass 0x10#7 0x1c#7) := by decide +kernel

/-- Words of the opcode table with operands written into their fields. -/
theorem test_decode_special :
    decodeCore 0x48050614#32 none = .ok (.fscale 0x0#3 0x14#7 0xc#7 0x14#7) ∧
    decodeCore 0x49070C00#32 none = .ok (.frcp 0x1c#7 0x18#7 0x0#4) ∧
    decodeCore 0x49250400#32 none = .ok (.frsq 0x14#7 0x8#7 0x0#4) ∧
    decodeCore 0x49450A00#32 none = .ok (.fsqrt 0x14#7 0x14#7 0x0#4) ∧
    decodeCore 0x49640804#32 none = .ok (.fexp2 0x10#7 0x10#7 0x4#4) ∧
    decodeCore 0xC9820C0C#32 none = .ok (.flog2 0x8#7 0x18#7 0xc#4) ∧
    decodeCore 0xC9A3040C#32 none = .ok (.fsin 0xc#7 0x8#7 0xc#4) ∧
    decodeCore 0xC9C40C04#32 none = .ok (.fcos 0x10#7 0x18#7 0x4#4) ∧
    decodeCore 0x49E60A04#32 none = .ok (.ftanh 0x18#7 0x14#7 0x4#4) := by decide +kernel

/-- Words of the opcode table with operands written into their fields. -/
theorem test_decode_bf16_and_conversion :
    decodeCore 0xCA860C0C#32 none = .ok (.bfadd2 0x4#3 0x18#7 0x18#7 0xc#7) ∧
    decodeCore 0xCB81020C#32 none = .ok (.bfmul2 0x4#3 0x4#7 0x4#7 0xc#7) ∧
    decodeCore 0xCC050614#32 none = .ok (.bffma2 0x0#3 0x14#7 0xc#7 0x14#7) ∧
    decodeCore 0xCD840C08#32 none = .ok (.cvtFloatToFloat 0x4#3 0x10#7 0x18#7 0x0#3 0x4#3 0x0#1) ∧
    decodeCore 0xCE840A01#32 none = .ok (.cvtFloatToInteger 0x4#3 0x10#7 0x14#7 0x0#3 0x0#3 0x1#1) ∧
    decodeCore 0x4F820208#32 none = .ok (.cvtIntegerToFloat 0x4#3 0x8#7 0x4#7 0x0#3 0x4#3 0x0#1) ∧
    decodeCore 0xD0070A09#32 none = .ok (.cvtIntegerToInteger 0x0#3 0x1c#7 0x14#7 0x0#3 0x4#3 0x1#1) ∧
    decodeCore 0xD1020C40#32 none = .ok (.sclx 0x8#7 0x18#7 0x4#3) ∧
    decodeCore 0xD2060000#32 none = .ok (.lsupd 0x18#5) := by decide +kernel

/-- Words of the opcode table with operands written into their fields. -/
theorem test_decode_load :
    decodeCore 0x58210E04#32 none = .ok (.ldgN8 0xc#6 0x4#7 0x1c#7 0x0#4) ∧
    decodeCore 0x59070464#32 none = .ok (.ldgN16 0x4#6 0x1c#7 0x8#7 0xc#4) ∧
    decodeCore 0x5A630424#32 none = .ok (.ldgI32 0x1c#6 0xc#7 0x8#7 0x4#4) ∧
    decodeCore 0x5B420400#32 none = .ok (.ldgI64 0x10#6 0x8#7 0x8#7 0x0#4) ∧
    decodeCore 0x5C630860#32 none = .ok (.ldgB128 0x18#6 0xc#7 0x10#7 0xc#4) ∧
    decodeCore 0x5D620A60#32 none = .ok (.ldtN8 0x18#6 0x8#7 0x14#7 0xc#4) ∧
    decodeCore 0xDE450620#32 none = .ok (.ldtN16 0x10#6 0x14#7 0xc#7 0x4#4) ∧
    decodeCore 0xDF450E00#32 none = .ok (.ldtI32 0x10#6 0x14#7 0x1c#7 0x0#4) ∧
    decodeCore 0xE0650E20#32 none = .ok (.ldtI64 0x18#6 0x14#7 0x1c#7 0x4#4) ∧
    decodeCore 0xE1240E24#32 none = .ok (.ldtB128 0xc#6 0x10#7 0x1c#7 0x4#4) := by decide +kernel

/-- Words of the opcode table with operands written into their fields. -/
theorem test_decode_load_tile :
    decodeCore 0x62640840#32 none = .ok (.lddN8 0x18#6 0x10#7 0x10#7 0x8#4) ∧
    decodeCore 0xE3630C60#32 none = .ok (.lddN16 0x18#6 0xc#7 0x18#7 0xc#4) ∧
    decodeCore 0x64040864#32 none = .ok (.lddI32 0x4#6 0x10#7 0x10#7 0xc#4) ∧
    decodeCore 0xE5640240#32 none = .ok (.lddI64 0x18#6 0x10#7 0x4#7 0x8#4) ∧
    decodeCore 0xE6030204#32 none = .ok (.lddB128 0x4#6 0xc#7 0x4#7 0x0#4) ∧
    decodeCore 0x67060200#32 none = .ok (.ldk 0x0#10 0x18#7 0x4#3 0x0#4) := by decide +kernel

/-- Words of the opcode table with operands written into their fields. -/
theorem test_decode_store :
    decodeCore 0x68240E00#32 none = .ok (.stg 0x8#6 0x10#7 0x1c#7 0x0#3) ∧
    decodeCore 0x69220A04#32 none = .ok (.stt 0xc#6 0x8#7 0x14#7 0x0#3) ∧
    decodeCore 0x6A060E44#32 none = .ok (.std 0x4#6 0x18#7 0x1c#7 0x4#3) ∧
    decodeCore 0x6B020204#32 none = .ok (.stk 0x4#10 0x8#7 0x4#3) ∧
    decodeCore 0x6C200A00#32 none = .ok (.pref 0x8#6 0x14#7) ∧
    decodeCore 0xEC604604#32 none = .ok (.discard 0x1c#6 0xc#7) ∧
    decodeCore 0xEC408400#32 none = .ok (.flush 0x10#6 0x8#7) := by decide +kernel

/-- Words of the opcode table with operands written into their fields. -/
theorem test_decode_atomic :
    decodeCore 0x6D010664#32 none = .ok (.aadd 0x4#7 0xc#7 0xc#4 0x1#1) ∧
    decodeCore 0x6D220C40#32 none = .ok (.amin 0x8#7 0x18#7 0x8#4 0x0#1 0x0#1) ∧
    decodeCore 0x6D450840#32 none = .ok (.amax 0x14#7 0x10#7 0x8#4 0x0#1 0x0#1) ∧
    decodeCore 0xED660620#32 none = .ok (.aand 0x18#7 0xc#7 0x4#4 0x0#1) ∧
    decodeCore 0x6D860E40#32 none = .ok (.aor 0x18#7 0x1c#7 0x8#4 0x0#1) ∧
    decodeCore 0x6DA40824#32 none = .ok (.axor 0x10#7 0x10#7 0x4#4 0x1#1) ∧
    decodeCore 0x6DC30200#32 none = .ok (.axch 0xc#7 0x4#7 0x0#4 0x0#1) ∧
    decodeCore 0xEDE20460#32 none = .ok (.acas 0x8#7 0x8#7 0xc#4 0x0#1) ∧
    decodeCore 0xED010A45#32 none = .ok (.afadd 0x4#7 0x14#7 0x8#4 0x1#1) := by decide +kernel

/-- Words of the opcode table with operands written into their fields. -/
theorem test_decode_ticket :
    decodeCore 0x6D260E05#32 none = .ok (.tkfadd 0x18#7 0x1c#7 0x1#1) ∧
    decodeCore 0x6E10C000#32 none = .ok (.tkreg 0x10#5 0x18#5) ∧
    decodeCore 0xEE3C8000#32 none = .ok (.tkskip 0x1c#5 0x10#5) ∧
    decodeCore 0xEE400200#32 none = .ok (.tkfence 0x8#5) ∧
    decodeCore 0xEE6CA000#32 none = .ok (.tkqry 0xc#5 0x14#5 0x0#4) ∧
    decodeCore 0x6F000281#32 none = .ok (.fenceAcq 0xa#5) ∧
    decodeCore 0xEF000102#32 none = .ok (.fenceRel 0x4#5) ∧
    decodeCore 0xEF000103#32 none = .ok (.fenceAr 0x4#5) := by decide +kernel

/-- Words of the opcode table with operands written into their fields. -/
theorem test_decode_barrier :
    decodeCore 0xEF200000#32 none = .ok (.bar) ∧
    decodeCore 0xEF41817C#32 none = .ok (.barrive 0x1#5 0x10#5 0x5#5 0xf#4) ∧
    decodeCore 0x6F702200#32 none = .ok (.bwait 0x10#5 0x4#5 0x8#5) ∧
    decodeCore 0x6F862100#32 none = .ok (.btry 0x6#5 0x4#5 0x4#5) ∧
    decodeCore 0x6FA70040#32 none = .ok (.waitptr 0x7#5 0x1#5) ∧
    decodeCore 0x6FC4A001#32 none = .ok (.waitmem 0x4#5 0x14#5 0x1#2) := by decide +kernel

/-- Words of the opcode table with operands written into their fields. -/
theorem test_decode_matrix :
    decodeCore 0x7018E300#32 none = .ok (.shape 0x18#5 0x1c#5 0xc#5) ∧
    decodeCore 0xF03C0000#32 none = .ok (.shapeq 0x1c#5) ∧
    decodeCore 0xF1288221#32 none = .ok (.mma 0x1#1 0x8#5 0x10#5 0x8#5 0x8#4 0x1#2) ∧
    decodeCore 0xF2382623#32 none = .ok (.mmab 0x1#1 0x18#5 0x4#5 0x18#5 0x8#4 0x3#2) ∧
    decodeCore 0xF3042720#32 none = .ok (.mdrain 0x0#3 0x4#5 0x4#5 0x1c#5 0x8#4 0x0#1) ∧
    decodeCore 0xF41C2000#32 none = .ok (.tzero 0x1c#5 0x4#5 0x0#4) ∧
    decodeCore 0x751CA010#32 none = .ok (.trot 0x1c#5 0x14#5 0x4#4) := by decide +kernel

/-- Words of the opcode table with operands written into their fields. -/
theorem test_decode_copy :
    decodeCore 0xF61C4210#32 none = .ok (.tcpy 0x1c#5 0x8#5 0x8#5 0x4#4) ∧
    decodeCore 0x7630A200#32 none = .ok (.tcpyw 0x10#5 0x14#5 0x8#5 0x0#4) ∧
    decodeCore 0xF704A000#32 none = .ok (.tdset 0x4#5 0x14#5) ∧
    decodeCore 0xF7248000#32 none = .ok (.tdget 0x4#5 0x10#5) ∧
    decodeCore 0xF7480000#32 none = .ok (.tdinv 0x8#5) ∧
    decodeCore 0x78082430#32 none = .ok (.tscl 0x0#3 0x8#5 0x4#5 0x10#5 0xc#4) := by decide +kernel

/-- Words of the opcode table with operands written into their fields. -/
theorem test_decode_launch :
    decodeCore 0xFC08A020#32 none = .ok (.glaunch 0x8#5 0x14#5 0x8#4) ∧
    decodeCore 0xFC300000#32 none = .ok (.gwait 0x10#5) ∧
    decodeCore 0x7C300001#32 none = .ok (.gwaitTry 0x10#5) ∧
    decodeCore 0xFD1CE030#32 none = .ok (.gnode 0x1c#5 0x1c#5 0xc#4) ∧
    decodeCore 0xFD3C2030#32 none = .ok (.tapepush 0x1c#5 0x4#5 0xc#4) ∧
    decodeCore 0xFE144010#32 none = .ok (.fqpost 0x14#5 0x8#5 0x4#4) ∧
    decodeCore 0xFF000018#32 none = .ok (.poolMarker 0x18#24) := by decide +kernel

/-- Words of the opcode table with operands written into their fields. -/
theorem test_decode_zilkan :
    decodeZilkan 0x0C40000C#32 = .ok (.zli 0x8#4 0x2#2 0xc#16) ∧
    decodeZilkan 0x15C07D5A#32 = .ok (.zadd 0xb#4 0x8#4 0x0#4 0x1#1 0x3d5a#14) ∧
    decodeZilkan 0x1F906397#32 = .ok (.zsub 0xf#4 0x2#4 0x0#4 0x1#1 0x2397#14) ∧
    decodeZilkan 0x22404018#32 = .ok (.zshl 0x4#4 0x8#4 0x0#4 0x1#1 0x18#14) ∧
    decodeZilkan 0x2D205D78#32 = .ok (.zand 0xa#4 0x4#4 0x0#4 0x1#1 0x1d78#14) ∧
    decodeZilkan 0x34C40008#32 = .ok (.zbr 0x4#3 0xc#4 0x4#4 0x8#16) ∧
    decodeZilkan 0x3E000010#32 = .ok (.zloop 0xc#4 0x10#16) ∧
    decodeZilkan 0x4060001C#32 = .ok (.zld 0x0#4 0xc#4 0x0#1 0x1c#18) ∧
    decodeZilkan 0x4C20001C#32 = .ok (.zst 0x8#4 0x4#4 0x0#1 0x1c#18) := by decide +kernel

/-- Words of the opcode table with operands written into their fields. -/
theorem test_decode_zilkan_transfer :
    decodeZilkan 0x5240000C#32 = .ok (.zsend 0x4#4 0x8#4 0xc#4) ∧
    decodeZilkan 0x5E220008#32 = .ok (.zags 0xc#4 0x4#4 0x4#4 0x8#4) ∧
    decodeZilkan 0x62200010#32 = .ok (.zfetch 0x4#4 0x4#4 0x1#1) ∧
    decodeZilkan 0x68400000#32 = .ok (.zckpt 0x0#4 0x8#4) ∧
    decodeZilkan 0x7220000C#32 = .ok (.zclone 0x4#4 0x4#4 0x0#1 0xc#4) ∧
    decodeZilkan 0x7A660000#32 = .ok (.zqnt 0x4#4 0xc#4 0xc#4) ∧
    decodeZilkan 0x82660000#32 = .ok (.zrsc 0x4#4 0xc#4 0xc#4) ∧
    decodeZilkan 0x8A600000#32 = .ok (.zrsf 0x4#4 0xc#4) ∧
    decodeZilkan 0x94600000#32 = .ok (.zdqa 0x8#4 0xc#4) := by decide +kernel

/-- Words of the opcode table with operands written into their fields. -/
theorem test_decode_zilkan_wait :
    decodeZilkan 0x9A800007#32 = .ok (.zwaitBar 0x5#4 0x0#4 0x7#4) ∧
    decodeZilkan 0x9E600010#32 = .ok (.zwaitFlag 0xc#4 0xc#4 0x0#4) ∧
    decodeZilkan 0xA4420804#32 = .ok (.zsig 0x8#4 0x8#4 0x4#4 0x8#4 0x4#4) ∧
    decodeZilkan 0xA02C0C1A#32 = .ok (.zsigRemote 0x5#4 0x8#4 0xc#4 0xa#4) ∧
    decodeZilkan 0xA8000014#32 = .ok (.zfenceAcq 0x4#4) ∧
    decodeZilkan 0xA8000025#32 = .ok (.zfenceRel 0x5#4) ∧
    decodeZilkan 0xA8000038#32 = .ok (.zfenceAr 0x8#4) ∧
    decodeZilkan 0xB2000000#32 = .ok (.zcyc 0x4#4) ∧
    decodeZilkan 0xB8000008#32 = .ok (.ztrap 0x8#16) ∧
    decodeZilkan 0xC0000000#32 = .ok (.zhalt) := by decide +kernel

/-! ### Ill-formed instructions -/

/-- A condition code of 0 with a predicate (R144); odd pairs (R140); negative 17-bit immediates (R266, R267). -/
theorem test_ill_formed_control :
    Instr.wf (.bra 1#3 0#2 4#19) = false ∧ Instr.wf (.call 7#3 0#2 4#19) = false ∧ Instr.wf (.brx 3#5) = false ∧ Instr.wf (.callx 31#5) = false ∧
    Instr.wf (.sleep 0x10000#17) = false ∧ Instr.wf (.trap 0x1FFFF#17) = false ∧ Instr.wf (.brk 0x10000#17) = false := by decide +kernel

/-- Names that SYSRD may not read, a scalar LANE, a scalar field above 31, a name SYSWR may not write, an odd counter pair (R269, R272). -/
theorem test_ill_formed_system :
    Instr.wf (.sysrd 0#1 1#7 12#7) = false ∧ Instr.wf (.sysrd 0#1 1#7 53#7) = false ∧ Instr.wf (.sysrd 1#1 1#7 32#7) = false ∧
    Instr.wf (.sysrd 1#1 32#7 0#7) = false ∧ Instr.wf (.syswr 12#5 1#5) = false ∧ Instr.wf (.cntrd 1#5 0#2) = false := by decide +kernel

/-- Reserved operation codes of the integer and packed forms (R168, R170, R173, R180 to R185), misaligned groups (R140). -/
theorem test_ill_formed_integer :
    Instr.wf (.imulh 3#3 1#7 2#7 3#7) = false ∧ Instr.wf (.icmp 6#3 1#3 2#7 3#7) = false ∧ Instr.wf (.sshl 1#5 2#5 3#2 4#5) = false ∧
    Instr.wf (.pacs 6#3 1#7 2#7 3#7) = false ∧ Instr.wf (.ppack 3#2 2#7 3#7 4#7) = false ∧ Instr.wf (.ppack 0#2 3#7 3#7 4#7) = false ∧
    Instr.wf (.punpk 3#2 3#7 2#7 4#7) = false ∧ Instr.wf (.punpk 0#2 3#7 5#7 4#7) = false ∧ Instr.wf (.tbl 3#2 0#8 1#7 12#7) = false ∧
    Instr.wf (.votePack 1#1 3#7 0#3) = false := by decide +kernel

/-- Reserved rounding and comparison codes, a conversion to its own type, one that cannot round stochastically, misaligned groups (R194 to
R210). -/
theorem test_ill_formed_float :
    Instr.wf (.fadd 6#3 1#7 2#7 3#7) = false ∧ Instr.wf (.fsub 7#3 1#7 2#7 3#7) = false ∧ Instr.wf (.fmul 6#3 1#7 2#7 3#7) = false ∧
    Instr.wf (.ffma 6#3 1#7 2#7 3#7) = false ∧ Instr.wf (.fcmp 7#3 1#3 2#7 3#7) = false ∧ Instr.wf (.fscale 6#3 1#7 2#7 3#7) = false ∧
    Instr.wf (.bfadd2 6#3 1#7 2#7 3#7) = false ∧ Instr.wf (.bfmul2 6#3 1#7 2#7 3#7) = false ∧ Instr.wf (.bffma2 6#3 1#7 2#7 3#7) = false ∧
    Instr.wf (.cvtFloatToFloat 1#3 1#7 2#7 0#3 0#3 0#1) = false ∧ Instr.wf (.cvtFloatToFloat 6#3 1#7 2#7 0#3 1#3 0#1) = false ∧
    Instr.wf (.cvtFloatToFloat 1#3 1#7 2#7 0#3 1#3 1#1) = false ∧ Instr.wf (.cvtFloatToInteger 6#3 1#7 2#7 0#3 0#3 0#1) = false ∧
    Instr.wf (.cvtIntegerToFloat 6#3 1#7 2#7 0#3 0#3 0#1) = false ∧ Instr.wf (.cvtIntegerToInteger 2#3 1#7 2#7 0#3 1#3 0#1) = false ∧
    Instr.wf (.sclx 1#7 8#7 2#3) = false ∧ Instr.wf (.sclx 1#7 9#7 3#3) = false := by decide +kernel

/-- Odd address pairs, value groups out of place, reserved width codes (R140, R145, R212 to R218). -/
theorem test_ill_formed_memory :
    Instr.wf (.ldgN8 0#6 1#7 3#7 0#4) = false ∧ Instr.wf (.ldgI64 0#6 1#7 2#7 0#4) = false ∧ Instr.wf (.ldgB128 0#6 2#7 2#7 0#4) = false ∧
    Instr.wf (.ldtI64 0#6 1#7 3#7 0#4) = false ∧ Instr.wf (.lddB128 0#6 2#7 3#7 0#4) = false ∧ Instr.wf (.ldk 0#10 4#7 1#3 0#4) = false ∧
    Instr.wf (.ldk 0#10 4#7 5#3 0#4) = false ∧ Instr.wf (.ldk 0#10 5#7 3#3 0#4) = false ∧ Instr.wf (.stg 0#6 1#7 2#7 5#3) = false ∧
    Instr.wf (.stg 0#6 1#7 3#7 2#3) = false ∧ Instr.wf (.stt 0#6 2#7 3#7 4#3) = false ∧ Instr.wf (.std 0#6 1#7 3#7 3#3) = false ∧
    Instr.wf (.stk 0#10 4#7 0#3) = false ∧ Instr.wf (.pref 0#6 3#7) = false ∧ Instr.wf (.discard 0#6 3#7) = false ∧ Instr.wf (.flush 0#6 3#7) = false ∧
    Instr.wf (.aadd 1#7 2#7 0#4 1#1) = false ∧ Instr.wf (.amin 1#7 3#7 0#4 0#1 0#1) = false ∧ Instr.wf (.acas 3#7 2#7 0#4 0#1) = false ∧
    Instr.wf (.acas 2#7 2#7 0#4 1#1) = false ∧ Instr.wf (.afadd 1#7 3#7 0#4 0#1) = false := by decide +kernel

/-- Odd pairs, reserved scopes, sources and tests of the synchronization, engine and launch forms (R113, R220 to R237, R247 to R281). -/
theorem test_ill_formed_units :
    Instr.wf (.tkfadd 2#7 2#7 0#1) = false ∧ Instr.wf (.tkreg 1#5 3#5) = false ∧ Instr.wf (.tkskip 1#5 3#5) = false ∧ Instr.wf (.tkfence 12#5) = false ∧
    Instr.wf (.tkqry 1#5 3#5 0#4) = false ∧ Instr.wf (.fenceAcq 16#5) = false ∧ Instr.wf (.fenceRel 12#5) = false ∧ Instr.wf (.fenceAr 31#5) = false ∧
    Instr.wf (.barrive 1#5 3#5 0#5 0#4) = false ∧ Instr.wf (.barrive 1#5 2#5 12#5 0#4) = false ∧ Instr.wf (.bwait 1#5 3#5 0#5) = false ∧
    Instr.wf (.btry 1#5 2#5 12#5) = false ∧ Instr.wf (.waitptr 1#5 4#5) = false ∧ Instr.wf (.waitptr 1#5 20#5) = false ∧
    Instr.wf (.waitmem 1#5 2#5 3#2) = false ∧ Instr.wf (.mdrain 7#3 1#5 2#5 4#5 0#4 0#1) = false ∧ Instr.wf (.mdrain 0#3 1#5 2#5 5#5 0#4 0#1) = false ∧
    Instr.wf (.tcpy 1#5 3#5 4#5 0#4) = false ∧ Instr.wf (.tdset 1#5 3#5) = false ∧ Instr.wf (.tscl 7#3 1#5 2#5 3#5 0#4) = false ∧
    Instr.wf (.glaunch 1#5 3#5 0#4) = false ∧ Instr.wf (.gnode 1#5 3#5 0#4) = false ∧ Instr.wf (.tapepush 1#5 3#5 0#4) = false ∧
    Instr.wf (.fqpost 1#5 3#5 0#4) = false := by decide +kernel

/-- An unused operand that is not 0, reserved tests, register groups out of place, reserved scopes (R304 to R328). -/
theorem test_ill_formed_zilkan :
    Instr.wf (.zadd 1#4 2#4 3#4 1#1 4#14) = false ∧ Instr.wf (.zadd 1#4 2#4 3#4 0#1 4#14) = false ∧ Instr.wf (.zbr 7#3 0#4 0#4 0#16) = false ∧
    Instr.wf (.zbr 0#3 1#4 0#4 0#16) = false ∧ Instr.wf (.zsend 1#4 2#4 0#4) = false ∧ Instr.wf (.zclone 1#4 7#4 0#1 0#4) = false ∧
    Instr.wf (.zqnt 1#4 5#4 0#4) = false ∧ Instr.wf (.zdqa 1#4 6#4) = false ∧ Instr.wf (.zwaitBar 1#4 2#4 12#4) = false ∧
    Instr.wf (.zsig 1#4 2#4 0#4 0#4 15#4) = false ∧ Instr.wf (.zsigRemote 2#4 3#4 0#4 8#4) = false ∧ Instr.wf (.zfenceRel 12#4) = false := by decide +kernel

/-! ### Small states

A pod in focus, alone in its team, and a fabric processor in focus: owner 0 is resident with the key 1, and its virtual page 0 lies at the
physical page 3. -/

/-- A pod in focus, with a stack of 1 KiB at 0x1000. -/
def pod0 : State :=
  let s := (openPod (placePod State.reset []) 1 0).getD State.reset
  { s with grid := { s.grid with stackBase := 0x1000#64, stackSize := 0x400#32 }, pod := { s.pod with sp := 0x1400#64 } }

/-- A fabric processor in focus. -/
def fab0 : State := (openFabric (placeFabric State.reset []) 0).getD State.reset

/-- A lane register set in all four lanes. -/
def withLanes (s : State) (r : Nat) (a b c d : W32) : State := { s with pod := s.pod.setLanes 0xF#4 r (laneWord fun l => [a, b, c, d].getD l 0#32) }

/-- A lane register set to one word in all lanes. -/
def withAll (s : State) (r : Nat) (a : W32) : State := withLanes s r a a a a

/-- A fabric register set. -/
def withF (s : State) (r : Nat) (v : W64) : State := { s with fp := { s.fp with f := s.fp.f.setIfInBounds r v } }

/-- Bytes written at a virtual address of page 0. -/
def withBytes (s : State) (va : Nat) (b : List Byte) : State := storeAt s 1 (0x18000 + va) b

/-- Words written at a virtual address of page 0. -/
def withWords (s : State) (va : Nat) (ws : List W32) : State := withBytes s va (wordsBytes ws)

/-- The state that an instruction leaves. -/
def after (i : Instr) (s : State) : State := match exec i s with | .next t => t | _ => State.reset

/-- The code of the grid read again, as a team's start reads it. -/
def loaded (s : State) : State := { s with grid := { s.grid with code := s.mem } }

/-! ### States that meet the hypotheses of the statements

One theorem for each statement that has hypotheses, with a place for each of its clauses; boundary values where a range ends. -/

/-- DecodeEncode, CoreWordsAreWhole. -/
theorem witness_encodings :
    (Instr.wf (.iadd 3#2 127#7 0#7 127#7) = true ∧ Instr.isEvent (.iadd 3#2 127#7 0#7 127#7) = false ∧ Instr.isZilkan (.iadd 3#2 127#7 0#7 127#7) = false ∧
      literalOf (.iadd 3#2 127#7 0#7 127#7) = none) ∧
    (Instr.wf (.movl 127#7 0xFFFFFFFF#32) = true ∧ Instr.isEvent (.movl 127#7 0xFFFFFFFF#32) = false ∧ Instr.isZilkan (.movl 127#7 0xFFFFFFFF#32) = false ∧
      some 0xFFFFFFFF#32 = literalOf (.movl 127#7 0xFFFFFFFF#32)) ∧
    (Instr.wf (.zfetch 15#4 12#4 1#1) = true ∧ Instr.isZilkan (.zfetch 15#4 12#4 1#1) = true) ∧
    decodeCore 0x10018307#32 none = .ok (.iadd 0#2 6#7 6#7 7#7) ∧ decodeCore 0xA41FC000#32 (some 5#32) = .ok (.movl 127#7 5#32) := by decide +kernel

/-- The state of a step: a NOP placed for a pod, an unused opcode, and ZCYC placed for a fabric processor. -/
def stepNop : State := placeWord State.reset 0x04000000
def stepBad : State := placePod State.reset [0x0D000000#32]
def stepZcyc : State := placeWord State.reset 0xB0000000
def stepZbad : State := { placeFabric State.reset [0xF8000000#32] with agenda := [.fabric 0] }
def stepEvent : State := { State.reset with agenda := [.event .linkTraining] }

/-- StepRunsDecoded: the turn of one pod whose word is an instruction. -/
theorem witness_step_pod :
    let s := stepNop
    let p := passStep { s with agenda := [] }
    let f := (openPod { p with note := .none } 1 0).getD State.reset
    let w := wordAt ((fetchPacket f f.pod.pc.toNat).toOption.getD []) f.pod.slot.toNat
    let u := after .nop { f with word := w, note := .none, pod := f.pod.deliverMeeting (touches .nop) }
    nextTurn s = (some (.pods 1 0), []) ∧ (p.teams.find? (·.id == 1)).isSome = true ∧ (p.teams.map fun m => (isResident p m.owner, bunchOf m 0)) = [(true, [0])] ∧
    (openPod { p with note := .none } 1 0).isSome = true ∧ canIssue f.pod = true ∧ fetchPacket f f.pod.pc.toNat = .ok [0x04000000#32, 0#32, 0#32] ∧
    chainOf w = 0#1 ∧ (checkWord f.pod w (some 0#32)).toOption = some .nop ∧ f.pod.holds .nop = false ∧ u.note = .none := by decide +kernel

/-- StepRunsDecoded: what finishes such a turn leaves no note. -/
theorem witness_step_finish :
    let p := passStep { stepNop with agenda := [] }
    let f := (openPod { p with note := .none } 1 0).getD State.reset
    let u := after .nop { f with word := 0x04000000#32, note := .none, pod := f.pod.deliverMeeting (touches .nop) }
    ∃ v, finishPod p.tick (.next (retireWord u .nop 0x04000000#32 0xF#4)) = .next v ∧ v.note = .none ∧ teamRuns v 1 = true ∧ barMembers v 1 [0] = [] :=
  ⟨_, rfl, rfl, rfl, rfl⟩

/-- A pod's packet that begins with a chained pair: IADDI and NOP. -/
def stepPair : State := placePod State.reset [encode 1#1 (.iaddi 1#10 1#7 1#7), 0x04000000#32]

/-- StepRunsDecoded: a chained pair both of whose words pass and complete, and one whose second word fails. -/
theorem witness_step_pair :
    let p := passStep { stepPair with agenda := [] }
    let f := (openPod { p with note := .none } 1 0).getD State.reset
    let i : Instr := .iaddi 1#10 1#7 1#7
    let w := encode 1#1 i
    let ws := (fetchPacket f 0).toOption.getD []
    let later := { f.pod.retire i 0#4 with windows := (f.pod.retire i 0#4).windows ++ opensWindows i, parity := f.pod.parity }
    let before : State := { f with word := w, note := .none, pod := f.pod.deliverMeeting (touches i ++ touches .nop) }
    let t := after i before
    let left := retireWord t i w (activeMask before)
    let second : State := { left with pod := left.pod.deliverMeeting (regWrites .nop), snap := some ⟨before.pod, before.team, before.ctx⟩, word := 0x04000000#32, note := .none }
    nextTurn stepPair = (some (.pods 1 0), []) ∧ (p.teams.map fun m => (isResident p m.owner, bunchOf m 0)) = [(true, [0])] ∧ canIssue f.pod = true ∧
    ws.take 2 = [w, 0x04000000#32] ∧ chainOf w = 1#1 ∧ chainBad w (some 0x04000000#32) = false ∧
    (checkWord f.pod w (some 0x04000000#32)).toOption = some i ∧ (checkWord later 0x04000000#32 (some 0#32)).toOption = some .nop ∧
    (checkWord later 0x0D000000#32 (some 0#32)).toOption = none ∧ f.pod.holds i = false ∧ f.pod.holds .nop = false ∧ t.note = .none ∧ (after .nop second).note = .none := by
  decide +kernel

/-- StepRunsDecoded, the checks of a word: a register outside the window and its last one, an open window, a lost parity, and a chain in the last
slot. -/
theorem witness_step_checks :
    let i : Instr := .iadd 0#2 6#7 4#7 5#7
    let q : Pod := { pod0.pod with ws := 1#4 }
    let w : Pod := { pod0.pod with windows := [⟨false, 6, 1, 1⟩] }
    let b : Pod := { pod0.pod with parity := (RegRef.lane 4 1).parityKeys 0xF#4 }
    ((touches (.iadd 0#2 16#7 4#7 5#7)).all (fun r => r.fits q.window) = false ∧ (touches (.iadd 0#2 15#7 4#7 5#7)).all (fun r => r.fits q.window) = true) ∧
    ((w.windows.any fun x => x.left != 0 && (touches i).any fun r => r.meets x.ref) = true ∧ (touches i).all (fun r => r.fits w.window) = true) ∧
    ((regReads i).any fun r => (r.parityKeys b.active).any b.parity.contains) = true ∧
    (decodeCore 0x10818307#32 none).toOption = none ∧ chainBad (encode 1#1 (.movl 1#7 5#32)) (some 5#32) = true := by decide +kernel

/-- StepRunsDecoded: a pod's word of an unused opcode; a fabric processor's word and a word that is none; an event; no turn listed. -/
theorem witness_step_others :
    decodeCore 0x0D000000#32 (some 0#32) = .error .illegalOpcode ∧
    (let p := passStep { stepBad with agenda := [] }
     nextTurn stepBad = (some (.pods 1 0), []) ∧
     (openPod { p with note := .none } 1 0).map (fun f => (fetchPacket f 0).toOption) = some (some [0x0D000000#32, 0#32, 0#32])) ∧
    (let p := passStep { stepZcyc with agenda := [] }
     nextTurn stepZcyc = (some (.fabric 0), []) ∧
     (openFabric p 0).map (fun f => (fabricMay f, (fetchZilkan f).toOption)) = some (true, some 0xB0000000#32)) ∧
    decodeZilkan 0xB0000000#32 = .ok (.zcyc 0#4) ∧ (exec (.zcyc 0#4) fab0 matches .next _) ∧
    (let p := passStep { stepZbad with agenda := [] }
     nextTurn stepZbad = (some (.fabric 0), []) ∧
     (openFabric p 0).map (fun f => (fabricMay f, (fetchZilkan f).toOption)) = some (true, some 0xF8000000#32)) ∧
    decodeZilkan 0xF8000000#32 = .error .zilkanDecode ∧
    nextTurn stepEvent = (some (.event .linkTraining), []) ∧ Instr.isEvent .linkTraining = true ∧ State.reset.agenda = [] := by decide +kernel

/-- StepKeepsMemoryForm: a memory in canonical form, and a step that goes on from it. -/
theorem witness_memory_form : MemoryOk stepNop ∧ stepNop.mem ≠ [] ∧ MemoryOk stepEvent ∧ Goes stepEvent :=
  ⟨by unfold MemoryOk; decide +kernel, by decide +kernel, by unfold MemoryOk; decide +kernel, ⟨_, rfl⟩⟩

/-- FaultTaken: a full queue, one with a free entry, SUSP or not, PARITY, and a fabric processor whose collective suspends or not. -/
def podQueue : State :=
  let c := { pod0.ctx with fq := ⟨0x4000#64, 4#32, 0#32, 0#32⟩ }
  { pod0 with ctx := c, owners := replaceIf pod0.owners (·.owner == 0) fun _ => c }
def podSusp : State := { podQueue with grid := { podQueue.grid with susp := true } }

theorem witness_fault_pod :
    (podQueue.cur = .pod 1 0 ∧ podQueue.grid.status = .running ∧ Trap.nestingDepth ≠ .parity ∧ pod0.ctx.fq.full = true ∧ podQueue.ctx.fq.full = false ∧
      podQueue.ctx.held = [] ∧ podQueue.grid.susp = false ∧ podSusp.grid.susp = true) ∧
    (let x : Stop := { code := .nestingDepth }
     let s := podSusp
     let c1 : Context := { s.ctx with seq := s.ctx.seq + 1 }
     ((engineWrite { s with ctx := c1 } c1 (s.ctx.fq.entryAt s.ctx.fq.tail 64) (wordsBytes (recordWords (podSite s false) (withWord s x) false 0 0))).toOption.map
       fun t => memRead t.mem 0x1C003) = some 0x13#8) := by decide +kernel

theorem witness_fault_fabric :
    fab0.cur = .fabric 0 ∧ fab0.coll.susp = false ∧ { fab0 with coll := { fab0.coll with susp := true } }.coll.susp = true := by decide +kernel

/-- MovesAndScalars: a literal can follow slot 1. -/
theorem witness_moves : { pod0.pod with slot := 1#2 }.slot.toNat < 2 := by decide +kernel

/-- DotProductsAndSelection, SamplePacking. -/
theorem witness_packed : (5#3 : BitVec 3).toNat < 6 ∧ (2#2 : BitVec 2).toNat < 3 ∧ (126#7 : BitVec 7).toNat % 2 = 0 := by decide +kernel

/-- CrossLaneForms: the last position of a bunch and of a pod, an active one; pod scope; no grant, and a grant of one result. -/
theorem witness_cross_lane :
    let x := podPositions pod0.pod
    let g : Result := .lanes 0xF#4 3 [laneWord fun _ => 7#32]
    3 < x.count ∧ x.active 3 = true ∧ (3#3 : BitVec 3).toNat < 4 ∧ pod0.pod.grant = none ∧
    { pod0 with pod := { pod0.pod with grant := some (g :: []) } }.pod.grant = some (g :: []) := by decide +kernel

/-- PredicateMoves: a nonzero B, and the lowest reserved F. -/
theorem witness_predicate_moves : (1#7 ≠ 0#7 ∨ 3 ≤ (0#3 : BitVec 3).toNat) ∧ (0#7 ≠ 0#7 ∨ 3 ≤ (3#3 : BitVec 3).toNat) := by decide +kernel

/-- SpecialFunctions: a signalling and a quiet NaN, both infinities, both zeros, the greatest flushed subnormal, the least negative numbers. -/
theorem witness_special :
    0x7F800000 < (0x7F800001#32 : W32).toNat % 2 ^ 31 ∧ 0x7F800000 < (0xFFC00000#32 : W32).toNat % 2 ^ 31 ∧
    (0xFF800000#32 : W32).toNat % 2 ^ 31 = 0x7F800000 ∧ (0x80000000#32 : W32).toNat % 2 ^ 31 = 0 ∧ (0x807FFFFF#32 : W32).toNat % 2 ^ 31 < 0x00800000 ∧
    (let w : W32 := 0x80800000#32
     w.getLsbD 31 = true ∧ w.toNat % 2 ^ 31 < 0x7F800000 ∧ 0 < w.toNat % 2 ^ 31 ∧ (true = true → 0x00800000 ≤ w.toNat % 2 ^ 31)) ∧
    (let w : W32 := 0xFF7FFFFF#32
     w.getLsbD 31 = true ∧ w.toNat % 2 ^ 31 < 0x7F800000 ∧ 0 < w.toNat % 2 ^ 31) := by decide +kernel

/-- A tensor descriptor that is valid (R84, R85). -/
def validDesc : List W32 := 0x80000000#32 :: List.replicate 15 0#32

/-- Conversions: well-formed forms; a stochastic one with a valid descriptor and with an invalid one. -/
theorem witness_conversions :
    let t : State := { pod0 with ctx := { pod0.ctx with descs := [(0, validDesc)] } }
    (cvtReadsD 1#3 1#3 0#3 && ((1#3 : BitVec 3) == 6#3 || modeRm pod0 == 6)) = false ∧ Instr.wf (.cvtFloatToFloat 1#3 0#7 4#7 1#3 0#3 0#1) = true ∧
    Instr.wf (.cvtFloatToInteger 5#3 0#7 4#7 2#3 1#3 1#1) = true ∧ Instr.wf (.cvtIntegerToFloat 0#3 0#7 4#7 0#3 7#3 0#1) = true ∧
    Instr.wf (.cvtIntegerToInteger 1#3 0#7 4#7 0#3 1#3 0#1) = true ∧
    (cvtReadsD 6#3 1#3 0#3 && ((6#3 : BitVec 3) == 6#3 || modeRm pod0 == 6)) = true ∧ Instr.wf (.cvtFloatToFloat 6#3 0#7 4#7 1#3 0#3 0#1) = true ∧
    descValid (descOf (srcCtx t) (((srcPod t).srsel.extractLsb' 4 12).toNat)) = true ∧
    descValid (descOf (srcCtx pod0) (((srcPod pod0).srsel.extractLsb' 4 12).toNat)) = false := by decide +kernel

/-- Conversions, LSUPD: an overflow above the lower bound, at it, and at it again; a clean update that is not due, one below the upper bound,
one at it, and one at it again. -/
theorem witness_loss_scale :
    let s (flags scale ctl : W32) : State := { pod0 with team := { pod0.team with flags := flags }, ctx := { pod0.ctx with lscale := scale, lsctl := ctl } }
    let ov (s : State) : Bool := (srcTeam s).flags.getLsbD 0 || (srcTeam s).flags.getLsbD 1
    let lo (s : State) : Int := (s.ctx.lsctl.extractLsb' 0 8).toInt
    let hi (s : State) : Int := (s.ctx.lsctl.extractLsb' 8 8).toInt
    let e (s : State) : Int := clampInt (s.ctx.lscale.extractLsb' 0 8).toInt (lo s) (hi s)
    let due (s : State) : Bool := (s.ctx.lsctl.extractLsb' 16 16).toNat != 0 && decide ((s.ctx.lsctl.extractLsb' 16 16).toNat ≤ ((s.ctx.lscale.extractLsb' 8 16).toNat + 1) % 2 ^ 16)
    let held (s : State) := s.ctx.lscale.extractLsb' 28 2
    (ov (s 1#32 1#32 0x07D01800#32) = true ∧ lo (s 1#32 1#32 0x07D01800#32) < e (s 1#32 1#32 0x07D01800#32)) ∧
    (ov (s 2#32 0x10000000#32 0x07D01800#32) = true ∧ ¬lo (s 2#32 0x10000000#32 0x07D01800#32) < e (s 2#32 0x10000000#32 0x07D01800#32) ∧
      held (s 2#32 0x10000000#32 0x07D01800#32) = 1#2) ∧
    (¬lo (s 1#32 0#32 0x07D01800#32) < e (s 1#32 0#32 0x07D01800#32) ∧ held (s 1#32 0#32 0x07D01800#32) ≠ 1#2) ∧
    (ov (s 0#32 0#32 0x07D01800#32) = false ∧ due (s 0#32 0#32 0x07D01800#32) = false) ∧
    (due (s 0#32 23#32 0x00011800#32) = true ∧ e (s 0#32 23#32 0x00011800#32) < hi (s 0#32 23#32 0x00011800#32)) ∧
    (due (s 0#32 0x20000018#32 0x00011800#32) = true ∧ ¬e (s 0#32 0x20000018#32 0x00011800#32) < hi (s 0#32 0x20000018#32 0x00011800#32) ∧
      held (s 0#32 0x20000018#32 0x00011800#32) = 2#2) ∧
    (due (s 0#32 24#32 0x00011800#32) = true ∧ ¬e (s 0#32 24#32 0x00011800#32) < hi (s 0#32 24#32 0x00011800#32) ∧ held (s 0#32 24#32 0x00011800#32) ≠ 2#2) := by
  decide +kernel

/-- Branches: a test that fails, one that holds with the target at packet 0 and with the target out of range, and a landing place. -/
theorem witness_branches :
    let s : State := loaded (withWords { pod0 with pod := { pod0.pod with pc := 4#48 } } 12 [0x04200000#32, 0#32, 0#32])
    let t := (s.setScalar 2 1#32).setScalar 3 0#32
    ((1#2 : BitVec 2) ≠ 0#2 ∧ ∀ l < 4, ¬((activeMask s).getLsbD l = true ∧ (srcPred s 0).getLsbD l = true)) ∧
    (0 ≤ (s.pod.pc.toNat : Int) + (0x7FFFC#19 : BitVec 19).toInt ∧ 12 * ((s.pod.pc.toNat : Int) + (0x7FFFC#19 : BitVec 19).toInt) < 2 ^ 51) ∧
    (s.pod.pc.toNat : Int) + (0x7FFFB#19 : BitVec 19).toInt < 0 ∧
    ((srcPod t).scalar 3 ++ (srcPod t).scalar 2 : W64).toNat = 1 ∧ (fetchPacket t 1).toOption.map (wordAt · 0) = some 0x04200000#32 ∧
    (fetchPacket t 0).toOption.map (wordAt · 0) = some 0#32 := by decide +kernel

/-- CallsAndReturns: a call not taken and one taken at the top of the stack, a landing place, CD = 255, and good and bad return records. -/
theorem witness_calls :
    let s : State := (loaded (withWords pod0 12 [0x04200000#32, 0#32, 0#32])).setScalar 2 1#32
    let r (rec' : List W32) : State := { (withWords pod0 0x13F0 rec') with pod := { pod0.pod with sp := 0x13F0#64, cd := 1#8 } }
    MemoryOk s ∧ branchTest s 0#3 1#2 = false ∧ branchTest s 0#3 0#2 = true ∧ s.pod.cd ≠ 255#8 ∧ landingOk s 1 = true ∧
    ((srcPod s).sp.toNat % 16 = 0 ∧ stackPlace s ((srcPod s).sp.toNat - 16) accWrite = .ok 0x193F0 ∧ s.ctx.guards 0x193F0 16 = false) ∧
    { s.pod with cd := 255#8 }.cd = 255#8 ∧
    ((r [5#32, 0x20000#32, 1#32, 0#32]).pod.cd ≠ 0#8 ∧ stackPlace (r [5#32, 0x20000#32, 1#32, 0#32]) 0x13F0 accRead = .ok 0x193F0 ∧
      poisonIn (r []).poison 0x193F0 16 = none ∧ bytesWords 4 (keyedBytes (r [5#32, 0x20000#32, 1#32, 0#32]) 1 0x193F0 16) = [5#32, 0x20000#32, 1#32, 0#32]) ∧
    bytesWords 4 (keyedBytes (r [5#32, 0x30000#32, 1#32, 0#32]) 1 0x193F0 16) = [5#32, 0x30000#32, 1#32, 0#32] ∧ pod0.pod.cd = 0#8 := by
  unfold MemoryOk; decide +kernel

/-- MaskStack: depths 0, 6 and 7. -/
theorem witness_mask_stack :
    let s (n : BitVec 3) : State := { pod0 with pod := { pod0.pod with md := n } }
    (srcPod (s 6#3)).md.toNat < 7 ∧ 0 < (srcPod (s 1#3)).md.toNat ∧ (s 1#3).pod.md = (srcPod (s 1#3)).md ∧ (srcPod (s 7#3)).md.toNat = 7 ∧
    (srcPod (s 0#3)).md.toNat = 0 := by decide +kernel

/-- SchedulingForms: nothing left to apply, a longest sleep, a pod that is no sprout, and the three cases of BAR. -/
theorem witness_scheduling :
    let two : State := { pod0 with team := { pod0.team with pods := [pod0.pod, { pod0.pod with index := 1 }] } }
    let whole (s : State) : Bool :=
      let a := replaceIf s.team.pods (·.index == s.pod.index) fun _ => { s.pod with arrivals := max s.pod.arrivals (s.pod.barsDone + 1) }
      a.any (fun p => p.phase != .ended) && a.all (fun p => p.phase == .ended || decide (s.team.bars < p.arrivals))
    updatesLeft pod0 = false ∧ 0xFFFF#17 ≠ 0#17 ∧ pod0.cur = .pod 1 0 ∧
    (whole pod0 = true ∧ pod0.pod.barsDone = pod0.team.bars) ∧
    (whole { two with team := { two.team with bars := 1 } } = false ∧ two.pod.barsDone < 1) ∧
    (whole two = false ∧ two.pod.barsDone = two.team.bars) := by decide +kernel

/-- SystemReads: the highest pair, the last counter. -/
theorem witness_system_reads : (30#5 : BitVec 5).toNat % 2 = 0 ∧ 3 < 4 := by decide +kernel

/-- SystemWrites: a value that each register takes and one that it does not. -/
theorem witness_system_writes :
    let w (v : W32) : W32 := (srcPod (pod0.setScalar 1 v)).scalar 1
    ((w 1#32).toNat % 8 ≠ 0 ∧ (w 6#32).toNat % 8 ≠ 7 ∧ (w 7#32).toNat % 8 = 7) ∧ ((w 16#32).toNat % 16 = 0 ∧ (w 8#32).toNat % 16 ≠ 0) ∧
    ((w 0x7FFFF#32).toNat < 2 ^ 19 ∧ ¬(w 0x80000#32).toNat < 2 ^ 19) ∧
    (¬(1 ≤ (w 10#32).toNat % 32 ∧ (w 10#32).toNat % 32 ≤ 9) ∧ 1 ≤ (w 9#32).toNat % 32 ∧ (w 9#32).toNat % 32 ≤ 9) ∧
    (((w 0x8282#32).extractLsb' 0 8).toInt ≤ ((w 0x8282#32).extractLsb' 8 8).toInt ∧ -126 ≤ ((w 0x8282#32).extractLsb' 0 8).toInt) ∧
    ¬-126 ≤ ((w 0x0081#32).extractLsb' 0 8).toInt ∧ (8 ≤ (11#5 : BitVec 5).toNat ∧ (11#5 : BitVec 5).toNat < 12) ∧
    ((w 13#32).toNat % 256 ≤ 13 ∧ ¬(w 14#32).toNat % 256 ≤ 13) := by decide +kernel

/-- A pod whose register pair v2 addresses granule 0x200 of virtual page 0 in every lane, lane by lane 16 bytes further. -/
def podMem : State := withAll (withLanes pod0 2 0x200#32 0x210#32 0x220#32 0x230#32) 3 0#32

/-- The places of the four lanes. -/
def podPlaces (n : Nat) : List (Nat × Nat) := (List.range 4).map fun l => (l, 0x18200 + n * l)

/-- Loads: the checks of each space pass for every width, and a check that fails. -/
theorem witness_loads :
    let a (s : State) (sp : Space) (n : Nat) (x : Nat → Int) := (laneChecks s sp accRead n true true ([0, 1, 2, 3].map fun l => (l, x l))).toOption
    let tile := withLanes { pod0 with team := { pod0.team with tileSize := 0x1000 } } 2 0#32 16#32 0xFE0#32 0xFF0#32
    (∀ n ∈ [1, 2, 4, 8, 16], a podMem .g n (fun l => 0x200 + 16 * l) = some (podPlaces 16)) ∧
    (∀ n ∈ [1, 2, 4, 8, 16], (a tile .t n (fun l => (srcN tile 2 l).toNat)).isSome = true) ∧
    (∀ n ∈ [1, 2, 4, 8, 16], (a { pod0 with ctx := { pod0.ctx with scratch := 16 } } .d n (fun l => 16 * l)).isSome = true) ∧
    (∀ n ∈ [4, 8, 16], a pod0 .k n (fun l => 0x1000 + n * l) = some ((List.range 4).map fun l => (l, 0x19000 + n * l))) ∧
    a podMem .g 4 (fun l => 0x201 + 16 * l) = none ∧ a tile .t 16 (fun l => 0xFF0 + 16 * l) = none ∧ a pod0 .k 16 (fun l => 0x13D0 + 16 * l) = none ∧
    (∀ n < 4, selCounts (selOf (podMem.ctxOf podMem.ctx.owner) 0 n) 7 = false) ∧ (4#3 : BitVec 3).toNat ≤ 4 := by decide +kernel

/-- Stores: the checks pass where every lane has its own place and where all share one, and fail. -/
theorem witness_stores :
    let a (n : Nat) (x : Nat → Int) := (laneChecks podMem .g accWrite n false true ([0, 1, 2, 3].map fun l => (l, x l))).toOption
    MemoryOk podMem ∧ (∀ n ∈ [1, 2, 4, 8, 16], a n (fun l => 0x200 + 16 * l) = some (podPlaces 16) ∧ a n (fun _ => 0x200) = some (podPlaces 0)) ∧
    a 8 (fun l => 0x204 + 16 * l) = none ∧
    (laneChecks pod0 .k accWrite 16 false true ([0, 1, 2, 3].map fun l => (l, ((0x13C0 + 16 * l : Nat) : Int)))).toOption.isSome = true := by
  unfold MemoryOk; decide +kernel

/-- AccessChecks: lane 3 alone misaligned, and the first byte past the tile and the stack. -/
theorem witness_access_checks :
    let s := withAll (withLanes pod0 2 0x200#32 0x204#32 0x208#32 0x20D#32) 3 0#32
    let x (l : Nat) : Int := ((srcN s 2 l).toNat + 2 ^ 32 * (srcN s 3 l).toNat : Nat)
    let y (l : Nat) : Int := (srcN podMem 2 l).toNat
    let top (s : State) (k : Int) (l : Nat) : Int := (srcPod s).sp.toNat + k + (l * 4 : Nat)
    let odd : State := { pod0 with pod := { pod0.pod with sp := 0x13E1#64 } }
    ((activeMask s).getLsbD 3 = true ∧ x 3 % 4 ≠ 0 ∧ ∀ j < 3, x j % 4 = 0) ∧ (top odd 0 0 % 4 ≠ 0 ∧ (activeMask odd).getLsbD 0 = true) ∧
    ((∀ j < 4, y j % 4 = 0) ∧ (({ podMem.team with tileSize := 0x233 } : Team).tileSize : Int) < y 3 + 4) ∧
    ((∀ j < 4, top pod0 (-12) j % 4 = 0) ∧ 0x1400 < top pod0 (-12) 3 + 4) := by decide +kernel

/-- Atomics: four lanes at one place and at four, for both widths; a check that fails; ACAS below the last register. -/
theorem witness_atomics :
    let a (n : Nat) (x : Nat → Int) := (laneChecks podMem .g accAtomic n true true ([0, 1, 2, 3].map fun l => (l, x l))).toOption
    MemoryOk podMem ∧ (∀ n ∈ [4, 8], a n (fun l => 0x200 + 16 * l) = some (podPlaces 16) ∧ a n (fun _ => 0x200) = some (podPlaces 0)) ∧
    a 8 (fun _ => 0x204) = none ∧ (∀ n < 4, selCounts (selOf (podMem.ctxOf podMem.ctx.owner) 1 n) 3 = false) ∧ (124#7 : BitVec 7).toNat + 8 / 4 < 128 := by
  unfold MemoryOk; decide +kernel

/-- LineForms: lines that pass the checks of DISCARD and of FLUSH, and a line that does not translate. -/
theorem witness_lines :
    let a (kind : Nat) (w : Bool) (x : Nat → Int) := (laneChecks podMem .g kind 64 false w ([0, 1, 2, 3].map fun l => (l, x l))).toOption
    MemoryOk podMem ∧ a accAtomic true (fun _ => 0x200) = some (podPlaces 0) ∧ a accRead false (fun _ => 0x200) = some (podPlaces 0) ∧
    a accAtomic true (fun _ => 0x8000) = none ∧ a accRead false (fun _ => 0x8000) = none ∧
    (∀ n < 4, selCounts (selOf (podMem.ctxOf podMem.ctx.owner) 1 n) 7 = false) := by unfold MemoryOk; decide +kernel

/-! ### Tickets, barriers -/

/-- A declared region of four granules at 0x1000 with its counters at 0x2000. -/
def region0 : Region := ⟨0x1000, 4, 0x2000, [3], [], []⟩

/-- A pod whose owner has declared region 2, with granule 3 addressed by v2 and a ticket in v8; the counter of granule 3 is 7. -/
def podTk (ticket : W32) (entries : List TkEntry) : State :=
  let s := withAll (withAll (withAll pod0 2 0x10C0#32) 3 0#32) 8 ticket
  let c := { s.ctx with regions := s.ctx.regions.set 2 (some { region0 with counters := [(3, 7#16)] }), entries := entries }
  { s with ctx := c }

/-- The update that it offers. -/
def podOffer (s : State) (ticket : BitVec 16) : Option TkEntry :=
  (podUpdate s 0x10C0 0 ticket (updateMask (activeMask s)) false ((List.range 16).map fun i => srcN s (4 + i % 4) (i / 4))).toOption

/-- An entry as an update leaves it. -/
def tkEntry (ticket : BitVec 16) : TkEntry :=
  ⟨2, 3, 0x10C0#64, 0x190C0, ticket, 0xFFFF#16, false, [], 0, 0, 0, 0#32, 0⟩

/-- TicketedAdd: no active lane, a misaligned granule, one outside every region, and tickets 32,768 and 32,767 past the counter, at it and at
a pending ticket, with the slice empty and full. -/
theorem witness_ticketed_add :
    let s (t : W32) (e : List TkEntry) : State := podTk t e
    let is (o : Option TkEntry) : Bool := match o with | some u => u.region == 2 && u.granule == 3 && u.pa == 0x190C0 | none => false
    let off : State := { s 7#32 [] with pod := { (s 7#32 []).pod with pw := 0#32 } }
    let full := List.replicate 512 (tkEntry 9#16)
    MemoryOk (s 7#32 []) ∧ (activeMask (s 7#32 [])).getLsbD 0 = true ∧ is (podOffer (s 0x8007#32 []) 0x8007#16) = true ∧
    is (podOffer (s 7#32 []) 7#16) = true ∧ ((s 7#32 []).ctx.regions.getD 2 none).map (fun r => r.counter (s 7#32 []) 1 3) = some 7#16 ∧
    32768 ≤ (0x8007#16 - 7#16).toNat ∧ (0x8006#16 - 7#16).toNat = 32767 ∧
    shareUsed (s 8#32 []) (s 8#32 []).ctx.part (homeSlice 0x190C0) < 512 / max 1 (s 8#32 []).parts ∧
    (∃ e ∈ (s 9#32 [tkEntry 9#16]).ctx.entries, e.region = 2 ∧ e.granule = 3 ∧ e.ticket = 9#16) ∧
    ¬shareUsed (s 8#32 full) (s 8#32 full).ctx.part (homeSlice 0x190C0) < 512 / max 1 (s 8#32 full).parts ∧
    (podUpdate (s 7#32 []) 0x1100 0 7#16 0#16 false []).toOption.isNone = true ∧
    (∀ n < 4, selCounts (selOf ((s 7#32 []).ctxOf 0) 0 n) 10 = false ∧ selCounts (selOf ((s 7#32 []).ctxOf 0) 1 n) 4 = false) ∧
    activeMask off = 0#4 := by unfold MemoryOk; decide +kernel

/-- TicketOrder: an update at the counter is accepted while the next ticket and the one after it are pending. -/
theorem witness_ticket_order :
    let s := podTk 7#32 [tkEntry 9#16, tkEntry 8#16]
    (match acceptUpdate s 0 (tkEntry 7#16) with | .accepted t => decide ((t.ctxOf 0).entries = []) && (t.ctxOf 0).regions.getD 2 none != none | _ => false) = true ∧
    ((s.ctxOf 0).regions.getD 2 none).map (fun r => r.counter s 1 3) = some (tkEntry 7#16).ticket := by decide +kernel

/-- TicketForms: a TKSKIP of the whole region; records that declare, release and break the format; an address inside and past the region. -/
theorem witness_ticket_forms :
    let s := podTk 7#32 []
    let rec' (w : List W32) : State := withWords (podTk 7#32 []) 0x800 w
    let new : State := withWords pod0 0x800 [0x1000#32, 0#32, 4#32, 0x80000000#32, 0x2000#32, 0#32, 0#32, 0#32]
    let entry (t : State) : Option RegionRecord := (podRecord t 0x800 32 32).toOption.map regionRecord
    MemoryOk s ∧ s.pod.skip = 0 ∧ s.ctx.entries = [] ∧
    (∀ j < 4, (podUpdate { s with ctx := { s.ctx with regions := s.ctx.regions.set 2 (some region0) } } (0x1000 + 64 * j) 0 0#16 0#16 false
      (List.replicate 16 0#32)).toOption.map (fun u => (u.granule, region0.counter s 1 u.granule)) = some (j, 0#16)) ∧
    (match entry new with | some e => e.valid && e.clean && !regionBad new.ctx 15 e && (arrayPages new new.ctx (pagesOf e.cntr (2 * e.ngran))).toOption == some [3] | none => false) = true ∧
    new.poison = [] ∧ new.ctx.regions.getD 15 none = none ∧
    (match entry (rec' [0#32, 0#32, 0#32, 0#32, 0#32, 0#32, 0#32, 0#32]) with | some e => !e.valid && e.clean | none => false) = true ∧
    (arrayPages s s.ctx (pagesOf region0.cntr (2 * region0.ngran))).toOption = some [3] ∧
    (match entry (rec' [0#32, 0#32, 0#32, 1#32, 0#32, 0#32, 0#32, 0#32]) with | some e => !e.clean | none => false) = true ∧
    (podRecord s 0x810 32 32).toOption = none ∧ (s.ctx.regionOf 0x10FF).map (·.1) = some 2 ∧ s.ctx.regionOf 0x1100 = none := by
  unfold MemoryOk; decide +kernel

/-- A pod with a barrier object at 0x800. -/
def podBar (w : List W32) : State := withWords pod0 0x800 (w ++ List.replicate (16 - w.length) 0#32)

/-- BarrierArrival: the first arrival of two, the last one, an object past its count, a child that waits for its parent, and an object out of
place. -/
theorem witness_barrier_arrival :
    let o (s : State) : Option (List W32) := (readObject s 0 0x800).toOption.map fun x => x.2.take 7
    let child := withWords (podBar [2#32, 0#32, 5#32, 0x80000000#32, 0x900#32, 0#32, 3#32]) 0x900 ([2#32, 0#32, 3#32] ++ List.replicate 13 0#32)
    MemoryOk (podBar [2#32]) ∧ (∀ n < 4, selCounts (selOf ((podBar [2#32]).ctxOf 0) 1 n) 3 = false) ∧ (podBar [2#32]).cur ≠ .none ∧
    o (podBar [2#32]) = some [2#32, 0#32, 0#32, 0#32, 0#32, 0#32, 0#32] ∧ o (podBar [2#32, 1#32, 5#32]) = some [2#32, 1#32, 5#32, 0#32, 0#32, 0#32, 0#32] ∧
    o (podBar [2#32, 2#32]) = some [2#32, 2#32, 0#32, 0#32, 0#32, 0#32, 0#32] ∧
    o child = some [2#32, 0#32, 5#32, 0x80000000#32, 0x900#32, 0#32, 3#32] ∧
    ((readObject child 0 0x900).toOption.map fun x => phasePast (wordAt x.2 2) 3#32) = some false ∧
    (readObject child 0 0x810).toOption = none := by unfold MemoryOk; decide +kernel

/-- BarrierWaits: a phase one past the token and the token itself, a pointer with the same sequence number and 127 past it, a word equal to
sX, and a word out of place. -/
theorem witness_barrier_waits :
    let s := podBar [2#32, 1#32, 5#32]
    ((readObject s 0 0x800).toOption.map fun x => ((wordAt x.2 2 - 4#32).toNat, (wordAt x.2 2 - 5#32).toNat, (wordAt x.2 3).getLsbD 31)) = some (1, 0, false) ∧
    (0x7F000000 / 2 ^ 24 + 256 - 0x00000005 / 2 ^ 24) % 256 = 127 ∧ (podRecord s 0x808 4 4).toOption = some [5#8, 0#8, 0#8, 0#8] ∧
    0 ≤ (5#32 - 5#32 : W32).toInt ∧ (podRecord s 0x809 4 4).toOption = none ∧ (readObject s 0 0x840).toOption = none := by decide +kernel

/-! ### Engines and launches -/

/-- A descriptor of a 64 by 64 tensor at 0x1000: its format and the block code. -/
def desc0 (fmt : Nat) : List W32 :=
  [BitVec.ofNat 32 (0x80008000 + fmt), 0#32, 0x1000#32, 0#32, 0x6000#32, 0#32, 64#32, 64#32, 1#32, 1#32, 256#32, 0#32, 0#32, 0#32, 0#32, 0#32]

/-- A pod with a grant of 32 by 32 by 32, 16 KiB of tile store, a clustered grid, and tensors 1 (F32), 2 (BF16), 3 (an MX format). -/
def podEng : State :=
  { pod0 with team := { pod0.team with tileSize := 0x4000 }, grid := { pod0.grid with cluster := true },
              pod := { pod0.pod with shape := 0x55#7 },
              ctx := { pod0.ctx with descs := [(1, desc0 0x10), (2, desc0 0x12), (3, (desc0 0x18).set 0 0x80068018#32)] } }

/-- The operand registers of a command. -/
def withOps (s : State) (x y z : W32) : State := ((s.setScalar 1 x).setScalar 2 y).setScalar 4 z

/-- ShapeAndDescriptors: grants at their boundaries, records that make a descriptor and that do not, ids 4095 and 4096. -/
theorem witness_shape_and_descriptors :
    let s := withWords (pod0.setScalar 2 0x800#32) 0x800 (desc0 0x10)
    let size (n : Nat) : Nat := if n < 32 then 16 else if n < 64 then 32 else if n < 128 then 64 else 128
    MemoryOk s ∧ (size 16, size 31, size 32, size 127, size 128) = (16, 16, 32, 64, 128) ∧ (podRecord s 0x800 64 64).toOption.map (bytesWords 16) = some (desc0 0x10) ∧
    descOk (desc0 0x10) = true ∧ descOk (desc0 0) = false ∧ (translate s s.ctx 0x800 accWrite 0).toOption = some 0x18800 ∧
    s.ctx.guards 0x18800 64 = false ∧ ((srcPod (s.setScalar 3 4095#32)).scalar 3).toNat < 4096 ∧ 4096 ≤ ((srcPod (s.setScalar 3 4096#32)).scalar 3).toNat := by
  unfold MemoryOk; decide +kernel

/-- MatrixCommands: each command passes its checks, with the queue empty and with it full; and fails them. -/
theorem witness_matrix_commands :
    let s := withOps podEng
    let ok (s : State) (m : MatCmd) : Bool := (m.check (srcCtx s) s.team.tileSize).isNone
    let product (s : State) : Bool := ok s (newMatrix s (.mma 0#1 1#5 2#5 4#5 0#4 0#2) 1#5 2#5 4#5)
    let batch (s : State) : Bool := ok s (newMatrix s (.mmab 0#1 1#5 2#5 4#5 0#4 0#2) 1#5 2#5 4#5)
    let drain (s : State) : Bool := ok s (newMatrix s (.mdrain 0#3 1#5 2#5 4#5 0#4 0#1) 1#5 2#5 4#5)
    let zero (s : State) : Bool := ok s (newMatrix s (.tzero 1#5 2#5 0#4) 1#5 2#5 0#5)
    let scale (s : State) : Bool := ok s (newMatrix s (.tscl 0#3 1#5 2#5 4#5 0#4) 1#5 2#5 4#5)
    let turn (s : State) : Bool := (trotCheck s (newMatrix s (.trot 1#5 2#5 0#4) 1#5 2#5 0#5)).isNone
    let room (s : State) : Prop := (s.mats.filter fun m => m.core == (srcTeam s).core && isResident s (match s.teamOf m.team with | some t => t.owner | none => 0)).length < 16
    let full : State := { podEng with mats := List.replicate 16 (newMatrix podEng (.tzero 1#5 2#5 0#4) 1#5 2#5 0#5) }
    product (s 0x8000#32 0x10040#32 0x10060#32) = true ∧ product (s 0x8000#32 0x10001#32 0x10000#32) = false ∧
    batch (s 0x8000#32 0x10040#32 0x10080#32) = true ∧ batch (s 0x8000#32 0x10020#32 0x10080#32) = false ∧
    drain (s 0x8000#32 0x8000#32 0#32) = true ∧ drain (s 0x10000#32 0x8001#32 0#32) = true ∧ drain (s 0x20010000#32 0x8001#32 0#32) = false ∧
    zero (s 0x8000#32 256#32 0#32) = true ∧ zero (s 0x8000#32 0#32 0#32) = false ∧ scale (s 0x18000#32 0x8040#32 0#32) = true ∧
    scale (s 0x8000#32 0x8040#32 0#32) = false ∧ turn (s 0x8000#32 256#32 0#32) = true ∧ turn (s 0x8000#32 257#32 0#32) = false ∧
    (∀ c ∈ podEng.mats, ∀ i j k, c.instr ≠ .trot i j k) ∧ room podEng ∧ ¬room full := by decide +kernel

/-- CommandChecks: counts 0 and 1, an invalid descriptor, and a region that ends with the allocation and a granule past it. -/
theorem witness_command_checks :
    let n (b : W32) : Nat := b.toNat % 2 ^ 15
    let form (a b : W32) : Bool := a.toNat / 2 ^ 28 % 4 == 0 && (b.toNat / 2 ^ 28 == 0 || decide (4 ≤ a.toNat / 2 ^ 28)) && decide (b.toNat / 2 ^ 28 < 12) &&
      b.toNat / 2 ^ 15 % 2 ^ 13 == 0 && decide (1 ≤ n b) && decide (n b ≤ 24576)
    form 0x8000#32 0#32 = false ∧ form 0x8000#32 1#32 = true ∧ form 0x8000#32 24576#32 = true ∧ form 0x8000#32 24577#32 = false ∧
    (wordAt (descOf (srcCtx podEng) 1) 0).getLsbD 31 = true ∧ ¬(wordAt (descOf (srcCtx podEng) 4) 0).getLsbD 31 = true ∧
    64 * (0x80FF % 2 ^ 15) + 64 * 1 ≤ podEng.team.tileSize ∧ ¬64 * (0x8100 % 2 ^ 15) + 64 * 1 ≤ podEng.team.tileSize := by decide +kernel

/-- CopyCommands: a copy of G and of D and a window pass their checks; a misaligned one, a length of 0 and a window on D do not; a channel
is empty and full. -/
theorem witness_copy_commands :
    let c (s : State) (i : Instr) := newCopy s i 1#5 2#5 4#5
    let s := withOps podEng
    let plain (s : State) : Bool := ((c s (.tcpy 1#5 2#5 4#5 0#4)).check (srcCtx s) s.team.tileSize).isNone
    let window (s : State) : Bool := ((c s (.tcpyw 1#5 2#5 4#5 0#4)).check (srcCtx s) s.team.tileSize).isNone
    let full : Channel := { Channel.reset with queue := List.replicate 8 (c podEng (.tcpy 1#5 2#5 4#5 0#4)) }
    plain (s 0x8000#32 0x1000#32 0x0B000004#32) = true ∧ plain (s 0x8000#32 0x1001#32 4#32) = false ∧ plain (s 0x8000#32 0x1000#32 0#32) = false ∧
    plain { s 0x8000#32 0#32 0x04000001#32 with ctx := { podEng.ctx with scratch := 1 } } = true ∧
    window (s 0x8000#32 0#32 0x000F001#32) = true ∧ window (s 0x8000#32 0#32 0x04003003#32) = false ∧ (Channel.reset.queue).length < 8 ∧ 8 ≤ full.queue.length := by
  decide +kernel

/-- A KERNEL record of one team. -/
def kernelRec : List W32 := List.replicate 20 0#32 ++ [0x400#32, 0#32, 0x440#32, 0#32, 1#32, 1#32, 0x1000#32, 0#32, 64#32, 0#32, 0#32, 0#32]

/-- A pod of stream 5's grid, with that record at 0x800 and s2 naming it. -/
def podLaunch : State :=
  let s := withWords (pod0.setScalar 2 0x800#32) 0x800 kernelRec
  { s with grid := { s.grid with stream := 5 }, streams := s.streams.set 63 { Stream.reset with owner := 0#6 } }

/-- Launches: a record that passes the checks, depths 9 and 10, a child that runs, has retired and has gone, stream and queue of the owner
with room and full, and indices past the last. -/
theorem witness_launches :
    let s := podLaunch
    let b := (podRecord s 0x800 128 64).toOption.map (bytesWords 32)
    let deep (d : Nat) : State := { s with grid := { s.grid with depth := d } }
    let child (st : Option GridStatus) : State := { s.setScalar 1 9#32 with team := { s.team with children := [9#32] }, grids := (match st with
      | some st => [{ Grid.reset with handle := 9#32, status := st }] | none => []) }
    let found (st : Option GridStatus) : Option GridStatus := ((child st).grids.find? (·.handle == 9#32)).map (·.status)
    let nodes (n : Nat) : Stream := { Stream.reset with nodes := List.replicate n ⟨0#32, 0, [], [], false, .posted, none, 0⟩ }
    let q : FqQueue := ⟨255, 0x80000000#32, 0, []⟩
    let post : State := { s.setScalar 1 255#32 with ctx := { s.ctx with queues := [q] } }
    b = some kernelRec ∧ recType kernelRec = 0 ∧ recordStop s s.ctx.owner kernelRec = none ∧ s.pod.index = 0 ∧ { s.pod with index := 1 }.index ≠ 0 ∧
    (deep 9).grid.depth < 10 ∧ 10 ≤ (deep 10).grid.depth ∧ (srcPod (child none)).scalar 1 ∈ (child none).team.children ∧
    (∀ g ∈ (child none).grids, g.handle ≠ 9#32) ∧ found (some .running) = some .running ∧ found (some (.retired 3 true 0#32)) = some (.retired 3 true 0#32) ∧
    (srcPod s).scalar 1 ∉ s.team.children ∧ (s.streams.getD 63 Stream.reset).owner.toNat = s.ctx.owner ∧ (nodes 1023).nodes.length < 1024 ∧
    1024 ≤ (nodes 1024).nodes.length ∧ unfinished s < 4096 ∧ 64 ≤ ((srcPod (s.setScalar 1 64#32)).scalar 1).toNat ∧
    (engineWrite s s.ctx ((s.stream 5).tapeBase.toNat + 128 * (s.stream 5).tape) (wordsBytes kernelRec)).toOption.isSome = true ∧
    (post.ctx.queues.find? fun q => q.index == 255 && q.cfg.getLsbD 31) = some q ∧ (podRecord post 0x800 64 64).toOption.isSome = true ∧
    (s.ctx.queues.find? fun q => q.index == 255 && q.cfg.getLsbD 31) = none ∧ q.requests.length < 64 := by decide +kernel

/-! ### Fabric processors -/

/-- A fabric processor of a collective of two ranks and one target, with a residual buffer descriptor at 0x600 for 1 KiB at 0x4000, f1 to f4 given. -/
def fabG (code : Nat) (f1 f2 f3 f4 : W64) : State :=
  let s := withWords fab0 0x600 ([0x80000000#32, 0#32, 0x4000#32, 0#32, 0x400#32, 0#32] ++ List.replicate 10 0#32)
  let s := { s with coll := { s.coll with cds := [BitVec.ofNat 32 (0x80000000 + code * 2 ^ 28), 1#32, 0x20000#32, 1#32, 0x600#32, 0#32], group := [0#64, 1#64] } }
  withF (withF (withF (withF s 1 f1) 2 f2) 3 f3) 4 f4

/-- ZilkanRegisters: shifts both ways, a branch taken to the last word and past it, a loop that ends and goes on, a fence that is held, that
reports, and that does neither. -/
theorem witness_zilkan_registers :
    let at_ (pc : BitVec 51) : State := { fab0 with fp := { fab0.fp with pc := pc } }
    let target (pc : BitVec 51) (o : BitVec 16) : Int := (pc.toNat : Int) + 4 * o.toInt
    let x : Transfer := ⟨0, fab0.coll.id, 0, .send, 0, [], false, 0, 0#64, 0#64, 64, none, none, false, 0, [], true, false, 0⟩
    let held (z : Nat) (l : List Transfer) : Bool := decide (9 ≤ z) && l.any fun t => t.coll == fab0.coll.id && t.kind != .fetch && t.kind != .clone
    ((63#14 : BitVec 14).toInt = 63 ∧ (0x3FFF#14 : BitVec 14).toInt = -1) ∧
    (0 ≤ target 0#51 0#16 ∧ target 0#51 0xFFFF#16 < 0 ∧ ¬target (at_ 0x7FFFFFFFFFFFC#51).fp.pc 1#16 < 2 ^ 51) ∧
    ((withF fab0 1 2#64).fp.f.getD 1 0#64 ≠ 1#64 ∧ (withF fab0 1 1#64).fp.f.getD 1 0#64 = 1#64) ∧ (3#3 : BitVec 3) ≠ 7#3 ∧
    held 9 [x] = true ∧ held 8 [x] = false ∧ held 9 fab0.fp.transfers = false ∧ fab0.fp.errors = [] := by decide +kernel

/-- ZilkanMemory: both widths inside the page, a misaligned address, an object whose phase is past the token and at it, flags ahead and
behind, an arrival, ranks P - 1 and P, and a processor that ends with another still running and alone. -/
theorem witness_zilkan_memory :
    let s := withF (withWords (fabG 1 0#64 0#64 0#64 0#64) 0x800 ([2#32, 0#32, 5#32] ++ List.replicate 13 0#32)) 5 0x800#64
    let last := closeFocus { s with fp := { s.fp with phase := .ended } }
    let two : State := { last with fabric := replaceIf last.fabric (·.index == 1) fun f => { f with coll := some s.coll.id, phase := .ready } }
    MemoryOk s ∧ (translate s s.ctx 0x7FFC accRead 0).toOption = some 0x1FFFC ∧ (translate s s.ctx 0x7FF8 accWrite 0).toOption = some 0x1FFF8 ∧
    s.ctx.guards 0x1FFF8 8 = false ∧ poisonIn s.poison 0x1FFF8 8 = none ∧ (0x7FFC : Int) % 8 ≠ 0 ∧
    (readObject s s.ctx.owner (s.fp.f.getD 5 0#64).toNat).toOption = some (0x18800, [2#32, 0#32, 5#32] ++ List.replicate 13 0#32) ∧
    ((5#32 - 4#32 : W32).toNat = 1 ∧ (5#32 - 5#32 : W32).toNat = 0) ∧ (0 ≤ (5#32 - 5#32 : W32).toInt ∧ (5#32 - 6#32 : W32).toInt < 0) ∧
    (match (arrive s s.ctx.owner 0x800).token with | .ok v => v == 5#32 | _ => false) = true ∧ (arrive s s.ctx.owner 0x800).state.fp = s.fp ∧
    (1 < (s.coll.cds.getD 2 0#32).toNat / 2 ^ 16 ∧ (s.coll.cds.getD 2 0#32).toNat / 2 ^ 16 ≤ 2) ∧ s.fp.transfers = [] ∧ s.fp.errors = [] ∧
    (∃ g ∈ two.fabric, g.coll = some s.coll.id ∧ g.phase ≠ .ended) ∧ (∀ g ∈ last.fabric, g.coll = some s.coll.id → g.phase = .ended) := by
  unfold MemoryOk; decide +kernel

/-- ZilkanTransfers: a source and a sink of 64 bytes, the last peer and target and those past them, a residual buffer, a misaligned place, and
a length of 0. -/
theorem witness_zilkan_transfers :
    let s := fabG 1 0x7FC0#64 0x40#64 64#64 0x44#64
    let sink (va n : Nat) : Bool := (translateRange s s.ctx accWrite 0 (pagesOf va n)).toOption.isSome
    let tx : State := { s with streams := s.streams.set 0 { Stream.reset with owner := 0#6, nodes := [⟨7#32, 0, (List.replicate 32 0#32).set 0 0x10000000#32 |>.set 23 0x08000000#32, [], false, .running, none, 0⟩] } }
    (engineRead s s.ctx 0x7FC0 64).toOption.isSome = true ∧ sink 0x7FC0 64 = true ∧ (s.fp.f.getD 1 0#64).toNat % 64 = 0 ∧ (s.fp.f.getD 3 0#64).toNat = 64 ∧
    (s.fp.f.getD 4 0#64).toNat % 4 = 0 ∧ (s.coll.cds.getD 2 0#32).toNat / 2 ^ 16 = 2 ∧ (s.coll.cds.getD 3 0#32).toNat % 2 ^ 8 = 1 ∧
    (residualOf s fun _ t => t).toOption.map (fun r => (r.base, r.size, sink r.base r.size, sink r.addr 64)) = some (0x4000, 0x400, true, true) ∧
    (inputNode tx 0 7#64).isSome = true ∧ ((fabG 1 0x7FC4#64 0#64 64#64 0#64).fp.f.getD 1 0#64).toNat % 64 ≠ 0 ∧
    ((fabG 1 0#64 0#64 0#64 0#64).fp.f.getD 3 0#64).toNat = 0 := by decide +kernel

/-- Hops of four elements: the incoming chunk at 0x1000, the operand at 0x1400, the output at 0x1800. The words: two scales and codes. -/
def fabHop (code : Nat) (codes : W32) : State :=
  withWords (withF (fabG code 0x1000#64 0x1400#64 0x1800#64 0#64) 5 4#64) 0x1000 ([0x3F80#32] ++ List.replicate 15 0#32 ++ [codes])

/-- Hops: each form passes its checks and can write; a reserved code in the last element. -/
theorem witness_hops :
    let inC : HopRange := ⟨0x1000, 128, 64, true, false⟩
    let inG : HopRange := ⟨0x1400, 16, 4, true, false⟩
    let out (va : Nat) (rw : Bool) : HopRange := ⟨va, 16, 4, rw, true⟩
    let outC : HopRange := ⟨0x1800, 128, 64, false, true⟩
    let ok (s : State) (same : Bool) (rs : List HopRange) : Bool := (hopChecks s same rs).toOption.isSome
    let owes (s : State) (rs : List HopRange) : Bool := match residualOf s hopUnread with
      | .ok r => (slotRange s r 0 4 rs).toOption == some 0x4000 && (vbytes s s.ctx 0 0x4000 16).toOption.isSome
      | _ => false
    let s := fabHop 1 5#32
    let t := fabHop 2 0xC4#32
    let bad := fabHop 2 0x84#32
    let code (s : State) (k : Nat) : Nat := (((engineRead s s.ctx 0x1000 128).toOption.getD []).getD 64 0#8).toNat / 4 ^ k % 4
    (hopCount s 5#4 1#4).toOption = some 4 ∧ (hopCount t 5#4 1#4).toOption = some 4 ∧ ok s true [inC, inG, out 0x1800 false] = true ∧
    ok s true [inC, inG, out 0x1400 false] = true ∧ ok t false [inC, out 0x1400 true] = true ∧ ok s false [inG, outC] = true ∧ ok t false [inC, inG, outC] = true ∧
    owes s [inG, outC] = true ∧ owes t [inC, inG, outC] = true ∧ (engineRead s s.ctx 0x1400 16).toOption.isSome = true ∧
    (fabricWrite s 0x1800 (List.replicate 128 0#8)).toOption.isSome = true ∧ (fabricWrite s 0x4000 (List.replicate 16 0#8)).toOption.isSome = true ∧
    (∀ k < 4, code t k ≠ 2) ∧ code bad 3 = 2 ∧ (∀ n < 4, selCounts (s.fpsel.getD (4 * s.fp.index + n) 0#32) 4 = false) := by decide +kernel

/-! ### Events of the cores -/

/-- A counter past the fourth selects nothing, so that four that count no event are all of them. -/
theorem quiet_of_four (c : Context) (k ev : Nat) (h : ∀ n < 4, selCounts (selOf c k n) ev = false) : ∀ n, selCounts (selOf c k n) ev = false := by
  intro n
  rcases Nat.lt_or_ge n 4 with hn | hn
  · exact h n hn
  · have : selOf c k n = 0#32 := by unfold selOf; split <;> simp [Vector.getD, hn]
    rw [this]; simp [selCounts]

/-- The pods and processors of these tests count no event. -/
theorem witness_uncounted (k ev : Nat) : Uncounted podMem k ev ∧ Uncounted (podTk 7#32 []) k ev ∧ Uncounted (podBar [2#32]) k ev := by
  have z (s : State) (h : ∀ n < 4, (s.ctxOf s.ctx.owner).cntsel.getD n 0#32 = 0#32 ∧ (s.ctxOf s.ctx.owner).slsel.getD n 0#32 = 0#32) : Uncounted s k ev :=
    quiet_of_four _ k ev fun n hn => by
      have : selOf (s.ctxOf s.ctx.owner) k n = 0#32 := by unfold selOf; split <;> simp [h n hn]
      rw [this]; simp [selCounts]
  exact ⟨z _ (by decide +kernel), z _ (by decide +kernel), z _ (by decide +kernel)⟩

/-- The pod of pod0 changed, and nothing in focus. -/
def resting (f : Pod → Pod) (s : State) : State := closeFocus { s with pod := f s.pod }

/-- Its pod. -/
def restPod (s : State) : Option Pod := (s.teams.find? (·.id == 1)).bind fun t => t.pods.find? (·.index == 0)

/-- PodEvents: a result of two registers up to the last one, a sleep and a wait that have just ended, a hold, a convergence, completions, and
a gap just as old as GAPX says. -/
theorem witness_pod_events :
    let pend : Pending := ⟨7, .lanes 5#4 126 [laneWord fun _ => 1#32, laneWord fun _ => 2#32]⟩
    let late (s : State) (k : Nat) : State := { s with clock := k }
    let at_ (ph : Phase) (s : State) : State := resting (fun p => { p with phase := ph }) s
    let word (w : W32) (k : Wait) : Option State := openPod (at_ (.waiting k 0) (loaded (withWords (((podBar [2#32, 1#32, 5#32]).setScalar 2 0x800#32).setScalar 1 4#32) 0 [w, 0#32, 0#32]))) 1 0
    let gap : State := late (closeFocus { podTk 7#32 [tkEntry 9#16, { tkEntry 8#16 with since := 5 }] with ctx := { (podTk 7#32 [tkEntry 9#16, { tkEntry 8#16 with since := 5 }]).ctx with tkctl := 4#32 } }) 16
    (closeFocus pod0).teams.any (fun t => t.id == 1 && isResident (closeFocus pod0) t.owner) = true ∧
    ((restPod (resting (fun p => { p with pending := [pend] }) pod0)).bind fun p => p.pending.find? (·.tag == 7)) = some pend ∧
    (restPod (late (at_ (.asleep 9) pod0) 9)).map (·.phase) = some (.asleep 9) ∧ (restPod (at_ (.waiting .rejoin 3) pod0)).map (·.phase) = some (.waiting .rejoin 3) ∧
    (restPod (late (at_ (.waiting .converge 1) pod0) (2 ^ 32 + 1))).map (fun p => (p.phase, p.skip)) = some (.waiting .converge 1, 0) ∧
    (openPod (at_ (.waiting .converge 1) pod0) 1 0).isSome = true ∧ ((closeFocus pod0).gridOf 1#32).isSome = true ∧
    (match word (encode 0#1 (.bwait 3#5 2#5 1#5)) .barrier with | some o => o.pod.phase == .waiting .barrier 0 && loneInstr o == some (.bwait 3#5 2#5 1#5) && (match exec (.bwait 1#5 2#5 3#5) o with | .next _ => true | _ => false) | none => false) = true ∧
    (match word (encode 0#1 (.waitmem 1#5 2#5 1#2)) .memory with | some o => o.pod.phase == .waiting .memory 0 && loneInstr o == some (.waitmem 1#5 2#5 1#2) | none => false) = true ∧
    (gap.ctxOf 0).entries.filter (fun e => e.region == 2 && e.granule == 3) = [tkEntry 9#16, { tkEntry 8#16 with since := 5 }] ∧
    ((gap.ctxOf 0).tkctl.toNat % 32 ≠ 0 ∧ 0 + 2 ^ ((gap.ctxOf 0).tkctl.toNat % 32) ≤ gap.clock) ∧
    ((gap.ctxOf 0).regions.getD 2 none).map (fun r => (r.counter gap 1 3, r.posted)) = some (7#16, []) := by decide +kernel

/-- A core with one command of its team accepted, started or not. -/
def coreWith (m : MatCmd) (started : Bool) (next : Nat) (s : State) : State := { closeFocus s with mats := [{ m with started := started, next := next }] }

/-- A TZERO of the first granule, and an MMA of 16 by 16 by 16 in BF16. -/
def cmdZero : MatCmd := newMatrix (withOps podEng 0x8000#32 1#32 0#32) (.tzero 1#5 2#5 0#4) 1#5 2#5 0#5
/-- The product. -/
def cmdProduct : MatCmd := { newMatrix (withOps podEng 0x8000#32 0x10040#32 0x10060#32) (.mma 0#1 1#5 2#5 4#5 0#4 0#2) 1#5 2#5 4#5 with shape := 0x40#7 }
/-- A ticketed drain into a tensor of 16 rows of one granule, which region 2 covers. -/
def cmdDrain : MatCmd :=
  let d := (((((desc0 0x10).set 0 0x92008010#32).set 6 16#32).set 7 16#32).set 10 64#32)
  { newMatrix (withOps podEng 0x30008000#32 0x8000#32 0#32) (.mdrain 0#3 1#5 2#5 4#5 0#4 1#1) 1#5 2#5 4#5 with
    shape := 0x40#7, dx := d, dy := desc0 0x10, sz1 := 0#32 }

/-- EngineEvents, the matrix engine: each command just accepted and started, a command that fails on poison, a TROT with its four legs, and a
ticketed drain before its second granule and after its last. -/
theorem witness_matrix_events :
    let s (m : MatCmd) (b : Bool) (n : Nat) : State := coreWith m b n podEng
    let team (s : State) : Team := (s.teamOf 1).getD Team.reset
    let z := s cmdZero true 0
    let bad : State := { s cmdProduct true 0 with poison := [tileAt 0 0 / 64] }
    let region (s : State) : State := { s with owners := s.owners.map fun c => { c with regions := c.regions.set 2 (some { region0 with ngran := 16, cntr := 0x6000 }) } }
    let d := region (s cmdDrain true 1)
    let leg (k : Nat) : MatCmd := { newMatrix (withOps podEng 0x8000#32 1#32 0#32) (.trot 1#5 2#5 0#4) 1#5 2#5 0#5 with id := 10 + k, team := 1 + k, core := k, started := true }
    let four : State := { closeFocus podEng with teams := (List.range 4).map fun k => { podEng.team with id := 1 + k, number := k, core := k }, mats := (List.range 4).map leg }
    let moves := (trotLegs four (leg 0)).map (legMove four (trotLegs four (leg 0)))
    (∀ m ∈ [cmdZero, cmdProduct, cmdDrain], (s m false 0).mats.find? (·.id == m.id) = some { m with started := false, next := 0 } ∧ blocked (s m false 0) m.core m.id (cmdRanges (s m false 0) m) = false) ∧
    isResident z 0 = true ∧ (match runMatrix z (team z) { cmdZero with started := true } with | some (.ok _) => true | _ => false) = true ∧
    (match runMatrix bad (team bad) { cmdProduct with started := true } with | some (.error _) => true | _ => false) = true ∧
    tilePoison z (tileAt 0 0) (cmdProduct.ranges.map fun r => (r.1, r.2.1)) = none ∧ cmdDrain.ticketed = true ∧ cmdDrain.granules.length = 16 ∧
    (∀ n < 4, selCounts (selOf (z.ctxOf 0) 0 n) 5 = false) ∧ cmdDrain.ticketStop (d.ctxOf 0) = none ∧
    (translate d (d.ctxOf 0) (64 * cmdDrain.granules.getD 1 0) accAtomic 0).toOption = some 0x19040 ∧
    (match acceptUpdate d 0 (drainUpdate d (team d) { cmdDrain with started := true, next := 1 } 0x1040 0x19040) with | .accepted v => (List.range 4).all fun n => !selCounts (selOf (v.ctxOf 0) 0 n) 10 | _ => false) = true ∧
    drainApplied d (team d) { cmdDrain with started := true, next := 16 } = true ∧ (trotLegs four (leg 0)).length = 4 ∧ (four.teamOf 4).isSome = true ∧
    moves.Pairwise (fun a b => a.1 + a.2.length ≤ b.1 ∨ b.1 + b.2.length ≤ a.1) ∧ (∀ a ∈ moves, 2 ^ 48 ≤ a.1) := by decide +kernel

/-- EngineEvents, the copy channels: a copy that waits, one that is half done, one before its last granule, and one that fails. -/
theorem witness_copy_events :
    let c : CopyCmd := newCopy (withOps podEng 0x8000#32 0x1000#32 0x03000002#32) (.tcpy 1#5 2#5 4#5 0#4) 1#5 2#5 4#5
    let far : CopyCmd := { c with sy := 0x8000#32 }
    let chan (f : Channel → Channel) : State := closeFocus { podEng with team := { podEng.team with chans := podEng.team.chans.setIfInBounds 3 (f Channel.reset) } }
    let s (n : BitVec 24) (c : CopyCmd) : State := chan fun k => { k with current := some c, cnt := n }
    let t (s : State) : Team := (s.teamOf 1).getD Team.reset
    let q := chan fun k => { k with queue := [c] }
    let runs (s : State) (c : CopyCmd) (n : Nat) : Bool := match copyGranule s (t s) c n with | .ok u => (List.range 4).all fun k => !selCounts (selOf (u.ctxOf 0) 0 k) 8 | _ => false
    blocked q 0 c.id (copyRanges (t q) c) = false ∧ ((t q).chans.getD 3 Channel.reset).queue = [c] ∧ ((t q).chans.getD 3 Channel.reset).current = none ∧
    ((t (s 1#24 c)).chans.getD 3 Channel.reset).current = some c ∧ 0 + 1 < copyBytes c / 64 ∧ copyBytes c / 64 ≤ 1 + 1 ∧ runs (s 0#24 c) c 0 = true ∧
    runs (s 1#24 c) c 1 = true ∧ runs (s 0#24 far) far 0 = false ∧ (c.sz.getLsbD 27 = false ∧ c.sz.getLsbD 26 = false) ∧
    ((engineRead (s 1#24 c) ((s 1#24 c).ctxOf 0) 0x1040 64).toOption.map (·.length)) = some 64 := by decide +kernel

/-! ### The graph engine, collectives, transforms -/

/-- Owner 0 resident with its page table, stream 63 its own and enabled, and the nodes given on it. -/
def idle (nodes : List Node) : State :=
  let s := placedBase State.reset []
  { s with streams := s.streams.set 63 { Stream.reset with owner := 0#6, enable := true, nodes := nodes, next := nodes.length } }

/-- The first handle of stream 63. -/
def h63 : W32 := 0xFC000000#32

/-- A node of stream 63 with words of its record by place. -/
def nodeOf63 (status : NodeStatus) (l : List (Nat × W32)) : Node :=
  ⟨h63, 0, l.foldl (fun w x => w.set x.1 x.2) (List.replicate 32 0#32), [], false, status, none, 0⟩

/-- A state with stream 63 changed. -/
def stream63 (s : State) (f : Stream → Stream) : State := { s with streams := s.streams.set 63 (f (s.stream 63)) }

/-- A KERNEL body. -/
def kernelBody : List (Nat × W32) := [(20, 0x400#32), (22, 0x440#32), (24, 1#32), (25, 1#32), (26, 0x1000#32), (28, 64#32)]

/-- GraphNodes, appending and completing: a record that is appended and one that is not, an entry that can be written, and a met wait. -/
theorem witness_graph_append :
    let post (w : List W32) : State := stream63 (withWords (idle []) 0x800 w) fun st => { st with postBase := 0x800#64, postSize := 4#32, postTail := 1#32 }
    let good := post (nodeOf63 .posted (kernelBody)).words
    let read (s : State) : Option (List W32) := (engineRead s (s.ctxOf 0) ((s.stream 63).postRing.entryAt (s.stream 63).postHead 128) 128).toOption.map (bytesWords 32)
    let st (s : State) := s.streams.getD 63 Stream.reset
    let done := stream63 (idle [nodeOf63 (.finished 3#32) []]) fun st => { st with cplBase := 0x800#64, cplSize := 4#32 }
    let waits := withWords (idle [nodeOf63 .posted [(1, 4#32), (4, 0x900#32), (6, 4#32)]]) 0x900 ([2#32, 0#32, 5#32] ++ List.replicate 13 0#32)
    ((st good).enable = true ∧ (good.ctxOf 0).created = true ∧ (good.ctxOf 0).dead = false ∧ (st good).postHead ≠ (st good).postTail ∧
      (st good).postRing.entries ≠ 0 ∧ (st good).nodes.length < 1024 ∧ unfinished good < 4096) ∧
    (read good).map (recordStop good 0) = some none ∧ (read (post [])).map (recordStop (post []) 0) = some (some .reservedField) ∧
    (done.nodeOf h63).map (·.status) = some (.finished 3#32) ∧ (done.stream 63).cplRing.full = false ∧ handleStream h63 = 63 ∧
    (engineWrite done (done.ctxOf 0) ((done.stream 63).cplRing.entryAt 0#32 16) (wordsBytes [h63, 3#32, 0#32, 0#32])).toOption.isSome = true ∧
    isResident waits (nodeOwner waits h63) = true ∧ ((readPhase waits 0 0x900).toOption.map fun x => x.2) = some 5#32 := by decide +kernel

/-- GraphNodes, working: COPY with its last granule and one before, each SIGNAL, TAPE nodes empty, full, at their count, and after their grid. -/
theorem witness_graph_work :
    let first (s : State) : Bool := match s.nodeOf h63 with | some n => isResident s (nodeOwner s h63) && nodeReady s n && firstOfClass s n [3, 4, 5] | none => false
    let copy (n : W32) : State := idle [nodeOf63 .posted [(0, 0x30000000#32), (20, 0x1000#32), (22, 0x1100#32), (24, n)]]
    let signal (k : W32) : State := withWords (idle [nodeOf63 .posted [(0, 0x40000000#32), (20, 0x900#32), (22, k)]]) 0x900 ([2#32, 0#32, 5#32] ++ List.replicate 13 0#32)
    let tape (n : Nat) (count : W32) : State := stream63 (withWords (idle [nodeOf63 .posted [(0, 0x50000000#32), (20, count)]]) 0x800 (nodeOf63 .posted kernelBody).words) fun st => { st with tapeBase := 0x800#64, tape := n }
    let grid (fail : Bool) : Grid := { Grid.reset with handle := 9#32, status := .retired 3 fail 3#32 }
    let back : State := { idle [{ nodeOf63 .running [(0, 0x50000000#32)] with grid := some 9#32 }] with grids := [grid true] }
    first (copy 64#32) = true ∧ first (copy 128#32) = true ∧ (engineRead (copy 64#32) ((copy 64#32).ctxOf 0) 0x1000 64).toOption.isSome = true ∧
    (engineWrite (copy 64#32) ((copy 64#32).ctxOf 0) 0x1100 (List.replicate 64 1#8)).toOption.isSome = true ∧
    (first (signal 0#32) = true ∧ first (signal 1#32) = true ∧ first (signal 2#32) = true) ∧ (engineWrite (signal 0#32) ((signal 0#32).ctxOf 0) 0x900 (natBytes 4 0)).toOption.isSome = true ∧
    (engineWrite (signal 0#32) ((signal 0#32).ctxOf 0) 0x8000 (natBytes 4 0)).toOption = none ∧
    (match (arrive (signal 1#32) 0 0x900).token with | .ok _ => true | _ => false) = true ∧ first (tape 1 0#32) = true ∧ ((tape 0 0#32).stream 63).tape = 0 ∧
    (engineRead (tape 1 0#32) ((tape 1 0#32).ctxOf 0) 0x800 128).toOption.map (fun b => (recType (bytesWords 32 b), recordStop (tape 1 0#32) 0 (bytesWords 32 b))) = some (0, none) ∧
    (back.nodeOf h63).map (fun n => (n.status, n.grid)) = some (.running, some 9#32) ∧ (back.gridOf 9#32).map (·.status) = some (.retired 3 true 3#32) := by
  decide +kernel

/-- Wherever the choice of a first partition falls, a team of one pod and one step of tile store fits an empty core. -/
theorem team_fits (s : State) (g : Grid) (n core : Nat) (h1 : teamsOn s core = []) (h2 : g.pods = 1) (h3 : g.ws = 1#4) (h4 : g.tile = 1) :
    (placeTeam s g n core).isSome = true := by
  have hb : freeBase [] (4096 * 1) 4096 0x180000 = some 0 := by decide +kernel
  have hf (q : Nat) : bunchFits [] q 1 16 = some [0] := by
    have : freeBase [] 16 16 512 = some 0 := by decide +kernel
    simp [bunchFits, windowsIn, this, List.range_succ]
  have hp : (placeBunches s (newPod s g core n) (16 * (1#4 : BitVec 4).toNat) 1 0 1 [] []).isSome = true := by
    simp [placeBunches, List.range_succ, placeBunch, hf]
  obtain ⟨ps, hps⟩ := Option.isSome_iff_exists.mp hp
  simp only [placeTeam, h1, h2, h3, h4, List.map_nil, List.flatMap_nil, hb]
  rw [show (1 + 15) / 16 = 1 from rfl, hps]
  rfl

/-- GridEvents: the first team of a KERNEL node, on the last core, and the next team of a grid start. -/
theorem witness_team_starts :
    let krec : List W32 := [0#32, 0#32, 0#32, 0#32, 0x00011001#32, 0#32, 0#32, 0#32]
    let s := withWords (idle [nodeOf63 .posted kernelBody]) 0x400 krec
    let g := gridOfNode s (nodeOf63 .posted kernelBody)
    let running : Grid := { gridOfRecord (nodeOf63 .posted kernelBody).words 5#32 0 63 h63 0 0 false with uid := 0 }
    let s' : State := { withWords (idle []) 0x400 krec with grids := [running] }
    let turn (s : State) (g : Grid) : Bool := (coreClass s g.owner).all fun e => !poolBefore (e.pri, e.stamp) (g.pri, g.stamp)
    ((s.grids.find? fun g => g.handle == h63 && g.hasTeams) = none ∧ nodeReady s (nodeOf63 .posted kernelBody) = true ∧ isResident s (nodeOwner s h63) = true ∧
      (575 < 576 ∧ 575 / 144 * s.parts / 4 = (s.ctxOf 0).part ∧ 0 / 144 * s.parts / 4 = (s.ctxOf 0).part) ∧ turn s g = true ∧
      (s'.grids.find? fun g => g.handle == 5#32 && g.hasTeams) = some running ∧ turn s' running = true) ∧
    (∃ y u x, loadGrid s g = .ok y ∧ startNext s y 575 = some (u, x)) ∧ (∃ y u x, loadGrid s' running = .ok y ∧ startNext s' y 0 = some (u, x)) := by
  intro krec s g running s' turn
  have go (s : State) (g : Grid) (core : Nat) (hc : teamsOn s core = [])
      (h : (loadGrid s g).toOption.map (fun y => (y.pods, y.ws, y.tile, y.cluster)) = some (1, 1#4, 1, false)) :
      ∃ y u x, loadGrid s g = .ok y ∧ startNext s y core = some (u, x) := by
    cases e : loadGrid s g with
    | error x => simp [e, Except.toOption] at h
    | ok y =>
      simp only [e, Except.toOption, Option.map_some, Option.some.injEq, Prod.mk.injEq] at h
      obtain ⟨t, ht⟩ := Option.isSome_iff_exists.mp (team_fits s y y.started core hc h.1 h.2.1 h.2.2.1)
      exact ⟨y, _, _, rfl, by simp only [startNext, h.2.2.2, startOne, ht]; rfl⟩
  exact ⟨by decide +kernel, go s g 575 (by decide +kernel) (by decide +kernel), go s' running 0 (by decide +kernel) (by decide +kernel)⟩

/-- GridEvents: a team ends; a grid with a launcher, one that is ending, and one of a node retire. -/
theorem witness_grid_events :
    let running : Grid := { gridOfRecord (nodeOf63 .posted kernelBody).words 5#32 0 63 h63 0 0 false with uid := 0 }
    let done : State := { idle [] with grids := [{ running with endedTeams := 0, started := 1 }], teams := [{ Team.reset with id := 4, handle := 5#32, pods := [{ Pod.reset with phase := .ended }] }] }
    let retire (f : Grid → Grid) (n : List Node) : State := { idle n with grids := [f { running with started := 1, endedTeams := 1 }] }
    (done.teams.find? (·.id == 4)).isSome = true ∧ (∀ m ∈ done.mats, m.team ≠ 4) ∧ (∀ e ∈ (done.ctxOf 0).entries, e.team ≠ 4) ∧
    ((retire (fun g => { g with parent := some 1#32, leader := some 0 }) []).gridOf 5#32).map (fun g => (g.status, g.endedTeams == g.teams)) = some (.running, true) ∧
    ((retire (fun g => { g with parent := some 1#32, leader := some 0, status := .ending 3 3#32, teams := 2 }) []).gridOf 5#32).map (fun g => g.endedTeams == g.started) = some true ∧
    ((retire (fun g => { g with node := h63 }) [nodeOf63 .running kernelBody]).nodeOf h63).map (fun n => recType n.words) = some 0 := by decide +kernel

/-- UnitEvents, the start of collectives: one that captures on as many processors as there are, and one whose descriptor does not read. -/
theorem witness_collective_start :
    let body (nfp : W32) (cds : W32) : List (Nat × W32) := [(0, 0x20000000#32), (20, 0x400#32), (22, cds), (24, 0x4C0#32), (26, nfp), (27, 1#32)]
    let cds : List W32 := [0x80000000#32, 1#32, 0x00010000#32, 0#32, 0#32, 0#32, 0x480#32, 0#32] ++ List.replicate 8 0#32
    let s (nfp cds' : W32) : State := withWords (withWords (idle [nodeOf63 .posted (body nfp cds')]) 0x440 cds) 0x480 [0#32, 0#32, 0#32, 0#32]
    let work (s : State) := firstWork (nodeWork s 0 ++ queueWork s 0)
    let captured (s : State) : Option Nat := (work s).bind fun x => (captureWork s 0 s.ids x).toOption.map fun y => y.1.nfp
    (s 16#32 0x440#32).resident.getD 0 none = some 0 ∧ captured (s 16#32 0x440#32) = some 16 ∧ (idleFabric (s 16#32 0x440#32) 0).length = 16 ∧
    (work (s 16#32 0x8000#32)).isSome = true ∧ captured (s 16#32 0x8000#32) = none ∧ (s 1#32 0#32).fabric.length = 16 ∧
    (∀ i, (h : i < 16) → ((s 1#32 0#32).fabric[i]?.map (·.index)) = some i) := by
  refine ⟨?_, ?_, ?_, ?_, ?_, ?_, ?_⟩
  · decide +kernel
  · decide +kernel
  · decide +kernel
  · decide +kernel
  · decide +kernel
  · decide +kernel
  · decide +kernel

/-- UnitEvents, transforms: a node that starts on G and on die scratch that it does not fit, suspended work that goes on, granules to write, one
past the limit, the end, a source that stays away, and bytes that arrive. -/
theorem witness_transforms :
    let body (dst : W32) (limit : W32) (insrc : W32) : List (Nat × W32) := [(0, 0x10000000#32), (20, 0x1000#32), (22, 100#32), (23, dst <<< 28 ||| insrc <<< 27), (26, 0x2000#32), (28, limit), (29, insrc)]
    let n (st : NodeStatus) (dst limit insrc : W32) : Node := nodeOf63 st (body dst limit insrc)
    let s := idle [n .posted 2#32 2#32 0#32]
    let x : Xform := ⟨h63, 0, 0, none, 0, [], Decoder.reset, 0, 0, 0, none⟩
    let run (x : Xform) (limit : W32) : State := { idle [n .running 2#32 limit 0#32] with xforms := (idle []).xforms.set 0 (some x) }
    let does (x : Xform) (limit : W32) : Option (Nat × Bool × Bool) := match engineWork (run x limit) 0 with
      | some (y, n) => match feedXform (run x limit) n.words 3 y with
        | .ok (z, a) => some (z.buf.length, (match a with | .write _ => true | _ => false), a == .finished)
        | _ => none
      | none => none
    let late : State := { idle [n .running 2#32 2#32 1#32] with xforms := (idle []).xforms.set 0 (some x), fabClock := 1400 }
    let m : Transfer := ⟨3, 0, 0, .fetch, 0, [], false, 0, 0xFC000000#64, 0#64, 128, none, some h63, false, 0, [], true, false, 0⟩
    let arrives : State := { late with fabric := [{ Fabric.reset 5 with phase := .waiting .engine 0, transfers := [m] }] }
    (nodeReady s (n .posted 2#32 2#32 0#32) = true ∧ s.parked.find? (·.node == h63) = none ∧ (xfEngine s 0 (n .posted 2#32 2#32 0#32).words).map (·.1) = some 0 ∧
      partOfDie s 0 = (s.ctxOf 0).part ∧ s.xforms.getD 0 none = none ∧ engineQueue s (n .posted 2#32 2#32 0#32) 0 = false) ∧
    (xfFits s 0 (n .posted 2#32 2#32 0#32).words none = true ∧ xfFits s 0 (n .posted 1#32 2#32 0#32).words none = false) ∧
    does x 2#32 = some (64, true, false) ∧ does { x with got := 64, written := 1 } 1#32 = some (36, true, false) ∧ does { x with got := 100, written := 2 } 2#32 = some (0, false, true) ∧
    teamGone (run x 2#32) x = false ∧ (xfPut (run x 2#32) x (n .running 2#32 2#32 0#32).words (List.replicate 64 0#8)).toOption.isSome = true ∧
    ((xfNext (n .running 2#32 2#32 0#32).words { x with got := 100, written := 2 }).2 = .finished ∧ (xfNext (n .running 2#32 2#32 0#32).words { x with got := 100, buf := List.replicate 36 0#8, written := 1 }).2 ≠ .finished) ∧
    ((xfNext (n .running 2#32 2#32 1#32).words x).2 = .needs ∧ (x.got < 100 ∧ x.buf.length < 4096) ∧ (engineWork late 0).map (fun y => (wordAt y.2.words 23).getLsbD 27) = some true ∧ x.waitFrom + 1400 * 1 ≤ late.fabClock) ∧
    (findTransfer arrives 5 3).map (fun y => y.2) = some m ∧ (inputNode arrives 0 m.place).isSome = true ∧ (findXform arrives h63).isSome = true ∧
    (∀ j < 4, selCounts (arrives.fpsel.getD (4 * 5 + j) 0#32) 2 = false) := by decide +kernel

/-! ### The fabric, the host, Hernus -/

/-- A state with owner 0's context changed. -/
def owner0 (s : State) (f : Context → Context) : State := { s with owners := s.owners.map fun c => if c.owner == 0 then f c else c }

/-- Owner 0 with a job, a group of one endpoint, and a window of 4 KiB at 0x2000 for reads and writes. -/
def joined (s : State) : State := owner0 s fun c => { c with jobs := [7#32], group := [9#64], windows := [[0x2000#32, 0#32, 0x1000#32, 0xC0000000#32]] }

/-- A fabric processor at rest with a transfer listed. -/
def withTransfer (ph : Phase) (m : Transfer) : State := closeFocus { fab0 with fp := { fab0.fp with phase := ph, transfers := [m] } }

/-- A transfer of 64 bytes at 0x1000 of the collective of fab0. -/
def transfer0 (kind : TransferKind) (read inside : Bool) (flag : Option (W64 × W32)) : Transfer :=
  ⟨3, fab0.coll.id, 0, kind, 0, [], inside, 0, 0x1000#64, 0#64, 64, flag, none, false, 0, List.replicate 64 0#8, read, false, 0⟩

/-- FabricEvents, transfers: one to read, one to answer with and without a flag, inside the module, and a waited one. -/
theorem witness_transfer_events :
    let listed (s : State) (m : Transfer) : Bool := (findTransfer s 0 3).map (·.2) == some m
    let quiet (s : State) (ev : Nat) : Bool := (List.range 4).all fun n => !selCounts (s.fpsel.getD n 0#32) ev
    let a := transfer0 .send false false none
    let b := transfer0 .send true false none
    let c := transfer0 .ags true false (some (0#64, 5#32))
    let d := transfer0 .send true true none
    let w := transfer0 .fetch true false none
    let s := withTransfer (.waiting .launch 0) a
    let t := withTransfer (.waiting .engine 0) w
    let u := putDiscarding t { owner := 0, agent := .fabric 0, kind := 4, unit := 0 } (t.ctxOf 0) 0x1000 (List.replicate 64 1#8)
    (s.fabric.find? (·.index == 0)).map (·.phase) = some (.waiting .launch 0) ∧ listed s a = true ∧ quiet s 1 = true ∧ quiet s 2 = true ∧
    (engineRead s (s.ctxOf 0) 0x1000 64).toOption.isSome = true ∧ listed (withTransfer .ready b) b = true ∧ (b.posted = true ∧ b.flag = none) ∧
    listed (withTransfer .ready c) c = true ∧ c.posted = true ∧ listed (withTransfer .ready d) d = true ∧
    (landWrite (joined (withTransfer .ready d)) 0 0 0 0#64 d.data).2 = true ∧ listed t w = true ∧ w.posted = false ∧
    (findTransfer t 0 3).map (fun y => (y.1.phase, y.1.coll)) = some (.waiting .engine 0, some w.coll) ∧
    (translateRange t (t.ctxOf 0) accWrite 0 (pagesOf 0x1000 64)).toOption.isSome = true ∧ u.fpsel = t.fpsel := by decide +kernel

/-- FabricEvents, arrivals and waits: an access that ends with its window and one past it, a stranger, an unknown job, an object, a wait that
is met, one of just TLIM microseconds, and a counter with room. -/
theorem witness_arrivals :
    let s := joined (withWords (closeFocus fab0) 0x2000 ([2#32, 0#32, 5#32] ++ List.replicate 13 0#32))
    let x := s.ctxOf 0
    let u := putDiscarding s { owner := 0, agent := .fabric 4, kind := 4, unit := 4 } x 0x2FC0 (List.replicate 64 1#8)
    let at_ (op : W32) : Option State := openFabric (closeFocus { withF (withWords (withWords fab0 0 [op]) 0x2000 ([2#32, 0#32, 5#32] ++ List.replicate 13 0#32)) 1 0x2000#64 with fp := { (withF fab0 1 0x2000#64).fp with phase := .waiting .memory 0 } }) 0
    let late : Option State := openFabric { closeFocus { fab0 with fp := { fab0.fp with phase := .waiting .engine 0 } } with fabClock := 1400 } 0
    jobOwner s 7#32 = some 0 ∧ jobOwner s 8#32 = none ∧ 9#64 ∈ x.group ∧ 8#64 ∉ x.group ∧ windowPlace s x 0 0xFC0#64 64 accWrite = some 0x2FC0 ∧
    windowPlace s x 0 0xFC0#64 64 accRead = some 0x2FC0 ∧ windowPlace s x 0 0xFC4#64 64 accRead = none ∧ windowPlace s x 1 0#64 64 accRead = none ∧
    u.fpsel = s.fpsel ∧ (engineRead s x 0x2FC0 64).toOption.isSome = true ∧ (match (arrive s 0 0x2000).token with | .ok _ => true | _ => false) = true ∧
    (∀ n < 4, selCounts (s.fpsel.getD (4 * (14 / 3) + n) 0#32) 2 = false ∧ selCounts (s.fpsel.getD (4 * (14 / 3) + n) 0#32) 1 = false) ∧
    (at_ (encode 0#1 (.zwaitBar 2#4 1#4 0#4))).map (fun o => ((fetchZilkan o).toOption, isResident o o.ctx.owner, o.coll.stopped)) = some (some (encode 0#1 (.zwaitBar 2#4 1#4 0#4)), true, []) ∧
    (match at_ (encode 0#1 (.zwaitBar 2#4 1#4 0#4)) with | some o => (match exec (.zwaitBar 2#4 1#4 0#4) o with | .next _ => true | _ => false) | none => false) = true ∧
    (match late with | some o => decide (o.fp.waitFrom + 1400 * o.coll.tlim.toNat ≤ 1400) && o.fp.phase == .waiting .engine 0 | none => false) = true ∧
    (∀ n < 4, s.fpfrac.getD (4 * 15 + n) 0 = 0 ∧ (s.fpcnt.getD (4 * 15 + n) 0#48).toNat + 1 < 2 ^ 48) := by decide +kernel

/-- A module with the link up, Hernus ready, 32 VFs, owner 0 resident and with the stream given. -/
def open0 (s : State) : State := { s with linkUp := true, vfs := 32, hernus := { s.hernus with bootstat := 0x80000000#32 } }

/-- HostRegisters: the last function, its own stream enabled and not, a page that is closed in each way, tables that load and that do not,
entries to send and to receive, and boundary values of the PF's registers. -/
theorem witness_host_registers :
    let s := open0 (idle [])
    let opened (s : State) (fn : Nat) : Bool := s.linkUp && decide (fn ≤ 32) && (fn == 0 || decide (fn ≤ s.vfs)) && s.hernus.bootstat.getLsbD 31
    let head : List W32 := [9#32, 0#32, 7#32, 64#32] ++ List.replicate 12 0#32
    let sends (l : List Bool) : State := owner0 (withWords s 0x4000 head) fun c => { c with sends := l, ms := { base := 0x4000#64, size := 4#32, head := 0#32, tail := 0#32 }, mr := { base := 0#64, size := 4#32, head := 0#32, tail := 1#32 } }
    let tables (s : State) : Bool := (loadTables s (s.ctxOf 0)).isSome
    let rest : List Bool := [true, false]
    opened s 0 = true ∧ opened s 32 = true ∧ opened { s with vfs := 31 } 32 = false ∧ opened (idle []) 0 = false ∧ (s.ctxOf 0).created = true ∧ (s.ctxOf 0).held = [] ∧
    (vbytes s (s.ctxOf 0) 0 0x7FF8 8).toOption.isSome = true ∧ ((63 < 64 ∧ (s.stream 63).owner.toNat = 0) ∧ (s.stream 63).enable = true) ∧
    ((stream63 s fun st => { st with enable := false }).stream 63).enable = false ∧ tables s = true ∧
    tables (owner0 s fun c => { c with gtbase := 4#64 }) = false ∧ (sendEntry (sends []) ((sends []).ctxOf 0) 0#32).toOption.isSome = true ∧
    ((sends []).ctxOf 0).sends.length < ((sends []).ctxOf 0).ms.entries ∧ (∀ x ∈ (sends []).ctx :: (sends []).owners, x.owner = 0 → x.sends.head? ≠ some false) ∧
    ((sends (true :: rest)).ctxOf 0).sends = true :: rest ∧ rest.head? ≠ some false ∧ ((sends []).ctxOf 0).mr.full = false ∧
    (engineWrite (joined (sends [])) ((joined (sends [])).ctxOf 0) (((sends []).ctxOf 0).mr.entryAt 0#32 8192) (List.replicate 65 0#8)).toOption.isSome = true ∧
    (∀ x ∈ State.reset.resident.toList, x = none) ∧ s.hernus.log.length < 1024 ∧ (1 ≤ 1024 % 1024 + 1 ∧ 1000 % 1024 ≤ 1000) ∧ (1500 ≤ 1500 ∧ ¬1500 ≤ 1499) := by decide +kernel

/-- HostCommands: a record that is resumable and one that is not, grids to end and none, and the conditions of each command of Hernus at their
boundaries. -/
theorem witness_host_commands :
    let s := open0 (idle [])
    let r : Record := ⟨[], 5, .softwareTrap, true, .pod 1 0, 1#32, 0#32, some 0, none, false⟩
    let p : State := open0 (closeFocus { pod0 with pod := { pod0.pod with phase := .suspended 5 }, ctx := { pod0.ctx with records := [r] } })
    let gone : State := open0 (closeFocus { pod0 with ctx := { pod0.ctx with records := [{ r with answered := true }] } })
    let made (s : State) (owner part scratch : Nat) (grant : List (Nat × Nat)) (image : Nat × Nat) : Bool :=
      decide (owner ≤ 32) && decide (part < s.parts) && !(s.ctxOf owner).created && !grantMeets s owner grant && decide (grant.length ≤ 64) && areaIn grant image.1 image.2 && decide (scratch ≤ 16)
    ((p.ctxOf 0).held = [] ∧ (p.ctxOf 0).records.find? (·.seq == 5) = some r ∧ resumable p 0 r = true ∧ isResident p 0 = true) ∧
    resumable gone 0 { r with answered := true } = false ∧ (recordGrid p r).map (fun g => g.retired) = some false ∧
    (p.gridOf 1#32).map (fun g => (g.owner, g.retired)) = some (0, false) ∧ p.gridOf 2#32 = none ∧ s.hernus.log.length < 1024 ∧
    made s 32 0 16 [(1, 2)] (2 ^ 27, 2 ^ 28) = true ∧ made s 32 0 16 [(1, 2)] (2 ^ 27, 2 ^ 28 + 1) = false ∧ made s 32 0 17 [(1, 2)] (0, 0) = false ∧
    made s 33 0 0 [] (0, 0) = false ∧ made s 0 0 0 [(5, 1)] (0, 0) = false ∧ (s.ctxOf 0).created = true ∧ grantMeets s 0 [(1, 1)] = false ∧
    isResident { s with resident := Vector.replicate 4 none } 0 = false ∧ hasWork s 0 = false ∧ (List.replicate 64 0#8 : List Byte).length = 64 ∧ (0#32 : W32).toNat ≤ s.hernus.svn := by
  decide +kernel

/-- ModuleEvents: a visible VF and one that is not, a line of HBM4E and one past it, a counter with no room, and quanta that end with and without another owner. -/
theorem witness_module_events :
    let s := open0 (idle [])
    let seen (s : State) (fn : Nat) : Bool := s.linkUp && decide (fn ≤ 32) && decide (fn ≠ 0) && decide (fn ≤ s.vfs)
    let busy := owner0 s fun c => { c with cntsel := c.cntsel.set 0 0x80000001#32, cnt := [⟨0, 0, 0xFFFFFFFFFFFF#48, false, 0⟩] }
    let work : State := { idle [nodeOf63 .posted kernelBody] with resident := Vector.replicate 4 none }
    let two : State := { owner0 (idle [nodeOf63 .posted kernelBody]) (fun c => c) with resident := (Vector.replicate 4 none).set 0 (some 1), fabClock := 14000000 }
    seen s 32 = true ∧ seen { s with vfs := 31 } 32 = false ∧ 0x7FFFFFFFFF < 0x8000000000 ∧
    (match cycleUnits busy 0 with | u :: _ => u.1 == 0 && u.2.2.1 == 0 && roomOf (busy.ctxOf 0) u 0 == some 0 | [] => false) = true ∧ isResident busy 0 = true ∧
    nextOwner work 0 65 = some 0 ∧ work.resident.getD 0 none = none ∧ nextOwner two 0 1 = some 0 ∧ two.resident.getD 0 none = some 1 ∧ (two.ctxOf 1).dead = false ∧
    two.quantumFrom.getD 0 0 + 1400000 * two.quantum.getD 0 10 ≤ two.fabClock ∧ nextOwner s 0 0 = none ∧ 0 < s.parts ∧ MemoryOk s := by unfold MemoryOk; decide +kernel

/-! ### Single steps

Expected values are those of the spec's worked examples, or worked by hand from the rule named. -/

/-- What a core word does. -/
def run (w : W32) (s : State) : State := match decodeCore w none with | .ok i => after i s | .error _ => State.reset

/-- Registers a, b and d of a pod set in all lanes. -/
def regs3 (a b d : W32) : State := withAll (withAll (withAll pod0 4 a) 5 b) 6 d

/-- R166: 0xFFFFFFFF + 1 wraps; ISUB.SAT.N of 3 - 5 writes 0 and sets ISAT (the spec's example). -/
theorem test_iadd_wraps : (after (.iadd 0#2 6#7 4#7 5#7) (regs3 0xFFFFFFFF#32 1#32 9#32)).pod.lane 6 3 = 0#32 := by decide +kernel
theorem test_isub_saturates :
    let t := after (.isub 3#2 6#7 4#7 5#7) (regs3 3#32 5#32 9#32); (t.pod.lane 6 0, t.team.flags) = (0#32, 0x10#32) := by decide +kernel
/-- R166: the spec's IMUL.SAT example. -/
theorem test_imul_saturates :
    let t := after (.imul 2#2 6#7 4#7 5#7) (regs3 0x10000#32 0x10000#32 9#32); (t.pod.lane 6 0, t.team.flags) = (0x7FFFFFFF#32, 0x10#32) := by decide +kernel
/-- R168: I times N: the upper half of -1 x 0xFFFFFFFF. -/
theorem test_imulh_mixed : (after (.imulh 2#3 6#7 4#7 5#7) (regs3 0xFFFFFFFF#32 0xFFFFFFFF#32 0#32)).pod.lane 6 0 = 0xFFFFFFFF#32 := by decide +kernel
theorem test_imad_adds : (after (.imad 0#2 6#7 4#7 5#7) (regs3 7#32 6#32 100#32)).pod.lane 6 0 = 142#32 := by decide +kernel
theorem test_iaddi_negative : (after (.iaddi 0x3FF#10 6#7 4#7) (regs3 0#32 0#32 0#32)).pod.lane 6 0 = 0xFFFFFFFF#32 := by decide +kernel
/-- R169: |-2^31| wraps to itself without saturation. -/
theorem test_iabs_wraps : (after (.iabs 0#1 6#7 4#7) (regs3 0x80000000#32 0#32 0#32)).pod.lane 6 0 = 0x80000000#32 := by decide +kernel
theorem test_imin_natural : (after (.imin 1#1 6#7 4#7 5#7) (regs3 0xFFFFFFFF#32 1#32 0#32)).pod.lane 6 0 = 1#32 := by decide +kernel
theorem test_imax_signed : (after (.imax 0#1 6#7 4#7 5#7) (regs3 0xFFFFFFFF#32 1#32 0#32)).pod.lane 6 0 = 1#32 := by decide +kernel
/-- R172: the spec's BFX.S example. -/
theorem test_bfx_signed : (after (.bfx 1#1 6#7 4#7 5#7) (regs3 0xABC00000#32 0xC14#32 0#32)).pod.lane 6 0 = 0xFFFFFABC#32 := by decide +kernel
theorem test_clz_zero : (after (.clz 6#7 4#7) (regs3 0#32 0#32 0#32)).pod.lane 6 0 = 32#32 := by decide +kernel
theorem test_popc : (after (.popc 6#7 4#7) (regs3 0xF0F00001#32 0#32 0#32)).pod.lane 6 0 = 9#32 := by decide +kernel
theorem test_brev : (after (.brev 6#7 4#7) (regs3 1#32 0#32 0#32)).pod.lane 6 0 = 0x80000000#32 := by decide +kernel
/-- R177: PABD.B of -128 and 127 writes 0xFF (the spec's example). -/
theorem test_pabd_bytes : (after (.pabd 1#1 0#1 6#7 4#7 5#7) (regs3 0x80#32 0x7F#32 0#32)).pod.lane 6 0 = 0xFF#32 := by decide +kernel
/-- R182: the spec's DOT4.SAT example. -/
theorem test_dot4_saturates :
    let t := after (.dot4 4#3 6#7 4#7 5#7) (regs3 0x7F7F7F7F#32 0x7F7F7F7F#32 0x7FFFFF00#32); (t.pod.lane 6 0, t.team.flags) = (0x7FFFFFFF#32, 0x10#32) := by
  decide +kernel
/-- R186: the spec's TBL example, by its word 0x3AA2_487F. -/
theorem test_tbl :
    let s := withAll (withAll (withAll (withAll (withAll pod0 16 0x03020100#32) 17 0x07060504#32) 18 0x0B0A0908#32) 19 0x0F0E0D0C#32) 9 0x20100F03#32
    (run 0x3AA2487F#32 s).pod.lane 9 0 = 0xFFFF0F03#32 := by decide +kernel
/-- R188: SHFL.ROTU with k = 1 gives lane 0 the value of lane 3. -/
theorem test_shfl_rotu :
    let t := after (.shfl 1#3 6#7 4#7 5#7) (withAll (withLanes pod0 4 10#32 11#32 12#32 13#32) 5 1#32)
    ([0, 1, 2, 3].map fun l => t.pod.lane 6 l) = [13#32, 10#32, 11#32, 12#32] := by decide +kernel
/-- R28: the spec's MPUSH, MELSE, MPOP table. -/
theorem test_mask_stack :
    let s : State := { pod0 with pod := pod0.pod.setPred 0xF#4 2 0xD#4 }
    let a := after (.mpush 2#3) s; let b := after .melse a; let c := after .mpop b
    ([a, b, c].map fun t => (t.pod.md, t.pod.pw)) = [(1#3, 0xDF#32), (1#3, 0x2F#32), (0#3, 0xF#32)] := by decide +kernel
/-- R53: 1.0 + 2^-24 rounds to even and sets NX. -/
theorem test_fadd_ties_to_even :
    let t := after (.fadd 1#3 6#7 4#7 5#7) (regs3 0x3F800000#32 0x33800000#32 0#32); (t.pod.lane 6 0, t.team.flags) = (0x3F800000#32, 8#32) := by decide +kernel
/-- R53: Inf - Inf is the canonical NaN and sets NV. -/
theorem test_fsub_invalid :
    let t := after (.fsub 1#3 6#7 4#7 5#7) (regs3 0x7F800000#32 0x7F800000#32 0#32); (t.pod.lane 6 0, t.team.flags) = (0x7FC00000#32, 1#32) := by decide +kernel
/-- R53: 2^-126 x 0.5 is exact: no flag. -/
theorem test_fmul_subnormal :
    let t := after (.fmul 1#3 6#7 4#7 5#7) (regs3 0x00800000#32 0x3F000000#32 0#32); (t.pod.lane 6 0, t.team.flags) = (0x00400000#32, 0#32) := by decide +kernel
/-- R197: one rounding: (1 + 2^-12)^2 - 1 = 2^-11 + 2^-24. -/
theorem test_ffma_one_rounding : (after (.ffma 1#3 6#7 4#7 5#7) (regs3 0x3F800800#32 0x3F800800#32 0xBF800000#32)).pod.lane 6 0 = 0x3A000400#32 := by decide +kernel
/-- R209: 70,000 to F16 is infinite with OF and NX (the spec's example). -/
theorem test_cvt_overflow :
    let t := after (.cvtIntegerToFloat 1#3 6#7 4#7 1#3 4#3 0#1) (regs3 70000#32 0#32 0#32)
    t.pod.lane 6 0 = 0x7C00#32 ∧ t.team.flags = 0xA#32 := by decide +kernel
/-- R209: the spec's packing example, 0x5020_8209: 300 gives 0x7F. -/
theorem test_cvt_packs :
    let s := withAll (withAll (withAll (withAll pod0 4 300#32) 5 1#32) 6 0xFFFFFFFE#32) 7 0xFFFFFE00#32
    let t := run 0x50208209#32 s; (t.pod.lane 2 0, t.team.flags) = (0x80FE017F#32, 0x10#32) := by decide +kernel
/-- R206, R210: lane 0 of the spec's MXFP4 block: SCLX gives 0x81, and the narrowed quotients 0x810B_4087 with UF and NX. -/
theorem test_mxfp4_block :
    let v : List W32 := [0x41B80000#32, 0xBF800000#32, 0x3E99999A#32, 0x41200000#32, 0xC0D00000#32, 0#32, 0x40000000#32, 0xBF400000#32]
    let put (b : Nat) (k : Int) (s : State) : State := v.zipIdx.foldl (fun s x => withLanes s (b + x.2) (if x.1 = 0#32 then x.1 else x.1 + BitVec.ofInt 32 (k * 2 ^ 23)) 0#32 0#32 0#32) s
    (run 0x51050470#32 (put 8 0 pod0)).pod.lane 20 0 = 0x81#32 ∧ (run 0x48000415#32 (withAll (put 8 0 pod0) 21 0xFFFFFFFE#32)).pod.lane 0 0 = 0x40B80000#32 ∧
    (let t := run 0x4D260071#32 (put 0 (-2) pod0); (t.pod.lane 24 0, t.team.flags) = (0x810B4087#32, 0xC#32)) := by decide +kernel
/-- R67: Philox4x32-10 of the all-zero counter and key begins 0x6627E8D5 (the algorithm's published vector). -/
theorem test_philox : (philox 0#32 0 0 0#32 0).toNat = 0x6627E8D5 := by decide +kernel
/-- R116: `stk.b128 [sp-64], v8`, 0x6BE2_3E04: lane 3 fills SP - 16 to SP - 1 (the spec's example). -/
theorem test_stk :
    let s := withAll (withAll (withAll (withLanes pod0 8 1#32 2#32 3#32 4#32) 9 5#32) 10 6#32) 11 7#32
    bytesWords 4 (keyedBytes (run 0x6BE23E04#32 s) 1 (0x18000 + 0x13F0) 16) = [4#32, 5#32, 6#32, 7#32] := by decide +kernel
/-- R113: a misaligned lane takes MISALIGNED with its lane; nothing is loaded. -/
theorem test_load_misaligned :
    let s := withAll (withLanes pod0 2 0x200#32 0x202#32 0x204#32 0x208#32) 3 0#32
    let t := after (.ldgI32 0#6 8#7 2#7 0#4) s
    t.note = .trapped { code := .misaligned, addr := 0x202#64, info0 := 1#32, info1 := 1#32 } ∧ t.pod.pending = [] ∧ t.pod.pc = 0#48 := by decide +kernel
/-- R224: against a counter of 0xFFFE, ticket 0x7FFD is held and 0x7FFE is out of range; 0xFFFE applies, and then 0xFFFF and 0x0000 (the spec's
examples). -/
theorem test_tickets :
    let s (e : List TkEntry) : State := { podTk 0#32 e with ctx := { (podTk 0#32 e).ctx with regions := (podTk 0#32 e).ctx.regions.set 2 (some { region0 with counters := [(3, 0xFFFE#16)] }) } }
    (match acceptUpdate (s []) 0 (tkEntry 0x7FFD#16) with | .accepted t => t.ctx.entries.length == 1 | _ => false) = true ∧
    (match acceptUpdate (s []) 0 (tkEntry 0x7FFE#16) with | .rejected e => e.code == .ticketRange | _ => false) = true ∧
    (match acceptUpdate (s [tkEntry 0#16, tkEntry 0xFFFF#16]) 0 (tkEntry 0xFFFE#16) with
      | .accepted t => t.ctx.entries.isEmpty && (t.ctx.regions.getD 2 none).map (fun r => r.counter t 1 3) == some 1#16 | _ => false) = true ∧
    (match acceptUpdate (s [tkEntry 0#16]) 0 (tkEntry 0#16) with | .rejected e => e.code == .ticketDuplicate | _ => false) = true := by decide +kernel
/-- R123: an arrival at an object with EXPECT 4, PHASE 9 and WAITPAR 1, whose parent stands at its token, is recorded in PEND and returns 10
(the spec's example). -/
theorem test_barrive_waiting :
    let s := withWords (podBar [4#32, 0#32, 9#32, 0x80000000#32, 0x900#32, 0#32, 3#32]) 0x900 ([2#32, 0#32, 3#32] ++ List.replicate 13 0#32)
    let t := after (.barrive 5#5 2#5 0#5 0#4) (s.setScalar 2 0x800#32)
    t.pod.scalar 5 = 10#32 ∧ bytesNat (keyedBytes t 1 0x1880C 4) = 0x80000001 := by decide +kernel
/-- R244: requests 100, 128 and 40 grant (64, 128, 32), and SHAPEQ then writes 0x8020_8040 (the spec's example, by its words). -/
theorem test_shape :
    let s := ((pod0.setScalar 1 100#32).setScalar 2 128#32).setScalar 3 40#32
    (run 0x70240000#32 (run 0x700110C0#32 s)).pod.scalar 4 = 0x80208040#32 := by decide +kernel
/-- R70, R71: C(5, 3) and columns 14 and 15 of the spec's MXFP4 product worked by hand. -/
theorem test_mxfp4_product :
    let a : List Byte := List.replicate 16 0x44#8 ++ [0xD7#8] ++ List.replicate 15 0#8
    let b : List Byte := List.replicate 16 0x11#8 ++ [0x22#8] ++ List.replicate 15 0#8
    let sa (i : Nat) : List Byte := [0x7F#8, BitVec.ofNat 8 (0x7F + i)]
    let put (s : State) (off : Nat) (x : List Byte) : State := storeAt s 1 (tileAt 0 off) x
    let s := put (put (put (put (put (put (put podEng (32 * 5) a) (0x200 + 2 * 5) (sa 5)) (0x400 + 32 * 3) b) (0x600 + 2 * 3) [0x7F#8, 0x7F#8]) (0x400 + 32 * 14) b)
      (0x600 + 2 * 14) [0x7F#8, 0xFF#8, 0x7F#8, 0xFC#8]) (0x400 + 32 * 15) b
    let x : Factor := ⟨tileAt 0 0, false, 16, 64, 0x1C⟩
    let y : Factor := ⟨tileAt 0 0x400, false, 16, 64, 0x1C⟩
    ([3, 14, 15].map fun j => (productElem s x y 0 false false false 5 j).1) = [0x43000000, 0x7FC00000, 0x7F800000] := by decide +kernel
/-- R316, R317: the spec's ZQNT example, deterministic T2: scale 1.25, codes 41 C0. -/
theorem test_zqnt :
    let es : List Nat := [0x3F400000, 0xBE800000, 0x3D800000, 0x3F900000, 0xBF000000, 0x3EC00000, 0, 0xBFA00000]
    let t2 := compressBlock 2 (fun _ => 0#32) es
    let s1 := compressBlock 1 (fun _ => 0#32) es
    (t2.1 = 0x3FA0 ∧ codeBytes 2 t2.2.1 = [0x41#8, 0xC0#8] ∧ t2.2.2 = [0xBF000000, 0xBE800000, 0x3D800000, 0xBE000000, 0xBF000000, 0x3EC00000, 0, 0]) ∧
    s1.1 = 0x3F0A ∧ codeBytes 1 s1.2.1 = [0x92#8] := by decide +kernel
/-- R283: a region of 8 KiB at 0x0000_0040_0000_2000 (the spec's example). -/
theorem test_region_word : recRegion [0x04000002#32, 0x00000100#32] 0 = (0x4000002, 2) := by decide +kernel
/-- R342: CRC-32C of "123456789" is 0xE3069283 (the code's published check value). -/
theorem test_crc : crc32c [0x31#8, 0x32#8, 0x33#8, 0x34#8, 0x35#8, 0x36#8, 0x37#8, 0x38#8, 0x39#8] = 0xE3069283#32 := by decide +kernel
/-- R364: SHA3-512 of the empty message begins a6 9f 73 cc (FIPS 202). -/
theorem test_sha3 : (sha3 []).take 4 = [0xA6#8, 0x9F#8, 0x73#8, 0xCC#8] := by decide +kernel
/-- R303, R307: ZLI, ZADD with -1 and ZLOOP back two words. -/
theorem test_zilkan :
    let s := after (.zli 1#4 0#2 5#16) fab0
    let t := after (.zadd 2#4 1#4 0#4 1#1 0x3FFF#14) s
    let u := after (.zloop 2#4 0xFFFE#16) t
    (t.fp.f.getD 2 0#64, u.fp.f.getD 2 0#64, u.fp.pc) = (4#64, 3#64, 0#51) := by decide +kernel
/-- R267: SYSRD of POS in lane 2 of pod 0, and CALL then RET come back to the next packet. -/
theorem test_call_ret :
    let s := after (.call 0#3 0#2 5#19) pod0
    let t := after .ret s
    (s.pod.pc, s.pod.cd, s.pod.sp) = (5#48, 1#8, 0x13F0#64) ∧ (t.pod.cd, t.pod.sp) = (0#8, 0x1400#64) := by decide +kernel
/-- R267, R346: TRAP 5 suspends the pod past the word and reports SOFTWARE-TRAP with its immediate. -/
theorem test_trap :
    let t := after (.trap 5#17) pod0; t.note = .trapped { code := .softwareTrap, info0 := 5#32, after := true } := by decide +kernel
/-- R134: a word placed where the first step after reset fetches: IADD of the spec's worked encoding, without its chain bit, runs, and the pod
stands at slot 1. -/
theorem test_fetch_word :
    (match step (State.reset.withFetchWord 32 0x10018307) with | .next t => t.teams.flatMap (fun m => m.pods.map fun p => (p.pc, p.slot)) | _ => []) = [(0#48, 1#2)] := by
  decide +kernel

/-- R101, FIPS 197: a byte substituted and back (5.1.1), a column mixed, and the first word of an expanded 256-bit key (A.3). -/
theorem test_aes_steps :
    aesSub 0x53#8 = 0xED#8 ∧ aesUnsub 0xED#8 = 0x53#8 ∧ (aesColumns [2#8, 3#8, 1#8, 1#8] [0xDB#8, 0x13#8, 0x53#8, 0x45#8]).take 4 = [0x8E#8, 0x4D#8, 0xA1#8, 0xBC#8] ∧
    (aesExpand 1 8 1#8 (List.replicate 7 [] |>.set 0 [0x60#8, 0x3D#8, 0xEB#8, 0x10#8] |>.append [[0x09#8, 0x14#8, 0xDF#8, 0xF4#8]])).getD 8 [] =
      [0x9B#8, 0xA3#8, 0x54#8, 0x11#8] := by decide +kernel

/-! ### Further clauses of the statements -/

/-- CrossLaneForms: a position of a bunch whose pod takes part, and one whose pod does not. -/
theorem witness_bunch_positions :
    let ps := [{ pod0.pod with index := 17 }]
    (ps.find? (fun q => q.index % 16 == 7 / 4)).isSome = true ∧ ps.find? (fun q => q.index % 16 == 8 / 4) = none := by decide +kernel

/-- FloatArithmetic, SpecialFunctions: the premises of a rounding: 1 + 2^-24 lies halfway between 1 and the next number, and the even one, 1, is
taken. -/
theorem witness_rounding :
    let a : ℝ := 1 + 2 ^ (-24 : Int)
    let c : RCtx := ⟨.rne, 0#32, false, false⟩
    ((tyF32.mag 0x3F800000 : ℝ) ≤ a ∧ a < (tyF32.mag (0x3F800000 + 1) : ℝ)) ∧
    RoundsAt c false 0x3F800000 ((a - (tyF32.mag 0x3F800000 : ℝ)) / ((tyF32.mag (0x3F800000 + 1) : ℝ) - (tyF32.mag 0x3F800000 : ℝ))) 0x3F800000 ∧
    ((2 : ℝ) ^ (0 : Int) ≤ a ∧ a < (2 : ℝ) ^ ((0 : Int) + 1)) ∧ ((8388608 : ℝ) ≤ a / 2 ^ ((0 : Int) - tyF32.mb) ∧ a / 2 ^ ((0 : Int) - tyF32.mb) < (8388608 : ℝ) + 1) ∧
    RoundsAt c false 8388608 (a / 2 ^ ((0 : Int) - tyF32.mb) - 8388608) 8388608 := by
  simp only [FTy.mag, tyF32, RoundsAt, TakesNext]
  norm_num

/-- SpecialFunctions: numbers whose results are stated exactly: an integer, a power of two, and a magnitude of 64. -/
theorem witness_special_values :
    tyF32.mag 0x40400000 = 3 ∧ tyF32.mag 0x42800000 = 64 ∧ tyF32.mag 0x44800000 = 1024 ∧ tyF32.mag 0x3F000000 = (2 : ℚ) ^ (-1 : Int) ∧
    tyF32.known ∧ tyE2M1.known ∧ numberOf false 3 (-1) + numberOf true 3 (-1) = 0 ∧ numberOf false 3 (-1) * numberOf false 0 4 = 0 := by
  simp only [FTy.mag, tyF32, FTy.known, numberOf]
  norm_num

/-- Conversions: 5/2 lies halfway between 2 and 3 and goes to 2; a block of SCLX with a NaN and one without. -/
theorem witness_conversion_values :
    let nan := withAll pod0 11 0x7FC00000#32
    let one := withAll pod0 9 0x3F800000#32
    (((2 : Nat) : ℝ) ≤ (5 : Nat) * (2 : ℝ) ^ (-1 : Int) ∧ ((5 : Nat) : ℝ) * (2 : ℝ) ^ (-1 : Int) < ((2 : Nat) : ℝ) + 1 ∧
      RoundsAt ⟨.rne, 0#32, false, false⟩ true 2 (((5 : Nat) : ℝ) * (2 : ℝ) ^ (-1 : Int) - ((2 : Nat) : ℝ)) 2) ∧
    tyF32.decode 0xC0200000 = .num true 10485760 (-22) ∧
    ((activeMask nan).getLsbD 0 = true ∧ 0x7F800000 ≤ (srcN nan 11 0).toNat % 2 ^ 31) ∧
    (∀ l < 4, ∀ i < 8, (srcN one (8 + i) l).toNat % 2 ^ 31 ≤ 0x3F800000) := by
  refine ⟨?_, by decide +kernel, by decide +kernel, by decide +kernel⟩
  simp only [RoundsAt, TakesNext]
  norm_num

/-- AccessChecks: an address outside the space, a page that does not translate, a counter array, poison, and a TLB entry; the last granule before
each. -/
theorem witness_access_walk :
    let at_ (s : State) (a : Nat) : Option Nat := (translate s s.ctx a 1 0).toOption
    let bad : State := { podMem with poison := [0x18200 / 64] }
    let guarded : State := { podMem with ctx := { podMem.ctx with regions := podMem.ctx.regions.set 2 (some region0) } }
    let cached : State := { podMem with ctx := { podMem.ctx with tlb := [⟨1, 1, 3, 7#3⟩] } }
    let entry (va lvl t : Nat) : Nat := bytesNat (keyedBytes podMem podMem.ctx.key (t + 8 * (va / 2 ^ (51 - 12 * lvl) % 4096)) 8)
    (at_ podMem 0x7FFF = some 0x1FFFF ∧ at_ podMem 0x8000 = none ∧ podMem.ctx.tlb = []) ∧
    ((entry 0 1 0).testBit 0 = true ∧ (entry 0 1 0).testBit 1 = false ∧ entry 0 1 0 / 2 ^ 15 % 2 ^ 33 = 1) ∧
    ((entry 0 3 0x10000).testBit 1 = true ∧ (entry 0x8000 3 0x10000).testBit 0 = false ∧ (∃ r ∈ podMem.ctx.grant, r.1 ≤ 0 ∧ 0 < r.1 + r.2)) ∧
    (guarded.ctx.guards 0x1A000 8 = true ∧ guarded.ctx.guards 0x1A008 8 = false) ∧
    (poisonIn bad.poison 0x1823F 1 = some 0x18200 ∧ poisonIn bad.poison 0x18240 4 = none) ∧
    (tlbFind cached.ctx 0x8000 = some ⟨1, 1, 3, 7#3⟩ ∧ ∃ e ∈ cached.ctx.tlb, e.vpage ≤ 0x8000 / 2 ^ 15 ∧ 0x8000 / 2 ^ 15 < e.vpage + e.npages) ∧
    [((0 : Nat), (0x200 : Nat)), (2, 0x202)].find? (fun y : Nat × Nat => decide (y.2 % 4 ≠ 0)) = some (2, 0x202) := by decide +kernel

/-- TicketedAdd: a misaligned granule, one that does not translate, one in no declared region, one in a counter array, and one in two regions. -/
theorem witness_ticketed_faults :
    let g (s : State) : Nat := (srcN s 2 0).toNat + 2 ^ 32 * (srcN s 3 0).toNat
    let s (va : W32) : State := withAll (podTk 7#32 []) 2 va
    let own : State := let t := s 0x10C0#32
      { t with ctx := { t.ctx with regions := t.ctx.regions.set 2 (some { region0 with base := 0x2000, cntr := 0x10C0 }) |>.set 3 (some { region0 with base := 0x1000, cntr := 0x4000 }) } }
    let two : State := let t := s 0x10C0#32; { t with ctx := { t.ctx with regions := t.ctx.regions.set 1 (some region0) } }
    g (s 0x10C4#32) % 64 ≠ 0 ∧ (translate (s 0x8000#32) (s 0x8000#32).ctx 0x8000 3 0).toOption = none ∧
    ((translate (s 0x1100#32) (s 0x1100#32).ctx 0x1100 3 0).toOption = some 0x19100 ∧ (s 0x1100#32).ctx.regionOf 0x1100 = none) ∧
    ((own.ctx.regionOf 0x10C0).map (·.1) = some 3 ∧ own.ctx.guards 0x190C0 64 = true) ∧ (two.ctx.regionOf 0x10C0).map (·.1) = some 1 := by decide +kernel

/-- TicketOrder: the pending entries of the granule have different tickets and one place, and two of them go. -/
theorem witness_ticket_chain :
    let s := podTk 7#32 [tkEntry 9#16, tkEntry 8#16]
    let own := (s.ctxOf 0).entries.filter fun e => e.region == 2 && e.granule == 3
    MemoryOk s ∧ own.map (·.ticket) = [9#16, 8#16] ∧ (∀ e ∈ own, e.pa = (tkEntry 7#16).pa) ∧
    (match acceptUpdate s 0 (tkEntry 7#16) with | .accepted t => ((t.ctxOf 0).regions.getD 2 none).map (fun q => q.counter t 1 3) == some 10#16 | _ => false) = true := by
  unfold MemoryOk; decide +kernel

/-- TicketForms: a record that declares a region again, one whose array does not translate, region 16, and a record in a counter array. -/
theorem witness_ticket_records :
    let s := podTk 7#32 []
    let rec' (w : List W32) : State := withWords s 0x800 w
    let again := rec' [0x1000#32, 0#32, 4#32, 0x80000000#32, 0x3000#32, 0#32, 0#32, 0#32]
    let far := rec' [0x1000#32, 0#32, 4#32, 0x80000000#32, 0x8000#32, 0#32, 0#32, 0#32]
    let entry (t : State) : Option RegionRecord := (podBytes t false 0x800 32 32).toOption.map regionRecord
    (match entry again with | some e => e.valid && e.clean && !regionBad again.ctx 2 e && e.cntr == 0x3000 &&
      (arrayPages again again.ctx (pagesOf e.cntr (2 * e.ngran))).toOption == some [3] | none => false) = true ∧
    (again.ctx.regions.getD 2 none).isSome = true ∧ again.ctx.entries = [] ∧ again.poison = [] ∧
    (match entry far with | some e => e.valid && e.clean && !regionBad far.ctx 2 e && (arrayPages far far.ctx (pagesOf e.cntr (2 * e.ngran))).toOption == none | none => false) = true ∧
    (podBytes s false 0x2000 32 32).toOption.isSome = true ∧ (podRecord s 0x2000 32 32).toOption = none ∧ (podBytes s false 0x810 32 32).toOption = none ∧ ¬(16#32 : W32).toNat < 16 := by
  decide +kernel

/-- BarrierArrival: the last arrival at a child whose parent has room for more. -/
theorem witness_barrier_child :
    let child := withWords (podBar [2#32, 1#32, 5#32, 0#32, 0x900#32]) 0x900 ([3#32, 1#32, 3#32] ++ List.replicate 13 0#32)
    let o : List W32 := [2#32, 1#32, 5#32, 0#32, 0x900#32] ++ List.replicate 11 0#32
    MemoryOk child ∧ (readObject child child.ctx.owner 0x800).toOption = some (0x18800, o) ∧ (wordAt o 5 ++ wordAt o 4 : W64).toNat = 0x900 ∧
    (readObject (storeAt child child.ctx.key 0x18800 (wordsBytes (o.set 1 2#32))) child.ctx.owner 0x900).toOption = some (0x18900, [3#32, 1#32, 3#32] ++ List.replicate 13 0#32) ∧
    0x18800 + 64 ≤ 0x18900 := by unfold MemoryOk; decide +kernel

/-- ShapeAndDescriptors: a descriptor that is good, one whose format is reserved, and one that is not valid; a misaligned place, one that does not
translate and one in a counter array. -/
theorem witness_descriptors :
    GoodDescriptor (desc0 0x10) ∧ GoodDescriptor (List.replicate 16 0#32) ∧ ¬GoodDescriptor (desc0 0) ∧
    (0x804 % 64 ≠ 0 ∧ (translate pod0 pod0.ctx 0x8000 accWrite 0).toOption = none ∧ (podTk 7#32 []).ctx.guards 0x1A000 64 = true) ∧
    (podRecord pod0 0x804 64 64).toOption = none := by
  refine ⟨?_, ?_, ?_, by decide +kernel, by decide +kernel⟩
  · refine ⟨by decide, by decide, by decide, fun _ => ⟨by decide, ?_, by decide, ?_, by decide, by decide, by decide, by decide, fun _ => ⟨by decide, fun k h1 h3 => ?_⟩⟩⟩
    · unfold isMx; decide
    · unfold isMx; decide
    · obtain rfl | rfl | rfl : k = 1 ∨ k = 2 ∨ k = 3 := by omega
      all_goals decide
  · exact ⟨by decide, by decide, by decide, fun h => absurd h (by decide)⟩
  · intro h
    exact (h.2.2.2 (by decide)).1 (by decide)

/-- MatrixCommands: every check of a product and of a drain as the statement writes them, on operands that pass. -/
theorem witness_matrix_checks :
    let d (k : Nat) : List W32 := descOf podEng.ctx k
    let fmt (k : Nat) : Nat := recordField (d k) 0 0 8
    let size (r k f : Nat) : Nat := operandSize r k f false
    let product (a b c : Nat) : Prop := (a / 2 ^ 28 % 4 = 0 ∧ b / 2 ^ 28 = 0 ∧ c / 2 ^ 28 = 0) ∧ recordField (d (a / 2 ^ 15 % 4096)) 0 31 1 = 1 ∧ fmt (a / 2 ^ 15 % 4096) = 0x10 ∧
      fmt (b / 2 ^ 15 % 4096) = 0x12 ∧ fmt (c / 2 ^ 15 % 4096) = 0x12 ∧ 64 * (a % 2 ^ 15) + size 32 32 0x10 ≤ 0x4000 ∧
      64 * (b % 2 ^ 15) + size 32 32 0x12 ≤ 0x4000 ∧ 64 * (c % 2 ^ 15) + size 32 32 0x12 ≤ 0x4000 ∧
      64 * (a % 2 ^ 15) + size 32 32 0x10 ≤ 64 * (b % 2 ^ 15) ∧ 64 * (a % 2 ^ 15) + size 32 32 0x10 ≤ 64 * (c % 2 ^ 15)
    let m := newMatrix (withOps podEng 0x8000#32 0x8000#32 0#32) (.mdrain 0#3 1#5 2#5 4#5 0#4 1#1) 1#5 2#5 4#5
    product 0x8000 0x10040 0x10060 ∧ ¬product 0x8000 0x10001 0x10060 ∧ podEng.pod.shape.getLsbD 6 = true ∧ podEng.pod.shape.toNat % 4 = 1 ∧
    (size 32 32 0x10 ≤ podEng.team.tileSize ∧ (fmt 1 = 0x10 ∧ 0x8000 % 2 ^ 15 = 0)) ∧ (m.granules.head? = some 0x40 ∧ m.granules.length = 64) := by decide +kernel

/-- MatrixCommands: a ticketed drain whose region is not declared, and one whose granules lie outside it; a TROT whose partner has failed. -/
theorem witness_drain_regions :
    let s := withOps podEng 0x30008000#32 0x8000#32 0#32
    let t : State := { s with ctx := { s.ctx with regions := s.ctx.regions.set 0 (some { region0 with base := 0x1000, ngran := 4 }) } }
    let m (s : State) := newMatrix s (.mdrain 0#3 1#5 2#5 4#5 0#4 1#1) 1#5 2#5 4#5
    let held (n : Nat) : Bool := decide (0x1000 ≤ 64 * n) && decide (64 * n < 0x1000 + 64 * 4)
    let mate : Team := { podEng.team with id := 9, number := 1, trotBad := some podEng.team.trots }
    (s.ctx.regions.getD 0 none = none ∧ (t.ctx.regions.getD 0 none).isSome = true) ∧ ((m t).granules.find? fun n => !held n) = some 0x44 ∧
    partnerBad { podEng with teams := podEng.teams ++ [mate] } (newMatrix podEng (.trot 1#5 2#5 0#4) 1#5 2#5 0#5) = true ∧
    partnerBad podEng (newMatrix podEng (.trot 1#5 2#5 0#4) 1#5 2#5 0#5) = false := by decide +kernel

/-- CopyCommands: every check of a copy and of a window as the statement writes them, at boundary values. -/
theorem witness_copy_checks :
    let d := descOf podEng.ctx 1
    let row (c : Nat) : Nat := 16 * (c % 2 ^ 12 + 1) * elementBits (recordField d 0 0 8)
    recordField d 0 31 1 = 1 ∧ (0x8000 / 2 ^ 28 % 4 = 0 ∧ 0x0B000100 / 2 ^ 28 < 12) ∧ (64 * 0 + 64 * (0x100 % 2 ^ 24) ≤ podEng.team.tileSize ∧ ¬64 * 0 + 64 * (0x101 % 2 ^ 24) ≤ podEng.team.tileSize) ∧
    row 0x0000F001 / 8 % 64 = 0 ∧ row 0x0000F000 / 8 % 64 = 0 ∧ (1 ≤ 1 ∧ 0 % 2 ^ 24 = 0) := by decide +kernel

/-- Launches: a stream that accepts no posts. -/
theorem witness_closed_stream :
    (podLaunch.streams.getD 63 Stream.reset).enable = false ∧ { (podLaunch.streams.getD 63 Stream.reset) with enable := true }.enable = true := by decide +kernel

/-- Hops: a CODE of 0 and a count that is no multiple of a block, both descriptors of TID, and the codes of a block of two elements. -/
theorem witness_hop_values :
    let s := fabHop 3 0#32
    let ok (code e : Nat) : Bool := decide (code ≠ 0) && e % 4 == 0 && decide (4 ≤ e) && decide (e ≤ 2 ^ 24)
    ok 0 4 = false ∧ ok 3 6 = false ∧ ok 3 (2 ^ 24) = true ∧ (wordAt (descOf s.ctx 0) 0).getLsbD 31 = false ∧
    (wordAt (descOf { s.ctx with descs := [(0, validDesc)] } 0) 0).getLsbD 31 = true ∧ (∀ x ∈ [0x3F800000, 0xBF800000], x < 2 ^ 32) ∧
    tyF32.decode 0x3F800000 = .num false 8388608 (-23) ∧ 0x7F80 < 0x7FC0 % 2 ^ 15 ∧ 0x3F80 % 2 ^ 15 < 0x7F80 ∧
    (8 % 4 = 0 ∧ 8 % 8 = 0 ∧ ([0x3F80, 0x3F80] : List Nat).length = 8 / 4 ∧ (List.replicate 8 1).length = 8) := by decide +kernel

/-- PodEvents: a bunch that a pod shares, pods that converge alike and apart, a wait in a pair, and two pods of one bunch. -/
theorem witness_pod_bunches :
    let two (f : Pod → Pod) : Team := { pod0.team with pods := [pod0.pod, f { pod0.pod with index := 1, bunch := pod0.pod.bunch }] }
    let stand (f : Pod → Pod) : Team := { pod0.team with pods := (two f).pods.map fun p => { p with phase := .waiting .converge 1 } }
    let word (ws : List W32) (k : Wait) : Option State := openPod (resting (fun p => { p with phase := .waiting k 0 }) (loaded (withWords (((podBar [2#32, 1#32, 5#32]).setScalar 2 0x800#32).setScalar 1 4#32) 0 ws))) 1 0
    let isBwait : Instr → Bool := fun i => match i with | .bwait _ _ _ => true | _ => false
    let isWaitmem : Instr → Bool := fun i => match i with | .waitmem _ _ _ => true | _ => false
    let paired (f : Instr → Bool) (o : State) : Option Instr := List.find? f (pairInstrs o)
    (∃ q ∈ (two id).pods, q.index ≠ 0 ∧ q.index / 16 = pod0.pod.index / 16 ∧ q.bunch = pod0.pod.bunch ∧ q.phase ≠ .ended) ∧
    ((stand id).pods.filter fun p => p.index / 16 == 0 && p.phase != .ended).length = 2 ∧ ((stand fun p => { p with pc := 9#48 }).pods.map (·.pc)) = [0#48, 9#48] ∧
    (match word [encode 1#1 .nop, encode 0#1 (.bwait 1#5 2#5 3#5), 0#32] .barrier with | some o => loneInstr o == none && paired isBwait o == some (.bwait 1#5 2#5 3#5) && o.pod.phase == .waiting .barrier 0 | none => false) = true ∧
    (match word [encode 1#1 .nop, encode 0#1 (.waitmem 1#5 2#5 1#2), 0#32] .memory with | some o => loneInstr o == none && paired isWaitmem o == some (.waitmem 1#5 2#5 1#2) && (podRecord o 0x800 4 4).toOption == some [2#8, 0#8, 0#8, 0#8] | none => false) = true ∧
    (match word [encode 0#1 (.bwait 1#5 2#5 3#5), 0#32, 0#32] .barrier with | some o => loneInstr o == some (.bwait 1#5 2#5 3#5) && (readObject o o.ctx.owner 0x800).toOption.isSome && (readObject o o.ctx.owner 0x810).toOption.isNone | none => false) = true := by decide +kernel

/-- EngineEvents: an update of a drain that its slice holds back, and one that it rejects. -/
theorem witness_drain_updates :
    let region (s : State) (c : BitVec 16) : State := { s with owners := s.owners.map fun x => { x with regions := x.regions.set 2 (some { region0 with ngran := 16, cntr := 0x6000, counters := [(1, c)] }) } }
    let d := coreWith cmdDrain true 1 podEng
    let full (s : State) : State := { s with owners := s.owners.map fun x => { x with entries := List.replicate 512 { tkEntry 9#16 with granule := 2, pa := 0x19040 } } }
    let team (s : State) : Team := (s.teamOf 1).getD Team.reset
    let tried (s : State) : Accept := acceptUpdate s 0 (drainUpdate s (team s) { cmdDrain with started := true, next := 1 } 0x1040 0x19040)
    (match tried (full (region d 0xFFFF#16)) with | .stalled => true | _ => false) = true ∧ (match tried (region d 1#16) with | .rejected _ => true | _ => false) = true := by decide +kernel

/-- GraphNodes: a post to another owner's stream, to a full one and to its own; a broken object of a node that nothing else holds back, and a
record on the tape that is bad. -/
theorem witness_graph_targets :
    let post (w : List W32) : State := stream63 (withWords (idle []) 0x800 w) fun st => { st with postBase := 0x800#64, postSize := 4#32, postTail := 1#32 }
    let aimed (k : W32) : List W32 := ((nodeOf63 .posted kernelBody).words.set 0 k)
    let target (s : State) : Stream := s.streams.getD ((wordAt (((engineRead s (s.ctxOf 0) 0x800 128).toOption.map (bytesWords 32)).getD []) 0).toNat % 64) Stream.reset
    let busy := stream63 (post (aimed 63#32)) fun st => { st with nodes := List.replicate 1024 (nodeOf63 .posted kernelBody) }
    let waits := idle [nodeOf63 .posted [(1, 4#32), (4, 0x900#32), (6, 4#32)]]
    let tape (w : List W32) : State := stream63 (withWords (idle [nodeOf63 .posted [(0, 0x50000000#32), (20, 0#32)]]) 0x800 w) fun st => { st with tapeBase := 0x800#64, tape := 1 }
    ((target (post (aimed 5#32))).owner ≠ (0#6 : BitVec 6) ∧ (target (post (aimed 63#32))).owner = 0#6 ∧ (target (post (aimed 63#32))).enable = true) ∧
    (1024 ≤ (target busy).nodes.length ∧ recordStop (post (aimed 63#32)) 0 (aimed 63#32) = none) ∧
    ((readPhase waits 0 0x900).toOption.isNone = true ∧ (match waits.nodeOf h63 with | some n => nodeFree waits n && (wordAt n.words 1).getLsbD 2 && !n.barMet | none => false) = true) ∧
    (((engineRead (tape []) ((tape []).ctxOf 0) 0x800 128).toOption.map fun b => recordStop (tape []) 0 (bytesWords 32 b)) = some (some .reservedField)) := by decide +kernel

/-- GridEvents: grids in turn and not, a class that no core holds, and a transform that writes to a team. -/
theorem witness_grid_order :
    let running : Grid := { gridOfRecord (nodeOf63 .posted kernelBody).words 5#32 0 63 h63 0 0 false with uid := 0 }
    let x : Xform := ⟨h63, 0, 0, some 4, 0, [], Decoder.reset, 0, 0, 0, none⟩
    let s : State := { idle [nodeOf63 .running [(0, 0x10000000#32)]] with parked := [x] }
    (running.memBound = none ∧ { running with memBound := some true }.memBound = some true) ∧ (∀ m ∈ (idle []).teams, m.core ≠ 0) ∧
    ((s.xforms.toList.filterMap id ++ s.parked).filter (·.team == some 4) = [x] ∧ (s.nodeOf x.node).isSome = true) ∧
    (∀ y ∈ (idle []).parked, y.team ≠ some 4) := by decide +kernel

/-- UnitEvents: an owner whose context has ended; more bytes than an input still lacks, and as many. -/
theorem witness_unit_limits :
    let dead : State := { idle [] with owners := (idle []).owners.map fun c => { c with dead := true } }
    (dead.resident.getD 0 none = some 0 ∧ (dead.ctxOf 0).dead = true ∧ ((idle []).ctxOf 0).dead = false) ∧
    ((List.replicate 100 1#8).take (128 - 0)).length = 100 ∧ ¬((List.replicate 128 1#8 : List Byte).take (128 - 0)).length ≤ 100 - 0 := by decide +kernel

/-- FabricEvents: a refused answer, transfers inside the module that land and that do not, a waited one with a residual buffer, and a source or a
sink that fails. -/
theorem witness_transfer_answers :
    let d := transfer0 .send true true none
    let a := transfer0 .arrival true true none
    let w := { transfer0 .fetch true false none with place := 0x7FC0#64 }
    let far := { w with place := 0x8000#64 }
    let c := { transfer0 .clone true true none with rz := true }
    let t (m : Transfer) : State := joined (withWords (withTransfer (.waiting .engine 0) m) 0x2000 ([2#32, 0#32, 5#32] ++ List.replicate 13 0#32))
    let held (m : Transfer) : Option (Fabric × Transfer) := findTransfer (t m) 0 3
    let sink (m : Transfer) : Bool := (translateRange (t m) ((t m).ctxOf 0) accWrite 0 (pagesOf m.place.toNat 64)).toOption.isSome
    let r : Residual := ⟨0x600, false, 0#32, 0x4000, 0x400⟩
    let z : State := { fabG 1 0#64 0#64 0#64 0#64 with ctx := fab0.ctx }
    (landWrite (t d) 0 0 0 0#64 d.data).2 = true ∧ (landWrite (t d) 0 0 1 0#64 d.data).2 = false ∧ (landArrival (t a) 0 0 0 0#64).2 = 0 ∧ (landArrival (t a) 0 0 1 0#64).2 ≠ 0 ∧
    (held w).map (fun x => (x.1.phase, x.2.posted, x.2.landed == x.2.len)) = some (.waiting .engine 0, false, false) ∧ sink w = true ∧ sink far = false ∧
    (windowPlace (t c) ((t c).ctxOf 0) 0 0#64 64 accRead = some 0x2000 ∧ windowPlace (t c) ((t c).ctxOf 0) 1 0#64 64 accRead = none) ∧
    (engineRead (t w) ((t w).ctxOf 0) 0x8000 64).toOption = none ∧ (residualOf z fun _ t => t).toOption = some r ∧
    (translateRange z z.ctx accWrite 0 (pagesOf r.base r.size)).toOption.isSome = true ∧ (translateRange z z.ctx accWrite 0 (pagesOf r.addr 64)).toOption.isSome = true ∧
    (∀ q ∈ (t w).fabric, (∃ x ∈ q.transfers, x.id = 3) → q.phase = .waiting .engine 0) := by decide +kernel

/-- FabricEvents: a waiting ZWAIT on an object and on a flag, met and not met. -/
theorem witness_zwaits :
    let at_ (i : Instr) (token : W64) : Option State :=
      let f := withF (withF (withWords (withWords fab0 0 [encode 0#1 i]) 0x2000 ([2#32, 0#32, 5#32] ++ List.replicate 13 0#32)) 1 0x2000#64) 2 token
      openFabric (closeFocus { f with fp := { f.fp with phase := .waiting .memory 0 } }) 0
    let stands (i : Instr) (token : W64) : Bool := match at_ i token with
      | some o => o.fp.phase == .waiting .memory 0 && o.coll.stopped == [] && isResident o o.ctx.owner && (match fetchZilkan o with | .ok w => (decodeZilkan w).toOption == some i | _ => false) &&
        (readObject o o.ctx.owner (o.fp.f.getD 1 0#64).toNat).toOption == some (0x1A000, [2#32, 0#32, 5#32] ++ List.replicate 13 0#32) && (engineRead o o.ctx 0x2000 4).toOption == some [2#8, 0#8, 0#8, 0#8]
      | none => false
    stands (.zwaitBar 2#4 1#4 0#4) 4#64 = true ∧ stands (.zwaitBar 2#4 1#4 0#4) 5#64 = true ∧ stands (.zwaitFlag 2#4 1#4 0#4) 2#64 = true ∧ stands (.zwaitFlag 2#4 1#4 0#4) 3#64 = true ∧
    (at_ (.zwaitBar 2#4 1#4 0#4) 4#64).map (fun o => [0, 1, 2, 3].map fun n => selCounts (selOf (o.ctxOf o.ctx.owner) 1 n) 3) = some [false, false, false, false] := by decide +kernel

/-- HostRegisters: a write and a read that fault, a ring that is full, messages of 8,128 and 8,129 bytes, and ports that count nothing. -/
theorem witness_host_faults :
    let s := open0 (idle [])
    let full := owner0 s fun c => { c with mr := { base := 0#64, size := 4#32, head := 0#32, tail := 16#32 } }
    (translateRange s (s.ctxOf 0) accWrite 0 (pagesOf 0x7FFF 2)).toOption = none ∧ (translateRange s (s.ctxOf 0) accWrite 0 (pagesOf 0x7FFE 2)).toOption.isSome = true ∧
    (vbytes s (s.ctxOf 0) 0 0x8000 8).toOption = none ∧ (full.ctxOf 0).mr.full = true ∧
    (engineWrite (joined s) ((joined s).ctxOf 0) 0x8000 [1#8]).toOption.isNone = true ∧ ∀ g < 16, ∀ n < 4, selCounts (s.fpsel.getD (4 * g + n) 0#32) 1 = false ∧ selCounts (s.fpsel.getD (4 * g + n) 0#32) 2 = false := by
  decide +kernel

/-- ModuleEvents: an owner whose context has ended, with and without another owner, and a quantum that has not ended. -/
theorem witness_module_switches :
    let loaded (s : State) : State := { owner0 s (fun c => c) with resident := (Vector.replicate 4 none).set 0 (some 1), owners := s.owners.map fun c => if c.owner == 1 then { c with dead := true } else c }
    let work := loaded (idle [nodeOf63 .posted kernelBody])
    (work.resident.getD 0 none = some 1 ∧ (work.ctxOf 1).dead = true ∧ nextOwner work 0 1 = some 0) ∧ nextOwner (loaded (idle [])) 0 1 = none ∧
    ((idle []).fabClock < (idle []).quantumFrom.getD 0 0 + 1400000 * (idle []).quantum.getD 0 10 ∧ ((idle []).ctxOf 0).dead = false) := by decide +kernel

/-! ### Clauses of the results -/

/-- EngineEvents, GraphNodes: two bytes of page 0 have places of their own, whatever those places hold. -/
theorem witness_places : Placed (closeFocus pod0) ((closeFocus pod0).ctxOf 0) 0x7FFE 2 (fun i => 0x1FFFE + i) := by
  refine ⟨fun i _ j _ h => by simp only at h; omega, fun u _ hp hk i hi => ?_⟩
  have p0 : u.poison = [] := by
    rcases h : u.poison with _ | ⟨g, l⟩
    · rfl
    · have := hp g (by rw [h]; exact List.mem_cons_self)
      rw [show (closeFocus pod0).poison = [] by decide +kernel] at this; cases this
  have hb : ∀ n a, a + n ≤ 0x1FFFE → keyedBytes u ((closeFocus pod0).ctxOf 0).key a n = keyedBytes (closeFocus pod0) ((closeFocus pod0).ctxOf 0).key a n := by
    intro n
    induction n with
    | zero => intro a _; rfl
    | succ n ih => intro a h; rw [keyedBytes, keyedBytes, ih _ (by omega), hk a fun i _ => by simp only; omega]
  have hw (a : Nat) (h : a + 8 ≤ 0x1FFFE) := hb 8 a h
  have ht : tlbFind ((closeFocus pod0).ctxOf 0) (0x7FFE + i) = none := by
    obtain rfl | rfl : i = 0 ∨ i = 1 := by omega
    all_goals decide +kernel
  unfold Machine.translate
  rw [ht]
  obtain rfl | rfl : i = 0 ∨ i = 1 := by omega
  all_goals
    rw [walk_level (by rw [p0]; rfl) (hw _ (by decide +kernel)) (walk_level (by rw [p0]; rfl) (hw _ (by decide +kernel)) (walk_level (by rw [p0]; rfl) (hw _ (by decide +kernel)) rfl))]
    dsimp only
    decide +kernel

/-- EngineEvents: products, drains to the tile store and to G that add and that do not, scalings that run, on clean tiles; a drain whose pages do
not translate; legs of a rotation that name different regions. -/
theorem witness_engine_results :
    let m (i : Instr) (x y z : W32) : MatCmd := { newMatrix (withOps podEng x y z) i 1#5 2#5 4#5 with shape := 0x40#7 }
    let batch := m (.mmab 0#1 1#5 2#5 4#5 0#4 0#2) 0x8000#32 0x10040#32 0x10080#32
    let drain (x : W32) (g : BitVec 1) := m (.mdrain 0#3 1#5 2#5 4#5 0#4 g) x 0x8040#32 0#32
    let far := { drain 0x8000#32 1#1 with dx := (desc0 0x10).set 2 0x8000#32 }
    let scale := { newMatrix (withOps podEng 0x18000#32 0x8040#32 0#32) (.tscl 0#3 1#5 2#5 4#5 0#4) 1#5 2#5 4#5 with shape := 0x44#7 }
    let s (m : MatCmd) : State := coreWith m true 0 podEng
    let done (m : MatCmd) : Bool := match runMatrix (s m) ((s m).teams.headD Team.reset) m with | some (.ok _) => true | _ => false
    let clean (m : MatCmd) : Prop := tilePoison (s m) (tileAt 0 0) m.reads = none ∧ m.ticketed = false
    let leg (k : Nat) : MatCmd := { newMatrix (withOps podEng (0x8000#32 + BitVec.ofNat 32 k) 1#32 0#32) (.trot 1#5 2#5 0#4) 1#5 2#5 0#5 with id := 10 + k, team := 1 + k, core := k, started := true }
    let four : State := { closeFocus podEng with teams := (List.range 4).map fun k => { podEng.team with id := 1 + k, number := k, core := k }, mats := (List.range 4).map leg }
    (done batch = true ∧ tilePoison (s batch) (tileAt 0 0) (batch.ranges.map fun r => (r.1, r.2.1)) = none) ∧
    (clean (drain 0x8000#32 0#1) ∧ clean (drain 0x20008000#32 0#1) ∧ clean (drain 0x8000#32 1#1) ∧ clean (drain 0x20008000#32 1#1) ∧ clean scale) ∧
    ((drain 0x8000#32 0#1).adds = false ∧ (drain 0x20008000#32 0#1).adds = true ∧ done (drain 0x20008000#32 0#1) = true ∧ done scale = true) ∧
    drainPages (s (drain 0x8000#32 1#1)) ((s far).ctxOf 0) (drain 0x8000#32 1#1) = none ∧ (drainPages (s far) ((s far).ctxOf 0) far).isSome = true ∧
    ((drain 0x8000#32 1#1).inside 15 = 16 ∧ (List.range 4).all fun n => !selCounts (selOf ((s far).ctxOf 0) 1 n) 3) ∧
    ((trotLegs four (leg 0)).length = 4 ∧ ∃ x ∈ trotLegs four (leg 0), x.sx.toNat % 2 ^ 15 ≠ (leg 0).sx.toNat % 2 ^ 15) ∧
    (elementBits 0x11 = elementBits 0x12 ∧ elementBits 3 = elementBits 4) := by decide +kernel

/-- EngineEvents: a copy from die scratch, one to it, one to G; windows of one element past the tensor, at it and inside it, both ways. -/
theorem witness_copy_results :
    let c (i : Instr) (y z : W32) : CopyCmd := newCopy (withOps podEng 0x8000#32 y z) i 1#5 2#5 4#5
    let plain (z : W32) := c (.tcpy 1#5 2#5 4#5 0#4) 0#32 z
    let window (y z : W32) := c (.tcpyw 1#5 2#5 4#5 0#4) y z
    let s (c : CopyCmd) : State := closeFocus { podEng with team := { podEng.team with chans := podEng.team.chans.setIfInBounds 0 { Channel.reset with current := some c } } }
    let runs (c : CopyCmd) (n : Nat) : Bool := (copyGranule (s c) ((s c).teams.headD Team.reset) c n).toOption.isSome
    let bits (c : CopyCmd) (n : Nat) : Nat := (windowGranule c n).1
    (runs (plain 0x04000001#32) 0 = true ∧ runs (plain 0x0C000001#32) 0 = true ∧ runs (plain 0x08000001#32) 0 = true) ∧
    ((plain 0x0C000001#32).sz.getLsbD 27 = true ∧ (plain 0x0C000001#32).sz.getLsbD 26 = true ∧ poisonIn (s (plain 1#32)).poison (scratchAt 0 0) 64 = none) ∧
    (bits (window 3#32 0#32) 0 = 512 ∧ bits (window 4#32 0#32) 0 = 0 ∧ bits (window 0x40000#32 0#32) 0 = 0) ∧
    (runs (window 3#32 0#32) 0 = true ∧ runs (window 4#32 0#32) 0 = true ∧ runs (window 3#32 0x08000000#32) 0 = true ∧ runs (window 4#32 0x08000000#32) 0 = true) ∧
    ∀ i < 64, poisonIn (s (plain 1#32)).poison (tileAt 0 0 + i) 1 = none := by decide +kernel

/-- StepRunsDecoded: a marker word; a broken parity in the lane that SMOV reads and in another; an event that is an access of the link, and one that is not. -/
theorem witness_step_kinds :
    let broken (l : Nat) : Pod := { pod0.pod with pw := 0x1#32, parity := (RegRef.lane 4 1).parityKeys (1#4 <<< l) }
    decodeCore (encode 0#1 (.poolMarker 5#24)) none = .ok (.poolMarker 5#24) ∧
    ((parityReads (.smov 1#5 4#7 2#2) 0x1#4).any (broken 2).parity.contains = true ∧ (parityReads (.smov 1#5 4#7 2#2) 0x1#4).any (broken 0).parity.contains = false) ∧
    Machine.Instr.isTlp (.mstailWrite 0 0#32) = true ∧ Machine.Instr.isTlp .linkTraining = false := by decide +kernel

/-- Hops: the words of a Philox draw and of its rounds. -/
theorem witness_philox_rounds (key step : W32) (tid index purpose : Nat) : ∃ k c d : Nat → Nat × Nat,
    k 0 = (key.toNat, tid) ∧ c 0 = (index % 2 ^ 32, index / 2 ^ 32 % 2 ^ 32) ∧ d 0 = (step.toNat, purpose) ∧
    (∀ i, k (i + 1) = (((k i).1 + 0x9E3779B9) % 2 ^ 32, ((k i).2 + 0xBB67AE85) % 2 ^ 32)) ∧
    ∀ i, c (i + 1) = (0xCD9E8D57 * (d i).1 / 2 ^ 32 ^^^ (c i).2 ^^^ (k i).1, 0xCD9E8D57 * (d i).1 % 2 ^ 32) ∧
      d (i + 1) = (0xD2511F53 * (c i).1 / 2 ^ 32 ^^^ (d i).2 ^^^ (k i).2, 0xD2511F53 * (c i).1 % 2 ^ 32) := by
  let k : Nat → Nat × Nat := fun n => Nat.rec (key.toNat, tid) (fun _ x => ((x.1 + 0x9E3779B9) % 2 ^ 32, (x.2 + 0xBB67AE85) % 2 ^ 32)) n
  let z : Nat → (Nat × Nat) × (Nat × Nat) := fun n => Nat.rec ((index % 2 ^ 32, index / 2 ^ 32 % 2 ^ 32), (step.toNat, purpose)) (fun i x =>
    ((0xCD9E8D57 * x.2.1 / 2 ^ 32 ^^^ x.1.2 ^^^ (k i).1, 0xCD9E8D57 * x.2.1 % 2 ^ 32),
     (0xD2511F53 * x.1.1 / 2 ^ 32 ^^^ x.2.2 ^^^ (k i).2, 0xD2511F53 * x.1.1 % 2 ^ 32))) n
  exact ⟨k, fun i => (z i).1, fun i => (z i).2, rfl, rfl, rfl, fun _ => rfl, fun _ => ⟨rfl, rfl⟩⟩

/-- Hops: a record that no one has written, one that a step follows, one that another or an earlier step reuses, and one whose own step comes again. -/
theorem witness_sr_steps :
    let s (last writer : W32) : State := { closeFocus pod0 with owners := (closeFocus pod0).owners.map fun c => { c with descs := [(1, ((desc0 0x10).set 14 last).set 15 writer)] } }
    let c (last writer : W32) := (s last writer).ctxOf (podSite pod0 false).owner
    let rec0 (last writer : W32) := descOf (c last writer) 1
    wordAt (rec0 7#32 0#32) 15 = 0#32 ∧ (wordAt (rec0 7#32 5#32) 15 = 5#32 ∧ wordAt (rec0 7#32 5#32) 14 = 7#32 ∧ (c 7#32 5#32).tkctl.getLsbD 31 = false) ∧
    (1 ≤ (8#32 - 7#32 : W32).toNat ∧ (8#32 - 7#32 : W32).toNat < 2 ^ 31) ∧ ¬1 ≤ (7#32 - 7#32 : W32).toNat ∧ ¬(6#32 - 7#32 : W32).toNat < 2 ^ 31 := by decide +kernel

/-- TicketForms: a region whose array lies where it lay, one whose page has moved, and one granule of it. -/
theorem witness_moved_arrays :
    let s := podTk 7#32 []
    let r : Region := { region0 with counters := [(3, 7#16)] }
    (arrayPages s s.ctx (pagesOf r.cntr (2 * r.ngran))).toOption = some r.pages ∧ r.cntr % 2 = 0 ∧
    (let moved := { r with pages := [7] }
     moved.pages.length = r.pages.length ∧ r.pages.Nodup ∧ moved.place 1 ≠ r.place 1 ∧ ∀ z ∈ moved.counters, z.1 < moved.ngran ∧ z.1 ≠ 1) := by decide +kernel

/-- A page at 0x8000 that can only be read. -/
def readOnly (s : State) : State := storeAt s 1 0x10008 (natBytes 8 (3 + 2 ^ 15 * 4 + 2 ^ 56))

/-- ZilkanTransfers: what stops a transfer: offsets, lengths, a flag, a peer, a source and a sink; and each fault of a residual buffer. -/
theorem witness_transfer_stops :
    let s (rbd base : W32) : State :=
      let z := withWords (readOnly (fabG 1 0#64 0x40#64 64#64 0x44#64)) 0x600 ([0x80000000#32, 0#32, base, 0#32, 0x400#32, 0#32] ++ List.replicate 10 0#32)
      { z with coll := { z.coll with cds := z.coll.cds.set 4 rbd } }
    let wide (va n : Nat) : Bool := (translateRange (s 0#32 0#32) (s 0#32 0#32).ctx accWrite 0 (pagesOf va n)).toOption.isSome
    let unread (rbd : Nat) : Bool := (engineRead (s 0#32 0#32) (s 0#32 0#32).ctx rbd 64).toOption.isNone
    let got (rbd base : W32) : Option Nat := (residualOf (s rbd base) fun _ t => t).toOption.map (·.base)
    ((0x44#64 : W64).toNat % 64 ≠ 0 ∧ (0x40#64 : W64).toNat % 64 = 0 ∧ 96 % 64 ≠ 0 ∧ ¬(2 ^ 40 + 64 ≤ 2 ^ 40) ∧ (0x42#64 : W64).toNat % 4 ≠ 0) ∧
    ((s 0#32 0#32).coll.cds.getD 2 0#32).toNat / 2 ^ 16 ≤ 2 ∧ (unread 0x10000 = true ∧ unread 0x8000 = false ∧ wide 0x10000 64 = false ∧ wide 0x8000 64 = false ∧ wide 0 64 = true) ∧
    inputNode (s 0#32 0#32) 0 7#64 = none ∧ (got 0#32 0#32 = none ∧ got 0x600#32 0x4000#32 = some 0x4000 ∧ got 0x600#32 0x4001#32 = none ∧ got 0x600#32 0x10000#32 = some 0x10000) ∧
    (wide 0x4000 0x400 = true ∧ wide 0x10000 0x400 = false) := by decide +kernel

/-- PodEvents: two pods of a team that have waited together, for a memory word and for a leg of a rotation, one that waits for no such thing. -/
theorem witness_watchdog_due :
    let two (f : Pod → Pod) : State := closeFocus { pod0 with team := { pod0.team with pods := [{ pod0.pod with phase := .waiting .memory 5 }, f { pod0.pod with index := 1, phase := .waiting .engine 5 }] }, pod := { pod0.pod with phase := .waiting .memory 5 }, clock := 2 ^ 32 + 5 }
    let due (f : Pod → Pod) : List (Nat × Nat) := match (two f).teams.head?, (two f).gridOf 1#32 with
      | some t, some g => (watchdogDue (two f) t g 5).map fun x => (x.1.index, x.2)
      | _, _ => []
    let opened (f : Pod → Pod) : Option Nat := (openPod (two f) 1 0).map fun o => o.pod.skip
    due id = [(0, 2), (1, 3)] ∧ due (fun p => { p with phase := .waiting .register 5 }) = [(0, 2)] ∧ due (fun p => { p with phase := .waiting .memory 6 }) = [(0, 2)] ∧ opened id = some 0 := by decide +kernel

/-- GraphNodes: a KERNEL record is good; a type past the table, a queue past its depth and a shared page of two regions are not. -/
theorem witness_good_records :
    let w (l : List (Nat × W32)) : List W32 := (nodeOf63 .posted l).words
    GoodRecord (w kernelBody) ∧ ¬GoodRecord (w [(0, 0x60000000#32)]) ∧ ¬GoodRecord (w [(0, 0x50000000#32), (20, 4097#32)]) ∧
    (WaitsOn (w [(1, 1#32), (2, h63)]) h63 ∧ ¬WaitsOn (w [(2, h63)]) h63) ∧
    (RegionsMeet (w [(8, 5#32), (9, 0x80#32)]) (w [(16, 5#32), (17, 0x80#32)]) 8 16 ∧ recHandles (w [(1, 1#32), (2, h63)]) = [h63]) := by
  refine ⟨?_, ?_, ?_, ⟨Or.inl (by decide), ?_⟩, ⟨5, by decide, by decide, by decide, by decide⟩, by decide +kernel⟩
  · refine ⟨by decide, by decide, by decide, by decide, by decide, fun _ => ⟨by decide, by decide, by decide, by decide, by decide, by decide, by decide, by decide,
      by decide, by decide, by decide, by decide, by decide, fun k h1 h3 => ?_⟩, ?_, ?_, ?_, ?_, ?_⟩
    · obtain rfl | rfl | rfl : k = 29 ∨ k = 30 ∨ k = 31 := by omega
      all_goals decide
    all_goals exact fun h => absurd h (by decide)
  · exact fun h => absurd h.2.2.2.2.1 (by decide)
  · exact fun h => absurd (h.2.2.2.2.2.2.2.2.2.2 (by decide)).1 (by decide)
  · exact fun h => absurd h (by unfold WaitsOn; decide)

/-- GraphNodes: handles just appended, exactly 2^25 back and further; a record that names another owner's stream; a dependant and a ready node. -/
theorem witness_handles :
    let st (n : Nat) : Stream := { Stream.reset with next := n }
    let s := idle [nodeOf63 .posted [], { nodeOf63 .posted [(1, 1#32), (2, h63)] with handle := h63 + 1#32 }]
    (appended (st 1) h63 = true ∧ appended (st (2 ^ 25)) h63 = true ∧ appended (st (2 ^ 25 + 1)) h63 = false ∧ appended (st 0) h63 = false) ∧
    ((s.streams.getD (4#32 : W32).toNat Stream.reset).owner.toNat ≠ 0 ∧ nodeReady s (nodeOf63 .posted []) = true) ∧
    (∃ m ∈ (s.stream 63).nodes, WaitsOn m.words h63 ∧ m.status = .posted) ∧ dependsOn (nodeOf63 .posted [(0, 0x02000000#32)]).words (nodeOf63 .posted []).words = true := by
  refine ⟨by decide +kernel, by decide +kernel, ⟨{ nodeOf63 .posted [(1, 1#32), (2, h63)] with handle := h63 + 1#32 }, by decide +kernel, Or.inl (by decide), by decide⟩, by decide +kernel⟩

/-- GridEvents: a number that names a grid with teams left and, later in the pool order, a posted KERNEL node. -/
theorem witness_number_of_both :
    let krec : List W32 := [0#32, 0#32, 0#32, 0#32, 0x00011001#32, 0#32, 0#32, 0#32]
    let z := withWords (idle [{ nodeOf63 .posted kernelBody with stamp := 9 }]) 0x400 krec
    let running : Grid := { gridOfRecord (nodeOf63 .posted kernelBody).words h63 0 63 0#32 0 0 false with uid := 0, stamp := 3 }
    let s : State := { z with grids := [running] }
    (s.grids.find? fun g => g.handle == h63 && g.hasTeams) = some running ∧ (s.nodeOf h63).map (fun m => (recType m.words, nodeReady s m)) = some (0, true) ∧
    (s.nodeOf h63).map (fun m => poolBefore (running.pri, running.stamp) ((gridOfNode s m).pri, (gridOfNode s m).stamp)) = some true := by decide +kernel

/-- UnitEvents, Deflate: streams that end, that need more and that are broken; a code, symbols, and the lengths of a dynamic block's codes. -/
theorem witness_inflate :
    let stored : List Byte := [1#8, 2#8, 0#8, 0xFD#8, 0xFF#8, 65#8, 66#8]
    let x (src : List Byte) : Xform := ⟨h63, 0, 0, none, src.length, src, Decoder.reset, 0, 0, 0, none⟩
    let w : List W32 := (nodeOf63 .posted [(0, 0x10000000#32), (22, 9#32), (23, 0x40000000#32)]).words
    let out (src : List Byte) : XfAction := (xfNext w (x src)).2
    let is (a b : XfAction) : Bool := a == b
    let ok (x : Got Nat) (k : Nat) : Bool := match x with | .ok j _ => j == k | _ => false
    let three : List Nat := [2, 1, 2]
    xfKind w = 1 ∧ is (out stored) (.write (65#8 :: 66#8 :: List.replicate 62 0#8)) = true ∧ is (out (stored.take 6)) .needs = true ∧ is (out [7#8]) (.broken 1) = true ∧ is (out (stored.set 3 0#8)) (.broken 5) = true ∧
    ((x stored).due w = none ∧ (match decodeStride 1 (x stored) with | .on y => y.buf.length == 2 && y.dec.block == .stored 2 | _ => false) = true ∧ decodeStride 1 (x []) = .needs) ∧
    ((three.map fun x => if x = 0 then 0 else 2 ^ (15 - x)).sum = 2 ^ 15 ∧ ok (huffSym (huffOf three) [true, true]) 2 = true ∧ ok (huffSym (huffOf three) [false]) 1 = true ∧
      ok (huffSym (huffOf three) [true, false]) 0 = true ∧ huffComplete three = true ∧ huffDistance [0, 1] = true) ∧
    (match huffSym (huffOf three) [true] with | .more => true | _ => false) = true ∧ (match huffSym (huffOf [0, 2]) [true, true, true, true, true, true, true, true, true, true, true, true, true, true, true] with | .bad _ => true | _ => false) = true ∧
    ok (huffSym (huffOf fixedLit) (true :: true :: false :: false :: true :: false :: false :: false :: [])) 144 = false ∧
    (takeBits 3 [true, false, true, true] = some (5, [true]) ∧ 1 ≤ 2 ∧ ([7#8, 8#8] : List Byte).length = 2) ∧
    (match codeLengths (huffOf three) 2 4 [] [false, false] with | .ok l _ => l == [1, 1] | _ => false) = true := by decide +kernel

/-- UnitEvents, dynamic blocks: code lengths that are complete and not, and codes that are usable. -/
theorem witness_dynamic_codes :
    let bits (n x : Nat) : List Bool := (List.range n).map x.testBit
    let head : List Bool := bits 14 (14 * 1024) ++ (List.replicate 17 0).flatMap (bits 3)
    let good : List Bool := bits 14 (14 * 1024) ++ ((List.replicate 17 0).set 3 1 |>.set 15 0 |>.set 2 1 |>.set 17 0).flatMap (bits 3)
    (takeBits 14 head).map (·.1 / 1024 + 4) = some 18 ∧ (((takeBits 14 head).bind fun x => takeThrees 18 x.2).isNone = true) ∧
    ((takeBits 14 (good ++ bits 3 1)).bind fun x => takeThrees 18 x.2).map (fun x => x.1.length) = some 18 ∧
    (match dynamicCodes (good ++ bits 3 0 ++ List.replicate 64 true) with | .bad _ => true | _ => false) = true := by decide +kernel

/-- UnitEvents, STS: a header and its breach, a record's head, samples under a predictor, a stream of one literal tile with its CRC. -/
theorem witness_sts :
    let head : List Byte := [0x53#8, 0x54#8, 0x53#8, 0x31#8, 1#8, 0#8, 2#8, 0#8, 1#8, 0#8, 0#8, 0#8, 1#8, 0#8, 0#8, 0#8] ++ List.replicate 16 0#8
    let tile : List Byte := [4#8, 0#8, 0#8, 0#8, 4#8, 0#8, 0#8, 0#8, 1#8, 0#8, 2#8, 0#8]
    let samples := addSamples 1 2 [1#8, 0#8, 2#8, 0#8] []
    let src := head ++ tile ++ natBytes 4 (crc32c samples).toNat
    let is (a b : XfAction) : Bool := a == b
    let w : List W32 := (nodeOf63 .posted [(0, 0x10000000#32), (22, 64#32), (23, 0x80000000#32)]).words
    let x (src : List Byte) : Xform := ⟨h63, 0, 0, none, src.length, src, Decoder.reset, 0, 0, 0, none⟩
    let next (y : Xform) : XfAction := (xfNext w y).2
    let wrote (src : List Byte) : Xform := { (xfNext w (x src)).1 with written := 1 }
    (stsHeader head).map (fun h => (h.tw, h.th, h.ntile)) = some (2, 1, 1) ∧ (stsHeader (head.set 4 2#8)).isNone = true ∧ stsHeadOk tile 0 4 = true ∧ stsHeadOk (tile.set 0 3#8) 0 4 = false ∧
    samples = [1#8, 0#8, 3#8, 0#8] ∧ is (next (x (head.take 31))) .needs = true ∧ is (next (x (head.set 4 2#8))) (.broken 0) = true ∧
    xfKind w = 2 ∧ is (next (x src)) (.write (samples ++ List.replicate 60 0#8)) = true ∧ is (next (wrote src)) .pass = true ∧ is (next (Xform.passed (xfNext w (wrote src)).1)) .finished = true ∧
    is (next (wrote (src.set 45 0#8 |>.set 46 0#8 |>.set 44 0#8 |>.set 47 0#8))) .mismatch = true ∧ is (next (wrote (head ++ tile))) .needs = true := by decide +kernel

/-- FabricEvents: a flag whose turn has come, one behind an earlier posted transfer; an answer to one that still reads; ports 47 and 48; a residual
buffer read after the bytes have landed. -/
theorem witness_flags_due :
    let flag : Transfer := { transfer0 .ags true false (some (0x40#64, 7#32)) with id := 4, acked := true }
    let early := transfer0 .send true false none
    let p (l : List Transfer) : Fabric := { fab0.fp with transfers := l }
    let s (l : List Transfer) : State := closeFocus { fab0 with fp := p l }
    let w := { transfer0 .clone true false none with rz := true, place := 0x5C0#64 }
    let z : State := { withTransfer (.waiting .engine 0) w with coll := (fabG 1 0#64 0#64 0#64 0#64).coll, ctx := (withTransfer (.waiting .engine 0) w).ctxOf 0 }
    let rbd : List Byte := wordsBytes ([0x80000000#32, 0#32, 0x4000#32, 0#32, 0x400#32, 0#32] ++ List.replicate 10 0#32)
    flagDue (p [flag]) flag = true ∧ flagDue (p [early, flag]) flag = false ∧ flagDue (p [flag, { early with id := 5 }]) flag = true ∧
    ((((s [flag]).fabric ++ (s [flag]).owners.flatMap (·.processors)).filter (·.index == 0)).map fun q => q.transfers.filter (flagDue q)) = [[flag]] ∧
    (((s [early, flag]).fabric ++ (s [early, flag]).owners.flatMap (·.processors)).all fun q => q.index != 0 || q.transfers.all fun x => !flagDue q x) = true ∧
    (jobOwner (joined (s [])) 7#32 = some 0 ∧ 47 < 48 ∧ 48 ≤ 48) ∧
    (translateRange z z.ctx accWrite 0 (pagesOf 0x600 64)).toOption.isSome = true ∧ (residualOf z fun _ t => t).toOption.isNone = true ∧
    ((residualOf (withBytes z 0x600 rbd) fun _ t => t).toOption.map fun r => (r.base, r.size)) = some (0x4000, 0x400) := by decide +kernel

/-- HostRegisters: a page of counts of a resident owner, a select whose event stands, an empty partition, entries to send, and a counter array
in the way of a host's bytes. -/
theorem witness_counter_page :
    let s := open0 (idle [])
    let sel := selWritten 0x80000001#32 0xC0000001#32
    let guarded : Context := { (s.ctxOf 0) with regions := (s.ctxOf 0).regions.set 2 (some region0) }
    isResident s 0 = true ∧ (s.resident.getD (1 * s.parts / 4) none ≠ none ∧ (open0 State.reset).resident.getD 0 none = none) ∧
    (sel.getLsbD 29 = false ∧ 0xC0000001 % 256 = (0x80000001#32 : W32).toNat % 256) ∧ (selWritten 0#32 0x20000001#32).getLsbD 29 = true ∧
    (guarded.guards 0x1A000 1 = true ∧ guarded.guards 0x1A008 1 = false) ∧ (127 / 32 * s.parts / 4 = (s.ctxOf 0).part) ∧
    (List.replicate 2 false ++ [true] = [false, false, true] ∧ ([true] : List Bool).head? ≠ some false) ∧ isResident (open0 State.reset) 0 = false := by decide +kernel

/-- HostCommands: a grid that stands no more, another owner's and a retired one; a record that is held and one that is not; a COLLECTIVE record;
owners to create and to destroy; a nonce and a grant of 64 ranges. -/
theorem witness_host_refusals :
    let s := open0 (idle [nodeOf63 .running [(0, 0x20000000#32)]])
    let r : Record := ⟨[], 5, .softwareTrap, true, .fabric 0, 0#32, h63, none, some 0, false⟩
    let t (l h : List Record) : State := owner0 s fun c => { c with records := l, held := h }
    let away : State := { t [{ r with agent := .pod 1 0, handle := 1#32 }] [] with resident := Vector.replicate 4 none }
    let grids (g : Grid) : State := { s with grids := [g] }
    (s.gridOf 7#32 = none ∧ ((grids { Grid.reset with handle := 7#32, owner := 3 }).gridOf 7#32).map (·.owner) = some 3 ∧
      ((grids { Grid.reset with handle := 7#32, status := .retired 0 false 0#32 }).gridOf 7#32).map (·.retired) = some true) ∧
    ((∀ x ∈ ((t [r] []).ctxOf 0).held, x.seq ≠ 5) ∧ ((t [r] []).ctxOf 0).records.find? (·.seq == 5) = some r ∧ (∃ x ∈ ((t [r] [r]).ctxOf 0).held, x.seq = 5) ∧
      ∀ x ∈ ((t [r] []).ctxOf 0).records, x.seq ≠ 6) ∧
    ((t [r] []).nodeOf h63).map (fun n => (recType n.words, r.stamp == some n.stamp, n.status)) = some (2, true, .running) ∧
    (s.colls.find? (fun c => c.queue.isNone && c.node == h63) = none ∧ recordGrid (t [r] []) { r with handle := 9#32 } = none) ∧ isResident away 0 = false ∧
    ((s.ctxOf 0).created = true ∧ ((s.ctxOf 0).grant.length ≤ 64 ∧ (List.replicate 64 0#8 : List Byte).length = 64 ∧ s.hernus.mr.length = 64)) ∧ MemoryOk s := by
  unfold MemoryOk; decide +kernel

/-- ModuleEvents: counts with and without a carry, notices of a ring with room and of a full one, a boundary of a pod, and pieces of an image that are
read back as they were put. -/
theorem witness_module_images :
    let count (sel : W32) (n : BitVec 48) : State := owner0 (idle []) fun c => { c with cntsel := c.cntsel.set 0 sel, cnt := [⟨0, 0, n, false, 0⟩], nr := { base := 0x4000#64, size := 4#32, head := 0#32, tail := 0#32 } }
    let full := owner0 (count 0x90000002#32 0#48) fun c => { c with nr := { c.nr with tail := 16#32 } }
    let wide (s : State) (o : Nat) : Context := { s.ctxOf o with imageBase := 0x4000000, imageSize := 0x1000000 }
    let s := closeFocus pod0
    let pod := { pod0.pod with phase := .waiting .memory 7, ws := 1#4 }
    let put (c : Context) (b : List Byte) : State := imagePut s c 0x100000 b
    let tk := podTk 7#32 []
    let entry : TkEntry := { tkEntry 9#16 with data := List.replicate 16 3#32 }
    (((count 0x90000002#32 0xFFFFFFFFFFFF#48).ctxOf 0).created = true ∧ isResident (count 0x90000002#32 0#48) 0 = true ∧ (2 ^ 48 ≤ 0xFFFFFFFFFFFF + (0 + 1) / 1 ∧ ¬2 ^ 48 ≤ 0xFFFFFFFFFFFE + (0 + 1) / 1)) ∧
    ((full.ctxOf 0).nr.full = true ∧ ((count 2#32 0#48).ctxOf 0).nr.full = false ∧ (engineWrite (count 2#32 0#48) ((count 2#32 0#48).ctxOf 0) (((count 2#32 0#48).ctxOf 0).nr.entryAt 0#32 16) (List.replicate 16 0#8)).toOption.isSome = true) ∧
    (imageHole (wide s 0) 0x101000 = none ∧ (wide s 0).imageBase + (wide s 0).imageSize ≤ 2 ^ 48 ∧ (wide s 0).owner ≤ 32) ∧
    (imageWords (put (wide s 0) (wordsBytes (podWords 9 pod))) (wide s 0) 0x100000 48 = podWords 9 pod ∧ pod.pw.toNat % 16 = 15 ∧ pod.pw.toNat < 2 ^ (4 * (pod.md.toNat + 1)) ∧
      pod.sp.toNat % 16 = 0 ∧ pod.slot ≠ 3#2 ∧ (∀ r < 16, ∀ l < 4, imageWords (put (wide s 0) (wordsBytes (podWords 9 pod))) (wide s 0) (0x200000 + 16 * (16 * r + pod.index % 16) + 4 * l) 1 = [pod.lane r l])) ∧
    imageGet (put (wide s 0) (wordsBytes (countWords ⟨1, 2, 5#48, true, 3⟩))) (wide s 0) 0x100000 8 = wordsBytes (countWords ⟨1, 2, 5#48, true, 3⟩) ∧
    (let c : Context := { tk.ctx with imageBase := 0x4000000, imageSize := 0x1000000 }
     imageGet (imagePut tk c 0x100000 (entryBytes entry)) c 0x100000 96 = entryBytes entry ∧ (c.regions.getD 2 none).map (fun r => (r.base, r.ngran)) = some (0x1000, 4) ∧ entry.granule = (entry.va.toNat - 0x1000) / 64) ∧
    imageHole ((idle []).ctxOf 0) ((idle []).ctxOf 0).image.size = none := by decide +kernel

/-- ModuleEvents: a matrix command and a processor of a collective that are read back. -/
theorem witness_restored_agents :
    let s := closeFocus podEng
    let c : Context := { s.ctxOf 0 with imageBase := 0x4000000, imageSize := 0x1000000 }
    let m : MatCmd := { newMatrix (withOps podEng 0x30008000#32 0x10000#32 0#32) (.mdrain 0#3 1#5 2#5 4#5 0#4 1#1) 1#5 2#5 4#5 with
      dx := (desc0 0x10).set 0 0x92008010#32, dy := desc0 0x10, dz := desc0 0x10, team := 1, next := 3, mode := 1#32 }
    let f := closeFocus { fab0 with fp := { fab0.fp with cds := [0x80000000#32, 1#32, 0x10000#32] ++ List.replicate 13 0#32, tlim := 5#32, pc := 0x40#51, phase := .suspended 9 } }
    let d : Context := { f.ctxOf 0 with imageBase := 0x4000000, imageSize := 0x1000000, processors := f.fabric.filter (·.index == 0) }
    let p := d.processors.headD (Fabric.reset 0)
    (imageWords (imagePut s c 0x100000 (wordsBytes (matWords [1] m))) c 0x100000 64 = matWords [1] m ∧ savedCommand true (encode 0#1 m.instr) = some m.instr ∧
      grantOfWord (shapeWord m.shape) = m.shape ∧ modeWritten m.mode = m.mode ∧ modeRmOk m.mode = true ∧ descOk m.dx = true ∧
      m.passes c (((s.teams.find? (·.id == m.team)).map (·.tileSize)).getD 0) = true ∧ m.next ≤ m.granules.length) ∧
    ((f.colls.find? (fun k => p.coll == some k.id)).isSome = true ∧ imageWords (imagePut f d 0x100000 (wordsBytes (fabricWords f d p.index))) d 0x100000 64 = fabricWords f d p.index ∧
      cdsOk p.cds = true ∧ p.tlim ≠ 0#32 ∧ p.phase = .suspended 9) := by decide +kernel

/-! ### Clauses widened since -/

/-- Two pods of a team, in one bunch or in two, before a packet. -/
def twoPods (bunch : Nat) (ws : List W32) : State :=
  let s := placePod State.reset ws
  { s with teams := s.teams.map fun t => { t with size := 2, pods := [Pod.reset, { Pod.reset with index := 1, bunch := bunch }] } }

/-- A pod's issue, if it can issue. -/
def memberIssue (s : State) (k : Nat) : Option State :=
  (openPod { s with note := .none } 1 k).bind fun f => if canIssue f.pod then (match finishPod s.tick (issuePod f) with | .next w => some w | _ => none) else none

/-- StepRunsDecoded: two pods of one bunch that issue one after another. -/
theorem witness_step_bunch :
    let p := passStep { twoPods 0 [0x04000000#32] with agenda := [] }
    nextTurn (twoPods 0 [0x04000000#32]) = (some (.pods 1 0), []) ∧ (p.teams.map fun m => (isResident p m.owner, bunchOf m 0)) = [(true, [0, 1])] ∧
    (memberIssue p 0).map (fun w => teamRuns w 1) = some true ∧
    ((memberIssue p 0).bind fun w => memberIssue w 1).map (fun v => (barMembers v 1 [0, 1], (pairBars v 1).length, (v.teams.find? (·.id == 1)).isSome)) = some ([], 0, true) := by decide +kernel

/-- StepRunsDecoded: two bunches of one cycle, of which the first goes on, and of which the first ends the grid. -/
theorem witness_step_cycle :
    let p (w : W32) : State := passStep { twoPods 5 [w] with agenda := [] }
    let first (w : W32) : Option State := match issueBunch (p w) 1 0 with | .next t => some t | _ => none
    let goes (s : State) : Bool := match issueBunch s 1 1 with | .next _ => true | _ => false
    nextTurn { twoPods 5 [0x04000000#32] with agenda := [.cycle 1 [0, 1]] } = (some (.cycle 1 [0, 1]), []) ∧
    ((p 0x04000000#32).teams.map fun m => decide (1 ∈ bunchOf m 0)) = [false] ∧ (first 0x04000000#32).map (fun t => (teamRuns t 1, goes t)) = some (true, true) ∧
    teamRuns (p 0x0D000000#32) 1 = true ∧ (first 0x0D000000#32).map (fun t => teamRuns t 1) = some false := by decide +kernel

/-- StepRunsDecoded: a sprout's word that goes on, EXIT, a word that it may not run, and one that faults. -/
theorem witness_step_sprout :
    let s (w : W32) : State := let s := placePod State.reset [w]
      { s with teams := s.teams.map fun t => { t with sprout := some { Pod.reset with index := 256, ws := 2#4 } }, agenda := [.sprout 1] }
    let opened (w : W32) : Option State := openSprout (passStep { s w with agenda := [] }) 1
    let may (w : W32) : Option Bool := (opened w).map sproutWords
    let leaves (w : W32) : Option (Bool × Bool) := (opened w).bind fun f => match issuePod f with
      | .next u => some (match u.note with | .none => true | _ => false, match u.cur with | .sprout k => k == 1 | _ => false)
      | _ => none
    nextTurn (s 0x04000000#32) = (some (.sprout 1), []) ∧ (opened 0x04000000#32).map (fun f => isResident (s 0x04000000#32) f.ctx.owner) = some true ∧
    (may 0x04000000#32 = some true ∧ leaves 0x04000000#32 = some (true, true)) ∧ (may (encode 0#1 .exit) = some true ∧ leaves (encode 0#1 .exit) = some (true, false)) ∧
    may (encode 0#1 .bar) = some false ∧ (may 0x0D000000#32 = some true ∧ (leaves 0x0D000000#32).map (·.1) = some false) := by decide +kernel

/-- SystemWrites: counters of an owner each listed once, with OVF to clear, ZERO and another EVENT. -/
theorem witness_select_writes :
    let c : Context := { pod0.ctx with cntsel := pod0.ctx.cntsel.set 1 0xC0000002#32, cnt := [⟨0, 1, 5#48, true, 0⟩, ⟨3, 1, 7#48, false, 0⟩, ⟨3, 2, 9#48, false, 0⟩] }
    (c.cnt.map fun x => (x.unit, x.n)).Nodup ∧ c.cntsel.getD 1 0#32 = 0xC0000002#32 ∧
    (c.writeSel 0 1 0xC0000002#32).cntsel.getD 1 0#32 = 0x80000002#32 ∧ (counterOf (c.writeSel 0 1 0xC0000002#32).cnt 0 1).ovf = false ∧
    (counterOf (c.writeSel 0 1 0xA0000002#32).cnt 3 1).count = 0#48 := by decide +kernel

/-- TicketForms: a TKSKIP of two granules, the second of them held behind a pending update of its own; one that stalls; a record that releases
a region which is not declared. -/
theorem witness_tkskip_chain :
    let s (e : List TkEntry) : State := (((podTk 7#32 e).setScalar 1 0x10007#32).setScalar 2 0x1080#32).setScalar 3 0#32
    let update (v : State) (j : Nat) : Option TkEntry := (podUpdate v (0x1080 + 64 * j) 0 7#16 0#16 false (List.replicate 16 0#32)).toOption
    let took (v : State) (j : Nat) : Option State := (update v j).bind fun e => match acceptUpdate v v.ctx.owner e with | .accepted w => some w | _ => none
    let full := List.replicate 512 { tkEntry 9#16 with granule := 2, pa := 0x19080 }
    let release : State := withWords (podTk 7#32 []) 0x800 (List.replicate 8 0#32)
    skipCount (s []) = 0 ∧ (took (s [tkEntry 9#16]) 0).isSome = true ∧ ((took (s [tkEntry 9#16]) 0).bind fun w => took w 1).isSome = true ∧
    (match update (s full) 0 with | some e => (match acceptUpdate (s full) (s full).ctx.owner e with | .stalled => true | _ => false) | none => false) = true ∧
    ((podBytes release false 0x800 32 32).toOption.map regionRecord).map (fun r => (r.valid, r.clean)) = some (false, true) ∧ release.ctx.regions.getD 5 none = none := by decide +kernel

/-- CommandChecks: a count of 24,577. -/
theorem witness_command_count : (0x6001#32 : W32).toNat % 2 ^ 15 = 24577 ∧ (0x8000#32 : W32).toNat / 2 ^ 28 % 4 = 0 ∧
    (wordAt (descOf (srcCtx podEng) ((0x8000#32 : W32).toNat / 2 ^ 15 % 4096)) 0).getLsbD 31 = true := by decide +kernel

/-- Launches: a child that is ending. -/
theorem witness_ending_child :
    let s : State := { podLaunch.setScalar 1 9#32 with team := { podLaunch.team with children := [9#32] }, grids := [{ Grid.reset with handle := 9#32, status := .ending 3 3#32 }] }
    (srcPod s).scalar 1 ∈ s.team.children ∧ (s.grids.find? (·.handle == 9#32)).map (·.status) = some (.ending 3 3#32) := by decide +kernel

/-- GraphNodes: a completion ring that is full, and an entry that cannot be written, told of and not. -/
theorem witness_completion_rings :
    let done (f : Stream → Stream) : State := stream63 (idle [nodeOf63 (.finished 3#32) []]) f
    let full := done fun st => { st with cplBase := 0x800#64, cplSize := 4#32, cplTail := 16#32 }
    let far (told : Bool) : State := done fun st => { st with cplBase := 0x8000#64, cplSize := 4#32, cplFault := told }
    let fails (s : State) : Bool := (engineWrite s (s.ctxOf 0) ((s.stream 63).cplRing.entryAt (s.stream 63).cplTail 16) (wordsBytes [h63, 3#32, 0#32, 0#32])).toOption.isNone
    (full.stream 63).cplRing.full = true ∧ ((far false).stream 63).cplRing.full = false ∧ fails (far false) = true ∧ ((far true).stream 63).cplFault = true ∧
    ((far false).nodeOf h63).map (·.status) = some (.finished 3#32) := by decide +kernel

/-- GridEvents: a grid with a sprout address and without one, on a core with a sprout and without; a team that ends with its sprout alive. -/
theorem witness_sprouts :
    let g : Grid := { Grid.reset with sprout := 0x1000000000000#64 }
    let sprout : Pod := { Pod.reset with index := 256 }
    let s : State := { idle [] with teams := [{ Team.reset with id := 4, sprout := some sprout, pods := [{ Pod.reset with phase := .ended }] }] }
    g.sprout ≠ 0#64 ∧ Grid.reset.sprout = 0#64 ∧ (∀ m ∈ (idle []).teams, m.sprout = none) ∧ (∃ m ∈ s.teams, m.core = 0 ∧ isResident s m.owner = true ∧ m.sprout ≠ none) ∧
    (s.teams.find? (·.id == 4)).map (·.sprout) = some (some sprout) := by decide +kernel

/-- FabricEvents: the waited transfer at which a processor stands, behind a posted one; a posted one before it; an arrival that is refused; a GEN
that stands where the residual buffer was. -/
theorem witness_waits_named :
    let a := { transfer0 .send true false none with id := 2 }
    let w := transfer0 .fetch true false none
    let s (ph : Phase) : State := { fab0 with fp := { fab0.fp with phase := ph, transfers := [a, w] } }
    let z := closeFocus (fabG 1 0#64 0#64 0#64 0#64)
    ((s (.waiting .engine 0)).fp.transfers = [a] ++ w :: [] ∧ w.coll = (s .ready).coll.id ∧ w.posted = false ∧ ∀ y ∈ [a], y.coll = (s .ready).coll.id → y.posted = true) ∧
    ((s (.waiting .tkfence 0)).fp.transfers = [] ++ a :: [w] ∧ a.coll = (s .ready).coll.id ∧ a.posted = true) ∧ (transfer0 .arrival true false none).kind = .arrival ∧
    ((engineRead z (z.ctxOf 0) 0x604 4).toOption.map (·.length) = some 4 ∧ (engineRead z (z.ctxOf 0) 0x8004 4).toOption = none) := by decide +kernel

/-- HostRegisters: a fabric select's event past the last; a receive ring whose entry cannot be written. -/
theorem witness_host_entries :
    let s := open0 (joined (idle []))
    let far := owner0 s fun c => { c with mr := { base := 0x8000#64, size := 4#32, head := 0#32, tail := 0#32 } }
    (5 < (6#32 : W32).toNat % 256 ∧ (5#32 : W32).toNat % 256 ≤ 5) ∧ (far.ctxOf 0).mr.full = false ∧ jobOwner far 7#32 = some 0 ∧
    (engineWrite far (far.ctxOf 0) ((far.ctxOf 0).mr.entryAt 0#32 8192) (List.replicate 65 0#8)).toOption = none := by decide +kernel

/-- ModuleEvents: a notice whose entry cannot be written; a pod that no TKSKIP holds; a record that holds an agent, and a team with the pod of a
command. -/
theorem witness_module_records :
    let s : State := owner0 (idle []) fun c => { c with nr := { base := 0x8000#64, size := 4#32, head := 0#32, tail := 0#32 } }
    let r : Record := ⟨[], 9, .softwareTrap, true, .fabric 0, 0#32, h63, none, some 0, false⟩
    let c : Context := { s.ctxOf 0 with records := [r] }
    ((s.ctxOf 0).nr.full = false ∧ (engineWrite s (s.ctxOf 0) ((s.ctxOf 0).nr.entryAt 0#32 16) (List.replicate 16 0#8)).toOption = none) ∧ (pod0.pod.skip = 0 ∧ pod0.pod.skip2 = 0) ∧
    ((∃ r ∈ c.records, r.seq = 9) ∧ ∀ r ∈ c.records, r.seq % 2 ^ 32 = 9 % 2 ^ 32 → r.seq = 9) ∧ (∃ t ∈ (closeFocus podEng).teams, t.id = 1 ∧ ∃ p ∈ t.pods, p.index = 0) := by decide +kernel

/-! ### Clauses of the fifth review -/

/-- Hops (R316, R60, log 61): an element of -0 leaves a residual of +0. -/
theorem test_residual_of_negative_zero :
    residualAfter 0x80000000 0 0x3F80 = 0 ∧ compressBlock 2 (fun _ => 0#32) [0x80000000] = (0, [0], [0]) := by decide +kernel

/-- FabricEvents: a processor that a collective which is over has left at a waited transfer, at its limit; and one that waits in a suspended
collective. -/
theorem witness_left_transfer :
    let w := transfer0 .fetch true false none
    let p : Fabric := { fab0.fp with phase := .waiting .engine 0, transfers := [w], tlim := 1#32 }
    let s : State := { closeFocus { fab0 with fp := p } with colls := [], fabClock := 1400 }
    let t : State := { closeFocus { fab0 with fp := p, coll := { fab0.coll with stopped := [3] } } with fabClock := 1400 }
    (openFabric s 0).isNone = true ∧ (s.fabric.find? (·.index == 0)).map (fun q => (q.waited, q.waitFrom + 1400 * q.tlim.toNat)) = some (some w, 1400) ∧
    isResident s w.owner = true ∧ (openFabric t 0).map (fun o => (o.fp.phase, o.coll.stopped, isResident t o.ctx.owner)) = some (.waiting .engine 0, [3], true) ∧
    p.leave w.coll = p ∧ ({ p with phase := .ready }.leave w.coll).coll = none := by decide +kernel

/-- GridEvents: what a window leaves in the register files. -/
theorem witness_window_left :
    let q : Pod := { (pod0.pod.setLanes 0xF#4 1 (laneWord fun _ => 0x11223344#32)) with index := 17, ws := 1#4, part := 7, wb := 496#9 }
    MemoryOk pod0 ∧ memBytes (leaveWindow 575 pod0.mem q) (2 ^ 50 + 575 * 0x100000 + 0xE0000 + 16 * (16 * 497 + 1) + 12) 4 = [0x44#8, 0x33#8, 0x22#8, 0x11#8] := by
  unfold MemoryOk; decide +kernel

/-- GraphNodes: a TAPE node of a context that has ended, whose grid has retired well. -/
theorem witness_tape_of_the_dead :
    let s : State := owner0 { idle [{ nodeOf63 .running [(0, 0x50000000#32)] with grid := some 9#32 }] with
      grids := [{ Grid.reset with handle := 9#32, status := .retired 0 false 0#32 }] } fun c => { c with dead := true }
    (s.nodeOf h63).map (fun n => (n.status, n.grid)) = some (.running, some 9#32) ∧ (s.ctxOf (nodeOwner s h63)).dead = true ∧
    (s.gridOf 9#32).map (·.status) = some (.retired 0 false 0#32) ∧ ((after (.tapePop h63) s).nodeOf h63).map (·.status) = some (.finished 0x200#32) := by
  decide +kernel

/-- HostCommands: another owner's transfer in flight on a saved processor of the owner that is destroyed goes on. -/
theorem witness_saved_transfer :
    let x := { transfer0 .send true false none with owner := 5 }
    let s : State := owner0 (idle []) fun c => { c with processors := [{ fab0.fp with transfers := [x, transfer0 .send true false none] }] }
    MemoryOk s ∧ (s.ctxOf 0).created = true ∧ (eraseOwner s 0).fabric.map (·.transfers) = [x] :: List.replicate 15 [] := by
  unfold MemoryOk; decide +kernel

/-- ModuleEvents: the last byte of a core's register files. -/
theorem witness_file_byte :
    partOfDie State.reset (575 / 144) = 0 ∧ fileAt 575 0 ≤ 2 ^ 50 + 576 * 0x100000 - 1 ∧ 2 ^ 50 + 576 * 0x100000 - 1 < fileAt 575 0 + 0x100000 := by
  decide +kernel

end Sys2Proof.Tests
end

section
/-! SUPPORT. SYSWR, SRKEY and SRSTEP: what a write leaves in each register, what a select register's write leaves in the counters, and the
statement SystemWrites (R62, R63, R73, R222, R269, R270, R273, R369). -/

namespace Sys2Proof.Machine

/-! ### A SYSWR completes with its register written or raises a fault -/

theorem exec_syswr (n a : BitVec 5) (s : State) :
    exec (.syswr n a) s = settle s (orTrap (sysWrite s n.toNat (sreg s a)) >>= fun t => pure (t.advance 1)) := rfl

theorem exec_syswr_of_ok {n a : BitVec 5} {s t : State} (h : sysWrite s n.toNat (sreg s a) = .ok t) :
    exec (.syswr n a) s = .next (t.advance 1) := by
  rw [exec_syswr, h]; rfl

theorem exec_syswr_of_error {n a : BitVec 5} {s : State} {x : Stop} (h : sysWrite s n.toNat (sreg s a) = .error x) :
    exec (.syswr n a) s = .next (takeTrap s x) := by
  rw [exec_syswr, h]; rfl

/-- The shape that the registers whose values are checked share (R62, R73, R222, R269). -/
theorem exec_syswr_checked {n a : BitVec 5} {s t : State} {ok : Prop} [Decidable ok]
    (h : sysWrite s n.toNat (sreg s a) = if ok then .ok t else .error (Stop.plain .reservedField)) :
    (ok → exec (.syswr n a) s = .next (t.advance 1)) ∧ (¬ok → exec (.syswr n a) s = .next (takeTrap s { code := .reservedField })) :=
  ⟨fun hok => exec_syswr_of_ok (h.trans (if_pos hok)), fun hok => exec_syswr_of_error (h.trans (if_neg hok))⟩

/-! ### What each name's write gives -/

theorem modeRmOk_iff {w : W32} : modeRmOk w = true ↔ w.toNat % 8 ≠ 0 ∧ w.toNat % 8 ≠ 7 := by
  simp [modeRmOk]

theorem spLowBits_iff {w : W32} : (w.extractLsb' 0 4 == 0#4) = true ↔ w.toNat % 16 = 0 := by
  simp [BitVec.toNat_eq]

theorem spHighBits_iff {w : W32} : (w.extractLsb' 19 13 == 0#13) = true ↔ w.toNat < 2 ^ 19 := by
  have hw := w.isLt
  simp only [beq_iff_eq, BitVec.toNat_eq, BitVec.extractLsb'_toNat, Nat.shiftRight_eq_div_pow, BitVec.toNat_ofNat]
  omega

theorem sysWrite_mode {s : State} {w : W32} :
    sysWrite s 0 w = if w.toNat % 8 ≠ 0 ∧ w.toNat % 8 ≠ 7 then .ok { s with team := { s.team with mode := w &&& 0xC7#32 } }
      else .error (Stop.plain .reservedField) :=
  if_congr modeRmOk_iff rfl rfl

theorem sysWrite_splo {s : State} {w : W32} :
    sysWrite s 2 w = if w.toNat % 16 = 0 then .ok { s with pod := { s.pod with sp := s.pod.sp.extractLsb' 32 32 ++ w } }
      else .error (Stop.plain .reservedField) :=
  if_congr spLowBits_iff rfl rfl

theorem sysWrite_sphi {s : State} {w : W32} :
    sysWrite s 3 w = if w.toNat < 2 ^ 19 then .ok { s with pod := { s.pod with sp := w ++ s.pod.sp.extractLsb' 0 32 } }
      else .error (Stop.plain .reservedField) :=
  if_congr spHighBits_iff rfl rfl

/-- The names TKCTL, LSCALE, LSCTL and CNTSEL0 and on: SYSWR stores the context that the name's write leaves. -/
theorem sysWrite_of_context {s : State} {n : Nat} {w : W32} (h4 : 4 ≤ n) (h7 : n ≠ 7) :
    sysWrite s n w = (sysWriteContext s n w).map fun c => { s with ctx := c } := by
  have hmatch : sysWrite s n w = match sysWriteContext s n w with | .ok c => .ok { s with ctx := c } | .error t => .error t := by
    obtain rfl | rfl | rfl | ⟨k, rfl⟩ : n = 4 ∨ n = 5 ∨ n = 6 ∨ ∃ k, n = k + 8 := by
      by_cases h8 : 8 ≤ n
      · exact .inr (.inr (.inr ⟨n - 8, by omega⟩))
      · omega
    all_goals rfl
  rw [hmatch]
  cases sysWriteContext s n w <;> rfl

theorem sysWrite_checked_context {s : State} {n : Nat} {w : W32} {c : Context} {x : Stop} {ok : Prop} [Decidable ok] (h4 : 4 ≤ n) (h7 : n ≠ 7)
    (h : sysWriteContext s n w = if ok then .ok c else .error x) :
    sysWrite s n w = if ok then .ok { s with ctx := c } else .error x := by
  rw [sysWrite_of_context h4 h7, h]
  split <;> rfl

theorem sysWriteContext_tkctl {s : State} {w : W32} :
    sysWriteContext s 4 w = if ¬(1 ≤ w.toNat % 32 ∧ w.toNat % 32 ≤ 9) then .ok { s.ctx with tkctl := w &&& 0x8000001F#32 }
      else .error (Stop.plain .reservedField) := by
  have hgap : (decide (1 ≤ (w.extractLsb' 0 5).toNat) && decide ((w.extractLsb' 0 5).toNat ≤ 9)) = true ↔ 1 ≤ w.toNat % 32 ∧ w.toNat % 32 ≤ 9 := by
    simp
  rw [ite_not]
  exact if_congr hgap rfl rfl

theorem sysWriteContext_lsctl {s : State} {w : W32} :
    sysWriteContext s 6 w = if (w.extractLsb' 0 8).toInt ≤ (w.extractLsb' 8 8).toInt ∧ -126 ≤ (w.extractLsb' 0 8).toInt then
      .ok { s.ctx with lsctl := w } else .error (Stop.plain .reservedField) := by
  refine if_congr ?_ rfl rfl
  simp only [Bool.and_eq_true, decide_eq_true_eq]
  omega

theorem sysWriteContext_cntsel {s : State} {k : Nat} {w : W32} :
    sysWriteContext s (k + 8) w = if w.toNat % 256 ≤ 13 then .ok (s.ctx.writeSel 0 k w) else .error (Stop.plain .reservedField) := by
  have hknown : eventKnown 0 (w.extractLsb' 0 8).toNat = true ↔ w.toNat % 256 ≤ 13 := by simp [eventKnown]
  exact if_congr hknown rfl rfl

/-! ### The word that a write leaves in a select register (R369) -/

theorem selWritten_en (old v : W32) : (selWritten old v).getLsbD 31 = v.getLsbD 31 := by simp [selWritten]

theorem selWritten_ovf (old v : W32) : (selWritten old v).getLsbD 30 = (old.getLsbD 30 && !v.getLsbD 30) := by simp [selWritten]

theorem selWritten_zero (old v : W32) : (selWritten old v).getLsbD 29 = v.getLsbD 29 := by simp [selWritten]

theorem selWritten_ie (old v : W32) : (selWritten old v).getLsbD 28 = v.getLsbD 28 := by simp [selWritten]

theorem selWritten_reserved (old v : W32) : (selWritten old v).toNat / 2 ^ 8 % 2 ^ 20 = 0 := by
  have h : (selWritten old v).extractLsb' 8 20 = 0#20 := by
    simp [selWritten, BitVec.extractLsb'_or, BitVec.extractLsb'_and]
  simpa [BitVec.toNat_eq, Nat.shiftRight_eq_div_pow] using h

theorem selWritten_event (old v : W32) : (selWritten old v).extractLsb' 0 8 = v.extractLsb' 0 8 := by
  have hv : v.extractLsb' 0 8 &&& 255#8 = v.extractLsb' 0 8 := BitVec.and_allOnes
  simp [selWritten, BitVec.extractLsb'_or, BitVec.extractLsb'_and, hv]

theorem selWritten_event_mod (old v : W32) : (selWritten old v).toNat % 256 = v.toNat % 256 := by
  simpa using congrArg BitVec.toNat (selWritten_event old v)

/-! ### The counters of an owner after a write of a select register -/

/-- The counters of cores (kind 0) or of slices (kind 1) that a context lists. -/
def Context.countersOf (c : Context) (kind : Nat) : List Counter := if kind = 0 then c.cnt else c.slcnt

theorem selOf_eq_ite (c : Context) (kind i : Nat) : selOf c kind i = if kind = 0 then c.cntsel.getD i 0#32 else c.slsel.getD i 0#32 := by
  cases kind <;> rfl

theorem countersOf_eq_ite (c : Context) (kind : Nat) : c.countersOf kind = if kind = 0 then c.cnt else c.slcnt := rfl

/-- A counter that holds nothing, which a context does not list. -/
def Counter.isBlank (x : Counter) : Bool := x.count == 0#48 && !x.ovf && x.frac == 0

/-- The counter that a context reads for a unit and an index that it does not list. -/
def Counter.blank (unit i : Nat) : Counter := ⟨unit, i, 0#48, false, 0⟩

/-- What the write of v into select register m, which held old, leaves in a counter. -/
def Counter.afterSelect (m : Nat) (old v : W32) (x : Counter) : Counter :=
  if x.n == m then
    { x with ovf := x.ovf && !v.getLsbD 30, count := if (selWritten old v).getLsbD 29 then 0#48 else x.count,
             frac := if (selWritten old v).getLsbD 29 || (selWritten old v).extractLsb' 0 8 != old.extractLsb' 0 8 then 0 else x.frac }
  else x

theorem countersOf_writeSel {c : Context} {kind m : Nat} {v : W32} :
    (c.writeSel kind m v).countersOf kind = ((c.countersOf kind).map (Counter.afterSelect m (selOf c kind m) v)).filter fun x => !x.isBlank := by
  cases kind <;> rfl

/-- A write of a select register changes the select registers and the counters of its kind alone. -/
theorem writeSel_frame {c : Context} {kind m : Nat} {v : W32} :
    let u := c.writeSel kind m v
    u = if kind = 0 then { c with cntsel := u.cntsel, cnt := u.cnt } else { c with slsel := u.slsel, slcnt := u.slcnt } := by
  cases kind <;> rfl

theorem selOf_writeSel_same {c : Context} {kind m : Nat} {v : W32} (hm : m < 4) :
    selOf (c.writeSel kind m v) kind m = selWritten (selOf c kind m) v := by
  unfold Context.writeSel
  generalize selWritten (selOf c kind m) v = new
  unfold selOf
  cases kind == 0 <;> simp [Vector.getD, hm]

theorem selOf_writeSel_other {c : Context} {kind m i : Nat} {v : W32} (hi : i < 4) (him : i ≠ m) :
    selOf (c.writeSel kind m v) kind i = selOf c kind i := by
  unfold selOf Context.writeSel
  cases kind == 0 <;> simp [Vector.getD, hi, Ne.symm him]

theorem Counter.eq_blank_of_isBlank {x : Counter} (h : x.isBlank = true) : x = Counter.blank x.unit x.n := by
  obtain ⟨unit, n, count, ovf, frac⟩ := x
  simp_all [Counter.isBlank, Counter.blank]

@[simp] theorem Counter.afterSelect_unit {m : Nat} {old v : W32} {x : Counter} : (x.afterSelect m old v).unit = x.unit := by
  unfold Counter.afterSelect; split <;> rfl

@[simp] theorem Counter.afterSelect_n {m : Nat} {old v : W32} {x : Counter} : (x.afterSelect m old v).n = x.n := by
  unfold Counter.afterSelect; split <;> rfl

@[simp] theorem Counter.afterSelect_blank {m unit i : Nat} {old v : W32} : (Counter.blank unit i).afterSelect m old v = Counter.blank unit i := by
  unfold Counter.afterSelect Counter.blank; split <;> simp

theorem counterOf_cons {x : Counter} {l : List Counter} {unit i : Nat} :
    counterOf (x :: l) unit i = if x.unit = unit ∧ x.n = i then x else counterOf l unit i := by
  have hkey : (x.unit == unit && x.n == i) = decide (x.unit = unit ∧ x.n = i) := (Bool.decide_and _ _).symm
  unfold counterOf
  rw [List.find?_cons, hkey]
  by_cases h : x.unit = unit ∧ x.n = i
  · rw [decide_eq_true h, if_pos h]; rfl
  · rw [decide_eq_false h, if_neg h]

theorem counterOf_map_afterSelect {l : List Counter} {m unit i : Nat} {old v : W32} :
    counterOf (l.map (Counter.afterSelect m old v)) unit i = (counterOf l unit i).afterSelect m old v := by
  induction l with
  | nil => exact Counter.afterSelect_blank.symm
  | cons x l ih =>
    rw [List.map_cons, counterOf_cons, counterOf_cons, Counter.afterSelect_unit, Counter.afterSelect_n, ih]
    split <;> rfl

theorem counterOf_of_unlisted {l : List Counter} {unit i : Nat} (h : (unit, i) ∉ l.map fun x => (x.unit, x.n)) :
    counterOf l unit i = Counter.blank unit i := by
  have hnone : l.find? (fun x => x.unit == unit && x.n == i) = none := by
    rw [List.find?_eq_none]
    intro x hx hkey
    simp only [Bool.and_eq_true, beq_iff_eq] at hkey
    obtain ⟨rfl, rfl⟩ := hkey
    exact h (List.mem_map_of_mem hx)
  unfold counterOf
  rw [hnone]; rfl

/-- Dropping the counters that hold nothing changes no counter as it is read, where each is listed once. -/
theorem counterOf_filter_not_isBlank {l : List Counter} {unit i : Nat} (h : (l.map fun x => (x.unit, x.n)).Nodup) :
    counterOf (l.filter fun x => !x.isBlank) unit i = counterOf l unit i := by
  induction l with
  | nil => rfl
  | cons x l ih =>
    obtain ⟨hx, hl⟩ := List.nodup_cons.mp h
    cases hb : x.isBlank with
    | false => rw [List.filter_cons_of_pos (by simp [hb]), counterOf_cons, counterOf_cons, ih hl]
    | true =>
      rw [List.filter_cons_of_neg (by simp [hb]), counterOf_cons, ih hl]
      split
      next hkey =>
        obtain ⟨rfl, rfl⟩ := hkey
        rw [counterOf_of_unlisted hx, ← Counter.eq_blank_of_isBlank hb]
      next => rfl

theorem counterOf_n {l : List Counter} {unit i : Nat} : (counterOf l unit i).n = i := by
  induction l with
  | nil => rfl
  | cons x l ih =>
    rw [counterOf_cons]
    split
    next hkey => exact hkey.2
    next => exact ih

/-- The written counter in the words of R369: OVF cleared by a 1, no count under ZERO, no part of an event under ZERO or another EVENT. -/
theorem Counter.afterSelect_eq {m : Nat} {old v : W32} {x : Counter} :
    x.afterSelect m old v = if x.n = m then
      { x with ovf := x.ovf && !v.getLsbD 30, count := if v.getLsbD 29 = true then 0#48 else x.count,
               frac := if v.getLsbD 29 = true ∨ v.toNat % 256 ≠ old.toNat % 256 then 0 else x.frac }
    else x := by
  unfold Counter.afterSelect
  have hevent : (v.extractLsb' 0 8 != old.extractLsb' 0 8) = true ↔ v.toNat % 256 ≠ old.toNat % 256 := by
    simp [BitVec.toNat_eq]
  simp only [selWritten_zero, selWritten_event, beq_iff_eq, Bool.or_eq_true, hevent]

/-- A write of select register m changes the owner's counters m alone, as R369 says. -/
theorem counterOf_writeSel {c : Context} {kind m unit i : Nat} {v : W32} (h : ((c.countersOf kind).map fun x => (x.unit, x.n)).Nodup) :
    let x := counterOf (c.countersOf kind) unit i
    counterOf ((c.writeSel kind m v).countersOf kind) unit i = if i = m then
      { x with ovf := x.ovf && !v.getLsbD 30, count := if v.getLsbD 29 = true then 0#48 else x.count,
               frac := if v.getLsbD 29 = true ∨ v.toNat % 256 ≠ (selOf c kind m).toNat % 256 then 0 else x.frac }
    else x := by
  have hmap : (((c.countersOf kind).map (Counter.afterSelect m (selOf c kind m) v)).map fun x => (x.unit, x.n)).Nodup := by
    rw [List.map_map]
    simpa only [Function.comp_def, Counter.afterSelect_unit, Counter.afterSelect_n] using h
  rw [countersOf_writeSel, counterOf_filter_not_isBlank hmap, counterOf_map_afterSelect]
  refine Counter.afterSelect_eq.trans ?_
  rw [counterOf_n]

/-! ### The statement -/

/-- Settles O32: each register by its own equation of sysWrite; the select registers and their counters by writeSel. -/
theorem systemWrites : Obligations.SystemWrites := by
  unfold Obligations.SystemWrites
  intro n a k s
  refine ⟨?mode, ?flags, ?splo, ?sphi, ?tkctl, ?lscale, ?lsctl, ?srsel, ?cntsel, ?select, rfl, rfl⟩
  case mode => rintro rfl; exact exec_syswr_checked sysWrite_mode
  case flags => rintro rfl; exact exec_syswr_of_ok rfl
  case splo => rintro rfl; exact exec_syswr_checked sysWrite_splo
  case sphi => rintro rfl; exact exec_syswr_checked sysWrite_sphi
  case tkctl => rintro rfl; exact exec_syswr_checked (sysWrite_checked_context (by decide) (by decide) sysWriteContext_tkctl)
  case lscale => rintro rfl; exact exec_syswr_of_ok rfl
  case lsctl => rintro rfl; exact exec_syswr_checked (sysWrite_checked_context (by decide) (by decide) sysWriteContext_lsctl)
  case srsel => rintro rfl; exact exec_syswr_of_ok rfl
  case cntsel =>
    intro h8 _
    obtain ⟨j, hj⟩ := Nat.exists_eq_add_of_le' h8
    rw [hj, Nat.add_sub_cancel]
    exact exec_syswr_checked (hj ▸ sysWrite_checked_context (by omega) (by omega) sysWriteContext_cntsel)
  case select =>
    intro c kind m v hm _
    simp only [← selOf_eq_ite, ← countersOf_eq_ite]
    exact ⟨selOf_writeSel_same hm, fun _ hi him => selOf_writeSel_other hi him, selWritten_en _ v, selWritten_ovf _ v, selWritten_zero _ v,
      selWritten_ie _ v, selWritten_reserved _ v, selWritten_event_mod _ v, writeSel_frame, fun hlisted _ _ => counterOf_writeSel hlisted⟩

end Sys2Proof.Machine
end

section
/-! O5, part 1: what it means that a computation keeps the memory in canonical form, and the operations that every agent shares: stores, the focus,
records, the taking of a fault and counters. -/

namespace Sys2Proof.Machine

/-! ### What a computation may give -/

/-- Every state that an outcome goes on with has its memory in canonical form. -/
def NextWf (r : Host.Outcome State Fault Refusal) : Prop := ∀ t, r = .next t → Memory.wf t.mem = true

/-- Every state that a computation which may fault gives has its memory in canonical form. -/
def OkWf {ε : Type} (r : Except ε State) : Prop := ∀ t, r = .ok t → Memory.wf t.mem = true

/-- Every state that an operation which may give none gives has its memory in canonical form. -/
def SomeWf (r : Option State) : Prop := ∀ t, r = some t → Memory.wf t.mem = true

theorem nextWf_next {t : State} (h : Memory.wf t.mem = true) : NextWf (.next t) := fun _ e => by cases e; exact h

theorem okWf_ok {ε : Type} {t : State} (h : Memory.wf t.mem = true) : OkWf (.ok t : Except ε State) := fun _ e => by cases e; exact h

theorem okWf_error {ε : Type} {e : ε} : OkWf (.error e : Except ε State) := fun _ h => by cases h

theorem someWf_some {t : State} (h : Memory.wf t.mem = true) : SomeWf (some t) := fun _ e => by cases e; exact h

theorem someWf_none : SomeWf none := fun _ h => by cases h

theorem okWf_bind {ε α : Type} {x : Except ε α} {f : α → Except ε State} (hf : ∀ a, x = .ok a → OkWf (f a)) : OkWf (x >>= f) := by
  cases x with
  | error e => exact okWf_error
  | ok a => exact hf a rfl

theorem ite_wf {c : Prop} {_ : Decidable c} {s t : State} (hs : Memory.wf s.mem = true) (ht : Memory.wf t.mem = true) :
    Memory.wf (if c then s else t).mem = true := by split <;> assumption

theorem ite_nextWf {c : Prop} {_ : Decidable c} {r q : Host.Outcome State Fault Refusal} (hr : NextWf r) (hq : NextWf q) :
    NextWf (if c then r else q) := by split <;> assumption

theorem ite_okWf {ε : Type} {c : Prop} {_ : Decidable c} {r q : Except ε State} (hr : OkWf r) (hq : OkWf q) : OkWf (if c then r else q) := by
  split <;> assumption

theorem ite_someWf {c : Prop} {_ : Decidable c} {r q : Option State} (hr : SomeWf r) (hq : SomeWf q) : SomeWf (if c then r else q) := by
  split <;> assumption

/-- A loop over states keeps the canonical form when its body does. -/
theorem foldl_wf {α : Type} {f : State → α → State} (hf : ∀ {s : State} {a : α}, Memory.wf s.mem = true → Memory.wf (f s a).mem = true) {l : List α} :
    ∀ {s : State}, Memory.wf s.mem = true → Memory.wf (l.foldl f s).mem = true := by
  induction l with
  | nil => exact id
  | cons a r ih => exact fun h => ih (hf h)

/-! ### Updates that leave the memory as it is -/

section
variable {s : State}

theorem mapPod_wf {f : Pod → Pod} (h : Memory.wf s.mem = true) : Memory.wf (s.mapPod f).mem = true := h

theorem advance_wf {n : Nat} (h : Memory.wf s.mem = true) : Memory.wf (s.advance n).mem = true := h

theorem setScalar_wf {k : Nat} {w : W32} (h : Memory.wf s.mem = true) : Memory.wf (s.setScalar k w).mem = true := h

theorem mapCtx_wf {n : Nat} {f : Context → Context} (h : Memory.wf s.mem = true) : Memory.wf (s.mapCtx n f).mem = true := h

theorem mapTeam_wf {n : Nat} {f : Team → Team} (h : Memory.wf s.mem = true) : Memory.wf (s.mapTeam n f).mem = true := h

theorem mapTeamPod_wf {n k : Nat} {f : Pod → Pod} (h : Memory.wf s.mem = true) : Memory.wf (s.mapTeamPod n k f).mem = true := h

theorem mapGrid_wf {n : W32} {f : Grid → Grid} (h : Memory.wf s.mem = true) : Memory.wf (s.mapGrid n f).mem = true := h

theorem mapStream_wf {k : Nat} {f : Stream → Stream} (h : Memory.wf s.mem = true) : Memory.wf (s.mapStream k f).mem = true := by
  simpa using h

theorem mapNode_wf {n : W32} {f : Node → Node} (h : Memory.wf s.mem = true) : Memory.wf (s.mapNode n f).mem = true := mapStream_wf h

theorem sample_wf {bytes flops : Nat} (h : Memory.wf s.mem = true) : Memory.wf (s.sample bytes flops).mem = true := by
  unfold State.sample; split <;> exact h

theorem scalarResult_wf {k : Nat} {w : W32} {la : Nat} (h : Memory.wf s.mem = true) : Memory.wf (s.scalarResult k w la).mem = true := ite_wf h h

theorem laneResult_wf {m : Mask} {r : Nat} {vals : List LaneWord} {la : Nat} (h : Memory.wf s.mem = true) :
    Memory.wf (s.laneResult m r vals la).mem = true := h

end

/-! ### Stores through the tables -/

theorem vwrite_wf {c : Context} {space fuel : Nat} : ∀ {s : State} {va : Nat} {b : List Byte}, Memory.wf s.mem = true → OkWf (vwrite s c space fuel va b) := by
  induction fuel with
  | zero => exact fun h => okWf_ok h
  | succ k ih =>
    intro s va b h
    refine ite_okWf (okWf_ok h) ?_
    split
    · exact okWf_error
    · exact ih (storeAt_wf h)

theorem vput_wf {s : State} {c : Context} {space va : Nat} {b : List Byte} (h : Memory.wf s.mem = true) : OkWf (vput s c space va b) := by
  unfold vput
  split
  · exact okWf_error
  · exact vwrite_wf h

theorem engineWrite_wf {s : State} {c : Context} {va : Nat} {b : List Byte} (h : Memory.wf s.mem = true) : OkWf (engineWrite s c va b) := by
  unfold engineWrite
  split
  · exact okWf_error
  · exact vput_wf h

/-! ### The focus -/

theorem closeFocus_wf {s : State} (h : Memory.wf s.mem = true) : Memory.wf (closeFocus s).mem = true := by
  unfold closeFocus; split <;> exact h

theorem openPod_wf {s : State} {t i : Nat} (h : Memory.wf s.mem = true) : SomeWf (openPod s t i) := by
  unfold openPod
  split
  · exact someWf_none
  · split
    · exact someWf_some h
    · exact someWf_none

theorem openSprout_wf {s : State} {t : Nat} (h : Memory.wf s.mem = true) : SomeWf (openSprout s t) := by
  unfold openSprout
  split
  · exact someWf_none
  · split
    · exact someWf_some h
    · exact someWf_none

theorem openFabric_wf {s : State} {f : Nat} (h : Memory.wf s.mem = true) : SomeWf (openFabric s f) := by
  unfold openFabric
  split
  · exact someWf_none
  · split
    · exact someWf_none
    · split
      · exact someWf_none
      · exact someWf_some h

theorem finishNode_wf {s : State} {n status : W32} (h : Memory.wf s.mem = true) : Memory.wf (s.finishNode n status).mem = true :=
  mapNode_wf h

theorem endTransform_wf {s : State} {node status : W32} (h : Memory.wf s.mem = true) : Memory.wf (endTransform s node status).mem = true :=
  finishNode_wf h

theorem endSprout_wf {s : State} (h : Memory.wf s.mem = true) : Memory.wf (endSprout s).mem = true := by
  unfold endSprout
  split
  · exact closeFocus_wf h
  · exact h

theorem markWait_wf {s : State} {w : Wait} (h : Memory.wf s.mem = true) : Memory.wf (markWait s w).mem = true := by
  unfold markWait; dsimp only; split <;> exact h

/-! ### Records, warnings and notices -/

theorem writeRecord_wf {s : State} {r : Record} {owner : Nat} (h : Memory.wf s.mem = true) : Memory.wf (writeRecord s r owner).mem = true := by
  refine ite_wf h ?_
  split
  · exact h
  · next ht => exact (engineWrite_wf h _ ht :)

theorem postRecord_wf {s : State} {x : Site} {t : Stop} (h : Memory.wf s.mem = true) : Memory.wf (postRecord s x t).mem = true :=
  writeRecord_wf h

theorem flushHeld_wf {owner n : Nat} : ∀ {s : State}, Memory.wf s.mem = true → Memory.wf (flushHeld s owner n).mem = true := by
  induction n with
  | zero => exact id
  | succ k ih =>
    intro s h
    unfold flushHeld
    split
    · exact h
    · exact ite_wf (ih (writeRecord_wf h)) h

theorem postWarning_wf {s : State} {x : Site} {t : Stop} {src : WarnSource} (h : Memory.wf s.mem = true) :
    Memory.wf (postWarning s x t src).mem = true :=
  ite_wf h (writeRecord_wf h)

theorem writeReported_wf {s : State} {owner va : Nat} {b : List Byte} (h : Memory.wf s.mem = true) : Memory.wf (writeReported s owner va b).mem = true := by
  unfold writeReported
  split
  · next ht => exact engineWrite_wf h _ ht
  · exact postRecord_wf h

theorem completeRequest_wf {s : State} {owner q seq : Nat} {done : W64} {status : Nat} (h : Memory.wf s.mem = true) :
    Memory.wf (completeRequest s owner q seq done status).mem = true :=
  writeReported_wf h

theorem postNotice_wf {s : State} {owner kind unit n : Nat} {sel : W32} (h : Memory.wf s.mem = true) :
    Memory.wf (postNotice s owner kind unit n sel).mem = true := by
  refine ite_wf h ?_
  split
  · exact postRecord_wf h
  · next ht => exact (engineWrite_wf h _ ht :)

/-! ### Ends of collectives and contexts, and the taking of a fault -/

theorem terminateGrids_wf {s : State} {roots : List W32} {code : Nat} {status : W32} (h : Memory.wf s.mem = true) :
    Memory.wf (terminateGrids s roots code status).mem = true := h

theorem endCollective_wf {s : State} {id code : Nat} (h : Memory.wf s.mem = true) : Memory.wf (endCollective s id code).mem = true := by
  unfold endCollective
  split
  · exact h
  · dsimp only
    split
    · exact completeRequest_wf h
    · exact finishNode_wf h

theorem endContext_wf {s : State} {owner code status : Nat} (h : Memory.wf s.mem = true) : Memory.wf (endContext s owner code status).mem = true :=
  foldl_wf endTransform_wf (foldl_wf endCollective_wf h)

theorem takePodTrap_wf {s : State} {t : Stop} {second : Bool} (h : Memory.wf s.mem = true) : Memory.wf (takePodTrap s t second).mem = true :=
  ite_wf (endContext_wf (closeFocus_wf (postRecord_wf h)))
    (ite_wf (closeFocus_wf h) (ite_wf (closeFocus_wf (postRecord_wf h)) (terminateGrids_wf (closeFocus_wf (postRecord_wf h)))))

theorem takeFabricTrap_wf {s : State} {t : Stop} (h : Memory.wf s.mem = true) : Memory.wf (takeFabricTrap s t).mem = true :=
  ite_wf (closeFocus_wf (postRecord_wf h)) (endCollective_wf (closeFocus_wf (postRecord_wf h)))

theorem takeTrap_wf {s : State} {t : Stop} (h : Memory.wf s.mem = true) : Memory.wf (takeTrap s t).mem = true := by
  unfold takeTrap
  dsimp only
  split
  · exact endSprout_wf h
  · exact takeFabricTrap_wf h
  · exact takePodTrap_wf h

/-- A meaning that may trap or wait keeps the canonical form when its result does. -/
theorem settle_wf {s : State} {r : Except Halt State} (h : Memory.wf s.mem = true) (hr : OkWf r) : NextWf (settle s r) := by
  unfold settle
  split
  · exact nextWf_next (hr _ rfl)
  · exact nextWf_next (takeTrap_wf h)
  · exact nextWf_next (markWait_wf h)

theorem performSrStep_wf {s : State} {x : Site} {t : Nat} {st g : W32} {src : WarnSource} (h : Memory.wf s.mem = true) :
    Memory.wf (performSrStep s x t st g src).mem = true :=
  ite_wf (postWarning_wf h) h

/-! ### Counters -/

theorem countOne_wf {s : State} {owner kind unit n ev amount scale : Nat} (h : Memory.wf s.mem = true) :
    Memory.wf (countOne s owner kind unit n ev amount scale).mem = true :=
  ite_wf h (ite_wf (postNotice_wf h) h)

theorem countUnit_wf {s : State} {owner kind unit ev amount scale : Nat} (h : Memory.wf s.mem = true) :
    Memory.wf (countUnit s owner kind unit ev amount scale).mem = true :=
  foldl_wf countOne_wf h

theorem countCore_wf {s : State} {owner core ev amount : Nat} (h : Memory.wf s.mem = true) : Memory.wf (countCore s owner core ev amount).mem = true :=
  countUnit_wf h

theorem countSlice_wf {s : State} {owner pa ev amount : Nat} (h : Memory.wf s.mem = true) : Memory.wf (countSlice s owner pa ev amount).mem = true :=
  ite_wf (countUnit_wf h) h

theorem countFabricOne_wf {s : State} {f n ev amount scale : Nat} (h : Memory.wf s.mem = true) :
    Memory.wf (countFabricOne s f n ev amount scale).mem = true :=
  ite_wf h (ite_wf (postNotice_wf h) h)

theorem countFabric_wf {s : State} {f ev amount scale : Nat} (h : Memory.wf s.mem = true) : Memory.wf (countFabric s f ev amount scale).mem = true :=
  foldl_wf countFabricOne_wf h

theorem countWord_wf {s : State} {owner core lanes : Nat} {i : Instr} {w : W32} (h : Memory.wf s.mem = true) :
    Memory.wf (countWord s owner core lanes i w).mem = true :=
  ite_wf (countCore_wf (countCore_wf h)) (countCore_wf h)

theorem retireWord_wf {s : State} {i : Instr} {w : W32} {m : Mask} (h : Memory.wf s.mem = true) : Memory.wf (retireWord s i w m).mem = true := by
  unfold retireWord
  split
  · exact countCore_wf h
  · exact countWord_wf h
  · exact countWord_wf h

theorem leaveBunch_wf {s : State} {team pod : Nat} (h : Memory.wf s.mem = true) : Memory.wf (leaveBunch s team pod).mem = true := by
  unfold leaveBunch
  split
  · exact h
  · exact ite_wf h h

end Sys2Proof.Machine
end

section
/-! O5, part 2: lane forms, control transfers and ticketed updates. -/

namespace Sys2Proof.Machine

/-! ### Lane forms across a bunch, and a pod's accesses -/

theorem okWf_orTrap {r : Except Stop State} (h : OkWf r) : OkWf (orTrap r) := by
  cases r with
  | error e => exact okWf_error
  | ok t => exact okWf_ok (h t rfl)

theorem crossEffect_wf {s : State} {i : Instr} (h : Memory.wf s.mem = true) : Memory.wf (crossEffect s i).mem = true := by
  refine ite_wf ?_ h
  split
  · exact h
  · exact markWait_wf h

theorem countBanks_wf {s : State} {sp : Space} {w : Nat} {ps : List (Nat × Nat)} (h : Memory.wf s.mem = true) : Memory.wf (countBanks s sp w ps).mem = true :=
  ite_wf (countCore_wf h) h

theorem loadEffect_wf {s : State} {sp : Space} {a d : BitVec 7} {off : Int} {w n : Nat} {la : BitVec 4} (h : Memory.wf s.mem = true) :
    OkWf (loadEffect s sp a d off w n la) :=
  okWf_bind fun _ _ => okWf_ok (advance_wf (sample_wf (countBanks_wf (ite_wf (countCore_wf (laneResult_wf h)) (laneResult_wf h)))))

theorem storeLanes_wf {s : State} {d : BitVec 7} {w : Nat} {ps : List (Nat × Nat)} (h : Memory.wf s.mem = true) : Memory.wf (storeLanes s d w ps).mem = true :=
  foldl_wf storeAt_wf h

theorem storeEffect_wf {s : State} {sp : Space} {a d : BitVec 7} {off : Int} {w : Nat} (h : Memory.wf s.mem = true) : OkWf (storeEffect s sp a d off w) :=
  okWf_bind fun _ _ => okWf_ok (advance_wf (sample_wf (countBanks_wf (storeLanes_wf h))))

/-! ### Control transfers and system registers -/

theorem execBra_wf {p : BitVec 3} {n : BitVec 2} {o : BitVec 19} {s : State} (h : Memory.wf s.mem = true) : NextWf (execBra p n o s) :=
  settle_wf h (ite_okWf (okWf_ok h) (ite_okWf okWf_error (okWf_ok h)))

theorem callEffect_wf {s : State} {t : BitVec 48} (h : Memory.wf s.mem = true) : OkWf (callEffect s t) := by
  refine okWf_bind fun _ _ => okWf_bind fun _ _ => okWf_bind fun _ _ => ?_
  split
  · exact okWf_error
  · exact okWf_ok (mapPod_wf (storeAt_wf h))

theorem execCall_wf {p : BitVec 3} {n : BitVec 2} {o : BitVec 19} {s : State} (h : Memory.wf s.mem = true) : NextWf (execCall p n o s) :=
  settle_wf h (ite_okWf (okWf_ok h) (ite_okWf okWf_error (callEffect_wf h)))

theorem execRet_wf {s : State} (h : Memory.wf s.mem = true) : NextWf (execRet s) := by
  refine settle_wf h (okWf_bind fun _ _ => okWf_bind fun _ _ => okWf_bind fun _ _ => ?_)
  split
  · exact okWf_error
  · split
    · exact okWf_error
    · exact okWf_bind fun _ _ => okWf_ok h

theorem execBrx_wf {a : BitVec 5} {s : State} (h : Memory.wf s.mem = true) : NextWf (execBrx a s) :=
  settle_wf h (okWf_bind fun _ _ => okWf_ok h)

theorem execCallx_wf {a : BitVec 5} {s : State} (h : Memory.wf s.mem = true) : NextWf (execCallx a s) :=
  settle_wf h (okWf_bind fun _ _ => okWf_bind fun _ _ => okWf_bind fun _ _ => callEffect_wf h)

theorem execMelse_wf {s : State} (h : Memory.wf s.mem = true) : NextWf (execMelse s) :=
  settle_wf h (okWf_bind fun _ _ => okWf_ok h)

theorem execMpop_wf {s : State} (h : Memory.wf s.mem = true) : NextWf (execMpop s) :=
  settle_wf h (okWf_bind fun _ _ => okWf_ok h)

theorem execMpush_wf {f : BitVec 3} {s : State} (h : Memory.wf s.mem = true) : NextWf (execMpush f s) :=
  settle_wf h (okWf_bind fun _ _ => okWf_ok h)

theorem sysWrite_wf {s : State} {code : Nat} {w : W32} (h : Memory.wf s.mem = true) : OkWf (sysWrite s code w) := by
  unfold sysWrite
  split
  · exact ite_okWf (okWf_ok h) okWf_error
  · exact okWf_ok h
  · exact ite_okWf (okWf_ok h) okWf_error
  · exact ite_okWf (okWf_ok h) okWf_error
  · exact okWf_ok h
  · split
    · exact okWf_ok h
    · exact okWf_error

theorem execSyswr_wf {n a : BitVec 5} {s : State} (h : Memory.wf s.mem = true) : NextWf (execSyswr n a s) :=
  settle_wf h (okWf_bind fun _ ht => okWf_ok (advance_wf (okWf_orTrap (sysWrite_wf h) _ ht)))

/-! ### Ticketed updates -/

theorem applyUpdate_wf {s : State} {owner : Nat} {u : TkEntry} (h : Memory.wf s.mem = true) : Memory.wf (applyUpdate s owner u).mem = true :=
  countSlice_wf (mapCtx_wf (foldl_wf (fun h => ite_wf (storeAt_wf h) h) h))

theorem drainGranule_wf {owner region granule fuel : Nat} : ∀ {s : State}, Memory.wf s.mem = true →
    Memory.wf (drainGranule s owner region granule fuel).mem = true := by
  induction fuel with
  | zero => exact id
  | succ n ih =>
    intro s h
    unfold drainGranule
    dsimp only
    split
    · exact h
    · split
      · exact h
      · exact ih (applyUpdate_wf h)

theorem acceptUpdate_wf {s t : State} {owner : Nat} {u : TkEntry} (h : Memory.wf s.mem = true) (ht : acceptUpdate s owner u = .accepted t) :
    Memory.wf t.mem = true := by
  unfold acceptUpdate at ht
  dsimp only at ht
  repeat' split at ht
  all_goals cases ht
  · exact drainGranule_wf (applyUpdate_wf h)
  · exact h

theorem offer_wf {s : State} {u : TkEntry} (h : Memory.wf s.mem = true) : OkWf (offer s u) := by
  unfold offer
  split
  · next ht => exact okWf_ok (countCore_wf (acceptUpdate_wf h ht))
  · exact okWf_error
  · exact okWf_error

theorem execTkfadd_wf {d a : BitVec 7} {w : BitVec 1} {s : State} (h : Memory.wf s.mem = true) : NextWf (execTkfadd d a w s) := by
  unfold execTkfadd
  split
  · exact nextWf_next h
  · exact settle_wf h (okWf_bind fun _ _ => okWf_bind fun _ _ => okWf_bind fun _ ht => okWf_ok (advance_wf (offer_wf h _ ht)))

theorem skipFrom_wf {va : Nat} {t : BitVec 16} {n : Nat} : ∀ {j : Nat} {s : State}, Memory.wf s.mem = true →
    Memory.wf (skipFrom va t n j s).state.mem = true := by
  induction n with
  | zero => exact id
  | succ k ih =>
    intro j s h
    unfold skipFrom
    split
    · exact h
    · split
      · next ht => exact ih (offer_wf h _ ht)
      · exact h

theorem skipTo_wf {s : State} {n : Nat} (h : Memory.wf s.mem = true) : Memory.wf (skipTo s n).mem = true := h

theorem execTkskip_wf {x y : BitVec 5} {s : State} (h : Memory.wf s.mem = true) : NextWf (execTkskip x y s) := by
  refine ite_nextWf (nextWf_next (takeTrap_wf h)) ?_
  have hr : Memory.wf (skipUpTo s x y (skipTotal s x)).state.mem = true := skipFrom_wf h
  split
  · exact nextWf_next (advance_wf (skipTo_wf hr))
  · exact nextWf_next (markWait_wf (skipTo_wf hr))
  · exact nextWf_next (takeTrap_wf (skipTo_wf (mapPod_wf hr)))

theorem writeBack_wf {s : State} {key : Nat} {r : Region} {pages : List Nat} (h : Memory.wf s.mem = true) : Memory.wf (writeBack s key r pages).mem = true :=
  foldl_wf storeAt_wf (foldl_wf storeAt_wf h)

theorem declareRegion_wf {s : State} {sx : W32} {r : RegionRecord} (h : Memory.wf s.mem = true) : OkWf (declareRegion s sx r) := by
  refine ite_okWf okWf_error ?_
  split
  · exact okWf_error
  · split
    · exact okWf_error
    · dsimp only
      split
      · exact okWf_error
      · refine okWf_ok ?_
        dsimp only
        split
        · exact writeBack_wf h
        · exact h

theorem execTkreg_wf {x y : BitVec 5} {s : State} (h : Memory.wf s.mem = true) : NextWf (execTkreg x y s) :=
  settle_wf h (okWf_bind fun _ _ => okWf_bind fun _ ht => okWf_ok (advance_wf (okWf_orTrap (declareRegion_wf h) _ ht)))

theorem execTkfence_wf {z : BitVec 5} {s : State} (h : Memory.wf s.mem = true) : NextWf (execTkfence z s) :=
  nextWf_next (ite_wf (markWait_wf h) h)

theorem execTkqry_wf {x y : BitVec 5} {l : BitVec 4} {s : State} (h : Memory.wf s.mem = true) : NextWf (execTkqry x y l s) := by
  unfold execTkqry
  dsimp only
  split
  · exact nextWf_next (takeTrap_wf h)
  · exact nextWf_next (advance_wf (scalarResult_wf h))

end Sys2Proof.Machine
end

section
/-! O5, part 3: barriers, waits, the clocks and atomics. -/

namespace Sys2Proof.Machine

/-! ### Team barriers and barrier objects -/

theorem settleBar_wf {s : State} (h : Memory.wf s.mem = true) : Memory.wf (settleBar s).mem = true := ite_wf h h

theorem execBar_wf {s : State} (h : Memory.wf s.mem = true) : NextWf (execBar s) :=
  have ht := settleBar_wf (mapPod_wf (f := fun p => { p with arrivals := max p.arrivals (p.barsDone + 1) }) h)
  nextWf_next (ite_wf (advance_wf (mapPod_wf ht)) (markWait_wf ht))

theorem execExit_wf {s : State} (h : Memory.wf s.mem = true) : NextWf (execExit s) := by
  unfold execExit
  split
  · exact nextWf_next (endSprout_wf h)
  · exact nextWf_next (settleBar_wf (mapPod_wf (advance_wf h)))

theorem putObject_wf {s : State} {owner pa : Nat} {o : List W32} (h : Memory.wf s.mem = true) : Memory.wf (putObject s owner pa o).mem = true :=
  storeAt_wf h

theorem writeObject_wf {s : State} {owner pa : Nat} {o : List W32} (h : Memory.wf s.mem = true) : Memory.wf (writeObject s owner pa o).mem = true :=
  countSlice_wf (putObject_wf h)

theorem resolveObject_wf {s : State} {owner fuel : Nat} (h : Memory.wf s.mem = true) : ∀ {va : Nat} {r : Resolved},
    resolveObject s owner fuel va = .ok r → Memory.wf r.state.mem = true := by
  induction fuel with
  | zero =>
    intro va r hr
    unfold resolveObject at hr
    repeat' split at hr
    all_goals cases hr
    exact h
  | succ n ih =>
    intro va r hr
    unfold resolveObject at hr
    split at hr
    · cases hr
    · split at hr
      · cases hr
        exact h
      · split at hr
        · cases hr
        · next p hp =>
          have hu : Memory.wf (if p.flipped then writeObject p.state owner p.place p.words else p.state).mem = true :=
            ite_wf (writeObject_wf (ih hp)) (ih hp)
          dsimp only at hr
          split at hr <;> cases hr <;> exact hu

theorem arriveObject_wf {owner fuel : Nat} : ∀ {s : State} {va : Nat}, Memory.wf s.mem = true → Memory.wf (arriveObject s owner fuel va).state.mem = true := by
  induction fuel with
  | zero => exact id
  | succ n ih =>
    intro s va h
    unfold arriveObject
    split
    · exact h
    · next r hr =>
      have hs := resolveObject_wf h hr
      dsimp only
      repeat' split
      · exact hs
      · exact writeObject_wf hs
      · exact hs
      · exact writeObject_wf hs
      · exact writeObject_wf hs
      · exact ih (writeObject_wf hs)
      · exact putObject_wf (ih (writeObject_wf hs))

theorem arrive_wf {s : State} {owner va : Nat} (h : Memory.wf s.mem = true) : Memory.wf (arrive s owner va).state.mem = true := arriveObject_wf h

theorem readPhase_wf {s t : State} {owner va : Nat} {w : W32} (h : Memory.wf s.mem = true) (ht : readPhase s owner va = .ok (t, w)) :
    Memory.wf t.mem = true := by
  unfold readPhase at ht
  split at ht
  · cases ht
  · next r hr =>
    cases ht
    exact ite_wf (writeObject_wf (resolveObject_wf h hr)) (countSlice_wf (resolveObject_wf h hr))

theorem execBarrive_wf {x y z : BitVec 5} {l : BitVec 4} {s : State} (h : Memory.wf s.mem = true) : NextWf (execBarrive x y z l s) := by
  refine nextWf_next ?_
  split
  · exact takeTrap_wf (arrive_wf h)
  · exact advance_wf (scalarResult_wf (arrive_wf h))

theorem execBwait_wf {x y z : BitVec 5} {s : State} (h : Memory.wf s.mem = true) : NextWf (execBwait x y z s) := by
  refine nextWf_next ?_
  split
  · exact takeTrap_wf h
  · next ht => exact ite_wf (advance_wf (setScalar_wf (readPhase_wf h ht))) (markWait_wf (readPhase_wf h ht))

theorem execBtry_wf {x y z : BitVec 5} {s : State} (h : Memory.wf s.mem = true) : NextWf (execBtry x y z s) := by
  refine nextWf_next ?_
  split
  · exact takeTrap_wf h
  · next ht => exact advance_wf (setScalar_wf (readPhase_wf h ht))

/-! ### Waits, and the events that end them -/

theorem execWaitptr_wf {x z : BitVec 5} {s : State} (h : Memory.wf s.mem = true) : NextWf (execWaitptr x z s) :=
  nextWf_next (ite_wf h (markWait_wf h))

theorem execWaitmem_wf {x y : BitVec 5} {g : BitVec 2} {s : State} (h : Memory.wf s.mem = true) : NextWf (execWaitmem x y g s) :=
  settle_wf h (okWf_bind fun _ _ => ite_okWf (okWf_ok h) okWf_error)

theorem openWaiting_wf {s : State} {team pod : Nat} {w : Wait} (h : Memory.wf s.mem = true) : SomeWf (openWaiting s team pod w) := by
  unfold openWaiting
  split
  · exact someWf_none
  · next hp =>
    split
    · exact ite_someWf (someWf_some (openPod_wf h _ hp)) someWf_none
    · exact someWf_none

theorem closed_wf {s : State} {team pod : Nat} {i : Instr} {r : Host.Outcome State Fault Refusal} (h : Memory.wf s.mem = true) (hr : NextWf r) :
    NextWf (closed s team pod i r) := by
  unfold closed
  split
  · have ht := hr _ rfl
    split
    · exact nextWf_next (leaveBunch_wf (countCore_wf (closeFocus_wf (mapPod_wf (retireWord_wf ht)))))
    · exact nextWf_next (leaveBunch_wf (closeFocus_wf ht))
    · exact nextWf_next (closeFocus_wf ht)
  · exact nextWf_next h

theorem pairReady_wf {t : State} {r : Host.Outcome State Fault Refusal} (h : Memory.wf t.mem = true) : Memory.wf (pairReady t r).mem = true := by
  unfold pairReady
  repeat' split
  all_goals exact closeFocus_wf h

theorem execBwaitCompletion_wf {team pod : Nat} {s : State} (h : Memory.wf s.mem = true) : NextWf (execBwaitCompletion team pod s) := by
  unfold execBwaitCompletion
  split
  · exact nextWf_next h
  · next ho =>
    have ht := openWaiting_wf h _ ho
    split
    · exact closed_wf ht (execBwait_wf ht)
    · exact nextWf_next h
    · split
      · exact nextWf_next (pairReady_wf ht)
      · exact nextWf_next h

theorem execWaitmemCompletion_wf {team pod : Nat} {s : State} (h : Memory.wf s.mem = true) : NextWf (execWaitmemCompletion team pod s) := by
  unfold execWaitmemCompletion
  split
  · exact nextWf_next h
  · next ho =>
    have ht := openWaiting_wf h _ ho
    split
    · exact closed_wf ht (execWaitmem_wf ht)
    · exact nextWf_next h
    · split
      · exact nextWf_next (pairReady_wf ht)
      · exact nextWf_next h

/-! ### The clocks -/

theorem countCycles_wf {s : State} {n : Nat} (h : Memory.wf s.mem = true) : Memory.wf (countCycles s n).mem = true :=
  foldl_wf (fun h => foldl_wf countUnit_wf h) h

theorem countFabricCycles_wf {s : State} {n : Nat} (h : Memory.wf s.mem = true) : Memory.wf (countFabricCycles s n).mem = true :=
  foldl_wf countFabric_wf h

theorem passClocks_wf {s : State} {n m : Nat} (h : Memory.wf s.mem = true) : Memory.wf (passClocks s n m).mem = true :=
  countFabricCycles_wf (countCycles_wf h)

theorem countTimed_wf {s : State} (h : Memory.wf s.mem = true) : Memory.wf (countTimed s).mem = true :=
  foldl_wf (fun h =>
    have tally {s : State} {owner kind ev : Nat} {units : List Nat} (h : Memory.wf s.mem = true) :
        Memory.wf (if anySel (s.ctxOf owner) kind ev then
          units.foldl (fun s u => countUnit s owner kind u ev (Config.timedEvents s.tick ((kind * 16 + ev) * 1024 + u)) 1) s else s).mem = true :=
      ite_wf (foldl_wf countUnit_wf h) h
    tally (tally (tally h))) h

theorem countCorrected_wf {s : State} (h : Memory.wf s.mem = true) : Memory.wf (countCorrected s).mem = true := by
  simpa only [countCorrected] using h

theorem passStep_wf {s : State} (h : Memory.wf s.mem = true) : Memory.wf (passStep s).mem = true := by
  unfold passStep
  dsimp only
  exact countCorrected_wf (countTimed_wf (passClocks_wf h))

theorem execCounterCarry_wf {owner kind unit n : Nat} {s : State} (h : Memory.wf s.mem = true) : NextWf (execCounterCarry owner kind unit n s) :=
  nextWf_next (ite_wf (passClocks_wf h) h)

/-! ### Atomics -/

theorem rmwLanes_wf {w : Nat} {op : Nat → Nat → Nat} {ps : List (Nat × Nat)} : ∀ {s : State}, Memory.wf s.mem = true →
    Memory.wf (rmwLanes s w op ps).1.mem = true := by
  induction ps with
  | nil => exact id
  | cons x r ih => exact fun h => ih (countSlice_wf (storeAt_wf h))

theorem atomicEffect_wf {s : State} {d a : BitVec 7} {w : Nat} {la : BitVec 4} {op : Nat → Nat → Nat} (h : Memory.wf s.mem = true) :
    OkWf (atomicEffect s d a w la op) :=
  okWf_bind fun _ _ => okWf_ok (advance_wf (laneResult_wf (rmwLanes_wf h)))

end Sys2Proof.Machine
end

section
/-! O5, part 4: conversions, descriptors, and the issue and start of matrix commands. -/

namespace Sys2Proof.Machine

/-! ### Floating point, conversions and tensor descriptors -/

theorem specialEffect_wf {s : State} {fn : Nat} {d a : BitVec 7} {la : BitVec 4} (h : Memory.wf s.mem = true) : Memory.wf (specialEffect s fn d a la).mem = true := h

theorem convertEffect_wf {s : State} {d a : BitVec 7} {fs fd : Nat} {signed : Bool} {pk : BitVec 1} {conv : Nat → Nat → Nat → Nat × W32}
    (h : Memory.wf s.mem = true) : Memory.wf (convertEffect s d a fs fd signed pk conv).mem = true := h

theorem execCvtFloatToFloat_wf {f t q : BitVec 3} {d a : BitVec 7} {k : BitVec 1} {s : State} (h : Memory.wf s.mem = true) :
    NextWf (execCvtFloatToFloat f d a t q k s) :=
  settle_wf h (ite_okWf (okWf_bind fun _ _ => okWf_ok (ite_wf (convertEffect_wf h) (performSrStep_wf (convertEffect_wf h)))) (okWf_ok (convertEffect_wf h)))

theorem execLsupd_wf {d : BitVec 5} {s : State} (h : Memory.wf s.mem = true) : NextWf (execLsupd d s) := by
  unfold execLsupd
  dsimp only
  refine nextWf_next (advance_wf (setScalar_wf ?_))
  split
  · exact postWarning_wf h
  · exact h

theorem execTdset_wf {x y : BitVec 5} {s : State} (h : Memory.wf s.mem = true) : NextWf (execTdset x y s) :=
  settle_wf h (okWf_bind fun _ _ => okWf_bind fun _ _ => okWf_bind fun _ _ => okWf_ok h)

theorem execTdget_wf {x y : BitVec 5} {s : State} (h : Memory.wf s.mem = true) : NextWf (execTdget x y s) :=
  settle_wf h (okWf_bind fun _ _ => okWf_bind fun _ _ => okWf_bind fun _ ht => okWf_ok (advance_wf (okWf_orTrap (engineWrite_wf h) _ ht)))

theorem execTdinv_wf {x : BitVec 5} {s : State} (h : Memory.wf s.mem = true) : NextWf (execTdinv x s) :=
  settle_wf h (okWf_bind fun _ _ => okWf_ok h)

/-! ### The issue and the start of matrix commands -/

theorem holdScalar_wf {s : State} {x : BitVec 5} {l : BitVec 4} (h : Memory.wf s.mem = true) : Memory.wf (holdScalar s x l).mem = true := h

theorem queueMatrix_wf {s : State} {m : MatCmd} {x : BitVec 5} {l : BitVec 4} (h : Memory.wf s.mem = true) : OkWf (queueMatrix s m x l) :=
  ite_okWf (okWf_ok (holdScalar_wf h)) okWf_error

theorem execMma_wf {f : BitVec 1} {x y z : BitVec 5} {l : BitVec 4} {g : BitVec 2} {s : State} (h : Memory.wf s.mem = true) : NextWf (execMma f x y z l g s) :=
  settle_wf h (okWf_bind fun _ _ => queueMatrix_wf h)

theorem execMmab_wf {f : BitVec 1} {x y z : BitVec 5} {l : BitVec 4} {g : BitVec 2} {s : State} (h : Memory.wf s.mem = true) : NextWf (execMmab f x y z l g s) :=
  settle_wf h (okWf_bind fun _ _ => queueMatrix_wf h)

theorem execMdrain_wf {f : BitVec 3} {x y z : BitVec 5} {l : BitVec 4} {g : BitVec 1} {s : State} (h : Memory.wf s.mem = true) :
    NextWf (execMdrain f x y z l g s) :=
  settle_wf h (okWf_bind fun _ _ => okWf_bind fun _ _ => queueMatrix_wf h)

theorem execTzero_wf {x y : BitVec 5} {l : BitVec 4} {s : State} (h : Memory.wf s.mem = true) : NextWf (execTzero x y l s) :=
  settle_wf h (okWf_bind fun _ _ => queueMatrix_wf h)

theorem execTscl_wf {f : BitVec 3} {x y z : BitVec 5} {l : BitVec 4} {s : State} (h : Memory.wf s.mem = true) : NextWf (execTscl f x y z l s) :=
  settle_wf h (okWf_bind fun _ _ => queueMatrix_wf h)

theorem releaseHeld_wf {s : State} {team pod cmd : Nat} (h : Memory.wf s.mem = true) : Memory.wf (releaseHeld s team pod cmd).mem = true := by
  unfold releaseHeld
  dsimp only
  split
  · exact ite_wf h h
  · exact h

theorem mapMat_wf {s : State} {id : Nat} {f : MatCmd → MatCmd} (h : Memory.wf s.mem = true) : Memory.wf (s.mapMat id f).mem = true := h

theorem stopMatrix_wf {s : State} {m : MatCmd} {t : Stop} (h : Memory.wf s.mem = true) : Memory.wf (stopMatrix s m t).mem = true :=
  ite_wf h (ite_wf (postRecord_wf (mapMat_wf h)) (terminateGrids_wf (postRecord_wf (mapMat_wf h))))

theorem stopPartners_wf {s : State} {m : MatCmd} (h : Memory.wf s.mem = true) : Memory.wf (stopPartners s m).mem = true := by
  unfold stopPartners
  split
  · exact h
  · exact foldl_wf stopMatrix_wf h

theorem trotFailed_wf {s : State} {m : MatCmd} (h : Memory.wf s.mem = true) : Memory.wf (trotFailed s m).mem = true :=
  show Memory.wf (stopPartners _ m).mem = true from stopPartners_wf (mapTeam_wf h)

theorem execTrot_wf {x y : BitVec 5} {l : BitVec 4} {s : State} (h : Memory.wf s.mem = true) : NextWf (execTrot x y l s) := by
  unfold execTrot
  dsimp only
  split
  · exact nextWf_next (trotFailed_wf (takeTrap_wf h))
  · exact ite_nextWf (nextWf_next (takeTrap_wf h)) (settle_wf h (okWf_bind fun _ ht => okWf_ok (queueMatrix_wf h _ ht :)))

theorem execMatrixCommandStart_wf {cmd : Nat} {s : State} (h : Memory.wf s.mem = true) : NextWf (execMatrixCommandStart cmd s) := by
  unfold execMatrixCommandStart
  split
  · exact nextWf_next h
  · exact nextWf_next (ite_wf (mapMat_wf h) h)

end Sys2Proof.Machine
end

section
/-! O5, part 5: the work of matrix commands, copy channels and transform engines. -/

namespace Sys2Proof.Machine

/-! ### The work of matrix commands -/

theorem teamFlags_wf {s : State} {team : Nat} {f : W32} (h : Memory.wf s.mem = true) : Memory.wf (teamFlags s team f).mem = true := h

theorem runProduct_wf {s : State} {t : Team} {m : MatCmd} {f : BitVec 1} {g : BitVec 2} (h : Memory.wf s.mem = true) :
    Memory.wf (runProduct s t m f g).mem = true :=
  countUnit_wf (mapGrid_wf (teamFlags_wf (foldl_wf storeAt_wf h)))

theorem matrixSrStep_wf {s : State} {m : MatCmd} (h : Memory.wf s.mem = true) : Memory.wf (matrixSrStep s m).mem = true := ite_wf (performSrStep_wf h) h

theorem runTileDrain_wf {s : State} {t : Team} {m : MatCmd} (h : Memory.wf s.mem = true) : Memory.wf (runTileDrain s t m).mem = true :=
  teamFlags_wf (storeAt_wf (storeAt_wf (matrixSrStep_wf h)))

theorem putChecked_wf {s : State} {owner va : Nat} {b : List Byte} (h : Memory.wf s.mem = true) : Memory.wf (putChecked s owner va b).mem = true := by
  unfold putChecked
  split
  · next ht => exact vput_wf h _ ht
  · exact h

theorem writeGlobalRow_wf {owner : Nat} {m : MatCmd} {s : State} {x : Nat × DrainRow} (h : Memory.wf s.mem = true) :
    Memory.wf (writeGlobalRow owner m s x).mem = true :=
  ite_wf h (ite_wf (putChecked_wf h) (putChecked_wf (putChecked_wf h)))

theorem countAdds_wf {s : State} {owner : Nat} {m : MatCmd} (h : Memory.wf s.mem = true) : Memory.wf (countAdds s owner m).mem = true :=
  foldl_wf countSlice_wf h

theorem runGlobalDrain_wf {s : State} {t : Team} {m : MatCmd} (h : Memory.wf s.mem = true) : OkWf (runGlobalDrain s t m) := by
  unfold runGlobalDrain
  split
  · exact okWf_error
  · have hr : Memory.wf (((List.range (shapeM m.shape)).map fun i => (i, drainRow s m m.fField (m.source t) i (m.inside i))).foldl
        (writeGlobalRow t.owner m) (matrixSrStep s m)).mem = true := foldl_wf writeGlobalRow_wf (matrixSrStep_wf h)
    exact okWf_ok (teamFlags_wf (ite_wf (countAdds_wf hr) hr))

theorem execTicketUpdateAccept_wf {cmd : Nat} {s : State} (h : Memory.wf s.mem = true) : NextWf (execTicketUpdateAccept cmd s) := by
  unfold execTicketUpdateAccept
  split
  · exact nextWf_next h
  · split
    · exact nextWf_next h
    · refine ite_nextWf (nextWf_next h) ?_
      dsimp only
      split
      · exact nextWf_next (stopMatrix_wf h)
      · exact nextWf_next (stopMatrix_wf h)
      · split
        · exact nextWf_next (stopMatrix_wf h)
        · split
          · next ht => exact nextWf_next (countCore_wf (mapMat_wf (acceptUpdate_wf h ht)))
          · exact nextWf_next (mapMat_wf h)
          · exact nextWf_next (stopMatrix_wf h)

theorem execTrotRotation_wf {cmd : Nat} {s : State} (h : Memory.wf s.mem = true) : NextWf (execTrotRotation cmd s) := by
  unfold execTrotRotation
  split
  · exact nextWf_next h
  · exact ite_nextWf (nextWf_next h) (ite_nextWf (nextWf_next (foldl_wf stopMatrix_wf h)) (ite_nextWf (nextWf_next h)
      (ite_nextWf (nextWf_next (foldl_wf stopMatrix_wf h)) (nextWf_next (foldl_wf mapMat_wf (foldl_wf storeAt_wf h))))))

theorem finishMatrix_wf {s : State} {m : MatCmd} (h : Memory.wf s.mem = true) : Memory.wf (finishMatrix s m).mem = true := releaseHeld_wf h

theorem runMatrix_wf {s : State} {t : Team} {m : MatCmd} {r : Except Stop State} (h : Memory.wf s.mem = true) (hr : runMatrix s t m = some r) : OkWf r := by
  unfold runMatrix at hr
  split at hr
  · split at hr <;> cases hr
    exact okWf_error
  · split at hr
    · cases hr; exact okWf_ok (runProduct_wf h)
    · cases hr; exact okWf_ok (runProduct_wf h)
    · cases hr; exact okWf_ok (storeAt_wf h)
    · cases hr; exact okWf_ok (runTileDrain_wf h)
    · split at hr <;> cases hr
      · exact runGlobalDrain_wf h
      · exact okWf_ok (runTileDrain_wf h)
    · cases hr

theorem execMatrixCommandCompletion_wf {cmd : Nat} {s : State} (h : Memory.wf s.mem = true) : NextWf (execMatrixCommandCompletion cmd s) := by
  unfold execMatrixCommandCompletion
  split
  · exact nextWf_next h
  · split
    · exact nextWf_next h
    · refine ite_nextWf (nextWf_next h) ?_
      split
      · exact nextWf_next (ite_wf h (finishMatrix_wf h))
      · refine ite_nextWf (nextWf_next (ite_wf (finishMatrix_wf h) h)) ?_
        split
        · exact nextWf_next h
        · exact nextWf_next (stopMatrix_wf h)
        · next hr => exact nextWf_next (finishMatrix_wf (runMatrix_wf h hr _ rfl))

/-! ### Copy channels -/

theorem queueCopy_wf {s : State} {c : CopyCmd} {x : BitVec 5} {l : BitVec 4} (h : Memory.wf s.mem = true) : OkWf (queueCopy s c x l) :=
  ite_okWf (okWf_ok (holdScalar_wf h)) okWf_error

theorem execTcpy_wf {x y z : BitVec 5} {l : BitVec 4} {s : State} (h : Memory.wf s.mem = true) : NextWf (execTcpy x y z l s) :=
  settle_wf h (okWf_bind fun _ _ => queueCopy_wf h)

theorem execTcpyw_wf {x y z : BitVec 5} {l : BitVec 4} {s : State} (h : Memory.wf s.mem = true) : NextWf (execTcpyw x y z l s) :=
  settle_wf h (okWf_bind fun _ _ => queueCopy_wf h)

theorem mapChan_wf {s : State} {team k : Nat} {f : Channel → Channel} (h : Memory.wf s.mem = true) : Memory.wf (s.mapChan team k f).mem = true := h

theorem execCopyCommandStart_wf {team ch : Nat} {s : State} (h : Memory.wf s.mem = true) : NextWf (execCopyCommandStart team ch s) := by
  unfold execCopyCommandStart
  split
  · exact nextWf_next h
  · dsimp only
    split
    · exact nextWf_next (ite_wf (mapChan_wf h) h)
    · exact nextWf_next h

theorem stopCopy_wf {s : State} {t : Team} {ch : Nat} {e : Stop} (h : Memory.wf s.mem = true) : Memory.wf (stopCopy s t ch e).mem = true :=
  ite_wf h (ite_wf (postRecord_wf (mapChan_wf h)) (terminateGrids_wf (postRecord_wf (mapChan_wf h))))

theorem copyGranule_wf {s : State} {t : Team} {c : CopyCmd} {i : Nat} (h : Memory.wf s.mem = true) : OkWf (copyGranule s t c i) := by
  unfold copyGranule
  dsimp only
  split
  · refine ite_okWf ?_ ?_
    · split
      · exact okWf_error
      · exact ite_okWf (okWf_ok h) (engineWrite_wf h)
    · split
      · exact okWf_error
      · exact okWf_ok (storeAt_wf h)
  · refine ite_okWf ?_ ?_
    · split
      · exact okWf_error
      · exact ite_okWf (okWf_ok (storeAt_wf h)) (engineWrite_wf h)
    · split
      · exact okWf_error
      · exact okWf_ok (storeAt_wf h)

theorem execCopyGranuleDelivery_wf {team ch : Nat} {s : State} (h : Memory.wf s.mem = true) : NextWf (execCopyGranuleDelivery team ch s) := by
  unfold execCopyGranuleDelivery
  split
  · exact nextWf_next h
  · dsimp only
    split
    · exact nextWf_next h
    · refine ite_nextWf (nextWf_next h) ?_
      split
      · exact nextWf_next (stopCopy_wf h)
      · next hc =>
        have hu := copyGranule_wf h _ hc
        exact ite_nextWf (nextWf_next (mapChan_wf (countCore_wf (mapGrid_wf hu))))
          (nextWf_next (releaseHeld_wf (mapChan_wf (countCore_wf (mapGrid_wf hu)))))

/-! ### Nodes and transform engines -/

theorem appendNode_wf {s : State} {k : Nat} {w : List W32} (h : Memory.wf s.mem = true) : Memory.wf (appendNode s k w).mem = true := by
  simpa [appendNode] using h

theorem failNode_wf {s : State} {owner : Nat} {node grid : W32} {t : Stop} (h : Memory.wf s.mem = true) : Memory.wf (failNode s owner node grid t).mem = true :=
  finishNode_wf (postRecord_wf h)

theorem setEngine_wf {s : State} {eng : Nat} {x : Option Xform} (h : Memory.wf s.mem = true) : Memory.wf (setEngine s eng x).mem = true := h

theorem stopXform_wf {s : State} {x : Xform} {words : List W32} {e : Stop} (h : Memory.wf s.mem = true) : Memory.wf (stopXform s x words e).mem = true :=
  ite_wf (postRecord_wf h) (endTransform_wf (postRecord_wf h))

end Sys2Proof.Machine
end

section
/-! O5, part 6: fabric processors' words, launches, and nodes. -/

namespace Sys2Proof.Machine

/-! ### Words of fabric processors -/

theorem fabricEffect_wf {s : State} {d : BitVec 4} {v : W64} (h : Memory.wf s.mem = true) : Memory.wf (fabricEffect s d v).mem = true := h

theorem fnext_wf {s : State} (h : Memory.wf s.mem = true) : Memory.wf s.fnext.mem = true := h

theorem zJump_wf {s : State} {o : BitVec 16} {f : State → State} (h : Memory.wf s.mem = true) (hf : Memory.wf (f s).mem = true) :
    Memory.wf (zJump s o f).mem = true :=
  ite_wf (takeTrap_wf h) hf

theorem execZbr_wf {c : BitVec 3} {a b : BitVec 4} {o : BitVec 16} {s : State} (h : Memory.wf s.mem = true) : NextWf (execZbr c a b o s) :=
  nextWf_next (ite_wf (zJump_wf h h) (fnext_wf h))

theorem execZloop_wf {a : BitVec 4} {o : BitVec 16} {s : State} (h : Memory.wf s.mem = true) : NextWf (execZloop a o s) :=
  nextWf_next (ite_wf (zJump_wf h h) h)

theorem putDiscarding_wf {s : State} {x : Site} {c : Context} {va : Nat} {b : List Byte} (h : Memory.wf s.mem = true) :
    Memory.wf (putDiscarding s x c va b).mem = true := by
  unfold putDiscarding
  dsimp only
  split
  · split
    · next ht => exact vput_wf h _ ht
    · exact h
  · refine postRecord_wf (foldl_wf (fun h => ite_wf h ?_) h)
    split
    · next ht => exact vput_wf h _ ht
    · exact h

theorem fabricWrite_wf {s : State} {va : Nat} {b : List Byte} (h : Memory.wf s.mem = true) : OkWf (fabricWrite s va b) := by
  unfold fabricWrite
  split
  · exact okWf_error
  · exact okWf_ok (putDiscarding_wf h)

theorem execZld_wf {d a : BitVec 4} {w : BitVec 1} {o : BitVec 18} {s : State} (h : Memory.wf s.mem = true) : NextWf (execZld d a w o s) :=
  settle_wf h (okWf_bind fun _ _ => okWf_bind fun _ _ => okWf_ok (fabricEffect_wf h))

theorem execZst_wf {d a : BitVec 4} {w : BitVec 1} {o : BitVec 18} {s : State} (h : Memory.wf s.mem = true) : NextWf (execZst d a w o s) :=
  settle_wf h (okWf_bind fun _ _ => okWf_bind fun _ ht => okWf_ok (fnext_wf (okWf_orTrap (fabricWrite_wf h) _ ht)))

theorem fabricWait_wf {s : State} {w : Wait} (h : Memory.wf s.mem = true) : Memory.wf (fabricWait s w).mem = true := markWait_wf (ite_wf h h)

theorem releaseThen_wf {s : State} {z : BitVec 4} {report : Bool} {f : State → State} (h : Memory.wf s.mem = true) (hf : Memory.wf (f s).mem = true) :
    Memory.wf (releaseThen s z report f).mem = true := by
  refine ite_wf (fabricWait_wf h) ?_
  split
  · exact takeTrap_wf h
  · exact hf

theorem execZwaitBar_wf {d a z : BitVec 4} {s : State} (h : Memory.wf s.mem = true) : NextWf (execZwaitBar d a z s) := by
  refine nextWf_next ?_
  split
  · exact takeTrap_wf h
  · next ht => exact ite_wf (fabricEffect_wf (readPhase_wf h ht)) (fabricWait_wf (readPhase_wf h ht))

theorem execZwaitFlag_wf {d a z : BitVec 4} {s : State} (h : Memory.wf s.mem = true) : NextWf (execZwaitFlag d a z s) := by
  refine nextWf_next (ite_wf (takeTrap_wf h) ?_)
  split
  · exact takeTrap_wf h
  · exact ite_wf (fabricEffect_wf h) (fabricWait_wf h)

theorem execZsig_wf {d a b w z : BitVec 4} {s : State} (h : Memory.wf s.mem = true) : NextWf (execZsig d a b w z s) := by
  refine nextWf_next (releaseThen_wf h ?_)
  dsimp only
  split
  · exact takeTrap_wf (arrive_wf h)
  · exact fabricEffect_wf (arrive_wf h)

theorem sendOut_wf {s : State} {f : Nat} {m : Outgoing} {n : Nat} (h : Memory.wf s.mem = true) : Memory.wf (sendOut s f m n).mem = true :=
  countFabric_wf h

theorem addTransfer_wf {s : State} {t : Transfer} (h : Memory.wf s.mem = true) : Memory.wf (s.addTransfer t).mem = true := h

theorem execZsigRemote_wf {a b w z : BitVec 4} {s : State} (h : Memory.wf s.mem = true) : NextWf (execZsigRemote a b w z s) := by
  refine nextWf_next (releaseThen_wf h ?_)
  dsimp only
  split
  · exact takeTrap_wf h
  · exact fabricWait_wf h
  · exact fnext_wf (ite_wf (addTransfer_wf h) (sendOut_wf (addTransfer_wf h)))

theorem execZhalt_wf {s : State} (h : Memory.wf s.mem = true) : NextWf (execZhalt s) :=
  nextWf_next (releaseThen_wf h (ite_wf (endCollective_wf (closeFocus_wf h)) (closeFocus_wf h)))

theorem refuseWindow_wf {s : State} {owner f : Nat} {off : W64} {kind : Nat} (h : Memory.wf s.mem = true) :
    Memory.wf (refuseWindow s owner f off kind).mem = true :=
  postRecord_wf h

theorem landWrite_wf {s : State} {owner f k : Nat} {off : W64} {b : List Byte} (h : Memory.wf s.mem = true) :
    Memory.wf (landWrite s owner f k off b).1.mem = true := by
  unfold landWrite
  dsimp only
  split
  · exact refuseWindow_wf h
  · exact putDiscarding_wf h

theorem landArrival_wf {s : State} {owner f k : Nat} {off : W64} (h : Memory.wf s.mem = true) : Memory.wf (landArrival s owner f k off).1.mem = true := by
  unfold landArrival
  split
  · exact refuseWindow_wf h
  · dsimp only
    split
    · exact arrive_wf h
    · exact h

/-! ### Launches and posts -/

theorem execGlaunch_wf {x y : BitVec 5} {l : BitVec 4} {s : State} (h : Memory.wf s.mem = true) : NextWf (execGlaunch x y l s) :=
  settle_wf h (okWf_bind fun _ _ => okWf_bind fun _ _ => okWf_bind fun _ _ => okWf_ok (advance_wf (scalarResult_wf h)))

theorem execGwait_wf {x : BitVec 5} {s : State} (h : Memory.wf s.mem = true) : NextWf (execGwait x s) :=
  settle_wf h (okWf_bind fun _ _ => ite_okWf (okWf_ok h) okWf_error)

theorem execGwaitTry_wf {x : BitVec 5} {s : State} (h : Memory.wf s.mem = true) : NextWf (execGwaitTry x s) :=
  settle_wf h (okWf_bind fun _ _ => okWf_ok h)

theorem execGnode_wf {x y : BitVec 5} {l : BitVec 4} {s : State} (h : Memory.wf s.mem = true) : NextWf (execGnode x y l s) := by
  refine settle_wf h (okWf_bind fun _ _ => okWf_bind fun _ _ => ?_)
  split
  · exact okWf_error
  · exact ite_okWf okWf_error (okWf_ok (advance_wf (scalarResult_wf (appendNode_wf h))))

theorem execTapepush_wf {x y : BitVec 5} {l : BitVec 4} {s : State} (h : Memory.wf s.mem = true) : NextWf (execTapepush x y l s) :=
  settle_wf h (okWf_bind fun _ _ => okWf_bind fun _ _ => okWf_bind fun _ ht =>
    okWf_ok (advance_wf (scalarResult_wf (mapStream_wf (okWf_orTrap (engineWrite_wf h) _ ht)))))

theorem execFqpost_wf {x y : BitVec 5} {l : BitVec 4} {s : State} (h : Memory.wf s.mem = true) : NextWf (execFqpost x y l s) := by
  refine settle_wf h ?_
  dsimp only
  split
  · exact okWf_error
  · exact okWf_bind fun _ _ => ite_okWf okWf_error (okWf_ok (advance_wf (scalarResult_wf h)))

/-! ### Appending and completing nodes, COPY, SIGNAL and the tape -/

theorem postFailure_wf {s : State} {k : Nat} {st : Stream} {t : Stop} (h : Memory.wf s.mem = true) : Memory.wf (postFailure s k st t).mem = true :=
  postRecord_wf h

theorem execNodeAppend_wf {stream : Nat} {s : State} (h : Memory.wf s.mem = true) : NextWf (execNodeAppend stream s) := by
  refine nextWf_next (ite_wf h ?_)
  split
  · exact mapStream_wf (postFailure_wf h)
  · dsimp only
    split
    · exact mapStream_wf (postFailure_wf h)
    · exact ite_wf (mapStream_wf (appendNode_wf h)) h

theorem cancelDependants_wf {s : State} {n : W32} (h : Memory.wf s.mem = true) : Memory.wf (cancelDependants s n).mem = true := h

theorem execNodeCompletion_wf {handle : W32} {s : State} (h : Memory.wf s.mem = true) : NextWf (execNodeCompletion handle s) := by
  refine nextWf_next ?_
  split
  · exact h
  · split
    · refine ite_wf h ?_
      split
      · exact ite_wf h (mapStream_wf (postRecord_wf h))
      · next ht =>
        have hu := engineWrite_wf h _ ht
        exact ite_wf (ite_wf (cancelDependants_wf (mapStream_wf hu)) (mapStream_wf hu)) (ite_wf (cancelDependants_wf (mapStream_wf hu)) (mapStream_wf hu))
    · exact h

theorem execNodeBarrierWaitMet_wf {handle : W32} {s : State} (h : Memory.wf s.mem = true) : NextWf (execNodeBarrierWaitMet handle s) := by
  refine nextWf_next ?_
  split
  · exact h
  · dsimp only
    split
    · refine ite_wf h ?_
      split
      · exact ite_wf (failNode_wf h) h
      · next ht => exact ite_wf (mapNode_wf (readPhase_wf h ht)) (readPhase_wf h ht)
    · exact h

theorem runNode_wf {s : State} {n : W32} (h : Memory.wf s.mem = true) : Memory.wf (runNode s n).mem = true := mapNode_wf h

theorem execCopyNode_wf {handle : W32} {s : State} (h : Memory.wf s.mem = true) : NextWf (execCopyNode handle s) := by
  refine nextWf_next ?_
  split
  · exact h
  · refine ite_wf h ?_
    dsimp only
    split
    · exact failNode_wf (runNode_wf h)
    · split
      · exact failNode_wf (runNode_wf h)
      · next ht =>
        have hu := engineWrite_wf (runNode_wf h) _ ht
        exact ite_wf (mapNode_wf hu) (finishNode_wf hu)

theorem execSignalNode_wf {handle : W32} {s : State} (h : Memory.wf s.mem = true) : NextWf (execSignalNode handle s) := by
  refine nextWf_next ?_
  split
  · exact h
  · refine ite_wf h ?_
    split
    · split
      · exact failNode_wf h
      · next ht => exact finishNode_wf (engineWrite_wf h _ ht)
    · dsimp only
      split
      · exact failNode_wf (arrive_wf h)
      · exact finishNode_wf (arrive_wf h)
    · exact finishNode_wf h

theorem tapeTurn_wf {s : State} {handle : W32} (h : Memory.wf s.mem = true) : Memory.wf (tapeTurn s handle).mem = true := by
  unfold tapeTurn
  split
  · exact h
  · refine ite_wf ?_ (finishNode_wf h)
    split
    · exact failNode_wf h
    · dsimp only
      split
      · exact failNode_wf (mapStream_wf h)
      · refine mapNode_wf ?_
        dsimp only
        exact mapStream_wf h

theorem execTapeNodeStart_wf {handle : W32} {s : State} (h : Memory.wf s.mem = true) : NextWf (execTapeNodeStart handle s) := by
  refine nextWf_next ?_
  split
  · exact h
  · exact ite_wf (tapeTurn_wf (runNode_wf h)) h

theorem execTapePop_wf {handle : W32} {s : State} (h : Memory.wf s.mem = true) : NextWf (execTapePop handle s) := by
  refine nextWf_next ?_
  split
  · exact h
  · split
    · exact h
    · refine ite_wf h ?_
      split
      · exact h
      · split
        · exact ite_wf (finishNode_wf h) (ite_wf (finishNode_wf h) (tapeTurn_wf h))
        · exact h

end Sys2Proof.Machine
end

section
/-! O5, part 7: teams, grids and starts of collectives. -/

namespace Sys2Proof.Machine

/-! ### Teams and grids -/

theorem startOne_wf {s t : State} {g g' : Grid} {core : Nat} (h : Memory.wf s.mem = true) (ht : startOne s g core = some (t, g')) :
    Memory.wf t.mem = true := by
  unfold startOne at ht
  split at ht
  · cases ht
  · cases ht; exact h

theorem startFour_wf {k : Nat} : ∀ {s t : State} {g g' : Grid} {core : Nat}, Memory.wf s.mem = true → startFour s g core k = some (t, g') →
    Memory.wf t.mem = true := by
  induction k with
  | zero => intro s t g g' core h ht; cases ht; exact h
  | succ n ih =>
    intro s t g g' core h ht
    unfold startFour at ht
    split at ht
    · cases ht
    · next h1 => exact ih (startOne_wf h h1) ht

theorem startNext_wf {s t : State} {g g' : Grid} {core : Nat} (h : Memory.wf s.mem = true) (ht : startNext s g core = some (t, g')) :
    Memory.wf t.mem = true := by
  unfold startNext at ht
  split at ht
  · exact startFour_wf h ht
  · exact startOne_wf h ht

theorem failStart_wf {s : State} {g : Grid} {b : Bool} {t : Stop} (h : Memory.wf s.mem = true) : Memory.wf (failStart s g b t).mem = true :=
  ite_wf (failNode_wf h) (terminateGrids_wf (postRecord_wf h))

theorem startTeam_wf {s : State} {g : Grid} {b : Bool} {core : Nat} (h : Memory.wf s.mem = true) : Memory.wf (startTeam s g b core).mem = true := by
  refine ite_wf h ?_
  split
  · exact failStart_wf h
  · refine ite_wf h ?_
    split
    · exact h
    · next ht =>
      have hu := startNext_wf h ht
      exact ite_wf (mapNode_wf hu) (mapGrid_wf hu)

theorem execTeamStart_wf {handle : W32} {core : Nat} {s : State} (h : Memory.wf s.mem = true) : NextWf (execTeamStart handle core s) := by
  refine nextWf_next ?_
  split
  · exact h
  · exact startTeam_wf h

theorem failWriters_wf {s : State} {team : Nat} (h : Memory.wf s.mem = true) : Memory.wf (failWriters s team).mem = true := by
  refine foldl_wf (fun h => ?_) h
  split
  · exact stopXform_wf h
  · exact h

theorem execTeamEnd_wf {team : Nat} {s : State} (h : Memory.wf s.mem = true) : NextWf (execTeamEnd team s) := by
  refine nextWf_next ?_
  split
  · exact h
  · exact ite_wf h (leaveWindows_wf (ite_wf (countCore_wf (failWriters_wf h)) (failWriters_wf h)))

theorem execGridRetirement_wf {handle : W32} {s : State} (h : Memory.wf s.mem = true) : NextWf (execGridRetirement handle s) := by
  refine nextWf_next ?_
  split
  · exact h
  · refine ite_wf h (ite_wf (ite_wf h h) ?_)
    split
    · exact h
    · exact ite_wf (ite_wf h h) (finishNode_wf h)

/-! ### Starts of collectives -/

theorem placeCollective_wf {s : State} {c : Collective} {x : FabricWork} {args : List W32} {fs : List Nat} (h : Memory.wf s.mem = true) :
    Memory.wf (placeCollective s c x args fs).mem = true := by
  unfold placeCollective
  dsimp only
  split
  · exact h
  · exact runNode_wf h

theorem failWork_wf {s : State} {owner : Nat} {x : FabricWork} {t : Stop} (h : Memory.wf s.mem = true) : Memory.wf (failWork s owner x t).mem = true := by
  unfold failWork
  split
  · exact completeRequest_wf (postRecord_wf h)
  · exact failNode_wf h

theorem execCollectiveStart_wf {part : Nat} {s : State} (h : Memory.wf s.mem = true) : NextWf (execCollectiveStart part s) := by
  refine nextWf_next ?_
  split
  · exact h
  · refine ite_wf h ?_
    split
    · exact h
    · refine ite_wf h ?_
      split
      · exact failWork_wf h
      · exact placeCollective_wf h

end Sys2Proof.Machine
end

section
/-! O5, part 8: transfers of fabric processors and what arrives. -/

namespace Sys2Proof.Machine

/-! ### The transfers of fabric processors -/

theorem postTransfer_wf {s : State} {t : Transfer} (h : Memory.wf s.mem = true) : OkWf (postTransfer s t) :=
  okWf_bind fun _ _ => okWf_ok h

theorem execZsend_wf {d a w : BitVec 4} {s : State} (h : Memory.wf s.mem = true) : NextWf (execZsend d a w s) :=
  settle_wf h (okWf_bind fun _ _ => okWf_bind fun _ _ => postTransfer_wf h)

theorem execZags_wf {d a b w : BitVec 4} {s : State} (h : Memory.wf s.mem = true) : NextWf (execZags d a b w s) :=
  settle_wf h (okWf_bind fun _ _ => okWf_bind fun _ _ => postTransfer_wf h)

theorem execZckpt_wf {d a : BitVec 4} {s : State} (h : Memory.wf s.mem = true) : NextWf (execZckpt d a s) :=
  settle_wf h (okWf_bind fun _ _ => okWf_bind fun _ _ => postTransfer_wf h)

theorem awaitTransfer_wf {s : State} {t : Transfer} (h : Memory.wf s.mem = true) : Memory.wf (awaitTransfer s t).mem = true :=
  ite_wf (addTransfer_wf h) (sendOut_wf (addTransfer_wf h))

theorem execZfetch_wf {d a : BitVec 4} {t : BitVec 1} {s : State} (h : Memory.wf s.mem = true) : NextWf (execZfetch d a t s) :=
  settle_wf h (okWf_bind fun _ _ => okWf_bind fun _ _ =>
    ite_okWf (okWf_bind fun _ _ => okWf_ok (awaitTransfer_wf h)) (okWf_bind fun _ _ => okWf_ok (awaitTransfer_wf h)))

theorem execZclone_wf {d a : BitVec 4} {r : BitVec 1} {w : BitVec 4} {s : State} (h : Memory.wf s.mem = true) : NextWf (execZclone d a r w s) :=
  settle_wf h (okWf_bind fun _ _ => okWf_bind fun _ _ => okWf_bind fun _ _ =>
    ite_okWf (okWf_bind fun _ _ => okWf_ok (awaitTransfer_wf h)) (okWf_ok (awaitTransfer_wf h)))

theorem mapHolder_wf {s : State} {x : Nat} {g : Fabric → Fabric} (h : Memory.wf s.mem = true) : Memory.wf (mapHolder s x g).mem = true := h

theorem dropTransfer_wf {s : State} {x : Nat} (h : Memory.wf s.mem = true) : Memory.wf (dropTransfer s x).mem = true := h

theorem mapTransfer_wf {s : State} {x : Nat} {g : Transfer → Transfer} (h : Memory.wf s.mem = true) : Memory.wf (mapTransfer s x g).mem = true := h

theorem passWaited_wf {s : State} {t : Transfer} (h : Memory.wf s.mem = true) : Memory.wf (passWaited s t).mem = true := h

theorem faultWaiting_wf {s : State} {f x : Nat} {n : BitVec 51} {e : Stop} (h : Memory.wf s.mem = true) : Memory.wf (faultWaiting s f x n e).mem = true := by
  unfold faultWaiting
  split
  · exact h
  · split
    · exact dropTransfer_wf (passWaited_wf (postRecord_wf h))
    · exact ite_wf (postRecord_wf h) (endCollective_wf (dropTransfer_wf (mapHolder_wf (postRecord_wf h))))

theorem freeHolder_wf {s : State} {t : Transfer} {g : Fabric → Fabric} (h : Memory.wf s.mem = true) : Memory.wf (freeHolder s t g).mem = true := h

theorem localCompletion_wf {s : State} {f : Nat} {t : Transfer} (h : Memory.wf s.mem = true) : Memory.wf (localCompletion s f t).mem = true := by
  unfold localCompletion
  split
  · exact faultWaiting_wf h
  · exact ite_wf (mapTransfer_wf (freeHolder_wf h)) (sendOut_wf (mapTransfer_wf (freeHolder_wf h)))

theorem execPostedTransferLocalCompletion_wf {f x : Nat} {s : State} (h : Memory.wf s.mem = true) : NextWf (execPostedTransferLocalCompletion f x s) := by
  refine nextWf_next ?_
  split
  · exact h
  · exact ite_wf h (localCompletion_wf h)

theorem noteRefusal_wf {s : State} {t : Transfer} {code : Nat} (h : Memory.wf s.mem = true) : Memory.wf (noteRefusal s t code).mem = true := h

theorem answerOf_wf {s : State} {f : Nat} {t : Transfer} {refusal : Nat} (h : Memory.wf s.mem = true) : Memory.wf (answerOf s f t refusal).1.mem = true := by
  unfold answerOf
  split
  · exact h
  · split
    · exact landArrival_wf h
    · exact landWrite_wf h

theorem sendFlag_wf {s : State} {f : Nat} {t : Transfer} (h : Memory.wf s.mem = true) : Memory.wf (sendFlag s f t).mem = true := by
  unfold sendFlag
  split
  · exact h
  · exact ite_wf (mapTransfer_wf h) (sendOut_wf (mapTransfer_wf h))

theorem sendFlags_wf {s : State} {f : Nat} (h : Memory.wf s.mem = true) : Memory.wf (sendFlags s f).mem = true :=
  foldl_wf (fun h => foldl_wf sendFlag_wf h) h

theorem execTransferAcknowledgement_wf {f x refusal : Nat} {s : State} (h : Memory.wf s.mem = true) : NextWf (execTransferAcknowledgement f x refusal s) := by
  refine nextWf_next ?_
  split
  · exact h
  · exact ite_wf h (ite_wf (ite_wf h (noteRefusal_wf (passWaited_wf h)))
      (sendFlags_wf (ite_wf (noteRefusal_wf (answerOf_wf h)) (ite_wf (mapTransfer_wf (answerOf_wf h)) (dropTransfer_wf (answerOf_wf h))))))

theorem resetResidual_wf {s : State} {x : Site} {c : Context} {b : Residual} (h : Memory.wf s.mem = true) : Memory.wf (resetResidual s x c b).mem = true :=
  putDiscarding_wf (putDiscarding_wf h)

theorem landWaited_wf {s : State} {f : Nat} {p : Fabric} {t : Transfer} {b : List Byte} (h : Memory.wf s.mem = true) : OkWf (landWaited s f p t b) :=
  okWf_bind fun _ _ => ite_okWf (okWf_bind fun _ _ => okWf_ok (resetResidual_wf (putDiscarding_wf h))) (okWf_ok (putDiscarding_wf h))

theorem endWaited_wf {s : State} {t : Transfer} (h : Memory.wf s.mem = true) : Memory.wf (endWaited s t).mem = true := h

theorem execWaitedTransferCompletion_wf {f x : Nat} {b : List Byte} {s : State} (h : Memory.wf s.mem = true) :
    NextWf (execWaitedTransferCompletion f x b s) := by
  refine nextWf_next ?_
  split
  · exact h
  · split
    · refine ite_wf h (ite_wf (ite_wf (endWaited_wf h) h) ?_)
      split
      · exact faultWaiting_wf h
      · exact ite_wf (noteRefusal_wf (passWaited_wf (refuseWindow_wf h))) h
      · split
        · exact faultWaiting_wf h
        · next hu => exact endWaited_wf (ite_wf (landWaited_wf h _ hu) (countFabric_wf (landWaited_wf h _ hu)))
    · exact h

/-! ### Arrivals from the fabric, and waiting processors -/

theorem execRmaWriteArrival_wf {job : BitVec 32} {sender : Sender} {win : Nat} {off : BitVec 64} {b : List Byte} {s : State} (h : Memory.wf s.mem = true) :
    NextWf (execRmaWriteArrival job sender win off b s) := by
  refine nextWf_next ?_
  split
  · exact h
  · refine countFabric_wf ?_
    split
    · exact landWrite_wf h
    · exact refuseWindow_wf h

theorem execRmaReadArrival_wf {job : BitVec 32} {sender : Sender} {win : Nat} {off : BitVec 64} {len : Nat} {s : State} (h : Memory.wf s.mem = true) :
    NextWf (execRmaReadArrival job sender win off len s) := by
  refine nextWf_next ?_
  split
  · exact h
  · dsimp only
    split
    · exact refuseWindow_wf h
    · split
      · exact postRecord_wf h
      · exact countFabric_wf h

theorem execRemoteArrival_wf {job : BitVec 32} {sender : Sender} {win : Nat} {off : BitVec 64} {scope : Nat} {s : State} (h : Memory.wf s.mem = true) :
    NextWf (execRemoteArrival job sender win off scope s) := by
  refine nextWf_next ?_
  split
  · exact h
  · dsimp only
    split
    · exact landArrival_wf h
    · exact refuseWindow_wf h

theorem leftTimeout_wf {s : State} {f : Nat} (h : Memory.wf s.mem = true) : Memory.wf (leftTimeout s f).mem = true := by
  unfold leftTimeout
  split
  · exact h
  · exact ite_wf (faultWaiting_wf h) h

theorem execCollectiveTimeout_wf {f : Nat} {s : State} (h : Memory.wf s.mem = true) : NextWf (execCollectiveTimeout f s) := by
  refine nextWf_next ?_
  split
  · exact leftTimeout_wf h
  · next ho => exact ite_wf (takeFabricTrap_wf (openFabric_wf h _ ho :)) h

theorem closedFabric_wf {s : State} {r : Host.Outcome State Fault Refusal} (h : Memory.wf s.mem = true) (hr : NextWf r) : NextWf (closedFabric s r) := by
  unfold closedFabric
  split
  · exact nextWf_next (closeFocus_wf (hr _ rfl))
  · exact nextWf_next h

theorem execZwaitCompletion_wf {f : Nat} {s : State} (h : Memory.wf s.mem = true) : NextWf (execZwaitCompletion f s) := by
  unfold execZwaitCompletion
  split
  · exact nextWf_next h
  · next ho =>
    have ht := openFabric_wf h _ ho
    split
    · refine ite_nextWf (nextWf_next h) ?_
      split
      · exact closedFabric_wf h (execZwaitBar_wf ht)
      · exact closedFabric_wf h (execZwaitFlag_wf ht)
      · exact nextWf_next h
    · exact nextWf_next h

end Sys2Proof.Machine
end

section
/-! O5, part 9: transform engines, commands of a function, and the events of pods. -/

namespace Sys2Proof.Machine

/-! ### Transform engines -/

theorem xfPut_wf {s : State} {x : Xform} {w : List W32} {b : List Byte} (h : Memory.wf s.mem = true) : OkWf (xfPut s x w b) := by
  unfold xfPut
  dsimp only
  split
  · split
    · exact okWf_ok (storeAt_wf h)
    · exact okWf_error
  · exact okWf_ok (storeAt_wf h)
  · exact engineWrite_wf h

theorem xfPoint_wf {s : State} {x : Xform} (h : Memory.wf s.mem = true) : Memory.wf (xfPoint s x).mem = true := by
  unfold xfPoint; split <;> exact h

theorem continueXform_wf {s : State} {x : Xform} {w : List W32} (h : Memory.wf s.mem = true) : Memory.wf (continueXform s x w).mem = true :=
  ite_wf (endTransform_wf h) (setEngine_wf h)

theorem actXform_wf {s : State} {x : Xform} {w : List W32} {a : XfAction} (h : Memory.wf s.mem = true) : Memory.wf (actXform s x w a).mem = true := by
  unfold actXform
  split
  · exact endTransform_wf h
  · exact setEngine_wf h
  · exact stopXform_wf h
  · exact stopXform_wf h
  · exact continueXform_wf h
  · refine ite_wf (stopXform_wf h) ?_
    split
    · exact stopXform_wf h
    · next ht => exact continueXform_wf (xfPoint_wf (xfPut_wf h _ ht))

theorem execTransformGranuleWrite_wf {eng : Nat} {s : State} (h : Memory.wf s.mem = true) : NextWf (execTransformGranuleWrite eng s) := by
  refine nextWf_next ?_
  split
  · exact h
  · refine ite_wf (stopXform_wf h) ?_
    split
    · exact stopXform_wf h
    · exact actXform_wf h

theorem startXform_wf {s : State} {owner : Nat} {n : Node} (h : Memory.wf s.mem = true) : Memory.wf (startXform s owner n).mem = true := by
  unfold startXform
  dsimp only
  split
  · exact failNode_wf h
  · exact failNode_wf h
  · exact h
  · exact ite_wf (failNode_wf h) (ite_wf h (ite_wf (failNode_wf h) (setEngine_wf (runNode_wf h))))

theorem execTransformNodeStart_wf {handle : W32} {s : State} (h : Memory.wf s.mem = true) : NextWf (execTransformNodeStart handle s) := by
  refine nextWf_next ?_
  split
  · exact h
  · refine ite_wf h ?_
    split
    · exact ite_wf h h
    · exact ite_wf (startXform_wf h) h

theorem giveInput_wf {s : State} {node : W32} {b : List Byte} (h : Memory.wf s.mem = true) : Memory.wf (giveInput s node b).mem = true := h

theorem execTransformInputArrival_wf {f x : Nat} {b : List Byte} {s : State} (h : Memory.wf s.mem = true) : NextWf (execTransformInputArrival f x b s) := by
  refine nextWf_next ?_
  split
  · exact h
  · split
    · dsimp only
      split
      · exact faultWaiting_wf h
      · split
        · exact h
        · exact ite_wf h (ite_wf (faultWaiting_wf (countFabric_wf (giveInput_wf h))) (mapTransfer_wf (countFabric_wf (giveInput_wf h))))
    · exact h

theorem execTransformInputTimeout_wf {eng : Nat} {s : State} (h : Memory.wf s.mem = true) : NextWf (execTransformInputTimeout eng s) := by
  refine nextWf_next ?_
  split
  · exact h
  · exact ite_wf (stopXform_wf h) h

/-! ### Commands of a function -/

theorem runCommand_wf {s : State} {fn : Nat} {r : Option State} (h : Memory.wf s.mem = true) (hr : SomeWf r) : Memory.wf (runCommand s fn r).mem = true := by
  refine ite_wf h ?_
  cases r with
  | none => exact h
  | some t =>
    have ht : Memory.wf t.mem = true := hr t rfl
    exact ht

theorem invalidate_wf {s : State} {fn : Nat} {va : W64} {pages : W32} (h : Memory.wf s.mem = true) : Memory.wf (invalidate s fn va pages).mem = true := h

theorem execInval_wf {fn : Nat} {va : BitVec 64} {pages : BitVec 32} {s : State} (h : Memory.wf s.mem = true) : NextWf (execInval fn va pages s) :=
  nextWf_next (runCommand_wf h (someWf_some (invalidate_wf h)))

theorem resumeAgent_wf {s : State} {owner : Nat} {r : Record} (h : Memory.wf s.mem = true) : Memory.wf (resumeAgent s owner r).mem = true := by
  unfold resumeAgent
  split
  case h_5 => split <;> exact h
  all_goals exact h

theorem markAnswered_wf {s : State} {owner seq : Nat} (h : Memory.wf s.mem = true) : Memory.wf (markAnswered s owner seq).mem = true := h

theorem resumeRecord_wf {s : State} {fn seq : Nat} (h : Memory.wf s.mem = true) : SomeWf (resumeRecord s fn seq) := by
  unfold resumeRecord
  split
  · exact someWf_none
  · exact ite_someWf someWf_none (someWf_some (ite_wf (resumeAgent_wf (markAnswered_wf h)) (mapCtx_wf (markAnswered_wf h))))

theorem execResume_wf {fn : Nat} {seq : BitVec 32} {s : State} (h : Memory.wf s.mem = true) : NextWf (execResume fn seq s) :=
  nextWf_next (runCommand_wf h (resumeRecord_wf h))

theorem endNode_wf {s : State} {n : Node} {code : Nat} (h : Memory.wf s.mem = true) : Memory.wf (endNode s n code).mem = true := by
  unfold endNode
  split
  · exact endCollective_wf h
  · exact endTransform_wf h

theorem terminateRecord_wf {s : State} {fn seq : Nat} (h : Memory.wf s.mem = true) : SomeWf (terminateRecord s fn seq) := by
  unfold terminateRecord
  split
  · exact someWf_none
  · refine ite_someWf ?_ ?_
    · split
      · exact someWf_none
      · exact ite_someWf someWf_none (someWf_some (terminateGrids_wf h))
    · split
      · exact someWf_none
      · exact someWf_some (endNode_wf h)

theorem execTerminate_wf {fn : Nat} {seq : BitVec 32} {s : State} (h : Memory.wf s.mem = true) : NextWf (execTerminate fn seq s) :=
  nextWf_next (runCommand_wf h (terminateRecord_wf h))

theorem terminateHandle_wf {s : State} {fn : Nat} {n : W32} (h : Memory.wf s.mem = true) : SomeWf (terminateHandle s fn n) := by
  unfold terminateHandle
  split
  · exact someWf_none
  · exact ite_someWf someWf_none (someWf_some (terminateGrids_wf h))

theorem execTermgrid_wf {fn : Nat} {n : BitVec 32} {s : State} (h : Memory.wf s.mem = true) : NextWf (execTermgrid fn n s) :=
  nextWf_next (runCommand_wf h (terminateHandle_wf h))

theorem commandOf_wf {s : State} {fn : Nat} (h : Memory.wf s.mem = true) : SomeWf (commandOf s fn) := by
  unfold commandOf
  dsimp only
  split
  · exact someWf_some (invalidate_wf h)
  · exact resumeRecord_wf h
  · exact terminateRecord_wf h
  · exact terminateHandle_wf h
  · exact someWf_none

/-! ### What happens to a pod besides its own issue -/

theorem execLoadDataReturn_wf {team pod tag : Nat} {s : State} (h : Memory.wf s.mem = true) : NextWf (execLoadDataReturn team pod tag s) := by
  refine nextWf_next ?_
  split
  · exact h
  · exact mapTeamPod_wf h

theorem execSleepEnd_wf {team pod : Nat} {s : State} (h : Memory.wf s.mem = true) : NextWf (execSleepEnd team pod s) := by
  refine nextWf_next ?_
  split
  · exact h
  · split
    · exact ite_wf (leaveBunch_wf (mapTeamPod_wf h)) h
    · exact h

theorem execRejoinHoldEnd_wf {team pod : Nat} {s : State} (h : Memory.wf s.mem = true) : NextWf (execRejoinHoldEnd team pod s) := by
  refine nextWf_next ?_
  split
  · exact h
  · exact ite_wf (mapTeam_wf h) h

theorem watchdogAll_wf {team : Nat} {ps : List (Pod × Nat)} : ∀ {s : State}, Memory.wf s.mem = true → Memory.wf (watchdogAll team ps s).mem = true := by
  induction ps with
  | nil => exact id
  | cons x r ih =>
    intro s h
    unfold watchdogAll
    split
    · exact ih h
    · next ho =>
      have hu := openPod_wf h _ ho
      exact ih (ite_wf (leaveBunch_wf (takePodTrap_wf (mapPod_wf hu))) (postRecord_wf h))

theorem execBunchConvergence_wf {team hb : Nat} {s : State} (h : Memory.wf s.mem = true) : NextWf (execBunchConvergence team hb s) := by
  unfold execBunchConvergence
  split
  · exact nextWf_next h
  · dsimp only
    split
    · exact ite_nextWf (nextWf_next h) (ite_nextWf (nextWf_next (mapTeam_wf h)) (nextWf_next (watchdogAll_wf h)))
    · exact nextWf_next h

theorem execWatchdog_wf {team pod : Nat} {s : State} (h : Memory.wf s.mem = true) : NextWf (execWatchdog team pod s) := by
  refine nextWf_next ?_
  split
  · exact h
  · split
    · exact ite_wf (watchdogAll_wf h) h
    · exact h

theorem execTicketGap_wf {owner region granule : Nat} {s : State} (h : Memory.wf s.mem = true) : NextWf (execTicketGap owner region granule s) := by
  refine nextWf_next ?_
  split
  · exact ite_wf (postRecord_wf (mapCtx_wf h)) h
  · exact h

end Sys2Proof.Machine
end

section
/-! O5, part 10: images and world switches. -/

namespace Sys2Proof.Machine

/-! ### The context image -/

theorem someWf_bind {α : Type} {x : Option α} {f : α → Option State} (hf : ∀ a, x = some a → SomeWf (f a)) : SomeWf (x >>= f) := by
  cases x with
  | none => exact someWf_none
  | some a => exact hf a rfl

/-- A loop over states that may fail keeps the canonical form when its body does. -/
theorem foldlM_wf {α : Type} {f : State → α → Option State} (hf : ∀ {s : State} {a : α}, Memory.wf s.mem = true → SomeWf (f s a)) {l : List α} :
    ∀ {s : State}, Memory.wf s.mem = true → SomeWf (l.foldlM f s) := by
  induction l with
  | nil => exact fun h => someWf_some h
  | cons a r ih => exact fun h => someWf_bind fun t ht => ih (hf h t ht)

theorem imagePut_wf {s : State} {c : Context} {o : Nat} {b : List Byte} (h : Memory.wf s.mem = true) : Memory.wf (imagePut s c o b).mem = true :=
  have hs : Memory.wf (if min b.length (c.imageSize - o) == 0 then s
      else storeAt s c.key (imagePlace c o) (b.take (min b.length (c.imageSize - o)))).mem = true := ite_wf h (storeAt_wf h)
  ite_wf h (ite_wf hs (storeAt_wf hs))

theorem movePoison_wf {s : State} {src n : Nat} {dst : Nat → Nat} (h : Memory.wf s.mem = true) : Memory.wf (movePoison s src n dst).mem = true := h

/-- Poison that travels leaves the memory as it is. -/
theorem movePoisons_wf {α : Type} {s : State} {b : Prop} {_ : Decidable b} {l : List α} {src n : α → Nat} {dst : α → Nat → Nat}
    (h : Memory.wf s.mem = true) : Memory.wf (if b then l.foldl (fun t x => movePoison t (src x) (n x) (dst x)) s else s).mem = true :=
  ite_wf (foldl_wf movePoison_wf h) h

/-- Sections of an image written one after another keep the canonical form. -/
theorem imagePuts_wf {α : Type} {s : State} {c : Context} {l : List α} {o : α → Nat} {b : α → List Byte} (h : Memory.wf s.mem = true) :
    Memory.wf (l.foldl (fun t x => imagePut t c (o x) (b x)) s).mem = true := foldl_wf imagePut_wf h

theorem writeImage_wf {s : State} {owner : Nat} (h : Memory.wf s.mem = true) : Memory.wf (writeImage s owner).mem = true := by
  unfold writeImage
  extract_lets c m
  split
  · exact mapCtx_wf (postRecord_wf h)
  · exact mapCtx_wf (movePoisons_wf (movePoisons_wf (imagePut_wf (imagePut_wf (imagePut_wf (imagePuts_wf (imagePuts_wf (imagePut_wf (imagePut_wf h)))))))))

theorem restorePods_wf {c : Context} {file : Nat} {l : List (Nat × Nat × Nat)} :
    ∀ {o : Nat} {s : State}, Memory.wf s.mem = true → SomeWf (restorePods c file o l s) := by
  induction l with
  | nil => exact fun h => someWf_some h
  | cons x r ih =>
    intro o s h
    unfold restorePods
    split
    · exact ih h
    · exact someWf_bind fun q _ => ih (mapTeamPod_wf h)

theorem restoreMats_wf {c : Context} {teams l : List Nat} : ∀ {o : Nat} {s : State}, Memory.wf s.mem = true → SomeWf (restoreMats s c teams o l) := by
  induction l with
  | nil => exact fun h => someWf_some h
  | cons x r ih =>
    intro o s h
    unfold restoreMats
    split
    · exact ih h
    · refine someWf_bind fun m _ => ?_
      have hm : Memory.wf { s with mats := replaceIf s.mats (·.id == x) fun _ => m }.mem = true := h
      exact ih hm

theorem restoreTeams_wf {c : Context} {l : List Nat} : ∀ {o : Nat} {s : State}, Memory.wf s.mem = true → SomeWf (restoreTeams s c o l) := by
  induction l with
  | nil => exact fun h => someWf_some h
  | cons x r ih =>
    intro o s h
    unfold restoreTeams
    split
    · exact ih h
    · exact someWf_bind fun t _ => ih (mapTeam_wf h)

theorem restoreBytes_wf {s : State} {c : Context} {o n dst : Nat} (h : Memory.wf s.mem = true) : Memory.wf (restoreBytes s c o n dst).mem = true := by
  have ht : Memory.wf (storeAt s c.key dst (imageGet s c o n)).mem = true := storeAt_wf h
  exact ht

theorem restoreFiles_wf {s : State} {c : Context} {x : ImageCore} (h : Memory.wf s.mem = true) : Memory.wf (restoreFiles s c x).mem = true := by
  have ht : Memory.wf (storeAt s c.key (fileAt x.core 0) (imageGet s c (x.off + 0x1000) 0x100000)).mem = true := storeAt_wf h
  unfold restoreFiles
  exact ite_wf ht ht

theorem restoreCore_wf {s : State} {c : Context} {x : ImageCore} (h : Memory.wf s.mem = true) : SomeWf (restoreCore s c x) :=
  someWf_bind fun _ _ => someWf_bind fun _ ht => someWf_bind fun _ hp => someWf_bind fun _ hm =>
    someWf_some (restoreBytes_wf (restoreFiles_wf (restoreMats_wf (restorePods_wf (restoreTeams_wf h _ ht) _ hp) _ hm)))

theorem restoreEngines_wf {c : Context} {dies : List (Nat × Nat)} {l : List ImageEngine} :
    ∀ {s : State}, Memory.wf s.mem = true → SomeWf (restoreEngines s c dies l) := by
  induction l with
  | nil => exact fun h => someWf_some h
  | cons m r ih =>
    intro s h
    unfold restoreEngines
    split
    · refine someWf_bind fun y _ => ?_
      have hm : Memory.wf { s with parked := replaceIf s.parked (·.node == m.node) fun _ => y }.mem = true := h
      exact ih hm
    · exact ih h

theorem restoreNodes_wf {c : Context} {l : List W32} : ∀ {o : Nat} {s : State}, Memory.wf s.mem = true → SomeWf (restoreNodes s c o l) := by
  induction l with
  | nil => exact fun h => someWf_some h
  | cons x r ih =>
    intro o s h
    unfold restoreNodes
    split
    · exact ih h
    · exact someWf_bind fun _ _ => someWf_bind fun _ _ => ih (mapNode_wf h)

theorem restoreStreams_wf {c : Context} {l : List ImageStream} : ∀ {o : Nat} {s : State}, Memory.wf s.mem = true → SomeWf (restoreStreams s c o l) := by
  induction l with
  | nil => exact fun h => someWf_some h
  | cons x r ih =>
    intro o s h
    unfold restoreStreams
    exact someWf_bind fun _ _ => someWf_bind fun _ hn => ih (mapStream_wf (restoreNodes_wf h _ hn))

theorem acceptAgain_wf {owner : Nat} {l : List TkEntry} : ∀ {s : State}, Memory.wf s.mem = true → SomeWf (acceptAgain s owner l) := by
  induction l with
  | nil => exact fun h => someWf_some h
  | cons e r ih =>
    intro s h
    unfold acceptAgain
    split
    · next ha => exact ih (mapCtx_wf (acceptUpdate_wf h ha))
    · exact someWf_none

theorem readImage_wf {s : State} {owner : Nat} (h : Memory.wf s.mem = true) : SomeWf (readImage s owner) := by
  refine someWf_bind fun _ _ => someWf_bind fun c _ => someWf_bind fun _ _ => someWf_bind fun _ _ => someWf_bind fun _ _ => someWf_bind fun _ _ =>
    someWf_bind fun _ hc => someWf_bind fun _ he => someWf_bind fun _ hs => someWf_bind fun _ _ => ?_
  have h1 := foldlM_wf restoreCore_wf (mapCtx_wf h) _ hc
  have h2 := restoreEngines_wf (foldl_wf restoreBytes_wf h1) _ he
  exact acceptAgain_wf (restoreStreams_wf h2 _ hs)

/-! ### World switches -/

theorem stopPods_wf {s : State} {owner : Nat} (h : Memory.wf s.mem = true) : Memory.wf (stopPods s owner).mem = true := h

theorem finishBegun_wf {s : State} {owner : Nat} (h : Memory.wf s.mem = true) : Memory.wf (finishBegun s owner).mem = true := by
  refine foldl_wf (fun {s m} hs => ?_) h
  split
  · next ht => exact execMatrixCommandCompletion_wf hs _ ht
  · exact hs

theorem requeue_wf {s : State} {owner : Nat} (h : Memory.wf s.mem = true) : Memory.wf (requeue s owner).mem = true := h

theorem saveFabric_wf {s : State} {owner : Nat} (h : Memory.wf s.mem = true) : Memory.wf (saveFabric s owner).mem = true := by
  have hs : Memory.wf ((unreadTransfers s owner).foldl (fun s x => localCompletion s x.1 x.2) s).mem = true := foldl_wf localCompletion_wf h
  exact hs

theorem saveTransforms_wf {s : State} {owner : Nat} (h : Memory.wf s.mem = true) : Memory.wf (saveTransforms s owner).mem = true := h

theorem saveTickets_wf {s : State} {owner : Nat} (h : Memory.wf s.mem = true) : Memory.wf (saveTickets s owner).mem = true := by
  refine mapCtx_wf (foldl_wf (fun {s r} hs => ?_) h)
  split
  · exact writeBack_wf hs
  · exact hs

theorem saveOwner_wf {s : State} {owner : Nat} (h : Memory.wf s.mem = true) : Memory.wf (saveOwner s owner).mem = true :=
  mapCtx_wf (saveTransforms_wf (writeImage_wf (saveTickets_wf (saveFabric_wf (requeue_wf (finishBegun_wf (stopPods_wf h)))))))

theorem scrub_wf {s : State} {part : Nat} (h : Memory.wf s.mem = true) : Memory.wf (scrub s part).mem = true :=
  foldl_wf storeAt_wf (foldl_wf storeAt_wf (foldl_wf storeAt_wf h))

theorem formAll_wf {s : State} {owner : Nat} (h : Memory.wf s.mem = true) : Memory.wf (formAll s owner).mem = true := h

theorem restoreFabric_wf {s : State} {owner : Nat} (h : Memory.wf s.mem = true) : Memory.wf (restoreFabric s owner).mem = true := h

theorem restoreTransforms_wf {s : State} {owner : Nat} (h : Memory.wf s.mem = true) : Memory.wf (restoreTransforms s owner).mem = true := by
  refine foldl_wf (fun {t x} ht => ?_) h
  split
  · exact ht
  · exact ht

theorem applyResumes_wf {s : State} {owner : Nat} (h : Memory.wf s.mem = true) : Memory.wf (applyResumes s owner).mem = true := by
  refine mapCtx_wf (foldl_wf (fun {s k} hs => ?_) h)
  split
  · exact resumeAgent_wf hs
  · exact hs

theorem failRestore_wf {s : State} {owner : Nat} (h : Memory.wf s.mem = true) : Memory.wf (failRestore s owner).mem = true :=
  endContext_wf (postRecord_wf h)

/-- The module that a restore reads the image in: the partition scrubbed, the owner resident in it. -/
theorem restoreOwner_wf {s : State} {part owner : Nat} (h : Memory.wf s.mem = true) : Memory.wf (restoreOwner s part owner).mem = true := by
  unfold restoreOwner
  extract_lets s1 s2 s3
  have h2 : Memory.wf s2.mem = true := by simpa only [s2, s1, State.mapCtx_mem] using scrub_wf (part := part) h
  have h3 : Memory.wf s3.mem = true := by
    dsimp only [s3]
    split
    · exact postRecord_wf h2
    · exact h2
  split
  · exact failRestore_wf h3
  · next ht => exact formAll_wf (applyResumes_wf (restoreTransforms_wf (restoreFabric_wf (readImage_wf h3 _ ht))))

theorem switchTo_wf {s : State} {part out : Nat} {next : Option Nat} (h : Memory.wf s.mem = true) : Memory.wf (switchTo s part out next).mem = true := by
  have hs : Memory.wf (if (s.ctxOf out).dead then finishBegun s out else saveOwner s out).mem = true := ite_wf (finishBegun_wf h) (saveOwner_wf h)
  unfold switchTo
  dsimp only
  split
  · exact restoreOwner_wf hs
  · exact scrub_wf hs

theorem execQuantumEnd_wf {part : Nat} {s : State} (h : Memory.wf s.mem = true) : NextWf (execQuantumEnd part s) := by
  refine nextWf_next (ite_wf h ?_)
  split
  · split
    · exact restoreOwner_wf h
    · exact h
  · refine ite_wf (switchTo_wf h) (ite_wf h ?_)
    split
    · exact switchTo_wf h
    · exact h

end Sys2Proof.Machine
end

section
/-! O5, part 11: Hernus, compressing hops, the host's registers and the line forms. -/

namespace Sys2Proof.Machine

/-! ### Hernus -/

theorem cmdResult_wf {s : State} {fn : Nat} {ok : Bool} (h : Memory.wf s.mem = true) : Memory.wf (cmdResult s fn ok).mem = true := h

/-- An answer of Hernus is sent from a state whose memory is in canonical form. -/
def ReplyWf (r : Option (State × List Byte)) : Prop := ∀ t b, r = some (t, b) → Memory.wf t.mem = true

theorem replyWf_none : ReplyWf none := fun _ _ e => by cases e

theorem replyWf_some {t : State} {b : List Byte} (h : Memory.wf t.mem = true) : ReplyWf (some (t, b)) := fun _ _ e => by cases e; exact h

theorem ite_replyWf {c : Prop} {_ : Decidable c} {r q : Option (State × List Byte)} (hr : ReplyWf r) (hq : ReplyWf q) : ReplyWf (if c then r else q) := by
  split <;> assumption

theorem hernusReply_wf {s : State} {fn : Nat} {r : Option (State × List Byte)} (h : Memory.wf s.mem = true) (hr : ReplyWf r) :
    Memory.wf (hernusReply s fn r).mem = true := by
  unfold hernusReply
  split
  · exact h
  · next t b =>
    have ht : Memory.wf t.mem = true := hr t b rfl
    exact ht

theorem measureEvent_wf {s : State} {type owner : Nat} {args : List Nat} (h : Memory.wf s.mem = true) :
    Memory.wf (measureEvent s type owner args).mem = true := h

theorem emptyStreams_wf {s : State} {owner : Nat} (h : Memory.wf s.mem = true) : Memory.wf (emptyStreams s owner).mem = true := h

theorem createOwner_wf {s : State} {fn owner part scratch : Nat} {grant : List (Nat × Nat)} {image : Nat × Nat} (h : Memory.wf s.mem = true) :
    ReplyWf (createOwner s fn owner grant part image scratch) := by
  refine ite_replyWf replyWf_none (replyWf_some (writeImage_wf (mapCtx_wf (emptyStreams_wf ?_))))
  exact h

theorem addGrant_wf {s : State} {fn owner : Nat} {grant : List (Nat × Nat)} (h : Memory.wf s.mem = true) : ReplyWf (addGrant s fn owner grant) :=
  ite_replyWf replyWf_none (replyWf_some (mapCtx_wf (measureEvent_wf h)))

theorem loseLines_wf {s : State} {lines : List Nat} (h : Memory.wf s.mem = true) : Memory.wf (loseLines s lines).mem = true := by
  have ht : Memory.wf (lines.foldl (fun t l => { t with mem := memPut t.mem (64 * l) ((List.range 64).map fun i => Config.lostByte s.draw (64 * l + i)) }) s).mem =
      true := foldl_wf (fun hs => memPut_wf hs) h
  exact ht

theorem eraseOwner_wf {s : State} {owner : Nat} (h : Memory.wf s.mem = true) : Memory.wf (eraseOwner s owner).mem = true := by
  have ht := loseLines_wf (lines := s.dirty.filter fun l => lineKeyOf s.lineKey l == some (s.ctxOf owner).key) h
  exact mapCtx_wf ht

theorem destroyOwner_wf {s : State} {fn owner : Nat} (h : Memory.wf s.mem = true) : ReplyWf (destroyOwner s fn owner) :=
  ite_replyWf replyWf_none (replyWf_some (eraseOwner_wf (measureEvent_wf h)))

theorem attestOwner_wf {s : State} {fn owner : Nat} {nonce : List Byte} (h : Memory.wf s.mem = true) : ReplyWf (attestOwner s fn owner nonce) :=
  ite_replyWf replyWf_none (replyWf_some h)

theorem execCreate_wf {fn owner part scratch : Nat} {grant : List (Nat × Nat)} {image : Nat × Nat} {s : State} (h : Memory.wf s.mem = true) :
    NextWf (execCreate fn owner grant part image scratch s) := nextWf_next (hernusReply_wf h (createOwner_wf h))

theorem execSetgrant_wf {fn owner : Nat} {grant : List (Nat × Nat)} {s : State} (h : Memory.wf s.mem = true) : NextWf (execSetgrant fn owner grant s) :=
  nextWf_next (hernusReply_wf h (addGrant_wf h))

theorem execDestroy_wf {fn owner : Nat} {s : State} (h : Memory.wf s.mem = true) : NextWf (execDestroy fn owner s) :=
  nextWf_next (hernusReply_wf h (destroyOwner_wf h))

theorem execAttest_wf {fn owner : Nat} {nonce : List Byte} {s : State} (h : Memory.wf s.mem = true) : NextWf (execAttest fn owner nonce s) :=
  nextWf_next (hernusReply_wf h (attestOwner_wf h))

theorem execLogread_wf {fn : Nat} {s : State} (h : Memory.wf s.mem = true) : NextWf (execLogread fn s) :=
  nextWf_next (hernusReply_wf h (ite_replyWf (replyWf_some h) replyWf_none))

theorem execFusedSvnRaise_wf {fn : Nat} {svn : BitVec 32} {s : State} (h : Memory.wf s.mem = true) : NextWf (execFusedSvnRaise fn svn s) :=
  nextWf_next (hernusReply_wf h (ite_replyWf (replyWf_some (by exact h)) replyWf_none))

theorem resetModule_wf {s : State} (h : Memory.wf s.mem = true) : Memory.wf (resetModule s).mem = true := filter_wf (loseLines_wf h)

theorem losePower_wf {s : State} (h : Memory.wf s.mem = true) : Memory.wf (losePower s).mem = true := filter_wf h

theorem execModuleReset_wf {s : State} (h : Memory.wf s.mem = true) : NextWf (execModuleReset s) :=
  nextWf_next (ite_wf (resetModule_wf h) (losePower_wf (resetModule_wf h)))

theorem execOvertempReset_wf {s : State} (h : Memory.wf s.mem = true) : NextWf (execOvertempReset s) := nextWf_next (resetModule_wf h)

theorem endFunction_wf {s : State} {fn : Nat} (h : Memory.wf s.mem = true) : Memory.wf (endFunction s fn).mem = true := endContext_wf h

theorem clearCounts_wf {s : State} {fn : Nat} (h : Memory.wf s.mem = true) : Memory.wf (clearCounts s fn).mem = true := imagePuts_wf h

theorem execFunctionLevelReset_wf {fn : Nat} {s : State} (h : Memory.wf s.mem = true) : NextWf (execFunctionLevelReset fn s) :=
  nextWf_next (ite_wf h (emptyStreams_wf (clearCounts_wf (mapCtx_wf (endFunction_wf h)))))

theorem execTdiError_wf {fn : Nat} {s : State} (h : Memory.wf s.mem = true) : NextWf (execTdiError fn s) :=
  nextWf_next (ite_wf h (endFunction_wf h))

/-! ### Compressing hops -/

theorem hopDone_wf {s : State} (h : Memory.wf s.mem = true) : Memory.wf (hopDone s).mem = true := fnext_wf (countFabric_wf h)

theorem compressHop_wf {s : State} {a b : BitVec 4} {e : Nat} {rs : List HopRange} {values : Except Halt (List Nat)} (h : Memory.wf s.mem = true) :
    OkWf (compressHop s a b e rs values) :=
  okWf_bind fun _ _ => okWf_bind fun _ _ => okWf_bind fun _ _ => okWf_bind fun _ _ => okWf_bind fun _ _ =>
    okWf_bind fun _ ht => okWf_bind fun _ hu => okWf_ok (hopDone_wf (okWf_orTrap (fabricWrite_wf (okWf_orTrap (fabricWrite_wf (ite_wf (performSrStep_wf h) h)) _ ht)) _ hu))

theorem execZqnt_wf {d a b : BitVec 4} {s : State} (h : Memory.wf s.mem = true) : NextWf (execZqnt d a b s) :=
  settle_wf h (okWf_bind fun _ _ => okWf_bind fun _ _ => compressHop_wf h)

theorem execZrsc_wf {d a b : BitVec 4} {s : State} (h : Memory.wf s.mem = true) : NextWf (execZrsc d a b s) :=
  settle_wf h (okWf_bind fun _ _ => okWf_bind fun _ _ => compressHop_wf h)

theorem execZrsf_wf {d a : BitVec 4} {s : State} (h : Memory.wf s.mem = true) : NextWf (execZrsf d a s) :=
  settle_wf h (okWf_bind fun _ _ => okWf_bind fun _ _ => okWf_bind fun _ _ => okWf_bind fun _ _ => okWf_bind fun _ _ =>
    okWf_bind fun _ ht => okWf_ok (hopDone_wf (okWf_orTrap (fabricWrite_wf h) _ ht)))

theorem execZdqa_wf {d a : BitVec 4} {s : State} (h : Memory.wf s.mem = true) : NextWf (execZdqa d a s) :=
  settle_wf h (okWf_bind fun _ _ => okWf_bind fun _ _ => okWf_bind fun _ _ => okWf_bind fun _ _ => okWf_bind fun _ _ =>
    okWf_bind fun _ ht => okWf_ok (hopDone_wf (okWf_orTrap (fabricWrite_wf h) _ ht)))

/-! ### The host's side -/

theorem execHostPostedWrite_wf {owner : Nat} {va : BitVec 64} {bytes : List Byte} {s : State} (h : Memory.wf s.mem = true) :
    NextWf (execHostPostedWrite owner va bytes s) := by
  refine nextWf_next (ite_wf ?_ h)
  split
  · exact putDiscarding_wf h
  · exact postRecord_wf h

theorem execHostRead_wf {owner : Nat} {va : BitVec 64} {len : Nat} {s : State} (h : Memory.wf s.mem = true) : NextWf (execHostRead owner va len s) := by
  refine nextWf_next (ite_wf h ?_)
  split
  · exact h
  · exact postRecord_wf h

theorem writeFqHead_wf {s : State} {fn : Nat} {v : W32} (h : Memory.wf s.mem = true) : Memory.wf (writeFqHead s fn v).mem = true :=
  flushHeld_wf (mapCtx_wf h)

theorem writeMrHead_wf {s : State} {fn : Nat} {v : W32} (h : Memory.wf s.mem = true) : Memory.wf (writeMrHead s fn v).mem = true := h

theorem execFqheadWrite_wf {fn : Nat} {head : BitVec 32} {s : State} (h : Memory.wf s.mem = true) : NextWf (execFqheadWrite fn head s) :=
  nextWf_next (ite_wf (writeFqHead_wf h) h)

theorem execMrheadWrite_wf {fn : Nat} {head : BitVec 32} {s : State} (h : Memory.wf s.mem = true) : NextWf (execMrheadWrite fn head s) :=
  nextWf_next (ite_wf (writeMrHead_wf h) h)

theorem execPosttailWrite_wf {fn stream : Nat} {tail : BitVec 32} {s : State} (h : Memory.wf s.mem = true) : NextWf (execPosttailWrite fn stream tail s) :=
  nextWf_next (ite_wf (mapStream_wf h) h)

theorem execCplheadWrite_wf {fn stream : Nat} {head : BitVec 32} {s : State} (h : Memory.wf s.mem = true) : NextWf (execCplheadWrite fn stream head s) :=
  nextWf_next (ite_wf (mapStream_wf h) h)

theorem execStreamEnable_wf {fn stream : Nat} {s : State} (h : Memory.wf s.mem = true) : NextWf (execStreamEnable fn stream s) :=
  nextWf_next (ite_wf (mapStream_wf h) h)

theorem sendOne_wf {s : State} {fn : Nat} {i : W32} (h : Memory.wf s.mem = true) : Memory.wf (sendOne s fn i).mem = true := by
  unfold sendOne
  split
  · refine mapCtx_wf (sendOut_wf ?_)
    exact h
  · exact mapCtx_wf (postRecord_wf h)

theorem writeMsTail_wf {s : State} {fn : Nat} {v : W32} (h : Memory.wf s.mem = true) : Memory.wf (writeMsTail s fn v).mem = true :=
  ite_wf h (mapCtx_wf (foldl_wf sendOne_wf h))

theorem execMstailWrite_wf {fn : Nat} {tail : BitVec 32} {s : State} (h : Memory.wf s.mem = true) : NextWf (execMstailWrite fn tail s) :=
  nextWf_next (ite_wf (writeMsTail_wf h) h)

theorem execManagementSendCompletion_wf {fn : Nat} {ok : Bool} {s : State} (h : Memory.wf s.mem = true) :
    NextWf (execManagementSendCompletion fn ok s) := by
  refine nextWf_next ?_
  split
  · exact mapCtx_wf (ite_wf h (postRecord_wf h))
  · exact h

theorem execManagementReceive_wf {port : Nat} {job : BitVec 32} {fea : BitVec 64} {bytes : List Byte} {s : State} (h : Memory.wf s.mem = true) :
    NextWf (execManagementReceive port job fea bytes s) := by
  refine nextWf_next ?_
  split
  · exact h
  · refine ite_wf h (ite_wf h ?_)
    dsimp only
    split
    · next e _ =>
      have hr := postRecord_wf (x := windowSite ‹_› (receiverOf port)) (t := e) h
      exact hr
    · next t ht =>
      have hc := countFabric_wf (f := receiverOf port) (ev := 0x02) (amount := bytes.length) (scale := 64) (engineWrite_wf h _ ht)
      exact hc

theorem writeWinload_wf {s : State} {fn : Nat} {v : W32} (h : Memory.wf s.mem = true) : Memory.wf (writeWinload s fn v).mem = true := by
  refine ite_wf h ?_
  split
  · exact mapCtx_wf h
  · exact mapCtx_wf h

theorem execWinload_wf {fn : Nat} {v : BitVec 32} {s : State} (h : Memory.wf s.mem = true) : NextWf (execWinload fn v s) :=
  nextWf_next (ite_wf (writeWinload_wf h) h)

theorem writeParts_wf {s : State} {v : W64} (h : Memory.wf s.mem = true) : Memory.wf (writeParts s v).mem = true := ite_wf h h

theorem writeStrmown_wf {s : State} {k : Nat} {v : W64} (h : Memory.wf s.mem = true) : Memory.wf (writeStrmown s k v).mem = true :=
  ite_wf (mapStream_wf h) h

theorem writePgcfg_wf {s : State} {g : Nat} {v : W64} (h : Memory.wf s.mem = true) : Memory.wf (writePgcfg s g v).mem = true := ite_wf h h

theorem writePfReg_wf {s : State} {off : Nat} {v : W64} (h : Memory.wf s.mem = true) : Memory.wf (writePfReg s off v).mem = true :=
  ite_wf (writeParts_wf h) (ite_wf (writeStrmown_wf h) (ite_wf (ite_wf (writePgcfg_wf h) h) (ite_wf (ite_wf h h) (ite_wf (ite_wf h h) (ite_wf h h)))))

theorem writeFpsel_wf {s : State} {k : Nat} {w : W32} (h : Memory.wf s.mem = true) : Memory.wf (writeFpsel s k w).mem = true := ite_wf h h

theorem selectStop_wf {s : State} {fn : Nat} (h : Memory.wf s.mem = true) : Memory.wf (selectStop s fn).mem = true := postRecord_wf h

theorem writeCounter_wf {s : State} {fn off : Nat} {v : W64} (h : Memory.wf s.mem = true) : Memory.wf (writeCounter s fn off v).mem = true :=
  ite_wf h (ite_wf (ite_wf (mapCtx_wf h) (selectStop_wf h)) (ite_wf h (ite_wf (ite_wf (writeFpsel_wf h) (selectStop_wf h)) (ite_wf h (ite_wf h h)))))

theorem have_wf {α : Type} {x : α} {f : α → State} (h : Memory.wf (f x).mem = true) : Memory.wf (have k := x; f k).mem = true := h

/-- A stream's block written by the function that holds it, and by no other. -/
theorem writeStream_wf {s : State} {b : Prop} {_ : Decidable b} {k : Nat} {f : Stream → Stream} (h : Memory.wf s.mem = true) :
    Memory.wf (if b then s.mapStream k f else s).mem = true := ite_wf (mapStream_wf h) h

theorem writeRegister_wf {s : State} {fn off : Nat} {v : W64} (h : Memory.wf s.mem = true) : Memory.wf (writeRegister s fn off v).mem = true := by
  unfold writeRegister
  refine ite_wf (writeFqHead_wf h) (ite_wf (writeMrHead_wf h) (ite_wf (writeMsTail_wf h) (ite_wf ?_ (ite_wf (writeWinload_wf h)
    (ite_wf ?_ (ite_wf (writeCounter_wf h) (ite_wf (ite_wf (writePfReg_wf h) h) (mapCtx_wf h))))))))
  · split
    · next ht => exact cmdResult_wf (commandOf_wf h _ ht)
    · exact cmdResult_wf h
  · exact have_wf (writeStream_wf h)

theorem execRegisterWrite_wf {fn off : Nat} {v : BitVec 64} {s : State} (h : Memory.wf s.mem = true) : NextWf (execRegisterWrite fn off v s) :=
  nextWf_next (ite_wf (writeRegister_wf h) h)

/-! ### The line forms -/

theorem discardLine_wf {s : State} {p : Nat} (h : Memory.wf s.mem = true) : Memory.wf (discardLine s p).mem = true := countSlice_wf (storeAt_wf h)

theorem execDiscard_wf {o : BitVec 6} {a : BitVec 7} {s : State} (h : Memory.wf s.mem = true) : NextWf (execDiscard o a s) :=
  settle_wf h (okWf_bind fun _ _ => okWf_ok (advance_wf (foldl_wf discardLine_wf h)))

theorem execFlush_wf {o : BitVec 6} {a : BitVec 7} {s : State} (h : Memory.wf s.mem = true) : NextWf (execFlush o a s) :=
  settle_wf h (okWf_bind fun _ _ => okWf_ok (advance_wf (by exact h)))

end Sys2Proof.Machine
end

section
/-! O5, part 12: every instruction and every event. -/

namespace Sys2Proof.Machine

/-! ### Every instruction and every event -/

section
variable {s : State}

theorem laneEffect_wf {d : BitVec 7} {f : Nat → W32} (h : Memory.wf s.mem = true) : Memory.wf (laneEffect s d f).mem = true := h

theorem laneFlagEffect_wf {d : BitVec 7} {f : Nat → W32 × W32} (h : Memory.wf s.mem = true) : Memory.wf (laneFlagEffect s d f).mem = true := h

theorem predEffect_wf {d : Nat} {f : Nat → Bool} (h : Memory.wf s.mem = true) : Memory.wf (predEffect s d f).mem = true := h

theorem scalarEffect_wf {d : BitVec 5} {w : W32} (h : Memory.wf s.mem = true) : Memory.wf (scalarEffect s d w).mem = true := h

theorem execCntrd_wf {d : BitVec 5} {n : BitVec 2} (h : Memory.wf s.mem = true) : NextWf (execCntrd d n s) :=
  nextWf_next (advance_wf (setScalar_wf (setScalar_wf h)))

theorem execShape_wf {x y z : BitVec 5} (h : Memory.wf s.mem = true) : NextWf (execShape x y z s) := nextWf_next (advance_wf (mapPod_wf h))

theorem execPacs_wf {f : BitVec 3} {d a b : BitVec 7} (h : Memory.wf s.mem = true) : NextWf (execPacs f d a b s) := by
  unfold execPacs
  exact nextWf_next (mapPod_wf (laneFlagEffect_wf h))

theorem execPpack_wf {w : BitVec 2} {d a b : BitVec 7} (h : Memory.wf s.mem = true) : NextWf (execPpack w d a b s) := by
  unfold execPpack
  exact nextWf_next (advance_wf (mapPod_wf (by exact h)))

end

/-- What an instruction or an event leaves keeps the canonical form: those of registers, predicates and phases do not touch the memory, and each other
one stores through `storeAt`, `memPut` or `rekey` only, or drops whole cells. -/
theorem exec_wf {i : Instr} {s : State} (h : Memory.wf s.mem = true) : NextWf (exec i s) := by
  cases i
  case nop | land | rejoin | yield | srkey | srstep | pref | fenceAcq | fenceRel | fenceAr | zfenceAcq |
    throttleStepDown | throttleStepUp => exact nextWf_next h
  case ffma | bffma2 => exact nextWf_next (laneFlagEffect_wf (sample_wf h))
  case iadd | isub | imul | imad | iabs | padd | psub | dot4 | fadd | fsub | fmul | fmin | fmax | fabs | fneg | fscale | bfadd2 |
    bfmul2 => exact nextWf_next (laneFlagEffect_wf h)
  case iaddi | imulh | imin | imax | isel | shl | shr | sar | rol | shli | shri | sari | and | or | xor | andn | andi | ori | xori | clz |
    popc | brev | bfx | bfi | mov | movi | movs | pmin | pmax | pabd | pavg | pmul | pmulh | pshl | pshr | dot8 | dot2 | punpk | tbl |
    pmovRegisterFromPredicate | fclass | sclx => exact nextWf_next (laneEffect_wf h)
  case icmp | plog | pmovPredicateFromRegister | pmovPredicateFromPredicate | fcmp => exact nextWf_next (predEffect_wf h)
  case smov | smovi | sadd | saddi | sand | sshl | shapeq => exact nextWf_next (scalarEffect_wf h)
  case frcp | frsq | fsqrt | fexp2 | flog2 | fsin | fcos | ftanh => exact nextWf_next (specialEffect_wf h)
  case cvtFloatToInteger | cvtIntegerToFloat | cvtIntegerToInteger => exact nextWf_next (convertEffect_wf h)
  case zli | zadd | zsub | zshl | zand | zcyc => exact nextWf_next (fabricEffect_wf h)
  case ldgN8 | ldgN16 | ldgI32 | ldgI64 | ldgB128 | ldtN8 | ldtN16 | ldtI32 | ldtI64 | ldtB128 | lddN8 | lddN16 | lddI32 | lddI64 |
    lddB128 | ldk => exact settle_wf h (loadEffect_wf h)
  case stg | stt | std | stk => exact settle_wf h (storeEffect_wf h)
  case aadd | amin | amax | aand | aor | axor | axch | acas | afadd => exact settle_wf h (atomicEffect_wf h)
  case shfl | scan | red | voteAny | voteAll | voteCount | votePack | matchLanes => exact nextWf_next (crossEffect_wf h)
  case zfenceRel | zfenceAr => exact nextWf_next (releaseThen_wf h (fnext_wf h))
  case sleep | sysrd | hernusBoot | linkTraining | hbmPatrolScrub => exact nextWf_next (ite_wf h h)
  case trap | brk | poolMarker | ztrap => exact nextWf_next (takeTrap_wf h)
  case packetRetransmission => exact nextWf_next (countFabric_wf h)
  case movl => exact nextWf_next (advance_wf (laneEffect_wf h))
  case smoviLiteral | saddiLiteral => exact nextWf_next (advance_wf (scalarEffect_wf h))
  case cntrd => exact execCntrd_wf h
  case shape => exact execShape_wf h
  case pacs => exact execPacs_wf h
  case ppack => exact execPpack_wf h
  case bra => exact execBra_wf h
  case call => exact execCall_wf h
  case brx => exact execBrx_wf h
  case callx => exact execCallx_wf h
  case ret => exact execRet_wf h
  case exit => exact execExit_wf h
  case melse => exact execMelse_wf h
  case mpop => exact execMpop_wf h
  case mpush => exact execMpush_wf h
  case syswr => exact execSyswr_wf h
  case cvtFloatToFloat => exact execCvtFloatToFloat_wf h
  case lsupd => exact execLsupd_wf h
  case discard => exact execDiscard_wf h
  case flush => exact execFlush_wf h
  case tkfadd => exact execTkfadd_wf h
  case tkreg => exact execTkreg_wf h
  case tkskip => exact execTkskip_wf h
  case tkfence z => exact execTkfence_wf (z := z) h
  case tkqry => exact execTkqry_wf h
  case bar => exact execBar_wf h
  case barrive x y z l => exact execBarrive_wf (z := z) h
  case bwait x y z => exact execBwait_wf (z := z) h
  case btry x y z => exact execBtry_wf (z := z) h
  case waitptr => exact execWaitptr_wf h
  case waitmem => exact execWaitmem_wf h
  case mma => exact execMma_wf h
  case mmab => exact execMmab_wf h
  case mdrain => exact execMdrain_wf h
  case tzero => exact execTzero_wf h
  case trot => exact execTrot_wf h
  case tcpy => exact execTcpy_wf h
  case tcpyw => exact execTcpyw_wf h
  case tdset => exact execTdset_wf h
  case tdget => exact execTdget_wf h
  case tdinv => exact execTdinv_wf h
  case tscl => exact execTscl_wf h
  case glaunch => exact execGlaunch_wf h
  case gwait => exact execGwait_wf h
  case gwaitTry => exact execGwaitTry_wf h
  case gnode => exact execGnode_wf h
  case tapepush => exact execTapepush_wf h
  case fqpost => exact execFqpost_wf h
  case zbr => exact execZbr_wf h
  case zloop => exact execZloop_wf h
  case zld => exact execZld_wf h
  case zst => exact execZst_wf h
  case zsend => exact execZsend_wf h
  case zags => exact execZags_wf h
  case zfetch => exact execZfetch_wf h
  case zckpt => exact execZckpt_wf h
  case zclone => exact execZclone_wf h
  case zqnt => exact execZqnt_wf h
  case zrsc => exact execZrsc_wf h
  case zrsf => exact execZrsf_wf h
  case zdqa => exact execZdqa_wf h
  case zwaitBar d a z => exact execZwaitBar_wf (z := z) h
  case zwaitFlag d a z => exact execZwaitFlag_wf (z := z) h
  case zsig d a b w z => exact execZsig_wf (b := b) (w := w) (z := z) h
  case zsigRemote => exact execZsigRemote_wf h
  case zhalt => exact execZhalt_wf h
  case moduleReset => exact execModuleReset_wf h
  case overtempReset => exact execOvertempReset_wf h
  case functionLevelReset => exact execFunctionLevelReset_wf h
  case tdiError => exact execTdiError_wf h
  case hostPostedWrite => exact execHostPostedWrite_wf h
  case hostRead => exact execHostRead_wf h
  case registerWrite => exact execRegisterWrite_wf h
  case posttailWrite => exact execPosttailWrite_wf h
  case cplheadWrite => exact execCplheadWrite_wf h
  case streamEnable => exact execStreamEnable_wf h
  case fqheadWrite => exact execFqheadWrite_wf h
  case mrheadWrite => exact execMrheadWrite_wf h
  case mstailWrite => exact execMstailWrite_wf h
  case winload => exact execWinload_wf h
  case inval => exact execInval_wf h
  case resume => exact execResume_wf h
  case terminate => exact execTerminate_wf h
  case termgrid => exact execTermgrid_wf h
  case create => exact execCreate_wf h
  case setgrant => exact execSetgrant_wf h
  case destroy => exact execDestroy_wf h
  case attest => exact execAttest_wf h
  case logread => exact execLogread_wf h
  case fusedSvnRaise => exact execFusedSvnRaise_wf h
  case nodeAppend => exact execNodeAppend_wf h
  case teamStart => exact execTeamStart_wf h
  case collectiveStart => exact execCollectiveStart_wf h
  case transformNodeStart => exact execTransformNodeStart_wf h
  case copyNode => exact execCopyNode_wf h
  case signalNode => exact execSignalNode_wf h
  case tapeNodeStart => exact execTapeNodeStart_wf h
  case tapePop => exact execTapePop_wf h
  case teamEnd => exact execTeamEnd_wf h
  case gridRetirement => exact execGridRetirement_wf h
  case nodeCompletion => exact execNodeCompletion_wf h
  case quantumEnd => exact execQuantumEnd_wf h
  case loadDataReturn => exact execLoadDataReturn_wf h
  case bunchConvergence => exact execBunchConvergence_wf h
  case rejoinHoldEnd => exact execRejoinHoldEnd_wf h
  case sleepEnd => exact execSleepEnd_wf h
  case watchdog => exact execWatchdog_wf h
  case bwaitCompletion => exact execBwaitCompletion_wf h
  case waitmemCompletion => exact execWaitmemCompletion_wf h
  case zwaitCompletion => exact execZwaitCompletion_wf h
  case matrixCommandStart => exact execMatrixCommandStart_wf h
  case matrixCommandCompletion => exact execMatrixCommandCompletion_wf h
  case trotRotation => exact execTrotRotation_wf h
  case copyCommandStart => exact execCopyCommandStart_wf h
  case copyGranuleDelivery => exact execCopyGranuleDelivery_wf h
  case ticketUpdateAccept => exact execTicketUpdateAccept_wf h
  case ticketGap => exact execTicketGap_wf h
  case transformGranuleWrite => exact execTransformGranuleWrite_wf h
  case transformInputArrival => exact execTransformInputArrival_wf h
  case transformInputTimeout => exact execTransformInputTimeout_wf h
  case transferAcknowledgement => exact execTransferAcknowledgement_wf h
  case waitedTransferCompletion => exact execWaitedTransferCompletion_wf h
  case rmaWriteArrival => exact execRmaWriteArrival_wf h
  case rmaReadArrival => exact execRmaReadArrival_wf h
  case remoteArrival job sender win off scope => exact execRemoteArrival_wf (scope := scope) h
  case managementReceive => exact execManagementReceive_wf h
  case managementSendCompletion => exact execManagementSendCompletion_wf h
  case collectiveTimeout => exact execCollectiveTimeout_wf h
  case counterCarry => exact execCounterCarry_wf h
  case nodeBarrierWaitMet => exact execNodeBarrierWaitMet_wf h
  case postedTransferLocalCompletion => exact execPostedTransferLocalCompletion_wf h
end Sys2Proof.Machine
end

section
/-! O5, part 13: issue, turns and the step. -/

namespace Sys2Proof.Machine

/-! ### Issue -/

theorem nextWf_fault {e : Fault} : NextWf (.fault e) := fun _ h => by cases h

theorem nextWf_refused {e : Refusal} : NextWf (.refused e) := fun _ h => by cases h

theorem issueWord_wf {s : State} {w : W32} {lit : Option W32} (h : Memory.wf s.mem = true) : NextWf (issueWord s w lit) := by
  unfold issueWord
  extract_lets s1
  have h1 : Memory.wf s1.mem = true := h
  split
  · exact nextWf_next (takeTrap_wf h1)
  · next i _ =>
    refine ite_nextWf (nextWf_next (markWait_wf h1)) ?_
    have he : NextWf (exec i (s1.mapPod (·.deliverMeeting (touches i)))) := exec_wf (mapPod_wf h1)
    cases hu : exec i (s1.mapPod (·.deliverMeeting (touches i))) with
    | fault e => exact nextWf_fault
    | refused e => exact nextWf_refused
    | next u =>
      have h2 := he u hu
      dsimp only
      split
      · exact nextWf_next (retireWord_wf h2)
      · exact nextWf_next (ite_wf (retireWord_wf h2) h2)
      · exact nextWf_next h2

theorem runPaired_wf {s : State} {w : W32} {i : Instr} (h : Memory.wf s.mem = true) : NextWf (runPaired s w i) := by
  unfold runPaired
  extract_lets s1
  have h1 : Memory.wf s1.mem = true := h
  cases softwareOf s1 i with
  | some x =>
    dsimp only
    split
    · exact nextWf_next (retireWord_wf (advance_wf h1))
    · exact nextWf_next (advance_wf h1)
  | none =>
    cases ht : exec i s1 with
    | fault e => exact nextWf_fault
    | refused e => exact nextWf_refused
    | next t =>
      have hw := exec_wf h1 t ht
      dsimp only
      split
      · exact nextWf_next (retireWord_wf hw)
      · exact nextWf_next hw

theorem pairWaits_wf {b t : State} {second : Bool} {k : Wait} (h : Memory.wf b.mem = true) : Memory.wf (pairWaits b t second k).mem = true :=
  markWait_wf (by exact h)

theorem asSecond_wf {s : State} (h : Memory.wf s.mem = true) : Memory.wf (asSecond s).mem = true := h

theorem secondSkip_wf {b r : State} {x y : BitVec 5} (h : Memory.wf b.mem = true) : Memory.wf (secondSkip b r x y).state.mem = true := by
  unfold secondSkip
  split
  · exact asSecond_wf h
  · exact skipFrom_wf (asSecond_wf h)

theorem skipKept_wf {r : SkipOut} {x y : BitVec 5} (h : Memory.wf r.state.mem = true) : Memory.wf (skipKept r x y).mem = true := skipTo_wf (mapPod_wf h)

theorem secondWaits_wf {b r u : State} {j : Instr} {k : Wait} (h : Memory.wf b.mem = true) : Memory.wf (secondWaits b r u j k).mem = true := by
  unfold secondWaits
  split
  · next x y =>
    have hs : Memory.wf (skipTo (secondSkip b r x y).state (secondSkip b r x y).done).mem = true := skipTo_wf (secondSkip_wf h)
    exact pairWaits_wf hs
  · exact pairWaits_wf h

theorem arrivalKept_wf {s : State} {y : BitVec 5} (h : Memory.wf s.mem = true) : Memory.wf (arrivalKept s y).mem = true := by
  unfold arrivalKept
  dsimp only
  split
  · exact arrive_wf h
  · exact h

/-- The fault of a pair's second word is taken in the state that keeps what the pair keeps. -/
theorem secondTraps_wf {b r : State} {w : W32} {j : Instr} {x : Stop} (h : Memory.wf b.mem = true) : Memory.wf (secondTraps b r w j x).mem = true := by
  unfold secondTraps
  extract_lets stop
  have hstop : ∀ {s : State}, Memory.wf s.mem = true → Memory.wf (stop s).mem = true := fun hs => takePodTrap_wf (by exact hs)
  split
  · next a c =>
    have hk := skipKept_wf (x := a) (y := c) (secondSkip_wf (r := r) (x := a) (y := c) h)
    generalize skipKept (secondSkip b r a c) a c = q at hk ⊢
    exact hstop (by exact hk)
  · exact hstop (arrivalKept_wf h)
  · exact ite_wf (trotFailed_wf (hstop h)) (hstop h)
  · exact hstop h

theorem pairTraps_wf {u : State} {x : W32 × Stop} (h : Memory.wf u.mem = true) : Memory.wf (pairTraps u x).mem = true := by
  have ht : Memory.wf (takeTrap { u with snap := none, word := x.1 } x.2).mem = true := takeTrap_wf (by exact h)
  exact ite_wf (by exact ht) ht

theorem runPair_wf {b : State} {v w : W32} {i j : Instr} (h : Memory.wf b.mem = true) : NextWf (runPair b v i w j) := by
  unfold runPair
  have hfirst := runPaired_wf (w := v) (i := i) h
  cases ht : runPaired b v i with
  | fault e => exact nextWf_fault
  | refused e => exact nextWf_refused
  | next t =>
    have h1 := hfirst t ht
    dsimp only
    split
    · exact nextWf_next h1
    · exact nextWf_next h1
    · generalize hran : ({ t.mapPod (·.deliverMeeting (regWrites j)) with snap := some ⟨b.pod, b.team, b.ctx⟩ } : State) = ran
      have hr : Memory.wf ran.mem = true := by rw [← hran]; exact h1
      have hsecond := runPaired_wf (w := w) (i := j) hr
      cases hu : runPaired ran w j with
      | fault e => exact nextWf_fault
      | refused e => exact nextWf_refused
      | next u =>
        have h2 := hsecond u hu
        dsimp only
        split
        · exact nextWf_next (secondTraps_wf h)
        · refine ite_nextWf (nextWf_next (markWait_wf (mapPod_wf h1))) ?_
          split
          · exact nextWf_next (secondWaits_wf h)
          · refine ite_nextWf (nextWf_next (pairWaits_wf h)) ?_
            split
            · exact nextWf_next (pairTraps_wf h2)
            · exact nextWf_next h2

theorem issuePair_wf {s : State} {ws : List W32} {k : Nat} (h : Memory.wf s.mem = true) : NextWf (issuePair s ws k) := by
  unfold issuePair
  extract_lets s1 a b
  have h1 : Memory.wf s1.mem = true := h
  split
  · exact nextWf_next (takeTrap_wf (by exact h1))
  · next i _ =>
    refine ite_nextWf (nextWf_next (markWait_wf (by exact h1))) ?_
    split
    · next x _ =>
      have hfirst := runPaired_wf (w := a.1) (i := i) (mapPod_wf (f := (·.deliverMeeting (touches i))) h1)
      cases hu : runPaired (s1.mapPod (·.deliverMeeting (touches i))) a.1 i with
      | fault e => exact nextWf_fault
      | refused e => exact nextWf_refused
      | next u =>
        dsimp only
        split
        · exact nextWf_next (hfirst u hu)
        · have hx : Memory.wf (takePodTrap { s1 with word := b.1 } x true).mem = true := takePodTrap_wf (by exact h1)
          exact nextWf_next (by exact hx)
    · refine ite_nextWf (nextWf_next (mapPod_wf (markWait_wf (by exact h1)))) (runPair_wf (by exact h1))

theorem issuePod_wf {s : State} (h : Memory.wf s.mem = true) : NextWf (issuePod s) := by
  unfold issuePod
  split
  · exact nextWf_next (takeTrap_wf h)
  · exact ite_nextWf (ite_nextWf (nextWf_next (takeTrap_wf (by exact h))) (issuePair_wf h)) (issueWord_wf h)

theorem finishPod_wf {k : Nat} {r : Host.Outcome State Fault Refusal} (h : NextWf r) : NextWf (finishPod k r) := by
  cases r with
  | fault e => exact nextWf_fault
  | refused e => exact nextWf_refused
  | next t =>
    have ht := h t rfl
    generalize hu : (if (match t.note with | .none => true | _ => false : Bool) = true
      then t.mapPod fun p => { p with grant := none, lastIssue := max p.lastIssue k } else t) = u
    have hw : Memory.wf u.mem = true := by
      rw [← hu]
      exact ite_wf (mapPod_wf ht) ht
    have hc : NextWf (.next { closeFocus u with note := u.note, snap := none }) := nextWf_next (closeFocus_wf hw :)
    rw [← hu] at hc
    exact hc

theorem regroup_wf {team n : Nat} : ∀ {s : State} {ms : List Nat}, Memory.wf s.mem = true → Memory.wf (regroup s team n ms).mem = true := by
  induction n with
  | zero => exact id
  | succ n ih =>
    intro s ms h
    unfold regroup
    split
    · exact h
    · exact ite_wf h (ih (by exact h))

theorem issueMember_wf {s : State} {team pod : Nat} (h : Memory.wf s.mem = true) : NextWf (issueMember s team pod) := by
  unfold issueMember
  split
  · exact nextWf_next h
  · next ho => exact ite_nextWf (finishPod_wf (issuePod_wf (openPod_wf h _ ho))) (nextWf_next h)

theorem countIssued_wf {s : State} {owner core lanes : Nat} {ws : List (W32 × Option W32)} (h : Memory.wf s.mem = true) :
    Memory.wf (countIssued s owner core lanes ws).mem = true := by
  refine foldl_wf (fun {s w} hs => ?_) h
  split
  · exact countWord_wf hs
  · exact hs

theorem reportBeside_wf {t : State} {out : List Beside} (h : Memory.wf t.mem = true) : Memory.wf (reportBeside t out).mem = true :=
  foldl_wf (fun hs => ite_wf (endContext_wf (postRecord_wf (countIssued_wf hs))) (postRecord_wf (countIssued_wf hs))) h

/-- Every state that an issue of a bunch goes on with has its memory in canonical form. -/
def MembersWf (r : Host.Outcome (State × Bool) Fault Refusal) : Prop := ∀ t done, r = .next (t, done) → Memory.wf t.mem = true

theorem membersWf_next {t : State} {done : Bool} (h : Memory.wf t.mem = true) : MembersWf (.next (t, done)) := fun _ _ e => by cases e; exact h

theorem issueMembers_wf {team : Nat} {ps : List Nat} :
    ∀ {s : State} {done : Bool}, Memory.wf s.mem = true → MembersWf (issueMembers s team done ps) := by
  induction ps with
  | nil => exact fun h => membersWf_next h
  | cons p ps ih =>
    intro s done h
    unfold issueMembers
    have hm : NextWf (issueMember { s with note := .none } team p) := issueMember_wf (by exact h)
    cases ht : issueMember { s with note := .none } team p with
    | fault e => exact fun _ _ e => by cases e
    | refused e => exact fun _ _ e => by cases e
    | next t =>
      dsimp only
      split
      · exact membersWf_next (reportBeside_wf (hm t ht))
      · exact ih (hm t ht)

theorem endIssue_wf {s : State} {team : Nat} {done : Bool} {ms : List Nat} (h : Memory.wf s.mem = true) : Memory.wf (endIssue s team done ms).mem = true := by
  refine regroup_wf ?_
  split
  · exact ite_wf (countCore_wf h) h
  · exact h

theorem issueBunches_wf {team n : Nat} : ∀ {s : State} {ps : List Pod}, Memory.wf s.mem = true → NextWf (issueBunches s team n ps) := by
  induction n with
  | zero => exact fun h => nextWf_next h
  | succ n ih =>
    intro s ps h
    cases ps with
    | nil => exact nextWf_next h
    | cons p ps =>
      unfold issueBunches
      extract_lets mine ms
      have hm := issueMembers_wf (team := team) (ps := ms) (done := false) h
      cases hu : issueMembers s team false ms with
      | fault e => exact nextWf_fault
      | refused e => exact nextWf_refused
      | next x => exact ih (endIssue_wf (hm x.1 x.2 hu))

theorem issueBunch_wf {s : State} {team pod : Nat} (h : Memory.wf s.mem = true) : NextWf (issueBunch s team pod) := by
  unfold issueBunch
  split
  · exact nextWf_next h
  · extract_lets ms
    refine ite_nextWf (nextWf_next h) ?_
    have h1 := issueMembers_wf (team := team) (ps := ms) (done := false) h
    cases e1 : issueMembers s team false ms with
    | fault e => exact nextWf_fault
    | refused e => exact nextWf_refused
    | next x =>
      have w1 := h1 x.1 x.2 e1
      dsimp only
      split
      · next y e2 =>
        have w2 := issueMembers_wf w1 _ _ e2
        split
        · next z e3 =>
          have w3 := issueBunches_wf w2 _ e3
          split
          · next v e4 => exact nextWf_next (endIssue_wf (issueMembers_wf w3 _ _ e4) :)
          · exact nextWf_fault
          · exact nextWf_refused
        · exact issueBunches_wf w2
      · exact nextWf_fault
      · exact nextWf_refused

theorem besideBunch_wf {u t : State} {team pod : Nat} (h : Memory.wf t.mem = true) : Memory.wf (besideBunch u team t pod).mem = true := by
  unfold besideBunch
  split
  · exact h
  · exact ite_wf (countCore_wf (reportBeside_wf h)) (reportBeside_wf h)

theorem issueHeads_wf {team : Nat} {ps : List Nat} : ∀ {s : State}, Memory.wf s.mem = true → NextWf (issueHeads s team ps) := by
  induction ps with
  | nil => exact fun h => nextWf_next h
  | cons p ps ih =>
    intro s h
    unfold issueHeads
    cases ht : issueBunch s team p with
    | fault e => exact nextWf_fault
    | refused e => exact nextWf_refused
    | next t =>
      have hw := issueBunch_wf h t ht
      exact ite_nextWf (nextWf_next (foldl_wf besideBunch_wf hw)) (ih hw)

theorem issueCycle_wf {s : State} {team : Nat} {pods : List Nat} (h : Memory.wf s.mem = true) : NextWf (issueCycle s team pods) := by
  unfold issueCycle
  split
  · exact nextWf_next h
  · exact issueHeads_wf h

theorem issueSprout_wf {s : State} {team : Nat} (h : Memory.wf s.mem = true) : NextWf (issueSprout s team) := by
  unfold issueSprout
  split
  · exact nextWf_next h
  · next t ho =>
    have ht := openSprout_wf h t ho
    refine ite_nextWf (nextWf_next h) ?_
    extract_lets stop
    have hstop : ∀ {u : State}, Memory.wf u.mem = true → Memory.wf (stop u).mem = true := fun hu => countCore_wf (by exact hu)
    refine ite_nextWf (nextWf_next (hstop h)) ?_
    cases hu : issuePod t with
    | fault e => exact nextWf_fault
    | refused e => exact nextWf_refused
    | next u =>
      have hw := issuePod_wf ht u hu
      dsimp only
      split
      · have hc : Memory.wf (closeFocus { u with team := { u.team with flags := t.team.flags } }).mem = true := closeFocus_wf (by exact hw)
        exact nextWf_next hc
      · exact nextWf_next (hstop (countCore_wf h))
      · exact nextWf_next (hstop h)

theorem issueFabric_wf {s : State} {f : Nat} (h : Memory.wf s.mem = true) : NextWf (issueFabric s f) := by
  unfold issueFabric
  split
  · exact nextWf_next h
  · next t ho =>
    have ht := openFabric_wf h t ho
    refine ite_nextWf (nextWf_next h) ?_
    split
    · next e _ => exact nextWf_next (takeTrap_wf (t := e) ht :)
    · extract_lets t1
      have h1 : Memory.wf t1.mem = true := ht
      split
      · exact nextWf_next (takeTrap_wf (t := zilkanStop 0) h1 :)
      · next i _ =>
        cases hu : exec i t1 with
        | fault e => exact nextWf_fault
        | refused e => exact nextWf_refused
        | next u => exact nextWf_next (closeFocus_wf (exec_wf h1 u hu) :)

/-! ### Turns -/

theorem fillTlb_wf {s : State} {owner va : Nat} {run : Bool} (h : Memory.wf s.mem = true) : Memory.wf (fillTlb s owner va run).mem = true := by
  unfold fillTlb
  split
  · exact mapCtx_wf h
  · exact h

theorem reportCompletion_wf {s : State} {r : Host.Outcome State Fault Refusal} (h : NextWf r) : NextWf (reportCompletion s r) := by
  cases r with
  | fault e => exact nextWf_fault
  | refused e => exact nextWf_refused
  | next t => exact nextWf_next (ite_wf (h t rfl) (h t rfl))

theorem runEvent_wf {s : State} {i : Instr} (h : Memory.wf s.mem = true) : NextWf (runEvent s i) :=
  ite_nextWf (nextWf_next h) (ite_nextWf (ite_nextWf (nextWf_next h) (exec_wf h)) (reportCompletion_wf (exec_wf h)))

theorem runTurn_wf {s : State} {t : Turn} (h : Memory.wf s.mem = true) : NextWf (runTurn s t) := by
  cases t with
  | pods team pod => exact reportCompletion_wf (issueBunch_wf h)
  | cycle team pods => exact reportCompletion_wf (issueCycle_wf h)
  | sprout team => exact reportCompletion_wf (issueSprout_wf h)
  | fabric f => exact reportCompletion_wf (issueFabric_wf h)
  | fill owner va run => exact reportCompletion_wf (nextWf_next (fillTlb_wf h))
  | event i => exact runEvent_wf h

theorem step_wf {s : State} (h : Memory.wf s.mem = true) : NextWf (step s) := by
  have hp : Memory.wf (passStep { s with agenda := (nextTurn s).2 }).mem = true := passStep_wf (by exact h)
  unfold step stepOnce
  dsimp only
  split
  · exact runTurn_wf hp
  · exact nextWf_next hp

/-- Settles O5: the step lets time pass and runs one turn, each agent's issue and each event keeps the memory in canonical form. -/
theorem stepKeepsMemoryForm : Obligations.StepKeepsMemoryForm := fun _ t h e => step_wf h t e

end Sys2Proof.Machine
end

section
/-! O6: what module reset leaves. -/

namespace Sys2Proof.Machine

/-- Every entry of a constant vector is the constant. -/
theorem eq_of_mem_replicate_toList {α : Type} {n : Nat} {v x : α} (h : x ∈ (Vector.replicate n v).toList) : x = v := by
  simp only [Vector.toList_replicate, List.mem_replicate] at h
  exact h.2

/-- The owners at reset are the fresh contexts 0 to 32. -/
theorem reset_owners_fresh {c : Context} (h : c ∈ State.reset.owners) : ∃ n, c = Context.fresh n := by
  obtain ⟨n, _, hn⟩ := List.mem_map.mp h
  exact ⟨n, hn.symm⟩

/-- The fabric processors at reset are the idle processors 0 to 15. -/
theorem reset_fabric_idle {f : Fabric} (h : f ∈ State.reset.fabric) : ∃ n, f = Fabric.reset n := by
  obtain ⟨n, _, hn⟩ := List.mem_map.mp h
  exact ⟨n, hn.symm⟩

/-- The registers, counters and lists of a context that no CREATE has made. -/
theorem fresh_registers (n : Nat) :
    let c := Context.fresh n
    c.created = false ∧ c.lsctl = 0x07D01800#32 ∧ c.tkctl = 0x18#32 ∧ c.lscale = 0#32 ∧ (∀ w ∈ c.cntsel.toList, w = 0#32) ∧ c.cnt = [] ∧
      (∀ w ∈ c.slsel.toList, w = 0#32) ∧ c.slcnt = [] ∧ (∀ r ∈ c.regions.toList, r = none) ∧ c.entries = [] ∧ c.tlb = [] ∧ c.group = [] ∧ c.windows = [] :=
  ⟨rfl, rfl, rfl, rfl, fun _ => eq_of_mem_replicate_toList, rfl, fun _ => eq_of_mem_replicate_toList, rfl, fun _ => eq_of_mem_replicate_toList,
    rfl, rfl, rfl, rfl⟩

/-- A stream at reset is without owner, disabled and empty. -/
theorem reset_streams {st : Stream} (h : st ∈ State.reset.streams.toList) : st.owner = 0x3F#6 ∧ st.enable = false ∧ st.nodes = [] := by
  have hst : st = Stream.reset := eq_of_mem_replicate_toList h
  subst hst
  exact ⟨rfl, rfl, rfl⟩

/-- Settles O6, clause by clause from the values of `State.reset`. -/
theorem resetState : Obligations.ResetState := by
  unfold Obligations.ResetState
  refine ⟨rfl, fun _ => rfl, rfl, rfl, rfl, rfl, rfl, rfl, rfl, fun _ => eq_of_mem_replicate_toList, fun _ => reset_streams,
    fun _ => eq_of_mem_replicate_toList, fun _ => eq_of_mem_replicate_toList, rfl, rfl, rfl, rfl, rfl, rfl, rfl, rfl, rfl, ?_, rfl, ?_,
    fun _ => eq_of_mem_replicate_toList, fun _ => eq_of_mem_replicate_toList, fun _ => eq_of_mem_replicate_toList, fun _ => eq_of_mem_replicate_toList⟩
  · intro c hc
    obtain ⟨n, rfl⟩ := reset_owners_fresh hc
    exact fresh_registers n
  · intro f hf
    obtain ⟨n, rfl⟩ := reset_fabric_idle hf
    exact ⟨rfl, rfl⟩

end Sys2Proof.Machine
end

section
/-! O60, part 1: module reset, the loss of power and the boot. -/

namespace Sys2Proof.Machine

/-! ### Bytes that are lost or dropped -/

/-- Dropping the cells at some addresses leaves those addresses zero and every other byte as it was. -/
theorem memRead_filter {m : List Host.Cell} {p : Nat → Bool} {a : Nat} :
    ∀ {lo : Nat}, memWfFrom lo m = true → memRead (m.filter fun c => p c.1) a = if p a = true then memRead m a else 0#8 := by
  induction m with
  | nil => intro lo _; exact (ite_self _).symm
  | cons c r ih =>
    obtain ⟨k, b⟩ := c
    intro lo h
    have hr : memWfFrom (k + 1) r = true := by
      simp only [memWfFrom, Bool.and_eq_true] at h
      exact h.2
    by_cases hk : k = a
    · subst hk
      by_cases hp : p k = true
      · simp [hp, memRead]
      · simp only [List.filter_cons, hp]
        exact memRead_below (filter_wfFrom hr) (Nat.lt_succ_self k)
    · by_cases hlt : a < k
      · have h0 : memRead ((k, b) :: r) a = 0#8 := memRead_below (lo := k) (by simp_all [memWfFrom]) hlt
        have h1 : memRead (((k, b) :: r).filter fun c => p c.1) a = 0#8 :=
          memRead_below (lo := k) (filter_wfFrom (by simp_all [memWfFrom])) hlt
        rw [h0, h1, ite_self]
      · have hstep : memRead ((k, b) :: r) a = memRead r a := by simp [memRead, hk, hlt]
        rw [hstep, ← ih hr]
        by_cases hp : p k = true
        · simp [hp, memRead, hk, hlt]
        · simp [hp]

/-- The bytes that stand in a lost line instead. -/
def lostLine (draw l : Nat) : List Byte := (List.range 64).map fun i => Config.lostByte draw (64 * l + i)

/-- A memory in which the lines of a list are lost, one after another, for one choice of what stands in them. -/
def lostMem (draw : Nat) (m : List Host.Cell) (lines : List Nat) : List Host.Cell := lines.foldl (fun m l => memPut m (64 * l) (lostLine draw l)) m

/-- A state with another memory. -/
def State.withMem (s : State) (m : List Host.Cell) : State := { s with mem := m }

theorem foldl_withMem {α : Type} {f : List Host.Cell → α → List Host.Cell} {l : List α} :
    ∀ {s : State}, l.foldl (fun t a => t.withMem (f t.mem a)) s = s.withMem (l.foldl f s.mem) := by
  induction l with
  | nil => intro s; rfl
  | cons a r ih => intro s; exact ih (s := s.withMem (f s.mem a))

theorem loseLines_eq (s : State) (lines : List Nat) : loseLines s lines =
    { s with mem := lostMem s.draw s.mem lines, dirty := s.dirty.filter (fun l => !lines.contains l), draw := s.draw + 1 } := by
  have hf : lines.foldl (fun t l => { t with mem := memPut t.mem (64 * l) ((List.range 64).map fun i => Config.lostByte s.draw (64 * l + i)) }) s =
      s.withMem (lostMem s.draw s.mem lines) := foldl_withMem (f := fun m l => memPut m (64 * l) (lostLine s.draw l))
  unfold loseLines
  rw [hf]
  rfl

theorem lostMem_cons (draw : Nat) (m : List Host.Cell) (l : Nat) (r : List Nat) :
    lostMem draw m (l :: r) = lostMem draw (memPut m (64 * l) (lostLine draw l)) r := by
  simp only [lostMem, List.foldl_cons]

theorem memRead_lostMem {draw a : Nat} {lines : List Nat} : ∀ {m : List Host.Cell}, Memory.wf m = true →
    memRead (lostMem draw m lines) a = if a / 64 ∈ lines then Config.lostByte draw a else memRead m a := by
  induction lines with
  | nil => intro m _; rfl
  | cons l r ih =>
    intro m h
    rw [lostMem_cons, ih (memPut_wf h)]
    by_cases hr : a / 64 ∈ r
    · simp [hr]
    · by_cases hl : a / 64 = l
      · have ha : a = 64 * l + a % 64 := by omega
        have hlt : a % 64 < (lostLine draw l).length := by simp only [lostLine, List.length_map, List.length_range]; omega
        have hb : memRead (memPut m (64 * l) (lostLine draw l)) a = Config.lostByte draw a := by
          conv_lhs => rw [ha]
          rw [memRead_memPut_inside h hlt, List.getD_eq_getElem _ _ hlt]
          simp only [lostLine, List.getElem_map, List.getElem_range, ← ha]
        simp [hl, hb]
      · have ho : a < 64 * l ∨ 64 * l + (lostLine draw l).length ≤ a := by simp only [lostLine, List.length_map, List.length_range]; omega
        simp [hr, hl, memRead_memPut_outside h ho]

/-! ### Module reset -/

/-- What a module reset leaves of the state before it. -/
theorem resetModule_eq (s : State) : resetModule s =
    { State.reset with mem := (resetModule s).mem, poison := (resetModule s).poison, lineKey := s.lineKey, out := s.out, tick := s.tick, draw := s.draw + 1,
                       ids := s.ids, agenda := s.agenda, hernus := { Hernus.reset with minSvn := s.hernus.minSvn, keys := s.hernus.keys } } := by
  unfold resetModule
  rw [loseLines_eq]

theorem resetModule_poison (s : State) : (resetModule s).poison = s.poison.filter fun g => decide (64 * g < 2 ^ 48) := by
  unfold resetModule
  rw [loseLines_eq]

/-- What memory holds after a module reset: HBM4E and the host's memory, but for dirty lines of HBM4E, and nothing of the module's own stores. -/
theorem memRead_resetModule {s : State} (h : Memory.wf s.mem = true) (a : Nat) : memRead (resetModule s).mem a =
    if a < 2 ^ 48 ∧ (a / 64 ∉ s.dirty ∨ 0x8000000000 ≤ a) then memRead s.mem a else if a < 2 ^ 48 then Config.lostByte s.draw a else 0#8 := by
  have hw := loseLines_wf (lines := s.dirty.filter fun l => isHbm (64 * l)) h
  have hm : (resetModule s).mem = (loseLines s (s.dirty.filter fun l => isHbm (64 * l))).mem.filter fun c => decide (c.1 < 2 ^ 48) := rfl
  rw [hm, memRead_filter (p := fun x => decide (x < 2 ^ 48)) hw, loseLines_eq]
  dsimp only
  rw [memRead_lostMem h]
  have hl : a / 64 ∈ s.dirty.filter (fun l => isHbm (64 * l)) ↔ a / 64 ∈ s.dirty ∧ ¬0x8000000000 ≤ a := by
    simp only [List.mem_filter, isHbm, decide_eq_true_eq]
    exact and_congr_right fun _ => by omega
  simp only [hl, decide_eq_true_eq]
  split_ifs <;> tauto

/-- A module reset under power, whatever brings it. -/
theorem exec_reset {s : State} {i : Instr} (hi : exec i s = .next (resetModule s)) : ∃ t, exec i s = .next t ∧
    t = { State.reset with mem := t.mem, poison := t.poison, lineKey := s.lineKey, out := s.out, tick := s.tick, draw := s.draw + 1, ids := s.ids,
                           agenda := s.agenda, hernus := { Hernus.reset with minSvn := s.hernus.minSvn, keys := s.hernus.keys } } ∧
    (∀ g, g ∈ t.poison ↔ g ∈ s.poison ∧ 64 * g < 2 ^ 48) ∧
    (MemoryOk s → ∀ a, memRead t.mem a =
      if a < 2 ^ 48 ∧ (a / 64 ∉ s.dirty ∨ 0x8000000000 ≤ a) then memRead s.mem a else if a < 2 ^ 48 then Config.lostByte s.draw a else 0#8) := by
  refine ⟨resetModule s, hi, resetModule_eq s, fun g => ?_, fun h a => memRead_resetModule h a⟩
  rw [resetModule_poison, List.mem_filter, decide_eq_true_eq]

/-- A loss of power leaves the host's memory and its poison. -/
theorem exec_moduleReset_unpowered {s : State} (hp : Config.powerHeld s.tick = false) : ∃ t, exec .moduleReset s = .next t ∧
    t = { State.reset with mem := t.mem, poison := t.poison, out := s.out, tick := s.tick, draw := s.draw + 1, ids := s.ids, agenda := s.agenda,
                           hernus := { Hernus.reset with minSvn := s.hernus.minSvn, keys := s.hernus.keys } } ∧
    (∀ g, g ∈ t.poison ↔ g ∈ s.poison ∧ 2 ^ 47 ≤ 64 * g ∧ 64 * g < 2 ^ 48) ∧
    (MemoryOk s → ∀ a, memRead t.mem a = if 2 ^ 47 ≤ a ∧ a < 2 ^ 48 then memRead s.mem a else 0#8) := by
  refine ⟨losePower (resetModule s), ?_, ?_, fun g => ?_, fun h a => ?_⟩
  · show exec .moduleReset s = _
    have he : exec .moduleReset s = .next (if Config.powerHeld s.tick then resetModule s else losePower (resetModule s)) := rfl
    rw [he, hp]
    rfl
  · unfold losePower
    rw [resetModule_eq]
    rfl
  · have hg : (losePower (resetModule s)).poison = (resetModule s).poison.filter fun g => decide (2 ^ 47 ≤ 64 * g) := rfl
    rw [hg, resetModule_poison]
    simp only [List.mem_filter, decide_eq_true_eq]
    tauto
  · have hm : (losePower (resetModule s)).mem = (resetModule s).mem.filter fun c => decide (2 ^ 47 ≤ c.1) := rfl
    have hw : Memory.wf (resetModule s).mem = true := resetModule_wf h
    rw [hm, memRead_filter (p := fun x => decide (2 ^ 47 ≤ x)) hw, memRead_resetModule h]
    simp only [decide_eq_true_eq]
    split_ifs <;> first | rfl | omega

/-! ### The boot -/

theorem asciiText_length (l : List Byte) : (asciiText l).length = 48 := by
  unfold asciiText
  simp only [List.length_append, List.length_replicate, List.length_take]
  omega

/-- The word in BOOTSTAT after the boot has ended at stage k. -/
theorem bootFailed_word {k : Nat} (hk : k < 256) : let w : W32 := 0x40000000#32 ||| BitVec.ofNat 32 (k % 256)
    w.getLsbD 31 = false ∧ w.getLsbD 30 = true ∧ w.toNat % 2 ^ 30 = k := by
  have hm : k % 256 = k := Nat.mod_eq_of_lt hk
  have hbit (j : Nat) (hj : 8 ≤ j) : (BitVec.ofNat 32 k).getLsbD j = false := by
    simp [BitVec.getLsbD_ofNat, Nat.testBit_lt_two_pow (Nat.lt_of_lt_of_le hk (Nat.pow_le_pow_right (by decide) hj : 2 ^ 8 ≤ 2 ^ j))]
  rw [hm]
  refine ⟨?_, ?_, ?_⟩
  · rw [BitVec.getLsbD_or, hbit 31 (by decide)]
    rfl
  · rw [BitVec.getLsbD_or, hbit 30 (by decide)]
    rfl
  · rw [BitVec.toNat_or, BitVec.toNat_ofNat, BitVec.toNat_ofNat, Nat.or_mod_two_pow]
    have hz : 0x40000000 % 2 ^ 32 % 2 ^ 30 = 0 := by decide
    rw [hz, Nat.zero_or]
    omega

theorem stageOk_iff {h : Hernus} {x : Stage} : stageOk h x = true ↔
    sha3 x.key = Config.fusedKey ∧ sha3 x.body = x.digest ∧ Config.verifies x.key x.digest x.sig = true ∧ max Config.fusedSvn h.minSvn ≤ x.svn := by
  simp only [stageOk, Bool.and_eq_true, beq_iff_eq, and_assoc]
  exact and_congr_right fun _ => and_congr_right fun _ => and_congr_right fun _ => decide_eq_true_iff

theorem bootStages_cons (h : Hernus) (k : Nat) (x : Stage) (r : List Stage) :
    let passes : Prop := sha3 x.key = Config.fusedKey ∧ sha3 x.body = x.digest ∧ Config.verifies x.key x.digest x.sig = true ∧ max Config.fusedSvn h.minSvn ≤ x.svn
    (passes → h.log.length < 1024 → ∃ text, text.length = 48 ∧ bootStages h k (x :: r) =
      bootStages { h with mr := sha3 (h.mr ++ x.digest), log := h.log ++ [⟨0, x.svn, x.digest, text⟩], svn := x.svn } (k + 1) r) ∧
    (¬passes → k < 256 → ∃ w, bootStages h k (x :: r) = { h with bootstat := w } ∧ w.getLsbD 31 = false ∧ w.getLsbD 30 = true ∧ w.toNat % 2 ^ 30 = k) ∧
    (k ≠ 1 → bootStages h k [] = { h with bootstat := 0x80000000#32 }) := by
  refine ⟨fun hp hroom => ⟨_, asciiText_length (List.ofFn (Config.logText h.log.length)), ?_⟩, fun hp hk => ⟨_, ?_, bootFailed_word hk⟩, fun hk => ?_⟩
  · have hs : (stageOk h x && h.room) = true := by simp [stageOk_iff.mpr hp, Hernus.room, hroom]
    rw [bootStages, if_pos hs]
    rfl
  · have hs : ¬(stageOk h x && h.room) = true := fun hc => hp (stageOk_iff.mp (Bool.and_eq_true _ _ ▸ hc).1)
    rw [bootStages, if_neg hs]
  · rw [bootStages, if_neg (by simpa using hk)]

end Sys2Proof.Machine
end

section
/-! O60, part 2: what a store depends on and changes, and the end of a context. -/

namespace Sys2Proof.Machine

/-! ### What a store depends on, and what it changes -/

/-- Two states with the same byte stores. -/
structure SameBytes (s t : State) : Prop where
  mem : t.mem = s.mem
  lineKey : t.lineKey = s.lineKey
  dirty : t.dirty = s.dirty
  poison : t.poison = s.poison

theorem SameBytes.keyedByte {s t : State} (h : SameBytes s t) (key a : Nat) : keyedByte t key a = keyedByte s key a := by
  simp only [Machine.keyedByte, h.mem, h.lineKey]

theorem SameBytes.keyedBytes {s t : State} (h : SameBytes s t) (key : Nat) : ∀ {n a : Nat}, keyedBytes t key a n = keyedBytes s key a n := by
  intro n
  induction n with
  | zero => intro a; rfl
  | succ n ih => intro a; simp only [Machine.keyedBytes, h.keyedByte, ih]

theorem SameBytes.rekey {s t : State} (h : SameBytes s t) (key line : Nat) : SameBytes (rekey s key line) (rekey t key line) := by
  unfold Machine.rekey
  rw [h.lineKey, h.keyedBytes, h.mem]
  generalize memPut s.mem (line * 64) (Machine.keyedBytes s key (line * 64) 64) = m
  split
  · split
    · split
      · exact h
      · exact ⟨rfl, rfl, h.dirty, h.poison⟩
    · exact ⟨rfl, rfl, h.dirty, h.poison⟩
  · exact h

theorem SameBytes.touchLines {key n : Nat} : ∀ {s t : State} {line : Nat}, SameBytes s t → SameBytes (touchLines s key line n) (touchLines t key line n) := by
  induction n with
  | zero => exact id
  | succ n ih =>
    intro s t line h
    have hr := h.rekey key line
    refine ih ?_
    split
    · exact ⟨hr.mem, hr.lineKey, congrArg (fun d => addOnce d line) hr.dirty, hr.poison⟩
    · exact hr

theorem SameBytes.storeAt {s t : State} (h : SameBytes s t) (key a : Nat) (b : List Byte) : SameBytes (storeAt s key a b) (storeAt t key a b) := by
  have ht := h.touchLines (key := key) (line := a / 64) (n := if b.isEmpty then 0 else (a + b.length - 1) / 64 - a / 64 + 1)
  exact ⟨congrArg (fun m => memPut m a b) ht.mem, ht.lineKey, ht.dirty, congrArg (fun p => clearCovered p _ _ _ _) ht.poison⟩

theorem onlyBytes_refl (s : State) : OnlyBytes s s := rfl

theorem onlyBytes_trans {s t u : State} (h : OnlyBytes s t) (k : OnlyBytes t u) : OnlyBytes s u := by
  unfold OnlyBytes at *
  rw [k, h]

theorem rekey_onlyBytes (s : State) (key line : Nat) : OnlyBytes s (rekey s key line) := by
  unfold OnlyBytes rekey
  generalize memPut s.mem (line * 64) (keyedBytes s key (line * 64) 64) = m
  split
  · split
    · split <;> rfl
    · rfl
  · rfl

theorem touchLines_onlyBytes {key n : Nat} : ∀ {s : State} {line : Nat}, OnlyBytes s (touchLines s key line n) := by
  induction n with
  | zero => exact fun {s _} => onlyBytes_refl s
  | succ n ih =>
    intro s line
    refine onlyBytes_trans (rekey_onlyBytes s key line) (onlyBytes_trans ?_ ih)
    split
    · rfl
    · rfl

theorem storeAt_onlyBytes (s : State) (key a : Nat) (b : List Byte) : OnlyBytes s (storeAt s key a b) :=
  onlyBytes_trans touchLines_onlyBytes rfl

theorem SameBytes.imagePut {s t : State} (h : SameBytes s t) (c : Context) (o : Nat) (b : List Byte) : SameBytes (imagePut s c o b) (imagePut t c o b) := by
  unfold Machine.imagePut
  split
  · exact h
  · extract_lets n s1 t1
    have h1 : SameBytes s1 t1 := by
      dsimp only [s1, t1]
      split
      · exact h
      · exact h.storeAt _ _ _
    split
    · exact h1
    · exact h1.storeAt _ _ _

theorem imagePut_onlyBytes (s : State) (c : Context) (o : Nat) (b : List Byte) : OnlyBytes s (imagePut s c o b) := by
  unfold imagePut
  split
  · rfl
  · extract_lets n t
    have ht : OnlyBytes s t := by
      dsimp only [t]
      split
      · rfl
      · exact storeAt_onlyBytes _ _ _ _
    split
    · exact ht
    · exact onlyBytes_trans ht (storeAt_onlyBytes _ _ _ _)

/-- An image is written by its owner's key and place; nothing else of the context matters. -/
theorem imagePut_congr {s : State} {c d : Context} (hk : d.key = c.key) (hb : d.imageBase = c.imageBase) (hs : d.imageSize = c.imageSize)
    (ho : d.owner = c.owner) (o : Nat) (b : List Byte) : imagePut s d o b = imagePut s c o b := by
  have hh : imageHole d (o + b.length) = imageHole c (o + b.length) := by unfold imageHole; rw [hb, hs]
  have hp (i : Nat) : imagePlace d i = imagePlace c i := by unfold imagePlace; rw [hb, hs, ho]
  unfold imagePut
  rw [hh, hs, hk]
  simp only [hp]

/-! ### The end of a context -/

/-- Each node of a context that has ended is finished, but for one whose grid has still to retire (R47, R354). -/
theorem endContext_nodes {s : State} {owner code st : Nat} {x : Stream} (hx : x ∈ (endContext s owner code st).streams.toList) (ho : x.owner.toNat = owner) :
    ∀ m ∈ x.nodes, (∃ w, m.status = .finished w) ∨ gridRuns (endContext s owner code st) m = true := by
  unfold endContext at hx
  extract_lets _ _ _ _ s3 s4 at hx
  have hx : x ∈ s4.streams.toList := hx
  have hg : ∀ n, gridRuns (endContext s owner code st) n = gridRuns s3 n := fun _ => rfl
  simp only [s4, Vector.toList_map, List.mem_map] at hx
  obtain ⟨y, _, rfl⟩ := hx
  intro m hm
  by_cases hy : (y.owner.toNat == owner) = true
  · rw [if_pos hy] at hm
    obtain ⟨n, _, rfl⟩ := List.mem_map.mp hm
    rw [hg]
    split
    · next w' hw => exact .inl ⟨w', hw⟩
    · split
      · next hr => exact .inr hr
      · exact .inl ⟨_, rfl⟩
  · rw [if_neg hy] at ho
    exact absurd (beq_iff_eq.mpr ho) hy

theorem endContext_dead {s : State} {owner code st : Nat} {c : Context} (hc : c ∈ (endContext s owner code st).owners) (ho : c.owner = owner) : c.dead = true := by
  unfold endContext at hc
  extract_lets at hc
  obtain ⟨x, _, rfl⟩ := List.mem_map.mp hc
  by_cases hx : (x.owner == owner) = true
  · rw [if_pos hx]
  · rw [if_neg hx] at ho
    exact absurd (beq_iff_eq.mpr ho) hx

end Sys2Proof.Machine
end

section
/-! O60, part 3: contexts changed wherever they stand, and what a function-level reset clears. -/

namespace Sys2Proof.Machine

/-! ### Contexts changed wherever they stand -/

theorem find_replaceIf_owner {l : List Context} {n m : Nat} {f : Context → Context} (hf : ∀ c, (f c).owner = c.owner) :
    (replaceIf l (·.owner == n) f).find? (·.owner == m) = (l.find? (·.owner == m)).map fun c => if c.owner == n then f c else c := by
  have ho : ((·.owner == m) ∘ fun c : Context => if c.owner == n then f c else c) = fun c => c.owner == m := by
    funext c
    simp only [Function.comp]
    split
    · rw [hf]
    · rfl
  rw [replaceIf, List.find?_map, ho]

/-- What a change of contexts leaves alone reads as it did in every context. -/
theorem ctxOf_mapCtx_unchanged {α : Type} {g : Context → α} {s : State} {n m : Nat} {f : Context → Context}
    (hf : ∀ c, (f c).owner = c.owner) (hg : ∀ c, g (f c) = g c) : g ((s.mapCtx n f).ctxOf m) = g (s.ctxOf m) := by
  have hsame (c : Context) : g (if c.owner == n then f c else c) = g c := by
    split
    · exact hg c
    · rfl
  have howner : (if s.ctx.owner == n then f s.ctx else s.ctx).owner = s.ctx.owner := by
    split
    · exact hf _
    · rfl
  unfold State.ctxOf State.mapCtx
  dsimp only
  rw [howner, find_replaceIf_owner hf]
  show g (if (s.focused && s.ctx.owner == m) = true then _ else _) = g (if (s.focused && s.ctx.owner == m) = true then _ else _)
  split
  · split
    · exact hg _
    · rfl
  · cases s.owners.find? (·.owner == m) with
    | none => rfl
    | some c => exact hsame c

/-! ### Function-level resets -/

theorem fnVisible_iff {s : State} {fn : Nat} : fnVisible s fn = true ↔ s.linkUp = true ∧ fn ≤ 32 ∧ (fn = 0 ∨ fn ≤ s.vfs) := by
  simp [fnVisible, and_assoc]

/-- The test by which an event of a VF is passed over. -/
theorem unseen_iff {s : State} {fn : Nat} : (fn == 0 || !fnVisible s fn) = true ↔ ¬(s.linkUp = true ∧ fn ≤ 32 ∧ fn ≠ 0 ∧ fn ≤ s.vfs) := by
  rw [Bool.or_eq_true, beq_iff_eq, Bool.not_eq_true', ← Bool.not_eq_true, fnVisible_iff]
  tauto

/-- A function's registers as a function-level reset leaves them. -/
def Context.flrReset (c : Context) : Context :=
  { c with ptbr := 0#33, fq := Ring.reset, nr := Ring.reset, mr := Ring.reset, ms := Ring.reset, sends := [], cmd := Vector.replicate 4 0#32, cmdgo := 0#32,
           queues := [], gtbase := 0#64, gtcount := 0#32, winbase := 0#64, winload := 0#32, slsel := Vector.replicate 4 0#32, slcnt := [], held := [] }

/-- The counts that an image holds cleared in it, under a context and its layout. -/
def clearImage (s : State) (c : Context) : State := c.image.dies.foldl (fun t d => imagePut t c d.2 (List.replicate 2048 0#8)) s

theorem execFunctionLevelReset_seen {s : State} {fn : Nat} (h : s.linkUp = true ∧ fn ≤ 32 ∧ fn ≠ 0 ∧ fn ≤ s.vfs) :
    exec (.functionLevelReset fn) s = .next (emptyStreams (clearCounts ((endContext s fn 0 0x200).mapCtx fn Context.flrReset) fn) fn) := by
  show execFunctionLevelReset fn s = _
  unfold execFunctionLevelReset
  rw [if_neg fun hu => unseen_iff.mp hu h]
  rfl

theorem imagePuts_sameBytes {c : Context} {l : List (Nat × Nat)} {b : List Byte} : ∀ {s t : State}, SameBytes s t →
    SameBytes (l.foldl (fun t d => imagePut t c d.2 b) s) (l.foldl (fun t d => imagePut t c d.2 b) t) := by
  induction l with
  | nil => exact id
  | cons d r ih => exact fun h => ih (h.imagePut c d.2 b)

theorem imagePuts_onlyBytes {c : Context} {l : List (Nat × Nat)} {b : List Byte} : ∀ {s : State}, OnlyBytes s (l.foldl (fun t d => imagePut t c d.2 b) s) := by
  induction l with
  | nil => exact fun {s} => onlyBytes_refl s
  | cons d r ih => exact onlyBytes_trans (imagePut_onlyBytes _ c d.2 b) ih

/-- Clearing an image changes the same bytes whatever contexts and streams stand beside them. -/
theorem clearCounts_mapCtx (s : State) (fn : Nat) : ∃ t, clearCounts (s.mapCtx fn Context.flrReset) fn = t ∧
    t = { clearImage s (s.ctxOf fn) with owners := (s.mapCtx fn Context.flrReset).owners, ctx := (s.mapCtx fn Context.flrReset).ctx } := by
  refine ⟨_, rfl, ?_⟩
  have hc : clearCounts (s.mapCtx fn Context.flrReset) fn = clearImage (s.mapCtx fn Context.flrReset) (s.ctxOf fn) := by
    have hp {α : Type} {g : Context → α} (hg : ∀ c, g (Context.flrReset c) = g c) :=
      ctxOf_mapCtx_unchanged (s := s) (n := fn) (m := fn) (f := Context.flrReset) (fun _ => rfl) hg
    unfold clearCounts clearImage
    dsimp only
    rw [hp (g := (·.image)) fun _ => rfl]
    congr 1
    funext t d
    exact imagePut_congr (hp (g := (·.key)) fun _ => rfl) (hp (g := (·.imageBase)) fun _ => rfl) (hp (g := (·.imageSize)) fun _ => rfl)
      (hp (g := (·.owner)) fun _ => rfl) _ _
  have hsame : SameBytes (clearImage s (s.ctxOf fn)) (clearImage (s.mapCtx fn Context.flrReset) (s.ctxOf fn)) := imagePuts_sameBytes ⟨rfl, rfl, rfl, rfl⟩
  have hold : OnlyBytes s (clearImage s (s.ctxOf fn)) := imagePuts_onlyBytes
  have hnew : OnlyBytes (s.mapCtx fn Context.flrReset) (clearImage (s.mapCtx fn Context.flrReset) (s.ctxOf fn)) := imagePuts_onlyBytes
  obtain ⟨hm, hk, hd, hp⟩ := hsame
  rw [hc, hnew, hm, hk, hd, hp]
  generalize clearImage s (s.ctxOf fn) = u at hold ⊢
  rw [hold]
  rfl

end Sys2Proof.Machine
end

section
/-! O60, part 4: events of a function, of the boot and of power, and the counters of a context. -/

namespace Sys2Proof.Machine

theorem emptyStreams_stream {s : State} {fn k : Nat} : (emptyStreams s fn).stream k =
    if k < 64 ∧ (s.stream k).owner.toNat = fn then { Stream.reset with owner := (s.stream k).owner } else s.stream k := by
  by_cases hk : k < 64
  · simp [State.stream, emptyStreams, Vector.getD, hk]
  · simp [State.stream, emptyStreams, Vector.getD, hk]

/-- The streams that a function-level reset leaves: those of the function empty, every other one as it was. -/
theorem emptyStreams_spec {s : State} {fn : Nat} (h : fn ≤ 32) :
    (∀ k, (s.stream k).owner.toNat = fn → (emptyStreams s fn).stream k = { Stream.reset with owner := (s.stream k).owner }) ∧
    (∀ k, (s.stream k).owner.toNat ≠ fn → (emptyStreams s fn).stream k = s.stream k) := by
  refine ⟨fun k hk => ?_, fun k hk => ?_⟩
  · have hlt : k < 64 := by
      by_contra hn
      have ho : s.stream k = Stream.reset := by simp [State.stream, Vector.getD, hn]
      rw [ho] at hk
      exact absurd hk (by show (0x3F#6 : BitVec 6).toNat ≠ fn; simp; omega)
    rw [emptyStreams_stream, if_pos ⟨hlt, hk⟩]
  · rw [emptyStreams_stream, if_neg fun hc => hk hc.2]

theorem replaceIf_filter_other {l : List Context} {n : Nat} {f : Context → Context} (hf : ∀ c, (f c).owner = c.owner) :
    (replaceIf l (·.owner == n) f).filter (fun c => c.owner != n) = l.filter fun c => c.owner != n := by
  induction l with
  | nil => rfl
  | cons c r ih =>
    have hcons : replaceIf (c :: r) (·.owner == n) f = (if c.owner == n then f c else c) :: replaceIf r (·.owner == n) f := rfl
    rw [hcons]
    by_cases hc : c.owner = n
    · simp [hf, hc, ih]
    · simp [hc, ih]

/-- What a function-level reset of a visible VF leaves (R354, R385). -/
theorem exec_functionLevelReset {s : State} {fn : Nat} (h : s.linkUp = true ∧ fn ≤ 32 ∧ fn ≠ 0 ∧ fn ≤ s.vfs) :
    let ended : State := endContext s fn 0 0x200
    let cleared : State := (ended.ctxOf fn).image.dies.foldl (fun t d => imagePut t (ended.ctxOf fn) d.2 (List.replicate 2048 0#8)) ended
    ∃ t, exec (.functionLevelReset fn) s = .next t ∧ t = { cleared with owners := t.owners, ctx := t.ctx, streams := t.streams } ∧
      (∀ k, (ended.stream k).owner.toNat = fn → t.stream k = { Stream.reset with owner := (ended.stream k).owner }) ∧
      (∀ k, (ended.stream k).owner.toNat ≠ fn → t.stream k = ended.stream k) ∧
      t.owners.filter (fun c => c.owner != fn) = ended.owners.filter (fun c => c.owner != fn) ∧
      ∀ c ∈ t.owners, c.owner = fn → c.ptbr = 0#33 ∧ c.fq = Ring.reset ∧ c.nr = Ring.reset ∧ c.mr = Ring.reset ∧ c.ms = Ring.reset ∧ c.sends = [] ∧
        c.queues = [] ∧ c.cmdgo = 0#32 ∧ c.gtbase = 0#64 ∧ c.gtcount = 0#32 ∧ c.winbase = 0#64 ∧ c.winload = 0#32 ∧
        c.slsel = Vector.replicate 4 0#32 ∧ c.slcnt = [] ∧ c.held = [] ∧ c.dead = true := by
  intro ended cleared
  obtain ⟨u, hu, hform⟩ := clearCounts_mapCtx ended fn
  have hcleared : clearImage ended (ended.ctxOf fn) = cleared := rfl
  rw [hcleared] at hform
  have hstreams : ∀ k, u.stream k = ended.stream k := by
    have hb : OnlyBytes ended cleared := imagePuts_onlyBytes
    intro k
    rw [State.stream, hform, hb]
    rfl
  have howners : u.owners = replaceIf ended.owners (·.owner == fn) Context.flrReset := by rw [hform]; rfl
  obtain ⟨hmine, hother⟩ := emptyStreams_spec (s := u) h.2.1
  refine ⟨emptyStreams u fn, ?_, ?_, fun k hk => ?_, fun k hk => ?_, ?_, fun c hc ho => ?_⟩
  · rw [execFunctionLevelReset_seen h, hu]
  · generalize cleared = v at hform
    subst hform
    rfl
  · rw [hmine k (by rw [hstreams]; exact hk), hstreams]
  · rw [hother k (by rw [hstreams]; exact hk), hstreams]
  · show u.owners.filter _ = _
    rw [howners, replaceIf_filter_other (f := Context.flrReset) fun _ => rfl]
  · have hc : c ∈ replaceIf ended.owners (·.owner == fn) Context.flrReset := howners ▸ hc
    obtain ⟨x, hx, rfl⟩ := List.mem_map.mp hc
    by_cases hxo : (x.owner == fn) = true
    · have hd : x.dead = true := endContext_dead hx (beq_iff_eq.mp hxo)
      rw [if_pos hxo]
      exact ⟨rfl, rfl, rfl, rfl, rfl, rfl, rfl, rfl, rfl, rfl, rfl, rfl, rfl, rfl, rfl, hd⟩
    · rw [if_neg hxo] at ho
      exact absurd (beq_iff_eq.mpr ho) hxo

/-- TDISP ERROR, and the events of a function that the link does not show. -/
theorem exec_tdiError {s : State} {fn : Nat} (h : s.linkUp = true ∧ fn ≤ 32 ∧ fn ≠ 0 ∧ fn ≤ s.vfs) :
    exec (.tdiError fn) s = .next (endContext s fn 0 0x200) := by
  show execTdiError fn s = _
  unfold execTdiError
  rw [if_neg fun hu => unseen_iff.mp hu h]
  rfl

theorem exec_unseen {s : State} {fn : Nat} (h : ¬(s.linkUp = true ∧ fn ≤ 32 ∧ fn ≠ 0 ∧ fn ≤ s.vfs)) :
    exec (.functionLevelReset fn) s = .next s ∧ exec (.tdiError fn) s = .next s := by
  refine ⟨?_, ?_⟩
  · show execFunctionLevelReset fn s = _
    unfold execFunctionLevelReset
    rw [if_pos (unseen_iff.mpr h)]
  · show execTdiError fn s = _
    unfold execTdiError
    rw [if_pos (unseen_iff.mpr h)]

/-! ### The boot, the link, throttling and patrol scrubs -/

theorem exec_hernusBoot (s : State) :
    exec .hernusBoot s = .next (if s.hernus.bootstat = 0#32 then { s with hernus := bootStages s.hernus 1 Config.stages } else s) := by
  show execHernusBoot s = _
  unfold execHernusBoot
  simp only [beq_iff_eq]

theorem exec_linkTraining (s : State) : exec .linkTraining s = .next { s with linkUp := s.linkUp || s.hernus.bootstat != 0#32 } := by
  show execLinkTraining s = _
  unfold execLinkTraining
  by_cases hb : s.hernus.bootstat = 0#32
  · simp [hb]
  · simp [hb]

theorem exec_hbmPatrolScrub {s : State} {pa : Nat} (h : pa < 0x8000000000) :
    let stack := 2 * (pa / 2 ^ 37 % 4) + pa / 2 ^ 8 % 2
    exec (.hbmPatrolScrub pa) s = .next { s with
      errStack := s.errStack.setIfInBounds stack (BitVec.ofNat 32 (min (2 ^ 32 - 1) ((s.errStack.getD stack 0#32).toNat + Config.corrected s.tick))) } := by
  show execHbmPatrolScrub pa s = _
  unfold execHbmPatrolScrub
  dsimp only
  rw [if_pos (show isHbm pa = true from decide_eq_true h)]
  rfl

/-! ### Counters -/

theorem exec_counterCarry {s : State} {owner kind unit n : Nat}
    (hu : ∃ u ∈ cycleUnits s owner, u.1 = kind ∧ u.2.2.1 = unit ∧ roomOf (s.ctxOf owner) u n = some 0) (hr : isResident s owner = true) :
    exec (.counterCarry owner kind unit n) s = .next (passClocks s 1 1) := by
  obtain ⟨u, hmem, hk, hunit, hroom⟩ := hu
  have hany : ((cycleUnits s owner).any fun u => u.1 == kind && u.2.2.1 == unit && roomOf (s.ctxOf owner) u n == some 0) = true :=
    List.any_eq_true.mpr ⟨u, hmem, by simp [hk, hunit, hroom]⟩
  show execCounterCarry owner kind unit n s = _
  unfold execCounterCarry
  dsimp only
  rw [hr, hany]
  rfl

theorem selCounts_iff {sel : W32} {ev : Nat} :
    selCounts sel ev = true ↔ sel.getLsbD 31 = true ∧ sel.getLsbD 29 = false ∧ sel.toNat % 256 = ev ∧ ev ≠ 0 := by
  simp [selCounts, and_assoc]

theorem counterOf_unit (l : List Counter) (unit n : Nat) : (counterOf l unit n).unit = unit ∧ (counterOf l unit n).n = n := by
  unfold counterOf
  cases h : l.find? fun x => x.unit == unit && x.n == n with
  | none => exact ⟨rfl, rfl⟩
  | some x =>
    have hx := List.find?_some h
    simpa using hx

/-- What a counter put back reads as. -/
theorem counterOf_putCounter_same {l : List Counter} {x : Counter} : counterOf (putCounter l x) x.unit x.n = x := by
  have hb : (l.filter fun y => decide (4 * y.unit + y.n < 4 * x.unit + x.n)).find? (fun y => y.unit == x.unit && y.n == x.n) = none := by
    rw [List.find?_eq_none]
    intro y hy hxy
    have hlt := of_decide_eq_true (List.mem_filter.mp hy).2
    simp only [Bool.and_eq_true, beq_iff_eq] at hxy
    omega
  have ha : (l.filter fun y => decide (4 * x.unit + x.n < 4 * y.unit + y.n)).find? (fun y => y.unit == x.unit && y.n == x.n) = none := by
    rw [List.find?_eq_none]
    intro y hy hxy
    have hlt := of_decide_eq_true (List.mem_filter.mp hy).2
    simp only [Bool.and_eq_true, beq_iff_eq] at hxy
    omega
  unfold counterOf putCounter
  dsimp only
  rw [List.find?_append, List.find?_append, hb, ha]
  by_cases hz : (x.count == 0#48 && !x.ovf && x.frac == 0) = true
  · rw [if_pos hz]
    simp only [Bool.and_eq_true, beq_iff_eq, Bool.not_eq_true'] at hz
    obtain ⟨⟨hc, ho⟩, hf⟩ := hz
    obtain ⟨xu, xn, xc, xo, xf⟩ := x
    simp_all
  · rw [if_neg hz]
    simp

/-- A counter put back leaves every other one as it was. -/
theorem counterOf_putCounter_other {l : List Counter} {x : Counter} {j m : Nat} (hx : x.n < 4) (hm : m < 4) (hne : (j, m) ≠ (x.unit, x.n)) :
    counterOf (putCounter l x) j m = counterOf l j m := by
  have hkey : 4 * j + m ≠ 4 * x.unit + x.n := by
    intro h
    exact hne (by rw [show j = x.unit by omega, show m = x.n by omega])
  have hxm : ((if x.count == 0#48 && !x.ovf && x.frac == 0 then [] else [x]).find? fun y => y.unit == j && y.n == m) = none := by
    rw [List.find?_eq_none]
    intro y hy hyj
    have hyx : y = x := by
      split at hy
      · exact absurd hy List.not_mem_nil
      · exact List.mem_singleton.mp hy
    subst hyx
    simp only [Bool.and_eq_true, beq_iff_eq] at hyj
    omega
  have hfilter (p : Counter → Bool) (v : Bool) (hp : ∀ y : Counter, y.unit = j → y.n = m → p y = v) :
      (l.filter p).find? (fun y => y.unit == j && y.n == m) = if v then l.find? (fun y => y.unit == j && y.n == m) else none := by
    induction l with
    | nil => cases v <;> rfl
    | cons y r ih =>
      by_cases hy : (y.unit == j && y.n == m) = true
      · have hpy : p y = v := by
          simp only [Bool.and_eq_true, beq_iff_eq] at hy
          exact hp y hy.1 hy.2
        cases v with
        | true => simp [hpy, hy]
        | false => simpa [hpy, hy] using ih
      · by_cases hpy : p y = true
        · simp only [List.filter_cons, hpy, if_true, List.find?_cons, hy, ih]
        · simp only [List.filter_cons, hpy, List.find?_cons, hy]
          exact ih
  unfold counterOf putCounter
  dsimp only
  rw [List.find?_append, List.find?_append, hxm]
  rcases Nat.lt_or_gt_of_ne hkey with hlt | hgt
  · rw [hfilter _ true (fun y hu hn => by subst hu hn; exact decide_eq_true hlt), hfilter _ false (fun y hu hn => by subst hu hn; exact decide_eq_false (by omega))]
    simp
  · rw [hfilter _ false (fun y hu hn => by subst hu hn; exact decide_eq_false (by omega)), hfilter _ true (fun y hu hn => by subst hu hn; exact decide_eq_true hgt)]
    simp

end Sys2Proof.Machine
end

section
/-! O60, part 5: carries and their notices, and what a world switch saves of a team and its pods. -/

namespace Sys2Proof.Machine

/-- What a counter that counts does to its context: the counter as it stands then, and its select register. -/
def Context.counted (kind n : Nat) (x : Counter) (sel : W32) (c : Context) : Context :=
  if kind == 0 then { c with cnt := putCounter c.cnt x, cntsel := c.cntsel.setIfInBounds n sel }
  else { c with slcnt := putCounter c.slcnt x, slsel := c.slsel.setIfInBounds n sel }

theorem counted_owner (kind n : Nat) (x : Counter) (sel : W32) (c : Context) : (c.counted kind n x sel).owner = c.owner := by
  unfold Context.counted
  split <;> rfl

theorem counted_list (kind n : Nat) (x : Counter) (sel : W32) (c : Context) :
    (if kind = 0 then (c.counted kind n x sel).cnt else (c.counted kind n x sel).slcnt) = putCounter (if kind = 0 then c.cnt else c.slcnt) x := by
  by_cases hk : kind = 0
  · simp [Context.counted, hk]
  · simp [Context.counted, hk]

theorem selOf_counted {kind n j m : Nat} {x : Counter} {sel : W32} {c : Context} (hn : n < 4) :
    selOf (c.counted kind n x sel) j m = if (j = 0 ↔ kind = 0) ∧ m = n then sel else selOf c j m := by
  by_cases hm : m = n
  · subst hm
    by_cases hk : kind = 0 <;> by_cases hj : j = 0 <;> simp [Context.counted, selOf, hk, hj, hn, Vector.getD]
  · have hnm : n ≠ m := Ne.symm hm
    by_cases hk : kind = 0 <;> by_cases hj : j = 0 <;> simp [Context.counted, selOf, hk, hj, hm, hnm, Vector.getD]

/-- R371: one counter of a unit, of a context that counts the event: the low 48 bits of its sum, and what a carry sets and sends. -/
theorem countOne_spec (u : State) (o kind unit n ev amount scale : Nat) :
    let c := u.ctxOf o
    let sel := selOf c kind n
    let counts : Prop := sel.getLsbD 31 = true ∧ sel.getLsbD 29 = false ∧ sel.toNat % 256 = ev ∧ ev ≠ 0 ∧ amount ≠ 0 ∧ isResident u o = true
    let list (c : Context) : List Counter := if kind = 0 then c.cnt else c.slcnt
    let x := counterOf (list c) unit n
    let total := x.count.toNat + (x.frac + amount) / scale
    let carry := decide (2 ^ 48 ≤ total)
    let shown := if carry then sel ||| 0x40000000#32 else sel
    (¬counts → countOne u o kind unit n ev amount scale = u) ∧
    (counts → c.owner = o → c.created = true → n < 4 → ∃ (f : Context → Context) (v : State), v = u.mapCtx o f ∧ (f c).owner = o ∧
      counterOf (list (f c)) unit n = ⟨unit, n, BitVec.ofNat 48 total, x.ovf || carry, (x.frac + amount) % scale⟩ ∧
      (∀ j m, m < 4 → (j, m) ≠ (unit, n) → counterOf (list (f c)) j m = counterOf (list c) j m) ∧
      (∀ j m, selOf (f c) j m = if (j = 0 ↔ kind = 0) ∧ m = n then shown else selOf c j m) ∧
      countOne u o kind unit n ev amount scale = if carry = true ∧ sel.getLsbD 30 = false ∧ sel.getLsbD 28 = true then postNotice v o kind unit n shown else v) := by
  intro c sel counts list x total carry shown
  have hguard : (!selCounts sel ev || amount == 0 || !isResident u o) = true ↔ ¬counts := by
    simp only [counts, Bool.or_eq_true, Bool.not_eq_true', beq_iff_eq, ← Bool.not_eq_true, selCounts_iff]
    tauto
  have hlist (d : Context) : (if (kind == 0) = true then d.cnt else d.slcnt) = list d := by
    simp only [list, beq_iff_eq]
  let y : Counter := { x with count := BitVec.ofNat 48 total, ovf := x.ovf || carry, frac := (x.frac + amount) % scale }
  have hy : y = ⟨unit, n, BitVec.ofNat 48 total, x.ovf || carry, (x.frac + amount) % scale⟩ := by
    obtain ⟨hunit, hn⟩ := counterOf_unit (list c) unit n
    show (⟨x.unit, x.n, _, _, _⟩ : Counter) = _
    rw [show x.unit = unit from hunit, show x.n = n from hn]
  have hstep : countOne u o kind unit n ev amount scale =
      if (!selCounts sel ev || amount == 0 || !isResident u o) = true then u
      else if (carry && !sel.getLsbD 30 && sel.getLsbD 28) = true then postNotice (u.mapCtx o (Context.counted kind n y shown)) o kind unit n shown
      else u.mapCtx o (Context.counted kind n y shown) := by
    unfold countOne
    dsimp only
    rw [hlist]
    rfl
  refine ⟨fun h => ?_, fun h ho _ hn => ⟨Context.counted kind n y shown, _, rfl, ?_, ?_, fun j m hm hne => ?_, fun j m => selOf_counted hn, ?_⟩⟩
  · rw [hstep, if_pos (hguard.mpr h)]
  · rw [counted_owner, ho]
  · have hcl : list (c.counted kind n y shown) = putCounter (list c) y := counted_list kind n y shown c
    have hsame := counterOf_putCounter_same (l := list c) (x := y)
    rw [hcl]
    rw [hy] at hsame ⊢
    exact hsame
  · have hcl : list (c.counted kind n y shown) = putCounter (list c) y := counted_list kind n y shown c
    rw [hcl]
    exact counterOf_putCounter_other (by rw [hy]; exact hn) hm (by rw [hy]; exact hne)
  · rw [hstep, if_neg fun hc => hguard.mp hc h]
    simp only [Bool.and_eq_true, Bool.not_eq_true', and_assoc]

/-- R372: a notice and the counter vector of its owner; one that finds the ring full, or whose entry cannot be written, is lost. -/
theorem postNotice_spec (u w : State) (o kind unit n : Nat) (sel : BitVec 32) :
    let c := u.ctxOf o
    let entry := wordsBytes [BitVec.ofNat 32 (kind * 2 ^ 30 + unit * 2 ^ 20 + n * 2 ^ 18), BitVec.ofNat 32 c.notice, sel, 0#32]
    (c.nr.full = true → postNotice u o kind unit n sel = u) ∧
    (∀ x, c.nr.full = false → engineWrite u c (c.nr.entryAt c.nr.tail 16) entry = .error x →
      postNotice u o kind unit n sel = postRecord u (graphSite o 0#32 0#32) x) ∧
    (c.nr.full = false → engineWrite u c (c.nr.entryAt c.nr.tail 16) entry = .ok w → postNotice u o kind unit n sel =
      (let t := w.mapCtx o fun c => { c with nr := { c.nr with tail := c.nr.tail + 1#32 }, notice := c.notice + 1 }
       { t with out := t.out ++ [.msix o 1] })) := by
  refine ⟨fun hf => ?_, fun x hf hx => ?_, fun hf hw => ?_⟩
  · unfold postNotice
    dsimp only
    rw [if_pos hf]
  · unfold postNotice
    dsimp only
    rw [if_neg (by rw [hf]; exact Bool.false_ne_true), hx]
  · unfold postNotice
    dsimp only
    rw [if_neg (by rw [hf]; exact Bool.false_ne_true), hw]

/-! ### Saving an owner -/

theorem stopTeam_spec (s : State) (t : Team) :
    (stopTeam s t).sprout = none ∧ ∀ p ∈ (stopTeam s t).pods, ∃ q ∈ t.pods, ∃ u, p = stopPod u t.bars q := by
  refine ⟨rfl, fun p hp => ?_⟩
  obtain ⟨q, hq, rfl⟩ := List.mem_map.mp hp
  refine ⟨q, hq, ?_⟩
  split
  · next u _ => exact ⟨u, rfl⟩
  · exact ⟨s, rfl⟩

theorem requeue_spec (s : State) (o : Nat) : ∃ f : MatCmd → MatCmd, requeue s o = { s with mats := s.mats.map f } ∧
    ∀ m, f m = if matOwner s m = o ∧ m.begun = false then { m with started := false } else m := by
  refine ⟨_, rfl, fun m => ?_⟩
  simp only [Bool.and_eq_true, beq_iff_eq, Bool.not_eq_true']

theorem skipDone_of_done {s : State} {p : Pod} (h : p.skip = 0) (h2 : p.skip2 = 0) : skipDone s p = p := by
  have hw (w : Option (W32 × Option W32)) : skipWord p 0 w = p := by
    unfold skipWord
    rfl
  unfold skipDone
  dsimp only
  rw [h, hw, h2, hw]
  obtain ⟨⟩ := p
  simp_all

/-- An outstanding result writes lane registers, predicates and scalars, and nothing else of its pod. -/
def OnlyRegisters (p q : Pod) : Prop := q = { p with v := q.v, p := q.p, s := q.s }

theorem onlyRegisters_trans {p q r : Pod} (h : OnlyRegisters p q) (k : OnlyRegisters q r) : OnlyRegisters p r := by
  unfold OnlyRegisters at *
  rw [k, h]

theorem putLanes_onlyRegisters {m : Mask} {l : List LaneWord} : ∀ {p : Pod} {k : Nat}, OnlyRegisters p (p.putLanes m k l) := by
  induction l with
  | nil => intro p k; rfl
  | cons w r ih => exact fun {p k} => onlyRegisters_trans (show OnlyRegisters p (p.setLanes m k w) from rfl) ih

theorem deliver_onlyRegisters (p : Pod) (r : Result) : OnlyRegisters p (p.deliver r) := by
  cases r with
  | lanes m k vals => exact putLanes_onlyRegisters
  | pred m k w =>
    unfold OnlyRegisters Pod.deliver
    dsimp only
    rw [setPred_frame]
  | scalar k w => rfl

theorem delivers_onlyRegisters {l : List Pending} : ∀ {p : Pod}, OnlyRegisters p (l.foldl (fun q x => q.deliver x.res) p) := by
  induction l with
  | nil => intro p; rfl
  | cons x r ih => exact onlyRegisters_trans (deliver_onlyRegisters _ x.res) ih

/-- Every outstanding result delivered: the registers that they write, and nothing outstanding. -/
theorem deliverAll_eq (p : Pod) : p.deliverAll = { p with v := p.deliverAll.v, p := p.deliverAll.p, s := p.deliverAll.s, pending := [] } := by
  have h : OnlyRegisters p (p.pending.foldl (fun q x => q.deliver x.res) p) := delivers_onlyRegisters
  unfold Pod.deliverAll
  unfold OnlyRegisters at h
  rw [h]

/-- R149, R237, R356: a pod stopped for a world switch. -/
theorem stopPod_spec (u : State) (bars : Nat) (p : Pod) (h : p.skip = 0) (h2 : p.skip2 = 0) : let q := stopPod u bars p
    q.pending = [] ∧ q.windows = [] ∧ q.heldAt = none ∧ q.arrivals = min p.arrivals bars ∧ (q.v, q.p, q.s) = (p.deliverAll.v, p.deliverAll.p, p.deliverAll.s) ∧
    (q.pc, q.slot, q.pw, q.md, q.cd, q.sp, q.shape, q.srsel, q.index) = (p.pc, p.slot, p.pw, p.md, p.cd, p.sp, p.shape, p.srsel, p.index) ∧
    q.phase = match p.phase with | .waiting _ _ | .asleep _ => .ready | x => x := by
  unfold stopPod
  rw [skipDone_of_done h h2]
  refine ⟨rfl, rfl, rfl, rfl, rfl, ?_, ?_⟩
  · dsimp only
    rw [deliverAll_eq]
  · cases hp : p.phase <;> simp [savePhase, hp]

end Sys2Proof.Machine
end

section
/-! O60, part 6: scrubs, restores and the end of a quantum. -/

namespace Sys2Proof.Machine

/-! ### Scrubs -/

theorem touchLines_above {key n : Nat} : ∀ {s : State} {line : Nat}, 0x8000000000 ≤ line * 64 → touchLines s key line n = s := by
  induction n with
  | zero => intro s line _; rfl
  | succ n ih =>
    intro s line h
    have hb : isHbm (line * 64) = false := decide_eq_false (Nat.not_lt.mpr h)
    have hr : rekey s key line = s := by
      unfold rekey
      rw [if_neg (by rw [hb]; exact Bool.false_ne_true)]
    unfold touchLines
    dsimp only
    rw [hr, if_neg (by rw [hb]; exact Bool.false_ne_true)]
    exact ih (by omega)

/-- A store beyond HBM4E changes its own bytes only, whatever its key. -/
theorem storeAt_above_mem {s : State} {key a : Nat} {b : List Byte} (h : 0x8000000000 ≤ a) : (storeAt s key a b).mem = memPut s.mem a b := by
  unfold storeAt
  dsimp only
  rw [touchLines_above (by omega)]

/-- n zero bytes stored at the place of each unit of a list. -/
def zeroAll (place : Nat → Nat) (n : Nat) (s : State) (l : List Nat) : State := l.foldl (fun s k => storeAt s 0 (place k) (List.replicate n 0#8)) s

theorem zeroAll_wf {place : Nat → Nat} {n : Nat} {s : State} {l : List Nat} (h : Memory.wf s.mem = true) : Memory.wf (zeroAll place n s l).mem = true :=
  foldl_wf storeAt_wf h

theorem zeroAll_onlyBytes {place : Nat → Nat} {n : Nat} {l : List Nat} : ∀ {s : State}, OnlyBytes s (zeroAll place n s l) := by
  induction l with
  | nil => exact fun {s} => onlyBytes_refl s
  | cons k r ih => exact onlyBytes_trans (storeAt_onlyBytes _ 0 (place k) _) ih

theorem zeroAll_cons (place : Nat → Nat) (n : Nat) (s : State) (k : Nat) (r : List Nat) :
    zeroAll place n s (k :: r) = zeroAll place n (storeAt s 0 (place k) (List.replicate n 0#8)) r := List.foldl_cons ..

theorem memRead_zeroAll {place : Nat → Nat} {n x : Nat} (hp : ∀ k, 0x8000000000 ≤ place k) {l : List Nat} : ∀ {s : State}, Memory.wf s.mem = true →
    ((∃ k ∈ l, place k ≤ x ∧ x < place k + n) → memRead (zeroAll place n s l).mem x = 0#8) ∧
    (¬(∃ k ∈ l, place k ≤ x ∧ x < place k + n) → memRead (zeroAll place n s l).mem x = memRead s.mem x) := by
  induction l with
  | nil => exact fun _ => ⟨fun ⟨_, hk, _⟩ => absurd hk List.not_mem_nil, fun _ => rfl⟩
  | cons k r ih =>
    intro s h
    obtain ⟨hin, hout⟩ := ih (storeAt_wf (key := 0) (a := place k) (b := List.replicate n 0#8) h)
    have hmem := storeAt_above_mem (s := s) (key := 0) (b := List.replicate n 0#8) (hp k)
    rw [zeroAll_cons]
    by_cases hr : ∃ k ∈ r, place k ≤ x ∧ x < place k + n
    · refine ⟨fun _ => hin hr, fun hn => absurd ?_ hn⟩
      obtain ⟨j, hj, hx⟩ := hr
      exact ⟨j, List.mem_cons_of_mem k hj, hx⟩
    · rw [hout hr, hmem]
      refine ⟨fun ⟨j, hj, hx⟩ => ?_, fun hn => memRead_memPut_outside h ?_⟩
      · rcases List.mem_cons.mp hj with rfl | hj
        · obtain ⟨i, rfl⟩ := Nat.exists_eq_add_of_le hx.1
          have hi : i < (List.replicate n 0#8).length := by rw [List.length_replicate]; omega
          rw [memRead_memPut_inside h hi, List.getD_eq_getElem _ _ hi, List.getElem_replicate]
        · exact absurd ⟨j, hj, hx⟩ hr
      · rw [List.length_replicate]
        by_contra hc
        exact hn ⟨k, List.mem_cons_self, by omega⟩

theorem mem_partCores {s : State} {part k : Nat} : k ∈ partCores s part ↔ k < 576 ∧ partOfDie s (k / 144) = part := by
  simp [partCores]

theorem mem_partDies {s : State} {part k : Nat} : k ∈ partDies s part ↔ k < 4 ∧ partOfDie s k = part := by
  simp [partDies]

/-- The bytes of a partition's tile stores, register files and die scratch. -/
def PartBytes (s : State) (part x : Nat) : Prop :=
  (∃ k ∈ partCores s part, tileAt k 0 ≤ x ∧ x < tileAt k 0 + 0x180000) ∨ (∃ k ∈ partDies s part, scratchAt k 0 ≤ x ∧ x < scratchAt k 0 + 0x3000000) ∨
    (∃ k ∈ partCores s part, fileAt k 0 ≤ x ∧ x < fileAt k 0 + 0x100000)

/-- A state whose list of used cores is that after a scrub. -/
def State.unused (s : State) (part : Nat) : State := { s with used := s.used.filter fun k => !(partCores s part).contains k }

theorem scrub_eq (s : State) (part : Nat) : scrub s part =
    zeroAll (scratchAt · 0) 0x3000000 (zeroAll (fileAt · 0) 0x100000 (zeroAll (tileAt · 0) 0x180000 (s.unused part) (partCores s part))
      (partCores s part)) (partDies s part) := by
  have hc (t : State) (h : t.parts = s.parts) : partCores t part = partCores s part := by unfold partCores partOfDie; rw [h]
  have hd (t : State) (h : t.parts = s.parts) : partDies t part = partDies s part := by unfold partDies partOfDie; rw [h]
  have hz {place : Nat → Nat} {n : Nat} {t : State} {l : List Nat} (h : t.parts = s.parts) : (zeroAll place n t l).parts = s.parts := by
    have ho : OnlyBytes t (zeroAll place n t l) := zeroAll_onlyBytes
    rw [ho]
    exact h
  have h0 : (s.unused part).parts = s.parts := rfl
  unfold scrub
  show zeroAll (scratchAt · 0) 0x3000000 (zeroAll (fileAt · 0) 0x100000 (zeroAll (tileAt · 0) 0x180000 (s.unused part) (partCores (s.unused part) part))
    (partCores (zeroAll (tileAt · 0) 0x180000 (s.unused part) (partCores (s.unused part) part)) part))
    (partDies (zeroAll (fileAt · 0) 0x100000 (zeroAll (tileAt · 0) 0x180000 (s.unused part) (partCores (s.unused part) part))
      (partCores (zeroAll (tileAt · 0) 0x180000 (s.unused part) (partCores (s.unused part) part)) part)) part) = _
  rw [hc (s.unused part) h0, hc _ (hz h0), hd _ (hz (hz h0))]

theorem memRead_scrub {s : State} {part x : Nat} (h : Memory.wf s.mem = true) :
    (PartBytes s part x → memRead (scrub s part).mem x = 0#8) ∧ (¬PartBytes s part x → memRead (scrub s part).mem x = memRead s.mem x) := by
  have hu : Memory.wf (s.unused part).mem = true := h
  obtain ⟨tin, tout⟩ := memRead_zeroAll (place := (tileAt · 0)) (n := 0x180000) (x := x) (l := partCores s part) (by intro k; simp only [tileAt]; omega) hu
  obtain ⟨fin, fout⟩ := memRead_zeroAll (place := (fileAt · 0)) (n := 0x100000) (x := x) (l := partCores s part) (by intro k; simp only [fileAt]; omega)
    (zeroAll_wf (place := (tileAt · 0)) (n := 0x180000) (l := partCores s part) hu)
  obtain ⟨din, dout⟩ := memRead_zeroAll (place := (scratchAt · 0)) (n := 0x3000000) (x := x) (l := partDies s part) (by intro k; simp only [scratchAt]; omega)
    (zeroAll_wf (place := (fileAt · 0)) (n := 0x100000) (l := partCores s part) (zeroAll_wf (place := (tileAt · 0)) (n := 0x180000) (l := partCores s part) hu))
  rw [scrub_eq]
  by_cases hd : ∃ k ∈ partDies s part, scratchAt k 0 ≤ x ∧ x < scratchAt k 0 + 0x3000000
  · exact ⟨fun _ => din hd, fun hn => absurd (.inr (.inl hd)) hn⟩
  · rw [dout hd]
    by_cases hf : ∃ k ∈ partCores s part, fileAt k 0 ≤ x ∧ x < fileAt k 0 + 0x100000
    · exact ⟨fun _ => fin hf, fun hn => absurd (.inr (.inr hf)) hn⟩
    · rw [fout hf]
      by_cases ht : ∃ k ∈ partCores s part, tileAt k 0 ≤ x ∧ x < tileAt k 0 + 0x180000
      · exact ⟨fun _ => tin ht, fun hn => absurd (.inl ht) hn⟩
      · refine ⟨fun hp => ?_, fun _ => tout ht⟩
        rcases hp with hp | hp | hp
        · exact absurd hp ht
        · exact absurd hp hd
        · exact absurd hp hf

/-- R25, R103: what a scrub leaves. -/
theorem scrub_spec {s : State} {part : Nat} (h : Memory.wf s.mem = true) : let z := scrub s part
    let tile (a : Nat) : Prop := ∃ k < 576, partOfDie s (k / 144) = part ∧ tileAt k 0 ≤ a ∧ a < tileAt k 0 + 0x180000
    let die (a : Nat) : Prop := ∃ k < 4, partOfDie s k = part ∧ scratchAt k 0 ≤ a ∧ a < scratchAt k 0 + 0x3000000
    let file (a : Nat) : Prop := ∃ k < 576, partOfDie s (k / 144) = part ∧ fileAt k 0 ≤ a ∧ a < fileAt k 0 + 0x100000
    z = { s with mem := z.mem, lineKey := z.lineKey, dirty := z.dirty, poison := z.poison, used := z.used } ∧
    (∀ k, k ∈ z.used ↔ k ∈ s.used ∧ ¬(k < 576 ∧ partOfDie s (k / 144) = part)) ∧
    ∀ a, (tile a ∨ die a ∨ file a → memRead z.mem a = 0#8) ∧ (¬(tile a ∨ die a ∨ file a) → memRead z.mem a = memRead s.mem a) := by
  intro z tile die file
  have hz : OnlyBytes (s.unused part) z := by
    show OnlyBytes _ (scrub s part)
    rw [scrub_eq]
    exact onlyBytes_trans zeroAll_onlyBytes (onlyBytes_trans zeroAll_onlyBytes zeroAll_onlyBytes)
  have hpart (a : Nat) : tile a ∨ die a ∨ file a ↔ PartBytes s part a := by
    simp only [tile, die, file, PartBytes, mem_partCores, mem_partDies, and_assoc]
  refine ⟨?_, fun k => ?_, fun a => ?_⟩
  · generalize z = v at hz ⊢
    rw [hz]
    rfl
  · have hused : z.used = (s.unused part).used := by
      generalize z = v at hz ⊢
      rw [hz]
    rw [hused, ← mem_partCores (s := s)]
    simp [State.unused]
  · rw [hpart]
    exact memRead_scrub h

/-! ### Restores and switches -/

/-- R10, R359: what a restore does where every access of the owner's image reaches. -/
theorem restoreOwner_spec (s : State) (part o : Nat) : let z := (scrub s part).mapCtx o fun c => { c with tlb := [] }
    let a : State := { z with resident := z.resident.setIfInBounds part (some o), quantumFrom := z.quantumFrom.setIfInBounds part z.fabClock }
    imageHole (a.ctxOf o) (a.ctxOf o).image.size = none →
    (∀ t, readImage a o = some t → restoreOwner s part o = formAll (applyResumes (restoreTransforms (restoreFabric t o) o) o) o) ∧
    (readImage a o = none → restoreOwner s part o = endContext (postRecord a (graphSite 0 0#32 0#32) { code := .reservedField }) o 2 2) := by
  intro z a hole
  have he : restoreOwner s part o = match readImage a o with
      | none => failRestore a o
      | some t => formAll (applyResumes (restoreTransforms (restoreFabric t o) o) o) o := by
    unfold restoreOwner
    extract_lets b
    have hb : b = a := by
      dsimp only [b]
      rw [hole]
    rw [hb] <;> rfl
  refine ⟨fun t ht => ?_, fun hn => ?_⟩
  · rw [he, ht]
  · rw [he, hn]
    rfl

/-- R295: the end of a quantum of a partition that an owner holds. -/
theorem quantumEnd_resident {s : State} {part out : Nat} (hp : part < s.parts) (hr : s.resident.getD part none = some out) :
    let from_ := s.quantumFrom.getD part 0 + 1400000 * s.quantum.getD part 10
    let vacated (t : State) : State := { t with resident := t.resident.setIfInBounds part none }
    ((s.ctxOf out).dead = false → from_ ≤ s.fabClock →
      (∀ o, nextOwner s part out = some o → exec (.quantumEnd part) s = .next (restoreOwner (vacated (saveOwner s out)) part o)) ∧
      (nextOwner s part out = none → exec (.quantumEnd part) s = .next { s with quantumFrom := s.quantumFrom.setIfInBounds part s.fabClock })) ∧
    ((s.ctxOf out).dead = false → s.fabClock < from_ → exec (.quantumEnd part) s = .next s) ∧
    ((s.ctxOf out).dead = true → (∀ o, nextOwner s part out = some o → exec (.quantumEnd part) s = .next (restoreOwner (vacated (finishBegun s out)) part o)) ∧
      (nextOwner s part out = none → exec (.quantumEnd part) s = .next (scrub (vacated (finishBegun s out)) part))) := by
  intro from_ vacated
  have hstep : exec (.quantumEnd part) s = .next (
      if (s.ctxOf out).dead = true then switchTo s part out (nextOwner s part out)
      else if s.fabClock < from_ then s
      else match nextOwner s part out with
        | some o => switchTo s part out (some o)
        | none => { s with quantumFrom := s.quantumFrom.setIfInBounds part s.fabClock }) := by
    show execQuantumEnd part s = _
    unfold execQuantumEnd
    rw [if_neg (Nat.not_le.mpr hp), hr] <;> rfl
  have hswitch (n : Option Nat) : switchTo s part out n =
      match n with
      | some o => restoreOwner (vacated (if (s.ctxOf out).dead = true then finishBegun s out else saveOwner s out)) part o
      | none => scrub (vacated (if (s.ctxOf out).dead = true then finishBegun s out else saveOwner s out)) part := by
    cases n <;> rfl
  refine ⟨fun hd hf => ⟨fun o ho => ?_, fun hn => ?_⟩, fun hd hf => ?_, fun hd => ⟨fun o ho => ?_, fun hn => ?_⟩⟩
  · rw [hstep, ho]
    simp only [hd, Bool.false_eq_true, if_false, Nat.not_lt.mpr hf, hswitch]
  · rw [hstep, hn]
    simp only [hd, Bool.false_eq_true, if_false, Nat.not_lt.mpr hf]
  · rw [hstep]
    simp only [hd, Bool.false_eq_true, if_false, hf, if_true]
  · rw [hstep, ho, hswitch]
    simp only [hd, if_true]
  · rw [hstep, hn, hswitch]
    simp only [hd, if_true]

theorem quantumEnd_empty {s : State} {part : Nat} (hp : part < s.parts) (hr : s.resident.getD part none = none) (o : Nat)
    (ho : nextOwner s part 65 = some o) : exec (.quantumEnd part) s = .next (restoreOwner s part o) := by
  show execQuantumEnd part s = _
  unfold execQuantumEnd
  rw [if_neg (Nat.not_le.mpr hp), hr]
  dsimp only
  rw [ho]

end Sys2Proof.Machine
end

section
/-! O60, part 7: the bytes of an image and little-endian values. -/

namespace Sys2Proof.Machine

/-! ### Bytes of an image -/

/-- A store seen by a reader with its key. -/
theorem keyedByte_storeAt {s : State} {key a x : Nat} {b : List Byte} (h : Memory.wf s.mem = true) :
    keyedByte (storeAt s key a b) key x = if a ≤ x ∧ x < a + b.length then b.getD (x - a) 0#8 else keyedByte s key x := by
  by_cases hx : a ≤ x ∧ x < a + b.length
  · rw [if_pos hx]
    obtain ⟨i, rfl⟩ := Nat.exists_eq_add_of_le hx.1
    rw [keyedByte_storeAt_inside h (by omega), Nat.add_sub_cancel_left]
  · rw [if_neg hx, keyedByte_storeAt_outside h (by omega)]

/-- A byte of an image after bytes have been put into it, for a layout in which its two places stay apart. -/
theorem keyedByte_imagePut {s : State} {c : Context} {o i : Nat} {b : List Byte} (h : Memory.wf s.mem = true)
    (hole : imageHole c (o + b.length) = none) (hc : c.imageBase + c.imageSize ≤ 2 ^ 48) (hi : i ≤ 2 ^ 54) :
    keyedByte (imagePut s c o b) c.key (imagePlace c i) =
      if o ≤ i ∧ i < o + b.length then b.getD (i - o) 0#8 else keyedByte s c.key (imagePlace c i) := by
  have hfirst : ∃ t, Memory.wf t.mem = true ∧
      (if (min b.length (c.imageSize - o) == 0) = true then s else storeAt s c.key (imagePlace c o) (b.take (min b.length (c.imageSize - o)))) = t ∧
      ∀ x, keyedByte t c.key x = if c.imageBase + o ≤ x ∧ x < c.imageBase + o + min b.length (c.imageSize - o) then b.getD (x - (c.imageBase + o)) 0#8
        else keyedByte s c.key x := by
    refine ⟨_, ite_wf h (storeAt_wf h), rfl, fun x => ?_⟩
    by_cases hn : min b.length (c.imageSize - o) = 0
    · rw [if_pos (beq_iff_eq.mpr hn), if_neg (by omega)]
    · have hp : imagePlace c o = c.imageBase + o := by unfold imagePlace; rw [if_pos (by omega)]
      rw [if_neg (by simpa using hn), keyedByte_storeAt h, hp, List.length_take]
      have hmin : min (min b.length (c.imageSize - o)) b.length = min b.length (c.imageSize - o) := by omega
      rw [hmin]
      by_cases hx : c.imageBase + o ≤ x ∧ x < c.imageBase + o + min b.length (c.imageSize - o)
      · rw [if_pos hx, if_pos hx, List.getD_eq_getElem?_getD, List.getD_eq_getElem?_getD, List.getElem?_take_of_lt (by omega)]
      · rw [if_neg hx, if_neg hx]
  obtain ⟨t, ht, hput, hread⟩ := hfirst
  unfold imagePut
  rw [if_neg (by rw [hole]; exact Bool.false_ne_true)]
  dsimp only
  rw [hput]
  have hmax : imagePlace c (max o c.imageSize) = 2 ^ 60 + c.owner * 2 ^ 54 + max o c.imageSize := by unfold imagePlace; rw [if_neg (by omega)]
  by_cases hall : min b.length (c.imageSize - o) = b.length
  · rw [if_pos (beq_iff_eq.mpr hall), hread, hall]
    by_cases hin : i < c.imageSize
    · have hp : imagePlace c i = c.imageBase + i := by unfold imagePlace; rw [if_pos hin]
      have hiff : (c.imageBase + o ≤ imagePlace c i ∧ imagePlace c i < c.imageBase + o + b.length) ↔ o ≤ i ∧ i < o + b.length := by rw [hp]; omega
      have hsub : imagePlace c i - (c.imageBase + o) = i - o := by rw [hp]; omega
      simp only [hiff, hsub]
    · have hp : imagePlace c i = 2 ^ 60 + c.owner * 2 ^ 54 + i := by unfold imagePlace; rw [if_neg hin]
      rw [if_neg (by rw [hp]; omega), if_neg (by omega)]
  · rw [if_neg (by simpa using hall), keyedByte_storeAt ht, hmax, List.length_drop, hread]
    by_cases hin : i < c.imageSize
    · have hp : imagePlace c i = c.imageBase + i := by unfold imagePlace; rw [if_pos hin]
      rw [if_neg (by rw [hp]; omega)]
      have hiff : (c.imageBase + o ≤ imagePlace c i ∧ imagePlace c i < c.imageBase + o + min b.length (c.imageSize - o)) ↔ o ≤ i ∧ i < o + b.length := by
        rw [hp]
        omega
      have hsub : imagePlace c i - (c.imageBase + o) = i - o := by rw [hp]; omega
      simp only [hiff, hsub]
    · have hp : imagePlace c i = 2 ^ 60 + c.owner * 2 ^ 54 + i := by unfold imagePlace; rw [if_neg hin]
      rw [hp, if_neg (c := c.imageBase + o ≤ _ ∧ _) (by omega)]
      by_cases hx : o ≤ i ∧ i < o + b.length
      · rw [if_pos (by omega), if_pos hx, List.getD_eq_getElem?_getD, List.getD_eq_getElem?_getD, List.getElem?_drop]
        congr 2
        omega
      · rw [if_neg (by omega), if_neg hx]

/-- R101, R357: bytes put into an image are read from it, and every other byte of it reads as it did. -/
theorem imagePut_spec {s : State} {c : Context} {o : Nat} {b : List Byte} (h : Memory.wf s.mem = true) (hole : imageHole c (o + b.length) = none)
    (hc : c.imageBase + c.imageSize ≤ 2 ^ 48) (hz : o + b.length ≤ 2 ^ 54) : let t := imagePut s c o b
    OnlyBytes s t ∧ imageGet t c o b.length = b ∧
    ∀ j m, j + m ≤ o ∨ o + b.length ≤ j → imageHole c (j + m) = none → j + m ≤ 2 ^ 54 → imageGet t c j m = imageGet s c j m := by
  intro t
  refine ⟨imagePut_onlyBytes s c o b, ?_, fun j m hjm hhole hlim => ?_⟩
  · unfold imageGet
    rw [if_neg (by rw [hole]; exact Bool.false_ne_true)]
    refine List.ext_getElem (by simp) fun i h1 h2 => ?_
    rw [List.getElem_map, List.getElem_range, keyedByte_imagePut h hole hc (by omega), if_pos (by omega), Nat.add_sub_cancel_left]
    exact (List.getElem_eq_getD _).symm
  · unfold imageGet
    rw [hhole]
    refine List.map_congr_left fun i hi => ?_
    have hi := List.mem_range.mp hi
    exact (keyedByte_imagePut h hole hc (by omega)).trans (if_neg (by omega))

/-! ### Little-endian values -/

theorem natBytes_length : ∀ {n v : Nat}, (natBytes n v).length = n
  | 0, _ => rfl
  | n + 1, v => by rw [natBytes, List.length_cons, natBytes_length]

theorem bytesNat_natBytes : ∀ {n v : Nat}, bytesNat (natBytes n v) = v % 256 ^ n
  | 0, v => by simp [natBytes, bytesNat, Nat.mod_one]
  | n + 1, v => by
    have hmod : v % 256 ^ (n + 1) = v % 256 + 256 * (v / 256 % 256 ^ n) := by rw [Nat.pow_succ, Nat.mul_comm (256 ^ n), Nat.mod_mul]
    rw [natBytes, bytesNat, bytesNat_natBytes, BitVec.toNat_ofNat, hmod]

theorem bytesNat_append (a b : List Byte) : bytesNat (a ++ b) = bytesNat a + 256 ^ a.length * bytesNat b := by
  induction a with
  | nil => simp [bytesNat]
  | cons x r ih => rw [List.cons_append, bytesNat, ih, bytesNat, List.length_cons, Nat.pow_succ]; ring

theorem bytesWords_wordsBytes (l : List W32) : bytesWords l.length (wordsBytes l) = l := by
  induction l with
  | nil => rfl
  | cons w r ih =>
    have hlen : (natBytes 4 w.toNat).length = 4 := natBytes_length
    rw [List.length_cons, wordsBytes, bytesWords, List.take_left' hlen, List.drop_left' hlen, ih, bytesNat_natBytes]
    congr 1
    exact BitVec.eq_of_toNat_eq (by rw [BitVec.toNat_ofNat]; have := w.isLt; omega)

theorem bytesNat_wordPair {n : Nat} (h : n < 2 ^ 64) : bytesNat (wordsBytes (wordPair n)) = n := by
  have h1 : wordsBytes (wordPair n) = natBytes 4 (BitVec.ofNat 32 n).toNat ++ (natBytes 4 (BitVec.ofNat 32 (n / 2 ^ 32)).toNat ++ []) := rfl
  rw [h1, bytesNat_append, List.append_nil, natBytes_length, bytesNat_natBytes, bytesNat_natBytes, BitVec.toNat_ofNat, BitVec.toNat_ofNat]
  omega

/-! ### Counters in an image -/

/-- R359: a counter read back as the image holds it. -/
theorem restoreCount_of_countWords {s : State} {c : Context} {o unit n frac : Nat} {x : Counter} (h : imageGet s c o 8 = wordsBytes (countWords x)) :
    restoreCount s c false o unit n frac = some ⟨unit, n, x.count, x.ovf, frac⟩ := by
  have hc := x.count.isLt
  have hb : bitAt x.ovf 63 = if x.ovf then 2 ^ 63 else 0 := rfl
  have hv : bytesNat (imageGet s c o 8) = x.count.toNat + bitAt x.ovf 63 := by
    rw [h, countWords, bytesNat_wordPair]
    rw [hb]
    split <;> omega
  unfold restoreCount
  dsimp only
  rw [hv]
  cases hovf : x.ovf with
  | false =>
    rw [hovf] at hb
    rw [hb]
    have h0 : (x.count.toNat + 0) / 2 ^ 48 % 2 ^ 15 = 0 := by omega
    have hd : decide (2 ^ 63 ≤ x.count.toNat + 0) = false := decide_eq_false (by omega)
    have hw : BitVec.ofNat 48 (x.count.toNat + 0) = x.count := BitVec.eq_of_toNat_eq (by rw [BitVec.toNat_ofNat]; omega)
    simp only [Bool.false_eq_true, if_false]
    rw [h0, hd, hw]
    rfl
  | true =>
    rw [hovf] at hb
    rw [hb]
    have h0 : (x.count.toNat + 2 ^ 63) / 2 ^ 48 % 2 ^ 15 = 0 := by omega
    have hd : decide (2 ^ 63 ≤ x.count.toNat + 2 ^ 63) = true := decide_eq_true (by omega)
    have hw : BitVec.ofNat 48 (x.count.toNat + 2 ^ 63) = x.count := BitVec.eq_of_toNat_eq (by rw [BitVec.toNat_ofNat]; omega)
    simp only [if_true] at *
    rw [h0, hd, hw]
    rfl

end Sys2Proof.Machine
end

section
/-! O60, part 8: words of a record, and the record of a pod. -/

namespace Sys2Proof.Machine

/-! ### Words of a record -/

theorem wordAt_append_left {a b : List W32} {k : Nat} (h : k < a.length) : wordAt (a ++ b) k = wordAt a k := by
  simp only [wordAt, List.getD_eq_getElem?_getD, List.getElem?_append_left h]

theorem wordAt_append_right {a b : List W32} {k : Nat} (h : a.length ≤ k) : wordAt (a ++ b) k = wordAt b (k - a.length) := by
  simp only [wordAt, List.getD_eq_getElem?_getD, List.getElem?_append_right h]

theorem wordAt_ge {l : List W32} {k : Nat} (h : l.length ≤ k) : wordAt l k = 0#32 := by
  simp only [wordAt, List.getD_eq_getElem?_getD, List.getElem?_eq_none h, Option.getD_none]

theorem wordAt_toList {n k : Nat} {v : Vector W32 n} (h : k < n) : wordAt v.toList k = v[k] := by
  simp [wordAt, List.getD_eq_getElem?_getD, h]

/-- Zeros behind the words of a record read as what lies beyond it. -/
theorem wordAt_padWords {n k : Nat} {l : List W32} (h : l.length ≤ n) : wordAt (padWords n l) k = wordAt l k := by
  have hp : padWords n l = l ++ List.replicate (n - l.length) 0#32 :=
    List.take_of_length_le (by rw [List.length_append, List.length_replicate]; omega)
  rw [hp]
  by_cases hk : k < l.length
  · exact wordAt_append_left hk
  · rw [wordAt_append_right (by omega), wordAt_ge (l := l) (by omega)]
    by_cases hz : k - l.length < n - l.length
    · simp [wordAt, hz]
    · exact wordAt_ge (by rw [List.length_replicate]; omega)

theorem padWords_length (n : Nat) (l : List W32) : (padWords n l).length = n := by
  simp only [padWords, List.length_take, List.length_append, List.length_replicate]
  omega

theorem padWords_of_length {n : Nat} {l : List W32} (h : l.length = n) : padWords n l = l := by
  simp [padWords, h]

theorem zeroWords_of_wordAt {w : List W32} {a b : Nat} (h : ∀ k, a ≤ k → k ≤ b → wordAt w k = 0#32) : zeroWords w a b = true := by
  unfold zeroWords
  rw [List.all_eq_true]
  intro i hi
  have hi := List.mem_range.mp hi
  rw [beq_iff_eq]
  exact h _ (by omega) (by omega)

theorem toNat_append_eq {m n : Nat} (x : BitVec m) (y : BitVec n) : (x ++ y).toNat = x.toNat * 2 ^ n + y.toNat := by
  rw [BitVec.toNat_append, ← Nat.shiftLeft_add_eq_or_of_lt y.isLt, Nat.shiftLeft_eq]

/-- A 64-bit field written as two words. -/
theorem wordPair_toNat {n : Nat} (h : n < 2 ^ 64) : (BitVec.ofNat 32 (n / 2 ^ 32) ++ BitVec.ofNat 32 n).toNat = n := by
  rw [toNat_append_eq, BitVec.toNat_ofNat, BitVec.toNat_ofNat]
  omega

/-- The two words at a place of a record give the value they were written from. -/
theorem fieldAt_of_wordPair {w : List W32} {k n : Nat} (h : n < 2 ^ 64) (h0 : wordAt w k = BitVec.ofNat 32 n) (h1 : wordAt w (k + 1) = BitVec.ofNat 32 (n / 2 ^ 32)) :
    fieldAt w k = n := by
  unfold fieldAt
  rw [h0, h1, wordPair_toNat h]

/-- A field of a word made of a number. -/
theorem extract_ofNat {a m n : Nat} (h : n < 2 ^ 32) : ((BitVec.ofNat 32 n).extractLsb' a m).toNat = n / 2 ^ a % 2 ^ m := by
  rw [BitVec.extractLsb'_toNat, BitVec.toNat_ofNat, Nat.mod_eq_of_lt h, Nat.shiftRight_eq_div_pow]

/-! ### Checks of a restore -/

theorem holds_bind {α : Type} {ok : Bool} {f : Unit → Option α} (h : ok = true) : (holds ok >>= f) = f () := by
  subst h
  rfl

/-- The record of an image that names the one record which holds an agent gives that record back. -/
theorem heldBy_of_holder {c : Context} {a : AgentRef} {own : Nat → Bool} {k : Nat}
    (h : (∃ r ∈ c.records, r.seq = k) ∧ ∀ r ∈ c.records, r.seq % 2 ^ 32 = k % 2 ^ 32 → r.seq = k) (hown : own k = true) :
    heldBy c a own (BitVec.ofNat 32 k) = some k := by
  obtain ⟨⟨r, hr, hk⟩, huniq⟩ := h
  unfold heldBy
  cases hf : c.records.find? fun r => r.seq % 2 ^ 32 == (BitVec.ofNat 32 k).toNat && (own r.seq || (r.resum && r.agent == a && (!r.answered || c.resumes.contains r.seq))) with
  | none =>
    have hno := List.find?_eq_none.mp hf r hr
    exact absurd (by simp [hk, hown]) hno
  | some x =>
    have hx := List.find?_some hf
    simp only [Bool.and_eq_true, beq_iff_eq, BitVec.toNat_ofNat] at hx
    rw [Option.map_some, huniq x (List.mem_of_find?_eq_some hf) hx.1]

/-! ### Pods in an image -/

theorem pred_eq_getElem (p : Pod) (k : Fin 7) : p.pred k.val = p.p[k] := by
  have hk := k.isLt
  simp [Pod.pred, Vector.getD]

/-- The number of n hexadecimal digits, the lowest first. -/
def digitSum (d : Nat → Nat) (n : Nat) : Nat := ((List.range n).map fun k => d k * 2 ^ (4 * k)).sum

theorem digitSum_succ (d : Nat → Nat) (n : Nat) : digitSum d (n + 1) = digitSum d n + d n * 2 ^ (4 * n) := by
  simp only [digitSum, List.range_succ, List.map_append, List.sum_append, List.map_cons, List.map_nil, List.sum_cons, List.sum_nil, Nat.add_zero]

theorem digitSum_lt {d : Nat → Nat} (h : ∀ k, d k < 16) : ∀ n, digitSum d n < 2 ^ (4 * n)
  | 0 => Nat.one_pos
  | n + 1 => by
    have ih := digitSum_lt h n
    have hd : (d n + 1) * 2 ^ (4 * n) ≤ 16 * 2 ^ (4 * n) := Nat.mul_le_mul_right _ (h n)
    have hp : 2 ^ (4 * (n + 1)) = 16 * 2 ^ (4 * n) := by rw [Nat.mul_succ, Nat.pow_add]; ring
    rw [digitSum_succ, hp]
    calc digitSum d n + d n * 2 ^ (4 * n) < 2 ^ (4 * n) + d n * 2 ^ (4 * n) := Nat.add_lt_add_right ih _
      _ = (d n + 1) * 2 ^ (4 * n) := by ring
      _ ≤ 16 * 2 ^ (4 * n) := hd

theorem digitSum_digit {d : Nat → Nat} (h : ∀ k, d k < 16) {j : Nat} : ∀ {n}, j < n → digitSum d n / 2 ^ (4 * j) % 16 = d j
  | 0, hj => absurd hj (Nat.not_lt_zero j)
  | n + 1, hj => by
    rw [digitSum_succ]
    rcases Nat.lt_succ_iff_lt_or_eq.mp hj with hlt | rfl
    · obtain ⟨i, rfl⟩ := Nat.exists_eq_add_of_lt hlt
      have hp : d (j + i + 1) * 2 ^ (4 * (j + i + 1)) = 2 ^ (4 * j) * (16 * (d (j + i + 1) * 2 ^ (4 * i))) := by
        have he : 2 ^ (4 * (j + i + 1)) = 2 ^ (4 * j) * (2 ^ (4 * i) * 16) := by ring
        rw [he]
        ring
      rw [hp, Nat.add_mul_div_left _ _ (Nat.two_pow_pos _), Nat.add_mul_mod_self_left, digitSum_digit h hlt]
    · rw [Nat.add_mul_div_right _ _ (Nat.two_pow_pos _), Nat.div_eq_of_lt (digitSum_lt h j), Nat.zero_add, Nat.mod_eq_of_lt (h j)]

/-- The predicates p0 to p6 stand in their word, four bits each, with zeros above. -/
theorem predWord_fields (p : Pod) : (∀ k : Fin 7, (predWord p).extractLsb' (4 * k.val) 4 = p.p[k]) ∧ (predWord p).extractLsb' 28 4 = 0#4 := by
  have hd : ∀ k, (p.pred k).toNat < 16 := fun k => (p.pred k).isLt
  have hlt := digitSum_lt hd 7
  have hw : predWord p = BitVec.ofNat 32 (digitSum (fun k => (p.pred k).toNat) 7) := rfl
  refine ⟨fun k => BitVec.eq_of_toNat_eq ?_, BitVec.eq_of_toNat_eq ?_⟩
  · rw [← pred_eq_getElem, hw, extract_ofNat (Nat.lt_trans hlt (by decide))]
    exact digitSum_digit hd k.isLt
  · rw [hw, extract_ofNat (Nat.lt_trans hlt (by decide)), Nat.div_eq_of_lt hlt]
    rfl

/-- The words of a pod's record, each at its place. -/
structure PodRecord (p : Pod) (place seq : W32) (w : List W32) : Prop where
  scalar : ∀ k : Fin 32, wordAt w k.val = p.s[k]
  sp : fieldAt w 32 = p.sp.toNat
  pc : fieldAt w 34 = p.pc.toNat + p.slot.toNat * 2 ^ 48 + p.md.toNat * 2 ^ 50
  pw : wordAt w 36 = p.pw
  windows : wordAt w 37 = BitVec.ofNat 32 (p.wb.toNat + p.ws.toNat * 2 ^ 9 + p.cd.toNat * 2 ^ 13 + p.shape.toNat * 2 ^ 21)
  srsel : wordAt w 38 = p.srsel.zeroExtend 32
  preds : wordAt w 39 = predWord p
  place : wordAt w 40 = place
  seq : wordAt w 41 = seq
  rest : zeroWords w 42 47 = true

theorem podRecord_podWords (team : Nat) (p : Pod) :
    PodRecord p (podPlace team p (podState p).1) (BitVec.ofNat 32 (podState p).2) (podWords team p) := by
  have hpad (k : Nat) (tail : List W32) (ht : tail.length = 10) (e : podWords team p = padWords 48 (p.s.toList ++ tail)) :
      wordAt (podWords team p) k = wordAt (p.s.toList ++ tail) k := by
    rw [e]
    exact wordAt_padWords (by rw [List.length_append, Vector.length_toList, ht]; decide)
  have hform : podWords team p = padWords 48 (p.s.toList ++ (wordPair p.sp.toNat ++ wordPair (p.pc.toNat + p.slot.toNat * 2 ^ 48 + p.md.toNat * 2 ^ 50) ++
      [p.pw, BitVec.ofNat 32 (p.wb.toNat + p.ws.toNat * 2 ^ 9 + p.cd.toNat * 2 ^ 13 + p.shape.toNat * 2 ^ 21), p.srsel.zeroExtend 32, predWord p,
       podPlace team p (podState p).1, BitVec.ofNat 32 (podState p).2])) := by
    unfold podWords
    simp only [List.append_assoc]
  generalize htail : wordPair p.sp.toNat ++ wordPair (p.pc.toNat + p.slot.toNat * 2 ^ 48 + p.md.toNat * 2 ^ 50) ++
      [p.pw, BitVec.ofNat 32 (p.wb.toNat + p.ws.toNat * 2 ^ 9 + p.cd.toNat * 2 ^ 13 + p.shape.toNat * 2 ^ 21), p.srsel.zeroExtend 32, predWord p,
       podPlace team p (podState p).1, BitVec.ofNat 32 (podState p).2] = tail at hform
  have hlen : tail.length = 10 := by rw [← htail]; rfl
  have hlow (k : Fin 32) : wordAt (podWords team p) k.val = p.s[k] := by
    rw [hpad _ tail hlen hform, wordAt_append_left (by rw [Vector.length_toList]; exact k.isLt), wordAt_toList k.isLt]
    rfl
  have hhigh (k : Nat) : wordAt (podWords team p) (32 + k) = wordAt tail k := by
    rw [hpad _ tail hlen hform, wordAt_append_right (by rw [Vector.length_toList]; omega), Vector.length_toList]
    congr 1
    omega
  have hsp := p.sp.isLt
  have hpc := p.pc.isLt
  have hslot := p.slot.isLt
  have hmd := p.md.isLt
  refine ⟨hlow, fieldAt_of_wordPair hsp ?_ ?_, fieldAt_of_wordPair (by omega) ?_ ?_, ?_, ?_, ?_, ?_, ?_, ?_, zeroWords_of_wordAt fun k hk _ => ?_⟩
  · rw [hhigh 0, ← htail]; rfl
  · rw [hhigh 1, ← htail]; rfl
  · rw [hhigh 2, ← htail]; rfl
  · rw [hhigh 3, ← htail]; rfl
  · rw [hhigh 4, ← htail]; rfl
  · rw [hhigh 5, ← htail]; rfl
  · rw [hhigh 6, ← htail]; rfl
  · rw [hhigh 7, ← htail]; rfl
  · rw [hhigh 8, ← htail]; rfl
  · rw [hhigh 9, ← htail]; rfl
  · obtain ⟨i, rfl⟩ := Nat.exists_eq_add_of_le (show 32 ≤ k by omega)
    rw [hhigh, wordAt_ge (by omega)]

end Sys2Proof.Machine
end

section
/-! O60, part 9: a pod read back. -/

namespace Sys2Proof.Machine

/-- A pod's phase as a restore leaves it: a wait issues again, and a sleep is over. -/
def Phase.restored (ph : Phase) : Phase := match ph with | .waiting _ _ | .asleep _ => .ready | x => x

/-- The state bits of a pod's place. -/
theorem podPlace_state {team n : Nat} (p : Pod) (h : n < 4) : ((podPlace team p n).extractLsb' 0 2).toNat = n := by
  unfold podPlace
  rw [BitVec.extractLsb'_toNat, BitVec.toNat_ofNat, Nat.shiftRight_eq_div_pow]
  omega

theorem podState_lt (p : Pod) : (podState p).1 < 4 := by
  unfold podState
  split <;> simp

/-- The phase that a restore reads from a pod's state and record number. -/
theorem restored_phase {c : Context} {a : AgentRef} {p : Pod}
    (h : ∀ k, p.phase = .suspended k → (∃ r ∈ c.records, r.seq = k) ∧ ∀ r ∈ c.records, r.seq % 2 ^ 32 = k % 2 ^ 32 → r.seq = k) :
    (if p.phase == .ended || (podState p).1 == 1 then some Phase.ended
      else if (podState p).1 == 3 then (heldBy c a p.phase.suspendedBy (BitVec.ofNat 32 (podState p).2)).map Phase.suspended
      else some Phase.ready) = some p.phase.restored := by
  unfold podState
  cases hp : p.phase with
  | ended => rfl
  | waiting w k => rfl
  | asleep k => rfl
  | ready => rfl
  | suspended k =>
    have hb := heldBy_of_holder (a := a) (own := Phase.suspendedBy (.suspended k)) (h k hp) (by simp [Phase.suspendedBy])
    simp [hb, Phase.restored]

/-- R359: a pod read back as the image holds it. -/
theorem restorePod_of_podWords {s : State} {c : Context} {o file team : Nat} {a : AgentRef} {p : Pod}
    (hw : imageWords s c o 48 = podWords team p)
    (hv : ∀ r l, r < 16 * p.ws.toNat → l < 4 →
      imageWords s c (file + 0x20000 * p.part + 16 * (16 * (p.wb.toNat + r) + p.index % 16) + 4 * l) 1 = [p.lane r l])
    (hpw : p.pw.toNat % 16 = 15) (hlim : p.pw.toNat < 2 ^ (4 * (p.md.toNat + 1))) (hsp : p.sp.toNat % 16 = 0) (hspl : p.sp.toNat < 2 ^ 51)
    (hslot : p.slot ≠ 3#2)
    (hheld : ∀ k, p.phase = .suspended k → (∃ r ∈ c.records, r.seq = k) ∧ ∀ r ∈ c.records, r.seq % 2 ^ 32 = k % 2 ^ 32 → r.seq = k)
    (hws : p.ws.toNat ≤ 8) :
    restorePod s c o file team a p = some { p with phase := p.phase.restored } := by
  obtain ⟨rscalar, rsp, rpc, rpw, rwin, rsrsel, rpreds, rplace, rseq, rrest⟩ := podRecord_podWords team p
  have hpc := p.pc.isLt
  have hsl := p.slot.isLt
  have hmd := p.md.isLt
  have hwb := p.wb.isLt
  have hws' := p.ws.isLt
  have hcd := p.cd.isLt
  have hsh := p.shape.isLt
  have hslot' : p.slot.toNat ≠ 3 := fun h => hslot (BitVec.eq_of_toNat_eq h)
  have hat : fieldAt (podWords team p) 34 / 2 ^ 50 % 8 = p.md.toNat := by rw [rpc]; omega
  have hlow : (wordAt (podWords team p) 37).extractLsb' 0 13 = p.ws ++ p.wb :=
    BitVec.eq_of_toNat_eq (by rw [rwin, extract_ofNat (by omega), toNat_append_eq]; omega)
  have hcdw : (wordAt (podWords team p) 37).extractLsb' 13 8 = p.cd := BitVec.eq_of_toNat_eq (by rw [rwin, extract_ofNat (by omega)]; omega)
  have hshw : (wordAt (podWords team p) 37).extractLsb' 21 7 = p.shape := BitVec.eq_of_toNat_eq (by rw [rwin, extract_ofNat (by omega)]; omega)
  have hwtop : (wordAt (podWords team p) 37).extractLsb' 28 4 = 0#4 :=
    BitVec.eq_of_toNat_eq (by rw [rwin, extract_ofNat (by omega)]; show _ = 0; omega)
  have hstate : ((wordAt (podWords team p) 40).extractLsb' 0 2).toNat = (podState p).1 := by rw [rplace, podPlace_state p (podState_lt p)]
  have hpwlow : (wordAt (podWords team p) 36).extractLsb' 0 4 = 0xF#4 :=
    BitVec.eq_of_toNat_eq (by rw [rpw, BitVec.extractLsb'_toNat, Nat.shiftRight_zero]; exact hpw)
  have hsrtop : (wordAt (podWords team p) 38).extractLsb' 16 16 = 0#16 := by
    rw [rsrsel]
    exact BitVec.eq_of_toNat_eq (by have := p.srsel.isLt; simp [BitVec.extractLsb'_toNat, Nat.shiftRight_eq_div_pow]; omega)
  have hsr : (wordAt (podWords team p) 38).extractLsb' 0 16 = p.srsel := by
    rw [rsrsel]
    exact BitVec.eq_of_toNat_eq (by have := p.srsel.isLt; simp [BitVec.extractLsb'_toNat]; omega)
  obtain ⟨hpred, hptop⟩ := predWord_fields p
  have hplace : (p.pc.toNat + p.slot.toNat * 2 ^ 48 + p.md.toNat * 2 ^ 50) / 2 ^ 53 = 0 := by omega
  have hslotw : (p.pc.toNat + p.slot.toNat * 2 ^ 48 + p.md.toNat * 2 ^ 50) / 2 ^ 48 % 4 = p.slot.toNat := by omega
  have hpcw : BitVec.ofNat 48 (p.pc.toNat + p.slot.toNat * 2 ^ 48 + p.md.toNat * 2 ^ 50) = p.pc :=
    BitVec.eq_of_toNat_eq (by rw [BitVec.toNat_ofNat]; omega)
  have hslw : BitVec.ofNat 2 ((p.pc.toNat + p.slot.toNat * 2 ^ 48 + p.md.toNat * 2 ^ 50) / 2 ^ 48) = p.slot :=
    BitVec.eq_of_toNat_eq (by rw [BitVec.toNat_ofNat]; omega)
  have hscalars : (Vector.ofFn fun k : Fin 32 => wordAt (podWords team p) k.val) = p.s :=
    Vector.ext fun k hk => (Vector.getElem_ofFn hk).trans (rscalar ⟨k, hk⟩)
  have hpreds : (Vector.ofFn fun k : Fin 7 => (wordAt (podWords team p) 39).extractLsb' (4 * k.val) 4) = p.p := by
    rw [rpreds]
    exact Vector.ext fun k hk => (Vector.getElem_ofFn hk).trans (hpred ⟨k, hk⟩)
  have hlanes : (Vector.ofFn fun r : Fin 128 => if r.val < 16 * p.ws.toNat then Vector.ofFn fun l : Fin 4 =>
      wordAt (imageWords s c (file + 0x20000 * p.part + 16 * (16 * (p.wb.toNat + r.val) + p.index % 16) + 4 * l.val) 1) 0 else p.v[r]) = p.v := by
    refine Vector.ext fun r hr => (Vector.getElem_ofFn hr).trans ?_
    split
    · next hin =>
      refine Vector.ext fun l hl => (Vector.getElem_ofFn hl).trans ?_
      rw [hv r l hin hl]
      simp [wordAt, Pod.lane, Pod.reg, Vector.getD, hr, hl]
    · rfl
  unfold restorePod
  rw [hw]
  dsimp only
  refine (holds_bind ?_).trans ?_
  · rw [hstate, hat, hlow, hshw, hwtop, hpwlow, hsrtop, rpreds, hptop, rrest, rpw, rsp, rpc, rplace, hplace, hslotw]
    rw [decide_eq_true hlim, decide_eq_true hspl]
    simp [hsp, hslot']
  · rw [hstate, hat, hcdw, hshw, hsr, rpw, rsp, rpc, rseq, restored_phase hheld, hpcw, hslw, hscalars, hpreds, hlanes,
      BitVec.ofNat_toNat, BitVec.ofNat_toNat, BitVec.setWidth_eq, BitVec.setWidth_eq]
    rfl

end Sys2Proof.Machine
end

section
/-! O60, part 10: a matrix command read back. -/

namespace Sys2Proof.Machine

/-! ### Matrix commands in an image -/

/-- The first sixteen words of a matrix command's record (R359). -/
def matHead (teams : List Nat) (m : MatCmd) : List W32 :=
  [encode 0#1 m.instr, m.sx, m.sy, m.sz, m.sz1, BitVec.ofNat 32 ((teams.idxOf? m.team).getD 0), BitVec.ofNat 32 m.pod, shapeWord m.shape, m.step,
    m.mode, m.key, BitVec.ofNat 32 (bitAt m.stopped.isSome 31 + m.next), BitVec.ofNat 32 (m.stopped.getD 0), BitVec.ofNat 32 m.legNo, 0#32, 0#32]

theorem matWords_eq {teams : List Nat} {m : MatCmd} (hx : m.dx.length = 16) (hy : m.dy.length = 16) (hz : m.dz.length = 16) :
    matWords teams m = matHead teams m ++ (m.dx ++ (m.dy ++ m.dz)) := by
  unfold matWords
  rw [padWords_of_length hx, padWords_of_length hy, padWords_of_length hz, List.append_assoc, List.append_assoc]
  rfl

theorem matWords_descs {teams : List Nat} {m : MatCmd} (hx : m.dx.length = 16) (hy : m.dy.length = 16) (hz : m.dz.length = 16) :
    ((matWords teams m).drop 16).take 16 = m.dx ∧ ((matWords teams m).drop 32).take 16 = m.dy ∧ ((matWords teams m).drop 48).take 16 = m.dz := by
  have h16 : (matHead teams m).length = 16 := rfl
  have h32 : (matHead teams m ++ m.dx).length = 32 := by rw [List.length_append, h16, hx]
  have h48 : (matHead teams m ++ m.dx ++ m.dy).length = 48 := by rw [List.length_append, h32, hy]
  rw [matWords_eq hx hy hz]
  refine ⟨?_, ?_, ?_⟩
  · rw [List.drop_left' h16, List.take_left' hx]
  · rw [← List.append_assoc, List.drop_left' h32, List.take_left' hy]
  · rw [← List.append_assoc, ← List.append_assoc, List.drop_left' h48, List.take_of_length_le (Nat.le_of_eq hz)]

theorem matWords_head {teams : List Nat} {m : MatCmd} {k : Nat} (hx : m.dx.length = 16) (hy : m.dy.length = 16) (hz : m.dz.length = 16) (hk : k < 16) :
    wordAt (matWords teams m) k = wordAt (matHead teams m) k := by
  rw [matWords_eq hx hy hz]
  exact wordAt_append_left hk

/-- The team of a command is the one that its record names. -/
theorem getElem?_idxOf {l : List Nat} {x : Nat} (h : x ∈ l) (hl : l.length < 2 ^ 32) : l[(BitVec.ofNat 32 ((l.idxOf? x).getD 0)).toNat]? = some x := by
  obtain ⟨i, hi⟩ := Option.isSome_iff_exists.mp (List.isSome_idxOf?.mpr h)
  obtain ⟨hlt, hx, _⟩ := List.idxOf?_eq_some_iff.mp hi
  rw [hi, Option.getD_some, BitVec.toNat_ofNat, Nat.mod_eq_of_lt (Nat.lt_trans hlt hl), List.getElem?_eq_getElem hlt, hx]

theorem toNat_ofNat_lt {n : Nat} (h : n < 2 ^ 32) : (BitVec.ofNat 32 n).toNat = n := by rw [BitVec.toNat_ofNat, Nat.mod_eq_of_lt h]

/-- The stop state and the next granule of a command's record. -/
theorem stoppedWord_fields {n : Nat} (b : Bool) (h : n < 2 ^ 31) :
    (BitVec.ofNat 32 (bitAt b 31 + n)).getLsbD 31 = b ∧ (BitVec.ofNat 32 (bitAt b 31 + n)).toNat % 2 ^ 31 = n := by
  cases b with
  | false =>
    have hb : bitAt false 31 = 0 := rfl
    rw [hb, Nat.zero_add, toNat_ofNat_lt (by omega)]
    refine ⟨?_, Nat.mod_eq_of_lt h⟩
    rw [BitVec.getLsbD_ofNat, Nat.testBit_lt_two_pow h]
    rfl
  | true =>
    have hb : bitAt true 31 = 2 ^ 31 := rfl
    rw [hb, toNat_ofNat_lt (by omega)]
    refine ⟨?_, by omega⟩
    rw [BitVec.getLsbD_ofNat, Nat.testBit_two_pow_add_eq, Nat.testBit_lt_two_pow h]
    rfl

/-- R241, R359: a matrix command read back as the image holds it. -/
theorem restoreMat_of_matWords {s : State} {c : Context} {teams : List Nat} {o : Nat} {m : MatCmd}
    (hw : imageWords s c o 64 = matWords teams m) (hsaved : savedCommand true (encode 0#1 m.instr) = some m.instr) (hteam : m.team ∈ teams)
    (hlen : teams.length < 2 ^ 32) (hpod : m.pod < 256) (hnext : m.next < 2 ^ 31) (hleg : m.legNo < 2 ^ 32)
    (hheld : ∀ k, m.stopped = some k → (∃ r ∈ c.records, r.seq = k) ∧ ∀ r ∈ c.records, r.seq % 2 ^ 32 = k % 2 ^ 32 → r.seq = k)
    (hstands : ∃ t ∈ s.teams, t.id = m.team ∧ ∃ p ∈ t.pods, p.index = m.pod) (hshape : grantOfWord (shapeWord m.shape) = m.shape)
    (hmode : modeWritten m.mode = m.mode) (hrm : modeRmOk m.mode = true) (hdesc : ∀ d ∈ [m.dx, m.dy, m.dz], d.length = 16 ∧ descOk d = true)
    (hpass : m.passes c (((s.teams.find? (·.id == m.team)).map (·.tileSize)).getD 0) = true) (hticket : m.ticketed = true → m.next ≤ m.granules.length) :
    restoreMat s c teams o m = some m := by
  obtain ⟨hx, okx⟩ := hdesc m.dx (by simp)
  obtain ⟨hy, oky⟩ := hdesc m.dy (by simp)
  obtain ⟨hz, okz⟩ := hdesc m.dz (by simp)
  obtain ⟨hdx, hdy, hdz⟩ := matWords_descs (teams := teams) hx hy hz
  have hword {k : Nat} (hk : k < 16) : wordAt (matWords teams m) k = wordAt (matHead teams m) k := matWords_head hx hy hz hk
  obtain ⟨hbit, hnextw⟩ := stoppedWord_fields m.stopped.isSome hnext
  have w0 : wordAt (matWords teams m) 0 = encode 0#1 m.instr := hword (by decide)
  have w1 : wordAt (matWords teams m) 1 = m.sx := hword (by decide)
  have w2 : wordAt (matWords teams m) 2 = m.sy := hword (by decide)
  have w3 : wordAt (matWords teams m) 3 = m.sz := hword (by decide)
  have w4 : wordAt (matWords teams m) 4 = m.sz1 := hword (by decide)
  have w5 : wordAt (matWords teams m) 5 = BitVec.ofNat 32 ((teams.idxOf? m.team).getD 0) := hword (by decide)
  have w6 : wordAt (matWords teams m) 6 = BitVec.ofNat 32 m.pod := hword (by decide)
  have w7 : wordAt (matWords teams m) 7 = shapeWord m.shape := hword (by decide)
  have w8 : wordAt (matWords teams m) 8 = m.step := hword (by decide)
  have w9 : wordAt (matWords teams m) 9 = m.mode := hword (by decide)
  have w10 : wordAt (matWords teams m) 10 = m.key := hword (by decide)
  have w11 : wordAt (matWords teams m) 11 = BitVec.ofNat 32 (bitAt m.stopped.isSome 31 + m.next) := hword (by decide)
  have w12 : wordAt (matWords teams m) 12 = BitVec.ofNat 32 (m.stopped.getD 0) := hword (by decide)
  have w13 : wordAt (matWords teams m) 13 = BitVec.ofNat 32 m.legNo := hword (by decide)
  have wrest : zeroWords (matWords teams m) 14 15 = true := zeroWords_of_wordAt fun k h1 h2 => by
    rcases (show k = 14 ∨ k = 15 by omega) with rfl | rfl
    · exact hword (by decide)
    · exact hword (by decide)
  have hstop : (if m.stopped.isSome = true then heldBy c (.matrix m.id) (m.stopped == some ·) (BitVec.ofNat 32 (m.stopped.getD 0)) else none) = m.stopped := by
    cases hs : m.stopped with
    | none => rfl
    | some k => exact heldBy_of_holder (hheld k hs) (beq_self_eq_true _)
  have hany : (s.teams.any fun t => t.id == m.team && t.pods.any (·.index == m.pod)) = true := by
    obtain ⟨t, ht, hid, p, hp, hi⟩ := hstands
    exact List.any_eq_true.mpr ⟨t, ht, by rw [Bool.and_eq_true]; exact ⟨beq_iff_eq.mpr hid, List.any_eq_true.mpr ⟨p, hp, beq_iff_eq.mpr hi⟩⟩⟩
  have hpodw : (BitVec.ofNat 32 m.pod).toNat = m.pod := toNat_ofNat_lt (by omega)
  unfold restoreMat
  rw [hw]
  dsimp only
  rw [w0, hsaved, w5, w1, w2, w3, w4, w6, w7, w8, w9, w10, w11, w12, w13, hdx, hdy, hdz, hshape, hbit, hnextw, hstop, hpodw, toNat_ofNat_lt hleg]
  show (teams[_]? >>= _) = _
  rw [getElem?_idxOf hteam hlen]
  refine (holds_bind ?_).trans ((holds_bind ?_).trans rfl)
  · simp [hmode, hrm, hany, wrest, hdx, hdy, hdz, okx, oky, okz]
  · rw [hpass]
    by_cases ht : m.ticketed = true
    · simp [ht, hticket ht]
    · simp [ht]

end Sys2Proof.Machine
end

section
/-! O60, part 11: a fabric processor and a ticket entry read back. -/

namespace Sys2Proof.Machine

/-! ### Fabric processors in an image -/

/-- The words of f0 to f15 as a processor's record holds them. -/
def fileRegs (f : List W64) : List W32 := f.flatMap fun v => wordPair v.toNat

theorem fileRegs_length (f : List W64) : (fileRegs f).length = 2 * f.length := by
  induction f with
  | nil => rfl
  | cons v r ih =>
    have hc : fileRegs (v :: r) = wordPair v.toNat ++ fileRegs r := rfl
    rw [hc, List.length_append, ih, List.length_cons]
    have hp : (wordPair v.toNat).length = 2 := rfl
    omega

theorem wordAt_fileRegs {f : List W64} {k : Nat} : ∀ {h : k < f.length},
    wordAt (fileRegs f) (2 * k) = BitVec.ofNat 32 f[k].toNat ∧ wordAt (fileRegs f) (2 * k + 1) = BitVec.ofNat 32 (f[k].toNat / 2 ^ 32) := by
  induction f generalizing k with
  | nil => intro h; exact absurd h (Nat.not_lt_zero k)
  | cons v r ih =>
    intro h
    cases k with
    | zero => exact ⟨rfl, rfl⟩
    | succ k => exact ih (h := Nat.lt_of_succ_lt_succ h)

/-- The words of a processor's record, each at its place. -/
structure ProcessorRecord (p : Fabric) (k : Collective) (w : List W32) : Prop where
  pc : fieldAt w 0 = p.pc.toNat
  regs : ∀ r : Fin 16, fieldAt w (2 + 2 * r.val) = p.f[r].toNat
  cds : (w.drop 34).take 16 = p.cds
  key : wordAt w 50 = p.key
  step : wordAt w 51 = p.step
  tlim : wordAt w 52 = p.tlim
  handle : wordAt w 53 = k.handle
  stop : wordAt w 54 = wordAt (stopWords p.phase) 0
  seq : wordAt w 55 = wordAt (stopWords p.phase) 1
  rest : zeroWords w 56 63 = true

theorem stopWords_length (ph : Phase) : (stopWords ph).length = 2 := by
  cases ph <;> rfl

theorem processorRecord_words {p : Fabric} {k : Collective} (hc : p.cds.length = 16) :
    ProcessorRecord p k (padWords 64 (wordPair p.pc.toNat ++ fileRegs p.f.toList ++ padWords 16 p.cds ++ [p.key, p.step, p.tlim, k.handle] ++ stopWords p.phase)) := by
  have hreg : (fileRegs p.f.toList).length = 32 := by rw [fileRegs_length, Vector.length_toList]
  have hstop : (stopWords p.phase).length = 2 := stopWords_length p.phase
  rw [padWords_of_length hc]
  generalize hall : wordPair p.pc.toNat ++ fileRegs p.f.toList ++ p.cds ++ [p.key, p.step, p.tlim, k.handle] ++ stopWords p.phase = l
  have hform : l = wordPair p.pc.toNat ++ (fileRegs p.f.toList ++ (p.cds ++ ([p.key, p.step, p.tlim, k.handle] ++ stopWords p.phase))) := by
    rw [← hall]
    simp only [List.append_assoc]
  have hp : (wordPair p.pc.toNat).length = 2 := rfl
  have hlen : l.length = 56 := by rw [hform]; simp only [List.length_append, hp, hreg, hc, hstop, List.length_cons, List.length_nil]
  have hpad : padWords 64 l = l ++ List.replicate 8 0#32 := by
    unfold padWords
    rw [hlen, List.take_of_length_le (by rw [List.length_append, hlen, List.length_replicate])]
  have hw (i : Nat) : wordAt (padWords 64 l) i = wordAt l i := wordAt_padWords (by omega)
  have hregs (i : Nat) (hi : i < 32) : wordAt l (2 + i) = wordAt (fileRegs p.f.toList) i := by
    rw [hform, wordAt_append_right (by omega), hp, wordAt_append_left (by omega), Nat.add_sub_cancel_left]
  have htail (i : Nat) : wordAt l (50 + i) = wordAt ([p.key, p.step, p.tlim, k.handle] ++ stopWords p.phase) i := by
    rw [hform, wordAt_append_right (by omega), hp, wordAt_append_right (by omega), hreg, wordAt_append_right (by omega), hc]
    congr 1
    omega
  have hdrop : (padWords 64 l).drop 34 = p.cds ++ ([p.key, p.step, p.tlim, k.handle] ++ stopWords p.phase ++ List.replicate 8 0#32) := by
    have h34 : (wordPair p.pc.toNat ++ fileRegs p.f.toList).length = 34 := by rw [List.length_append, hp, hreg]
    rw [hpad, hform, ← List.append_assoc (wordPair p.pc.toNat), List.append_assoc, List.drop_left' h34, List.append_assoc]
  have hpc := p.pc.isLt
  refine ⟨fieldAt_of_wordPair (by omega) ?_ ?_, fun r => fieldAt_of_wordPair p.f[r].isLt ?_ ?_, ?_, ?_, ?_, ?_, ?_, ?_, ?_,
    zeroWords_of_wordAt fun i hi _ => ?_⟩
  · rw [hw, hform]; rfl
  · rw [hw, hform]; rfl
  · rw [hw, hregs _ (by omega), (wordAt_fileRegs (h := by rw [Vector.length_toList]; exact r.isLt)).1]
    simp
  · rw [hw, Nat.add_assoc, hregs _ (by omega), (wordAt_fileRegs (h := by rw [Vector.length_toList]; exact r.isLt)).2]
    simp
  · rw [hdrop, List.take_left' hc]
  · rw [hw, htail 0]; rfl
  · rw [hw, htail 1]; rfl
  · rw [hw, htail 2]; rfl
  · rw [hw, htail 3]; rfl
  · rw [hw, htail 4]; rfl
  · rw [hw, htail 5]; rfl
  · rw [hw, wordAt_ge (by omega)]

/-- R296, R299, R359: a processor read back as the image holds it. -/
theorem restoreProcessor_of_fabricWords {s : State} {c : Context} {o : Nat} {p : Fabric} {k : Collective}
    (hk : s.colls.find? (fun k => p.coll == some k.id) = some k) (hp : c.processors.find? (fun q => q.index == p.index && q.coll.isSome) = some p)
    (hw : imageWords s c o 64 = fabricWords s c p.index) (hpc : p.pc.toNat % 4 = 0) (hlen : p.cds.length = 16) (hcds : cdsOk p.cds = true) (htl : p.tlim ≠ 0#32)
    (hheld : ∀ n, p.phase = .suspended n → (∃ r ∈ c.records, r.seq = n) ∧ ∀ r ∈ c.records, r.seq % 2 ^ 32 = n % 2 ^ 32 → r.seq = n)
    (hawake : ∀ n, p.phase ≠ .asleep n) : restoreProcessor s c o p = some p := by
  have hform : fabricWords s c p.index =
      padWords 64 (wordPair p.pc.toNat ++ fileRegs p.f.toList ++ padWords 16 p.cds ++ [p.key, p.step, p.tlim, k.handle] ++ stopWords p.phase) := by
    unfold fabricWords
    rw [hp]
    dsimp only
    rw [hk]
    rfl
  obtain ⟨rpc, rregs, rcds, rkey, rstep, rtlim, rhandle, rstop, rseq, rrest⟩ := processorRecord_words (k := k) hlen
  rw [← hform] at rpc rregs rcds rkey rstep rtlim rhandle rstop rseq rrest
  have hphase : phaseOfStop c p (wordAt (stopWords p.phase) 0) (wordAt (stopWords p.phase) 1) = some p.phase := by
    cases hph : p.phase with
    | ready => rfl
    | waiting w n => simp [phaseOfStop, stopWords, wordAt, hph]
    | asleep n => exact absurd hph (hawake n)
    | ended => rfl
    | suspended n =>
      have hb := heldBy_of_holder (a := .fabric p.index) (own := p.phase.suspendedBy) (hheld n hph) (by simp [hph, Phase.suspendedBy])
      simp [phaseOfStop, stopWords, wordAt, hb]
  have hlanded : (wordAt (stopWords p.phase) 0 == 2#32 && p.phase == .ready) = false := by
    cases hph : p.phase <;> rfl
  have hpcl := p.pc.isLt
  have hregs : (Vector.ofFn fun r : Fin 16 => BitVec.ofNat 64 (fieldAt (fabricWords s c p.index) (2 + 2 * r.val))) = p.f :=
    Vector.ext fun r hr => (Vector.getElem_ofFn hr).trans (by rw [rregs ⟨r, hr⟩, BitVec.ofNat_toNat, BitVec.setWidth_eq]; rfl)
  unfold restoreProcessor
  rw [hk, hw]
  dsimp only
  rw [rpc, rcds, rkey, rstep, rtlim, rhandle, rstop, rseq, rrest, hregs]
  refine (holds_bind ?_).trans ?_
  · simp [hpcl, hpc, hcds, htl]
  · rw [hphase]
    show some _ = _
    rw [hlanded]
    simp

/-! ### Ticket entries in an image -/

/-- The 96 bytes of a ticket entry (R358), grouped by their fields. -/
theorem entryBytes_eq (e : TkEntry) : entryBytes e =
    natBytes 8 e.va.toNat ++ (natBytes 2 e.ticket.toNat ++ (natBytes 2 e.mask.toNat ++ (natBytes 1 (e.region + bitAt e.bf16 4) ++ (natBytes 1 e.pod ++
      (natBytes 2 e.core ++ (natBytes 4 e.handle.toNat ++ (List.replicate 12 0#8 ++ wordsBytes (padWords 16 e.data)))))))) := by
  unfold entryBytes
  simp only [List.append_assoc]

/-- The fields of a ticket entry's bytes, each at its place. -/
structure EntryRecord (e : TkEntry) (b : List Byte) : Prop where
  va : bytesNat (b.take 8) = e.va.toNat
  ticket : bytesNat ((b.drop 8).take 2) = e.ticket.toNat
  mask : bytesNat ((b.drop 10).take 2) = e.mask.toNat
  flags : bytesNat ((b.drop 12).take 1) = (e.region + bitAt e.bf16 4) % 256
  pod : bytesNat ((b.drop 13).take 1) = e.pod % 256
  core : bytesNat ((b.drop 14).take 2) = e.core % 2 ^ 16
  handle : bytesNat ((b.drop 16).take 4) = e.handle.toNat
  zeros : (b.drop 20).take 12 = List.replicate 12 0#8
  data : bytesWords 16 (b.drop 32) = padWords 16 e.data

/-- A list cut after a field of known length. -/
theorem drop_field {n k : Nat} {b x r : List Byte} (hb : b.drop n = x ++ r) (hx : x.length = k) : b.drop (n + k) = r := by
  rw [← List.drop_drop, hb]
  exact List.drop_left' hx

theorem bytesNat_natBytes_lt {n v : Nat} (h : v < 256 ^ n) : bytesNat (natBytes n v) = v := by rw [bytesNat_natBytes, Nat.mod_eq_of_lt h]

theorem entryRecord_entryBytes (e : TkEntry) : EntryRecord e (entryBytes e) := by
  have d0 : (entryBytes e).drop 0 = _ := entryBytes_eq e
  have d8 := drop_field d0 natBytes_length
  have d10 := drop_field d8 natBytes_length
  have d12 := drop_field d10 natBytes_length
  have d13 := drop_field d12 natBytes_length
  have d14 := drop_field d13 natBytes_length
  have d16 := drop_field d14 natBytes_length
  have d20 := drop_field d16 natBytes_length
  have d32 := drop_field d20 List.length_replicate
  have field {n k : Nat} {x r : List Byte} (hd : (entryBytes e).drop n = x ++ r) (hx : x.length = k) : ((entryBytes e).drop n).take k = x := by
    rw [hd, List.take_left' hx]
  refine ⟨?_, ?_, ?_, ?_, ?_, ?_, ?_, field d20 List.length_replicate, ?_⟩
  · exact (congrArg bytesNat (field d0 natBytes_length)).trans (bytesNat_natBytes_lt e.va.isLt)
  · rw [field d8 natBytes_length, bytesNat_natBytes_lt e.ticket.isLt]
  · rw [field d10 natBytes_length, bytesNat_natBytes_lt e.mask.isLt]
  · rw [field d12 natBytes_length, bytesNat_natBytes]
    norm_num
  · rw [field d13 natBytes_length, bytesNat_natBytes]
    norm_num
  · rw [field d14 natBytes_length, bytesNat_natBytes]
    norm_num
  · rw [field d16 natBytes_length, bytesNat_natBytes_lt e.handle.isLt]
  · have hd : (entryBytes e).drop 32 = wordsBytes (padWords 16 e.data) := d32
    have hw := bytesWords_wordsBytes (padWords 16 e.data)
    rw [padWords_length] at hw
    rw [hd, hw]

/-- R228, R359: a ticket entry read back as the image holds it. -/
theorem restoreEntry_of_entryBytes {s : State} {c : Context} {o : Nat} {e : TkEntry} {r : Region} (hb : imageGet s c o 96 = entryBytes e)
    (hr : c.regions.getD e.region none = some r) (hreg : e.region < 16) (hal : e.va.toNat % 64 = 0) (hlo : r.base ≤ e.va.toNat)
    (hhi : e.va.toNat < r.base + 64 * r.ngran) (hgran : e.granule = (e.va.toNat - r.base) / 64) (hpod : e.pod < 256) (hcore : e.core < 2 ^ 16)
    (hdata : e.data.length = 16) (ht : translate s c e.va.toNat accAtomic 0 = .ok e.pa) : restoreEntry s c o e = some e := by
  obtain ⟨rva, rticket, rmask, rflags, rpod, rcore, rhandle, rzeros, rdata⟩ := entryRecord_entryBytes e
  have hbit : bitAt e.bf16 4 = if e.bf16 then 16 else 0 := rfl
  have hk : (e.region + bitAt e.bf16 4) % 256 % 16 = e.region := by rw [hbit]; split <;> omega
  have hlt : (e.region + bitAt e.bf16 4) % 256 < 32 := by rw [hbit]; split <;> omega
  have hbf : decide (16 ≤ (e.region + bitAt e.bf16 4) % 256) = e.bf16 := by
    rw [hbit]
    cases e.bf16 with
    | false => exact decide_eq_false (by simp only [Bool.false_eq_true, if_false]; omega)
    | true => exact decide_eq_true (by simp only [if_true]; omega)
  rw [padWords_of_length hdata] at rdata
  unfold restoreEntry
  rw [hb]
  dsimp only
  rw [rva, rticket, rmask, rflags, rpod, rcore, rhandle, rzeros, rdata, hk, hr, hbf, Nat.mod_eq_of_lt hpod, Nat.mod_eq_of_lt (show e.core < 2 ^ 16 from hcore)]
  refine (holds_bind ?_).trans ?_
  · rw [decide_eq_true hlt, decide_eq_true hlo, decide_eq_true hhi]
    simp [hal]
  · rw [ht]
    show some _ = _
    rw [← hgran, BitVec.ofNat_toNat, BitVec.setWidth_eq, BitVec.ofNat_toNat, BitVec.setWidth_eq, BitVec.ofNat_toNat, BitVec.setWidth_eq]

end Sys2Proof.Machine
end

section
/-! O60: the events of the module. -/

namespace Sys2Proof.Machine

/-- Settles O60, clause by clause from the laws of resets, counters, scrubs, switches and images. -/
theorem moduleEvents : Obligations.ModuleEvents := by
  intro fn pa owner kind unit n part out s
  refine ⟨fun hp => exec_reset (show execModuleReset s = _ by unfold execModuleReset; rw [hp]; rfl), exec_reset rfl, exec_moduleReset_unpowered,
    bootStages_cons, exec_hernusBoot s, exec_linkTraining s, rfl, rfl, exec_functionLevelReset, exec_tdiError, fun code st x hx ho => endContext_nodes hx ho,
    exec_unseen, exec_hbmPatrolScrub, exec_counterCarry, countOne_spec, postNotice_spec, fun o k m u => ⟨rfl, rfl, fun _ _ _ _ _ => rfl⟩,
    fun o => ⟨rfl, rfl, stopTeam_spec s, requeue_spec s o⟩, stopPod_spec, scrub_spec, restoreOwner_spec s part,
    fun c o b h hole hc _ hz => imagePut_spec h hole hc hz, fun c o unit n frac x h => restoreCount_of_countWords h,
    fun c o file team a p hw hv hpw hlim hsp hspl hslot hheld hws => restorePod_of_podWords hw hv hpw hlim hsp hspl hslot hheld hws,
    fun c teams o m hw hsaved hteam hlen hpod hnext hleg hheld hstands hshape hmode hrm hdesc hpass hticket =>
      restoreMat_of_matWords hw hsaved hteam hlen hpod hnext hleg hheld hstands hshape hmode hrm hdesc hpass hticket,
    fun c o p k hk hp hw hpc hlen hcds htl hheld hawake => restoreProcessor_of_fabricWords hk hp hw hpc hlen hcds htl hheld hawake,
    fun c o e r hb hr hreg hal hlo hhi hgran hpod hcore hdata ht => restoreEntry_of_entryBytes hb hr hreg hal hlo hhi hgran hpod hcore hdata ht,
    quantumEnd_resident, quantumEnd_empty⟩

end Sys2Proof.Machine
end

section
/-! O57, part 1: counting that no select register asks for, posted transfers and flags. -/

namespace Sys2Proof.Machine

/-! ### Counting that no select register asks for -/

theorem countFabric_quiet {s : State} {f ev amount scale : Nat} (h : ∀ n < 4, selCounts (s.fpsel.getD (4 * f + n) 0#32) ev = false) :
    countFabric s f ev amount scale = s := by
  have hone : ∀ n < 4, countFabricOne s f n ev amount scale = s := fun n hn => by simp only [countFabricOne, h n hn]; rfl
  simp [countFabric, hone]

theorem sendOut_quiet {s : State} {f : Nat} {x : Outgoing} {n : Nat} (h : ∀ n < 4, selCounts (s.fpsel.getD (4 * f + n) 0#32) 1 = false) :
    sendOut s f x n = { s with out := s.out ++ [x] } := countFabric_quiet (s := { s with out := s.out ++ [x] }) h

/-! ### Posted transfers (R311) -/

theorem exec_postedTransferLocalCompletion_reads {s : State} {f : Nat} {p : Fabric} {m : Transfer} (hf : findTransfer s f m.id = some (p, m))
    (hr : m.read = false) (hp : m.posted = true) (hw : p.coll = some m.coll → ∃ k, p.phase = .waiting .launch k) :
    exec (.postedTransferLocalCompletion f m.id) s = .next (localCompletion s f m) := by
  have hstands : (p.coll == some m.coll && !p.posting) = false := by
    by_cases hc : p.coll = some m.coll
    · obtain ⟨k, hk⟩ := hw hc
      simp [Fabric.posting, hk]
    · simp [hc]
  show execPostedTransferLocalCompletion f m.id s = _
  simp [execPostedTransferLocalCompletion, hf, hr, hp, hstands]

theorem exec_postedTransferLocalCompletion_idle {s : State} {f id : Nat} {p : Fabric} {m : Transfer} (hf : findTransfer s f id = some (p, m))
    (h : m.read = true ∨ m.posted = false) : exec (.postedTransferLocalCompletion f id) s = .next s := by
  show execPostedTransferLocalCompletion f id s = _
  rcases h with h | h <;> simp [execPostedTransferLocalCompletion, hf, h]

theorem localCompletion_ok {s : State} {f : Nat} {m : Transfer} {b : List Byte} (h : engineRead s (s.ctxOf m.owner) m.place.toNat m.len = .ok b)
    (hq : ∀ n < 4, selCounts (s.fpsel.getD (4 * f + n) 0#32) 1 = false) :
    let t := mapTransfer (freeHolder s m fun p => { p with phase := .ready }) m.id fun x => { x with read := true, data := if m.inside then b else [] }
    localCompletion s f m = if m.inside then t else { t with out := t.out ++ [.write f m.entry m.win m.remote b] } := by
  intro t
  unfold localCompletion
  rw [h]
  exact congrArg (fun u => if m.inside then t else u) (sendOut_quiet (s := t) hq)

theorem localCompletion_error {s : State} {f : Nat} {m : Transfer} {e : Stop} (h : engineRead s (s.ctxOf m.owner) m.place.toNat m.len = .error e) :
    localCompletion s f m = faultWaiting s f m.id 4#51 e := by
  unfold localCompletion
  rw [h]

/-! ### The flag of a ZAGS (R310, R326) -/

theorem flagDue_iff {q : Fabric} {x : Transfer} :
    flagDue q x = true ↔ x.acked = true ∧ ∀ y ∈ q.transfers, y.posted = true → y.coll = x.coll → x.id ≤ y.id := by
  simp [flagDue]

theorem sendFlags_none {u : State} {f : Nat}
    (h : ∀ q ∈ u.fabric ++ u.owners.flatMap (·.processors), q.index = f → ∀ x ∈ q.transfers, flagDue q x = false) : sendFlags u f = u := by
  unfold sendFlags
  have hdue : ∀ q ∈ (u.fabric ++ u.owners.flatMap (·.processors)).filter (·.index == f), q.transfers.filter (flagDue q) = [] := by
    intro q hq
    obtain ⟨hmem, hi⟩ := List.mem_filter.mp hq
    exact List.filter_eq_nil_iff.mpr fun x hx => by simp [h q hmem (by simpa using hi) x hx]
  generalize (u.fabric ++ u.owners.flatMap (·.processors)).filter (·.index == f) = l at hdue
  induction l with
  | nil => rfl
  | cons q l ih =>
    rw [List.foldl_cons, hdue q (by simp)]
    exact ih fun q hq => hdue q (by simp [hq])

theorem sendFlag_quiet {u : State} {f : Nat} {x : Transfer} {off : W64} {v : W32} (hx : x.flag = some (off, v))
    (hq : x.inside = false → ∀ n < 4, selCounts (u.fpsel.getD (4 * f + n) 0#32) 1 = false) :
    let data : List Byte := natBytes 4 v.toNat
    let w := mapTransfer u x.id fun t => { t with flag := none, acked := false, remote := off, len := 4, data := if t.inside then data else [] }
    sendFlag u f x = if x.inside then w else { w with out := w.out ++ [.write f x.entry x.win off data] } := by
  intro data w
  unfold sendFlag
  rw [hx]
  cases hi : x.inside with
  | true => rfl
  | false => exact sendOut_quiet (s := w) (hq hi)

theorem sendFlags_one {u : State} {f : Nat} {q : Fabric} {x : Transfer}
    (hq : (u.fabric ++ u.owners.flatMap (·.processors)).filter (·.index == f) = [q]) (hx : q.transfers.filter (flagDue q) = [x]) :
    sendFlags u f = sendFlag u f x := by
  simp only [sendFlags, hq, hx, List.foldl_cons, List.foldl_nil]

end Sys2Proof.Machine
end

section
/-! O57, part 2: faults at transfers, acknowledgements and waited transfers. -/

namespace Sys2Proof.Machine

/-! ### A fault at a transfer (R311, R330) -/

theorem faultWaiting_over {s : State} {f : Nat} {p : Fabric} {m : Transfer} {n : BitVec 51} {e : Stop} (hf : findTransfer s f m.id = some (p, m))
    (hk : s.colls.find? (fun k => p.coll == some k.id && m.coll == k.id) = none) :
    faultWaiting s f m.id n e = dropTransfer (passWaited (postRecord s (windowSite m.owner f) e) m) m.id := by
  unfold faultWaiting
  rw [hf]
  dsimp only
  rw [hk]

theorem faultWaiting_live {s : State} {f : Nat} {p : Fabric} {m : Transfer} {k : Collective} {n : BitVec 51} {e : Stop}
    (hf : findTransfer s f m.id = some (p, m)) (hk : s.colls.find? (fun k => p.coll == some k.id && m.coll == k.id) = some k) :
    faultWaiting s f m.id n e =
      let seq := (s.ctxOf m.owner).seq
      let u := postRecord s (fabricSite { s with fp := { p with pc := p.pc - n }, coll := k, ctx := s.ctxOf m.owner }) e
      let u := dropTransfer (mapHolder u m.id fun q => { q with pc := p.pc - n, phase := if k.susp then .suspended seq else q.phase }) m.id
      if k.susp then { u with colls := replaceIf u.colls (·.id == k.id) fun c => { c with stopped := c.stopped ++ [seq] } }
      else endCollective u k.id e.code.number := by
  unfold faultWaiting
  rw [hf]
  dsimp only
  rw [hk]

theorem faultWaiting_suspends {s : State} {f : Nat} {p : Fabric} {m : Transfer} {k : Collective} {n : BitVec 51} {e : Stop}
    (hf : findTransfer s f m.id = some (p, m)) (hk : s.colls.find? (fun k => p.coll == some k.id && m.coll == k.id) = some k) (hs : k.susp = true) :
    faultWaiting s f m.id n e =
      let seq := (s.ctxOf m.owner).seq
      let u := postRecord s (fabricSite { s with fp := { p with pc := p.pc - n }, coll := k, ctx := s.ctxOf m.owner }) e
      let u := dropTransfer (mapHolder u m.id fun q => { q with pc := p.pc - n, phase := .suspended seq }) m.id
      { u with colls := replaceIf u.colls (·.id == k.id) fun c => { c with stopped := c.stopped ++ [seq] } } := by
  rw [faultWaiting_live hf hk]
  simp only [hs, if_true]

theorem faultWaiting_ends {s : State} {f : Nat} {p : Fabric} {m : Transfer} {k : Collective} {n : BitVec 51} {e : Stop}
    (hf : findTransfer s f m.id = some (p, m)) (hk : s.colls.find? (fun k => p.coll == some k.id && m.coll == k.id) = some k) (hs : k.susp = false) :
    faultWaiting s f m.id n e =
      let u := postRecord s (fabricSite { s with fp := { p with pc := p.pc - n }, coll := k, ctx := s.ctxOf m.owner }) e
      endCollective (dropTransfer (mapHolder u m.id fun q => { q with pc := p.pc - n }) m.id) k.id e.code.number := by
  rw [faultWaiting_live hf hk]
  simp only [hs, Bool.false_eq_true, if_false]

/-! ### Acknowledgements (R310 to R312) -/

/-- What an acknowledgement that landed leaves before flags go out: a ZAGS stays listed for its flag. -/
def ackLanded (s : State) (m : Transfer) : State :=
  if m.flag.isSome then mapTransfer s m.id fun t => { t with acked := true } else dropTransfer s m.id

theorem ackLanded_none {s : State} {m : Transfer} (h : m.flag = none) : ackLanded s m = dropTransfer s m.id := by
  simp [ackLanded, h]

theorem ackLanded_some {s : State} {m : Transfer} (h : m.flag ≠ none) : ackLanded s m = mapTransfer s m.id fun t => { t with acked := true } := by
  simp [ackLanded, Option.isSome_iff_ne_none.mpr h]

section
variable {s u : State} {f refusal n : Nat} {p : Fabric} {m : Transfer}

theorem exec_transferAcknowledgement_idle {id : Nat} (hf : findTransfer s f id = some (p, m)) (h : m.read = false ∨ m.acked = true) :
    exec (.transferAcknowledgement f id refusal) s = .next s := by
  show execTransferAcknowledgement f id refusal s = _
  rcases h with h | h <;> simp [execTransferAcknowledgement, hf, h]

theorem exec_transferAcknowledgement_posted (hf : findTransfer s f m.id = some (p, m)) (hr : m.read = true) (ha : m.acked = false) (hp : m.posted = true) :
    exec (.transferAcknowledgement f m.id refusal) s = .next (sendFlags (if (answerOf s f m refusal).2 != 0
      then noteRefusal (answerOf s f m refusal).1 m (answerOf s f m refusal).2 else ackLanded (answerOf s f m refusal).1 m) f) := by
  show execTransferAcknowledgement f m.id refusal s = _
  simp [execTransferAcknowledgement, ackLanded, hf, hr, ha, hp]

theorem exec_transferAcknowledgement_lands (hf : findTransfer s f m.id = some (p, m)) (hr : m.read = true) (ha : m.acked = false) (hp : m.posted = true)
    (h : answerOf s f m refusal = (u, 0)) : exec (.transferAcknowledgement f m.id refusal) s = .next (sendFlags (ackLanded u m) f) := by
  rw [exec_transferAcknowledgement_posted hf hr ha hp, h]
  rfl

theorem exec_transferAcknowledgement_refused (hf : findTransfer s f m.id = some (p, m)) (hr : m.read = true) (ha : m.acked = false) (hp : m.posted = true)
    (h : answerOf s f m refusal = (u, n)) (hn : n ≠ 0) : exec (.transferAcknowledgement f m.id refusal) s = .next (sendFlags (noteRefusal u m n) f) := by
  rw [exec_transferAcknowledgement_posted hf hr ha hp, h]
  simp [hn]

theorem answerOf_outside (hi : m.inside = false) : answerOf s f m refusal = (s, refusal) := by
  simp [answerOf, hi]

theorem answerOf_write {ok : Bool} (hi : m.inside = true) (hk : m.kind ≠ .arrival) (h : landWrite s m.owner f m.win m.remote m.data = (u, ok)) :
    answerOf s f m refusal = (u, if ok then 0 else Trap.permission.number) := by
  unfold answerOf
  rw [hi, h]
  cases hkind : m.kind
  case arrival => exact absurd hkind hk
  all_goals rfl

theorem answerOf_arrival (hi : m.inside = true) (hk : m.kind = .arrival) (h : landArrival s m.owner f m.win m.remote = (u, n)) :
    answerOf s f m refusal = (u, n) := by
  unfold answerOf
  rw [hi, hk]
  exact h

theorem posted_of_arrival (hk : m.kind = .arrival) : m.posted = true := by simp [Transfer.posted, hk]

theorem exec_transferAcknowledgement_waited (hf : findTransfer s f m.id = some (p, m)) (hr : m.read = true) (ha : m.acked = false) (hp : m.posted = false)
    (h : refusal = 0 ∨ m.inside = true) : exec (.transferAcknowledgement f m.id refusal) s = .next s := by
  show execTransferAcknowledgement f m.id refusal s = _
  simp [execTransferAcknowledgement, hf, hr, ha, hp, h]

theorem exec_transferAcknowledgement_waitedRefused (hf : findTransfer s f m.id = some (p, m)) (hr : m.read = true) (ha : m.acked = false)
    (hp : m.posted = false) (hi : m.inside = false) (h : refusal ≠ 0) :
    exec (.transferAcknowledgement f m.id refusal) s = .next (noteRefusal (passWaited s m) m refusal) := by
  show execTransferAcknowledgement f m.id refusal s = _
  simp [execTransferAcknowledgement, hf, hr, ha, hp, hi, h]

/-! ### Waited transfers (R311, R313) -/

theorem exec_waitedTransferCompletion_input {id k : Nat} {bytes : List Byte} (hf : findTransfer s f id = some (p, m)) (hp : p.phase = .waiting .engine k)
    (hm : m.posted = false) (hc : p.coll = some m.coll) (hi : m.input.isSome = true) :
    exec (.waitedTransferCompletion f id bytes) s = .next (if m.landed = m.len then endWaited s m else s) := by
  show execWaitedTransferCompletion f id bytes s = _
  simp [execWaitedTransferCompletion, hf, hp, hm, hc, hi]

end

section
variable {s u : State} {f k : Nat} {p : Fabric} {m : Transfer} {bytes b : List Byte} {e : Stop}

/-- What the bytes of a waited transfer leave: a fault, a refusal or nothing where there are none. -/
def waitedEnd (s : State) (f : Nat) (p : Fabric) (m : Transfer) : Except Stop (Option (List Byte)) → State
  | .error e => faultWaiting s f m.id 0#51 e
  | .ok none => if m.inside then noteRefusal (passWaited (refuseWindow s m.owner f m.remote accRead) m) m Trap.permission.number else s
  | .ok (some b) => match landWaited s f p m b with
    | .error e => faultWaiting s f m.id 0#51 e
    | .ok u => endWaited (if m.inside then u else countFabric u f 0x02 b.length 64) m

/-- The event of a waited transfer of no transform input, by what its bytes are. -/
theorem exec_waitedTransferCompletion_bytes (hf : findTransfer s f m.id = some (p, m)) (hp : p.phase = .waiting .engine k) (hm : m.posted = false)
    (hc : p.coll = some m.coll) (hi : m.input = none) :
    exec (.waitedTransferCompletion f m.id bytes) s = .next (waitedEnd s f p m (waitedBytes s m bytes)) := by
  show execWaitedTransferCompletion f m.id bytes s = _
  have hstands : (m.posted || p.coll != some m.coll) = false := by simp [hm, hc]
  unfold execWaitedTransferCompletion
  rw [hf]
  dsimp only
  rw [hp]
  simp only [hstands, hi, Option.isSome_none, Bool.false_eq_true, if_false]
  rfl

theorem waitedBytes_outside (hi : m.inside = false) : waitedBytes s m bytes = .ok (if bytes.length = m.len then some bytes else none) := by
  simp [waitedBytes, hi]

theorem waitedBytes_refused (hi : m.inside = true) (h : windowPlace s (s.ctxOf m.owner) m.win m.remote m.len accRead = none) :
    waitedBytes s m bytes = .ok none := by
  simp [waitedBytes, hi, h]

theorem waitedBytes_inside {va : Nat} (hi : m.inside = true) (h : windowPlace s (s.ctxOf m.owner) m.win m.remote m.len accRead = some va) :
    waitedBytes s m bytes = (engineRead s (s.ctxOf m.owner) va m.len).map some := by
  simp [waitedBytes, hi, h]

theorem exec_waitedTransferCompletion_lands (hf : findTransfer s f m.id = some (p, m)) (hp : p.phase = .waiting .engine k) (hm : m.posted = false)
    (hc : p.coll = some m.coll) (hi : m.input = none) (hb : waitedBytes s m bytes = .ok (some b)) (hu : landWaited s f p m b = .ok u)
    (hq : m.inside = false → ∀ n < 4, selCounts (u.fpsel.getD (4 * f + n) 0#32) 2 = false) :
    exec (.waitedTransferCompletion f m.id bytes) s = .next (endWaited u m) := by
  rw [exec_waitedTransferCompletion_bytes hf hp hm hc hi, hb]
  simp only [waitedEnd, hu]
  cases hin : m.inside with
  | true => rfl
  | false => exact congrArg (fun v => Host.Outcome.next (endWaited v m)) (countFabric_quiet (hq hin))

theorem exec_waitedTransferCompletion_landFault (hf : findTransfer s f m.id = some (p, m)) (hp : p.phase = .waiting .engine k) (hm : m.posted = false)
    (hc : p.coll = some m.coll) (hi : m.input = none) (hb : waitedBytes s m bytes = .ok (some b)) (hu : landWaited s f p m b = .error e) :
    exec (.waitedTransferCompletion f m.id bytes) s = .next (faultWaiting s f m.id 0#51 e) := by
  rw [exec_waitedTransferCompletion_bytes hf hp hm hc hi, hb]
  simp only [waitedEnd, hu]

theorem exec_waitedTransferCompletion_sourceFault (hf : findTransfer s f m.id = some (p, m)) (hp : p.phase = .waiting .engine k) (hm : m.posted = false)
    (hc : p.coll = some m.coll) (hi : m.input = none) (hb : waitedBytes s m bytes = .error e) :
    exec (.waitedTransferCompletion f m.id bytes) s = .next (faultWaiting s f m.id 0#51 e) := by
  rw [exec_waitedTransferCompletion_bytes hf hp hm hc hi, hb]
  rfl

theorem exec_waitedTransferCompletion_waits (hf : findTransfer s f m.id = some (p, m)) (hp : p.phase = .waiting .engine k) (hm : m.posted = false)
    (hc : p.coll = some m.coll) (hi : m.input = none) (hin : m.inside = false) (hb : bytes.length ≠ m.len) :
    exec (.waitedTransferCompletion f m.id bytes) s = .next s := by
  rw [exec_waitedTransferCompletion_bytes hf hp hm hc hi, waitedBytes_outside hin, if_neg hb]
  simp [waitedEnd, hin]

theorem exec_waitedTransferCompletion_refused (hf : findTransfer s f m.id = some (p, m)) (hp : p.phase = .waiting .engine k) (hm : m.posted = false)
    (hc : p.coll = some m.coll) (hi : m.input = none) (hin : m.inside = true)
    (h : windowPlace s (s.ctxOf m.owner) m.win m.remote m.len accRead = none) :
    exec (.waitedTransferCompletion f m.id bytes) s =
      .next (noteRefusal (passWaited (refuseWindow s m.owner f m.remote accRead) m) m Trap.permission.number) := by
  rw [exec_waitedTransferCompletion_bytes hf hp hm hc hi, waitedBytes_refused hin h]
  simp [waitedEnd, hin]

/-! ### Landing (R311, R313) -/

theorem landWaited_sinkFault (h : translateRange s (s.ctxOf m.owner) accWrite 0 (pagesOf m.place.toNat m.len) = .error e) :
    landWaited s f p m bytes = .error e := by
  unfold landWaited
  dsimp only
  rw [h]
  rfl

theorem landWaited_plain (h : translateRange s (s.ctxOf m.owner) accWrite 0 (pagesOf m.place.toNat m.len) = .ok ()) (hz : m.rz = false) :
    landWaited s f p m bytes = .ok (putDiscarding s (windowSite m.owner f) (s.ctxOf m.owner) m.place.toNat bytes) := by
  unfold landWaited
  dsimp only
  rw [h, hz]
  rfl

/-- The state after a waited transfer's bytes, as the processor's own collective sees it. -/
def landedView (s : State) (f : Nat) (p : Fabric) (m : Transfer) (bytes : List Byte) : State :=
  let t := putDiscarding s (windowSite m.owner f) (s.ctxOf m.owner) m.place.toNat bytes
  { t with coll := p.view Collective.reset, ctx := t.ctxOf m.owner }

theorem landWaited_rz (h : translateRange s (s.ctxOf m.owner) accWrite 0 (pagesOf m.place.toNat m.len) = .ok ()) (hz : m.rz = true) :
    let t := putDiscarding s (windowSite m.owner f) (s.ctxOf m.owner) m.place.toNat bytes
    landWaited s f p m bytes = (residualReset (landedView s f p m bytes)).map (resetResidual t (windowSite m.owner f) (t.ctxOf m.owner)) := by
  intro t
  unfold landWaited
  dsimp only
  rw [h, hz]
  show (residualReset (landedView s f p m bytes) >>= fun b => _) = _
  cases residualReset (landedView s f p m bytes) <;> rfl

theorem residualReset_unread {z : State} (h : residualOf z (fun _ t => t) = .error e) : residualReset z = .error e := by
  unfold residualReset
  rw [h]
  rfl

theorem residualReset_buffer {z : State} {r : Residual} (h : residualOf z (fun _ t => t) = .ok r)
    (hb : translateRange z z.ctx accWrite 0 (pagesOf r.base r.size) = .error e) : residualReset z = .error e := by
  unfold residualReset
  rw [h]
  show (translateRange z z.ctx accWrite 0 (pagesOf r.base r.size) >>= fun _ => _) = _
  rw [hb]
  rfl

theorem residualReset_ok_buffer {z : State} {r : Residual} (h : residualOf z (fun _ t => t) = .ok r)
    (hb : translateRange z z.ctx accWrite 0 (pagesOf r.base r.size) = .ok ()) :
    residualReset z = (translateRange z z.ctx accWrite 0 (pagesOf r.addr 64)).map fun _ => r := by
  unfold residualReset
  rw [h]
  show (translateRange z z.ctx accWrite 0 (pagesOf r.base r.size) >>= fun _ => _) = _
  rw [hb]
  show (translateRange z z.ctx accWrite 0 (pagesOf r.addr 64) >>= fun _ => _) = _
  cases translateRange z z.ctx accWrite 0 (pagesOf r.addr 64) <;> rfl

theorem resetResidual_read {t : State} {x : Site} {c : Context} {r : Residual} {l : List Byte} :
    let u := putDiscarding t x c r.base (List.replicate r.size 0#8)
    engineRead u (u.ctxOf c.owner) (r.addr + 4) 4 = .ok l →
    resetResidual t x c r = putDiscarding u x (u.ctxOf c.owner) (r.addr + 4) (natBytes 4 (bytesNat l + 1)) := by
  intro u h
  unfold resetResidual
  dsimp only
  rw [h]

theorem resetResidual_unread {t : State} {x : Site} {c : Context} {r : Residual} {z : Stop} :
    let u := putDiscarding t x c r.base (List.replicate r.size 0#8)
    engineRead u (u.ctxOf c.owner) (r.addr + 4) 4 = .error z →
    resetResidual t x c r = putDiscarding u x (u.ctxOf c.owner) (r.addr + 4) (natBytes 4 (r.gen.toNat + 1)) := by
  intro u h
  unfold resetResidual
  dsimp only
  rw [h]

end

end Sys2Proof.Machine
end

section
/-! O57, part 3: windows and what arrives for a job. -/

namespace Sys2Proof.Machine

/-! ### Windows (R300, R312) -/

theorem fieldAt_eq (w : List W32) (k : Nat) : fieldAt w k = (wordAt w k).toNat + 2 ^ 32 * (wordAt w (k + 1)).toNat := by
  have h := (wordAt w k).isLt
  rw [fieldAt, BitVec.toNat_append, Nat.shiftLeft_eq, Nat.mul_comm, ← Nat.two_pow_add_eq_or_of_lt h, Nat.add_comm]

/-- An access of n bytes at an offset is one that window k of a context and its pages allow. -/
def WindowOpens (s : State) (x : Context) (k : Nat) (off : W64) (n kind : Nat) : Prop :=
  let w := windowOf x k
  (if kind = accRead then w.2.2.2 else w.2.2.1) = true ∧ off.toNat + n ≤ w.2.1 ∧ translateRange s x kind 0 (pagesOf (w.1 + off.toNat) n) = .ok ()

section
variable {s u : State} {x : Context} {k n kind : Nat} {off : W64}

theorem windowPlace_opens (h : WindowOpens s x k off n kind) : windowPlace s x k off n kind = some ((windowOf x k).1 + off.toNat) := by
  obtain ⟨hright, hsize, hpages⟩ := h
  unfold windowPlace
  dsimp only
  rw [hpages]
  simp_all

theorem windowPlace_shut (h : ¬WindowOpens s x k off n kind) : windowPlace s x k off n kind = none := by
  rcases hpages : translateRange s x kind 0 (pagesOf ((windowOf x k).1 + off.toNat) n) with e | _
  · simp [windowPlace, hpages]
  · have hshut : (if kind = accRead then (windowOf x k).2.2.2 else (windowOf x k).2.2.1) = true → ¬off.toNat + n ≤ (windowOf x k).2.1 :=
      fun hright hsize => h ⟨hright, hsize, hpages⟩
    simpa [windowPlace, hpages] using hshut

variable {w g win : Nat} {bytes : List Byte}

theorem landWrite_refused (h : windowPlace s (s.ctxOf w) win off bytes.length accWrite = none) :
    landWrite s w g win off bytes = (refuseWindow s w g off accWrite, false) := by
  unfold landWrite
  dsimp only
  rw [h]

theorem landWrite_lands {va : Nat} (h : windowPlace s (s.ctxOf w) win off bytes.length accWrite = some va) :
    landWrite s w g win off bytes = (putDiscarding s (windowSite w g) (s.ctxOf w) va bytes, true) := by
  unfold landWrite
  dsimp only
  rw [h]

theorem landArrival_refused (h : windowPlace s (s.ctxOf w) win off 64 accWrite = none) :
    landArrival s w g win off = (refuseWindow s w g off accAtomic, Trap.permission.number) := by
  unfold landArrival
  rw [h]

theorem landArrival_arrives {va : Nat} {v : W32} (h : windowPlace s (s.ctxOf w) win off 64 accWrite = some va) (ha : arrive s w va = ⟨u, .ok v⟩) :
    landArrival s w g win off = (u, 0) := by
  unfold landArrival
  rw [h]
  dsimp only
  rw [ha]

theorem landArrival_faults {va : Nat} {t : Stop} (h : windowPlace s (s.ctxOf w) win off 64 accWrite = some va) (ha : arrive s w va = ⟨u, .error t⟩) :
    landArrival s w g win off = (s, if t.code = .barrierObject then Trap.barrierObject.number else Trap.permission.number) := by
  unfold landArrival
  rw [h]
  dsimp only
  rw [ha]
  by_cases hc : t.code = .barrierObject <;> simp [hc]

end

/-! ### Arrivals of a job (R7, R13, R312, R327) -/

section
variable {s u : State} {job : W32} {sender : Sender} {win len w : Nat} {off : W64} {bytes b : List Byte}

theorem arrivalOwner_none {port : Nat} (h : jobOwner s job = none ∨ 48 ≤ port) : arrivalOwner s job port = none := by
  rcases h with h | h
  · simp [arrivalOwner, h]
  · simp [arrivalOwner, Nat.not_lt.mpr h]

theorem arrivalOwner_some {port : Nat} (h : jobOwner s job = some w) (hp : port < 48) : arrivalOwner s job port = some w := by
  simp [arrivalOwner, h, hp]

theorem inGroup_iff {fea : W64} : inGroup s w fea = true ↔ fea ∈ (s.ctxOf w).group := by simp [inGroup]

theorem inGroup_false {fea : W64} (h : fea ∉ (s.ctxOf w).group) : inGroup s w fea = false := by simp [inGroup, h]

theorem exec_rmaWriteArrival_unknown (h : arrivalOwner s job sender.port = none) : exec (.rmaWriteArrival job sender win off bytes) s = .next s := by
  show execRmaWriteArrival job sender win off bytes s = _
  simp [execRmaWriteArrival, h]

theorem exec_rmaReadArrival_unknown (h : arrivalOwner s job sender.port = none) : exec (.rmaReadArrival job sender win off len) s = .next s := by
  show execRmaReadArrival job sender win off len s = _
  simp [execRmaReadArrival, h]

theorem exec_remoteArrival_unknown (h : arrivalOwner s job sender.port = none) : exec (.remoteArrival job sender win off len) s = .next s := by
  show execRemoteArrival job sender win off len s = _
  simp [execRemoteArrival, h]

/-- What a write transfer leaves and whether it landed: outside the owner's group it is refused. -/
def groupWrite (s : State) (w : Nat) (sender : Sender) (win : Nat) (off : W64) (bytes : List Byte) : State × Bool :=
  if inGroup s w sender.fea then landWrite s w (receiverOf sender.port) win off bytes else (refuseWindow s w (receiverOf sender.port) off accWrite, false)

theorem exec_rmaWriteArrival_answer {ok : Bool} (ho : arrivalOwner s job sender.port = some w) (hl : groupWrite s w sender win off bytes = (u, ok))
    (hs : u.fpsel = s.fpsel) (hq : ∀ n < 4, selCounts (s.fpsel.getD (4 * (sender.port / 3) + n) 0#32) 2 = false) :
    exec (.rmaWriteArrival job sender win off bytes) s =
      .next { u with out := u.out ++ [if ok then .landed sender.fea else .refusal sender.fea .permission] } := by
  rw [← hs] at hq
  show execRmaWriteArrival job sender win off bytes s = _
  unfold execRmaWriteArrival
  rw [ho]
  dsimp only
  rw [show (if inGroup s w sender.fea then landWrite s w (receiverOf sender.port) win off bytes
    else (refuseWindow s w (receiverOf sender.port) off accWrite, false)) = (u, ok) from hl]
  dsimp only
  rw [countFabric_quiet (f := receiverOf sender.port) hq]

theorem groupWrite_member (h : sender.fea ∈ (s.ctxOf w).group) : groupWrite s w sender win off bytes = landWrite s w (sender.port / 3) win off bytes :=
  if_pos (inGroup_iff.mpr h)

theorem groupWrite_stranger (h : sender.fea ∉ (s.ctxOf w).group) :
    groupWrite s w sender win off bytes = (refuseWindow s w (sender.port / 3) off accWrite, false) := by
  simp only [groupWrite, inGroup_false h, Bool.false_eq_true, if_false, receiverOf]

theorem exec_rmaReadArrival_served {va : Nat} (ho : arrivalOwner s job sender.port = some w) (hg : sender.fea ∈ (s.ctxOf w).group)
    (hw : windowPlace s (s.ctxOf w) win off len accRead = some va) (hb : engineRead s (s.ctxOf w) va len = .ok b)
    (hq : ∀ n < 4, selCounts (s.fpsel.getD (4 * (sender.port / 3) + n) 0#32) 1 = false) :
    exec (.rmaReadArrival job sender win off len) s = .next { s with out := s.out ++ [.served sender.fea b] } := by
  show execRmaReadArrival job sender win off len s = _
  unfold execRmaReadArrival
  rw [ho]
  dsimp only
  rw [if_pos (inGroup_iff.mpr hg), hw]
  dsimp only
  rw [hb]
  exact congrArg _ (countFabric_quiet (s := { s with out := s.out ++ [.served sender.fea b] }) hq)

theorem exec_rmaReadArrival_fault {va : Nat} {t : Stop} (ho : arrivalOwner s job sender.port = some w) (hg : sender.fea ∈ (s.ctxOf w).group)
    (hw : windowPlace s (s.ctxOf w) win off len accRead = some va) (hb : engineRead s (s.ctxOf w) va len = .error t) :
    exec (.rmaReadArrival job sender win off len) s =
      .next (let u := postRecord s (windowSite w (sender.port / 3)) (windowError t); { u with out := u.out ++ [.refusal sender.fea t.code] }) := by
  show execRmaReadArrival job sender win off len s = _
  unfold execRmaReadArrival
  rw [ho]
  dsimp only
  rw [if_pos (inGroup_iff.mpr hg), hw]
  dsimp only
  rw [hb]
  rfl

theorem windowError_eq {t : Stop} : windowError t = if t.code = .uncorrectable then t else { t with info1 := 1#32 } := by
  by_cases h : t.code = .uncorrectable <;> simp [windowError, h, accRead]

theorem exec_rmaReadArrival_refused (ho : arrivalOwner s job sender.port = some w)
    (h : sender.fea ∉ (s.ctxOf w).group ∨ windowPlace s (s.ctxOf w) win off len accRead = none) :
    exec (.rmaReadArrival job sender win off len) s =
      .next (let u := refuseWindow s w (sender.port / 3) off accRead; { u with out := u.out ++ [.refusal sender.fea .permission] }) := by
  have hplace : (if inGroup s w sender.fea then windowPlace s (s.ctxOf w) win off len accRead else none) = none := by
    rcases h with h | h
    · simp [inGroup_false h]
    · simp [h]
  show execRmaReadArrival job sender win off len s = _
  unfold execRmaReadArrival
  rw [ho]
  dsimp only
  rw [hplace]
  rfl

theorem exec_remoteArrival_answer {n : Nat} (ho : arrivalOwner s job sender.port = some w) (hg : sender.fea ∈ (s.ctxOf w).group)
    (hl : landArrival s w (sender.port / 3) win off = (u, n)) :
    exec (.remoteArrival job sender win off len) s = .next { u with out := u.out ++ [if n = 0 then .landed sender.fea
      else .refusal sender.fea (if n = Trap.barrierObject.number then .barrierObject else .permission)] } := by
  show execRemoteArrival job sender win off len s = _
  unfold execRemoteArrival
  rw [ho]
  dsimp only
  rw [if_pos (inGroup_iff.mpr hg), show landArrival s w (receiverOf sender.port) win off = (u, n) from hl]
  simp

theorem exec_remoteArrival_stranger (ho : arrivalOwner s job sender.port = some w) (hg : sender.fea ∉ (s.ctxOf w).group) :
    exec (.remoteArrival job sender win off len) s =
      .next (let u := refuseWindow s w (sender.port / 3) off accAtomic; { u with out := u.out ++ [.refusal sender.fea .permission] }) := by
  show execRemoteArrival job sender win off len s = _
  unfold execRemoteArrival
  rw [ho]
  dsimp only
  rw [inGroup_false hg]
  rfl

end

end Sys2Proof.Machine
end

section
/-! O57, part 4: waiting processors, time limits and retransmitted packets. -/

namespace Sys2Proof.Machine

/-! ### The focus on a fabric processor -/

section
variable {s o : State} {f : Nat}

theorem openFabric_cur (h : openFabric s f = some o) : o.cur = .fabric f := by
  unfold openFabric at h
  split at h
  · cases h
  · split at h
    · cases h
    · split at h
      · cases h
      · cases h
        rfl

/-! ### ZWAIT (R328) -/

theorem countOne_quiet {u : State} {owner kind unit n ev amount scale : Nat} (h : selCounts (selOf (u.ctxOf owner) kind n) ev = false) :
    countOne u owner kind unit n ev amount scale = u := by
  simp only [countOne, h]
  rfl

theorem countSlice_quiet {u : State} {owner pa ev amount : Nat} (h : ∀ n, selCounts (selOf (u.ctxOf owner) 1 n) ev = false) :
    countSlice u owner pa ev amount = u := by
  simp [countSlice, countUnit, countOne_quiet (h _)]

theorem readPhase_fault {u : State} {owner va : Nat} {t : Stop} (h : readObject u owner va = .error t) : readPhase u owner va = .error t := by
  simp [readPhase, resolveObject, h]

/-- R124: the phase of an object that waits for no parent. -/
theorem readPhase_plain {u : State} {owner va pa : Nat} {obj : List W32} (h : readObject u owner va = .ok (pa, obj)) (hp : objWaiting obj = false)
    (hq : ∀ n, selCounts (selOf (u.ctxOf owner) 1 n) 3 = false) : readPhase u owner va = .ok (u, objPhase obj) := by
  simp [readPhase, resolveObject, h, hp, countSlice_quiet hq]

theorem phasePast_iff {p token : W32} : phasePast p token = true ↔ 1 ≤ (p - token).toNat ∧ (p - token).toNat < 2 ^ 31 := by
  simp only [phasePast, Bool.and_eq_true, decide_eq_true_eq]
  omega

/-- R331: a wait that goes on keeps the clock at which it began. -/
theorem fabricWait_again {u : State} {g k : Nat} {w : Wait} (hcur : u.cur = .fabric g) (h : u.fp.phase = .waiting w k) :
    fabricWait u w = { u with fp := { u.fp with phase := .waiting w k }, note := .waits w } := by
  simp [fabricWait, markWait, waitSince, h, hcur]

section
variable {k : Nat} {w : W32} {d a z : BitVec 4}

/-- What a ZWAIT that is issued again leaves: the focus closed, nothing noted. -/
def reissued (u : State) : State := { closeFocus u with note := .none, snap := none }

variable (hopen : openFabric s f = some o) (hres : isResident s o.ctx.owner = true) (hrun : o.coll.stopped = [])
  (hphase : o.fp.phase = .waiting .memory k) (hfetch : fetchZilkan o = .ok w)
include hopen hres hrun hphase hfetch

theorem exec_zwaitCompletion_bar (hw : decodeZilkan w = .ok (.zwaitBar d a z)) :
    exec (.zwaitCompletion f) s = closedFabric s (execZwaitBar d a z o) := by
  show execZwaitCompletion f s = _
  simp [execZwaitCompletion, hopen, hphase, hres, hrun, hfetch, hw, Except.toOption]

theorem exec_zwaitCompletion_flag (hw : decodeZilkan w = .ok (.zwaitFlag d a z)) :
    exec (.zwaitCompletion f) s = closedFabric s (execZwaitFlag d a z o) := by
  show execZwaitCompletion f s = _
  simp [execZwaitCompletion, hopen, hphase, hres, hrun, hfetch, hw, Except.toOption]

end

section
variable {d a z : BitVec 4} {k pa : Nat} {obj : List W32} {l : List Byte} {t : Stop}

theorem execZwaitBar_fault (h : readObject o o.ctx.owner (freg o a).toNat = .error t) : execZwaitBar d a z o = .next (takeTrap o t) := by
  unfold execZwaitBar
  rw [readPhase_fault h]

theorem execZwaitBar_past (h : readPhase o o.ctx.owner (freg o a).toNat = .ok (o, objPhase obj))
    (hp : phasePast (objPhase obj) ((freg o d).extractLsb' 0 32) = true) :
    execZwaitBar d a z o = .next (fabricEffect o d ((objPhase obj).zeroExtend 64)) := by
  unfold execZwaitBar
  rw [h]
  dsimp only
  rw [if_pos hp]

theorem execZwaitBar_waits (h : readPhase o o.ctx.owner (freg o a).toNat = .ok (o, objPhase obj))
    (hp : ¬phasePast (objPhase obj) ((freg o d).extractLsb' 0 32) = true) : execZwaitBar d a z o = .next (fabricWait o .memory) := by
  unfold execZwaitBar
  rw [h]
  dsimp only
  rw [if_neg hp]

variable (ha : (freg o a).toNat % 4 = 0)
include ha

theorem execZwaitFlag_fault (h : engineRead o o.ctx (freg o a).toNat 4 = .error t) : execZwaitFlag d a z o = .next (takeTrap o t) := by
  unfold execZwaitFlag
  dsimp only
  rw [if_neg (by simp [ha]), h]

theorem execZwaitFlag_past (h : engineRead o o.ctx (freg o a).toNat 4 = .ok l)
    (hp : 0 ≤ (BitVec.ofNat 32 (bytesNat l) - (freg o d).extractLsb' 0 32).toInt) :
    execZwaitFlag d a z o = .next (fabricEffect o d ((BitVec.ofNat 32 (bytesNat l)).zeroExtend 64)) := by
  unfold execZwaitFlag
  dsimp only
  rw [if_neg (by simp [ha]), h]
  dsimp only
  rw [if_pos]
  rw [BitVec.msb_eq_toInt]
  simpa using hp

theorem execZwaitFlag_waits (h : engineRead o o.ctx (freg o a).toNat 4 = .ok l)
    (hp : (BitVec.ofNat 32 (bytesNat l) - (freg o d).extractLsb' 0 32).toInt < 0) : execZwaitFlag d a z o = .next (fabricWait o .memory) := by
  unfold execZwaitFlag
  dsimp only
  rw [if_neg (by simp [ha]), h]
  dsimp only
  rw [if_neg]
  rw [BitVec.msb_eq_toInt]
  simpa using hp

end

/-- A ZWAIT that waits on leaves its processor as it stands. -/
theorem reissued_fabricWait {k : Nat} (hcur : o.cur = .fabric f) (h : o.fp.phase = .waiting .memory k) :
    reissued (fabricWait o .memory) = reissued { o with fp := { o.fp with phase := .waiting .memory k } } := by
  rw [fabricWait_again hcur h]
  simp only [reissued, closeFocus, hcur]

/-! ### Time limits (R331) -/

theorem waitedPeer_engine {k : Nat} {x : Transfer} {l r : List Transfer} (ht : o.fp.transfers = l ++ x :: r) (hx : x.coll = o.coll.id)
    (hw : o.fp.phase = .waiting .engine k) (hp : x.posted = false) (hl : ∀ y ∈ l, y.coll = o.coll.id → y.posted = true) : waitedPeer o = x.peer := by
  have hnone : l.find? (fun t => t.coll == o.coll.id && !t.posted) = none := by simpa using hl
  simp [waitedPeer, hw, ht, List.find?_append, hnone, hx, hp]

theorem waitedPeer_posted {k : Nat} {n : Wait} {x : Transfer} {l r : List Transfer} (ht : o.fp.transfers = l ++ x :: r) (hx : x.coll = o.coll.id)
    (hw : o.fp.phase = .waiting n k) (hn : n ≠ .engine) (hp : x.posted = true) (hl : ∀ y ∈ l, y.coll = o.coll.id → y.posted = false) :
    waitedPeer o = x.peer := by
  have hnone : l.find? (fun t => t.coll == o.coll.id && t.posted) = none := by simpa using hl
  cases n
  case engine => exact absurd rfl hn
  all_goals simp [waitedPeer, hw, ht, List.find?_append, hnone, hx, hp]

theorem fabricWaits_of {k : Nat} {w : Wait} (hp : o.fp.phase = .waiting w k) (hw : w = .engine ∨ o.coll.stopped = [] ∧ (w = .memory ∨ w = .tkfence)) :
    fabricWaits o = true := by
  unfold fabricWaits
  rw [hp]
  rcases hw with rfl | ⟨hs, rfl | rfl⟩
  · rfl
  · simp [hs]
  · simp [hs]

theorem exec_collectiveTimeout_open (hopen : openFabric s f = some o) (hres : isResident s o.ctx.owner = true) (hw : fabricWaits o = true)
    (hlim : o.fp.waitFrom + 1400 * o.coll.tlim.toNat ≤ s.fabClock) :
    exec (.collectiveTimeout f) s = .next { takeFabricTrap
      { o with fp := { o.fp with transfers := o.fp.transfers.filter fun x => x.posted || x.coll != o.coll.id } }
      { code := .collectiveTimeout, info0 := BitVec.ofNat 32 (waitedPeer o), info1 := o.coll.tlim } with note := .none } := by
  show execCollectiveTimeout f s = _
  unfold execCollectiveTimeout
  rw [hopen]
  dsimp only
  rw [if_pos]
  simp [hw, hres, hlim]

theorem exec_collectiveTimeout_left {p : Fabric} {m : Transfer} (hopen : openFabric s f = none) (hp : s.fabric.find? (·.index == f) = some p)
    (hm : p.waited = some m) (hres : isResident s m.owner = true) (hlim : p.waitFrom + 1400 * p.tlim.toNat ≤ s.fabClock) :
    exec (.collectiveTimeout f) s =
      .next (faultWaiting s f m.id 0#51 { code := .collectiveTimeout, info0 := BitVec.ofNat 32 m.peer, info1 := p.tlim }) := by
  show execCollectiveTimeout f s = _
  unfold execCollectiveTimeout
  rw [hopen]
  simp [leftTimeout, hp, hm, hres, hlim]

end

/-! ### Packets (R331, R370) -/

/-- R370: one more event of a fabric counter, where its select register counts it. -/
def packetCounted (s : State) (k : Nat) : State :=
  if selCounts (s.fpsel.getD k 0#32) 3 then { s with fpcnt := s.fpcnt.setIfInBounds k (s.fpcnt.getD k 0#48 + 1#48) } else s

theorem countFabricOne_packet {s : State} {f n : Nat} (hfr : s.fpfrac.getD (4 * f + n) 0 = 0)
    (hcnt : (s.fpcnt.getD (4 * f + n) 0#48).toNat + 1 < 2 ^ 48) : countFabricOne s f n 3 1 1 = packetCounted s (4 * f + n) := by
  have hcarry : decide (2 ^ 48 ≤ (s.fpcnt.getD (4 * f + n) 0#48).toNat + (0 + 1) / 1) = false := decide_eq_false (by omega)
  have hval : BitVec.ofNat 48 ((s.fpcnt.getD (4 * f + n) 0#48).toNat + (0 + 1) / 1) = s.fpcnt.getD (4 * f + n) 0#48 + 1#48 := by
    apply BitVec.eq_of_toNat_eq
    simp
  have hsel : s.fpsel.setIfInBounds (4 * f + n) (s.fpsel.getD (4 * f + n) 0#32) = s.fpsel := by
    ext i hi
    by_cases h : 4 * f + n = i <;> simp [Vector.getD, h, hi]
  have hfrac : s.fpfrac.setIfInBounds (4 * f + n) 0 = s.fpfrac := by
    ext i hi
    by_cases h : 4 * f + n = i
    · subst h
      simpa [Vector.getElem_setIfInBounds, Vector.getD, hi] using hfr.symm
    · simp [h]
  unfold countFabricOne packetCounted
  dsimp only
  rw [hfr, hcarry, hval]
  cases selCounts (s.fpsel.getD (4 * f + n) 0#32) 3
  · rfl
  · simp [hsel, hfrac]

theorem packetCounted_frame (s : State) (k : Nat) : packetCounted s k = { s with fpcnt := (packetCounted s k).fpcnt } := by
  unfold packetCounted
  split <;> rfl

theorem packetCounted_getD {s : State} {k j : Nat} (hj : j < 64) : (packetCounted s k).fpcnt.getD j 0#48 =
    if k = j ∧ selCounts (s.fpsel.getD j 0#32) 3 = true then s.fpcnt.getD j 0#48 + 1#48 else s.fpcnt.getD j 0#48 := by
  unfold packetCounted
  by_cases hkj : k = j
  · subst hkj
    cases h : selCounts (s.fpsel.getD k 0#32) 3 <;> simp [Vector.getD, hj]
  · cases h : selCounts (s.fpsel.getD k 0#32) 3 <;> simp [Vector.getD, hj, hkj]

end Sys2Proof.Machine
end

section
/-! O57, part 5: the cases of each event. -/

namespace Sys2Proof.Machine

/-! ### What the events do, gathered for O57 -/

/-- R311, R330: a processor past its waited transfer m, in the words of O57. -/
def pastWaited (t : State) (m : Transfer) (q : Fabric) : Fabric :=
  match q.phase with
  | .waiting .engine _ => if q.coll = some m.coll ∧ m.posted = false then
      (if t.colls.any (·.id == m.coll) then { q with pc := q.pc + 4#51, phase := .ready } else { q with coll := none, phase := .ended }) else q
  | _ => q

theorem passWaited_eq (t : State) (m : Transfer) : passWaited t m = mapHolder t m.id (pastWaited t m) := by
  refine congrArg (mapHolder t m.id) (funext fun q => ?_)
  obtain ⟨index, coll, pc, regs, cds, key, step, tlim, rank, phase, waitFrom, transfers, errors⟩ := q
  cases phase
  case waiting w k =>
    cases w
    case engine =>
      dsimp only [pastWaited]
      by_cases hc : coll = some m.coll <;> cases hp : m.posted <;> simp [hc, Fabric.idle]
    all_goals rfl
  all_goals rfl

section
variable {s u : State} {f refusal n : Nat} {p : Fabric} {m : Transfer} {bytes b : List Byte} {e : Stop}

theorem noteRefusal_eq : noteRefusal s m n = dropTransfer (mapHolder s m.id (fun q => if q.coll == some m.coll then { q with errors := q.errors ++ [if n = 0x1B then
    { code := .barrierObject, addr := m.remote, info0 := BitVec.ofNat 32 m.peer } else { code := .permission, addr := m.remote, info0 := BitVec.ofNat 32 m.peer, info1 := if m.kind = .arrival then 3#32 else if m.posted then 2#32 else 1#32 }] } else q)) m.id := by
  have haccess : BitVec.ofNat 32 m.access = if m.kind = .arrival then 3#32 else if m.posted then 2#32 else 1#32 := by
    cases hk : m.kind <;> simp [Transfer.access, Transfer.posted, hk, accRead, accWrite, accAtomic]
  unfold noteRefusal
  rw [haccess]
  by_cases hn : n = 0x1B <;> simp [hn, Trap.number]

/-- R310 to R312: every answer to a transfer under way. -/
theorem transferAcknowledgement_cases (hf : findTransfer s f m.id = some (p, m)) (hr : m.read = true) (ha : m.acked = false) :
    let acks (t : State) : Prop := exec (.transferAcknowledgement f m.id refusal) s = .next t
    let answered (t : State) : Prop := acks (sendFlags t f)
    let landed (t : State) : Prop := (m.flag = none → answered (dropTransfer t m.id)) ∧ (m.flag ≠ none → answered (mapTransfer t m.id fun t => { t with acked := true }))
    (m.posted = true → m.inside = false → (refusal = 0 → landed s) ∧ (refusal ≠ 0 → answered (noteRefusal s m refusal))) ∧
    (m.posted = true → m.inside = true → m.kind ≠ .arrival →
      (landWrite s m.owner f m.win m.remote m.data = (u, true) → landed u) ∧
      (landWrite s m.owner f m.win m.remote m.data = (u, false) → answered (noteRefusal u m Trap.permission.number))) ∧
    (∀ n, m.inside = true → m.kind = .arrival → landArrival s m.owner f m.win m.remote = (u, n) →
      (n = 0 → landed u) ∧ (n ≠ 0 → answered (noteRefusal u m n))) ∧
    (m.posted = false → refusal = 0 ∨ m.inside = true → acks s) ∧
    (m.posted = false → m.inside = false → refusal ≠ 0 → acks (noteRefusal (passWaited s m) m refusal)) := by
  intro acks answered landed
  have hlanded {v : State} (hp : m.posted = true) (h : answerOf s f m refusal = (v, 0)) : landed v := by
    have hstep := exec_transferAcknowledgement_lands hf hr ha hp h
    exact ⟨fun hn => ackLanded_none hn ▸ hstep, fun hn => ackLanded_some hn ▸ hstep⟩
  refine ⟨fun hp hi => ⟨fun h0 => hlanded hp (h0 ▸ answerOf_outside hi), exec_transferAcknowledgement_refused hf hr ha hp (answerOf_outside hi)⟩,
    fun hp hi hk => ⟨fun h => hlanded hp (answerOf_write hi hk h), fun h => ?_⟩, fun n hi hk h => ⟨fun h0 => ?_, fun hn => ?_⟩,
    exec_transferAcknowledgement_waited hf hr ha, exec_transferAcknowledgement_waitedRefused hf hr ha⟩
  · exact exec_transferAcknowledgement_refused hf hr ha hp (answerOf_write hi hk h) (by decide)
  · exact hlanded (posted_of_arrival hk) (h0 ▸ answerOf_arrival hi hk h)
  · exact exec_transferAcknowledgement_refused hf hr ha (posted_of_arrival hk) (answerOf_arrival hi hk h) hn

/-- R311, R313: every end of a waited transfer that feeds no transform. -/
theorem waitedTransferCompletion_cases {k : Nat} (hf : findTransfer s f m.id = some (p, m)) (hp : p.phase = .waiting .engine k) (hm : m.posted = false)
    (hc : p.coll = some m.coll) (hi : m.input = none) :
    let waited (t : State) : Prop := exec (.waitedTransferCompletion f m.id bytes) s = .next t
    (m.inside = false → bytes.length ≠ m.len → waited s) ∧
    (m.inside = false → bytes.length = m.len → landWaited s f p m bytes = .ok u →
      (∀ n < 4, selCounts (u.fpsel.getD (4 * f + n) 0#32) 2 = false) → waited (endWaited u m)) ∧
    (m.inside = false → bytes.length = m.len → landWaited s f p m bytes = .error e → waited (faultWaiting s f m.id 0#51 e)) ∧
    (m.inside = true → windowPlace s (s.ctxOf m.owner) m.win m.remote m.len accRead = none →
      waited (noteRefusal (passWaited (refuseWindow s m.owner f m.remote accRead) m) m Trap.permission.number)) ∧
    ∀ va, m.inside = true → windowPlace s (s.ctxOf m.owner) m.win m.remote m.len accRead = some va →
      (engineRead s (s.ctxOf m.owner) va m.len = .ok b → landWaited s f p m b = .ok u → waited (endWaited u m)) ∧
      (engineRead s (s.ctxOf m.owner) va m.len = .ok b → landWaited s f p m b = .error e → waited (faultWaiting s f m.id 0#51 e)) ∧
      (engineRead s (s.ctxOf m.owner) va m.len = .error e → waited (faultWaiting s f m.id 0#51 e)) := by
  intro waited
  have hall (hin : m.inside = false) (hlen : bytes.length = m.len) : waitedBytes s m bytes = .ok (some bytes) := by
    rw [waitedBytes_outside hin, if_pos hlen]
  have hserved {va : Nat} (hin : m.inside = true) (hw : windowPlace s (s.ctxOf m.owner) m.win m.remote m.len accRead = some va)
      (hb : engineRead s (s.ctxOf m.owner) va m.len = .ok b) : waitedBytes s m bytes = .ok (some b) := by
    rw [waitedBytes_inside hin hw, hb]
    rfl
  refine ⟨exec_waitedTransferCompletion_waits hf hp hm hc hi,
    fun hin hlen hu hq => exec_waitedTransferCompletion_lands hf hp hm hc hi (hall hin hlen) hu fun _ => hq,
    fun hin hlen => exec_waitedTransferCompletion_landFault hf hp hm hc hi (hall hin hlen),
    exec_waitedTransferCompletion_refused hf hp hm hc hi, fun va hin hw => ⟨fun hb hu => ?_, fun hb => ?_, fun hb => ?_⟩⟩
  · exact exec_waitedTransferCompletion_lands hf hp hm hc hi (hserved hin hw hb) hu fun h => absurd (hin.symm.trans h) (by decide)
  · exact exec_waitedTransferCompletion_landFault hf hp hm hc hi (hserved hin hw hb)
  · exact exec_waitedTransferCompletion_sourceFault hf hp hm hc hi (by rw [waitedBytes_inside hin hw, hb]; rfl)

/-- R311, R313: where the bytes of a waited transfer land, and the reset of the residual buffer under RZ. -/
theorem landWaited_cases :
    let c := s.ctxOf m.owner
    let t := putDiscarding s (windowSite m.owner f) c m.place.toNat bytes
    let z := landedView s f p m bytes
    let sink : Except Stop Unit := translateRange s c accWrite 0 (pagesOf m.place.toNat m.len)
    let wide (va n : Nat) : Except Stop Unit := translateRange z z.ctx accWrite 0 (pagesOf va n)
    (sink = .error e → landWaited s f p m bytes = .error e) ∧
    (sink = .ok () →
      (m.rz = false → landWaited s f p m bytes = .ok t) ∧
      (m.rz = true → residualOf z (fun _ t => t) = .error e → landWaited s f p m bytes = .error e) ∧
      ∀ r, m.rz = true → residualOf z (fun _ t => t) = .ok r →
        (wide r.base r.size = .error e → landWaited s f p m bytes = .error e) ∧
        (wide r.base r.size = .ok () → wide r.addr 64 = .error e → landWaited s f p m bytes = .error e) ∧
        (wide r.base r.size = .ok () → wide r.addr 64 = .ok () →
          landWaited s f p m bytes = .ok (resetResidual t (windowSite m.owner f) (t.ctxOf m.owner) r))) := by
  intro c t z sink wide
  refine ⟨landWaited_sinkFault, fun h => ⟨landWaited_plain h, fun hz hd => ?_, fun r hz hd => ⟨fun hb => ?_, fun hb hw => ?_, fun hb hw => ?_⟩⟩⟩
  · rw [landWaited_rz h hz, residualReset_unread hd]
    rfl
  · rw [landWaited_rz h hz, residualReset_buffer hd hb]
    rfl
  · rw [landWaited_rz h hz, residualReset_ok_buffer hd hb, show translateRange z z.ctx accWrite 0 (pagesOf r.addr 64) = .error e from hw]
    rfl
  · rw [landWaited_rz h hz, residualReset_ok_buffer hd hb, show translateRange z z.ctx accWrite 0 (pagesOf r.addr 64) = .ok () from hw]
    rfl

end

/-- R7, R13, R312, R327: what arrives for an owner on a port of the module. -/
theorem arrival_cases {s u : State} {job : W32} {sender : Sender} {win len w : Nat} {off : W64} {bytes b : List Byte}
    (hj : jobOwner s job = some w) (hp : sender.port < 48) :
    let x := s.ctxOf w
    let g := sender.port / 3
    let quiet (ev : Nat) : Prop := ∀ n < 4, selCounts (s.fpsel.getD (4 * g + n) 0#32) ev = false
    let more (x : Outgoing) (s : State) : State := { s with out := s.out ++ [x] }
    (sender.fea ∈ x.group → landWrite s w g win off bytes = (u, true) → u.fpsel = s.fpsel → quiet 2 →
      exec (.rmaWriteArrival job sender win off bytes) s = .next (more (.landed sender.fea) u)) ∧
    (sender.fea ∈ x.group → landWrite s w g win off bytes = (u, false) → u.fpsel = s.fpsel → quiet 2 →
      exec (.rmaWriteArrival job sender win off bytes) s = .next (more (.refusal sender.fea .permission) u)) ∧
    (sender.fea ∉ x.group → (refuseWindow s w g off accWrite).fpsel = s.fpsel → quiet 2 →
      exec (.rmaWriteArrival job sender win off bytes) s = .next (more (.refusal sender.fea .permission) (refuseWindow s w g off accWrite))) ∧
    (∀ va, sender.fea ∈ x.group → windowPlace s x win off len accRead = some va → engineRead s x va len = .ok b → quiet 1 →
      exec (.rmaReadArrival job sender win off len) s = .next (more (.served sender.fea b) s)) ∧
    (∀ va t, sender.fea ∈ x.group → windowPlace s x win off len accRead = some va → engineRead s x va len = .error t →
      exec (.rmaReadArrival job sender win off len) s =
        .next (more (.refusal sender.fea t.code) (postRecord s (windowSite w g) (if t.code = .uncorrectable then t else { t with info1 := 1#32 })))) ∧
    (sender.fea ∉ x.group ∨ windowPlace s x win off len accRead = none →
      exec (.rmaReadArrival job sender win off len) s = .next (more (.refusal sender.fea .permission) (refuseWindow s w g off accRead))) ∧
    (sender.fea ∈ x.group → landArrival s w g win off = (u, 0) → exec (.remoteArrival job sender win off len) s = .next (more (.landed sender.fea) u)) ∧
    (∀ n, n ≠ 0 → sender.fea ∈ x.group → landArrival s w g win off = (u, n) → exec (.remoteArrival job sender win off len) s =
      .next (more (.refusal sender.fea (if n = Trap.barrierObject.number then .barrierObject else .permission)) u)) ∧
    (sender.fea ∉ x.group →
      exec (.remoteArrival job sender win off len) s = .next (more (.refusal sender.fea .permission) (refuseWindow s w g off accAtomic))) := by
  intro x g quiet more
  have ho : arrivalOwner s job sender.port = some w := arrivalOwner_some hj hp
  refine ⟨fun hg hl => exec_rmaWriteArrival_answer ho ((groupWrite_member hg).trans hl), fun hg hl => exec_rmaWriteArrival_answer ho ((groupWrite_member hg).trans hl),
    fun hg => exec_rmaWriteArrival_answer ho (groupWrite_stranger hg), fun va hg => exec_rmaReadArrival_served ho hg, fun va t hg hw hb => ?_,
    exec_rmaReadArrival_refused ho, fun hg hl => exec_remoteArrival_answer ho hg hl, fun n hn hg hl => ?_, exec_remoteArrival_stranger ho⟩
  · rw [← windowError_eq]
    exact exec_rmaReadArrival_fault ho hg hw hb
  · rw [exec_remoteArrival_answer ho hg hl, if_neg hn]

/-- R328: every end of a ZWAIT that is issued again. -/
theorem zwaitCompletion_cases {s o : State} {f k : Nat} {w : W32} {d a z : BitVec 4} (hopen : openFabric s f = some o)
    (hres : isResident s o.ctx.owner = true) (hrun : o.coll.stopped = []) (hphase : o.fp.phase = .waiting .memory k) (hfetch : fetchZilkan o = .ok w) :
    let va := (freg o a).toNat
    let waits : State := { o with fp := { o.fp with phase := .waiting .memory k } }
    (decodeZilkan w = .ok (.zwaitBar d a z) →
      (∀ t, readObject o o.ctx.owner va = .error t → exec (.zwaitCompletion f) s = .next (reissued (takeTrap o t))) ∧
      ∀ pa obj, readObject o o.ctx.owner va = .ok (pa, obj) → objWaiting obj = false → Uncounted o 1 3 →
        let past : Prop := 1 ≤ (objPhase obj - (freg o d).extractLsb' 0 32).toNat ∧ (objPhase obj - (freg o d).extractLsb' 0 32).toNat < 2 ^ 31
        (past → exec (.zwaitCompletion f) s = .next (reissued (fabricEffect o d ((objPhase obj).zeroExtend 64)))) ∧
        (¬past → exec (.zwaitCompletion f) s = .next (reissued waits))) ∧
    (decodeZilkan w = .ok (.zwaitFlag d a z) → va % 4 = 0 →
      (∀ t, engineRead o o.ctx va 4 = .error t → exec (.zwaitCompletion f) s = .next (reissued (takeTrap o t))) ∧
      ∀ l, engineRead o o.ctx va 4 = .ok l →
        let y : W32 := BitVec.ofNat 32 (bytesNat l)
        (0 ≤ (y - (freg o d).extractLsb' 0 32).toInt → exec (.zwaitCompletion f) s = .next (reissued (fabricEffect o d (y.zeroExtend 64)))) ∧
        ((y - (freg o d).extractLsb' 0 32).toInt < 0 → exec (.zwaitCompletion f) s = .next (reissued waits))) := by
  intro va waits
  have hwaits : reissued (fabricWait o .memory) = reissued waits := reissued_fabricWait (openFabric_cur hopen) hphase
  refine ⟨fun hw => ?_, fun hw hva => ?_⟩
  · rw [exec_zwaitCompletion_bar hopen hres hrun hphase hfetch hw]
    refine ⟨fun t ht => by rw [execZwaitBar_fault ht]; rfl, ?_⟩
    intro pa obj hobj hplain hq past
    have hread := readPhase_plain hobj hplain hq
    refine ⟨fun hp => by rw [execZwaitBar_past hread (phasePast_iff.mpr hp)]; rfl, fun hp => ?_⟩
    rw [execZwaitBar_waits hread fun h => hp (phasePast_iff.mp h), ← hwaits]
    rfl
  · rw [exec_zwaitCompletion_flag hopen hres hrun hphase hfetch hw]
    refine ⟨fun t ht => by rw [execZwaitFlag_fault hva ht]; rfl, ?_⟩
    intro l hl y
    refine ⟨fun hp => by rw [execZwaitFlag_past hva hl hp]; rfl, fun hp => ?_⟩
    rw [execZwaitFlag_waits hva hl hp, ← hwaits]
    rfl

end Sys2Proof.Machine
end

section
/-! O57: the events of fabric processors. -/

namespace Sys2Proof.Machine

/-- R296, R300: what opens a window, in the words of O57. -/
theorem windowOpens_iff {s : State} {x : Context} {win n kind : Nat} {off : W64} :
    WindowOpens s x win off n kind ↔
      let e := x.windows.getD win []
      let word (k : Nat) : W32 := e.getD k 0#32
      let base := (word 0).toNat + 2 ^ 32 * (word 1).toNat
      let size := (word 2).toNat + 2 ^ 32 * ((word 3).toNat % 256)
      (word 3).getLsbD (if kind = accRead then 30 else 31) = true ∧ off.toNat + n ≤ size ∧ translateRange s x kind 0 (pagesOf (base + off.toNat) n) = .ok () := by
  have hbase : (windowOf x win).1 = (wordAt (x.windows.getD win []) 0).toNat + 2 ^ 32 * (wordAt (x.windows.getD win []) 1).toNat := fieldAt_eq _ _
  have hsize : (windowOf x win).2.1 = (wordAt (x.windows.getD win []) 2).toNat + 2 ^ 32 * ((wordAt (x.windows.getD win []) 3).toNat % 256) := by
    simp [windowOf]
  have hright : (if kind = accRead then (windowOf x win).2.2.2 else (windowOf x win).2.2.1) = (wordAt (x.windows.getD win []) 3).getLsbD (if kind = accRead then 30 else 31) := by
    by_cases h : kind = accRead <;> simp [h, windowOf]
  unfold WindowOpens
  dsimp only
  rw [hright, hbase, hsize]
  rfl

/-- R370: distinct counters of a processor, each counting one packet. -/
theorem foldl_countFabricOne_packet {f : Nat} (l : List Nat) : ∀ (s : State), l.Nodup →
    (∀ n ∈ l, 4 * f + n < 64 ∧ s.fpfrac.getD (4 * f + n) 0 = 0 ∧ (s.fpcnt.getD (4 * f + n) 0#48).toNat + 1 < 2 ^ 48) →
    let t := l.foldl (fun s n => countFabricOne s f n 3 1 1) s
    t = { s with fpcnt := t.fpcnt } ∧ ∀ k < 64, t.fpcnt.getD k 0#48 =
      if (∃ n ∈ l, 4 * f + n = k) ∧ selCounts (s.fpsel.getD k 0#32) 3 = true then s.fpcnt.getD k 0#48 + 1#48 else s.fpcnt.getD k 0#48 := by
  induction l with
  | nil => exact fun s _ _ => ⟨rfl, fun k _ => by simp⟩
  | cons n l ih =>
    intro s hnd h t
    obtain ⟨hn, hl⟩ := List.nodup_cons.mp hnd
    obtain ⟨_, hfracn, hcntn⟩ := h n (by simp)
    have hone := countFabricOne_packet hfracn hcntn
    have hframe := packetCounted_frame s (4 * f + n)
    have hcnt {k : Nat} (hk : k < 64) := packetCounted_getD (s := s) (k := 4 * f + n) hk
    have ht : t = l.foldl (fun s n => countFabricOne s f n 3 1 1) (packetCounted s (4 * f + n)) := congrArg (l.foldl _) hone
    generalize packetCounted s (4 * f + n) = v at hframe hcnt ht
    have hfrac : v.fpfrac = s.fpfrac := by rw [hframe]
    have hsel : v.fpsel = s.fpsel := by rw [hframe]
    obtain ⟨htframe, htcnt⟩ := ih v hl fun i hi => by
      obtain ⟨hbound, hfraci, hcnti⟩ := h i (by simp [hi])
      have hne : 4 * f + n ≠ 4 * f + i := fun heq => hn (Nat.add_left_cancel heq ▸ hi)
      exact ⟨hbound, hfrac ▸ hfraci, by rw [hcnt hbound, if_neg (fun hc => hne hc.1)]; exact hcnti⟩
    rw [← ht] at htframe htcnt
    refine ⟨htframe.trans (by rw [hframe]), fun k hk => ?_⟩
    rw [htcnt k hk, hcnt hk, hsel]
    by_cases hnk : 4 * f + n = k
    · have hother : ¬∃ i ∈ l, 4 * f + i = k := fun ⟨i, hi, hik⟩ => hn (Nat.add_left_cancel (hnk.trans hik.symm) ▸ hi)
      simp [hnk, hother]
    · simp [hnk]

/-- R331, R370: a retransmitted packet counts once in each of its processor's counters that asks for it. -/
theorem exec_packetRetransmission_counts {s : State} {f : Nat} (hf : f < 16)
    (h : ∀ n < 4, s.fpfrac.getD (4 * f + n) 0 = 0 ∧ (s.fpcnt.getD (4 * f + n) 0#48).toNat + 1 < 2 ^ 48) :
    ∃ t, exec (.packetRetransmission f) s = .next t ∧ t = { s with fpcnt := t.fpcnt } ∧ ∀ k < 64, t.fpcnt.getD k 0#48 =
      if 4 * f ≤ k ∧ k < 4 * f + 4 ∧ selCounts (s.fpsel.getD k 0#32) 3 = true then s.fpcnt.getD k 0#48 + 1#48 else s.fpcnt.getD k 0#48 := by
  obtain ⟨hframe, hcnt⟩ := foldl_countFabricOne_packet (f := f) [0, 1, 2, 3] s (by decide) fun n hn => by
    have hlt : n < 4 := by
      simp at hn
      omega
    exact ⟨by omega, h n hlt⟩
  refine ⟨_, rfl, hframe, fun k hk => (hcnt k hk).trans (if_congr ?_ rfl rfl)⟩
  have hrange : (∃ n ∈ [0, 1, 2, 3], 4 * f + n = k) ↔ 4 * f ≤ k ∧ k < 4 * f + 4 := by
    simp
    omega
  rw [hrange, and_assoc]

/-- Settles O57, clause by clause from the laws of transfers, arrivals, waits and time limits. -/
theorem fabricEvents : Obligations.FabricEvents := by
  intro f id refusal win len job sender off s o u p m k0 e b bytes quiet held more on site c fpsite sink quietIn acks waited
  refine ⟨?_, ?_, fun q x => flagDue_iff, sendFlags_none, ?_, ?_, ?_, ?_, ?_, ?_, exec_collectiveTimeout_left, ?_⟩
  case refine_1 =>
    rintro hf rfl hr hp hw
    have hstep := exec_postedTransferLocalCompletion_reads hf hr hp hw
    exact ⟨fun hb hq => hstep.trans (congrArg _ (localCompletion_ok hb hq)), fun hb => hstep.trans (congrArg _ (localCompletion_error hb))⟩
  case refine_2 => exact exec_postedTransferLocalCompletion_idle
  case refine_3 =>
    intro q x at_ v hq hx hflag hquiet
    exact (sendFlags_one hq hx).trans (sendFlag_quiet hflag hquiet)
  case refine_4 =>
    rintro hf rfl
    have hon : on = fun t => passWaited t m := funext fun t => (passWaited_eq t m).symm
    clear_value on
    subst hon
    refine ⟨fun n hk => faultWaiting_over hf hk, fun n hk => ⟨faultWaiting_suspends hf hk, faultWaiting_ends hf hk⟩, fun n => noteRefusal_eq,
      exec_transferAcknowledgement_idle hf, transferAcknowledgement_cases hf, fun k hphase hm hc =>
        ⟨exec_waitedTransferCompletion_input hf hphase hm hc, waitedTransferCompletion_cases hf hphase hm hc⟩, ?_⟩
    obtain ⟨hsink, hlands⟩ := landWaited_cases (s := s) (f := f) (p := p) (m := m) (bytes := bytes) (e := e)
    refine ⟨hsink, fun hok => ?_⟩
    obtain ⟨hplain, hunread, hrz⟩ := hlands hok
    refine ⟨hplain, hunread, fun r hz hd => ?_⟩
    obtain ⟨hbuffer, hdescriptor, hreset⟩ := hrz r hz hd
    exact ⟨hbuffer, hdescriptor, fun hb hw => ⟨fun l hl => (hreset hb hw).trans (congrArg _ (resetResidual_read hl)),
      fun z hz => (hreset hb hw).trans (congrArg _ (resetResidual_unread hz))⟩⟩
  case refine_5 =>
    exact fun h => ⟨exec_rmaWriteArrival_unknown (arrivalOwner_none h), exec_rmaReadArrival_unknown (arrivalOwner_none h), exec_remoteArrival_unknown (arrivalOwner_none h)⟩
  case refine_6 =>
    intro w x e word base size opens refused
    refine ⟨fun n kind _ => ⟨fun h => ?_, fun h => windowPlace_shut (mt windowOpens_iff.mp h)⟩, fun g => ⟨landWrite_refused, fun va => landWrite_lands, landArrival_refused, fun va h => ⟨fun n => landArrival_arrives h, fun t => landArrival_faults h⟩⟩, arrival_cases⟩
    have hbase : (windowOf x win).1 = base := fieldAt_eq _ _
    rw [← hbase]
    exact windowPlace_opens (windowOpens_iff.mpr h)
  case refine_7 =>
    intro hopen k hres hrun ends reg gives
    refine ⟨fun w d a z hphase hfetch => zwaitCompletion_cases hopen hres hrun hphase hfetch, fun k x l r n ht hx hphase => ?_⟩
    refine ⟨fun hn hp hl => ?_, fun hn hp hl => waitedPeer_posted ht hx hphase hn hp hl⟩
    subst hn
    exact waitedPeer_engine ht hx hphase hp hl
  case refine_8 =>
    exact fun w k hopen hres hphase hw => exec_collectiveTimeout_open hopen hres (fabricWaits_of hphase hw)
  case refine_9 => exact exec_packetRetransmission_counts

end Sys2Proof.Machine
end

section
/-! Steps of a meaning that may fault, and O29: the mask stack (R27, R28). -/

namespace Sys2Proof.Machine

/-! ### Conditions and faults of a meaning -/

theorem settle_require {s : State} {ok : Bool} {t : Stop} {f : Unit → Except Halt State} (h : ok = true) :
    settle s (require ok t >>= f) = settle s (f ()) := by
  rw [h]; rfl

theorem settle_require_fails {s : State} {ok : Bool} {t : Stop} {f : Unit → Except Halt State} (h : ok = false) :
    settle s (require ok t >>= f) = .next (takeTrap s t) := by
  rw [h]; rfl

theorem settle_orTrap {α : Type} {s : State} {r : Except Stop α} {a : α} {f : α → Except Halt State} (h : r = .ok a) :
    settle s (orTrap r >>= f) = settle s (f a) := by
  rw [h]; rfl

/-! ### Entries of a predicate word -/

theorem maskEntry_setMaskEntry_same {pw : W32} {k : Nat} {m : Mask} (hk : k < 8) : maskEntry (setMaskEntry pw k m) k = m := by
  refine BitVec.eq_of_getLsbD_eq fun i hi => ?_
  have hb : 4 * k + i < 32 := by omega
  have hmask : (15#32).getLsbD i = true := by
    obtain rfl | rfl | rfl | rfl : i = 0 ∨ i = 1 ∨ i = 2 ∨ i = 3 := by omega
    all_goals rfl
  simp [maskEntry, setMaskEntry, hi, hb, hmask]

theorem maskEntry_setMaskEntry_other {pw : W32} {k j : Nat} {m : Mask} (hj : j < 8) (h : j ≠ k) :
    maskEntry (setMaskEntry pw k m) j = maskEntry pw j := by
  refine BitVec.eq_of_getLsbD_eq fun i hi => ?_
  have hb : 4 * j + i < 32 := by omega
  by_cases hge : 4 * k ≤ 4 * j + i
  · have hfar : 4 ≤ 4 * j + i - 4 * k := by omega
    have hmask : (15#32).getLsbD (4 * j + i - 4 * k) = false :=
      Nat.testBit_lt_two_pow (x := 15) (Nat.lt_of_lt_of_le (by decide) (Nat.pow_le_pow_right (by decide) hfar))
    simp only [maskEntry, setMaskEntry, BitVec.getLsbD_extractLsb', BitVec.getLsbD_or, BitVec.getLsbD_and, BitVec.getLsbD_not, BitVec.getLsbD_shiftLeft, hmask]
    simp [hi, hb, hfar]
  · simp [maskEntry, setMaskEntry, hi, hb, show 4 * j + i < 4 * k by omega]

/-! ### The statement -/

/-- An instruction that leaves the pod with another predicate word and depth, one entry of the word replaced, and goes on. -/
theorem maskStack_step {i : Instr} {s : State} {k d : Nat} {new : Mask} (hk : k < 8)
    (h : exec i s = .next ((s.mapPod fun p => { p with pw := setMaskEntry (srcPod s).pw k new, md := BitVec.ofNat 3 d }).advance 1)) :
    ∃ t, exec i s = .next t ∧ t = { s with pod := t.pod } ∧ Advances s t 1 ∧
      t.pod = { s.pod with pw := t.pod.pw, md := BitVec.ofNat 3 d, pc := t.pod.pc, slot := t.pod.slot, phase := s.pod.phase.goOn, skip := 0 } ∧
      maskEntry t.pod.pw k = new ∧ ∀ j < 8, j ≠ k → maskEntry t.pod.pw j = maskEntry (srcPod s).pw j := by
  refine ⟨_, h, rfl, advance_advances ⟨rfl, rfl, rfl⟩, ?_, ?_, fun j hj hne => ?_⟩
  · rw [State.advance_pod, advance_frame]; rfl
  · rw [State.advance_pod, Pod.advance_pw]
    exact maskEntry_setMaskEntry_same hk
  · rw [State.advance_pod, Pod.advance_pw]
    exact maskEntry_setMaskEntry_other hj hne

theorem exec_mpush {f : BitVec 3} {s : State} (h : (srcPod s).md.toNat < 7) :
    exec (.mpush f) s = .next ((s.mapPod fun p => { p with
      pw := setMaskEntry (srcPod s).pw ((srcPod s).md.toNat + 1) (maskEntry (srcPod s).pw (srcPod s).md.toNat &&& srcPred s f.toNat),
      md := BitVec.ofNat 3 ((srcPod s).md.toNat + 1) }).advance 1) :=
  settle_require (bne_iff_ne.mpr (Nat.ne_of_lt h))

/-- MELSE writes the entry at the depth at which it reads; the depth stays. -/
theorem exec_melse {s : State} (h : 0 < (srcPod s).md.toNat) (hmd : s.pod.md = (srcPod s).md) :
    exec .melse s = .next ((s.mapPod fun p => { p with
      pw := setMaskEntry (srcPod s).pw (srcPod s).md.toNat (maskEntry (srcPod s).pw ((srcPod s).md.toNat - 1) &&& ~~~maskEntry (srcPod s).pw (srcPod s).md.toNat),
      md := BitVec.ofNat 3 (srcPod s).md.toNat }).advance 1) := by
  have hdepth : BitVec.ofNat 3 (srcPod s).md.toNat = s.pod.md := by rw [BitVec.ofNat_toNat, BitVec.setWidth_eq, hmd]
  rw [hdepth]
  exact settle_require (bne_iff_ne.mpr (Nat.ne_of_gt h))

theorem exec_mpop {s : State} (h : 0 < (srcPod s).md.toNat) :
    exec .mpop s = .next ((s.mapPod fun p => { p with
      pw := setMaskEntry (srcPod s).pw (srcPod s).md.toNat 0#4, md := BitVec.ofNat 3 ((srcPod s).md.toNat - 1) }).advance 1) :=
  settle_require (bne_iff_ne.mpr (Nat.ne_of_gt h))

/-- Settles O29: each form replaces one entry of the predicate word, or finds the stack at its end. -/
theorem maskStack : Obligations.MaskStack := by
  intro f s md entry m gives
  have hmd : md < 8 := (srcPod s).md.isLt
  refine ⟨fun h => maskStack_step (by omega) (exec_mpush h), fun h hsame => maskStack_step hmd (exec_melse h hsame),
    fun h => maskStack_step hmd (exec_mpop h), fun h => settle_require_fails (bne_eq_false_iff_eq.mpr h), fun h => ⟨?_, ?_⟩⟩
  · exact settle_require_fails (bne_eq_false_iff_eq.mpr h)
  · exact settle_require_fails (bne_eq_false_iff_eq.mpr h)

end Sys2Proof.Machine
end

section
/-! O27: direct and indirect branches (R31, R139, R144, R260, R263). -/

namespace Sys2Proof.Machine

/-! ### The test of a branch over the active lanes -/

/-- A mask that an AND leaves, lane by lane. -/
theorem mask_and_eq_zero_iff {x m : Mask} : x &&& m = 0#4 ↔ ∀ l, m.getLsbD l = true → ¬x.getLsbD l = true := by
  constructor
  · intro h l hm hx
    have hl := congrArg (·.getLsbD l) h
    simp [hm, hx] at hl
  · intro h
    refine BitVec.eq_of_getLsbD_eq fun l _ => ?_
    cases hm : m.getLsbD l with
    | false => simp [hm]
    | true => simp [hm, Bool.not_eq_true _ ▸ h l hm]

theorem mask_and_eq_self_iff {x m : Mask} : x &&& m = m ↔ ∀ l, m.getLsbD l = true → x.getLsbD l = true := by
  constructor
  · intro h l hm
    have hl := congrArg (·.getLsbD l) h
    simpa [hm] using hl
  · intro h
    refine BitVec.eq_of_getLsbD_eq fun l _ => ?_
    cases hm : m.getLsbD l with
    | false => simp [hm]
    | true => simp [hm, h l hm]

/-- R31: which lanes a branch's test asks for. -/
theorem branchTest_iff {s : State} {p : BitVec 3} {n : BitVec 2} :
    branchTest s p n = true ↔ n = 0#2 ∨ (n = 1#2 ∧ ∃ l, (activeMask s).getLsbD l = true ∧ (srcPred s p.toNat).getLsbD l = true) ∨
      (n = 2#2 ∧ ∀ l, (activeMask s).getLsbD l = true → (srcPred s p.toNat).getLsbD l = true) ∨
      (n = 3#2 ∧ ∀ l, (activeMask s).getLsbD l = true → ¬(srcPred s p.toNat).getLsbD l = true) := by
  obtain rfl | rfl | rfl | rfl : n = 0#2 ∨ n = 1#2 ∨ n = 2#2 ∨ n = 3#2 := by
    revert n; decide
  · simp [branchTest]
  · have h : branchTest s p 1#2 = true ↔ ¬(srcPred s p.toNat &&& activeMask s = 0#4) := by simp [branchTest]
    rw [h, mask_and_eq_zero_iff]
    simp
  · have h : branchTest s p 2#2 = true ↔ srcPred s p.toNat &&& activeMask s = activeMask s := by simp [branchTest]
    rw [h, mask_and_eq_self_iff]
    simp
  · have h : branchTest s p 3#2 = true ↔ srcPred s p.toNat &&& activeMask s = 0#4 := by simp [branchTest]
    rw [h, mask_and_eq_zero_iff]
    simp

/-! ### Targets -/

theorem targetOk_iff {t : Int} : targetOk t = true ↔ 0 ≤ t ∧ 12 * t < 2 ^ 51 := by
  simp [targetOk]

/-- R260: an addressable target is a packet address of 48 bits. -/
theorem targetPacket_toNat {t : Int} (h0 : 0 ≤ t) (h : 12 * t < 2 ^ 51) : ((BitVec.ofInt 48 t).toNat : Int) = t := by
  rw [BitVec.toNat_ofInt]
  omega

/-- R139: slot 0 holds LAND, chained or not. -/
theorem landWord_iff {w : W32} : (w.extractLsb' 0 31 == 0x04200000#31) = true ↔ w = 0x04200000#32 ∨ w = 0x84200000#32 := by
  have hw := w.isLt
  simp only [beq_iff_eq, BitVec.toNat_eq, BitVec.extractLsb'_toNat, Nat.shiftRight_zero, BitVec.toNat_ofNat]
  omega

theorem landingOk_iff {s : State} {t : Nat} :
    landingOk s t = true ↔ t < 2 ^ 48 ∧ 12 * t < 2 ^ 51 ∧ ∃ ws, fetchPacket s t = .ok ws ∧ (wordAt ws 0 = 0x04200000#32 ∨ wordAt ws 0 = 0x84200000#32) := by
  unfold landingOk
  cases fetchPacket s t with
  | error e => simp
  | ok ws =>
    rw [Bool.and_eq_true, landWord_iff]
    simp [and_assoc]

/-! ### What a taken branch leaves -/

/-- R134, R260: a pod that enters slot 0 of a packet: nothing but its place differs. -/
theorem jump_enters {i : Instr} {s : State} {t : BitVec 48} (h : exec i s = .next (s.mapPod (·.jump t))) :
    ∃ u, exec i s = .next u ∧ RegisterFrame s u ∧ u.team.flags = s.team.flags ∧ u.pod.v = s.pod.v ∧ u.pod.p = s.pod.p ∧ u.pod.s = s.pod.s ∧
      u.pod.pc = t ∧ u.pod.slot = 0#2 :=
  ⟨_, h, registerFrame_of rfl rfl, rfl, rfl, rfl, rfl, rfl, rfl⟩

/-- A pod that only goes on to the next word. -/
theorem onlyAdvances_of {i : Instr} {s : State} (h : exec i s = .next (s.advance 1)) : OnlyAdvances i s := by
  refine ⟨_, h, registerFrame_of rfl (advance_of (p := s.pod) (q := s.pod) rfl), rfl, ?_, ?_, ?_, advance_advances ⟨rfl, rfl, rfl⟩⟩
  · exact Pod.advance_v _ _
  · exact Pod.advance_p _ _
  · exact Pod.advance_s _ _

section
variable {p : BitVec 3} {n : BitVec 2} {o : BitVec 19} {a : BitVec 5} {s : State}

theorem exec_bra_fails (h : branchTest s p n = false) : exec (.bra p n o) s = .next (s.advance 1) := by
  show settle s _ = _
  rw [h]; rfl

theorem exec_bra_taken (h : branchTest s p n = true) (ht : targetOk (branchTarget s o) = true) :
    exec (.bra p n o) s = .next (s.mapPod (·.jump (BitVec.ofInt 48 (branchTarget s o)))) := by
  show settle s _ = _
  rw [h, ht]; rfl

theorem exec_bra_outside (h : branchTest s p n = true) (ht : targetOk (branchTarget s o) = false) :
    exec (.bra p n o) s = .next (takeTrap s (targetStop (branchTarget s o))) := by
  show settle s _ = _
  rw [h, ht]; rfl

theorem exec_brx_lands (h : landingOk s (indirectTarget s a) = true) :
    exec (.brx a) s = .next (s.mapPod (·.jump (BitVec.ofNat 48 (indirectTarget s a)))) :=
  settle_require h

theorem exec_brx_stops (h : landingOk s (indirectTarget s a) = false) :
    exec (.brx a) s = .next (takeTrap s (indirectStop (indirectTarget s a))) :=
  settle_require_fails h

end

/-- Settles O27: BRA by its test and its target, BRX by the landing check. -/
theorem branches : Obligations.Branches := by
  constructor
  · intro p n o s m one taken target
    refine ⟨fun h => ?_, fun h h0 ht => ?_, fun h ht => ?_⟩
    · exact onlyAdvances_of (exec_bra_fails (Bool.eq_false_iff.mpr (mt branchTest_iff.mp h)))
    · obtain ⟨u, hu, hframe, hflags, hv, hp, hs, hpc, hslot⟩ := jump_enters (exec_bra_taken (o := o) (branchTest_iff.mpr h) (targetOk_iff.mpr ⟨h0, ht⟩))
      exact ⟨u, hu, hframe, hflags, hv, hp, hs, by rw [hpc]; exact targetPacket_toNat h0 ht, hslot⟩
    · refine exec_bra_outside (branchTest_iff.mpr h) (Bool.eq_false_iff.mpr fun hok => ?_)
      obtain ⟨h0, h51⟩ := targetOk_iff.mp hok
      exact ht.elim (Int.not_lt.mpr h0) (Int.not_le.mpr h51)
  · intro a s t lands
    refine ⟨fun h48 h51 hl => ?_, fun h => exec_brx_stops (Bool.eq_false_iff.mpr (mt landingOk_iff.mp h))⟩
    obtain ⟨u, hu, hframe, hflags, hv, hp, hs, hpc, hslot⟩ := jump_enters (exec_brx_lands (a := a) (landingOk_iff.mpr ⟨h48, h51, hl⟩))
    refine ⟨u, hu, hframe, hflags, hv, hp, hs, ?_, hslot⟩
    rw [hpc, BitVec.toNat_ofNat]
    exact Nat.mod_eq_of_lt h48

end Sys2Proof.Machine
end

section
/-! O28: calls and returns (R29, R83, R260 to R263). -/

namespace Sys2Proof.Machine

/-! ### Bytes and words of a record -/

theorem keyedBytes_eq_of {s : State} {key : Nat} : ∀ {b : List Byte} {a : Nat}, (∀ i < b.length, keyedByte s key (a + i) = b.getD i 0#8) →
    keyedBytes s key a b.length = b
  | [], _, _ => rfl
  | x :: r, a, h => by
    rw [List.length_cons, keyedBytes, keyedBytes_eq_of (b := r) fun i hi => ?_]
    · rw [show keyedByte s key a = x from h 0 (by simp)]
    · rw [Nat.add_right_comm]
      exact h (i + 1) (by simpa using hi)

/-- A store gives back its bytes to a reader with the writer's key. -/
theorem keyedBytes_storeAt {s : State} {key a : Nat} {b : List Byte} (h : Memory.wf s.mem = true) : keyedBytes (storeAt s key a b) key a b.length = b :=
  keyedBytes_eq_of fun _ hi => keyedByte_storeAt_inside h hi

/-! ### The place of a record in the pod's stack -/

theorem spAligned_iff {sp : W64} : (sp.toNat % 16 == 0) = true ↔ sp.toNat % 16 = 0 := beq_iff_eq

theorem stackGuard_none {s : State} {a : Int} {pa kind : Nat} (h : s.ctx.guards pa 16 = false) : stackGuard s a pa kind = none := by
  unfold stackGuard
  rw [h]; rfl

/-- R261: what Call leaves, where its record has room. -/
theorem settle_callEffect {s : State} {t : BitVec 48} {pa : Nat} (hcd : s.pod.cd ≠ 255#8) (hsp : (srcPod s).sp.toNat % 16 = 0)
    (hpa : stackPlace s (((srcPod s).sp.toNat : Int) - 16) accWrite = .ok pa) (hg : s.ctx.guards pa 16 = false) :
    settle s (callEffect s t) = .next ((storeAt s s.ctx.key pa (wordsBytes (callRecord s.pod))).mapPod fun p =>
      { p.jump t with sp := (srcPod s).sp - 16#64, cd := p.cd + 1#8 }) := by
  unfold callEffect
  rw [settle_require (bne_iff_ne.mpr hcd), settle_require (spAligned_iff.mpr hsp), settle_orTrap hpa]
  dsimp only
  rw [stackGuard_none hg]
  rfl

/-- At a call depth of 255 nothing is written. -/
theorem settle_callEffect_full {s : State} {t : BitVec 48} (hcd : s.pod.cd = 255#8) :
    settle s (callEffect s t) = .next (takeTrap s { code := .stackOverflow }) :=
  settle_require_fails (bne_eq_false_iff_eq.mpr hcd)

/-- R261: a call writes its record to the 16 bytes below SP and no others, and enters its target. -/
theorem call_enters {i : Instr} {s : State} {t : BitVec 48} {pa : Nat} (hm : MemoryOk s) (hcd : s.pod.cd ≠ 255#8) (hsp : (srcPod s).sp.toNat % 16 = 0)
    (hpa : stackPlace s (((srcPod s).sp.toNat : Int) - 16) accWrite = .ok pa) (hg : s.ctx.guards pa 16 = false)
    (h : exec i s = settle s (callEffect s t)) :
    ∃ u, exec i s = .next u ∧
      u.pod = { s.pod with pc := u.pod.pc, slot := 0#2, phase := s.pod.phase.goOn, skip := 0, sp := (srcPod s).sp - 16#64, cd := s.pod.cd + 1#8 } ∧
      u.pod.pc = t ∧ u = { s with pod := u.pod, mem := u.mem, lineKey := u.lineKey, dirty := u.dirty, poison := u.poison } ∧
      SameOutside s u (fun x => pa ≤ x ∧ x < pa + 16) ∧ keyedBytes u s.ctx.key pa 16 = wordsBytes (callRecord s.pod) := by
  rw [settle_callEffect hcd hsp hpa hg] at h
  have hframe := storeAt_onlyBytes s s.ctx.key pa (wordsBytes (callRecord s.pod))
  have hbytes := keyedBytes_storeAt (key := s.ctx.key) (a := pa) (b := wordsBytes (callRecord s.pod)) hm
  have hother : ∀ x, ¬(pa ≤ x ∧ x < pa + 16) → keyedByte (storeAt s s.ctx.key pa (wordsBytes (callRecord s.pod))) s.ctx.key x = keyedByte s s.ctx.key x :=
    fun x hx => keyedByte_storeAt_outside hm (by rw [show (wordsBytes (callRecord s.pod)).length = 16 from rfl]; omega)
  generalize storeAt s s.ctx.key pa (wordsBytes (callRecord s.pod)) = v at h hframe hbytes hother
  have hpod : v.pod = s.pod := by rw [hframe]
  refine ⟨_, h, ?_, rfl, ?_, hother, hbytes⟩
  · rw [State.mapPod_pod, hpod]; rfl
  · rw [hframe]; rfl

section
variable {p : BitVec 3} {n : BitVec 2} {o : BitVec 19} {a : BitVec 5} {s : State}

theorem exec_call_fails (h : branchTest s p n = false) : exec (.call p n o) s = .next (s.advance 1) := by
  show settle s _ = _
  rw [h]; rfl

theorem exec_call_taken (h : branchTest s p n = true) (ht : targetOk (branchTarget s o) = true) :
    exec (.call p n o) s = settle s (callEffect s (BitVec.ofInt 48 (branchTarget s o))) := by
  show settle s _ = _
  rw [h, ht]; rfl

theorem addressable_iff {t : Nat} : (decide (t < 2 ^ 48) && decide (12 * t < 2 ^ 51)) = true ↔ t < 2 ^ 48 ∧ 12 * t < 2 ^ 51 := by simp

theorem exec_callx_lands (h48 : indirectTarget s a < 2 ^ 48) (h51 : 12 * indirectTarget s a < 2 ^ 51) (hcd : s.pod.cd ≠ 255#8)
    (h : landingOk s (indirectTarget s a) = true) :
    exec (.callx a) s = settle s (callEffect s (BitVec.ofNat 48 (indirectTarget s a))) :=
  (settle_require (addressable_iff.mpr ⟨h48, h51⟩)).trans ((settle_require (bne_iff_ne.mpr hcd)).trans (settle_require h))

theorem exec_callx_full (h48 : indirectTarget s a < 2 ^ 48) (h51 : 12 * indirectTarget s a < 2 ^ 51) (hcd : s.pod.cd = 255#8) :
    exec (.callx a) s = .next (takeTrap s { code := .stackOverflow }) :=
  (settle_require (addressable_iff.mpr ⟨h48, h51⟩)).trans (settle_require_fails (bne_eq_false_iff_eq.mpr hcd))

end

/-! ### Return -/

/-- The slot that a return record names. -/
def returnSlot (e : List W32) : BitVec 2 := (wordAt e 1).extractLsb' 16 2

/-- The packet that a return record names. -/
def returnPacket (e : List W32) : BitVec 48 := (wordAt e 1).extractLsb' 0 16 ++ wordAt e 0

/-- R262: the checks of a return record: RSLOT, the reserved fields and RCD. -/
def returnOk (e : List W32) (cd : BitVec 8) : Bool :=
  returnSlot e != 3#2 && (wordAt e 1).extractLsb' 18 14 == 0#14 && (wordAt e 2).extractLsb' 8 24 == 0#24 &&
    wordAt e 3 == 0#32 && (wordAt e 2).extractLsb' 0 8 == cd

theorem returnOk_iff {e : List W32} {cd : BitVec 8} :
    returnOk e cd = true ↔ (wordAt e 1).toNat / 65536 < 3 ∧ (wordAt e 2).toNat = cd.toNat ∧ (wordAt e 3).toNat = 0 := by
  have h1 := (wordAt e 1).isLt
  have h2 := (wordAt e 2).isLt
  have hcd := cd.isLt
  simp only [returnOk, returnSlot, Bool.and_eq_true, bne_iff_ne, ne_eq, beq_iff_eq, BitVec.toNat_eq, BitVec.extractLsb'_toNat, Nat.shiftRight_eq_div_pow,
    BitVec.toNat_ofNat]
  omega

theorem returnPacket_toNat (e : List W32) : (returnPacket e).toNat = (wordAt e 0).toNat + 2 ^ 32 * ((wordAt e 1).toNat % 65536) := by
  rw [returnPacket, toNat_append_eq, BitVec.extractLsb'_toNat]
  omega

theorem returnSlot_toNat {e : List W32} (h : (wordAt e 1).toNat / 65536 < 3) : (returnSlot e).toNat = (wordAt e 1).toNat / 65536 := by
  rw [returnSlot, BitVec.extractLsb'_toNat, Nat.shiftRight_eq_div_pow]
  omega

section
variable {s : State} {pa : Nat}

theorem poisonStop_none {sp : Space} {w : Nat} {x : Nat × Int} (h : poisonIn s.poison pa w = none) : poisonStop s sp w x pa = none := by
  unfold poisonStop
  rw [h]

/-- R262: Ret once its record is read. -/
theorem exec_ret_reads (hcd : s.pod.cd ≠ 0#8) (hsp : (srcPod s).sp.toNat % 16 = 0) (hpa : stackPlace s (srcPod s).sp.toNat accRead = .ok pa)
    (hg : s.ctx.guards pa 16 = false) (hp : poisonIn s.poison pa 16 = none) :
    let e := bytesWords 4 (keyedBytes s s.ctx.key pa 16)
    exec .ret s = settle s (require (returnOk e s.pod.cd) (Stop.plain .stackOverflow) >>= fun _ =>
      pure (s.mapPod fun p => { p.jump (returnPacket e) with slot := returnSlot e, sp := (srcPod s).sp + 16#64, cd := p.cd - 1#8 })) := by
  intro e
  show settle s (require _ _ >>= _) = _
  rw [settle_require (bne_iff_ne.mpr hcd), settle_require (spAligned_iff.mpr hsp), settle_orTrap hpa]
  dsimp only
  rw [stackGuard_none hg]
  dsimp only
  rw [poisonStop_none hp]
  rfl

end

/-- Settles O28: CALL and CALLX by Call, RET by the checks of the record that it reads. -/
theorem callsAndReturns : Obligations.CallsAndReturns := by
  constructor
  · intro p n o a s pa hm sp back record room direct far calls
    refine ⟨fun h => onlyAdvances_of (exec_call_fails h), fun h h0 ht hcd ⟨hsp, hpa, hg⟩ => ?_, fun h48 h51 hcd hl ⟨hsp, hpa, hg⟩ => ?_,
      fun h h0 ht hcd => ?_, exec_callx_full⟩
    · obtain ⟨u, hu, hpod, hpc, hframe, hout, hin⟩ := call_enters hm hcd hsp hpa hg (exec_call_taken h (targetOk_iff.mpr ⟨h0, ht⟩))
      exact ⟨u, hu, hpod, by rw [hpc]; exact targetPacket_toNat h0 ht, hframe, hout, hin⟩
    · obtain ⟨u, hu, hpod, hpc, hframe, hout, hin⟩ := call_enters hm hcd hsp hpa hg (exec_callx_lands h48 h51 hcd hl)
      exact ⟨u, hu, hpod, by rw [hpc]; exact congrArg Nat.cast (Nat.mod_eq_of_lt h48), hframe, hout, hin⟩
    · exact (exec_call_taken h (targetOk_iff.mpr ⟨h0, ht⟩)).trans (settle_callEffect_full hcd)
  · intro s pa sp e w good place
    refine ⟨fun hcd ⟨hsp, hpa, hg, hp⟩ hgood => ?_, fun hcd ⟨hsp, hpa, hg, hp⟩ hbad => ?_, fun hcd => ?_⟩
    · refine ⟨_, (exec_ret_reads hcd hsp hpa hg hp).trans (settle_require (returnOk_iff.mpr hgood)), rfl, rfl, returnPacket_toNat e, returnSlot_toNat hgood.1⟩
    · exact (exec_ret_reads hcd hsp hpa hg hp).trans (settle_require_fails (Bool.eq_false_iff.mpr (mt returnOk_iff.mp hbad)))
    · exact settle_require_fails (bne_eq_false_iff_eq.mpr hcd)

end Sys2Proof.Machine
end

section
/-! O7: the taking of a fault. A fabric processor's fault without SUSP ends its collective, and the completion of a queue's request that cannot be
written is reported by a second record to the same owner (R298, R330). -/

namespace Sys2Proof.Machine

/-- A fabric processor of a collective of owner 0 that a fabric-queue request has started, where no address of the owner translates. -/
def unwritableRequest : State :=
  { State.reset with cur := .fabric 0, colls := [{ Collective.reset with queue := some (0, 0) }] }

/-- The fault's own record takes SEQ 0, and the record of the completion that cannot be written takes SEQ 1. -/
theorem unwritableRequest_posts_twice :
    (takeTrap unwritableRequest { code := .softwareTrap }).owners.head?.map (fun c => (c.owner, c.seq, c.records.map (·.seq))) = some (0, 2, [0, 1]) := by
  decide +kernel

/-- Refutes O7: where the fault of a fabric processor ends a collective whose request's completion cannot be written, the owner's SEQ has
passed two records, not one. -/
theorem not_faultTaken : ¬Obligations.FaultTaken := by
  intro h
  obtain ⟨-, -, hfabric, -⟩ := h unwritableRequest unwritableRequest { code := .softwareTrap } 0 0 0
  obtain ⟨r, -, -, -, -, -, hone⟩ := hfabric rfl (by decide) (by decide)
  obtain ⟨c, hc, hvalues⟩ := Option.map_eq_some_iff.mp unwritableRequest_posts_twice
  obtain ⟨howner, hseq, -⟩ : c.owner = 0 ∧ c.seq = 2 ∧ c.records.map (·.seq) = [0, 1] := by simpa using hvalues
  have hone := (hone c (List.mem_of_mem_head? hc) howner).1
  rw [hseq] at hone
  exact absurd hone (by decide)

end Sys2Proof.Machine
end

section
/-! What posting leaves: bytes written for an owner, records, notices and counters change bytes, contexts and what the module has sent, and no more. -/

namespace Sys2Proof.Machine

/-- Of the module only bytes, the owners' contexts and the messages sent differ. -/
def OnlyPosts (s t : State) : Prop :=
  t = { s with mem := t.mem, lineKey := t.lineKey, dirty := t.dirty, poison := t.poison, owners := t.owners, ctx := t.ctx, out := t.out }

theorem onlyPosts_refl (s : State) : OnlyPosts s s := rfl

theorem onlyPosts_trans {s t u : State} (h : OnlyPosts s t) (k : OnlyPosts t u) : OnlyPosts s u := by
  unfold OnlyPosts at *
  rw [k, h]

theorem onlyPosts_of_onlyBytes {s t : State} (h : OnlyBytes s t) : OnlyPosts s t := by
  unfold OnlyBytes at h
  unfold OnlyPosts
  rw [h]

theorem mapCtx_onlyPosts (s : State) (n : Nat) (f : Context → Context) : OnlyPosts s (s.mapCtx n f) := rfl

theorem onlyPosts_ite {c : Prop} {_ : Decidable c} {s t u : State} (ht : OnlyPosts s t) (hu : OnlyPosts s u) : OnlyPosts s (if c then t else u) := by
  split <;> assumption

theorem foldl_onlyPosts {α : Type} {f : State → α → State} (hf : ∀ s a, OnlyPosts s (f s a)) {l : List α} : ∀ {s : State}, OnlyPosts s (l.foldl f s) := by
  induction l with
  | nil => exact fun {s} => onlyPosts_refl s
  | cons a r ih => exact onlyPosts_trans (hf _ a) ih

theorem vwrite_onlyBytes {c : Context} {space fuel : Nat} : ∀ {s t : State} {va : Nat} {b : List Byte}, vwrite s c space fuel va b = .ok t → OnlyBytes s t := by
  induction fuel with
  | zero =>
    intro s t va b h
    cases h
    exact onlyBytes_refl s
  | succ n ih =>
    intro s t va b h
    unfold vwrite at h
    split at h
    · cases h
      exact onlyBytes_refl s
    · dsimp only at h
      split at h
      · cases h
      · exact onlyBytes_trans (storeAt_onlyBytes _ _ _ _) (ih h)

theorem engineWrite_onlyBytes {s t : State} {c : Context} {va : Nat} {b : List Byte} (h : engineWrite s c va b = .ok t) : OnlyBytes s t := by
  unfold engineWrite at h
  split at h
  · cases h
  · unfold vput at h
    split at h
    · cases h
    · exact vwrite_onlyBytes h

theorem writeRecord_onlyPosts (s : State) (r : Record) (owner : Nat) : OnlyPosts s (writeRecord s r owner) := by
  unfold writeRecord
  refine onlyPosts_ite (mapCtx_onlyPosts _ _ _) ?_
  split
  · exact mapCtx_onlyPosts _ _ _
  · next h => exact onlyPosts_trans (onlyPosts_of_onlyBytes (engineWrite_onlyBytes h)) rfl

theorem postRecord_onlyPosts (s : State) (x : Site) (t : Stop) : OnlyPosts s (postRecord s x t) :=
  onlyPosts_trans (mapCtx_onlyPosts _ _ _) (writeRecord_onlyPosts _ _ _)

theorem postNotice_onlyPosts (s : State) (owner kind unit n : Nat) (sel : W32) : OnlyPosts s (postNotice s owner kind unit n sel) := by
  unfold postNotice
  refine onlyPosts_ite (onlyPosts_refl s) ?_
  dsimp only
  split
  · exact postRecord_onlyPosts _ _ _
  · next h => exact onlyPosts_trans (onlyPosts_of_onlyBytes (engineWrite_onlyBytes h)) rfl

theorem countOne_onlyPosts (s : State) (owner kind unit n ev amount scale : Nat) : OnlyPosts s (countOne s owner kind unit n ev amount scale) := by
  unfold countOne
  exact onlyPosts_ite (onlyPosts_refl s) (onlyPosts_ite (onlyPosts_trans (mapCtx_onlyPosts _ _ _) (postNotice_onlyPosts _ _ _ _ _ _)) (mapCtx_onlyPosts _ _ _))

theorem countCore_onlyPosts (s : State) (owner core ev amount : Nat) : OnlyPosts s (countCore s owner core ev amount) :=
  foldl_onlyPosts fun _ _ => countOne_onlyPosts _ _ _ _ _ _ _ _

theorem countWord_onlyPosts (s : State) (owner core lanes : Nat) (i : Instr) (w : W32) : OnlyPosts s (countWord s owner core lanes i w) :=
  onlyPosts_ite (onlyPosts_trans (countCore_onlyPosts _ _ _ _ _) (countCore_onlyPosts _ _ _ _ _)) (countCore_onlyPosts _ _ _ _ _)

theorem OnlyPosts.note {s t : State} (h : OnlyPosts s t) : t.note = s.note := by rw [h]

theorem retireWord_note (s : State) (i : Instr) (w : W32) (m : Mask) : (retireWord s i w m).note = s.note := by
  unfold retireWord
  split
  · exact (countCore_onlyPosts _ _ _ _ _).note
  · exact (countWord_onlyPosts _ _ _ _ _ _).note
  · exact (countWord_onlyPosts _ _ _ _ _ _).note

end Sys2Proof.Machine
end

section
/-! O4, part 1: the issue of a pod's word or chained pair, case by case (R135, R138, R148, R150). -/

namespace Sys2Proof.Machine

/-! ### The checks of a word -/

section
variable {p : Pod} {w : W32} {lit : Option W32} {i : Instr}

theorem checkWord_error {e : DecodeError} (h : decodeCore w lit = .error e) : checkWord p w lit = .error (Stop.plain (decodeTrap e)) := by
  unfold checkWord
  rw [h]

theorem checkWord_marker {n : BitVec 24} (h : decodeCore w lit = .ok (.poolMarker n)) : checkWord p w lit = .error (Stop.plain .poolExecution) := by
  unfold checkWord
  rw [h]

/-- R150: the checks of an instruction, in their order. -/
theorem checkWord_instr (h : decodeCore w lit = .ok i) (hi : ∀ n, i ≠ .poolMarker n) :
    checkWord p w lit = if !((touches i).all fun r => r.fits p.window) then .error (Stop.plain .reservedField)
      else if p.windows.any fun x => x.left != 0 && (touches i).any fun r => r.meets x.ref then .error (Stop.plain .lookahead)
      else if (parityReads i p.active).any p.parity.contains then .error (Stop.plain .parity) else .ok i := by
  unfold checkWord
  rw [h]
  split
  · next he => cases he
  · next n he =>
    cases he
    exact absurd rfl (hi n)
  · next j _ he =>
    cases he
    rfl

end

/-! ### Single words -/

/-- A word at the place of a pod that nothing has told of. -/
theorem withWord_note {f : State} (hn : f.note = .none) (w : W32) : ({ f with word := w } : State) = { f with word := w, note := .none } := by
  rw [← hn]

section
variable {f : State} {ws : List W32}

theorem issuePod_unfetched {e : Stop} (h : fetchPacket f f.pod.pc.toNat = .error e) : issuePod f = .next (takeTrap f e) := by
  unfold issuePod
  rw [h]

theorem issuePod_word (h : fetchPacket f f.pod.pc.toNat = .ok ws) (hc : chainOf (wordAt ws f.pod.slot.toNat) = 0#1) :
    issuePod f = issueWord f (wordAt ws f.pod.slot.toNat) (slotWord ws f.pod.slot.toNat).2 := by
  unfold issuePod
  rw [h]
  dsimp only
  rw [hc]
  rfl

theorem issuePod_chainBad (h : fetchPacket f f.pod.pc.toNat = .ok ws) (hc : chainOf (wordAt ws f.pod.slot.toNat) = 1#1)
    (hb : chainBad (wordAt ws f.pod.slot.toNat) (slotWord ws f.pod.slot.toNat).2 = true) :
    issuePod f = .next (takeTrap { f with word := wordAt ws f.pod.slot.toNat } (Stop.plain .chainForm)) := by
  unfold issuePod
  rw [h]
  dsimp only
  rw [hc]
  exact if_pos hb

theorem issuePod_pair (h : fetchPacket f f.pod.pc.toNat = .ok ws) (hc : chainOf (wordAt ws f.pod.slot.toNat) = 1#1)
    (hb : chainBad (wordAt ws f.pod.slot.toNat) (slotWord ws f.pod.slot.toNat).2 = false) : issuePod f = issuePair f ws f.pod.slot.toNat := by
  unfold issuePod
  rw [h]
  dsimp only
  rw [hc]
  exact if_neg (Bool.eq_false_iff.mp hb)

theorem issueWord_fails {w : W32} {lit : Option W32} {t : Stop} (hn : f.note = .none) (h : checkWord f.pod w lit = .error t) :
    issueWord f w lit = .next (takeTrap { f with word := w } t) := by
  rw [withWord_note hn]
  unfold issueWord
  dsimp only
  rw [h]

theorem issueWord_completes {w : W32} {lit : Option W32} {i : Instr} {u : State} (h : checkWord f.pod w lit = .ok i) (hh : f.pod.holds i = false)
    (hu : exec i { f with word := w, note := .none, pod := f.pod.deliverMeeting (touches i) } = .next u) (hn : u.note = .none) :
    issueWord f w lit = .next (retireWord u i w (activeMask f)) := by
  unfold issueWord
  dsimp only
  rw [h]
  dsimp only
  rw [hh, if_neg Bool.false_ne_true]
  unfold State.mapPod
  dsimp only
  rw [hu]
  dsimp only
  rw [hn]
  rfl

/-- R49, R135: the words at a place that holds no chained pair. -/
theorem wordsAt_single (h : fetchPacket f f.pod.pc.toNat = .ok ws) (hc : chainOf (wordAt ws f.pod.slot.toNat) = 0#1) :
    wordsAt f f.grid f.ctx f.pod = [slotWord ws f.pod.slot.toNat] := by
  unfold fetchPacket at h
  unfold wordsAt
  split at h
  · next b hb =>
    cases h
    rw [hb]
    dsimp only
    rw [hc]
    rfl
  · cases h

theorem sproutWords_single {i : Instr} (h : fetchPacket f f.pod.pc.toNat = .ok ws) (hc : chainOf (wordAt ws f.pod.slot.toNat) = 0#1)
    (hi : decodeCore (wordAt ws f.pod.slot.toNat) (slotWord ws f.pod.slot.toNat).2 = .ok i) : sproutWords f = sproutMay i (wordAt ws f.pod.slot.toNat) := by
  unfold sproutWords
  rw [wordsAt_single h hc, List.all_cons, List.all_nil, Bool.and_true]
  rw [show decodeCore (slotWord ws f.pod.slot.toNat).1 (slotWord ws f.pod.slot.toNat).2 = .ok i from hi]
  rfl

end

/-! ### Chained pairs -/

theorem softwareOf_none {s : State} {i : Instr} (h : ∀ x, i ≠ .trap x ∧ i ≠ .brk x) : softwareOf s i = none := by
  unfold softwareOf
  split
  · next n => exact absurd rfl (h n).1
  · next n => exact absurd rfl (h n).2
  · rfl

section
variable {s t : State} {w : W32} {i : Instr}

theorem runPaired_completes (hi : ∀ x, i ≠ .trap x ∧ i ≠ .brk x) (ht : exec i { s with word := w, note := .none } = .next t) (hn : t.note = .none) :
    runPaired s w i = .next (retireWord t i w (activeMask s)) := by
  unfold runPaired
  dsimp only
  rw [softwareOf_none hi]
  dsimp only
  rw [ht]
  dsimp only
  rw [hn]
  rfl

theorem runPaired_stops (hi : ∀ x, i ≠ .trap x ∧ i ≠ .brk x) (ht : exec i { s with word := w, note := .none } = .next t) (hn : t.note ≠ .none) :
    runPaired s w i = .next t := by
  unfold runPaired
  dsimp only
  rw [softwareOf_none hi]
  dsimp only
  rw [ht]
  dsimp only
  split
  · next h => exact absurd h hn
  · rfl

/-- A word of a pair that does not trap leaves no trap told of, whether it completes or waits. -/
theorem runPaired_untrapped (hi : ∀ x, i ≠ .trap x ∧ i ≠ .brk x) (ht : exec i { s with word := w, note := .none } = .next t)
    (hn : ∀ x, t.note ≠ .trapped x) : ∃ u, runPaired s w i = .next u ∧ ∀ x, u.note ≠ .trapped x := by
  by_cases h : t.note = .none
  · refine ⟨_, runPaired_completes hi ht h, fun x => ?_⟩
    rw [retireWord_note]
    exact hn x
  · exact ⟨t, runPaired_stops hi ht h, hn⟩

end

/-- The state in which a pod's pair begins: its first word at hand. -/
def pairStart (f : State) (w : W32) : State := { f with word := w, note := .none, pod := { f.pod with second := false } }

/-- The pod under the windows that a pair's first word leaves to the checks of the second. -/
def pairLater (p : Pod) (i : Instr) : Pod := { p.retire i 0#4 with windows := (p.retire i 0#4).windows ++ opensWindows i, parity := p.parity }

/-- What a pair's second word runs on: what the first leaves, the pair's beginning as its source. -/
def pairSecond (before left : State) (w : W32) (j : Instr) : State :=
  { left with pod := left.pod.deliverMeeting (regWrites j), snap := some ⟨before.pod, before.team, before.ctx⟩, word := w, note := .none }

section
variable {f : State} {ws : List W32} {k : Nat} {i j : Instr}

theorem issuePair_firstFails {e : Stop} (hn : f.note = .none) (h : checkWord (pairStart f (wordAt ws k)).pod (wordAt ws k) (slotWord ws k).2 = .error e) :
    issuePair f ws k = .next (takeTrap (pairStart f (wordAt ws k)) e) := by
  unfold issuePair
  extract_lets s a b
  have hs : checkWord s.pod a.1 a.2 = .error e := h
  rw [hs]
  dsimp -zeta only
  exact congrArg (fun g => Host.Outcome.next (takeTrap g e)) (withWord_note (f := s) hn _)

variable (hn : f.note = .none) (h : checkWord (pairStart f (wordAt ws k)).pod (wordAt ws k) (slotWord ws k).2 = .ok i)
  (hh : (pairStart f (wordAt ws k)).pod.holds i = false)
include hn h hh

/-- R150: the checks of a pair's second word come after the first word's own faults. -/
theorem issuePair_secondFails {e : Stop} {u : State}
    (he : checkWord (pairLater (pairStart f (wordAt ws k)).pod i) (wordAt ws (k + 1)) (slotWord ws (k + 1)).2 = .error e)
    (hu : runPaired { pairStart f (wordAt ws k) with pod := (pairStart f (wordAt ws k)).pod.deliverMeeting (touches i) } (wordAt ws k) i = .next u) :
    (∀ x, u.note = .trapped x → issuePair f ws k = .next u) ∧
    ((∀ x, u.note ≠ .trapped x) →
      issuePair f ws k = .next { takePodTrap { pairStart f (wordAt ws k) with word := wordAt ws (k + 1) } e true with note := .trapped e }) := by
  unfold issuePair
  extract_lets s a b
  have hs : checkWord s.pod a.1 a.2 = .ok i := h
  have hheld : s.pod.holds i = false := hh
  rw [hs]
  dsimp -zeta only
  extract_lets base later
  have hlater : checkWord later b.1 b.2 = .error e := he
  have hrun : runPaired (s.mapPod (·.deliverMeeting (touches i))) a.1 i = .next u := hu
  rw [hheld, if_neg Bool.false_ne_true, hlater]
  dsimp -zeta only
  rw [hrun]
  dsimp -zeta only
  refine ⟨fun x hx => by rw [hx], fun hx => ?_⟩
  split
  · next x hn => exact absurd hn (hx x)
  · exact congrArg (fun g => Host.Outcome.next { takePodTrap g e true with note := .trapped e }) (withWord_note (f := s) hn _)

theorem issuePair_runs (hj : checkWord (pairLater (pairStart f (wordAt ws k)).pod i) (wordAt ws (k + 1)) (slotWord ws (k + 1)).2 = .ok j)
    (hhj : (pairStart f (wordAt ws k)).pod.holds j = false) :
    issuePair f ws k = runPair { pairStart f (wordAt ws k) with pod := (pairStart f (wordAt ws k)).pod.deliverMeeting (touches i ++ touches j) }
      (wordAt ws k) i (wordAt ws (k + 1)) j := by
  unfold issuePair
  extract_lets s a b
  have hs : checkWord s.pod a.1 a.2 = .ok i := h
  have hheld : s.pod.holds i = false := hh
  have hheldj : s.pod.holds j = false := hhj
  rw [hs]
  dsimp -zeta only
  extract_lets base later
  have hlater : checkWord later b.1 b.2 = .ok j := hj
  rw [hheld, if_neg Bool.false_ne_true, hlater]
  dsimp -zeta only
  rw [hheldj, if_neg Bool.false_ne_true]
  exact congrArg (fun g => runPair g a.1 i b.1 j) (withWord_note (f := s.mapPod (·.deliverMeeting (touches i ++ touches j))) hn _)

end

/-! ### The two words of a pair -/

section
variable {before t u : State} {v w : W32} {i j : Instr}

/-- A first word that stops or waits stops or waits for the pair. -/
theorem runPair_first (hr : runPaired before v i = .next t) (hn : t.note ≠ .none) : runPair before v i w j = .next t := by
  unfold runPair
  rw [hr]
  dsimp -zeta only
  split
  · rfl
  · rfl
  · next h => exact absurd h hn

variable (hr : runPaired before v i = .next t) (hn : t.note = .none)
include hr hn

/-- R135: the fault of a second word that leaves nothing of its own. -/
theorem runPair_secondTraps {x : Stop} (hu : runPaired (pairSecond before t w j) w j = .next u) (hx : u.note = .trapped x)
    (hj : ∀ a b c d, j ≠ .tkskip a b ∧ j ≠ .trot a b c ∧ j ≠ .barrive d a b c) :
    runPair before v i w j = .next { takePodTrap { before with word := w } x true with note := .trapped x } := by
  unfold runPair
  rw [hr]
  dsimp -zeta only
  rw [hn]
  dsimp -zeta only
  extract_lets base ran
  have hran : runPaired ran w j = .next u := hu
  rw [hran]
  dsimp -zeta only
  rw [hx]
  dsimp -zeta only
  unfold secondTraps
  extract_lets stop
  split
  · next a b => exact absurd rfl (hj a b 0#4 0#5).1
  · next a b c d => exact absurd rfl (hj b c d a).2.2
  · next a b c => exact absurd rfl (hj a b c 0#5).2.1
  · rfl

/-- R148: a second word that touches the scalar which the first word's command holds issues when that command is complete. -/
theorem runPair_heldByFirst (hu : runPaired (pairSecond before t w j) w j = .next u) (hnu : u.note = .none) (hh : t.pod.holds j = true) :
    runPair before v i w j = .next (markWait { t with pod := { t.pod with grant := none } } .register) := by
  unfold runPair
  rw [hr]
  dsimp -zeta only
  rw [hn]
  dsimp -zeta only
  extract_lets base ran
  have hran : runPaired ran w j = .next u := hu
  rw [hran]
  dsimp -zeta only
  rw [hnu]
  dsimp -zeta only
  exact if_pos hh

/-- R135: both words of a pair complete, where the pair holds no TRAP or BRK and no BAR that is still open. -/
theorem runPair_completes (hi : ∀ x, i ≠ .trap x ∧ i ≠ .brk x) (hj : ∀ x, j ≠ .trap x ∧ j ≠ .brk x)
    (hu : runPaired (pairSecond before t w j) w j = .next u) (hnu : u.note = .none) (hh : t.pod.holds j = false) (hb : barOpen before i j = false) :
    runPair before v i w j = .next { u with snap := none } := by
  have hsoft : pairSoftware before u i j = none := by
    unfold pairSoftware
    rw [softwareOf_none hi, softwareOf_none hj]
  unfold runPair
  rw [hr]
  dsimp -zeta only
  rw [hn]
  dsimp -zeta only
  extract_lets base ran
  have hran : runPaired ran w j = .next u := hu
  rw [hran]
  dsimp -zeta only
  rw [hnu]
  dsimp -zeta only
  rw [hh, if_neg Bool.false_ne_true, hb, if_neg Bool.false_ne_true, hsoft]

end

end Sys2Proof.Machine
end

section
/-! O4, part 2: the issue of a bunch, and one step of the module. -/

namespace Sys2Proof.Machine

/-! ### A bunch -/

theorem finishPod_next (n : Nat) (u : State) :
    finishPod n (.next u) = .next (
      let v := if u.note = .none then u.mapPod (fun q => { q with grant := none, lastIssue := max q.lastIssue n }) else u
      { closeFocus v with note := u.note, snap := none }) := by
  unfold finishPod
  cases hn : u.note with
  | none => simp [hn]
  | trapped x => simp [hn]
  | waits k => simp [hn]

/-- One pod after another of a bunch opens, issues and goes back to its team, and all but the last leave the grid running. -/
def IssueChain (id : Nat) (ms : List Nat) (vs : List State) : Prop :=
  ∀ j < ms.length, ∃ f v w, vs[j]? = some v ∧ vs[j + 1]? = some w ∧ openPod { v with note := .none } id (ms.getD j 0) = some f ∧ canIssue f.pod = true ∧
    finishPod v.tick (issuePod f) = .next w ∧ (j + 1 < ms.length → teamRuns w id = true)

theorem issueChain_tail {id m : Nat} {ms : List Nat} {v : State} {vs : List State} (h : IssueChain id (m :: ms) (v :: vs)) : IssueChain id ms vs := by
  intro j hj
  obtain ⟨f, a, b, ha, hb, hopen, hmay, hfin, hruns⟩ := h (j + 1) (by simpa using hj)
  exact ⟨f, a, b, ha, hb, hopen, hmay, hfin, fun hlt => hruns (by simpa using hlt)⟩

theorem issueMember_of {s f : State} {id k : Nat} (h : openPod s id k = some f) (hmay : canIssue f.pod = true) :
    issueMember s id k = finishPod s.tick (issuePod f) := by
  unfold issueMember
  rw [h]
  exact if_pos hmay

/-- The last pod's issue goes back whether or not it has ended the grid: no other pod of the bunch is left to report. -/
theorem issueMembers_last {s t : State} {id m : Nat} {done : Bool} (h : issueMember { s with note := .none } id m = .next t) :
    issueMembers s id done [m] = .next (t, done || t.note.complete) := by
  unfold issueMembers
  rw [h]
  dsimp only
  split
  · simp [reportBeside]
  · rfl

theorem issueMembers_running {s t : State} {id m : Nat} {done : Bool} {ms : List Nat} (h : issueMember { s with note := .none } id m = .next t)
    (hr : teamRuns t id = true) : issueMembers s id done (m :: ms) = issueMembers t id (done || t.note.complete) ms := by
  rw [issueMembers, h]
  dsimp only
  rw [hr, Bool.not_true, Bool.and_false]
  rfl

/-- A bunch whose pods issue one after another ends in the last of their states. -/
theorem issueMembers_chain {id : Nat} {v : State} : ∀ {ms : List Nat} {vs : List State} {s : State} {done : Bool},
    IssueChain id ms (s :: vs) → (s :: vs)[ms.length]? = some v → vs.length = ms.length →
    issueMembers s id done ms = .next (v, done || vs.any fun v => v.note.complete)
  | [], vs, s, done, _, hv, hlen => by
    cases List.length_eq_zero_iff.mp hlen
    cases hv
    simp [issueMembers]
  | m :: ms, [], s, done, _, _, hlen => by simp at hlen
  | m :: ms, w :: vs, s, done, h, hv, hlen => by
    obtain ⟨f, a, b, ha, hb, hopen, hmay, hfin, hruns⟩ := h 0 (by simp)
    cases ha
    cases hb
    have hissue : issueMember { s with note := .none } id m = .next w := (issueMember_of hopen hmay).trans hfin
    cases ms with
    | nil =>
      cases List.length_eq_zero_iff.mp (Nat.succ_inj.mp hlen)
      cases hv
      rw [issueMembers_last hissue]
      simp
    | cons k ks =>
      rw [issueMembers_running hissue (hruns (by simp)), issueMembers_chain (issueChain_tail h) hv (Nat.succ_inj.mp hlen), List.any_cons, Bool.or_assoc]

theorem endIssue_of {s : State} {id : Nat} {m : Team} {done : Bool} {ms : List Nat} (hm : s.teams.find? (·.id == id) = some m) :
    endIssue s id done ms = regroup (if done then countCore s m.owner m.core 0x03 1 else s) id ms.length ms := by
  unfold endIssue
  rw [hm]

/-- An issue that completes no barrier. -/
theorem issueBunch_ends {s u : State} {id k : Nat} {m : Team} {done : Bool} (hm : s.teams.find? (·.id == id) = some m) (hres : isResident s m.owner = true)
    (hms : bunchOf m k ≠ []) (hu : issueMembers s id false (bunchOf m k) = .next (u, done)) (hbar : barMembers u id (bunchOf m k) = [])
    (hpair : pairBars u id = []) : issueBunch s id k = .next { endIssue u id done (bunchOf m k) with note := .none } := by
  have hne : (bunchOf m k).isEmpty = false := by simpa using hms
  unfold issueBunch
  rw [hm]
  dsimp -zeta only
  extract_lets ms
  rw [if_neg (by rw [hres, show ms.isEmpty = false from hne]; decide), show issueMembers s id false ms = .next (u, done) from hu]
  dsimp -zeta only
  extract_lets out
  have hout : out = [] := hpair
  have hnone : barMembers u id ms = [] := hbar
  simp only [hout, List.filter_nil, List.map_nil, List.length_nil, issueMembers, issueBunches, hnone]
  rfl

theorem issueBunch_chain {s v : State} {id k : Nat} {m m' : Team} {vs : List State} (hm : s.teams.find? (·.id == id) = some m)
    (hres : isResident s m.owner = true) (hms : bunchOf m k ≠ []) (hlen : vs.length = (bunchOf m k).length)
    (h : IssueChain id (bunchOf m k) (s :: vs)) (hv : (s :: vs)[(bunchOf m k).length]? = some v) (hm' : v.teams.find? (·.id == id) = some m')
    (hbar : barMembers v id (bunchOf m k) = []) (hpair : pairBars v id = []) :
    issueBunch s id k = .next { regroup (if vs.any (fun v => v.note.complete) then countCore v m'.owner m'.core 0x03 1 else v) id
      (bunchOf m k).length (bunchOf m k) with note := .none } := by
  have hall := issueMembers_chain (done := false) h hv hlen
  rw [Bool.false_or] at hall
  rw [issueBunch_ends hm hres hms hall hbar hpair, endIssue_of hm']

/-! ### A step -/

/-- What a turn that reads host memory leaves where a completion's MAC fails (R105). -/
def told (p t : State) : State := if Config.completionFails p.tick = true ∧ hostReach p = true then { t with out := t.out ++ [.ideError] } else t

theorem reportCompletion_next (p t : State) : reportCompletion p (.next t) = .next (told p t) := by
  unfold reportCompletion told
  simp only [Bool.and_eq_true, and_comm]

theorem step_turn {s : State} {x : Turn} {rest : List Turn} (h : nextTurn s = (some x, rest)) : step s = runTurn (passStep { s with agenda := rest }) x := by
  unfold step stepOnce
  rw [h]

/-- A turn whose agent goes on. -/
theorem step_told {s t : State} {x : Turn} {rest : List Turn} (h : nextTurn s = (some x, rest))
    (ht : runTurn (passStep { s with agenda := rest }) x = reportCompletion (passStep { s with agenda := rest }) (.next t)) :
    step s = .next (told (passStep { s with agenda := rest }) t) := by
  rw [step_turn h, ht, reportCompletion_next]

theorem nextTurn_listed {s : State} {x : Turn} {rest : List Turn} (h : s.agenda = x :: rest) : nextTurn s = (some x, rest) := by
  unfold nextTurn
  rw [h]

theorem step_unlisted {s : State} (h : s.agenda = []) :
    step s = match freeTurn s.tick with | some x => runTurn (passStep s) x | none => .next (passStep s) := by
  have hs : ({ s with agenda := [] } : State) = s := by rw [← h]
  have hn : nextTurn s = (freeTurn s.tick, []) := by
    unfold nextTurn
    rw [h]
  unfold step stepOnce
  rw [hn]
  dsimp only
  rw [hs] <;> rfl

/-! ### Sprouts, fabric processors and events -/

section
variable {p f u : State} {id : Nat}

/-- R49, R50: what the silent end of a sprout leaves. -/
def sproutGone (id : Nat) (f u : State) : State :=
  countCore { (u.mapTeam id fun m => { m with sprout := none }) with note := .none, snap := none } f.ctx.owner f.team.core 0x0C 1

section
variable (ho : openSprout p id = some f) (hres : isResident p f.ctx.owner = true)
include ho hres

theorem issueSprout_denied (h : sproutWords f = false) : issueSprout p id = .next (sproutGone id f p) := by
  unfold issueSprout
  rw [ho]
  dsimp -zeta only
  rw [hres, if_neg (by decide)]
  extract_lets stop
  rw [h]
  rfl

theorem issueSprout_stops (h : sproutWords f = true) (hu : issuePod f = .next u) (hn : u.note ≠ .none) : issueSprout p id = .next (sproutGone id f p) := by
  unfold issueSprout
  rw [ho]
  dsimp -zeta only
  rw [hres, if_neg (by decide)]
  extract_lets stop
  rw [h, if_neg (by decide), hu]
  dsimp -zeta only
  split
  · next h _ => exact absurd h hn
  · next h _ => exact absurd h hn
  · rfl

theorem issueSprout_goesOn (h : sproutWords f = true) (hu : issuePod f = .next u) (hn : u.note = .none) (hc : u.cur = .sprout id) :
    issueSprout p id = .next { closeFocus { u with team := { u.team with flags := f.team.flags } } with note := .none, snap := none } := by
  unfold issueSprout
  rw [ho]
  dsimp -zeta only
  rw [hres, if_neg (by decide)]
  extract_lets stop
  rw [h, if_neg (by decide), hu]
  dsimp -zeta only
  split
  · rfl
  · next _ h => exact absurd hc (h id)
  · next h _ => exact absurd hn h

theorem issueSprout_exits (h : sproutWords f = true) (hu : issuePod f = .next u) (hn : u.note = .none) (hc : ∀ k, u.cur ≠ .sprout k) :
    issueSprout p id = .next (sproutGone id f (countCore p f.ctx.owner f.team.core 0x0B (wordsAt f f.grid f.ctx f.pod).length)) := by
  unfold issueSprout
  rw [ho]
  dsimp -zeta only
  rw [hres, if_neg (by decide)]
  extract_lets stop
  rw [h, if_neg (by decide), hu]
  dsimp -zeta only
  split
  · next k _ hk => exact absurd hk (hc k)
  · rfl
  · next h _ => exact absurd hn h

end

section
variable {n : Nat} {w : W32} (ho : openFabric p n = some f) (hmay : fabricMay f = true) (hw : fetchZilkan f = .ok w)
include ho hmay hw

theorem issueFabric_runs {i : Instr} (hi : decodeZilkan w = .ok i) (hu : exec i { f with word := w } = .next u) :
    issueFabric p n = .next { closeFocus u with note := .none, snap := none } := by
  unfold issueFabric
  rw [ho]
  dsimp -zeta only
  rw [hmay, if_neg (by decide), hw]
  dsimp only
  rw [hi]
  dsimp only
  rw [hu]

theorem issueFabric_undecoded {e : DecodeError} (hi : decodeZilkan w = .error e) :
    issueFabric p n = .next { takeTrap { f with word := w } (zilkanStop 0) with note := .none } := by
  unfold issueFabric
  rw [ho]
  dsimp -zeta only
  rw [hmay, if_neg (by decide), hw]
  dsimp only
  rw [hi]

end

end

/-! ### Bunches of one cycle -/

section
variable {p t u : State} {id k l : Nat} {m : Team}

theorem issueHeads_last (s : State) (id k : Nat) : issueHeads s id [k] = issueBunch s id k := by
  unfold issueHeads
  split
  · next h =>
    rw [h]
    split <;> rfl
  · rfl

theorem issueCycle_one (hm : p.teams.find? (·.id == id) = some m) : issueCycle p id [k] = issueBunch p id k := by
  unfold issueCycle
  rw [hm]
  exact issueHeads_last p id k

theorem issueCycle_two (hm : p.teams.find? (·.id == id) = some m) (hl : l ∉ bunchOf m k) : issueCycle p id [k, l] = issueHeads p id [k, l] := by
  have hheads : bunchHeads m [k, l] = [k, l] := by simp [bunchHeads, hl]
  unfold issueCycle
  rw [hm]
  dsimp only
  rw [hheads]

theorem issueHeads_running (ht : issueBunch p id k = .next t) (hr : teamRuns t id = true) : issueHeads p id [k, l] = issueBunch t id l := by
  rw [issueHeads, ht]
  dsimp only
  rw [hr, Bool.not_true, Bool.and_false, if_neg Bool.false_ne_true]
  exact issueHeads_last t id l

/-- R355: a bunch whose issue ends the grid leaves the other bunch of its cycle to report its faults. -/
theorem issueHeads_ended (ht : issueBunch p id k = .next t) (hp : teamRuns p id = true) (hr : teamRuns t id = false) :
    issueHeads p id [k, l] = .next (besideBunch p id t l) := by
  rw [issueHeads, ht]
  dsimp only
  rw [hp, hr]
  rfl

end

/-! ### The statement -/

/-- A pod's word that is not chained: what its checks raise, and what its meaning leaves. -/
theorem issuePod_single_cases {f : State} {ws : List W32} (hn : f.note = .none) (hf : fetchPacket f f.pod.pc.toNat = .ok ws)
    (hc : chainOf (wordAt ws f.pod.slot.toNat) = 0#1) :
    let w := wordAt ws f.pod.slot.toNat
    let lit := (slotWord ws f.pod.slot.toNat).2
    let fails (e : Trap) : Prop := issuePod f = .next (takeTrap { f with word := w } (Stop.plain e))
    let inWindow (i : Instr) : Prop := (touches i).all (fun r => r.fits f.pod.window) = true
    let shut (i : Instr) : Prop := (f.pod.windows.any fun x => x.left != 0 && (touches i).any fun r => r.meets x.ref) = true
    let broken (i : Instr) : Prop := (parityReads i f.pod.active).any f.pod.parity.contains = true
    (∀ e, decodeCore w lit = .error e → fails (decodeTrap e)) ∧ (∀ n, decodeCore w lit = .ok (.poolMarker n) → fails .poolExecution) ∧
    ∀ i, decodeCore w lit = .ok i → (∀ n, i ≠ .poolMarker n) →
      (¬inWindow i → fails .reservedField) ∧ (inWindow i → shut i → fails .lookahead) ∧ (inWindow i → ¬shut i → broken i → fails .parity) ∧
      (inWindow i → ¬shut i → ¬broken i → f.pod.holds i = false → ∀ u,
        exec i { f with word := w, note := .none, pod := f.pod.deliverMeeting (touches i) } = .next u → u.note = .none →
        issuePod f = .next (retireWord u i w (activeMask f))) := by
  intro w lit fails inWindow shut broken
  have hword := issuePod_word hf hc
  have hfails {t : Stop} (h : checkWord f.pod w lit = .error t) : issuePod f = .next (takeTrap { f with word := w } t) := hword.trans (issueWord_fails hn h)
  refine ⟨fun e he => hfails (checkWord_error he), fun n he => hfails (checkWord_marker he), fun i hi hm => ?_⟩
  have hcheck := checkWord_instr (p := f.pod) hi hm
  refine ⟨fun h1 => ?_, fun h1 h2 => ?_, fun h1 h2 h3 => ?_, fun h1 h2 h3 hh u hu hnu => ?_⟩
  · exact hfails (by rw [hcheck, if_pos (by simpa [inWindow] using h1)])
  · exact hfails (by rw [hcheck, if_neg (by simpa [inWindow] using h1), if_pos h2])
  · exact hfails (by rw [hcheck, if_neg (by simpa [inWindow] using h1), if_neg h2, if_pos h3])
  · exact hword.trans (issueWord_completes (by rw [hcheck, if_neg (by simpa [inWindow] using h1), if_neg h2, if_neg h3]) hh hu hnu)

/-- A chained pair without TRAP or BRK: the first word's checks and faults, the second's, and what both leave. -/
theorem issuePod_pair_cases {f : State} {ws : List W32} (hn : f.note = .none) (hf : fetchPacket f f.pod.pc.toNat = .ok ws)
    (hc : chainOf (wordAt ws f.pod.slot.toNat) = 1#1) (hb : chainBad (wordAt ws f.pod.slot.toNat) (slotWord ws f.pod.slot.toNat).2 = false) :
    let n := f.pod.slot.toNat
    let w := wordAt ws n
    let w2 := wordAt ws (n + 1)
    let g := pairStart f w
    let does (t : State) : Prop := issuePod f = .next t
    (∀ e, checkWord g.pod w (slotWord ws n).2 = .error e → does (takeTrap g e)) ∧
    ∀ i, checkWord g.pod w (slotWord ws n).2 = .ok i → g.pod.holds i = false → (∀ x, i ≠ .trap x ∧ i ≠ .brk x) →
      (∀ e, checkWord (pairLater g.pod i) w2 (slotWord ws (n + 1)).2 = .error e →
        let alone : State := { g with pod := g.pod.deliverMeeting (touches i) }
        (∀ t x, exec i alone = .next t → t.note = .trapped x → does t) ∧
        (∀ t, exec i alone = .next t → (∀ x, t.note ≠ .trapped x) → does { takePodTrap { g with word := w2 } e true with note := .trapped e })) ∧
      ∀ j, checkWord (pairLater g.pod i) w2 (slotWord ws (n + 1)).2 = .ok j → g.pod.holds j = false → (∀ x, j ≠ .trap x ∧ j ≠ .brk x) →
        let before : State := { g with pod := g.pod.deliverMeeting (touches i ++ touches j) }
        (∀ t x, exec i before = .next t → t.note = .trapped x → does t) ∧
        ∀ t, exec i before = .next t → t.note = .none →
          let left := retireWord t i w (activeMask before)
          let second := pairSecond before left w2 j
          (∀ u x, exec j second = .next u → u.note = .trapped x → (∀ a b c d, j ≠ .tkskip a b ∧ j ≠ .trot a b c ∧ j ≠ .barrive d a b c) →
            does { takePodTrap { before with word := w2 } x true with note := .trapped x }) ∧
          ∀ u, exec j second = .next u → u.note = .none →
            (left.pod.holds j = true → does (markWait { left with pod := { left.pod with grant := none } } .register)) ∧
            (left.pod.holds j = false → barOpen before i j = false → does { retireWord u j w2 (activeMask second) with snap := none }) := by
  intro n w w2 g does
  have hpair : issuePod f = issuePair f ws n := issuePod_pair hf hc hb
  refine ⟨fun e he => hpair.trans (issuePair_firstFails hn he), fun i hi hhi hti => ⟨fun e he => ?_, fun j hj hhj htj => ?_⟩⟩
  · intro alone
    refine ⟨fun t x ht hx => ?_, fun t ht hx => ?_⟩
    · have hrun : runPaired alone w i = .next t := runPaired_stops hti ht (by rw [hx]; exact Note.noConfusion)
      exact hpair.trans ((issuePair_secondFails hn hi hhi he hrun).1 x hx)
    · obtain ⟨u, hrun, hu⟩ := runPaired_untrapped (s := alone) hti ht hx
      exact hpair.trans ((issuePair_secondFails hn hi hhi he hrun).2 hu)
  · intro before
    have hrunPair : issuePod f = runPair before w i w2 j := hpair.trans (issuePair_runs hn hi hhi hj hhj)
    refine ⟨fun t x ht hx => ?_, fun t ht hnt => ?_⟩
    · have htrap : t.note ≠ .none := by rw [hx]; exact Note.noConfusion
      exact hrunPair.trans (runPair_first (runPaired_stops hti ht htrap) htrap)
    · intro left second
      have hleft : runPaired before w i = .next left := runPaired_completes hti ht hnt
      have hnl : left.note = .none := (retireWord_note _ _ _ _).trans hnt
      refine ⟨fun u x hu hx hsp => ?_, fun u hu hnu => ?_⟩
      · have hrun : runPaired second w2 j = .next u := runPaired_stops htj hu (by rw [hx]; exact Note.noConfusion)
        exact hrunPair.trans (runPair_secondTraps hleft hnl hrun hx hsp)
      · have hrun : runPaired second w2 j = .next (retireWord u j w2 (activeMask second)) := runPaired_completes htj hu hnu
        have hnr : (retireWord u j w2 (activeMask second)).note = .none := (retireWord_note _ _ _ _).trans hnu
        exact ⟨fun hh => hrunPair.trans (runPair_heldByFirst hleft hnl hrun hnr hh),
          fun hh hbar => hrunPair.trans (runPair_completes hleft hnl hti htj hrun hnr hh hbar)⟩

/-- Settles O4, turn by turn from what each agent's issue leaves. -/
theorem stepRunsDecoded : Obligations.StepRunsDecoded := by
  intro s rest p told'
  have htold (t : State) : told' t = told p t := rfl
  refine ⟨?bunch, finishPod_next, ?pod, ?sprout, ?fabric, ?event, ?cycle, step_unlisted, fun x h => nextTurn_listed h⟩
  case bunch =>
    intro id k m vs ht hm hres ms hms hlen h0 hchain v m' hv hm' hbar hpair
    obtain _ | ⟨v0, vs⟩ := vs
    · simp at hlen
    cases h0
    exact step_told ht (congrArg (reportCompletion p) (issueBunch_chain hm hres hms (Nat.succ_inj.mp hlen) hchain hv hm' hbar hpair))
  case pod =>
    intro f hn hsnap does
    refine ⟨fun e he => issuePod_unfetched he, fun ws hf => ?_⟩
    intro n w lit fails inWindow shut broken
    refine ⟨fun hc => ?_, fun hc hb => issuePod_chainBad hf hc hb, fun hc hb => ?_⟩
    · obtain ⟨herror, hmarker, hcheck⟩ := issuePod_single_cases hn hf hc
      exact ⟨fun i hi => sproutWords_single hf hc hi, herror .illegalOpcode, herror .reservedField, hmarker, hcheck⟩
    · obtain ⟨hfirst, hrest⟩ := issuePod_pair_cases hn hf hc hb
      refine ⟨hfirst, fun i hi hhi hti => ?_⟩
      obtain ⟨hsecond, hboth⟩ := hrest i hi hhi hti
      refine ⟨hsecond, fun j hj hhj htj => ?_⟩
      obtain ⟨htrap, hruns⟩ := hboth j hj hhj htj
      exact ⟨htrap, fun t ht hnt => ⟨rfl, rfl, rfl, hruns t ht hnt⟩⟩
  case sprout =>
    intro id f ht ho hres gone
    have hturn {t : State} (h : issueSprout p id = .next t) : step s = .next (told p t) := step_told ht (congrArg (reportCompletion p) h)
    refine ⟨fun h => hturn (issueSprout_denied ho hres h), fun u h hu => ⟨fun hnu => ?_, fun hnu hcur => ?_, fun hnu hcur => ?_⟩⟩
    · exact hturn (issueSprout_stops ho hres h hu hnu)
    · exact hturn (issueSprout_goesOn ho hres h hu hnu hcur)
    · exact hturn (issueSprout_exits ho hres h hu hnu hcur)
  case fabric =>
    intro n f u w i ht ho hmay hw
    have hturn {t : State} (h : issueFabric p n = .next t) : step s = .next (told p t) := step_told ht (congrArg (reportCompletion p) h)
    exact ⟨fun hi hu => hturn (issueFabric_runs ho hmay hw hi hu), fun hi => hturn (issueFabric_undecoded ho hmay hw hi)⟩
  case event =>
    intro i ht hi
    have hstep : step s = runEvent p i := step_turn ht
    have hevent : runEvent p i = if Instr.isTlp i then (if Config.macFails p.tick then .next { p with out := p.out ++ [.ideError] } else exec i p)
        else reportCompletion p (exec i p) := if_neg (by rw [hi]; decide)
    refine ⟨fun htlp hmac => ?_, fun htlp hmac => ?_, fun htlp t hexec => ?_⟩
    · rw [hstep, hevent, if_pos htlp, if_neg (by rw [hmac]; decide)]
    · rw [hstep, hevent, if_pos htlp, if_pos hmac]
    · rw [hstep, hevent, if_neg (by rw [htlp]; decide), hexec, reportCompletion_next]
      rfl
  case cycle =>
    intro id k l m t hm
    refine ⟨congrArg (reportCompletion p) (issueCycle_one hm), fun ht hl hk => ?_⟩
    have hturn {v : State} (h : issueHeads p id [k, l] = .next v) : step s = .next (told p v) :=
      step_told ht (congrArg (reportCompletion p) ((issueCycle_two hm hl).trans h))
    exact ⟨fun hr u hu => hturn ((issueHeads_running hk hr).trans hu), fun hp hr => hturn (issueHeads_ended hk hp hr)⟩

end Sys2Proof.Machine
end

section
/-! O47: launches and posts by a pod (R46, R274 to R279). -/

namespace Sys2Proof.Machine

/-! ### A scalar result, then the next word -/

section
variable {s t : State} {k la : Nat} {w : W32}

theorem scalarResult_pod : (t.scalarResult k w la).pod = if la = 0 then t.pod.setScalar k w else
    { t.pod with pending := t.pod.pending ++ [⟨t.ids, .scalar k w⟩], windows := t.pod.windows ++ [⟨true, k, 1, la + 1⟩] } := by
  unfold State.scalarResult
  simp only [beq_iff_eq]
  split <;> rfl

theorem scalarResult_ids : (t.scalarResult k w la).ids = if la = 0 then t.ids else t.ids + 1 := by
  unfold State.scalarResult
  simp only [beq_iff_eq]
  split <;> rfl

theorem scalarResult_frame : t.scalarResult k w la = { t with pod := (t.scalarResult k w la).pod, ids := (t.scalarResult k w la).ids } := by
  unfold State.scalarResult
  split <;> rfl

/-- What a post leaves after its effect: the scalar result, and the pod at its next word. -/
theorem scalarResult_advance (x : BitVec 5) (hp : t.pod = s.pod) (hf : t.team.flags = s.team.flags) (hi : t.ids = s.ids) :
    Advances s ((t.scalarResult x.toNat w la).advance 1) 1 ∧ ScalarResult s ((t.scalarResult x.toNat w la).advance 1) x.toNat w la ∧
    (t.scalarResult x.toNat w la).advance 1 =
      { t with pod := ((t.scalarResult x.toNat w la).advance 1).pod, ids := ((t.scalarResult x.toNat w la).advance 1).ids } := by
  have hframe : (t.scalarResult x.toNat w la).advance 1 =
      { t with pod := ((t.scalarResult x.toNat w la).advance 1).pod, ids := ((t.scalarResult x.toNat w la).advance 1).ids } := by
    show State.advance _ 1 = { t with pod := _, ids := (t.scalarResult x.toNat w la).ids }
    conv_lhs => rw [scalarResult_frame]
    rfl
  have hpod : (t.scalarResult x.toNat w la).pod = if la = 0 then s.pod.setScalar x.toNat w else
      { s.pod with pending := s.pod.pending ++ [⟨s.ids, .scalar x.toNat w⟩], windows := s.pod.windows ++ [⟨true, x.toNat, 1, la + 1⟩] } := by
    rw [scalarResult_pod, hp, hi]
  have hids : ((t.scalarResult x.toNat w la).advance 1).ids = if la = 0 then s.ids else s.ids + 1 := by
    rw [← hi]; exact scalarResult_ids
  have hflags : ((t.scalarResult x.toNat w la).advance 1).team.flags = s.team.flags := by
    rw [hframe, ← hf]
  have hnext : ((t.scalarResult x.toNat w la).advance 1).pod = (t.scalarResult x.toNat w la).pod.advance 1 := rfl
  refine ⟨advance_advances ?_, ⟨?_, ?_, hflags, ?_, ?_⟩, hframe⟩
  · rw [hpod]
    split <;> exact ⟨rfl, rfl, rfl⟩
  · rw [hnext, hpod, advance_frame]
    split <;> rfl
  · rw [hnext, hpod, advance_frame]
    split <;> rfl
  · intro j hj
    rw [hnext, hpod, advance_scalar]
    split
    · exact scalar_setScalar_other hj
    · rfl
  · rw [hids, hnext, hpod]
    by_cases hl : la = 0
    · rw [if_pos hl, if_pos hl, if_pos hl, advance_frame]
      exact ⟨scalar_setScalar_same x.isLt, rfl, rfl, rfl⟩
    · rw [if_neg hl, if_neg hl, if_neg hl, advance_frame]
      exact ⟨rfl, rfl, rfl, rfl⟩

end

/-! ### Records and streams -/

section
variable {s : State} {y : BitVec 5} {n : Nat} {b : List Byte}

theorem postRead_ok (h : podRecord s ((srcPod s).scalar (y.toNat + 1) ++ (srcPod s).scalar y.toNat).toNat (4 * n) 64 = .ok b) :
    postRead s y n = .ok (bytesWords n b) := by
  unfold postRead
  have h' : podRecord s (pairOf s y.toNat).toNat (4 * n) 64 = .ok b := h
  rw [h']

theorem kernelRecord_ok (h : podRecord s ((srcPod s).scalar (y.toNat + 1) ++ (srcPod s).scalar y.toNat).toNat 128 64 = .ok b)
    (ht : recType (bytesWords 32 b) = 0) (hr : recordStop s s.ctx.owner (bytesWords 32 b) = none) : kernelRecord s y = .ok (bytesWords 32 b) := by
  unfold kernelRecord
  rw [postRead_ok (n := 32) h]
  show (require (recType (bytesWords 32 b) == 0) _ >>= fun _ => _) = _
  rw [ht]
  show (match recordStop s s.ctx.owner (bytesWords 32 b) with | some _ => _ | none => _) = _
  rw [hr]

end

theorem stream_of_streams {s t : State} {k : Nat} (h : s.streams = t.streams) : s.stream k = t.stream k := by rw [State.stream, h, State.stream]

theorem stream_mapStream_same {s : State} {k : Nat} {f : Stream → Stream} (h : k < 64) : (s.mapStream k f).stream k = f (s.stream k) := by
  simp [State.stream, State.mapStream, Vector.getD, h]

theorem stream_mapStream_other {s : State} {k j : Nat} {f : Stream → Stream} (h : j ≠ k) : (s.mapStream k f).stream j = s.stream j := by
  by_cases hj : j < 64
  · simp [State.stream, State.mapStream, Vector.getD, hj, h]
  · simp [State.stream, Vector.getD, hj]

theorem settle_ok_bind {α : Type} {s : State} {r : Except Halt α} {a : α} {f : α → Except Halt State} (h : r = .ok a) :
    settle s (r >>= f) = settle s (f a) := by
  rw [h]; rfl

/-! ### Launching a grid -/

section
variable {s : State} {x y : BitVec 5} {l : BitVec 4}

/-- The grid that GLAUNCH adds. -/
def launchedGrid (s : State) (r : List W32) : Grid :=
  { gridOfRecord r (newGridHandle s) s.grid.owner s.grid.stream s.grid.node s.grid.pri s.stamp s.grid.susp with
    uid := s.draw, parent := some s.grid.handle, leader := some s.team.id, depth := s.grid.depth + 1 }

/-- The state with the grid added, before its handle is written. -/
def launchedState (s : State) (r : List W32) : State :=
  { s with grids := s.grids ++ [launchedGrid s r], stamp := s.stamp + 1, draw := s.draw + 1,
           team := { s.team with children := s.team.children ++ [newGridHandle s] } }

theorem exec_glaunch {r : List W32} (h0 : s.pod.index = 0) (hd : s.grid.depth < 10) (hk : kernelRecord s y = .ok r) :
    exec (.glaunch x y l) s = .next (((launchedState s r).scalarResult x.toNat (newGridHandle s) l.toNat).advance 1) := by
  show settle s (require _ _ >>= _) = _
  rw [settle_require (beq_iff_eq.mpr h0), settle_require (decide_eq_true hd), settle_ok_bind hk]
  rfl

theorem exec_glaunch_otherPod (h : s.pod.index ≠ 0) : exec (.glaunch x y l) s = .next (takeTrap s { code := .permission }) :=
  settle_require_fails (beq_eq_false_iff_ne.mpr h)

theorem exec_glaunch_deep (h0 : s.pod.index = 0) (h : 10 ≤ s.grid.depth) :
    exec (.glaunch x y l) s = .next (takeTrap s { code := .nestingDepth }) :=
  (settle_require (beq_iff_eq.mpr h0)).trans (settle_require_fails (decide_eq_false (Nat.not_lt.mpr h)))

theorem launchedGrid_mode {r : List W32} : (launchedGrid s r).mode = wordAt r 25 &&& 0xFF#32 := by
  refine BitVec.eq_of_toNat_eq ?_
  show (((wordAt r 25).extractLsb' 0 8).zeroExtend 32).toNat = (wordAt r 25).toNat &&& 2 ^ 8 - 1
  rw [Nat.and_two_pow_sub_one_eq_mod]
  simp only [BitVec.truncate_eq_setWidth, BitVec.toNat_setWidth, BitVec.extractLsb'_toNat, Nat.shiftRight_zero]
  omega

theorem launchedGrid_teams {r : List W32} : (launchedGrid s r).teams = (wordAt r 24).toNat % 2 ^ 24 := by
  show ((wordAt r 24).extractLsb' 0 24).toNat = _
  simp

theorem ofNat_fieldAt {r : List W32} {k : Nat} : BitVec.ofNat 64 (fieldAt r k) = wordAt r (k + 1) ++ wordAt r k := by
  rw [fieldAt, BitVec.ofNat_toNat, BitVec.setWidth_eq]

end

/-! ### Waiting for a grid -/

section
variable {s : State} {x : BitVec 5}

theorem exec_gwait_done (hc : (srcPod s).scalar x.toNat ∈ s.team.children) (hw : (gridStatusWord s ((srcPod s).scalar x.toNat)).getLsbD 31 = true) :
    exec (.gwait x) s = .next (scalarEffect s x (gridStatusWord s ((srcPod s).scalar x.toNat))) := by
  show settle s (require (s.team.children.contains ((srcPod s).scalar x.toNat)) _ >>= _) = _
  exact (settle_require (List.contains_iff_mem.mpr hc)).trans (congrArg (settle s) (if_pos hw))

theorem exec_gwait_runs (hc : (srcPod s).scalar x.toNat ∈ s.team.children) (hw : (gridStatusWord s ((srcPod s).scalar x.toNat)).getLsbD 31 = false) :
    exec (.gwait x) s = .next (markWait s .gwait) := by
  show settle s (require (s.team.children.contains ((srcPod s).scalar x.toNat)) _ >>= _) = _
  exact (settle_require (List.contains_iff_mem.mpr hc)).trans (congrArg (settle s) (if_neg (Bool.eq_false_iff.mp hw)))

theorem exec_gwaitTry_child (hc : (srcPod s).scalar x.toNat ∈ s.team.children) :
    exec (.gwaitTry x) s = .next (scalarEffect s x (gridStatusWord s ((srcPod s).scalar x.toNat))) :=
  settle_require (List.contains_iff_mem.mpr hc)

theorem exec_gwait_stranger (hc : (srcPod s).scalar x.toNat ∉ s.team.children) :
    exec (.gwait x) s = .next (takeTrap s { code := .permission }) ∧ exec (.gwaitTry x) s = .next (takeTrap s { code := .permission }) :=
  have h : s.team.children.contains ((srcPod s).scalar x.toNat) = false := Bool.eq_false_iff.mpr (mt List.contains_iff_mem.mp hc)
  ⟨settle_require_fails h, settle_require_fails h⟩

/-- A status word with bit 31 is written by both forms. -/
theorem gwait_writes {w : W32} (hc : (srcPod s).scalar x.toNat ∈ s.team.children) (hw : gridStatusWord s ((srcPod s).scalar x.toNat) = w)
    (h31 : w.getLsbD 31 = true) : ScalarWrites (.gwait x) s x 1 w ∧ ScalarWrites (.gwaitTry x) s x 1 w := by
  subst hw
  exact ⟨scalarWrites_of (exec_gwait_done hc h31), scalarWrites_of (exec_gwaitTry_child hc)⟩

theorem gridStatusWord_gone {h : W32} (hg : ∀ g ∈ s.grids, g.handle ≠ h) : gridStatusWord s h = 0x80000000#32 := by
  have hnone : s.gridOf h = none := List.find?_eq_none.mpr fun g hm => by simpa using hg g hm
  unfold gridStatusWord
  rw [hnone]

theorem gridStatusWord_retired {h w : W32} {g : Grid} {code : Nat} {fail : Bool} (hg : s.gridOf h = some g) (hs : g.status = .retired code fail w) :
    gridStatusWord s h = BitVec.ofNat 32 (2 ^ 31 + code % 256 * 256 + if fail then 1 else 0) := by
  unfold gridStatusWord
  rw [hg]
  dsimp only
  rw [hs]
  rfl

theorem gridStatusWord_runs {h : W32} {g : Grid} (hg : s.gridOf h = some g) (hs : g.status = .running ∨ ∃ code w, g.status = .ending code w) :
    gridStatusWord s h = 0#32 := by
  unfold gridStatusWord
  rw [hg]
  dsimp only
  obtain hs | ⟨code, w, hs⟩ := hs <;> rw [hs]

/-- R276: bit 31 of a status word says that the grid has retired. -/
theorem statusWord_bit (code : Nat) (fail : Bool) : (BitVec.ofNat 32 (2 ^ 31 + code % 256 * 256 + if fail then 1 else 0)).getLsbD 31 = true := by
  have hn : 2 ^ 31 + code % 256 * 256 + (if fail then 1 else 0) < 2 ^ 32 ∧ 2 ^ 31 ≤ 2 ^ 31 + code % 256 * 256 + (if fail then 1 else 0) := by
    cases fail <;> simp <;> omega
  generalize 2 ^ 31 + code % 256 * 256 + (if fail then 1 else 0) = n at hn
  rw [BitVec.getLsbD_ofNat, Nat.testBit_eq_decide_div_mod_eq]
  simp
  omega

end

/-! ### Posting a node -/

section
variable {s : State} {x y : BitVec 5} {l : BitVec 4}

/-- The number that the low n bits of a word give, where its other bits are 0. -/
theorem lowBits_of_lt {w : W32} {n : Nat} (h : w.toNat < 2 ^ n) :
    (w.extractLsb' 0 n).toNat = w.toNat ∧ (w.extractLsb' n (32 - n) == 0#(32 - n)) = true := by
  have hz : w.toNat / 2 ^ n = 0 := Nat.div_eq_of_lt h
  simp [BitVec.toNat_eq, Nat.shiftRight_eq_div_pow, hz, Nat.mod_eq_of_lt h]

theorem highBits_of_ge {w : W32} {n : Nat} (hn : n ≤ 32) (h : 2 ^ n ≤ w.toNat) : (w.extractLsb' n (32 - n) == 0#(32 - n)) = false := by
  have hlt : w.toNat / 2 ^ n < 2 ^ (32 - n) := Nat.div_lt_of_lt_mul (by rw [← Nat.pow_add, Nat.add_sub_cancel' hn]; exact w.isLt)
  have hpos : 0 < w.toNat / 2 ^ n := Nat.div_pos h (Nat.two_pow_pos n)
  refine beq_eq_false_iff_ne.mpr fun he => ?_
  have := congrArg BitVec.toNat he
  rw [BitVec.extractLsb'_toNat, Nat.shiftRight_eq_div_pow, Nat.mod_eq_of_lt hlt, BitVec.toNat_ofNat, Nat.zero_mod] at this
  omega

/-- R277: the stream that a post names. -/
def postStream (s : State) (x : BitVec 5) : Nat := ((srcPod s).scalar x.toNat).toNat % 64

/-- R277: whether a post names a stream that its owner holds. -/
def postHolds (s : State) (x : BitVec 5) : Bool :=
  ((srcPod s).scalar x.toNat).extractLsb' 6 26 == 0#26 && (s.stream (((srcPod s).scalar x.toNat).extractLsb' 0 6).toNat).owner.toNat == s.ctx.owner

theorem extractLow_toNat {w : W32} {n : Nat} : (w.extractLsb' 0 n).toNat = w.toNat % 2 ^ n := by simp

theorem postHolds_iff : postHolds s x = true ↔
    ((srcPod s).scalar x.toNat).toNat < 64 ∧ (s.stream (postStream s x)).owner.toNat = s.ctx.owner := by
  unfold postHolds postStream
  rw [extractLow_toNat, Bool.and_eq_true, beq_iff_eq (a := BitVec.toNat _)]
  refine and_congr_left' ⟨fun h => ?_, fun h => (lowBits_of_lt (n := 6) h).2⟩
  by_contra hge
  exact absurd h (Bool.eq_false_iff.mp (highBits_of_ge (n := 6) (by decide) (Nat.not_lt.mp hge)))

section
variable {b : List Byte} (hp : postHolds s x = true)
  (hb : podRecord s ((srcPod s).scalar (y.toNat + 1) ++ (srcPod s).scalar y.toNat).toNat 128 64 = .ok b)
  (hr : recordStop s s.ctx.owner (bytesWords 32 b) = none)
include hp hb hr

theorem exec_gnode_checked : exec (.gnode x y l) s = settle s
    (if !(streamRoom s (postStream s x) && (s.stream (postStream s x)).enable) then .error (.wait .launch)
     else pure (((appendNode s (postStream s x) (bytesWords 32 b)).scalarResult x.toNat
       (nextHandle (postStream s x) (s.stream (postStream s x))) l.toNat).advance 1)) := by
  show settle s (require (postHolds s x) _ >>= _) = _
  rw [settle_require hp, settle_ok_bind (postRead_ok (n := 32) hb), hr]
  dsimp -zeta only
  rw [extractLow_toNat]
  rfl

theorem exec_gnode_room (he : (s.stream (postStream s x)).enable = true) (hn : (s.stream (postStream s x)).nodes.length < 1024) (hu : unfinished s < 4096) :
    exec (.gnode x y l) s = .next (((appendNode s (postStream s x) (bytesWords 32 b)).scalarResult x.toNat
      (nextHandle (postStream s x) (s.stream (postStream s x))) l.toNat).advance 1) := by
  rw [exec_gnode_checked hp hb hr, he, streamRoom, decide_eq_true hn, decide_eq_true hu]
  rfl

theorem exec_gnode_full (h : (s.stream (postStream s x)).enable = false ∨ 1024 ≤ (s.stream (postStream s x)).nodes.length ∨ 4096 ≤ unfinished s) :
    exec (.gnode x y l) s = .next (markWait s .launch) := by
  have hno : (streamRoom s (postStream s x) && (s.stream (postStream s x)).enable) = false := by
    simp only [streamRoom, Bool.and_eq_false_iff, decide_eq_false_iff_not, Nat.not_lt]
    obtain h | h | h := h
    · exact .inr h
    · exact .inl (.inl h)
    · exact .inl (.inr h)
  rw [exec_gnode_checked hp hb hr, hno]
  rfl

end

theorem exec_gnode_stranger (h : postHolds s x = false) : exec (.gnode x y l) s = .next (takeTrap s { code := .permission }) :=
  settle_require_fails h

/-- The node that GNODE appends. -/
def postedNode (s : State) (k : Nat) (r : List W32) : Node :=
  { handle := nextHandle k (s.stream k), stamp := s.stamp, words := r,
    deps := ((s.stream k).nodes.filter fun e => dependsOn r e.words).map (·.handle), barMet := false,
    status := if ((recHandles r).any fun x => appended (s.stream (handleStream x)) x && (s.stream (handleStream x)).failed.contains x)
      then .finished 0x100#32 else .posted,
    grid := none, popped := 0 }

/-- A stream with the node appended. -/
def postedStream (s : State) (k : Nat) (r : List W32) (st : Stream) : Stream :=
  { st with next := st.next + 1, nodes := st.nodes ++ [postedNode s k r], failed := st.failed.filter (· != nextHandle k (s.stream k)) }

theorem appendNode_eq {k : Nat} {r : List W32} : appendNode s k r = { s.mapStream k (postedStream s k r) with stamp := s.stamp + 1 } := rfl

theorem appendNode_streams {k : Nat} {r : List W32} : (appendNode s k r).streams = (s.mapStream k (postedStream s k r)).streams := by
  rw [appendNode_eq]

theorem appendNode_kept {k : Nat} {r : List W32} :
    (appendNode s k r).pod = s.pod ∧ (appendNode s k r).team.flags = s.team.flags ∧ (appendNode s k r).ids = s.ids ∧
    appendNode s k r = { s with streams := (appendNode s k r).streams, stamp := s.stamp + 1 } := by
  refine ⟨?_, ?_, ?_, ?_⟩ <;> dsimp only [appendNode_eq, State.mapStream]

theorem appendNode_frame {t u : State} (ht : t = { s with streams := t.streams, stamp := s.stamp + 1 })
    (hu : u = { t with pod := u.pod, ids := u.ids }) :
    u = { s with pod := u.pod, ids := u.ids, streams := u.streams, stamp := s.stamp + 1 } ∧ u.streams = t.streams := by
  have hs : u.streams = t.streams := by rw [hu]
  rw [ht] at hu
  exact ⟨by rw [hs]; exact hu, hs⟩

theorem appendNode_stream {k : Nat} {r : List W32} (hk : k < 64) : (appendNode s k r).stream k = postedStream s k r (s.stream k) :=
  (stream_of_streams appendNode_streams).trans (stream_mapStream_same hk)

theorem appendNode_stream_other {k j : Nat} {r : List W32} (hj : j ≠ k) : (appendNode s k r).stream j = s.stream j :=
  (stream_of_streams appendNode_streams).trans (stream_mapStream_other hj)

end

/-! ### Pushing a tape record -/

section
variable {s u : State} {x y : BitVec 5} {l : BitVec 4} {r : List W32}

/-- The stream's tape one record longer. -/
def Stream.pushed (st : Stream) : Stream := { st with tape := st.tape + 1 }

theorem exec_tapepush (hk : kernelRecord s y = .ok r) (ht : (s.stream s.grid.stream).tape < 4096)
    (hu : engineWrite s s.ctx ((s.stream s.grid.stream).tapeBase.toNat + 128 * (s.stream s.grid.stream).tape) (wordsBytes r) = .ok u) :
    exec (.tapepush x y l) s = .next (((u.mapStream s.grid.stream Stream.pushed).scalarResult x.toNat
      (BitVec.ofNat 32 ((s.stream s.grid.stream).tape + 1)) l.toNat).advance 1) := by
  show settle s (kernelRecord s y >>= _) = _
  rw [settle_ok_bind hk, settle_require (decide_eq_true ht), settle_orTrap hu]
  rfl

theorem exec_tapepush_full (hk : kernelRecord s y = .ok r) (ht : 4096 ≤ (s.stream s.grid.stream).tape) :
    exec (.tapepush x y l) s = .next (takeTrap s { code := .tapeOverflow }) := by
  show settle s (kernelRecord s y >>= _) = _
  rw [settle_ok_bind hk]
  exact settle_require_fails (decide_eq_false (Nat.not_lt.mpr ht))

theorem pushed_kept {k : Nat} (hu : OnlyBytes s u) : (u.mapStream k Stream.pushed).pod = s.pod ∧ (u.mapStream k Stream.pushed).team.flags = s.team.flags ∧
    (u.mapStream k Stream.pushed).ids = s.ids := by
  refine ⟨?_, ?_, ?_⟩ <;> dsimp only [State.mapStream] <;> rw [hu]

theorem pushed_stream {k j : Nat} (hu : OnlyBytes s u) (hk : k < 64) :
    (u.mapStream k Stream.pushed).stream k = (s.stream k).pushed ∧ (j ≠ k → (u.mapStream k Stream.pushed).stream j = s.stream j) := by
  have hs : u.streams = s.streams := by rw [hu]
  exact ⟨(stream_mapStream_same hk).trans (congrArg _ (stream_of_streams hs)), fun hj => (stream_mapStream_other hj).trans (stream_of_streams hs)⟩

theorem pushed_frame {k : Nat} {f : Stream → Stream} {t : State} (ht : t = { u.mapStream k f with pod := t.pod, ids := t.ids }) :
    t = { u with pod := t.pod, ids := t.ids, streams := t.streams } ∧ t.streams = (u.mapStream k f).streams := by
  have hs : t.streams = (u.mapStream k f).streams := by rw [ht]
  rw [hs]
  dsimp only [State.mapStream] at ht ⊢
  exact ⟨ht, rfl⟩

end

/-! ### Posting to a fabric queue -/

section
variable {s : State} {x y : BitVec 5} {l : BitVec 4}

/-- The enabled queue of a number. -/
def enabledQueue (s : State) (n : Nat) : Option FqQueue := s.ctx.queues.find? fun q => q.index == n && q.cfg.getLsbD 31

/-- R279: the queue of a post, by its number. -/
def postQueue (s : State) (x : BitVec 5) : Option FqQueue :=
  if ((srcPod s).scalar x.toNat).extractLsb' 8 24 == 0#24 then
    s.ctx.queues.find? fun q => q.index == (((srcPod s).scalar x.toNat).extractLsb' 0 8).toNat && q.enabled
  else none

theorem postQueue_of_lt (hx : ((srcPod s).scalar x.toNat).toNat < 256) : postQueue s x = enabledQueue s ((srcPod s).scalar x.toNat).toNat := by
  obtain ⟨hk, hz⟩ := lowBits_of_lt (n := 8) hx
  unfold postQueue
  rw [if_pos hz, hk]
  rfl

theorem postQueue_of_ge (hx : 256 ≤ ((srcPod s).scalar x.toNat).toNat) : postQueue s x = none :=
  if_neg (Bool.eq_false_iff.mp (highBits_of_ge (n := 8) (by decide) hx))

/-- A request with the keys and the step that stand. -/
def postedRequest (s : State) (q : FqQueue) (r : List W32) : FqRequest :=
  ⟨r, q.next, s.stamp, (srcCtx s).srkey.toList, (srcCtx s).srstep, false⟩

/-- The state with a request listed at queue k, before its number is written. -/
def requestedState (s : State) (k : Nat) (q : FqQueue) (r : List W32) : State :=
  let listed (p : FqQueue) : FqQueue := { p with next := (p.next + 1) % 2 ^ 32, requests := p.requests ++ [postedRequest s q r] }
  { s with stamp := s.stamp + 1, ctx := { s.ctx with queues := s.ctx.queues.map fun p => if p.index == k then listed p else p } }

section
variable {q : FqQueue} {b : List Byte} (hx : ((srcPod s).scalar x.toNat).toNat < 256)
  (hq : enabledQueue s ((srcPod s).scalar x.toNat).toNat = some q)
  (hb : podRecord s ((srcPod s).scalar (y.toNat + 1) ++ (srcPod s).scalar y.toNat).toNat 64 64 = .ok b)
include hx hq hb

theorem exec_fqpost_checked : exec (.fqpost x y l) s = settle s
    (if 64 ≤ q.requests.length then .error (.wait .launch)
     else pure (((requestedState s q.index q (bytesWords 16 b)).scalarResult x.toNat (BitVec.ofNat 32 q.next) l.toNat).advance 1)) := by
  have hidx : q.index = (((srcPod s).scalar x.toNat).extractLsb' 0 8).toNat := by
    have := List.find?_some hq
    simp only [Bool.and_eq_true, beq_iff_eq] at this
    exact this.1.trans (lowBits_of_lt (n := 8) hx).1.symm
  rw [← postQueue_of_lt hx] at hq
  show settle s (match postQueue s x with | none => _ | some _ => _) = _
  rw [hq]
  dsimp -zeta only
  rw [settle_ok_bind (postRead_ok (n := 16) hb), hidx]
  rfl

theorem exec_fqpost_room (h : q.requests.length < 64) : exec (.fqpost x y l) s =
    .next (((requestedState s q.index q (bytesWords 16 b)).scalarResult x.toNat (BitVec.ofNat 32 q.next) l.toNat).advance 1) := by
  rw [exec_fqpost_checked hx hq hb, if_neg (Nat.not_le.mpr h)]
  rfl

theorem exec_fqpost_full (h : 64 ≤ q.requests.length) : exec (.fqpost x y l) s = .next (markWait s .launch) := by
  rw [exec_fqpost_checked hx hq hb, if_pos h]
  rfl

end

theorem requested_frame {k : Nat} {q : FqQueue} {r : List W32} {t : State} (ht : t = { requestedState s k q r with pod := t.pod, ids := t.ids }) :
    t = { s with pod := t.pod, ids := t.ids, stamp := s.stamp + 1, ctx := { s.ctx with queues := t.ctx.queues } } ∧
    t.ctx.queues = (requestedState s k q r).ctx.queues := by
  have hq : t.ctx.queues = (requestedState s k q r).ctx.queues := by rw [ht]
  refine ⟨?_, hq⟩
  rw [hq]
  exact ht

theorem exec_fqpost_none (h : postQueue s x = none) : exec (.fqpost x y l) s = .next (takeTrap s { code := .permission }) := by
  show settle s (match postQueue s x with | none => _ | some _ => _) = _
  rw [h]
  rfl

end

/-- Settles O47, form by form: the checks of each in their order, then its effect and its scalar result. -/
theorem launches : Obligations.Launches := by
  intro x y l s b u q sx va r field kernel denied ends k st mine place child
  have hrec : kernel → kernelRecord s y = .ok r := fun ⟨hb, ht, hr⟩ => kernelRecord_ok hb ht hr
  have hholds : sx.toNat < 64 → st.owner.toNat = s.ctx.owner → postHolds s x = true := fun hx ho => postHolds_iff.mpr ⟨hx, ho⟩
  refine ⟨fun h0 hd hk => ?_, fun h0 => exec_glaunch_otherPod h0, fun h0 hd => exec_glaunch_deep h0 hd, fun hc hg => ?_, fun g code fail w hc hg hs => ?_,
    fun g hc hg hs => ?_, exec_gwait_stranger, fun hx ho hb hr => ⟨fun he hn hu => ?_, exec_gnode_full (hholds hx ho) hb hr⟩, fun h => ?_,
    fun hk ht h64 hu => ?_, fun hk ht => exec_tapepush_full (hrec hk) ht, fun hx hq hb => ⟨fun hn => ?_, exec_fqpost_full hx hq hb⟩, fun h => ?_⟩
  · obtain ⟨hadv, hres, hframe⟩ := scalarResult_advance (s := s) (t := launchedState s r) (w := newGridHandle s) (la := l.toNat) x rfl rfl rfl
    exact ⟨_, exec_glaunch h0 hd (hrec hk), hadv, hres, launchedGrid s r, hframe, rfl, rfl, rfl, rfl, rfl, rfl, rfl, rfl, rfl, rfl, rfl,
      launchedGrid_teams, rfl, launchedGrid_mode, ofNat_fieldAt, ofNat_fieldAt, ofNat_fieldAt, rfl, rfl, rfl⟩
  · exact gwait_writes hc (gridStatusWord_gone hg) (by decide)
  · exact gwait_writes hc (gridStatusWord_retired hg hs) (statusWord_bit code fail)
  · have hw := gridStatusWord_runs hg hs
    refine ⟨exec_gwait_runs hc (by rw [hw]; rfl), scalarWrites_of ((exec_gwaitTry_child hc).trans (by rw [hw]))⟩
  · obtain ⟨hpod, hflags, hids, hkept⟩ := appendNode_kept (s := s) (k := k) (r := r)
    obtain ⟨hadv, hres, hframe⟩ := scalarResult_advance (s := s) (w := nextHandle k st) (la := l.toNat) x hpod hflags hids
    obtain ⟨hframe, hstreams⟩ := appendNode_frame hkept hframe
    exact ⟨_, exec_gnode_room (hholds hx ho) hb hr he hn hu, hadv, hres, postedNode s k r, hframe,
      fun j hj => (stream_of_streams hstreams).trans (appendNode_stream_other hj),
      (stream_of_streams hstreams).trans (appendNode_stream (Nat.mod_lt _ (by decide))), rfl, rfl, rfl, rfl⟩
  · refine exec_gnode_stranger (Bool.eq_false_iff.mpr (mt postHolds_iff.mp fun ⟨hx, ho⟩ => ?_))
    obtain h | h := h
    · exact absurd hx (Nat.not_lt.mpr h)
    · exact h ho
  · have hbytes := engineWrite_onlyBytes hu
    obtain ⟨hpod, hflags, hids⟩ := pushed_kept (k := s.grid.stream) hbytes
    obtain ⟨hadv, hres, hframe⟩ := scalarResult_advance (s := s) (w := BitVec.ofNat 32 (mine.tape + 1)) (la := l.toNat) x hpod hflags hids
    obtain ⟨hframe, hstreams⟩ := pushed_frame hframe
    exact ⟨_, exec_tapepush (hrec hk) ht hu, hadv, hres, hframe, (stream_of_streams hstreams).trans (pushed_stream (j := 0) hbytes h64).1,
      fun j hj => (stream_of_streams hstreams).trans ((pushed_stream hbytes h64).2 hj)⟩
  · obtain ⟨hadv, hres, hframe⟩ := scalarResult_advance (s := s) (t := requestedState s q.index q (bytesWords 16 b)) (w := BitVec.ofNat 32 q.next) (la := l.toNat) x rfl rfl rfl
    obtain ⟨hframe, hqueues⟩ := requested_frame hframe
    exact ⟨_, exec_fqpost_room hx hq hb hn, hadv, hres, hframe, hqueues⟩
  · refine exec_fqpost_none ?_
    by_cases hx : sx.toNat < 256
    · obtain h | h := h
      · exact absurd hx (Nat.not_lt.mpr h)
      · exact (postQueue_of_lt hx).trans h
    · exact postQueue_of_ge (Nat.not_lt.mp hx)

end Sys2Proof.Machine
end

section
/-! O52: what happens to a pod besides its own issue: results, sleeps, REJOIN holds, convergences, WATCHDOG, waits (R33 to R39, R148, R227, R234, R236,
R237, R266). -/

namespace Sys2Proof.Machine

/-! ### Elements of a list by a test -/

theorem find_replaceIf {α : Type} {l : List α} {test : α → Bool} {f : α → α} (hf : ∀ x, test x = true → test (f x) = true) :
    (replaceIf l test f).find? test = (l.find? test).map f := by
  induction l with
  | nil => rfl
  | cons a r ih =>
    have hcons : replaceIf (a :: r) test f = (if test a then f a else a) :: replaceIf r test f := rfl
    rw [hcons]
    cases h : test a with
    | true => rw [if_pos rfl, List.find?_cons_of_pos (hf a h), List.find?_cons_of_pos h]; rfl
    | false => rw [if_neg Bool.false_ne_true, List.find?_cons_of_neg (by simp [h]), List.find?_cons_of_neg (by simp [h])]; exact ih

theorem replaceIf_replaceIf {α : Type} {l : List α} {test : α → Bool} {f g : α → α} (hf : ∀ x, test x = true → test (f x) = true) :
    replaceIf (replaceIf l test f) test g = replaceIf l test fun x => g (f x) := by
  unfold replaceIf
  rw [List.map_map]
  refine List.map_congr_left fun x _ => ?_
  cases h : test x <;> simp [h, hf]

/-! ### Results that return (R148) -/

section
variable {p : Pod} {m : Mask} {l : Nat}

theorem putLanes_reg_before {vals : List LaneWord} : ∀ {p : Pod} {r k : Nat}, k < r → (p.putLanes m r vals).reg k = p.reg k := by
  induction vals with
  | nil => exact fun _ => rfl
  | cons w rest ih =>
    intro p r k h
    exact (ih (Nat.lt_succ_of_lt h)).trans (setLanes_reg_other (Nat.ne_of_lt h))

theorem setLanes_lane {r : Nat} {w : LaneWord} (hr : r < 128) :
    (p.setLanes m r w).lane r l = if m.getLsbD l = true then w.getD l 0#32 else p.lane r l := by
  unfold Pod.lane Pod.setLanes
  rw [reg_setReg_same hr]
  cases h : m.getLsbD l with
  | true => rw [mergeLanes_active h, if_pos rfl]
  | false => rw [mergeLanes_inactive h, if_neg Bool.false_ne_true]

/-- Register k of a returning group takes its word in the lanes of the mask. -/
theorem putLanes_lane {vals : List LaneWord} : ∀ {p : Pod} {r k : Nat}, r + k < 128 →
    (p.putLanes m r vals).lane (r + k) l =
      if k < vals.length ∧ m.getLsbD l = true then (vals.getD k (Vector.replicate 4 0#32)).getD l 0#32 else p.lane (r + k) l := by
  induction vals with
  | nil => exact fun _ => (if_neg fun h => Nat.not_lt_zero _ h.1).symm
  | cons w rest ih =>
    intro p r k h
    cases k with
    | zero =>
      have hfirst : ((p.setLanes m r w).putLanes m (r + 1) rest).lane r l = (p.setLanes m r w).lane r l := by
        unfold Pod.lane
        rw [putLanes_reg_before (Nat.lt_succ_self r)]
      refine hfirst.trans ((setLanes_lane h).trans ?_)
      simp
    | succ j =>
      have hlater := ih (p := p.setLanes m r w) (r := r + 1) (k := j) (by omega)
      have hkept : (p.setLanes m r w).lane (r + (j + 1)) l = p.lane (r + (j + 1)) l := by
        unfold Pod.lane
        rw [setLanes_reg_other (by omega)]
      rw [show r + 1 + j = r + (j + 1) by omega, hkept] at hlater
      refine hlater.trans ?_
      simp

theorem deliverTag_of_find {tag : Nat} {x : Pending} (h : p.pending.find? (·.tag == tag) = some x) :
    p.deliverTag tag = { p.deliver x.res with pending := p.pending.filter (·.tag != tag) } := by
  unfold Pod.deliverTag
  rw [h]

end

/-! ### A pod of a resident owner -/

/-- A pod that wakes. -/
def Pod.woken (p : Pod) : Pod := { p with phase := .ready }

theorem woken_index (p : Pod) : p.woken.index = p.index := rfl

/-- A pod in a bunch of its own. -/
def Pod.alone (n : Nat) (p : Pod) : Pod := { p with bunch := n }

/-- A team with one of its pods changed. -/
def Team.withPod (pod : Nat) (f : Pod → Pod) (t : Team) : Team := { t with pods := replaceIf t.pods (·.index == pod) f }

/-- Another live pod of the home bunch shares the pod's bunch. -/
def SharesBunch (t : Team) (p : Pod) (pod : Nat) : Prop :=
  ∃ q ∈ t.pods, q.index ≠ pod ∧ q.index / 16 = p.index / 16 ∧ q.bunch = p.bunch ∧ q.phase ≠ .ended

section
variable {s : State} {team pod : Nat} {t : Team} {p : Pod} (ht : s.teams.find? (·.id == team) = some t) (hp : t.pods.find? (·.index == pod) = some p)
include ht hp

theorem residentPod_of_find (hr : isResident s t.owner = true) : residentPod s team pod = some (t, p) := by
  unfold residentPod
  rw [ht]
  dsimp only
  rw [if_pos hr, hp]
  rfl

theorem leaveBunch_alone (h : ¬SharesBunch t p pod) : leaveBunch s team pod = s := by
  unfold leaveBunch
  rw [ht, Option.bind_some, hp, Option.map_some]
  refine if_neg fun hany => h ?_
  simpa [SharesBunch, and_assoc] using hany

theorem leaveBunch_shared (h : SharesBunch t p pod) :
    leaveBunch s team pod = { s.mapTeamPod team pod (Pod.alone s.ids) with ids := s.ids + 1 } := by
  unfold leaveBunch
  rw [ht, Option.bind_some, hp, Option.map_some]
  refine if_pos ?_
  simpa [SharesBunch, and_assoc] using h

theorem loadDataReturn_delivers (hr : isResident s t.owner = true) (tag : Nat) :
    exec (.loadDataReturn team pod tag) s = .next (s.mapTeamPod team pod (·.deliverTag tag)) := by
  show Host.Outcome.next _ = _
  rw [residentPod_of_find ht hp hr]

/-! ### Sleeps (R266) and REJOIN holds (R34) -/

theorem sleepEnd_wakes {n : Nat} (hr : isResident s t.owner = true) (hph : p.phase = .asleep n) (hn : n ≤ s.clock) :
    exec (.sleepEnd team pod) s = .next (leaveBunch (s.mapTeamPod team pod Pod.woken) team pod) := by
  show Host.Outcome.next _ = _
  rw [residentPod_of_find ht hp hr]
  dsimp -zeta only
  rw [hph]
  dsimp -zeta only
  rw [if_pos hn]
  rfl

/-- A team of the list with one of its pods changed. -/
theorem find_mapTeamPod {f : Pod → Pod} (hf : ∀ q, (f q).index = q.index) :
    (s.mapTeamPod team pod f).teams.find? (·.id == team) = some (t.withPod pod f) ∧ (t.withPod pod f).pods.find? (·.index == pod) = some (f p) :=
  ⟨(find_replaceIf (test := fun m : Team => m.id == team) (f := Team.withPod pod f) fun _ h => h).trans (congrArg (Option.map _) ht),
    (find_replaceIf (test := fun q : Pod => q.index == pod) (f := f) fun q h => by rw [hf]; exact h).trans (congrArg (Option.map _) hp)⟩

omit ht hp in
theorem mem_withPod_other {f : Pod → Pod} {q : Pod} (hf : ∀ q, (f q).index = q.index) (h : q.index ≠ pod) :
    q ∈ (t.withPod pod f).pods ↔ q ∈ t.pods := by
  unfold Team.withPod replaceIf
  rw [List.mem_map]
  constructor
  · rintro ⟨x, hx, rfl⟩
    split at h
    · next hi => exact absurd ((hf x).trans (beq_iff_eq.mp hi)) h
    · next hi => rwa [if_neg hi]
  · exact fun hq => ⟨q, hq, if_neg (by simpa using h)⟩

omit ht hp in
theorem sharesBunch_woken : SharesBunch (t.withPod pod Pod.woken) p.woken pod ↔ SharesBunch t p pod :=
  exists_congr fun _ => ⟨fun ⟨hq, hi, h⟩ => ⟨(mem_withPod_other woken_index hi).mp hq, hi, h⟩,
    fun ⟨hq, hi, h⟩ => ⟨(mem_withPod_other woken_index hi).mpr hq, hi, h⟩⟩

theorem sleepEnd_alone {n : Nat} (hr : isResident s t.owner = true) (hph : p.phase = .asleep n) (hn : n ≤ s.clock) (h : ¬SharesBunch t p pod) :
    exec (.sleepEnd team pod) s = .next (s.mapTeamPod team pod Pod.woken) := by
  obtain ⟨ht', hp'⟩ := find_mapTeamPod ht hp (f := Pod.woken) fun _ => rfl
  exact (sleepEnd_wakes ht hp hr hph hn).trans (congrArg _ (leaveBunch_alone ht' hp' (mt sharesBunch_woken.mp h)))

omit ht hp in
theorem mapTeamPod_mapTeamPod {f g : Pod → Pod} (hf : ∀ q, (f q).index = q.index) :
    (s.mapTeamPod team pod f).mapTeamPod team pod g = s.mapTeamPod team pod fun q => g (f q) := by
  have hteams : replaceIf (replaceIf s.teams (·.id == team) (Team.withPod pod f)) (·.id == team) (Team.withPod pod g) =
      replaceIf s.teams (·.id == team) (Team.withPod pod fun q => g (f q)) := by
    refine (replaceIf_replaceIf (test := fun m : Team => m.id == team) (f := Team.withPod pod f) fun _ h => h).trans (List.map_congr_left fun m _ => ?_)
    have hpods : (m.withPod pod f).withPod pod g = m.withPod pod fun q => g (f q) := by
      unfold Team.withPod
      exact congrArg (fun l => { m with pods := l }) (replaceIf_replaceIf (test := fun q : Pod => q.index == pod) (f := f) fun q h => by rw [hf]; exact h)
    dsimp only
    rw [hpods]
  exact congrArg (fun l => { s with teams := l }) hteams

theorem sleepEnd_shared {n : Nat} (hr : isResident s t.owner = true) (hph : p.phase = .asleep n) (hn : n ≤ s.clock) (h : SharesBunch t p pod) :
    exec (.sleepEnd team pod) s = .next { s.mapTeamPod team pod (fun q => q.woken.alone s.ids) with ids := s.ids + 1 } := by
  obtain ⟨ht', hp'⟩ := find_mapTeamPod ht hp (f := Pod.woken) fun _ => rfl
  refine (sleepEnd_wakes ht hp hr hph hn).trans (congrArg _ ((leaveBunch_shared ht' hp' (sharesBunch_woken.mpr h)).trans ?_))
  exact congrArg (fun u : State => { u with ids := s.ids + 1 }) (mapTeamPod_mapTeamPod (f := Pod.woken) (g := Pod.alone s.ids) fun _ => rfl)

theorem rejoinHoldEnd_merges {k : Nat} (hr : isResident s t.owner = true) (hph : p.phase = .waiting .rejoin k) :
    exec (.rejoinHoldEnd team pod) s = .next (s.mapTeam team fun t =>
      { t with pods := t.pods.map fun q => if mergesWith p q then { q with phase := .ready, bunch := p.bunch, heldAt := none } else q }) := by
  have hat : p.atRejoin = true := by unfold Pod.atRejoin; rw [hph]
  show Host.Outcome.next _ = _
  rw [residentPod_of_find ht hp hr]
  exact congrArg _ (if_pos hat)

/-! ### WATCHDOG (R39, R237, R355) -/

theorem watchdog_at {w : Wait} {k : Nat} {g : Grid} (hr : isResident s t.owner = true) (hph : p.phase = .waiting w k) (hg : s.gridOf t.handle = some g) :
    exec (.watchdog team pod) s = .next (if k + 2 ^ 32 ≤ s.clock && (watchdogDue s t g k).any (·.1.index == pod) then watchdogAll team (watchdogDue s t g k) s else s) := by
  show Host.Outcome.next _ = _
  rw [residentPod_of_find ht hp hr]
  dsimp -zeta only
  rw [hph, hg]

theorem watchdog_early {w : Wait} {k : Nat} (hr : isResident s t.owner = true) (hph : p.phase = .waiting w k) (hk : s.clock < k + 2 ^ 32) :
    exec (.watchdog team pod) s = .next s := by
  show Host.Outcome.next _ = _
  rw [residentPod_of_find ht hp hr]
  dsimp -zeta only
  rw [hph]
  split
  · next h _ =>
    cases h
    rw [decide_eq_false (Nat.not_le.mpr hk)]
    rfl
  · rfl

theorem watchdog_due {w : Wait} {k : Nat} {g : Grid} (hr : isResident s t.owner = true) (hph : p.phase = .waiting w k) (hg : s.gridOf t.handle = some g)
    (hk : k + 2 ^ 32 ≤ s.clock) (hin : ∃ x ∈ watchdogDue s t g k, x.1.index = pod) :
    exec (.watchdog team pod) s = .next (watchdogAll team (watchdogDue s t g k) s) := by
  rw [watchdog_at ht hp hr hph hg, if_pos]
  simpa using And.intro hk hin

theorem watchdog_notDue {w : Wait} {k : Nat} {g : Grid} (hr : isResident s t.owner = true) (hph : p.phase = .waiting w k) (hg : s.gridOf t.handle = some g)
    (hout : ∀ x ∈ watchdogDue s t g k, x.1.index ≠ pod) : exec (.watchdog team pod) s = .next s := by
  rw [watchdog_at ht hp hr hph hg, if_neg]
  simpa using fun _ => hout

end

/-- R254: a TROT leg that waits for its partners has not begun. -/
theorem trot_begun_iff {m : MatCmd} (h : ∃ a b l, m.instr = .trot a b l) :
    m.begun = true ↔ m.started = true ∧ m.stopped = none ∧ 0 < m.next ∧ m.ticketed = false := by
  obtain ⟨a, b, l, h⟩ := h
  unfold MatCmd.begun
  rw [h]
  simp only [Bool.and_eq_true, Option.isNone_iff_eq_none, Bool.not_eq_true', decide_eq_true_eq]
  tauto

theorem isTrot_iff {i : Instr} : (match i with | .trot _ _ _ => true | _ => false) = true ↔ ∃ a b l, i = .trot a b l := by
  constructor
  · intro h
    split at h
    · next a b l => exact ⟨a, b, l, rfl⟩
    · exact absurd h Bool.false_ne_true
  · rintro ⟨a, b, l, rfl⟩
    rfl

theorem mem_instrsAt {s : State} {g : Grid} {c : Context} {q : Pod} {i : Instr} :
    i ∈ instrsAt s g c q ↔ ∃ w ∈ wordsAt s g c q, decodeCore w.1 w.2 = .ok i := by
  unfold instrsAt
  rw [List.mem_filterMap]
  refine exists_congr fun w => and_congr_right fun _ => ?_
  cases decodeCore w.1 w.2 <;> simp [Except.toOption]

/-- R93: what it is to wait at a TROT leg that waits for its partners. -/
theorem onWaitingLeg_iff {s : State} {g : Grid} {c : Context} {q : Pod} : onWaitingLeg s g c q = true ↔
    ∃ h ∈ q.held, (∃ m ∈ s.mats, m.id = h.cmd ∧ (∃ a b l, m.instr = .trot a b l) ∧
        ¬(m.started = true ∧ m.stopped = none ∧ 0 < m.next ∧ m.ticketed = false)) ∧
      ∃ w ∈ wordsAt s g c q, ∃ i, decodeCore w.1 w.2 = .ok i ∧ ∃ r ∈ touches i, r.meets (.scalar h.reg 1) = true := by
  unfold onWaitingLeg
  rw [List.any_eq_true]
  refine exists_congr fun h => and_congr_right fun _ => ?_
  rw [Bool.and_eq_true, List.any_eq_true, List.any_eq_true]
  refine and_congr (exists_congr fun m => and_congr_right fun _ => ?_) ⟨?_, ?_⟩
  · rw [Bool.and_eq_true, Bool.and_eq_true, beq_iff_eq, Bool.not_eq_true', and_assoc, and_comm (a := m.begun = false)]
    refine and_congr_right fun _ => (and_congr_left' isTrot_iff).trans (and_congr_right fun ht => ?_)
    rw [← trot_begun_iff ht, Bool.not_eq_true]
  · rintro ⟨i, hi, hm⟩
    obtain ⟨w, hw, hd⟩ := mem_instrsAt.mp hi
    exact ⟨w, hw, i, hd, List.any_eq_true.mp hm⟩
  · rintro ⟨w, hw, i, hd, hm⟩
    exact ⟨i, mem_instrsAt.mpr ⟨w, hw, hd⟩, List.any_eq_true.mpr hm⟩

theorem watchdogCause_iff {s : State} {g : Grid} {c : Context} {q : Pod} {w : Wait} {n : Nat} : watchdogCause s g c q w = some n ↔
    (w = .converge ∧ n = 1) ∨ (w = .engine ∧ n = 3) ∨ (w = .launch ∧ n = 4) ∨
      (n = 2 ∧ (w = .bar ∨ w = .barrier ∨ w = .pointer ∨ w = .memory ∨ w = .tkfence ∨ w = .ticket)) ∨
      (w = .register ∧ n = 3 ∧ onWaitingLeg s g c q = true) := by
  cases w
  case register =>
    show (if onWaitingLeg s g c q = true then some 3 else none) = some n ↔ _
    split <;> simp [*, eq_comm (b := n)]
  all_goals simp [watchdogCause, eq_comm (b := n)]

/-- R355: the cause that a pod of the list gives, of the waits that began at one clock. -/
def dueCause (s : State) (t : Team) (g : Grid) (k : Nat) (q : Pod) : Option (Pod × Nat) :=
  match q.phase with
  | .waiting w j => if j == k then (watchdogCause s g (s.ctxOf t.owner) q w).map fun n => (q, n) else none
  | _ => none

theorem dueCause_iff {s : State} {t : Team} {g : Grid} {k : Nat} {q : Pod} {x : Pod × Nat} : dueCause s t g k q = some x ↔
    x.1 = q ∧ ∃ w, q.phase = .waiting w k ∧ watchdogCause s g (s.ctxOf t.owner) q w = some x.2 := by
  obtain ⟨r, n⟩ := x
  unfold dueCause
  constructor
  · intro h
    split at h
    · next w j hph =>
      by_cases hj : j = k
      · subst hj
        rw [if_pos (beq_self_eq_true j), Option.map_eq_some_iff] at h
        obtain ⟨m, hm, heq⟩ := h
        cases heq
        exact ⟨rfl, w, hph, hm⟩
      · rw [if_neg (by simpa using hj)] at h
        exact absurd h nofun
    · exact absurd h nofun
  · rintro ⟨rfl, w, hph, hc⟩
    rw [hph]
    dsimp only
    rw [if_pos (beq_self_eq_true k), hc]
    rfl

theorem watchdogDue_eq {s : State} {t : Team} {g : Grid} {k : Nat} : watchdogDue s t g k = t.pods.filterMap (dueCause s t g k) := rfl

theorem mem_watchdogDue {s : State} {t : Team} {g : Grid} {k n : Nat} {q : Pod} (hq : q ∈ t.pods) : (q, n) ∈ watchdogDue s t g k ↔
    ∃ w, q.phase = .waiting w k ∧ watchdogCause s g (s.ctxOf t.owner) q w = some n := by
  rw [watchdogDue_eq, List.mem_filterMap]
  constructor
  · rintro ⟨r, _, hr⟩
    obtain ⟨rfl, h⟩ := dueCause_iff.mp hr
    exact h
  · exact fun h => ⟨q, hq, dueCause_iff.mpr ⟨rfl, h⟩⟩

theorem map_filterMap_sublist {α β : Type} {f : α → Option β} {g : β → α} (h : ∀ a b, f a = some b → g b = a) :
    ∀ l : List α, ((l.filterMap f).map g).Sublist l
  | [] => List.Sublist.slnil
  | a :: r => by
    rw [List.filterMap_cons]
    split
    · exact (map_filterMap_sublist h r).cons a
    · next b hb =>
      rw [List.map_cons, h a b hb]
      exact (map_filterMap_sublist h r).cons_cons a

theorem watchdogDue_sublist {s : State} {t : Team} {g : Grid} {k : Nat} : ((watchdogDue s t g k).map (·.1)).Sublist t.pods := by
  rw [watchdogDue_eq]
  exact map_filterMap_sublist (fun q x h => (dueCause_iff.mp h).1) t.pods

/-- R355: one pod's WATCHDOG, where no TKSKIP stands between granules: its record; and it is suspended, or the last one's ends the grid. -/
theorem watchdogAll_cons {s o : State} {team n : Nat} {q : Pod} {ps : List (Pod × Nat)} (ho : openPod s team q.index = some o) (h1 : o.pod.skip = 0)
    (h2 : o.pod.skip2 = 0) : watchdogAll team ((q, n) :: ps) s = watchdogAll team ps (if o.grid.susp = true ∨ ps = [] then
      { leaveBunch (takePodTrap o { code := .watchdog, cause := n } o.pod.second) team q.index with note := .none }
      else postRecord s (podSite o o.pod.second) { code := .watchdog, cause := n }) := by
  have hskip : skipDone o o.pod = o.pod := by
    unfold skipDone
    rw [h1, h2]
    show { o.pod with skip := 0, skip2 := 0 } = o.pod
    conv_rhs => rw [show o.pod = { o.pod with skip := o.pod.skip, skip2 := o.pod.skip2 } from rfl, h1, h2]
  have hmap : o.mapPod (skipDone o) = o := congrArg (fun p => { o with pod := p }) hskip
  conv_lhs => unfold watchdogAll
  rw [ho]
  dsimp -zeta only
  rw [hmap]
  simp only [Bool.or_eq_true, List.isEmpty_iff]

/-! ### Convergence (R37, R39) -/

/-- The live pods of a home bunch. -/
def livePods (t : Team) (hb : Nat) : List Pod := t.pods.filter fun p => p.index / 16 == hb && p.phase != .ended

theorem converging_iff {q : Pod} : q.converging = true ↔ ∃ k, q.phase = .waiting .converge k := by
  unfold Pod.converging
  split
  · next k h => exact ⟨fun _ => ⟨k, h⟩, fun _ => rfl⟩
  · next h => exact ⟨fun hf => absurd hf Bool.false_ne_true, fun ⟨k, hk⟩ => absurd hk (h k)⟩

section
variable {s : State} {team hb : Nat} {t : Team} {p0 : Pod} {rest : List Pod} {g : Grid} (ht : s.teams.find? (·.id == team) = some t)
  (hl : livePods t hb = p0 :: rest) (hw : ∀ q ∈ livePods t hb, ∃ k, q.phase = .waiting .converge k) (hg : s.gridOf t.handle = some g)
include ht hl hw hg

/-- R37: where every live pod stands at a convergence, their places decide. -/
theorem bunchConvergence_at : exec (.bunchConvergence team hb) s =
    if (livePods t hb).all fun q => bunchPlace s g (s.ctxOf t.owner) q == bunchPlace s g (s.ctxOf t.owner) p0 then
      .next (s.mapTeam team fun t' => { t' with pods := t'.pods.map fun q => if q.index / 16 == hb && q.phase != .ended then
        { q with phase := .ready, grant := some (grantFor (wordsAt s g (s.ctxOf t.owner) q) (bunchPositions (livePods t hb)) q) } else q })
    else .next (watchdogAll team ((livePods t hb).map fun q => (q, 0)) s) := by
  have hall : (livePods t hb).all Pod.converging = true := List.all_eq_true.mpr fun q hq => converging_iff.mpr (hw q hq)
  show execBunchConvergence team hb s = _
  unfold execBunchConvergence
  rw [ht]
  dsimp only
  rw [show t.pods.filter (fun p => p.index / 16 == hb && p.phase != .ended) = livePods t hb from rfl]
  rw [hl] at hall ⊢
  rw [hg]
  dsimp only
  rw [hall]
  rfl

theorem bunchConvergence_meets (h : ∀ q ∈ livePods t hb, bunchPlace s g (s.ctxOf t.owner) q = bunchPlace s g (s.ctxOf t.owner) p0) :
    exec (.bunchConvergence team hb) s = .next (s.mapTeam team fun t' =>
      { t' with pods := t'.pods.map fun q => if q.index / 16 == hb && q.phase != .ended then
        { q with phase := .ready, grant := some (grantFor (wordsAt s g (s.ctxOf t.owner) q) (bunchPositions (livePods t hb)) q) } else q }) := by
  rw [bunchConvergence_at ht hl hw hg, if_pos (List.all_eq_true.mpr fun q hq => beq_iff_eq.mpr (h q hq))]

theorem bunchConvergence_fails (h : ∃ q ∈ livePods t hb, bunchPlace s g (s.ctxOf t.owner) q ≠ bunchPlace s g (s.ctxOf t.owner) p0) :
    exec (.bunchConvergence team hb) s = .next (watchdogAll team ((livePods t hb).map fun q => (q, 0)) s) := by
  rw [bunchConvergence_at ht hl hw hg, if_neg]
  simpa using h

end

end Sys2Proof.Machine
end

section
/-! O52, continued: waits of BWAIT and WAITMEM that an event ends (R234, R236), and a ticket gap (R227). -/

namespace Sys2Proof.Machine

/-! ### An agent in focus -/

theorem openPod_focus {s o : State} {team pod : Nat} (h : openPod s team pod = some o) : o.cur = .pod team pod ∧ o.note = .none ∧ o.snap = none := by
  unfold openPod at h
  split at h
  · exact absurd h nofun
  · split at h
    · cases h
      exact ⟨rfl, rfl, rfl⟩
    · exact absurd h nofun

theorem srcPod_of_snap {o : State} (h : o.snap = none) : srcPod o = o.pod := by
  unfold srcPod
  rw [h]

theorem openWaiting_of {s o : State} {team pod k : Nat} {w : Wait} (h : openPod s team pod = some o) (hp : o.pod.phase = .waiting w k) :
    openWaiting s team pod w = some o := by
  unfold openWaiting
  rw [h]
  dsimp -zeta only
  rw [hp]
  exact if_pos (beq_self_eq_true w)

theorem markWait_note {s : State} {w : Wait} : (markWait s w).note = .waits w := by
  unfold markWait
  dsimp only
  split <;> rfl

theorem takeTrap_note {s : State} {t : Stop} : (takeTrap s t).note = .trapped t := rfl

/-! ### What the word of a wait leaves -/

section
variable {o u : State} {team pod : Nat} {i : Instr} {e : Stop} {w : Wait}

/-- R33, R148, R370: the state after a lone wait that completes. -/
def waitEnded (o : State) (team pod : Nat) (i : Instr) (u : State) : State :=
  let v := (retireWord u i (wordAtPod o) (activeMask o)).mapPod fun q => { q with grant := none, lastIssue := max q.lastIssue o.tick }
  { leaveBunch (countCore (closeFocus v) o.ctx.owner o.team.core 3 1) team pod with note := .none, snap := none }

theorem closed_completes (h : u.note = .none) : closed o team pod i (.next u) = .next (waitEnded o team pod i u) := by
  unfold closed waitEnded
  dsimp -zeta only
  rw [h]

theorem closed_faults : closed o team pod i (.next (takeTrap u e)) = .next { leaveBunch (closeFocus (takeTrap u e)) team pod with note := .none, snap := none } := by
  unfold closed
  dsimp -zeta only
  rw [takeTrap_note]

theorem closed_waits : closed o team pod i (.next (markWait u w)) = .next { closeFocus (markWait u w) with note := .none, snap := none } := by
  unfold closed
  dsimp -zeta only
  rw [markWait_note]

theorem pairReady_completes (h : u.note = .none) : pairReady o (.next u) = closeFocus { o with pod := { o.pod with phase := .ready } } := by
  unfold pairReady
  dsimp -zeta only
  rw [h]
  rfl

theorem pairReady_waits : pairReady o (.next (markWait u w)) = closeFocus o := by
  unfold pairReady
  dsimp -zeta only
  rw [markWait_note]

end

/-! ### BWAIT (R234) and WAITMEM (R236) -/

section
variable {s o : State} {team pod k : Nat} {a b c : BitVec 5} (ho : openPod s team pod = some o) (hp : o.pod.phase = .waiting .barrier k)
include ho hp

theorem bwaitCompletion_lone (hl : loneInstr o = some (.bwait a b c)) :
    exec (.bwaitCompletion team pod) s = closed o team pod (.bwait a b c) (execBwait a b c o) := by
  show execBwaitCompletion team pod s = _
  unfold execBwaitCompletion
  rw [openWaiting_of ho hp]
  dsimp -zeta only
  rw [hl]

theorem bwaitCompletion_pair (hl : loneInstr o = none)
    (hf : (pairInstrs o).find? (fun i => match i with | .bwait _ _ _ => true | _ => false) = some (.bwait a b c)) :
    exec (.bwaitCompletion team pod) s = .next (pairReady o (execBwait a b c o)) := by
  show execBwaitCompletion team pod s = _
  unfold execBwaitCompletion
  rw [openWaiting_of ho hp]
  dsimp -zeta only
  rw [hl]
  dsimp -zeta only
  split
  · next h => cases h.symm.trans hf; rfl
  · next h => exact absurd hf (h _ _ _)

end

section
variable {s o : State} {team pod k : Nat} {a b : BitVec 5} {c : BitVec 2} (ho : openPod s team pod = some o) (hp : o.pod.phase = .waiting .memory k)
include ho hp

theorem waitmemCompletion_lone (hl : loneInstr o = some (.waitmem a b c)) :
    exec (.waitmemCompletion team pod) s = closed o team pod (.waitmem a b c) (execWaitmem a b c o) := by
  show execWaitmemCompletion team pod s = _
  unfold execWaitmemCompletion
  rw [openWaiting_of ho hp]
  dsimp -zeta only
  rw [hl]

theorem waitmemCompletion_pair (hl : loneInstr o = none)
    (hf : (pairInstrs o).find? (fun i => match i with | .waitmem _ _ _ => true | _ => false) = some (.waitmem a b c)) :
    exec (.waitmemCompletion team pod) s = .next (pairReady o (execWaitmem a b c o)) := by
  show execWaitmemCompletion team pod s = _
  unfold execWaitmemCompletion
  rw [openWaiting_of ho hp]
  dsimp -zeta only
  rw [hl]
  dsimp -zeta only
  split
  · next h => cases h.symm.trans hf; rfl
  · next h => exact absurd hf (h _ _ _)

end

section
variable {o : State} {a b c : BitVec 5} (hs : o.snap = none)
include hs

/-- The address of an even scalar pair, outside a pair. -/
theorem pairOf_eq : (pairOf o b.toNat).toNat = (o.pod.scalar (b.toNat + 1) ++ o.pod.scalar b.toNat).toNat := by
  unfold pairOf
  rw [srcPod_of_snap hs]
  rfl

theorem execBwait_faults {e : Stop} (h : readObject o o.ctx.owner (o.pod.scalar (b.toNat + 1) ++ o.pod.scalar b.toNat).toNat = .error e) :
    execBwait a b c o = .next (takeTrap o e) := by
  unfold execBwait
  rw [pairOf_eq hs, readPhase_fault h]

/-- What BWAIT does at an object that waits for no parent. -/
theorem execBwait_reads {pa : Nat} {obj : List W32} (h : readObject o o.ctx.owner (o.pod.scalar (b.toNat + 1) ++ o.pod.scalar b.toNat).toNat = .ok (pa, obj))
    (hw : (obj.getD 3 0#32).getLsbD 31 = false) (hq : Uncounted o 1 3) :
    execBwait a b c o = .next (if phasePast (obj.getD 2 0#32) (o.pod.scalar a.toNat) then (o.setScalar a.toNat (obj.getD 2 0#32)).advance 1 else markWait o .barrier) := by
  unfold execBwait
  rw [pairOf_eq hs, readPhase_plain h hw hq]
  unfold sreg scalarOf
  rw [srcPod_of_snap hs]
  rfl

theorem execWaitmem_faults {a b : BitVec 5} {c : BitVec 2} {e : Stop}
    (h : podRecord o (o.pod.scalar (b.toNat + 1) ++ o.pod.scalar b.toNat).toNat 4 4 = .error e) : execWaitmem a b c o = .next (takeTrap o e) := by
  unfold execWaitmem
  rw [pairOf_eq hs, h]
  rfl

/-- What WAITMEM does with the word that it reads. -/
theorem execWaitmem_reads {a b : BitVec 5} {c : BitVec 2} {y : List Byte}
    (h : podRecord o (o.pod.scalar (b.toNat + 1) ++ o.pod.scalar b.toNat).toNat 4 4 = .ok y) :
    execWaitmem a b c o = .next (if wordMet c (BitVec.ofNat 32 (bytesNat y)) (o.pod.scalar a.toNat) then
      (o.setScalar a.toNat (BitVec.ofNat 32 (bytesNat y))).advance 1 else markWait o .memory) := by
  unfold execWaitmem
  rw [pairOf_eq hs, settle_orTrap h]
  unfold sreg scalarOf
  rw [srcPod_of_snap hs]
  dsimp only
  split <;> rfl

end

theorem scalarEffect_completes {o : State} {d : BitVec 5} {w : W32} (hn : o.note = .none) :
    (scalarEffect o d w).note = .none ∧ (scalarEffect o d w).pod.scalar d.toNat = w ∧ Advances o (scalarEffect o d w) 1 := by
  refine ⟨hn, ?_, advance_advances ⟨rfl, rfl, rfl⟩⟩
  show (Pod.advance _ 1).scalar d.toNat = w
  rw [advance_scalar]
  exact scalar_setScalar_same d.isLt

/-- R236: the conditions of WAITMEM. -/
theorem wordMet_iff {c : BitVec 2} {m x : W32} (hc : c ≠ 3#2) :
    wordMet c m x = true ↔ (c = 0#2 ∧ m = x) ∨ (c = 1#2 ∧ m ≠ x) ∨ (c = 2#2 ∧ 0 ≤ (m - x).toInt) := by
  have hcases : c = 0#2 ∨ c = 1#2 ∨ c = 2#2 ∨ c = 3#2 := by bv_omega
  obtain rfl | rfl | rfl | rfl := hcases
  · simp [wordMet]
  · simp [wordMet]
  · simp [wordMet, BitVec.msb_eq_toInt]
  · exact absurd rfl hc

/-! ### A ticket gap (R227) -/

theorem gapx_eq (c : Context) : c.gapx = c.tkctl.toNat % 32 := by
  simp [Context.gapx]

/-- R227: the oldest pending entry of a granule has waited long enough, and its counter value has not been reported. -/
theorem ticketGap_posts {s : State} {owner k n : Nat} {r : Region} {e : TkEntry} {es : List TkEntry} (ho : isResident s owner = true)
    (hr : (s.ctxOf owner).regions.getD k none = some r) (he : granuleEntries (s.ctxOf owner) k n = e :: es) (hg : (s.ctxOf owner).gapx ≠ 0)
    (hold : es.foldl (fun n x => min n x.since) e.since + 2 ^ (s.ctxOf owner).gapx ≤ s.clock)
    (hnew : (n, r.counter s (s.ctxOf owner).key n) ∉ r.posted) :
    exec (.ticketGap owner k n) s = .next (postRecord
      (s.mapCtx owner fun c => c.mapRegion k fun q => { q with posted := setGranule q.posted n (r.counter s (s.ctxOf owner).key n) })
      { owner := owner, agent := .slice, kind := 6, unit := homeSlice e.pa }
      (ticketStop .ticketGap (BitVec.ofNat 64 (r.base + 64 * n)) k (r.counter s (s.ctxOf owner).key n)
        (es.foldl (fun (t : BitVec 16) x => if (x.ticket - r.counter s (s.ctxOf owner).key n).toNat < (t - r.counter s (s.ctxOf owner).key n).toNat then x.ticket else t) e.ticket))) := by
  show execTicketGap owner k n s = _
  unfold execTicketGap
  dsimp only
  rw [hr, he]
  dsimp only
  rw [if_pos]
  simp only [Bool.and_eq_true, bne_iff_ne, decide_eq_true_eq, Bool.not_eq_true', List.contains_eq_mem, decide_eq_false_iff_not]
  exact ⟨⟨⟨ho, hg⟩, hold⟩, hnew⟩

/-- R34: a REJOIN's pods merge by home bunch, the REJOIN they came to and the four fields of the ganging key. -/
theorem mergesWith_eq (p q : Pod) : mergesWith p q =
    (q.atRejoin && q.index / 16 == p.index / 16 && q.heldAt == p.heldAt && q.pc == p.pc && q.slot == p.slot && q.cd == p.cd && q.md == p.md) := by
  have hkey : (q.key == p.key) = (q.pc == p.pc && (q.slot == p.slot && (q.cd == p.cd && q.md == p.md))) := rfl
  unfold mergesWith
  rw [hkey]
  simp only [Bool.and_assoc]

/-- A lone wait that completes: its word writes scalar d and goes on, and the event leaves what it leaves. -/
def Finishes (s o : State) (team pod : Nat) (i ev : Instr) (d : BitVec 5) (w : W32) : Prop :=
  ∃ u, exec i o = .next u ∧ u.note = .none ∧ u.pod.scalar d.toNat = w ∧ Advances o u 1 ∧ exec ev s = .next (waitEnded o team pod i u)

theorem finishes_of {s o : State} {team pod : Nat} {i ev : Instr} {d : BitVec 5} {w : W32} (hn : o.note = .none)
    (he : exec i o = .next (scalarEffect o d w)) (hev : exec ev s = closed o team pod i (exec i o)) : Finishes s o team pod i ev d w := by
  obtain ⟨hnote, hscalar, hadv⟩ := scalarEffect_completes (d := d) (w := w) hn
  exact ⟨_, he, hnote, hscalar, hadv, by rw [hev, he, closed_completes hnote]⟩

/-- What an event leaves of a lone wait, and of a wait in a pair, as its condition is met or not. -/
theorem completion_spec {s o : State} {team pod : Nat} {i ev : Instr} {d : BitVec 5} {v : W32} {w : Wait} {m : Bool} {met lone first found : Prop}
    (hn : o.note = .none) (hm : m = true ↔ met) (he : exec i o = .next (if m = true then scalarEffect o d v else markWait o w))
    (hlone : lone → exec ev s = closed o team pod i (exec i o)) (hpair : first → found → exec ev s = .next (pairReady o (exec i o))) :
    (lone → (met → Finishes s o team pod i ev d v) ∧ (¬met → exec ev s = .next { closeFocus (markWait o w) with note := .none, snap := none })) ∧
    (first → found → (met → exec ev s = .next (closeFocus { o with pod := { o.pod with phase := .ready } })) ∧ (¬met → exec ev s = .next (closeFocus o))) := by
  rw [← hm]
  refine ⟨fun hl => ⟨fun hm => ?_, fun hm => ?_⟩, fun h1 h2 => ⟨fun hm => ?_, fun hm => ?_⟩⟩
  · rw [if_pos hm] at he
    exact finishes_of hn he (hlone hl)
  · rw [if_neg hm] at he
    rw [hlone hl, he, closed_waits]
  · rw [if_pos hm] at he
    rw [hpair h1 h2, he, pairReady_completes (scalarEffect_completes (w := v) (d := d) hn).1]
  · rw [if_neg hm] at he
    rw [hpair h1 h2, he, pairReady_waits]

/-- Settles O52, event by event. -/
theorem podEvents : Obligations.PodEvents := by
  intro team pod tag hb s o t p p0 x rest g found here one live shared leg code left ended finishes still ready
  refine ⟨fun ⟨ht, hr⟩ hp => ⟨fun hx => ⟨loadDataReturn_delivers ht hp hr tag, deliverTag_of_find hx, fun m r vals hres k l hk _ => ?_⟩,
      fun n hph hn => ⟨sleepEnd_alone ht hp hr hph hn, sleepEnd_shared ht hp hr hph hn⟩, fun k hph => ?_,
      fun w k hph hk hg => ⟨⟨watchdogDue_sublist, fun q hq n => ?_⟩, watchdog_due ht hp hr hph hg hk, watchdog_notDue ht hp hr hph hg⟩,
      fun w k hph hk => watchdog_early ht hp hr hph hk, leaveBunch_alone ht hp, leaveBunch_shared ht hp⟩,
    fun ⟨ht, _⟩ hl hw hg => ⟨bunchConvergence_meets ht hl hw hg, bunchConvergence_fails ht hl hw hg⟩, rfl, fun q n ps ho h1 h2 => watchdogAll_cons ho h1 h2,
    fun k ho hp a b c => ⟨fun e hl he => ?_, fun pa obj hobj hpar hq => ?_⟩, fun k ho hp a b c => ⟨fun e hl he => ?_, fun y hy hc => ?_⟩,
    fun owner k n r e es ho hr he hg hold hnew => ?_⟩
  · rw [hres]
    exact putLanes_lane hk
  · rw [rejoinHoldEnd_merges ht hp hr hph]
    exact congrArg _ (congrArg (s.mapTeam team) (funext fun m => congrArg (fun l => { m with pods := l }) (List.map_congr_left fun q _ => by rw [mergesWith_eq])))
  · rw [mem_watchdogDue hq]
    exact exists_congr fun v => and_congr_right fun _ => watchdogCause_iff.trans (or_congr_right (or_congr_right (or_congr_right (or_congr_right
      (and_congr_right fun _ => and_congr_right fun _ => onWaitingLeg_iff)))))
  · rw [bwaitCompletion_lone ho hp hl, execBwait_faults (openPod_focus ho).2.2 he]
    exact closed_faults
  · obtain ⟨_, hn, hs⟩ := openPod_focus ho
    exact completion_spec hn phasePast_iff (execBwait_reads (a := a) (c := c) hs hobj hpar hq) (bwaitCompletion_lone ho hp) (bwaitCompletion_pair ho hp)
  · rw [waitmemCompletion_lone ho hp hl, execWaitmem_faults (openPod_focus ho).2.2 he]
    exact closed_faults
  · obtain ⟨_, hn, hs⟩ := openPod_focus ho
    exact completion_spec hn (wordMet_iff hc) (execWaitmem_reads (a := a) (c := c) hs hy) (waitmemCompletion_lone ho hp) (waitmemCompletion_pair ho hp)
  · rw [← gapx_eq] at hg hold
    rw [List.foldl_cons, Nat.min_self] at hold
    exact ticketGap_posts ho hr he hg hold hnew

end Sys2Proof.Machine
end

section
/-! O55: which team starts on a core (R22 to R25, R287, R291 to R293). -/

namespace Sys2Proof.Machine

/-! ### The pool -/

theorem poolBefore_iff {a b : Grid} : poolBefore (a.pri, a.stamp) (b.pri, b.stamp) = true ↔ a.pri < b.pri ∨ (a.pri = b.pri ∧ a.stamp < b.stamp) := by
  simp [poolBefore]

theorem hasTeams_iff {g : Grid} : g.hasTeams = true ↔ g.started < g.teams ∧ g.status = .running := by
  unfold Grid.hasTeams
  rw [Bool.and_eq_true, decide_eq_true_eq]
  refine and_congr_right fun _ => ?_
  split
  · next h => exact ⟨fun _ => h, fun _ => rfl⟩
  · next h => exact ⟨fun hf => absurd hf Bool.false_ne_true, fun hf => absurd hf h⟩

theorem mem_allNodes {s : State} {owner : Nat} {n : Node} : (owner, n) ∈ allNodes s ↔ ∃ st ∈ s.streams.toList, st.owner.toNat = owner ∧ n ∈ st.nodes := by
  unfold allNodes
  rw [List.mem_flatMap]
  refine exists_congr fun st => and_congr_right fun _ => ?_
  rw [List.mem_map]
  constructor
  · rintro ⟨m, hm, h⟩
    cases h
    exact ⟨rfl, hm⟩
  · rintro ⟨rfl, hm⟩
    exact ⟨n, hm, rfl⟩

/-- R291: the core class of an owner. -/
theorem mem_coreClass {s : State} {owner : Nat} {e : Grid} : e ∈ coreClass s owner ↔
    (e ∈ s.grids ∧ e.owner = owner ∧ e.started < e.teams ∧ e.status = .running) ∨
    ∃ st ∈ s.streams.toList, st.owner.toNat = owner ∧ ∃ m ∈ st.nodes, recType m.words = 0 ∧ nodeReady s m = true ∧ e = gridOfNode s m := by
  unfold coreClass
  rw [List.mem_append, List.mem_filter, List.mem_map]
  refine or_congr ?_ ⟨?_, ?_⟩
  · rw [Bool.and_eq_true, beq_iff_eq, hasTeams_iff]
  · rintro ⟨⟨o, m⟩, hm, rfl⟩
    obtain ⟨hall, htest⟩ := List.mem_filter.mp hm
    simp only [Bool.and_eq_true, beq_iff_eq] at htest
    obtain ⟨⟨ho, ht⟩, hr⟩ := htest
    obtain ⟨st, hst, hown, hin⟩ := mem_allNodes.mp hall
    exact ⟨st, hst, hown.trans ho, m, hin, ht, hr, rfl⟩
  · rintro ⟨st, hst, hown, m, hin, ht, hr, rfl⟩
    refine ⟨(owner, m), List.mem_filter.mpr ⟨mem_allNodes.mpr ⟨st, hst, hown, hin⟩, ?_⟩, rfl⟩
    simp [ht, hr]

theorem couldStart_iff {s : State} {g : Grid} {core : Nat} : couldStart s g core = true ↔
    (∃ e, loadGrid s g = .error e) ∨ ∃ y, loadGrid s g = .ok y ∧ (startNext s y core).isSome = true := by
  unfold couldStart
  split
  · next e h => exact ⟨fun _ => .inl ⟨e, h⟩, fun _ => rfl⟩
  · next y h =>
    refine ⟨fun hs => .inr ⟨y, h, hs⟩, ?_⟩
    rintro (⟨e, he⟩ | ⟨z, hz, hs⟩)
    · cases h.symm.trans he
    · cases h.symm.trans hz
      exact hs

/-! ### The class of a kernel (R293) -/

theorem holdsClass_iff {s : State} {c : Bool} {qs : List Nat} : holdsClass s c qs = true ↔
    ∃ q ∈ qs, ∃ m ∈ s.teams, m.core = q ∧ isResident s m.owner = true ∧ ∃ k, s.gridOf m.handle = some k ∧ k.memBound = some c := by
  unfold holdsClass teamsOn
  simp only [List.any_eq_true, List.mem_filter, Bool.and_eq_true, beq_iff_eq]
  refine exists_congr fun q => and_congr_right fun _ => ?_
  constructor
  · rintro ⟨m, ⟨hm, hc, hr⟩, h⟩
    split at h
    · next k hk => exact ⟨m, hm, hc, hr, k, hk, beq_iff_eq.mp h⟩
    · exact absurd h Bool.false_ne_true
  · rintro ⟨m, hm, hc, hr, k, hk, hb⟩
    refine ⟨m, ⟨hm, hc, hr⟩, ?_⟩
    rw [hk]
    exact beq_iff_eq.mpr hb

/-- R293: a grid that had not rather start elsewhere: its cores hold the other class, or no core that does has room. -/
theorem prefersElsewhere_false {s : State} {y : Grid} {core : Nat}
    (h : ∀ c, y.memBound = some c → holdsClass s (!c) (startCores y core) = true ∨
      ∀ q ∈ partCores s (s.ctxOf y.owner).part, holdsClass s (!c) (startCores y q) = true → startNext s y q = none) :
    prefersElsewhere s y core = false := by
  unfold prefersElsewhere
  split
  · rfl
  · next c hc =>
    obtain hh | hh := h c hc
    · rw [hh]; rfl
    · have hany : ((partCores s (s.ctxOf y.owner).part).any fun k => holdsClass s (!c) (startCores y k) && (startNext s y k).isSome) = false := by
        refine List.any_eq_false.mpr fun q hq => ?_
        rw [Bool.and_eq_true]
        rintro ⟨hold, hsome⟩
        rw [hh q hq hold] at hsome
        exact absurd hsome Bool.false_ne_true
      rw [hany, Bool.and_false]

/-! ### The turn of a grid -/

/-- R287: what the start of a grid's teams leaves: the grid itself goes on, or its KERNEL node runs it. -/
def teamStarted (s : State) (fromNode : Bool) : Option (State × Grid) → State
  | none => s
  | some (t, g) => if fromNode then
      State.mapNode { t with grids := t.grids ++ [g], draw := t.draw + 1 } g.node fun n => { n with status := .running, grid := some g.handle }
    else t.mapGrid g.handle fun _ => g

section
variable {s u : State} {g y x : Grid} {core : Nat} {fromNode : Bool}
  (hturn : ∀ e ∈ coreClass s g.owner, (e.pri < g.pri ∨ (e.pri = g.pri ∧ e.stamp < g.stamp)) → ∀ q ∈ startCores g core, ¬couldStart s e q = true)
  (hload : loadGrid s g = .ok y) (helse : prefersElsewhere s y core = false)
include hturn hload helse

/-- R291: what starts when a grid's turn has come on a core. -/
theorem startTeam_turn : startTeam s g fromNode core = teamStarted s fromNode (startNext s y core) := by
  have hno : ((coreClass s g.owner).any fun e => poolBefore (e.pri, e.stamp) (g.pri, g.stamp) && (startCores g core).any (couldStart s e)) = false := by
    refine List.any_eq_false.mpr fun e he => ?_
    rw [Bool.and_eq_true, poolBefore_iff, List.any_eq_true]
    rintro ⟨hb, q, hq, hc⟩
    exact hturn e he hb q hq hc
  unfold startTeam
  rw [hno, if_neg Bool.false_ne_true, hload]
  dsimp -zeta only
  rw [helse, if_neg Bool.false_ne_true]
  rfl

theorem startTeam_grid (hs : startNext s y core = some (u, x)) : startTeam s g false core = u.mapGrid x.handle fun _ => x := by
  rw [startTeam_turn hturn hload helse, hs]
  rfl

theorem startTeam_node (hs : startNext s y core = some (u, x)) : startTeam s g true core =
    State.mapNode { u with grids := u.grids ++ [x], draw := u.draw + 1 } x.node fun n => { n with status := .running, grid := some x.handle } := by
  rw [startTeam_turn hturn hload helse, hs]
  rfl

end

/-! ### What a handle starts on a core -/

/-- Whether a grid's owner has the core, and the grid could start there. -/
def canStart (s : State) (core : Nat) (g : Grid) : Bool :=
  isResident s g.owner && (partCores s (s.ctxOf g.owner).part).contains core && couldStart s g core

theorem canStart_iff {s : State} {core : Nat} {g : Grid} : canStart s core g = true ↔
    (isResident s g.owner = true ∧ core < 576 ∧ core / 144 * s.parts / 4 = (s.ctxOf g.owner).part) ∧ couldStart s g core = true := by
  unfold canStart
  rw [Bool.and_eq_true, Bool.and_eq_true, List.contains_iff_mem, mem_partCores]
  exact Iff.rfl

/-- The grid of a handle with a team to start there. -/
def gridEntries (s : State) (h : W32) (core : Nat) : List (Grid × Bool) :=
  ((s.grids.find? fun g => g.handle == h && g.hasTeams).toList.map fun g => (g, false)).filter fun x => canStart s core x.1

/-- The ready KERNEL node of a handle that could start there. -/
def nodeEntries (s : State) (h : W32) (core : Nat) : List (Grid × Bool) :=
  (((s.nodeOf h).toList.filter fun n => recType n.words == 0 && nodeReady s n).map fun n => (gridOfNode s n, true)).filter fun x => canStart s core x.1

section
variable {s : State} {h : W32} {core : Nat} {g : Grid} {n : Node}

theorem gridEntries_can (hg : s.grids.find? (fun g => g.handle == h && g.hasTeams) = some g) (hc : canStart s core g = true) :
    gridEntries s h core = [(g, false)] := by
  simp [gridEntries, hg, hc]

theorem gridEntries_none (hn : ∀ q, s.grids.find? (fun g => g.handle == h && g.hasTeams) = some q → canStart s core q = false) : gridEntries s h core = [] := by
  unfold gridEntries
  cases hf : s.grids.find? (fun g => g.handle == h && g.hasTeams) with
  | none => rfl
  | some q => simp [hn q hf]

theorem gridEntries_cases : gridEntries s h core = [] ∨
    ∃ q, s.grids.find? (fun g => g.handle == h && g.hasTeams) = some q ∧ canStart s core q = true ∧ gridEntries s h core = [(q, false)] := by
  cases hf : s.grids.find? (fun g => g.handle == h && g.hasTeams) with
  | none => exact .inl (gridEntries_none fun q hq => by cases hf.symm.trans hq)
  | some q =>
    cases hc : canStart s core q with
    | true => exact .inr ⟨q, rfl, hc, gridEntries_can hf hc⟩
    | false => exact .inl (gridEntries_none fun r hr => by cases hf.symm.trans hr; exact hc)

theorem nodeEntries_can (hn : s.nodeOf h = some n) (ht : recType n.words = 0) (hr : nodeReady s n = true) (hc : canStart s core (gridOfNode s n) = true) :
    nodeEntries s h core = [(gridOfNode s n, true)] := by
  simp [nodeEntries, hn, ht, hr, hc]

theorem nodeEntries_none (hn : ∀ m, s.nodeOf h = some m → recType m.words = 0 → nodeReady s m = true → canStart s core (gridOfNode s m) = false) :
    nodeEntries s h core = [] := by
  unfold nodeEntries
  cases hf : s.nodeOf h with
  | none => rfl
  | some m =>
    by_cases hm : recType m.words = 0 ∧ nodeReady s m = true
    · simp [hn m hf hm.1 hm.2]
    · have htest : (recType m.words == 0 && nodeReady s m) = false := by simpa using hm
      simp [htest]

theorem nodeEntries_cases : nodeEntries s h core = [] ∨
    ∃ m, s.nodeOf h = some m ∧ recType m.words = 0 ∧ nodeReady s m = true ∧ canStart s core (gridOfNode s m) = true ∧
      nodeEntries s h core = [(gridOfNode s m, true)] := by
  by_cases hm : ∃ m, s.nodeOf h = some m ∧ recType m.words = 0 ∧ nodeReady s m = true ∧ canStart s core (gridOfNode s m) = true
  · obtain ⟨m, hn, ht, hr, hc⟩ := hm
    exact .inr ⟨m, hn, ht, hr, hc, nodeEntries_can hn ht hr hc⟩
  · exact .inl (nodeEntries_none fun m hn ht hr => Bool.eq_false_iff.mpr fun hc => hm ⟨m, hn, ht, hr, hc⟩)

/-- R291: of what a handle names, the earlier in the pool starts. -/
theorem exec_teamStart : exec (.teamStart h core) s = .next (match gridEntries s h core ++ nodeEntries s h core with
    | [] => s
    | x :: xs =>
      let b := xs.foldl (fun a e => if poolBefore (e.1.pri, e.1.stamp) (a.1.pri, a.1.stamp) then e else a) x
      startTeam s b.1 b.2 core) := by
  unfold gridEntries nodeEntries
  rw [← List.filter_append]
  rfl

theorem teamStart_none (hg : gridEntries s h core = []) (hn : nodeEntries s h core = []) : exec (.teamStart h core) s = .next s := by
  rw [exec_teamStart, hg, hn]
  rfl

theorem teamStart_grid (hg : gridEntries s h core = [(g, false)])
    (hn : ∀ m, s.nodeOf h = some m → recType m.words = 0 → nodeReady s m = true → canStart s core (gridOfNode s m) = true →
      ¬poolBefore ((gridOfNode s m).pri, (gridOfNode s m).stamp) (g.pri, g.stamp) = true) :
    exec (.teamStart h core) s = .next (startTeam s g false core) := by
  rw [exec_teamStart, hg]
  obtain he | ⟨m, hm, ht, hr, hc, he⟩ := nodeEntries_cases (s := s) (h := h) (core := core)
  · rw [he]
    rfl
  · rw [he]
    dsimp only [List.cons_append, List.nil_append, List.foldl_cons, List.foldl_nil]
    rw [if_neg (hn m hm ht hr hc)]

theorem teamStart_node (hn : nodeEntries s h core = [(g, true)])
    (hg : ∀ q, s.grids.find? (fun g => g.handle == h && g.hasTeams) = some q → canStart s core q = true → poolBefore (g.pri, g.stamp) (q.pri, q.stamp) = true) :
    exec (.teamStart h core) s = .next (startTeam s g true core) := by
  rw [exec_teamStart, hn]
  obtain he | ⟨q, hq, hc, he⟩ := gridEntries_cases (s := s) (h := h) (core := core)
  · rw [he]
    rfl
  · rw [he]
    dsimp only [List.cons_append, List.nil_append, List.foldl_cons, List.foldl_nil]
    rw [if_pos (hg q hq hc)]

end

end Sys2Proof.Machine
end

section
/-! O55, continued: the resources and the first state of a team (R22 to R25, R48, R287). -/

namespace Sys2Proof.Machine

/-! ### Starting one team, or four -/

/-- A team added to the teams, under its number. -/
def putTeam (s : State) (g : Grid) (core : Nat) (t : Team) : State :=
  { s with teams := s.teams ++ [t], ids := s.ids + 1 + (g.pods + 15) / 16, draw := s.draw + 1, used := if core ∈ s.used then s.used else core :: s.used }

/-- A grid with k more teams started. -/
def moreTeams (g : Grid) (k : Nat) : Grid := { g with started := g.started + k }

theorem addOnce_eq (l : List Nat) (k : Nat) : addOnce l k = if k ∈ l then l else k :: l := by
  simp [addOnce]

section
variable {s : State} {g : Grid} {core : Nat} {t t1 t2 t3 t4 : Team}

theorem startOne_some (h : placeTeam s g g.started core = some t) : startOne s g core = some (putTeam s g core t, moreTeams g 1) := by
  unfold startOne putTeam
  rw [h]
  dsimp -zeta only
  rw [addOnce_eq]
  rfl

theorem startOne_none (h : placeTeam s g g.started core = none) : startOne s g core = none := by
  unfold startOne
  rw [h]

theorem startNext_one (hc : g.cluster = false) : startNext s g core = startOne s g core := by
  unfold startNext
  rw [hc, if_neg Bool.false_ne_true]

theorem startFour_succ {u : State} {x : Grid} {k : Nat} (h : startOne s g core = some (u, x)) : startFour s g core (k + 1) = startFour u x (core + 1) k := by
  conv_lhs => unfold startFour
  rw [h]

/-- R24: the four teams of a cluster, one after another. -/
theorem startNext_four (hc : g.cluster = true)
    (h1 : placeTeam s g g.started (core - core % 4) = some t1)
    (h2 : placeTeam (putTeam s g (core - core % 4) t1) (moreTeams g 1) (g.started + 1) (core - core % 4 + 1) = some t2)
    (h3 : placeTeam (putTeam (putTeam s g (core - core % 4) t1) g (core - core % 4 + 1) t2) (moreTeams g 2) (g.started + 2) (core - core % 4 + 2) = some t3)
    (h4 : placeTeam (putTeam (putTeam (putTeam s g (core - core % 4) t1) g (core - core % 4 + 1) t2) g (core - core % 4 + 2) t3) (moreTeams g 3) (g.started + 3)
      (core - core % 4 + 3) = some t4) :
    startNext s g core = some (putTeam (putTeam (putTeam (putTeam s g (core - core % 4) t1) g (core - core % 4 + 1) t2) g (core - core % 4 + 2) t3) g
      (core - core % 4 + 3) t4, moreTeams g 4) := by
  unfold startNext
  rw [hc, if_pos rfl]
  exact (startFour_succ (startOne_some h1)).trans ((startFour_succ (startOne_some (g := moreTeams g 1) h2)).trans
    ((startFour_succ (startOne_some (g := moreTeams g 2) h3)).trans (startFour_succ (startOne_some (g := moreTeams g 3) h4))))

end

/-! ### Room on a core (R22, R23, R77) -/

theorem freeBase_spec {used : List (Nat × Nat)} {size step limit b : Nat} (h : freeBase used size step limit = some b) :
    b + size ≤ limit ∧ ∀ u ∈ used, b + size ≤ u.1 ∨ u.1 + u.2 ≤ b := by
  have ht := List.find?_some h
  rw [Bool.and_eq_true, decide_eq_true_eq, List.all_eq_true] at ht
  refine ⟨ht.1, fun u hu => ?_⟩
  have hm := ht.2 u hu
  simp only [rangesMeet, Bool.not_eq_true', Bool.and_eq_false_iff, decide_eq_false_iff_not] at hm
  omega

/-- A pod as placed: on a partition, with a window base. -/
def Pod.placedAt (p : Pod) (q : Nat) (base : BitVec 9) : Pod := { p with part := q, wb := base }

theorem placeBunch_spec {ps l : List Pod} {make : Nat → Pod} {b n w : Nat} : ∀ {qs : List Nat}, placeBunch ps make b n w qs = some l →
    l.length = n ∧ ∀ p ∈ l, ∃ j < n, ∃ q base, p = (make (16 * b + j)).placedAt q base := by
  intro qs
  induction qs with
  | nil => exact nofun
  | cons q r ih =>
    intro h
    unfold placeBunch at h
    split at h
    · cases h
      refine ⟨by simp, fun p hp => ?_⟩
      obtain ⟨j, hj, rfl⟩ := List.mem_map.mp hp
      exact ⟨j, List.mem_range.mp hj, _, _, rfl⟩
    · exact ih h

/-- R23: the pods of a team's home bunches: as many as asked for, each made for its index. -/
theorem placeBunches_spec {s : State} {make : Nat → Pod} {w k : Nat} : ∀ {b left : Nat} {ps new l : List Pod}, left ≤ 16 * k →
    placeBunches s make w k b left ps new = some l →
    l.length = new.length + left ∧ ∀ p ∈ l, p ∈ new ∨ ∃ i, 16 * b ≤ i ∧ i < 16 * b + left ∧ ∃ q base, p = (make i).placedAt q base := by
  induction k with
  | zero =>
    intro b left ps new l hl h
    cases h
    exact ⟨by omega, fun p hp => .inl hp⟩
  | succ k ih =>
    intro b left ps new l hl h
    unfold placeBunches at h
    dsimp only at h
    split at h
    · exact absurd h nofun
    · next placed hp =>
      obtain ⟨hlen, hmade⟩ := placeBunch_spec hp
      obtain ⟨hlen', hin⟩ := ih (by omega) h
      refine ⟨by rw [hlen', List.length_append, hlen]; omega, fun p hp => ?_⟩
      obtain hnew | ⟨i, hi, hi', hp⟩ := hin p hp
      · obtain hnew | hplaced := List.mem_append.mp hnew
        · exact .inl hnew
        · obtain ⟨j, hj, q, base, rfl⟩ := hmade p hplaced
          exact .inr ⟨16 * b + j, by omega, by omega, q, base, rfl⟩
      · exact .inr ⟨i, by omega, by omega, hp⟩

/-! ### The first state of a team (R25, R48) -/

section
variable {s : State} {g : Grid} {core n i : Nat}

/-- The launch scalars of a new pod. -/
theorem launchScalars_get {l : List W32} {k : Nat} (hk : k < 32) :
    (Vector.ofFn fun k : Fin 32 => if k.val < 16 then wordAt l k.val else 0#32).getD k 0#32 = if k < 16 then l.getD k 0#32 else 0#32 := by
  simp [Vector.getD, hk, wordAt]

theorem newPod_zeros (h : core ∉ s.used) :
    (∀ r < 128, ∀ l < 4, (newPod s g core n i).lane r l = 0#32) ∧ ∀ k < 7, (newPod s g core n i).pred k = 0#4 := by
  constructor
  · intro r hr l hl
    simp [Pod.lane, Pod.reg, newPod, Vector.getD, hr, hl, h]
  · intro k hk
    simp [Pod.pred, newPod, Vector.getD, hk, h]

theorem newPod_sp : (newPod s g core n i).sp = BitVec.ofNat 64 (g.stackBase.toNat + (n * g.pods + i + 1) * g.stackSize.toNat) := by
  have hsum : (n * g.pods + i + 1) * g.stackSize.toNat = (n * g.pods + i) * g.stackSize.toNat + g.stackSize.toNat := Nat.succ_mul _ _
  rw [hsum, ← Nat.add_assoc]
  rfl

/-- The team that a core has room for. -/
def placedTeam (s : State) (g : Grid) (n core base : Nat) (pods : List Pod) : Team :=
  { Team.reset with
    id := s.ids, owner := g.owner, handle := g.handle, number := n, core := core, size := g.pods, mode := g.mode, tileBase := base,
    tileSize := 4096 * g.tile, pods := pods,
    sprout := if g.sprout != 0#64 && (teamsOn s core).all (·.sprout.isNone) then some (newSprout g) else none }

/-- R22: a team that starts has found a tile store and register windows. -/
theorem placeTeam_some {t : Team} (h : placeTeam s g n core = some t) : ∃ base pods, t = placedTeam s g n core base pods ∧
    freeBase ((teamsOn s core).map fun t => (t.tileBase, t.tileSize)) (4096 * g.tile) 4096 0x180000 = some base ∧
    placeBunches s (newPod s g core n) (16 * g.ws.toNat) ((g.pods + 15) / 16) 0 g.pods ((teamsOn s core).flatMap (·.pods)) [] = some pods := by
  unfold placeTeam at h
  dsimp only at h
  split at h
  · next base pods hb hp =>
    cases h
    exact ⟨base, pods, rfl, hb, hp⟩
  · exact absurd h nofun

theorem mem_teamsOn {m : Team} : m ∈ teamsOn s core ↔ m ∈ s.teams ∧ m.core = core ∧ isResident s m.owner = true := by
  simp [teamsOn]

theorem placedTeam_sprout {base : Nat} {pods : List Pod} (hg : g.sprout ≠ 0#64)
    (hm : ∀ m ∈ s.teams, m.core = core → isResident s m.owner = true → m.sprout = none) :
    (placedTeam s g n core base pods).sprout = some (newSprout g) := by
  refine if_pos ?_
  rw [Bool.and_eq_true, bne_iff_ne, List.all_eq_true]
  refine ⟨hg, fun m hin => ?_⟩
  obtain ⟨h1, h2, h3⟩ := mem_teamsOn.mp hin
  rw [hm m h1 h2 h3]
  rfl

theorem placedTeam_noSprout {base : Nat} {pods : List Pod}
    (h : g.sprout = 0#64 ∨ ∃ m ∈ s.teams, m.core = core ∧ isResident s m.owner = true ∧ m.sprout ≠ none) :
    (placedTeam s g n core base pods).sprout = none := by
  refine if_neg ?_
  rw [Bool.and_eq_true, bne_iff_ne, List.all_eq_true]
  rintro ⟨hg, hall⟩
  obtain h | ⟨m, h1, h2, h3, h4⟩ := h
  · exact hg h
  · exact h4 (Option.isNone_iff_eq_none.mp (hall m (mem_teamsOn.mpr ⟨h1, h2, h3⟩)))

/-- R25, R287: a pod at the start of its team. -/
def StartsAs (s : State) (g : Grid) (core : Nat) (p : Pod) : Prop :=
  p.index < g.pods ∧ p.pc = g.entry ∧ p.slot = 0#2 ∧ p.pw = 0xF#32 ∧ p.md = 0#3 ∧ p.cd = 0#8 ∧ p.shape = 0#7 ∧ p.srsel = 0#16 ∧ p.ws = g.ws ∧ p.phase = .ready ∧
  p.sp = BitVec.ofNat 64 (g.stackBase.toNat + (g.started * g.pods + p.index + 1) * g.stackSize.toNat) ∧
  (∀ k < 32, p.scalar k = if k < 16 then g.scalars.getD k 0#32 else 0#32) ∧
  (core ∉ s.used → (∀ r < 128, ∀ l < 4, p.lane r l = 0#32) ∧ ∀ k < 7, p.pred k = 0#4)

theorem newPod_startsAs {q : Nat} {base : BitVec 9} (hi : i < g.pods) : StartsAs s g core ((newPod s g core g.started i).placedAt q base) :=
  ⟨hi, rfl, rfl, rfl, rfl, rfl, rfl, rfl, rfl, rfl, newPod_sp (s := s) (core := core),
    fun _ hk => launchScalars_get hk, newPod_zeros (g := g) (n := g.started) (i := i)⟩

/-- R22, R77: where a team's tile store lies, and what its pods are. -/
theorem placeTeam_spec {t : Team} (h : placeTeam s g g.started core = some t) : t.tileBase + t.tileSize ≤ 0x180000 ∧ t.pods.length = g.pods ∧
    (∀ m ∈ s.teams, m.core = core → isResident s m.owner = true → t.tileBase + t.tileSize ≤ m.tileBase ∨ m.tileBase + m.tileSize ≤ t.tileBase) ∧
    ∀ p ∈ t.pods, StartsAs s g core p := by
  obtain ⟨base, pods, rfl, hb, hp⟩ := placeTeam_some h
  obtain ⟨hlimit, hfree⟩ := freeBase_spec hb
  obtain ⟨hlen, hmade⟩ := placeBunches_spec (by omega) hp
  refine ⟨hlimit, hlen.trans (Nat.zero_add _), fun m hm hc hr => ?_, fun p hp => ?_⟩
  · exact hfree (m.tileBase, m.tileSize) (List.mem_map_of_mem (mem_teamsOn.mpr ⟨hm, hc, hr⟩))
  · obtain hnil | ⟨i, _, hi, q, b, rfl⟩ := hmade p hp
    · exact absurd hnil List.not_mem_nil
    · exact newPod_startsAs (by omega)

end

/-! ### Ending a team (R25, R44, R49, R334) -/

/-- R44: the state without a team that has ended, its windows left in the register files. -/
def withoutTeam (team : Nat) (t : Team) (v : State) : State :=
  { v with teams := v.teams.filter (·.id != team), mem := t.pods.foldl (leaveWindow t.core) v.mem }.mapGrid t.handle fun g =>
    { g.classify t.number with endedTeams := g.endedTeams + 1 }

/-- R275: the handles of child grids that a team held, given up. -/
def handlesFreed (team : Nat) (m : State) : State :=
  { m with grids := (m.grids.filter fun g => !(g.leader == some team && (match g.status with | .retired _ _ _ => true | _ => false))).map fun g =>
      if g.leader == some team then { g with leader := none } else g }

theorem teamOver_of {s : State} {t : Team} {team : Nat} (hid : t.id = team) (hp : ∀ p ∈ t.pods, p.phase = .ended) (hm : ∀ m ∈ s.mats, m.team ≠ team)
    (hc : ∀ c ∈ t.chans.toList, c.current = none ∧ c.queue = []) (he : ∀ e ∈ (s.ctxOf t.owner).entries, e.team ≠ team)
    (hs : ∀ e ∈ (s.ctxOf t.owner).image.spill, e.2.team ≠ team) : teamOver s t = true := by
  subst hid
  unfold teamOver
  simp only [Bool.and_eq_true, Bool.not_eq_true', List.all_eq_true, List.any_eq_false, beq_iff_eq, Option.isNone_iff_eq_none, List.isEmpty_iff]
  exact ⟨⟨⟨⟨hp, hm⟩, hc⟩, he⟩, hs⟩

theorem teamEnd_over {s : State} {t : Team} {team : Nat} (ht : s.teams.find? (·.id == team) = some t) (ho : teamOver s t = true) :
    exec (.teamEnd team) s = .next (handlesFreed team (withoutTeam team t
      (if t.sprout = none then failWriters s team else countCore (failWriters s team) t.owner t.core 0x0C 1))) := by
  have hsprout : (if t.sprout.isSome then countCore (failWriters s team) t.owner t.core 0x0C 1 else failWriters s team) =
      if t.sprout = none then failWriters s team else countCore (failWriters s team) t.owner t.core 0x0C 1 := by
    cases t.sprout <;> rfl
  rw [← hsprout]
  show execTeamEnd team s = _
  unfold execTeamEnd
  rw [ht]
  dsimp -zeta only
  rw [ho, if_neg (by decide)]
  rfl

theorem failWriters_none {s : State} {team : Nat} (h : ∀ y, some y ∈ s.xforms.toList ∨ y ∈ s.parked → y.team ≠ some team) : failWriters s team = s := by
  have hnil : (s.xforms.toList.filterMap id ++ s.parked).filter (·.team == some team) = [] := by
    rw [List.filter_eq_nil_iff]
    intro y hy
    rw [beq_iff_eq]
    obtain hy | hy := List.mem_append.mp hy
    · obtain ⟨z, hz, rfl⟩ := List.mem_filterMap.mp hy
      exact h y (.inl (by simpa using hz))
    · exact h y (.inr hy)
  unfold failWriters
  rw [hnil]
  rfl

theorem failWriters_one {s : State} {team : Nat} {y : Xform} {z : Node} (h : (s.xforms.toList.filterMap id ++ s.parked).filter (·.team == some team) = [y])
    (hz : s.nodeOf y.node = some z) : failWriters s team = stopXform s y z.words { code := .regionBounds } := by
  unfold failWriters
  rw [h]
  dsimp only [List.foldl_cons, List.foldl_nil]
  rw [hz]
  rfl

/-! ### What a window leaves in the register files (R9, R25) -/

/-- The place of a lane of register r of a pod's window. -/
def windowLane (core : Nat) (q : Pod) (r l : Nat) : Nat := 2 ^ 50 + core * 0x100000 + 0x20000 * q.part + 16 * (16 * (q.wb.toNat + r) + q.index % 16) + 4 * l

/-- The bytes of a register of a pod's window. -/
def windowBytes (q : Pod) (r : Nat) : List Byte := wordsBytes ([0, 1, 2, 3].map (q.lane r))

/-- The first n registers of a pod's window left in memory. -/
def leaveRegs (core : Nat) (q : Pod) (m : List Host.Cell) (n : Nat) : List Host.Cell :=
  (List.range n).foldl (fun m r => memPut m (windowLane core q r 0) (windowBytes q r)) m

section
variable {core : Nat} {q : Pod} {m : List Host.Cell}

theorem leaveWindow_eq : leaveWindow core m q = leaveRegs core q m (16 * q.ws.toNat) := by
  unfold leaveWindow leaveRegs windowLane fileAt fileOffset windowBytes
  simp only [Nat.add_assoc]

theorem leaveRegs_succ {n : Nat} : leaveRegs core q m (n + 1) = memPut (leaveRegs core q m n) (windowLane core q n 0) (windowBytes q n) := by
  simp [leaveRegs, List.range_succ]

theorem windowBytes_length {r : Nat} : (windowBytes q r).length = 16 := rfl

theorem leaveRegs_wf (h : Memory.wf m = true) : ∀ {n : Nat}, Memory.wf (leaveRegs core q m n) = true
  | 0 => h
  | n + 1 => by
    rw [leaveRegs_succ]
    exact memPut_wf (leaveRegs_wf h)

theorem memBytes_windowBytes (h : Memory.wf m = true) {r l a : Nat} (hl : l < 4) :
    memBytes (memPut m a (windowBytes q r)) (a + 4 * l) 4 = natBytes 4 (q.lane r l).toNat := by
  have hread : ∀ i < 16, memRead (memPut m a (windowBytes q r)) (a + i) = (windowBytes q r).getD i 0#8 := fun i hi => memRead_memPut_inside h hi
  simp only [memBytes, Nat.add_assoc]
  rw [hread _ (by omega), hread _ (by omega), hread _ (by omega), hread _ (by omega)]
  obtain rfl | rfl | rfl | rfl : l = 0 ∨ l = 1 ∨ l = 2 ∨ l = 3 := by omega
  all_goals rfl

theorem leaveRegs_inside (h : Memory.wf m = true) {r l : Nat} (hl : l < 4) : ∀ {n : Nat}, r < n →
    memBytes (leaveRegs core q m n) (windowLane core q r l) 4 = natBytes 4 (q.lane r l).toNat := by
  intro n
  induction n with
  | zero => exact fun hr => absurd hr (Nat.not_lt_zero r)
  | succ n ih =>
    intro hr
    rw [leaveRegs_succ]
    by_cases hlast : r = n
    · subst hlast
      exact memBytes_windowBytes (a := windowLane core q r 0) (leaveRegs_wf h) hl
    · rw [memBytes_memPut_outside (leaveRegs_wf h)]
      · exact ih (by omega)
      · rw [windowBytes_length]
        unfold windowLane
        omega

theorem leaveRegs_outside (h : Memory.wf m = true) {a : Nat} : ∀ {n : Nat},
    (∀ r < n, ∀ l < 4, a < windowLane core q r l ∨ windowLane core q r l + 4 ≤ a) → memRead (leaveRegs core q m n) a = memRead m a := by
  intro n
  induction n with
  | zero => exact fun _ => rfl
  | succ n ih =>
    intro hout
    rw [leaveRegs_succ, memRead_memPut_outside (leaveRegs_wf h)]
    · exact ih fun r hr => hout r (by omega)
    · have h0 := hout n (by omega) 0 (by omega)
      have h1 := hout n (by omega) 1 (by omega)
      have h2 := hout n (by omega) 2 (by omega)
      have h3 := hout n (by omega) 3 (by omega)
      rw [windowBytes_length]
      unfold windowLane at *
      omega

end

/-! ### Retiring a grid (R47, R276, R292) -/

section
variable {s : State} {h : W32} {g : Grid}

/-- Whether a grid has retired. -/
def stillThere (k : Grid) : Bool := match k.status with | .retired _ _ _ => false | _ => true

theorem stillThere_iff {k : Grid} : stillThere k = true ↔ ¬∃ a b c, k.status = .retired a b c := by
  unfold stillThere
  split
  · next a b c h => exact ⟨fun hf => absurd hf Bool.false_ne_true, fun hn => absurd ⟨a, b, c, h⟩ hn⟩
  · next h => exact ⟨fun _ ⟨a, b, c, hk⟩ => h a b c hk, fun _ => rfl⟩

/-- Whether the teams of a grid have ended: all of them, or all started ones once it is ending. -/
def teamsEnded (g : Grid) : Bool :=
  match g.status with
  | .running => g.endedTeams == g.teams
  | .ending _ _ => g.endedTeams == g.started
  | .retired _ _ _ => false

theorem gridOver_eq : gridOver s g = (!(s.grids.any fun k => k.parent == some g.handle && stillThere k) && teamsEnded g) := rfl

/-- R47: a grid whose children have retired retires with its last team. -/
theorem gridOver_of (hg : g.handle = h) (hk : ∀ k ∈ s.grids, k.parent = some h → ∃ a b c, k.status = .retired a b c) (he : teamsEnded g = true) :
    gridOver s g = true := by
  subst hg
  have hno : (s.grids.any fun k => k.parent == some g.handle && stillThere k) = false := by
    refine List.any_eq_false.mpr fun k hin => ?_
    rw [Bool.and_eq_true, beq_iff_eq]
    exact fun ⟨hp, hs⟩ => stillThere_iff.mp hs (hk k hin hp)
  rw [gridOver_eq, hno, he]
  rfl

theorem teamsEnded_running (hs : g.status = .running) (he : g.endedTeams = g.teams) : teamsEnded g = true := by
  unfold teamsEnded
  rw [hs]
  exact beq_iff_eq.mpr he

theorem teamsEnded_ending {code : Nat} {st : W32} (hs : g.status = .ending code st) (he : g.endedTeams = g.started) : teamsEnded g = true := by
  unfold teamsEnded
  rw [hs]
  exact beq_iff_eq.mpr he

/-- R47: the CODE, FAIL and status of a grid that retires. -/
def retiresWith (g : Grid) : Nat × Bool × W32 := match g.status with | .ending code st => (code, true, st) | _ => (0, false, 0#32)

theorem retiresWith_running (hs : g.status = .running) : retiresWith g = (0, false, 0#32) := by
  unfold retiresWith
  rw [hs]

theorem retiresWith_ending {code : Nat} {st : W32} (hs : g.status = .ending code st) : retiresWith g = (code, true, st) := by
  unfold retiresWith
  rw [hs]

theorem gridRetirement_child (hg : s.gridOf h = some g) (ho : gridOver s g = true) (hp : g.parent ≠ none) (hl : g.leader ≠ none) :
    exec (.gridRetirement h) s =
      .next (s.mapGrid h fun g' => { g' with status := .retired (retiresWith g).1 (retiresWith g).2.1 (retiresWith g).2.2 }) := by
  show execGridRetirement h s = _
  unfold execGridRetirement
  rw [hg]
  dsimp -zeta only
  rw [ho, if_neg (by decide), if_pos (Option.isSome_iff_ne_none.mpr hp), if_pos (Option.isSome_iff_ne_none.mpr hl)]
  rfl

theorem gridRetirement_kernel {n : Node} (hg : s.gridOf h = some g) (ho : gridOver s g = true) (hp : g.parent = none) (hn : s.nodeOf g.node = some n)
    (ht : recType n.words = 0) :
    exec (.gridRetirement h) s = .next (State.finishNode { s with grids := s.grids.filter (·.handle != h) } g.node (retiresWith g).2.2) := by
  show execGridRetirement h s = _
  unfold execGridRetirement
  rw [hg]
  dsimp -zeta only
  rw [ho, if_neg (by decide), hp, if_neg (by decide), hn]
  dsimp -zeta only
  rw [ht, if_neg (by decide)]
  rfl

end

theorem gridOfNode_owner {s : State} {h : W32} {n : Node} (hn : s.nodeOf h = some n) : (gridOfNode s n).owner = nodeOwner s h := by
  have hh : n.handle = h := by simpa using List.find?_some hn
  rw [← hh]
  rfl

/-- Settles O55, event by event. -/
theorem gridEvents : Obligations.GridEvents := by
  intro h core team s u g x n t free cores starts waiting turn holds before can kernel grid content put more gone freed kids keeps drop
  have hturn : ∀ {g}, turn g → ∀ e ∈ coreClass s g.owner, (e.pri < g.pri ∨ (e.pri = g.pri ∧ e.stamp < g.stamp)) →
      ∀ q ∈ startCores g core, ¬couldStart s e q = true :=
    fun ht e he hb q hq hc => ht e (mem_coreClass.mp he) hb q hq (couldStart_iff.mp hc)
  have hcan : ∀ {e}, canStart s core e = true ↔ can e := canStart_iff.trans (and_congr_right fun _ => couldStart_iff)
  have helse : ∀ {y}, content y → prefersElsewhere s y core = false := fun hc => prefersElsewhere_false fun c hcy =>
    (hc c hcy).imp holdsClass_iff.mpr fun hq q hin hh => hq q (mem_partCores.mp hin).1 (mem_partCores.mp hin).2 (holdsClass_iff.mp hh)
  have hstarts : ∀ {g y u x}, loadGrid s g = .ok y → startNext s y core = some (u, x) → couldStart s g core = true := fun hl hs =>
    couldStart_iff.mpr (.inr ⟨_, hl, by rw [hs]; rfl⟩)
  have hstays : ∀ {g y}, loadGrid s g = .ok y → startNext s y core = none → canStart s core g = false := fun hl hs =>
    Bool.eq_false_iff.mpr fun hc => by
      obtain ⟨e, he⟩ | ⟨z, hz, hsome⟩ := couldStart_iff.mp (canStart_iff.mp hc).2
      · cases hl.symm.trans he
      · cases hl.symm.trans hz
        rw [hs] at hsome
        exact absurd hsome Bool.false_ne_true
  refine ⟨fun y hg hf ht hl hc => ⟨fun hs hk => ?_, fun hs hk => ?_⟩, fun y hn hty hr hf he ht hl hc => ⟨fun hs hk => ?_, fun hs hk => ?_⟩,
    fun hc => ⟨fun h => (startNext_one hc).trans (startOne_some h), fun h => (startNext_one hc).trans (startOne_none h)⟩,
    fun _ _ _ _ hc => startNext_four hc, fun hp => ?_, fun ht hp hm hch he hsp => ?_, fun q hm => ?_,
    failWriters_none, fun y z => failWriters_one, fun hg hh hk => ⟨fun hp hl hs he => ?_, fun code st hp hl hs he => ?_, fun hp hn hty => ⟨fun hs he => ?_, fun code st hs he => ?_⟩⟩⟩
  · have hgrid : canStart s core g = true := canStart_iff.mpr ⟨hf, hstarts hl hs⟩
    refine (teamStart_grid (gridEntries_can hg hgrid) fun m hn hty hr hc' hb => hk m hn hty hr ⟨poolBefore_iff.mp hb, hcan.mp hc'⟩).trans ?_
    exact congrArg _ (startTeam_grid (hturn ht) hl (helse hc) hs)
  · exact teamStart_none (gridEntries_none fun q hq => by cases hg.symm.trans hq; exact hstays hl hs)
      (nodeEntries_none fun m hn hty hr => Bool.eq_false_iff.mpr fun hc' => hk m hn hty hr (hcan.mp hc'))
  · subst he
    have hown : (gridOfNode s n).owner = nodeOwner s h := gridOfNode_owner hn
    have hnode : canStart s core (gridOfNode s n) = true := canStart_iff.mpr ⟨by rw [hown]; exact hf, hstarts hl hs⟩
    refine (teamStart_node (nodeEntries_can hn hty hr hnode) fun q hq hc' => poolBefore_iff.mpr (hk q hq (hcan.mp hc'))).trans ?_
    exact congrArg _ (startTeam_node (hturn ht) hl (helse hc) hs)
  · subst he
    exact teamStart_none (gridEntries_none fun q hq => Bool.eq_false_iff.mpr fun hc' => hk q hq (hcan.mp hc'))
      (nodeEntries_none fun m hm _ _ => by cases hn.symm.trans hm; exact hstays hl hs)
  · obtain ⟨base, pods, rfl, hb, hpods⟩ := placeTeam_some hp
    obtain ⟨hlimit, hlen, hapart, hstart⟩ := placeTeam_spec hp
    refine ⟨rfl, rfl, rfl, rfl, rfl, rfl, rfl, hlimit, hlen, rfl, rfl, rfl, rfl, hapart, fun hg hm => ?_, placedTeam_noSprout, hstart⟩
    exact ⟨newSprout g, placedTeam_sprout hg hm, rfl, rfl, rfl, rfl, rfl, fun _ hk => launchScalars_get hk⟩
  · have hid : t.id = team := by simpa using List.find?_some ht
    exact teamEnd_over ht (teamOver_of hid hp hm hch he hsp)
  · intro m lane
    have hm' : m = leaveRegs core q s.mem (16 * q.ws.toNat) := leaveWindow_eq
    rw [hm']
    exact ⟨fun r hr l hl => leaveRegs_inside hm hl hr, fun a ha => leaveRegs_outside hm ha⟩
  · rw [gridRetirement_child hg (gridOver_of hh hk (teamsEnded_running hs he)) hp hl, retiresWith_running hs]
  · rw [gridRetirement_child hg (gridOver_of hh hk (teamsEnded_ending hs he)) hp hl, retiresWith_ending hs]
  · rw [gridRetirement_kernel hg (gridOver_of hh hk (teamsEnded_running hs he)) hp hn hty, retiresWith_running hs]
  · rw [gridRetirement_kernel hg (gridOver_of hh hk (teamsEnded_ending hs he)) hp hn hty, retiresWith_ending hs]

end Sys2Proof.Machine
end

section
/-! Roundings: what `roundTo` gives of a positive real, and that R60 leaves no other result. -/

namespace Sys2Proof.Machine

/-! ### Binary logarithms -/

theorem zpow_floor_unique {a : ℝ} {b c : Int} (h₁ : (2 : ℝ) ^ b ≤ a) (h₂ : a < (2 : ℝ) ^ (b + 1)) (h₃ : (2 : ℝ) ^ c ≤ a) (h₄ : a < (2 : ℝ) ^ (c + 1)) :
    b = c := by
  have hbc : b < c + 1 := (zpow_lt_zpow_iff_right₀ one_lt_two).mp (h₁.trans_lt h₄)
  have hcb : c < b + 1 := (zpow_lt_zpow_iff_right₀ one_lt_two).mp (h₃.trans_lt h₂)
  omega

theorem two_pow_toNat {z : Int} (h : 0 ≤ z) : (2 : ℝ) ^ z.toNat = (2 : ℝ) ^ z := by
  rw [← zpow_natCast, Int.toNat_of_nonneg h]

/-- The test by which floorLog2 corrects its first guess. -/
theorem pow_le_quotient_iff {n d : Nat} {k : Int} (hd : 0 < d) :
    (if 0 ≤ k then decide (d * 2 ^ k.toNat ≤ n) else decide (d ≤ n * 2 ^ (-k).toNat)) = true ↔ (2 : ℝ) ^ k ≤ (n : ℝ) / d := by
  have hd' : (0 : ℝ) < d := by exact_mod_cast hd
  have h2 : (0 : ℝ) < (2 : ℝ) ^ k := by positivity
  rw [le_div_iff₀ hd']
  split
  · next hk =>
    rw [decide_eq_true_iff, ← two_pow_toNat hk, mul_comm]
    exact_mod_cast Iff.rfl
  · next hk =>
    have hneg : (2 : ℝ) ^ (-k).toNat = ((2 : ℝ) ^ k)⁻¹ := by rw [two_pow_toNat (by omega), zpow_neg]
    rw [decide_eq_true_iff, ← Nat.cast_le (α := ℝ)]
    push_cast
    rw [hneg, ← div_eq_mul_inv, le_div_iff₀ h2, mul_comm]

theorem floorLog2_spec {n d : Nat} (e : Int) (hn : 0 < n) (hd : 0 < d) :
    (2 : ℝ) ^ floorLog2 n d e ≤ (n : ℝ) / d * (2 : ℝ) ^ e ∧ (n : ℝ) / d * (2 : ℝ) ^ e < (2 : ℝ) ^ (floorLog2 n d e + 1) := by
  have hd' : (0 : ℝ) < d := by exact_mod_cast hd
  have he : (0 : ℝ) < (2 : ℝ) ^ e := by positivity
  have hn₁ : (2 : ℝ) ^ (Nat.log2 n : Int) ≤ n := by exact_mod_cast Nat.log2_self_le hn.ne'
  have hn₂ : (n : ℝ) < (2 : ℝ) ^ ((Nat.log2 n : Int) + 1) := by exact_mod_cast Nat.lt_log2_self (n := n)
  have hd₁ : (2 : ℝ) ^ (Nat.log2 d : Int) ≤ d := by exact_mod_cast Nat.log2_self_le hd.ne'
  have hd₂ : (d : ℝ) < (2 : ℝ) ^ ((Nat.log2 d : Int) + 1) := by exact_mod_cast Nat.lt_log2_self (n := d)
  set k : Int := (Nat.log2 n : Int) - Nat.log2 d with hk
  have hlow : (2 : ℝ) ^ (k - 1) ≤ (n : ℝ) / d := by
    rw [le_div_iff₀ hd']
    calc (2 : ℝ) ^ (k - 1) * d ≤ (2 : ℝ) ^ (k - 1) * (2 : ℝ) ^ ((Nat.log2 d : Int) + 1) := by gcongr
      _ = (2 : ℝ) ^ (Nat.log2 n : Int) := by rw [← zpow_add₀ two_ne_zero]; congr 1; omega
      _ ≤ n := hn₁
  have hhigh : (n : ℝ) / d < (2 : ℝ) ^ (k + 1) := by
    rw [div_lt_iff₀ hd']
    calc (n : ℝ) < (2 : ℝ) ^ ((Nat.log2 n : Int) + 1) := hn₂
      _ = (2 : ℝ) ^ (k + 1) * (2 : ℝ) ^ (Nat.log2 d : Int) := by rw [← zpow_add₀ two_ne_zero]; congr 1; omega
      _ ≤ (2 : ℝ) ^ (k + 1) * d := by gcongr
  have htest := pow_le_quotient_iff (n := n) (k := k) hd
  have hval : floorLog2 n d e = (if (2 : ℝ) ^ k ≤ (n : ℝ) / d then k else k - 1) + e := by
    simp only [floorLog2, ← hk]
    congr 1
    by_cases h : (2 : ℝ) ^ k ≤ (n : ℝ) / d
    · rw [if_pos h, if_pos (htest.mpr h)]
    · rw [if_neg h, if_neg (fun x => h (htest.mp x))]
  rw [hval]
  split
  · next h =>
    rw [show k + e + 1 = (k + 1) + e by ring, zpow_add₀ two_ne_zero k, zpow_add₀ two_ne_zero (k + 1)]
    exact ⟨by gcongr, by gcongr⟩
  · next h =>
    rw [show k - 1 + e + 1 = k + e by ring, zpow_add₀ two_ne_zero (k - 1), zpow_add₀ two_ne_zero k]
    exact ⟨by gcongr, by have := not_le.mp h; gcongr⟩

/-! ### Rounding to an integer -/

/-- R60: a nonnegative real rounded to an integer, and whether it is inexact. -/
def Rounded (c : RCtx) (neg : Bool) (x : ℝ) (r : Nat × Bool) : Prop :=
  ∃ k : Nat, (k : ℝ) ≤ x ∧ x < k + 1 ∧ RoundsAt c neg k (x - k) r.1 ∧ (r.2 = true ↔ x ≠ k)

theorem roundsAt_unique {c : RCtx} {neg : Bool} {k m n : Nat} {φ : ℝ} (hm : RoundsAt c neg k φ m) (hn : RoundsAt c neg k φ n) : m = n := by
  obtain ⟨h, rfl⟩ | ⟨h, rfl⟩ := hm <;> obtain ⟨g, rfl⟩ | ⟨g, rfl⟩ := hn
  · rfl
  · exact absurd h g
  · exact absurd g h
  · rfl

theorem roundsAt_exists (c : RCtx) (neg : Bool) (k : Nat) (φ : ℝ) : ∃ m, RoundsAt c neg k φ m := by
  by_cases h : TakesNext c neg k φ
  · exact ⟨_, .inl ⟨h, rfl⟩⟩
  · exact ⟨_, .inr ⟨h, rfl⟩⟩

theorem roundsAt_zero (c : RCtx) (neg : Bool) (k : Nat) : RoundsAt c neg k 0 k := .inr ⟨fun h => lt_irrefl _ h.1, rfl⟩

theorem nat_floor_unique {x : ℝ} {j k : Nat} (hj : (j : ℝ) ≤ x) (hj' : x < j + 1) (hk : (k : ℝ) ≤ x) (hk' : x < k + 1) : j = k := by
  have h₁ : (j : ℝ) < k + 1 := hj.trans_lt hk'
  have h₂ : (k : ℝ) < j + 1 := hk.trans_lt hj'
  norm_cast at h₁ h₂
  omega

/-- The decision of roundsUp, for a remainder over a denominator. -/
theorem roundsUp_iff {c : RCtx} {neg : Bool} {k rem den : Nat} (hd : 0 < den) :
    roundsUp c.mode c.x0 neg k rem den = true ↔ TakesNext c neg k ((rem : ℝ) / den) := by
  have hd' : (0 : ℝ) < den := by exact_mod_cast hd
  by_cases h0 : rem = 0
  · subst h0
    simp [roundsUp, TakesNext]
  have hpos : (0 : ℝ) < (rem : ℝ) / den := div_pos (by exact_mod_cast Nat.pos_of_ne_zero h0) hd'
  have hhalf : (1 / 2 : ℝ) < (rem : ℝ) / den ↔ den < 2 * rem := by
    rw [div_lt_div_iff₀ two_pos hd', one_mul, mul_comm]; exact_mod_cast Iff.rfl
  have heq : (rem : ℝ) / den = 1 / 2 ↔ 2 * rem = den := by
    rw [div_eq_div_iff hd'.ne' two_ne_zero, one_mul, mul_comm]; exact_mod_cast Iff.rfl
  have hle : (1 / 2 : ℝ) ≤ (rem : ℝ) / den ↔ den ≤ 2 * rem := by
    rw [div_le_div_iff₀ two_pos hd', one_mul, mul_comm]; exact_mod_cast Iff.rfl
  have hfloor : ⌊(rem : ℝ) / den * 2 ^ 32⌋ = ((rem * 2 ^ 32 / den : Nat) : Int) := by
    rw [← Nat.floor_div_eq_div (K := ℝ), Int.natCast_floor_eq_floor (by positivity)]
    push_cast
    ring_nf
  simp only [TakesNext, roundsUp, beq_iff_eq, h0, if_false, hpos, true_and]
  cases c.mode
  · simp only [Bool.or_eq_true, Bool.and_eq_true, decide_eq_true_iff, beq_iff_eq, hhalf, heq]
  · simp
  · simp
  · simp
  · simp only [decide_eq_true_iff, hle]
  · simp only [decide_eq_true_iff, hfloor]
    exact_mod_cast Iff.rfl

/-- The quotient that roundAt divides out. -/
theorem scaleTo_spec {n d : Nat} (e q : Int) (hd : 0 < d) :
    0 < (scaleTo n d e q).2 ∧ ((scaleTo n d e q).1 : ℝ) / (scaleTo n d e q).2 = (n : ℝ) / d * (2 : ℝ) ^ e / (2 : ℝ) ^ q := by
  have hd' : (d : ℝ) ≠ 0 := by exact_mod_cast hd.ne'
  unfold scaleTo
  split
  · next h =>
    refine ⟨hd, ?_⟩
    push_cast
    rw [two_pow_toNat (by omega), zpow_sub₀ two_ne_zero]
    field_simp
  · next h =>
    refine ⟨by positivity, ?_⟩
    push_cast
    rw [two_pow_toNat (by omega), zpow_sub₀ two_ne_zero]
    field_simp

theorem roundAt_rounded {c : RCtx} {neg : Bool} {n d : Nat} (e q : Int) (hd : 0 < d) :
    Rounded c neg ((n : ℝ) / d * (2 : ℝ) ^ e / (2 : ℝ) ^ q) (roundAt c.mode c.x0 neg n d e q) := by
  obtain ⟨hb, hx⟩ := scaleTo_spec (n := n) e q hd
  rw [← hx]
  generalize hab : scaleTo n d e q = ab at *
  obtain ⟨a, b⟩ := ab
  have hb' : (0 : ℝ) < b := by exact_mod_cast hb
  have hdiv : (a : ℝ) = b * (a / b : Nat) + (a % b : Nat) := by exact_mod_cast (Nat.div_add_mod a b).symm
  have hfrac : (a : ℝ) / b - (a / b : Nat) = ((a % b : Nat) : ℝ) / b := by
    rw [eq_div_iff hb'.ne', sub_mul, div_mul_cancel₀ _ hb'.ne']
    linarith
  have hmod : ((a % b : Nat) : ℝ) / b < 1 := (div_lt_one hb').mpr (by exact_mod_cast Nat.mod_lt a hb)
  have hmod' : 0 ≤ ((a % b : Nat) : ℝ) / b := by positivity
  refine ⟨a / b, by dsimp only; linarith, by dsimp only; linarith, ?_, ?_⟩
  · simp only [roundAt, hab, hfrac]
    by_cases h : roundsUp c.mode c.x0 neg (a / b) (a % b) b = true
    · rw [if_pos h]
      exact .inl ⟨(roundsUp_iff hb).mp h, rfl⟩
    · rw [if_neg h]
      exact .inr ⟨fun x => h ((roundsUp_iff hb).mpr x), rfl⟩
  · simp only [roundAt, hab, bne_iff_ne, ne_eq]
    rw [← sub_eq_zero (a := (a : ℝ) / b), hfrac, div_eq_zero_iff]
    simp [hb'.ne']

/-! ### Magnitudes of codes -/

theorem mag_subnormal {t : FTy} {k : Nat} (h : k ≤ 2 ^ t.mb) : t.mag k = (k : ℚ) * 2 ^ (1 - (t.bias : Int) - t.mb) := by
  unfold FTy.mag
  split
  · rfl
  · next hk =>
    obtain rfl : k = 2 ^ t.mb := by omega
    simp

theorem mag_normal {t : FTy} {ex f : Nat} (hex : 1 ≤ ex) (hf : f ≤ 2 ^ t.mb) :
    t.mag (ex * 2 ^ t.mb + f) = ((2 ^ t.mb + f : Nat) : ℚ) * 2 ^ ((ex : Int) - t.bias - t.mb) := by
  have hp : 0 < 2 ^ t.mb := by positivity
  have hge : ¬ex * 2 ^ t.mb + f < 2 ^ t.mb := by nlinarith
  unfold FTy.mag
  rw [if_neg hge]
  obtain hlt | rfl := hf.lt_or_eq
  · rw [Nat.mul_add_mod', Nat.mod_eq_of_lt hlt, show (ex * 2 ^ t.mb + f) / 2 ^ t.mb = ex by
      rw [Nat.add_comm, Nat.add_mul_div_right _ _ hp, Nat.div_eq_of_lt hlt, Nat.zero_add]]
  · rw [show ex * 2 ^ t.mb + 2 ^ t.mb = (ex + 1) * 2 ^ t.mb by ring, Nat.mul_mod_left, Nat.mul_div_cancel _ hp]
    push_cast
    rw [show (ex : Int) + 1 - t.bias - t.mb = (ex - t.bias - t.mb) + 1 by ring, zpow_add₀ two_ne_zero, zpow_one]
    ring

theorem mag_lt_succ (t : FTy) (k : Nat) : t.mag k < t.mag (k + 1) := by
  have hp : 0 < 2 ^ t.mb := by positivity
  obtain h | h := lt_or_ge k (2 ^ t.mb)
  · rw [mag_subnormal h.le, mag_subnormal h]
    gcongr
    omega
  · have hf := Nat.mod_lt k hp
    have hex : 1 ≤ k / 2 ^ t.mb := (Nat.one_le_div_iff hp).mpr h
    have hk : k = k / 2 ^ t.mb * 2 ^ t.mb + k % 2 ^ t.mb := by rw [mul_comm]; exact (Nat.div_add_mod _ _).symm
    rw [hk, Nat.add_assoc, mag_normal hex hf.le, mag_normal hex (show _ ≤ _ from hf)]
    gcongr
    omega

theorem mag_strictMono (t : FTy) : StrictMono t.mag := strictMono_nat_of_lt_succ (mag_lt_succ t)

theorem mag_zero (t : FTy) : t.mag 0 = 0 := by simp [FTy.mag]

theorem mag_floor_unique {t : FTy} {a : ℝ} {j k : Nat} (hj : (t.mag j : ℝ) ≤ a) (hj' : a < (t.mag (j + 1) : ℝ)) (hk : (t.mag k : ℝ) ≤ a)
    (hk' : a < (t.mag (k + 1) : ℝ)) : j = k := by
  have h₁ : t.mag j < t.mag (k + 1) := by exact_mod_cast hj.trans_lt hk'
  have h₂ : t.mag k < t.mag (j + 1) := by exact_mod_cast hk.trans_lt hj'
  have := (mag_strictMono t).lt_iff_lt.mp h₁
  have := (mag_strictMono t).lt_iff_lt.mp h₂
  omega

end Sys2Proof.Machine
end

section
/-! The results of roundTo are those of R60, R53, R54 and R57, and no others are. -/

namespace Sys2Proof.Machine

/-! ### The float types of the module -/

theorem known_mb {t : FTy} (h : t.known) : 1 ≤ t.mb := by
  obtain rfl | rfl | rfl | rfl | rfl | rfl | rfl | rfl := h <;> decide

theorem flushes_iff {t : FTy} (h : t.known) : t.flushes = true ↔ t = tyF32 ∨ t = tyF16 ∨ t = tyBF16 := by
  obtain rfl | rfl | rfl | rfl | rfl | rfl | rfl | rfl := h <;> decide

theorem overflow_eq {t : FTy} {c : RCtx} {neg : Bool} (h : t.known) : overflow t c neg = (t.past c neg, 10#32) := by
  obtain ⟨mode, x0, satf8, ftz⟩ := c
  obtain rfl | rfl | rfl | rfl | rfl | rfl | rfl | rfl := h <;> cases mode <;> cases neg <;> cases satf8 <;> rfl

/-! ### The code of a multiple of the spacing -/

/-- The spacing of type t at a magnitude of binary logarithm b. -/
def FTy.spacing (t : FTy) (b : Int) : Int := max (b - t.mb) (1 - (t.bias : Int) - t.mb)

/-- The code of m × 2^q, for a spacing q. -/
def FTy.codeOf (t : FTy) (q : Int) (m : Nat) : Nat := if m < 2 ^ t.mb then m else (q + t.mb + t.bias).toNat * 2 ^ t.mb + (m - 2 ^ t.mb)

/-- A multiple of the spacing below a magnitude of logarithm b is a subnormal one, or has mb bits after its first. -/
theorem multiple_bounds {t : FTy} {a : ℝ} {b : Int} {k : Nat} (h₁ : (2 : ℝ) ^ b ≤ a) (h₂ : a < (2 : ℝ) ^ (b + 1))
    (hk : (k : ℝ) ≤ a / (2 : ℝ) ^ t.spacing b) (hk' : a / (2 : ℝ) ^ t.spacing b < k + 1) :
    (b < 1 - (t.bias : Int) ∧ t.spacing b = 1 - (t.bias : Int) - t.mb ∧ k < 2 ^ t.mb) ∨
    (1 - (t.bias : Int) ≤ b ∧ t.spacing b = b - t.mb ∧ 2 ^ t.mb ≤ k ∧ k < 2 ^ (t.mb + 1)) := by
  have hpos : (0 : ℝ) < (2 : ℝ) ^ t.spacing b := by positivity
  rw [le_div_iff₀ hpos] at hk
  rw [div_lt_iff₀ hpos] at hk'
  obtain h | h := lt_or_ge b (1 - (t.bias : Int))
  · have hq : t.spacing b = 1 - (t.bias : Int) - t.mb := max_eq_right (by omega)
    refine .inl ⟨h, hq, ?_⟩
    have : (k : ℝ) * (2 : ℝ) ^ t.spacing b < (2 : ℝ) ^ t.mb * (2 : ℝ) ^ t.spacing b := by
      calc (k : ℝ) * (2 : ℝ) ^ t.spacing b ≤ a := hk
        _ < (2 : ℝ) ^ (b + 1) := h₂
        _ ≤ (2 : ℝ) ^ ((t.mb : Int) + t.spacing b) := zpow_le_zpow_right₀ one_le_two (by omega)
        _ = (2 : ℝ) ^ t.mb * (2 : ℝ) ^ t.spacing b := by rw [zpow_add₀ two_ne_zero, zpow_natCast]
    exact_mod_cast lt_of_mul_lt_mul_right this hpos.le
  · have hq : t.spacing b = b - t.mb := max_eq_left (by omega)
    refine .inr ⟨h, hq, ?_, ?_⟩
    · have : (2 : ℝ) ^ t.mb * (2 : ℝ) ^ t.spacing b < ((k : ℝ) + 1) * (2 : ℝ) ^ t.spacing b := by
        rw [← zpow_natCast, ← zpow_add₀ two_ne_zero, hq, show (t.mb : Int) + (b - t.mb) = b by ring]
        rw [hq] at hk'
        linarith
      have := lt_of_mul_lt_mul_right this hpos.le
      norm_cast at this
      omega
    · have : (k : ℝ) * (2 : ℝ) ^ t.spacing b < (2 : ℝ) ^ (t.mb + 1) * (2 : ℝ) ^ t.spacing b := by
        rw [← zpow_natCast, ← zpow_add₀ two_ne_zero, hq, show ((t.mb + 1 : Nat) : Int) + (b - t.mb) = b + 1 by push_cast; ring]
        rw [hq] at hk
        linarith
      exact_mod_cast lt_of_mul_lt_mul_right this hpos.le

/-- The code of a multiple and of the next one, and their magnitudes. -/
theorem codeOf_spec {t : FTy} {b : Int} {k : Nat} (hmb : 1 ≤ t.mb)
    (h : (b < 1 - (t.bias : Int) ∧ t.spacing b = 1 - (t.bias : Int) - t.mb ∧ k < 2 ^ t.mb) ∨
      (1 - (t.bias : Int) ≤ b ∧ t.spacing b = b - t.mb ∧ 2 ^ t.mb ≤ k ∧ k < 2 ^ (t.mb + 1))) :
    t.codeOf (t.spacing b) (k + 1) = t.codeOf (t.spacing b) k + 1 ∧ t.codeOf (t.spacing b) k % 2 = k % 2 ∧
    (t.mag (t.codeOf (t.spacing b) k) : ℝ) = k * (2 : ℝ) ^ t.spacing b ∧
    (t.mag (t.codeOf (t.spacing b) k + 1) : ℝ) = (k + 1) * (2 : ℝ) ^ t.spacing b := by
  have heven : 2 ^ t.mb % 2 = 0 := by
    obtain ⟨m, hm⟩ := Nat.exists_eq_add_of_le hmb
    rw [hm, Nat.pow_add]; simp
  obtain ⟨_, hq, hk⟩ | ⟨hb, hq, hk, hk'⟩ := h
  · have hone : (t.spacing b + t.mb + t.bias).toNat = 1 := by omega
    have hcode : t.codeOf (t.spacing b) k = k := if_pos hk
    refine ⟨?_, by rw [hcode], by rw [hcode, mag_subnormal hk.le, hq]; push_cast; rfl, by rw [hcode, mag_subnormal hk, hq]; push_cast; rfl⟩
    rw [hcode]
    unfold FTy.codeOf
    split
    · rfl
    · rw [hone]; omega
  · obtain ⟨ex, hex⟩ : ∃ ex : Nat, (ex : Int) = b + t.bias := ⟨(b + t.bias).toNat, by omega⟩
    have hone : (t.spacing b + t.mb + t.bias).toNat = ex := by omega
    have hexp : (ex : Int) - t.bias - t.mb = b - t.mb := by omega
    have hcode : t.codeOf (t.spacing b) k = ex * 2 ^ t.mb + (k - 2 ^ t.mb) := by unfold FTy.codeOf; rw [if_neg (by omega), hone]
    have hnext : t.codeOf (t.spacing b) (k + 1) = ex * 2 ^ t.mb + (k - 2 ^ t.mb) + 1 := by
      unfold FTy.codeOf; rw [if_neg (by omega), hone]; omega
    rw [pow_succ] at hk'
    refine ⟨by rw [hnext, hcode], ?_, ?_, ?_⟩
    · rw [hcode, Nat.add_mod, Nat.mul_mod, heven]; omega
    · rw [hcode, mag_normal (by omega) (by omega), hq, hexp, Nat.add_sub_cancel' hk]; push_cast; rfl
    · rw [hcode, Nat.add_assoc, mag_normal (by omega) (by omega), hq, hexp, show 2 ^ t.mb + (k - 2 ^ t.mb + 1) = k + 1 by omega]; push_cast; rfl

/-- The code that a multiple of the spacing rounds to, in the terms of R60. -/
theorem codeOf_roundsAt {t : FTy} {c : RCtx} {neg : Bool} {a : ℝ} {b : Int} {k m : Nat} (hmb : 1 ≤ t.mb) (h₁ : (2 : ℝ) ^ b ≤ a)
    (h₂ : a < (2 : ℝ) ^ (b + 1)) (hk : (k : ℝ) ≤ a / (2 : ℝ) ^ t.spacing b) (hk' : a / (2 : ℝ) ^ t.spacing b < k + 1)
    (hm : RoundsAt c neg k (a / (2 : ℝ) ^ t.spacing b - k) m) :
    let q := t.codeOf (t.spacing b) k
    (t.mag q : ℝ) ≤ a ∧ a < (t.mag (q + 1) : ℝ) ∧ (a = (t.mag q : ℝ) ↔ a / (2 : ℝ) ^ t.spacing b = k) ∧
    RoundsAt c neg q ((a - (t.mag q : ℝ)) / ((t.mag (q + 1) : ℝ) - (t.mag q : ℝ))) (t.codeOf (t.spacing b) m) := by
  obtain ⟨hnext, hpar, hlow, hhigh⟩ := codeOf_spec hmb (multiple_bounds h₁ h₂ hk hk')
  have hpos : (0 : ℝ) < (2 : ℝ) ^ t.spacing b := by positivity
  dsimp only
  have hφ : (a - (t.mag (t.codeOf (t.spacing b) k) : ℝ)) / ((t.mag (t.codeOf (t.spacing b) k + 1) : ℝ) - (t.mag (t.codeOf (t.spacing b) k) : ℝ))
      = a / (2 : ℝ) ^ t.spacing b - k := by
    rw [hlow, hhigh]; field_simp; ring
  have htakes : ∀ φ, TakesNext c neg (t.codeOf (t.spacing b) k) φ ↔ TakesNext c neg k φ := fun φ => by
    unfold TakesNext; rw [hpar]
  refine ⟨by rwa [hlow, ← le_div_iff₀ hpos], by rwa [hhigh, ← div_lt_iff₀ hpos], by rw [hlow, div_eq_iff hpos.ne'], ?_⟩
  rw [hφ]
  obtain ⟨h, rfl⟩ | ⟨h, rfl⟩ := hm
  · exact .inl ⟨(htakes _).mpr h, hnext⟩
  · exact .inr ⟨fun x => h ((htakes _).mp x), rfl⟩

theorem roundsAt_le {c : RCtx} {neg : Bool} {k m : Nat} {φ : ℝ} (h : RoundsAt c neg k φ m) : k ≤ m ∧ m ≤ k + 1 := by
  obtain ⟨-, rfl⟩ | ⟨-, rfl⟩ := h <;> omega

/-- R60: tininess of a rounding with an unbounded exponent range, as roundTo decides it. -/
theorem tiny_iff {t : FTy} {a : ℝ} {b : Int} {c : RCtx} {neg : Bool} {j u : Nat} (h₁ : (2 : ℝ) ^ b ≤ a) (h₂ : a < (2 : ℝ) ^ (b + 1))
    (hj : (j : ℝ) ≤ a / (2 : ℝ) ^ (b - t.mb)) (hj' : a / (2 : ℝ) ^ (b - t.mb) < j + 1) (hu : RoundsAt c neg j (a / (2 : ℝ) ^ (b - t.mb) - j) u) :
    (decide (b < 1 - (t.bias : Int)) && !(decide (b = 1 - (t.bias : Int) - 1) && u == 2 ^ (t.mb + 1))) = true ↔
      (u : ℝ) * (2 : ℝ) ^ (b - t.mb) < (2 : ℝ) ^ (1 - (t.bias : Int)) := by
  have hpos : (0 : ℝ) < (2 : ℝ) ^ (b - t.mb) := by positivity
  obtain ⟨hju, huj⟩ := roundsAt_le hu
  have hone : (2 : ℝ) ^ b = (2 : ℝ) ^ t.mb * (2 : ℝ) ^ (b - t.mb) := by rw [← zpow_natCast, ← zpow_add₀ two_ne_zero]; congr 1; ring
  have htwo : (2 : ℝ) ^ (b + 1) = (2 : ℝ) ^ (t.mb + 1) * (2 : ℝ) ^ (b - t.mb) := by
    rw [← zpow_natCast, ← zpow_add₀ two_ne_zero]; congr 1; push_cast; ring
  rw [le_div_iff₀ hpos] at hj
  rw [div_lt_iff₀ hpos] at hj'
  have hlow : 2 ^ t.mb ≤ j := by
    have : (2 : ℝ) ^ t.mb < (j : ℝ) + 1 := lt_of_mul_lt_mul_right (hone ▸ h₁.trans_lt hj') hpos.le
    norm_cast at this; omega
  have hhigh : j < 2 ^ (t.mb + 1) := by
    have : (j : ℝ) < (2 : ℝ) ^ (t.mb + 1) := lt_of_mul_lt_mul_right (htwo ▸ hj.trans_lt h₂) hpos.le
    exact_mod_cast this
  have hmin : (2 : ℝ) ^ b ≤ (u : ℝ) * (2 : ℝ) ^ (b - t.mb) := by
    rw [hone]; gcongr; exact_mod_cast hlow.trans hju
  have hmax : (u : ℝ) * (2 : ℝ) ^ (b - t.mb) ≤ (2 : ℝ) ^ (b + 1) := by
    rw [htwo]; gcongr; exact_mod_cast (by omega : u ≤ 2 ^ (t.mb + 1))
  simp only [Bool.and_eq_true, Bool.not_eq_true', Bool.and_eq_false_iff, decide_eq_true_iff, decide_eq_false_iff_not, beq_eq_false_iff_ne]
  obtain hb | rfl | hb : b < 1 - (t.bias : Int) - 1 ∨ b = 1 - (t.bias : Int) - 1 ∨ 1 - (t.bias : Int) ≤ b := by omega
  · refine iff_of_true ⟨by omega, .inl (by omega)⟩ (hmax.trans_lt (zpow_lt_zpow_right₀ one_lt_two (by omega)))
  · have hval : (2 : ℝ) ^ (1 - (t.bias : Int)) = (2 : ℝ) ^ (t.mb + 1) * (2 : ℝ) ^ (1 - (t.bias : Int) - 1 - t.mb) := by rw [← htwo]; congr 1; ring
    rw [hval, mul_lt_mul_iff_left₀ hpos]
    constructor
    · rintro ⟨-, h | h⟩
      · exact absurd rfl h
      · exact_mod_cast lt_of_le_of_ne (by omega : u ≤ 2 ^ (t.mb + 1)) h
    · intro h
      exact ⟨by omega, .inr (by norm_cast at h; omega)⟩
  · refine iff_of_false (fun h => by omega) (not_lt.mpr ((zpow_le_zpow_right₀ one_le_two hb).trans hmin))

/-! ### The result of a rounding -/

/-- The code and flags of a magnitude that rounds to code m, as R53, R54 and R57 give them. -/
def FTy.result (t : FTy) (c : RCtx) (neg : Bool) (tiny exact : Prop) [Decidable tiny] [Decidable exact] (m : Nat) : Nat × W32 :=
  let sgn := if neg then t.signAt else 0
  if tiny ∧ c.ftz = true ∧ (t = tyF32 ∨ t = tyF16 ∨ t = tyBF16) then (sgn, 12#32)
  else if t.top < m then (t.past c neg, 10#32)
  else (sgn + m, if exact then 0#32 else if tiny then 12#32 else 8#32)

open Classical in
/-- What a rounding gives, from the code it takes and the multiple that decides tininess. -/
theorem roundsTo_iff {t : FTy} {c : RCtx} {neg : Bool} {a : ℝ} {r : Nat × W32} {k m j u : Nat} {b : Int} (hk : (t.mag k : ℝ) ≤ a)
    (hk' : a < (t.mag (k + 1) : ℝ)) (hm : RoundsAt c neg k ((a - (t.mag k : ℝ)) / ((t.mag (k + 1) : ℝ) - (t.mag k : ℝ))) m)
    (hb : (2 : ℝ) ^ b ≤ a) (hb' : a < (2 : ℝ) ^ (b + 1)) (hj : (j : ℝ) ≤ a / 2 ^ (b - t.mb)) (hj' : a / 2 ^ (b - t.mb) < (j : ℝ) + 1)
    (hu : RoundsAt c neg j (a / 2 ^ (b - t.mb) - j) u) :
    RoundsTo t c neg a r ↔ r = t.result c neg ((u : ℝ) * 2 ^ (b - t.mb) < 2 ^ (1 - (t.bias : Int))) (a = (t.mag k : ℝ)) m := by
  constructor
  · intro h
    obtain ⟨hzero, hpast, hfin⟩ := h k m j u b hk hk' hm hb hb' hj hj' hu
    unfold FTy.result
    dsimp only
    split
    · next hz => exact hzero hz
    · next hz =>
      split
      · next ht => exact hpast hz ht
      · next ht =>
        obtain ⟨hcode, hexact, htiny, hnormal⟩ := hfin hz (not_lt.mp ht)
        refine Prod.ext hcode ?_
        dsimp only
        split
        · next he => exact hexact he
        · next he =>
          split
          · next hti => exact htiny he hti
          · next hti => exact hnormal he hti
  · rintro rfl k' m' j' u' b' gk gk' gm gb gb' gj gj' gu
    obtain rfl := zpow_floor_unique hb hb' gb gb'
    obtain rfl := mag_floor_unique hk hk' gk gk'
    obtain rfl := nat_floor_unique hj hj' gj gj'
    obtain rfl := roundsAt_unique hm gm
    obtain rfl := roundsAt_unique hu gu
    unfold FTy.result
    refine ⟨fun hz => if_pos hz, fun hz ht => ?_, fun hz ht => ?_⟩
    · dsimp only; rw [if_neg hz, if_pos ht]
    · dsimp only
      rw [if_neg hz, if_neg (not_lt.mpr ht)]
      exact ⟨rfl, fun he => if_pos he, fun he hti => by rw [if_neg he, if_pos hti], fun he hti => by rw [if_neg he, if_neg hti]⟩

theorem exists_zpow_floor {a : ℝ} (ha : 0 < a) : ∃ b : Int, (2 : ℝ) ^ b ≤ a ∧ a < (2 : ℝ) ^ (b + 1) :=
  ⟨Int.log 2 a, by exact_mod_cast Int.zpow_log_le_self one_lt_two ha, by exact_mod_cast Int.lt_zpow_succ_log_self one_lt_two a⟩

theorem exists_nat_floor {x : ℝ} (hx : 0 ≤ x) : ∃ k : Nat, (k : ℝ) ≤ x ∧ x < k + 1 := ⟨⌊x⌋₊, Nat.floor_le hx, Nat.lt_floor_add_one x⟩

/-- R60: every positive real has one rounding. -/
theorem roundsTo_unique {t : FTy} {c : RCtx} {neg : Bool} {a : ℝ} {r r' : Nat × W32} (ht : t.known) (ha : 0 < a) (hr : RoundsTo t c neg a r)
    (hr' : RoundsTo t c neg a r') : r = r' := by
  obtain ⟨b, hb, hb'⟩ := exists_zpow_floor ha
  obtain ⟨k, hk, hk'⟩ := exists_nat_floor (x := a / (2 : ℝ) ^ t.spacing b) (by positivity)
  obtain ⟨j, hj, hj'⟩ := exists_nat_floor (x := a / (2 : ℝ) ^ (b - t.mb)) (by positivity)
  obtain ⟨m, hm⟩ := roundsAt_exists c neg k (a / (2 : ℝ) ^ t.spacing b - k)
  obtain ⟨u, hu⟩ := roundsAt_exists c neg j (a / (2 : ℝ) ^ (b - t.mb) - j)
  obtain ⟨hlow, hhigh, -, hcode⟩ := codeOf_roundsAt (known_mb ht) hb hb' hk hk' hm
  rw [roundsTo_iff hlow hhigh hcode hb hb' hj hj' hu] at hr hr'
  rw [hr, hr']

/-- The result of roundTo, where its two roundings to a multiple are those of the magnitude a. -/
theorem roundTo_rounds {t : FTy} {c : RCtx} {neg : Bool} {n d : Nat} {e b : Int} {a : ℝ} (ht : t.known) (hlog : floorLog2 n d e = b)
    (hb : (2 : ℝ) ^ b ≤ a) (hb' : a < (2 : ℝ) ^ (b + 1))
    (hm : Rounded c neg (a / (2 : ℝ) ^ t.spacing b) (roundAt c.mode c.x0 neg n d e (t.spacing b)))
    (hu : Rounded c neg (a / (2 : ℝ) ^ (b - t.mb)) (roundAt c.mode c.x0 neg n d e (b - t.mb))) : RoundsTo t c neg a (roundTo t c neg n d e) := by
  classical
  obtain ⟨k, hk, hk', hm, hexact⟩ := hm
  obtain ⟨j, hj, hj', hu, -⟩ := hu
  obtain ⟨hlow, hhigh, heq, hcode⟩ := codeOf_roundsAt (known_mb ht) hb hb' hk hk' hm
  have htiny := tiny_iff hb hb' hj hj' hu
  rw [roundsTo_iff hlow hhigh hcode hb hb' hj hj' hu]
  have hex : (roundAt c.mode c.x0 neg n d e (t.spacing b)).2 = true ↔ ¬a = (t.mag (t.codeOf (t.spacing b) k) : ℝ) := by rw [hexact, heq]
  unfold roundTo FTy.result
  dsimp only
  rw [hlog]
  change (if (_ && c.ftz && t.flushes) = true then _ else if t.top < t.codeOf (t.spacing b) (roundAt c.mode c.x0 neg n d e (t.spacing b)).1 then _ else
    (_ + t.codeOf (t.spacing b) (roundAt c.mode c.x0 neg n d e (t.spacing b)).1,
      (if (roundAt c.mode c.x0 neg n d e (t.spacing b)).2 = true then _ else _) ||| (if ((roundAt c.mode c.x0 neg n d e (t.spacing b)).2 && _) = true then _ else _))) = _
  simp only [Bool.and_eq_true, htiny, hex, flushes_iff ht, overflow_eq ht, and_assoc]
  split
  · rfl
  · split
    · rfl
    · congr 1
      split <;> split <;> simp_all [flagUF, flagNX]

/-- R60: roundTo rounds its quotient once. -/
theorem roundTo_spec {t : FTy} (c : RCtx) (neg : Bool) {n d : Nat} (e : Int) (ht : t.known) (hn : 0 < n) (hd : 0 < d) :
    RoundsTo t c neg ((n : ℝ) / d * (2 : ℝ) ^ e) (roundTo t c neg n d e) :=
  roundTo_rounds ht rfl (floorLog2_spec e hn hd).1 (floorLog2_spec e hn hd).2 (roundAt_rounded e _ hd) (roundAt_rounded e _ hd)

/-- The rounding of a magnitude that has a code. -/
theorem roundsTo_exact {t : FTy} {c : RCtx} {neg : Bool} {k : Nat} {r : Nat × W32} (h0 : 0 < k) (hk : k ≤ t.top) (hf : c.ftz = false)
    (h : RoundsTo t c neg (t.mag k : ℝ) r) : r = ((if neg then t.signAt else 0) + k, 0#32) := by
  have hpos : (0 : ℝ) < (t.mag k : ℝ) := by exact_mod_cast mag_zero t ▸ mag_strictMono t h0
  obtain ⟨b, hb, hb'⟩ := exists_zpow_floor hpos
  obtain ⟨j, hj, hj'⟩ := exists_nat_floor (x := (t.mag k : ℝ) / (2 : ℝ) ^ (b - t.mb)) (by positivity)
  obtain ⟨u, hu⟩ := roundsAt_exists c neg j ((t.mag k : ℝ) / (2 : ℝ) ^ (b - t.mb) - j)
  have hnext : (t.mag k : ℝ) < (t.mag (k + 1) : ℝ) := by exact_mod_cast mag_lt_succ t k
  have hm := roundsAt_zero c neg k
  rw [← zero_div ((t.mag (k + 1) : ℝ) - (t.mag k : ℝ)), ← sub_self (t.mag k : ℝ)] at hm
  rw [roundsTo_iff le_rfl hnext hm hb hb' hj hj' hu] at h
  simpa [FTy.result, hf, not_lt.mpr hk] using h

end Sys2Proof.Machine
end

section
/-! The values of codes (R52, R55), and sums, products and fused forms (R60, R195). -/

namespace Sys2Proof.Machine

/-! ### Exact numbers -/

@[simp] theorem numberOf_eq_zero {neg : Bool} {m : Nat} {e : Int} : numberOf neg m e = 0 ↔ m = 0 := by
  have h : (2 : ℚ) ^ e ≠ 0 := by positivity
  cases neg <;> simp [numberOf, h]

theorem numberOf_neg_iff {neg : Bool} {m : Nat} {e : Int} (hm : m ≠ 0) : numberOf neg m e < 0 ↔ neg = true := by
  have h : (0 : ℚ) < (m : ℚ) * 2 ^ e := by have : 0 < m := Nat.pos_of_ne_zero hm; positivity
  cases neg
  · simp [numberOf, h.le]
  · simp [numberOf, h]

theorem abs_numberOf {neg : Bool} {m : Nat} {e : Int} : |numberOf neg m e| = (m : ℚ) * 2 ^ e := by
  have h : (0 : ℚ) ≤ (m : ℚ) * 2 ^ e := by positivity
  cases neg <;> simp [numberOf, abs_of_nonneg h]

theorem numberOf_not {neg : Bool} {m : Nat} {e : Int} : numberOf (!neg) m e = -numberOf neg m e := by cases neg <;> simp [numberOf]

theorem numberOf_mul {p q : Bool} {m n : Nat} {e f : Int} : numberOf p m e * numberOf q n f = numberOf (p != q) (m * n) (e + f) := by
  simp only [numberOf, zpow_add₀ (two_ne_zero (α := ℚ))]
  cases p <;> cases q <;> push_cast <;> simp <;> ring

/-- The exact sum of two numbers. -/
theorem exactSum_spec (p : Bool) (m : Nat) (e : Int) (q : Bool) (n : Nat) (f : Int) :
    ((exactSum p m e q n f).1 : ℚ) * 2 ^ (exactSum p m e q n f).2 = numberOf p m e + numberOf q n f := by
  have hscale : ∀ (k : Nat) (g : Int), min e f ≤ g → ((k * 2 ^ (g - min e f).toNat : Nat) : ℚ) * 2 ^ min e f = k * 2 ^ g := fun k g hg => by
    push_cast
    rw [← zpow_natCast, Int.toNat_of_nonneg (by omega), mul_assoc, ← zpow_add₀ two_ne_zero, sub_add_cancel]
  have hm := hscale m e (min_le_left _ _)
  have hn := hscale n f (min_le_right _ _)
  simp only [exactSum, numberOf, ← hm, ← hn]
  cases p <;> cases q <;> push_cast <;> simp <;> ring

theorem exactSum_sign {p : Bool} {m : Nat} {e : Int} {q : Bool} {n : Nat} {f : Int} :
    ((exactSum p m e q n f).1 < 0 ↔ numberOf p m e + numberOf q n f < 0) ∧ ((exactSum p m e q n f).1 = 0 ↔ numberOf p m e + numberOf q n f = 0) := by
  have h : (0 : ℚ) < 2 ^ (exactSum p m e q n f).2 := by positivity
  rw [← exactSum_spec p m e q n f]
  refine ⟨⟨fun hs => mul_neg_of_neg_of_pos (by exact_mod_cast hs) h, fun hs => ?_⟩, by simp [h.ne']⟩
  exact_mod_cast (neg_iff_pos_of_mul_neg hs).mpr h

/-! ### Sums -/

/-- R60: a sum that is not 0 is rounded once. -/
theorem roundSum_spec {t : FTy} {c : RCtx} {p : Bool} {m : Nat} {e : Int} {q : Bool} {n : Nat} {f : Int} (ht : t.known)
    (hs : numberOf p m e + numberOf q n f ≠ 0) :
    RoundsTo t c (decide (numberOf p m e + numberOf q n f < 0)) |((numberOf p m e + numberOf q n f : ℚ) : ℝ)| (roundSum t c p m e q n f) := by
  have hspec := exactSum_spec p m e q n f
  obtain ⟨hneg, hzero⟩ := exactSum_sign (p := p) (m := m) (e := e) (q := q) (n := n) (f := f)
  unfold roundSum
  generalize exactSum p m e q n f = x at *
  obtain ⟨k, g⟩ := x
  have hk : k ≠ 0 := fun h => hs (hzero.mp h)
  have habs : |((numberOf p m e + numberOf q n f : ℚ) : ℝ)| = (k.natAbs : ℝ) / (1 : Nat) * (2 : ℝ) ^ g := by
    rw [← hspec]
    push_cast
    rw [abs_mul, abs_of_pos (by positivity : (0 : ℝ) < 2 ^ g), div_one, Nat.cast_natAbs, Int.cast_abs]
  dsimp only
  rw [if_neg (by simpa using hk), decide_eq_decide.mpr hneg.symm, habs]
  exact roundTo_spec c _ g ht (Int.natAbs_pos.mpr hk) one_pos

/-- R60: the sign of an exact zero sum. -/
theorem roundSum_zero {t : FTy} {c : RCtx} {p : Bool} {m : Nat} {e : Int} {q : Bool} {n : Nat} {f : Int} (hs : numberOf p m e + numberOf q n f = 0) :
    roundSum t c p m e q n f = (if (if m = 0 ∧ n = 0 ∧ p = q then p else decide (c.mode = .rdn)) = true then t.signAt else 0, 0#32) := by
  have hzero := (exactSum_sign (p := p) (m := m) (e := e) (q := q) (n := n) (f := f)).2.mpr hs
  unfold roundSum
  generalize exactSum p m e q n f = x at *
  obtain ⟨k, g⟩ := x
  obtain rfl : k = 0 := hzero
  by_cases hm : m = 0 <;> by_cases hn : n = 0 <;> by_cases hp : p = q <;> simp [zeroSign, hm, hn, hp, beq_eq_decide]

/-! ### Products -/

theorem roundVal_spec {t : FTy} {c : RCtx} {p : Bool} {m : Nat} {e : Int} (ht : t.known) (hm : m ≠ 0) :
    RoundsTo t c p ((m : ℝ) * (2 : ℝ) ^ e) (roundVal t c (.num p m e)) := by
  have h := roundTo_spec c p e ht (Nat.pos_of_ne_zero hm) one_pos
  rw [Nat.cast_one, div_one] at h
  simpa [roundVal, hm] using h

theorem mulVal_num {t : FTy} {c : RCtx} {p q : Bool} {m n : Nat} {e f : Int} :
    mulVal t c (.num p m e) (.num q n f) = roundVal t c (.num (p != q) (m * n) (e + f)) := rfl

theorem mulVal_spec {t : FTy} {c : RCtx} {p q : Bool} {m n : Nat} {e f : Int} (ht : t.known) (h : numberOf p m e * numberOf q n f ≠ 0) :
    RoundsTo t c (p != q) |((numberOf p m e * numberOf q n f : ℚ) : ℝ)| (mulVal t c (.num p m e) (.num q n f)) := by
  rw [numberOf_mul] at h ⊢
  have hval : |((numberOf (p != q) (m * n) (e + f) : ℚ) : ℝ)| = ((m * n : Nat) : ℝ) * (2 : ℝ) ^ (e + f) := by
    rw [← Rat.cast_abs, abs_numberOf]; push_cast; rfl
  rw [mulVal_num, hval]
  exact roundVal_spec ht (fun hz => h (numberOf_eq_zero.mpr hz))

theorem mulVal_zero {t : FTy} {c : RCtx} {p q : Bool} {m n : Nat} {e f : Int} (h : numberOf p m e * numberOf q n f = 0) :
    mulVal t c (.num p m e) (.num q n f) = (if (p != q) = true then t.signAt else 0, 0#32) := by
  rw [numberOf_mul, numberOf_eq_zero] at h
  rw [mulVal_num]
  unfold roundVal
  dsimp only
  rw [if_pos (by rw [h]; rfl)]

/-! ### Differences -/

theorem subVal_zeros {t : FTy} {c : RCtx} {p q : Bool} {e f : Int} :
    subVal t c (.num p 0 e) (.num q 0 f) = (if zeroSign c.mode p q = true then t.signAt else 0, 0#32) := rfl

theorem subVal_num {t : FTy} {c : RCtx} {p q : Bool} {m n : Nat} {e f : Int} (h : ¬(m = 0 ∧ n = 0)) :
    subVal t c (.num p m e) (.num q n f) = addVal t c (.num p m e) (.num (!q) n f) := by
  unfold subVal
  dsimp only
  rw [if_neg (by simpa using h)]
  rfl

/-- R60, log 61: a difference of numbers that is 0. -/
theorem subVal_zero {t : FTy} {c : RCtx} {p q : Bool} {m n : Nat} {e f : Int} (hs : numberOf p m e + numberOf q n f = 0) :
    subVal t c (.num p m e) (.num (!q) n f) = (if (if m = 0 ∧ n = 0 ∧ p ≠ q then p else decide (c.mode = .rdn)) = true then t.signAt else 0, 0#32) := by
  by_cases hz : m = 0 ∧ n = 0
  · obtain ⟨rfl, rfl⟩ := hz
    rw [subVal_zeros]
    cases p <;> cases q <;> simp [zeroSign, beq_eq_decide]
  · rw [subVal_num hz, Bool.not_not]
    refine (roundSum_zero hs).trans ?_
    rw [if_neg (c := m = 0 ∧ n = 0 ∧ p = q) fun h => hz ⟨h.1, h.2.1⟩, if_neg (c := m = 0 ∧ n = 0 ∧ p ≠ q) fun h => hz ⟨h.1, h.2.1⟩]

theorem subVal_nonzero {t : FTy} {c : RCtx} {p q : Bool} {m n : Nat} {e f : Int} (hs : numberOf p m e + numberOf q n f ≠ 0) :
    subVal t c (.num p m e) (.num (!q) n f) = addVal t c (.num p m e) (.num q n f) := by
  rw [subVal_num, Bool.not_not]
  rintro ⟨rfl, rfl⟩
  exact hs (by simp [numberOf])

/-! ### Infinities and NaN -/

theorem addVal_nan {t : FTy} {c : RCtx} {x y : Val} (h : x.isNan = true ∨ y.isNan = true) : addVal t c x y = (t.nan, nvIf (x.isSnan || y.isSnan)) := by
  cases x <;> cases y <;> simp_all [addVal, Val.isNan, Val.isSnan]

theorem mulVal_nan {t : FTy} {c : RCtx} {x y : Val} (h : x.isNan = true ∨ y.isNan = true) : mulVal t c x y = (t.nan, nvIf (x.isSnan || y.isSnan)) :=
  if_pos (by simpa using h)

theorem fmaVal_nan {t : FTy} {c : RCtx} {x y z : Val} (h : x.isNan = true ∨ y.isNan = true) :
    fmaVal t c x y z = (t.nan, nvIf (x.isSnan || y.isSnan || z.isSnan)) :=
  if_pos (by simpa using h)

theorem negate_isNan {x : Val} : x.negate.isNan = x.isNan := by cases x <;> rfl

theorem negate_isSnan {x : Val} : x.negate.isSnan = x.isSnan := by cases x <;> rfl

/-- R195: a difference with an operand that is no number is the sum with the negated one. -/
theorem subVal_eq_addVal {t : FTy} {c : RCtx} {x y : Val} (h : (∀ p m e, x ≠ .num p m e) ∨ (∀ p m e, y ≠ .num p m e)) :
    subVal t c x y = addVal t c x y.negate := by
  cases x with
  | num p m e =>
    cases y with
    | num q n f => exact h.elim (fun g => absurd rfl (g p m e)) (fun g => absurd rfl (g q n f))
    | _ => rfl
  | _ => cases y <;> rfl

theorem subVal_nan {t : FTy} {c : RCtx} {x y : Val} (h : x.isNan = true ∨ y.isNan = true) : subVal t c x y = (t.nan, nvIf (x.isSnan || y.isSnan)) := by
  rw [subVal_eq_addVal, addVal_nan (by rwa [negate_isNan]), negate_isSnan]
  obtain h | h := h
  · exact .inl fun p m e hx => by simp [hx, Val.isNan] at h
  · exact .inr fun p m e hx => by simp [hx, Val.isNan] at h

/-- A product with no NaN and a value. -/
theorem fmaVal_eq_addVal {t : FTy} {c : RCtx} {x y z p : Val} (hx : x.isNan = false) (hy : y.isNan = false) (h : mulExact x y = some p) :
    fmaVal t c x y z = addVal t c p z := by
  unfold fmaVal
  rw [if_neg (by simp [hx, hy]), h]

/-! ### Codes -/

/-- The bits of a sign. -/
def FTy.sgn (t : FTy) (neg : Bool) : Nat := if neg then t.signAt else 0

theorem code_fields {t : FTy} {neg : Bool} {m : Nat} (hm : m < t.signAt) :
    ((t.sgn neg + m) / t.signAt % 2 == 1) = neg ∧ (t.sgn neg + m) / 2 ^ t.mb % 2 ^ t.eb = m / 2 ^ t.mb ∧ (t.sgn neg + m) % 2 ^ t.mb = m % 2 ^ t.mb := by
  have hp : 0 < t.signAt := by unfold FTy.signAt; positivity
  have hmul : t.signAt = 2 ^ t.eb * 2 ^ t.mb := Nat.pow_add ..
  have hq : m / 2 ^ t.mb < 2 ^ t.eb := Nat.div_lt_of_lt_mul (by rwa [mul_comm, ← hmul])
  cases neg
  · simp [FTy.sgn, Nat.div_eq_of_lt hm, Nat.mod_eq_of_lt hq]
  · simp only [FTy.sgn, if_true]
    refine ⟨by rw [Nat.add_comm, Nat.add_div_right _ hp, Nat.div_eq_of_lt hm]; rfl, ?_, ?_⟩
    · rw [hmul, Nat.add_comm, Nat.add_mul_div_right _ _ (by positivity), Nat.add_mod_right, Nat.mod_eq_of_lt hq]
    · rw [hmul, Nat.add_comm, Nat.add_mul_mod_self_right]

/-- Where the codes of numbers end, by kind. -/
theorem known_top {t : FTy} (h : t.known) :
    1 ≤ t.eb ∧ t.top < t.signAt ∧ (t.kind = .ieee ∨ t.kind = .e5m2 → t.top + 1 = t.inf) ∧ (t.kind = .e4m3 → t.top + 1 = t.inf + 2 ^ t.mb - 1 ∧ t = tyE4M3) ∧
    (t.kind = .finite → t.top + 1 = t.signAt) ∧ (t.kind = .ieee ↔ t = tyF32 ∨ t = tyF16 ∨ t = tyBF16) := by
  obtain rfl | rfl | rfl | rfl | rfl | rfl | rfl | rfl := h <;> decide

theorem inf_eq (t : FTy) : t.inf = (2 ^ t.eb - 1) * 2 ^ t.mb := rfl

theorem signAt_eq_inf {t : FTy} : t.signAt = t.inf + 2 ^ t.mb := by
  have : 1 ≤ 2 ^ t.eb := Nat.one_le_two_pow
  rw [inf_eq, Nat.sub_mul, one_mul, FTy.signAt, Nat.pow_add, Nat.sub_add_cancel]
  exact Nat.le_mul_of_pos_left _ this

/-- Whether the exponent field of a magnitude is all ones. -/
theorem exponent_top_iff {t : FTy} {m : Nat} (hm : m < t.signAt) : m / 2 ^ t.mb = 2 ^ t.eb - 1 ↔ t.inf ≤ m := by
  have hp : 0 < 2 ^ t.mb := by positivity
  rw [signAt_eq_inf] at hm
  rw [Nat.div_eq_iff hp, ← inf_eq]
  omega

/-- R52, R55: the value of the code of a number. -/
theorem decode_number {t : FTy} {neg : Bool} {m : Nat} (ht : t.known) (hm : m ≤ t.top) :
    ∃ n e, t.decode (t.sgn neg + m) = .num neg n e ∧ numberOf false n e = t.mag m := by
  obtain ⟨-, htop, hinf, he4, -, -⟩ := known_top ht
  have hlt : m < t.signAt := hm.trans_lt htop
  obtain ⟨hs, hex, hfr⟩ := code_fields (neg := neg) hlt
  have hexp := exponent_top_iff hlt
  have hno : ¬(m / 2 ^ t.mb = 2 ^ t.eb - 1 ∧ (t.kind = .ieee ∨ t.kind = .e5m2)) := fun ⟨h, hk⟩ => by
    have := hexp.mp h; have := hinf hk; omega
  have hno' : ¬(m / 2 ^ t.mb = 2 ^ t.eb - 1 ∧ t.kind = .e4m3 ∧ m % 2 ^ t.mb = 2 ^ t.mb - 1) := fun ⟨h, hk, hf⟩ => by
    have := Nat.div_add_mod m (2 ^ t.mb); rw [h, hf, mul_comm, ← inf_eq] at this
    have := (he4 hk).1
    have : 0 < 2 ^ t.mb := by positivity
    omega
  unfold FTy.decode
  simp only [hs, hex, hfr, Bool.and_eq_true, Bool.or_eq_true, beq_iff_eq, if_neg hno, and_assoc, if_neg hno']
  split
  · next h0 =>
    have h2 : m < 2 ^ t.mb := by simpa [Nat.div_eq_zero_iff] using h0
    exact ⟨_, _, rfl, by rw [mag_subnormal h2.le, Nat.mod_eq_of_lt h2]; simp [numberOf]⟩
  · next h0 =>
    have hk : m = m / 2 ^ t.mb * 2 ^ t.mb + m % 2 ^ t.mb := by rw [mul_comm]; exact (Nat.div_add_mod _ _).symm
    refine ⟨_, _, rfl, ?_⟩
    conv_rhs => rw [hk]
    rw [mag_normal (by omega) (Nat.mod_lt _ (by positivity)).le]
    simp [numberOf]

/-- R52, R53, R55: the value of a code that is no number. -/
theorem decode_special {t : FTy} {neg : Bool} {m : Nat} (ht : t.known) (hm : t.top < m) (hlt : m < t.signAt) :
    t.decode (t.sgn neg + m) = if m = t.inf ∧ t ≠ tyE4M3 then .inf neg else
      .nan (decide ((t = tyF32 ∨ t = tyF16 ∨ t = tyBF16) ∧ m < t.inf + 2 ^ (t.mb - 1))) := by
  obtain ⟨-, -, hinf, he4, hfin, hieee⟩ := known_top ht
  obtain ⟨hs, hex, hfr⟩ := code_fields (neg := neg) hlt
  have hexp := exponent_top_iff hlt
  have hsign := signAt_eq_inf (t := t)
  have hmod : t.inf ≤ m → m % 2 ^ t.mb = m - t.inf := fun h => by
    have := Nat.div_add_mod m (2 ^ t.mb); rw [hexp.mpr h, mul_comm, ← inf_eq] at this; omega
  unfold FTy.decode
  simp only [hs, hex, hfr]
  cases hk : t.kind
  · have hge : t.inf ≤ m := by have := hinf (.inl hk); omega
    have hne : t ≠ tyE4M3 := by rintro rfl; cases hk
    rw [hexp.mpr hge, hmod hge]
    have h0 : m - t.inf = 0 ↔ m = t.inf := by omega
    have h1 : m - t.inf < 2 ^ (t.mb - 1) ↔ m < t.inf + 2 ^ (t.mb - 1) := by omega
    simp [h0, h1, hne, hieee.mp hk]
  · have hge : t.inf ≤ m := by have := hinf (.inr hk); omega
    have hne : t ≠ tyE4M3 := by rintro rfl; cases hk
    have hno : ¬(t = tyF32 ∨ t = tyF16 ∨ t = tyBF16) := fun h => by have := hieee.mpr h; rw [hk] at this; cases this
    rw [hexp.mpr hge, hmod hge]
    have h0 : m - t.inf = 0 ↔ m = t.inf := by omega
    simp [h0, hne, hno, show (FKind.e5m2 == FKind.ieee) = false from rfl]
  · obtain ⟨hval, rfl⟩ := he4 hk
    have hm' : m = 127 := by have : tyE4M3.top = 126 := rfl; have : tyE4M3.signAt = 128 := rfl; omega
    subst hm'
    decide +revert
  · have := hfin hk
    omega

/-! ### Ranges of results -/

theorem sgn_le (t : FTy) (neg : Bool) : t.sgn neg ≤ t.signAt := by cases neg <;> simp [FTy.sgn]

theorem past_lt {t : FTy} {c : RCtx} {neg : Bool} (ht : t.known) : t.past c neg < 2 * t.signAt := by
  obtain ⟨mode, x0, satf8, ftz⟩ := c
  change t.past ⟨mode, 0#32, satf8, false⟩ neg < _
  obtain rfl | rfl | rfl | rfl | rfl | rfl | rfl | rfl := ht <;> cases mode <;> cases neg <;> cases satf8 <;> decide

/-- A rounding gives a code of its type, and never FLAGS.NV. -/
theorem roundTo_range {t : FTy} {c : RCtx} {neg : Bool} {n d : Nat} {e : Int} (ht : t.known) :
    (roundTo t c neg n d e).1 < 2 * t.signAt ∧ (roundTo t c neg n d e).2.getLsbD 0 = false := by
  have hs := sgn_le t neg
  have hp : 0 < t.signAt := by unfold FTy.signAt; positivity
  have htop := (known_top ht).2.1
  unfold FTy.sgn at hs
  unfold roundTo
  dsimp only
  refine iteInduction (motive := fun r : Nat × W32 => r.1 < 2 * t.signAt ∧ r.2.getLsbD 0 = false) (fun _ => ⟨by dsimp only; omega, by dsimp only; decide⟩) fun _ =>
    iteInduction (motive := fun r : Nat × W32 => r.1 < 2 * t.signAt ∧ r.2.getLsbD 0 = false) (fun _ => ?_) fun hcode => ⟨by dsimp only; omega, ?_⟩
  · rw [overflow_eq ht]
    exact ⟨past_lt ht, by dsimp only; decide⟩
  · dsimp only
    rw [BitVec.getLsbD_or, apply_ite (BitVec.getLsbD · 0), apply_ite (BitVec.getLsbD · 0)]
    simp [flagNX, flagUF]

theorem nan_lt {t : FTy} (ht : t.known) : t.nan < 2 * t.signAt ∧ t.signAt + t.inf < 2 * t.signAt := by
  obtain rfl | rfl | rfl | rfl | rfl | rfl | rfl | rfl := ht <;> decide

theorem nvIf_bit {b : Bool} : (nvIf b).getLsbD 0 = b := by cases b <;> rfl

end Sys2Proof.Machine
end

section
/-! Words of F32 (R52 to R54, R194), and O22: sums, differences and products with a NaN or without a value. -/

namespace Sys2Proof.Machine

/-! ### The value of an F32 word -/

theorem tyF32_known : tyF32.known := .inl rfl

/-- The magnitude of a word read as F32. -/
def magOf (w : W32) : Nat := w.toNat % 2 ^ 31

theorem magOf_lt (w : W32) : magOf w < 2 ^ 31 := Nat.mod_lt _ (by norm_num)

theorem signBit_iff (w : W32) : w.getLsbD 31 = true ↔ 2 ^ 31 ≤ w.toNat := by
  have := w.isLt
  rw [BitVec.getLsbD, Nat.testBit_eq_decide_div_mod_eq, decide_eq_true_iff]
  omega

theorem word_split (w : W32) : w.toNat = tyF32.sgn (w.getLsbD 31) + magOf w := by
  have := w.isLt
  have hs := signBit_iff w
  have h31 : tyF32.signAt = 2 ^ 31 := rfl
  unfold FTy.sgn magOf
  split <;> simp_all <;> omega

theorem decode_word_number {w : W32} (h : magOf w < 0x7F800000) :
    ∃ n e, tyF32.decode w.toNat = .num (w.getLsbD 31) n e ∧ numberOf false n e = tyF32.mag (magOf w) := by
  rw [word_split]
  exact decode_number tyF32_known (show magOf w ≤ 0x7F7FFFFF by omega)

theorem decode_word_inf {w : W32} (h : magOf w = 0x7F800000) : tyF32.decode w.toNat = .inf (w.getLsbD 31) := by
  rw [word_split, decode_special tyF32_known (show 0x7F7FFFFF < magOf w by omega) (magOf_lt w), if_pos ⟨h, by decide⟩]

theorem decode_word_nan {w : W32} (h : 0x7F800000 < magOf w) : tyF32.decode w.toNat = .nan (decide (magOf w < 0x7FC00000)) := by
  rw [word_split, decode_special tyF32_known (show 0x7F7FFFFF < magOf w by omega) (magOf_lt w), if_neg (fun hi => by
    have : tyF32.inf = 0x7F800000 := rfl
    omega)]
  congr 1
  exact decide_eq_decide.mpr ⟨fun ⟨_, hq⟩ => hq, fun hq => ⟨.inl rfl, hq⟩⟩

theorem decode_isNan (w : W32) : (tyF32.decode w.toNat).isNan = decide (0x7F800000 < magOf w) := by
  obtain h | h | h := lt_trichotomy (magOf w) 0x7F800000
  · obtain ⟨n, e, hd, -⟩ := decode_word_number h
    simp [hd, Val.isNan, h.le]
  · simp [decode_word_inf h, Val.isNan, h]
  · simp [decode_word_nan h, Val.isNan, h]

theorem decode_isSnan (w : W32) : (tyF32.decode w.toNat).isSnan = decide (0x7F800000 < magOf w ∧ magOf w < 0x7FC00000) := by
  obtain h | h | h := lt_trichotomy (magOf w) 0x7F800000
  · obtain ⟨n, e, hd, -⟩ := decode_word_number h
    simp [hd, Val.isSnan, h.not_gt]
  · simp [decode_word_inf h, Val.isSnan, h]
  · simp [decode_word_nan h, Val.isSnan, h]

/-! ### Flushed sources (R54) -/

theorem signMask_toNat (w : W32) : (w &&& 0x80000000#32).toNat = tyF32.sgn (w.getLsbD 31) := by
  have h : (0x80000000#32).toNat = 2 ^ 31 := rfl
  rw [BitVec.toNat_and, h, Nat.and_two_pow]
  show (w.getLsbD 31).toNat * 2 ^ 31 = _
  cases w.getLsbD 31 <;> rfl

theorem signMask_bit (w : W32) : (w &&& 0x80000000#32).getLsbD 31 = w.getLsbD 31 := by
  rw [BitVec.getLsbD_and, show (0x80000000#32).getLsbD 31 = true by decide, Bool.and_true]

theorem signMask_mag (w : W32) : magOf (w &&& 0x80000000#32) = 0 := by
  rw [magOf, signMask_toNat]
  cases w.getLsbD 31 <;> rfl

/-- A word as an F32 source, a subnormal under FTZ being a zero of its sign. -/
def flushWord (ftz : Bool) (w : W32) : W32 := if ftz = true ∧ magOf w < 0x00800000 then w &&& 0x80000000#32 else w

theorem flushWord_sign (ftz : Bool) (w : W32) : (flushWord ftz w).getLsbD 31 = w.getLsbD 31 := by
  unfold flushWord
  split
  · exact signMask_bit w
  · rfl

theorem flushWord_mag (ftz : Bool) (w : W32) : magOf (flushWord ftz w) = if ftz = true ∧ magOf w < 0x00800000 then 0 else magOf w := by
  unfold flushWord
  split
  · exact signMask_mag w
  · rfl

theorem flush_eq (w : W32) : tyF32.flush w.toNat = (if magOf w < 0x00800000 then w &&& 0x80000000#32 else w).toNat := by
  have hlt := w.isLt
  have hs := signBit_iff w
  rw [apply_ite BitVec.toNat, signMask_toNat]
  unfold FTy.flush
  simp only [show tyF32.flushes = true from rfl, Bool.true_and, beq_iff_eq, show tyF32.mb = 23 from rfl, show tyF32.eb = 8 from rfl,
    show tyF32.signAt = 2 ^ 31 from rfl, FTy.sgn, magOf]
  split <;> split
  · split <;> simp_all <;> omega
  · omega
  · omega
  · rfl

theorem flush_toNat (ftz : Bool) (w : W32) : (if ftz = true then tyF32.flush w.toNat else w.toNat) = (flushWord ftz w).toNat := by
  unfold flushWord
  cases ftz
  · simp
  · simpa using flush_eq w

theorem fsrc_eq (s : State) (r : BitVec 7) (l : Nat) : fsrc s r l = tyF32.decode (flushWord (modeFtz s) (src s r l)).toNat := by
  rw [← flush_toNat]; rfl

theorem flushed_eq (s : State) (w : W32) : flushed s w = flushWord (modeFtz s) w := by
  unfold flushed
  apply BitVec.eq_of_toNat_eq
  rw [← flush_toNat]
  split
  · rw [BitVec.toNat_ofNat, flush_eq, Nat.mod_eq_of_lt (BitVec.isLt _)]
  · rfl

/-! ### Values by their words -/

theorem decode_inf_iff {w : W32} {p : Bool} : tyF32.decode w.toNat = .inf p ↔ magOf w = 0x7F800000 ∧ w.getLsbD 31 = p := by
  obtain h | h | h := lt_trichotomy (magOf w) 0x7F800000
  · obtain ⟨n, e, hd, -⟩ := decode_word_number h
    simp [hd, h.ne]
  · simp [decode_word_inf h, h]
  · simp [decode_word_nan h, h.ne']

theorem mag_eq_zero_iff {t : FTy} {m : Nat} : t.mag m = 0 ↔ m = 0 := by
  rw [← mag_zero t, (mag_strictMono t).injective.eq_iff]

theorem decode_zero_iff {w : W32} : (∃ p e, tyF32.decode w.toNat = .num p 0 e) ↔ magOf w = 0 := by
  obtain h | h | h := lt_trichotomy (magOf w) 0x7F800000
  · obtain ⟨n, e, hd, hv⟩ := decode_word_number h
    rw [← mag_eq_zero_iff (t := tyF32), ← hv, numberOf_eq_zero, hd]
    simp
  · simp [decode_word_inf h, h]
  · simp only [decode_word_nan h, reduceCtorEq, exists_false, false_iff]
    omega

/-! ### NaN and invalid operations (R53, R195) -/

theorem zero_noNv : (0#32 : W32).getLsbD 0 = false := by decide

/-- A result that is the canonical NaN where a source is a NaN or the operation is invalid, FLAGS.NV with a signalling NaN or an invalid operation. -/
def Raises (t : FTy) (nan snan invalid : Prop) (r : Nat × W32) : Prop :=
  (nan ∨ invalid → r.1 = t.nan) ∧ (r.2.getLsbD 0 = true ↔ snan ∨ (¬nan ∧ invalid))

theorem isNan_of_isSnan {x : Val} (h : x.isSnan = true) : x.isNan = true := by cases x <;> simp_all [Val.isNan, Val.isSnan]

theorem raises_nan {t : FTy} {x y : Val} {invalid : Prop} (h : x.isNan = true ∨ y.isNan = true) :
    Raises t (x.isNan = true ∨ y.isNan = true) (x.isSnan = true ∨ y.isSnan = true) invalid (t.nan, nvIf (x.isSnan || y.isSnan)) :=
  ⟨fun _ => rfl, by rw [nvIf_bit, Bool.or_eq_true]; simp [h]⟩

/-- A result with no NaN among the sources of an operation that is not invalid. -/
theorem raises_none {t : FTy} {x y : Val} {invalid : Prop} {r : Nat × W32} (h : ¬(x.isNan = true ∨ y.isNan = true)) (hi : ¬invalid)
    (hr : r.2.getLsbD 0 = false) : Raises t (x.isNan = true ∨ y.isNan = true) (x.isSnan = true ∨ y.isSnan = true) invalid r :=
  ⟨fun g => absurd g (not_or.mpr ⟨h, hi⟩), iff_of_false (by rw [hr]; exact Bool.false_ne_true) fun g => g.elim (fun g => h (g.imp isNan_of_isSnan isNan_of_isSnan)) fun g => hi g.2⟩

theorem raises_invalid {t : FTy} {x y : Val} {invalid : Prop} (h : ¬(x.isNan = true ∨ y.isNan = true)) (hi : invalid) :
    Raises t (x.isNan = true ∨ y.isNan = true) (x.isSnan = true ∨ y.isSnan = true) invalid (Machine.invalid t) :=
  ⟨fun _ => rfl, iff_of_true (show (1#32 : W32).getLsbD 0 = true by decide) (.inr ⟨h, hi⟩)⟩

theorem roundSum_noNv {t : FTy} {c : RCtx} {p : Bool} {m : Nat} {e : Int} {q : Bool} {n : Nat} {f : Int} (ht : t.known) :
    (roundSum t c p m e q n f).2.getLsbD 0 = false := by
  unfold roundSum
  dsimp only
  exact iteInduction (motive := fun r : Nat × W32 => r.2.getLsbD 0 = false) (fun _ => zero_noNv) fun _ => (roundTo_range ht).2

theorem roundVal_noNv {t : FTy} {c : RCtx} {p : Bool} {m : Nat} {e : Int} (ht : t.known) : (roundVal t c (.num p m e)).2.getLsbD 0 = false :=
  iteInduction (motive := fun r : Nat × W32 => r.2.getLsbD 0 = false) (fun _ => zero_noNv) fun _ => (roundTo_range ht).2

theorem addVal_raises {t : FTy} {c : RCtx} {x y : Val} (ht : t.known) :
    Raises t (x.isNan = true ∨ y.isNan = true) (x.isSnan = true ∨ y.isSnan = true) (∃ p, x = .inf p ∧ y = .inf (!p)) (addVal t c x y) := by
  by_cases hn : x.isNan = true ∨ y.isNan = true
  · rw [addVal_nan hn]
    exact raises_nan hn
  cases x with
  | nan a => exact absurd (.inl rfl) hn
  | inf a =>
    cases y with
    | nan b => exact absurd (.inr rfl) hn
    | inf b =>
      by_cases hab : a = b
      · subst hab
        exact raises_none hn (by simp) (by simp [addVal])
      · have hb : b = !a := by cases a <;> cases b <;> simp_all
        have hval : addVal t c (.inf a) (.inf b) = Machine.invalid t := by simp [addVal, hab]
        rw [hval]
        exact raises_invalid hn ⟨a, rfl, by rw [hb]⟩
    | num q n f => exact raises_none hn (by simp) zero_noNv
  | num p m e =>
    cases y with
    | nan b => exact absurd (.inr rfl) hn
    | inf b => exact raises_none hn (by simp) zero_noNv
    | num q n f => exact raises_none hn (by simp) (roundSum_noNv ht)

theorem subVal_raises {t : FTy} {c : RCtx} {x y : Val} (ht : t.known) :
    Raises t (x.isNan = true ∨ y.isNan = true) (x.isSnan = true ∨ y.isSnan = true) (∃ p, x = .inf p ∧ y = .inf p) (subVal t c x y) := by
  have hneg : ∀ p, y.negate = .inf (!p) ↔ y = .inf p := fun p => by cases y <;> simp [Val.negate]
  by_cases h : ∃ p m e q n f, x = .num p m e ∧ y = .num q n f
  · obtain ⟨p, m, e, q, n, f, rfl, rfl⟩ := h
    refine raises_none (by simp [Val.isNan]) (by simp) ?_
    by_cases hz : m = 0 ∧ n = 0
    · obtain ⟨rfl, rfl⟩ := hz; exact zero_noNv
    · rw [subVal_num hz]
      exact roundSum_noNv ht
  · rw [subVal_eq_addVal (by by_contra hc; push Not at hc; obtain ⟨⟨p, m, e, hx⟩, q, n, f, hy⟩ := hc; exact h ⟨p, m, e, q, n, f, hx, hy⟩)]
    have := addVal_raises (c := c) (x := x) (y := y.negate) ht
    simpa only [negate_isNan, negate_isSnan, hneg] using this

theorem mulVal_raises {t : FTy} {c : RCtx} {x y : Val} (ht : t.known) :
    Raises t (x.isNan = true ∨ y.isNan = true) (x.isSnan = true ∨ y.isSnan = true)
      (((∃ p e, x = .num p 0 e) ∧ ∃ q, y = .inf q) ∨ ((∃ q, x = .inf q) ∧ ∃ p e, y = .num p 0 e)) (mulVal t c x y) := by
  by_cases hn : x.isNan = true ∨ y.isNan = true
  · rw [mulVal_nan hn]
    exact raises_nan hn
  cases x with
  | nan a => exact absurd (.inl rfl) hn
  | inf a =>
    cases y with
    | nan b => exact absurd (.inr rfl) hn
    | inf b => exact raises_none hn (by simp) zero_noNv
    | num q n f =>
      by_cases h0 : n = 0
      · subst h0
        exact raises_invalid hn (.inr ⟨⟨a, rfl⟩, q, f, rfl⟩)
      · exact raises_none hn (by simp [h0]) (by simp [mulVal, mulExact, Val.isNan, h0, roundVal])
  | num p m e =>
    cases y with
    | nan b => exact absurd (.inr rfl) hn
    | inf b =>
      by_cases h0 : m = 0
      · subst h0
        exact raises_invalid hn (.inl ⟨⟨p, e, rfl⟩, b, rfl⟩)
      · exact raises_none hn (by simp [h0]) (by simp [mulVal, mulExact, Val.isNan, h0, roundVal])
    | num q n f => exact raises_none hn (by simp) (roundVal_noNv ht)

/-! ### The statement -/

/-- What a lane form of two sources does where a lane's result is Raises. -/
theorem laneFlags_raise {i : Instr} {s : State} {d : BitVec 7} {r : Nat → Nat × W32} {nan snan invalid : Nat → Prop}
    (h : exec i s = .next (laneFlagEffect s d fun l => asWord (r l))) (hr : ∀ l, Raises tyF32 (nan l) (snan l) (invalid l) (r l)) :
    ∃ t, exec i s = .next t ∧ (∀ l, (activeMask s).getLsbD l = true → nan l ∨ invalid l → t.pod.lane d.toNat l = 0x7FC00000#32) ∧
      (t.team.flags.getLsbD 0 = true ↔ s.team.flags.getLsbD 0 = true ∨ ∃ l, (activeMask s).getLsbD l = true ∧ (snan l ∨ (¬nan l ∧ invalid l))) := by
  obtain ⟨t, ht, -, -, hlane, hflags⟩ := laneFlagWrites_of h
  refine ⟨t, ht, fun l hl hn => ?_, ?_⟩
  · rw [hlane l hl]
    show BitVec.ofNat 32 (r l).1 = _
    rw [(hr l).1 hn]
    rfl
  · rw [hflags]
    exact or_congr_right (exists_congr fun l => and_congr_right fun _ => (hr l).2)

/-- Settles O22: what sums, differences and products raise, with the sources read as words. -/
theorem floatInvalid : Obligations.FloatInvalid := by
  intro f d a b s mag neg nan snan inf zero bad
  let x (r : BitVec 7) (l : Nat) : W32 := flushWord (modeFtz s) (src s r l)
  have hmag : ∀ r l, magOf (x r l) = if modeFtz s = true ∧ mag r l < 0x00800000 then 0 else mag r l := fun r l => flushWord_mag _ _
  have hnan : ∀ r l, (fsrc s r l).isNan = true ↔ 0x7F800000 < mag r l := fun r l => by
    rw [fsrc_eq, decode_isNan, decide_eq_true_iff]; change _ < magOf (x r l) ↔ _; rw [hmag]; split <;> omega
  have hsnan : ∀ r l, (fsrc s r l).isSnan = true ↔ 0x7F800000 < mag r l ∧ mag r l < 0x7FC00000 := fun r l => by
    rw [fsrc_eq, decode_isSnan, decide_eq_true_iff]; change _ < magOf (x r l) ∧ magOf (x r l) < _ ↔ _; rw [hmag]; split <;> omega
  have hinf : ∀ r l p, fsrc s r l = .inf p ↔ inf r l ∧ neg r l = p := fun r l p => by
    rw [fsrc_eq, decode_inf_iff, flushWord_sign]; change magOf (x r l) = _ ∧ _ ↔ _; rw [hmag]
    refine and_congr_left fun _ => ?_
    show _ ↔ mag r l = 0x7F800000
    split <;> omega
  have hzero : ∀ r l, (∃ p e, fsrc s r l = .num p 0 e) ↔ zero r l := fun r l => by
    rw [fsrc_eq, decode_zero_iff]; change magOf (x r l) = 0 ↔ mag r l = 0 ∨ (modeFtz s = true ∧ mag r l < 0x00800000); rw [hmag]
    split <;> simp_all
  refine ⟨laneFlags_raise rfl fun l => ?_, laneFlags_raise rfl fun l => ?_, laneFlags_raise rfl fun l => ?_⟩
  · have h := addVal_raises (c := vectorCtx s f) (x := fsrc s a l) (y := fsrc s b l) tyF32_known
    simp only [hnan, hsnan, hinf] at h
    convert h using 1
    refine ⟨fun ⟨ha, hb, hs⟩ => ⟨neg a l, ⟨ha, rfl⟩, hb, ?_⟩, fun ⟨p, ⟨ha, hp⟩, hb, hq⟩ => ⟨ha, hb, by rw [hp, hq]; cases p <;> decide⟩⟩
    cases h₁ : neg a l <;> cases h₂ : neg b l <;> simp_all
  · have h := subVal_raises (c := vectorCtx s f) (x := fsrc s a l) (y := fsrc s b l) tyF32_known
    simp only [hnan, hsnan, hinf] at h
    convert h using 1
    exact ⟨fun ⟨ha, hb, hs⟩ => ⟨neg a l, ⟨ha, rfl⟩, hb, hs.symm⟩, fun ⟨p, ⟨ha, hp⟩, hb, hq⟩ => ⟨ha, hb, by rw [hp, hq]⟩⟩
  · have h := mulVal_raises (c := vectorCtx s f) (x := fsrc s a l) (y := fsrc s b l) tyF32_known
    simp only [hnan, hsnan, hinf, hzero, exists_and_left, exists_eq', and_true] at h
    exact h

end Sys2Proof.Machine
end

section
/-! O23: FMIN, FMAX, FABS, FNEG and FCMP, by the order of the codes (R54, R196 to R198). -/

namespace Sys2Proof.Machine

/-! ### Words that are NaN -/

/-- Whether a word is a NaN. -/
def nanWord (w : W32) : Bool := decide (0x7F800000 < magOf w)

/-- Whether a word is a signalling NaN: a NaN whose first fraction bit is 0. -/
def snanWord (w : W32) : Bool := nanWord w && !w.getLsbD 22

theorem isNan_eq (w : W32) : (tyF32.decode w.toNat).isNan = nanWord w := decode_isNan w

theorem isSnan_eq (w : W32) : (tyF32.decode w.toNat).isSnan = snanWord w := by
  have hlt := magOf_lt w
  rw [decode_isSnan, snanWord, nanWord, BitVec.getLsbD, Nat.testBit_eq_decide_div_mod_eq, Bool.eq_iff_iff]
  have hbit : w.toNat / 2 ^ 22 % 2 = magOf w / 2 ^ 22 % 2 := by unfold magOf; omega
  simp only [decide_eq_true_iff, Bool.and_eq_true, Bool.not_eq_true', decide_eq_false_iff_not, hbit]
  omega

theorem nanWord_flushWord (ftz : Bool) (w : W32) : nanWord (flushWord ftz w) = nanWord w := by
  rw [nanWord, nanWord, flushWord_mag, decide_eq_decide]
  split <;> omega

theorem snanWord_flushWord (ftz : Bool) (w : W32) : snanWord (flushWord ftz w) = snanWord w := by
  rw [← isSnan_eq, ← isSnan_eq, decode_isSnan, decode_isSnan, flushWord_mag, decide_eq_decide]
  split <;> omega

/-! ### FMIN and FMAX -/

theorem orderKey_eq (w : W32) : orderKey w = if w.getLsbD 31 = true then -((w.toNat % 2 ^ 31 : Nat) : Int) - 1 else (w.toNat : Int) := by
  unfold orderKey
  rw [BitVec.toNat_and, show (0x7FFFFFFF#32).toNat = 2 ^ 31 - 1 from rfl, Nat.and_two_pow_sub_one_eq_mod]

/-- R196: the choice of FMIN and FMAX between two words. -/
theorem fminmax_eq (s : State) (greater : Bool) (a b : W32) :
    let x := flushWord (modeFtz s) a
    let y := flushWord (modeFtz s) b
    fminmax s greater a b = (if nanWord x && nanWord y then 0x7FC00000#32 else if nanWord x then y else if nanWord y then x
      else if (if greater then decide (orderKey x < orderKey y) else decide (orderKey y < orderKey x)) then y else x,
      nvIf (snanWord x || snanWord y)) := by
  simp only [fminmax, flushed_eq, isNan_eq, isSnan_eq]

/-! ### FABS and FNEG -/

/-- R197: a sign operation on a word. -/
theorem signOp_eq (s : State) (f : W32 → W32) (a : W32) :
    let x := flushWord (modeFtz s) a
    signOp s f a = (if nanWord x then 0x7FC00000#32 else f x, nvIf (snanWord x)) := by
  dsimp only
  rw [signOp, flushed_eq, isNan_eq, isSnan_eq, nanWord_flushWord, snanWord_flushWord]
  split
  · rfl
  · next h => rw [snanWord, Bool.eq_false_iff.mpr h]; rfl

/-! ### The order of values (R198) -/

/-- The magnitude of a word with its sign. -/
def signedMag (w : W32) : Int := if w.getLsbD 31 = true then -((w.toNat % 2 ^ 31 : Nat) : Int) else (w.toNat : Int)

theorem signedMag_eq (w : W32) : signedMag w = if w.getLsbD 31 = true then -(magOf w : Int) else (magOf w : Int) := by
  have hs := word_split w
  unfold signedMag
  split
  · rfl
  · next h => rw [hs, FTy.sgn, if_neg h, Nat.zero_add]

/-- The number of a word by its sign and magnitude. -/
theorem decode_word_signed {w : W32} (h : magOf w < 0x7F800000) :
    ∃ n e, tyF32.decode w.toNat = .num (w.getLsbD 31) n e ∧ numberOf (w.getLsbD 31) n e = if w.getLsbD 31 = true then -tyF32.mag (magOf w) else tyF32.mag (magOf w) := by
  obtain ⟨n, e, hd, hv⟩ := decode_word_number h
  refine ⟨n, e, hd, ?_⟩
  rw [← hv]
  cases w.getLsbD 31 <;> simp [numberOf]

/-- Signed magnitudes stand in the order of their codes. -/
theorem signed_lt_iff {t : FTy} {p q : Bool} {a b : Nat} :
    (if p = true then -t.mag a else t.mag a) < (if q = true then -t.mag b else t.mag b) ↔
      (if p = true then -(a : Int) else (a : Int)) < if q = true then -(b : Int) else (b : Int) := by
  have hmono := mag_strictMono t
  have h0 : ∀ k, 0 ≤ t.mag k := fun k => mag_zero t ▸ hmono.monotone (Nat.zero_le k)
  have ha := h0 a
  have hb := h0 b
  cases p <;> cases q <;> simp only [if_true, Bool.false_eq_true, if_false]
  · rw [hmono.lt_iff_lt]; omega
  · exact iff_of_false (by linarith) (by omega)
  · rw [← not_le, ← not_le, not_iff_not]
    constructor
    · intro h
      have hza : a = 0 := mag_eq_zero_iff.mp (by linarith : t.mag a = 0)
      have hzb : b = 0 := mag_eq_zero_iff.mp (by linarith : t.mag b = 0)
      omega
    · intro h
      obtain ⟨rfl, rfl⟩ : a = 0 ∧ b = 0 := by omega
      rw [mag_zero]; simp
  · rw [neg_lt_neg_iff, hmono.lt_iff_lt]; omega

/-- R198: words that are no NaN compare as their signed magnitudes do. -/
theorem lt_iff_signedMag {x y : W32} (hx : nanWord x = false) (hy : nanWord y = false) :
    (tyF32.decode x.toNat).lt (tyF32.decode y.toNat) = true ↔ signedMag x < signedMag y := by
  have hx' : magOf x ≤ 0x7F800000 := not_lt.mp (decide_eq_false_iff_not.mp hx)
  have hy' : magOf y ≤ 0x7F800000 := not_lt.mp (decide_eq_false_iff_not.mp hy)
  rw [signedMag_eq, signedMag_eq]
  obtain hx | hx := hx'.lt_or_eq
  · obtain ⟨n, e, hd, hv⟩ := decode_word_signed hx
    obtain hy | hy := hy'.lt_or_eq
    · obtain ⟨m, f, hd', hv'⟩ := decode_word_signed hy
      rw [← signed_lt_iff (t := tyF32), ← hv, ← hv', hd, hd']
      simp only [Val.lt, decide_eq_true_iff]
      rw [exactSum_sign.1, numberOf_not, ← sub_eq_add_neg, sub_neg]
    · rw [hd, decode_word_inf hy, hy]
      simp only [Val.lt, Bool.not_eq_true']
      cases x.getLsbD 31 <;> cases y.getLsbD 31 <;> simp <;> omega
  · rw [decode_word_inf hx, hx]
    obtain hy | hy := hy'.lt_or_eq
    · obtain ⟨m, f, hd', -⟩ := decode_word_signed hy
      rw [hd']
      simp only [Val.lt]
      cases x.getLsbD 31 <;> cases y.getLsbD 31 <;> simp <;> omega
    · rw [decode_word_inf hy, hy]
      simp only [Val.lt]
      split <;> split <;> simp_all

/-- R198: the comparisons of FCMP, by the signed magnitudes of its sources. -/
theorem fcmpTest_eq (f : BitVec 3) (x y : W32) :
    fcmpTest f (tyF32.decode x.toNat) (tyF32.decode y.toNat) =
      if nanWord x || nanWord y then (f == 1#3 || f == 6#3, nvIf (snanWord x || snanWord y || f == 2#3 || f == 3#3 || f == 4#3 || f == 5#3))
      else (match f.toNat with
        | 0 => decide (signedMag x = signedMag y) | 1 => decide (signedMag x ≠ signedMag y) | 2 => decide (signedMag x < signedMag y)
        | 3 => decide (signedMag x ≤ signedMag y) | 4 => decide (signedMag y < signedMag x) | 5 => decide (signedMag y ≤ signedMag x)
        | _ => false, 0#32) := by
  unfold fcmpTest
  rw [isNan_eq, isNan_eq, isSnan_eq, isSnan_eq]
  split
  · rfl
  · next h =>
    obtain ⟨hx, hy⟩ : nanWord x = false ∧ nanWord y = false := by simpa using h
    have hlt : (tyF32.decode x.toNat).lt (tyF32.decode y.toNat) = decide (signedMag x < signedMag y) := by
      rw [Bool.eq_iff_iff, lt_iff_signedMag hx hy, decide_eq_true_iff]
    have hgt : (tyF32.decode y.toNat).lt (tyF32.decode x.toNat) = decide (signedMag y < signedMag x) := by
      rw [Bool.eq_iff_iff, lt_iff_signedMag hy hx, decide_eq_true_iff]
    dsimp only
    rw [hlt, hgt]
    congr 1
    generalize f.toNat = k
    obtain h | h | h := lt_trichotomy (signedMag x) (signedMag y)
    · rcases k with _ | _ | _ | _ | _ | _ | k <;> simp [h, h.le, h.ne, h.not_gt, h.not_ge]
    · rcases k with _ | _ | _ | _ | _ | _ | k <;> simp [h]
    · rcases k with _ | _ | _ | _ | _ | _ | k <;> simp [h, h.le, h.ne', h.not_gt, h.not_ge]

/-- A comparison of FCMP writes its bits and raises its flags. -/
theorem fcmp_writes (f p : BitVec 3) (a b : BitVec 7) (s : State) (bit : Nat → Bool) (flags : Nat → W32)
    (h : ∀ l, fcmpTest f (fsrc s a l) (fsrc s b l) = (bit l, flags l)) : PredWrites (.fcmp f p a b) s p bit flags := by
  have hbit : bit = fun l => (fcmpTest f (fsrc s a l) (fsrc s b l)).1 := funext fun l => by rw [h l]
  have hflags : flags = fun l => (fcmpTest f (fsrc s a l) (fsrc s b l)).2 := funext fun l => by rw [h l]
  rw [hbit, hflags]
  exact predWrites_of rfl

/-- Settles O23: each form by its result on words. -/
theorem floatComparisons : Obligations.FloatComparisons := by
  intro p d a b s flush x y nan snan order value nv pick un sn
  have hminmax : ∀ greater l, fminmax s greater (src s a l) (src s b l) =
      (pick l (if greater then decide (order (x l) < order (y l)) else decide (order (y l) < order (x l))), sn l) := fun greater l => by
    rw [fminmax_eq, orderKey_eq, orderKey_eq]; rfl
  have hlane : ∀ (i : Instr) (f : Nat → W32 × W32) (word flags : Nat → W32), exec i s = .next (laneFlagEffect s d f) → (∀ l, f l = (word l, flags l)) →
      LaneFlagWrites i s d word flags := fun i f word flags hi hf => by
    obtain rfl : f = fun l => (word l, flags l) := funext hf
    exact laneFlagWrites_of hi
  have hsrc : ∀ f l, fcmpTest f (fsrc s a l) (fsrc s b l) = fcmpTest f (tyF32.decode (x l).toNat) (tyF32.decode (y l).toNat) := fun f l => by
    rw [fsrc_eq, fsrc_eq]; rfl
  refine ⟨hlane _ _ _ _ rfl fun l => hminmax false l, hlane _ _ _ _ rfl fun l => hminmax true l, hlane _ _ _ _ rfl fun l => signOp_eq s _ _,
    hlane _ _ _ _ rfl fun l => signOp_eq s _ _, ?_, ?_, ?_, ?_, ?_, ?_, ?_⟩
  all_goals
    refine fcmp_writes _ _ _ _ _ _ _ fun l => (hsrc _ l).trans ((fcmpTest_eq _ (x l) (y l)).trans ?_)
    have hun : un l = (nanWord (x l) || nanWord (y l)) := rfl
    have hsn : sn l = nvIf (snanWord (x l) || snanWord (y l)) := rfl
    cases hx : nanWord (x l) <;> cases hy : nanWord (y l) <;> simp [hun, hsn, hx, hy, snanWord, nv, nvIf, flagNV, value, signedMag]

end Sys2Proof.Machine
end

section
/-! O25, part 1: arithmetic in every float type (R52 to R60, R195), and the sums of R219. -/

namespace Sys2Proof.Machine

/-! ### Codes and finite arithmetic -/

theorem code_split {t : FTy} {code : Nat} (h : code < 2 * t.signAt) :
    code = t.sgn (decide (t.signAt ≤ code)) + code % t.signAt ∧ code % t.signAt < t.signAt := by
  have hp : 0 < t.signAt := by unfold FTy.signAt; positivity
  refine ⟨?_, Nat.mod_lt _ hp⟩
  unfold FTy.sgn
  by_cases hs : t.signAt ≤ code
  · rw [decide_eq_true hs, if_pos rfl, Nat.mod_eq_sub_mod hs, Nat.mod_eq_of_lt (by omega)]; omega
  · rw [decide_eq_false hs, Nat.mod_eq_of_lt (not_le.mp hs)]; simp

theorem fmaVal_num {t : FTy} {c : RCtx} {p q : Bool} {m n : Nat} {e f : Int} {z : Val} :
    fmaVal t c (.num p m e) (.num q n f) z = addVal t c (.num (p != q) (m * n) (e + f)) z := rfl

/-- R60, R195: a fused form of numbers rounds its exact value once. -/
theorem fmaVal_spec {t : FTy} {c : RCtx} {p q g : Bool} {m n k : Nat} {e f h : Int} (ht : t.known)
    (hs : numberOf p m e * numberOf q n f + numberOf g k h ≠ 0) :
    RoundsTo t c (decide (numberOf p m e * numberOf q n f + numberOf g k h < 0)) |((numberOf p m e * numberOf q n f + numberOf g k h : ℚ) : ℝ)|
      (fmaVal t c (.num p m e) (.num q n f) (.num g k h)) := by
  rw [numberOf_mul] at hs ⊢
  exact roundSum_spec ht hs

theorem fmaVal_zero {t : FTy} {c : RCtx} {p q g : Bool} {m n k : Nat} {e f h : Int} (hs : numberOf p m e * numberOf q n f + numberOf g k h = 0) :
    fmaVal t c (.num p m e) (.num q n f) (.num g k h) =
      (t.sgn (if numberOf p m e * numberOf q n f = 0 ∧ (p != q) = g then g else decide (c.mode = .rdn)), 0#32) := by
  rw [numberOf_mul] at hs ⊢
  refine (roundSum_zero hs).trans ?_
  have hk : m * n = 0 → k = 0 := fun hz => by
    rw [numberOf_eq_zero.mpr hz, zero_add, numberOf_eq_zero] at hs
    exact hs
  unfold FTy.sgn
  simp only [numberOf_eq_zero]
  by_cases hz : m * n = 0 ∧ (p != q) = g
  · rw [if_pos (⟨hz.1, hk hz.1, hz.2⟩ : m * n = 0 ∧ k = 0 ∧ (p != q) = g), if_pos hz, hz.2]
  · rw [if_neg (fun h => hz ⟨h.1, h.2.2⟩ : ¬(m * n = 0 ∧ k = 0 ∧ (p != q) = g)), if_neg hz]

/-! ### Infinities -/

theorem addVal_inf_inf {t : FTy} {c : RCtx} (p q : Bool) :
    addVal t c (.inf p) (.inf q) = if p = q then (t.sgn p + t.inf, 0#32) else (t.nan, 1#32) := by
  cases p <;> cases q <;> rfl

theorem subVal_inf_inf {t : FTy} {c : RCtx} (p q : Bool) :
    subVal t c (.inf p) (.inf q) = if p = q then (t.nan, 1#32) else (t.sgn p + t.inf, 0#32) := by
  cases p <;> cases q <;> rfl

theorem mulExact_inf_num (p q : Bool) (m : Nat) (e : Int) : mulExact (.inf p) (.num q m e) = if m = 0 then none else some (.inf (p != q)) := by
  simp [mulExact]

theorem mulExact_num_inf (p q : Bool) (m : Nat) (e : Int) : mulExact (.num q m e) (.inf p) = if m = 0 then none else some (.inf (q != p)) := by
  simp [mulExact]

theorem mulVal_none {t : FTy} {c : RCtx} {x y : Val} (hx : x.isNan = false) (hy : y.isNan = false) (h : mulExact x y = none) :
    mulVal t c x y = (t.nan, 1#32) := by
  unfold mulVal
  rw [if_neg (by simp [hx, hy]), h]
  rfl

theorem mulVal_some {t : FTy} {c : RCtx} {x y p : Val} (hx : x.isNan = false) (hy : y.isNan = false) (h : mulExact x y = some p) :
    mulVal t c x y = roundVal t c p := by
  unfold mulVal
  rw [if_neg (by simp [hx, hy]), h]

theorem mulVal_inf_num {t : FTy} {c : RCtx} (p q : Bool) (m : Nat) (e : Int) :
    mulVal t c (.inf p) (.num q m e) = if m = 0 then (t.nan, 1#32) else (t.sgn (p != q) + t.inf, 0#32) := by
  split
  · next h => exact mulVal_none rfl rfl ((mulExact_inf_num p q m e).trans (if_pos h))
  · next h => exact mulVal_some rfl rfl ((mulExact_inf_num p q m e).trans (if_neg h))

theorem mulVal_num_inf {t : FTy} {c : RCtx} (p q : Bool) (m : Nat) (e : Int) :
    mulVal t c (.num q m e) (.inf p) = if m = 0 then (t.nan, 1#32) else (t.sgn (q != p) + t.inf, 0#32) := by
  split
  · next h => exact mulVal_none rfl rfl ((mulExact_num_inf p q m e).trans (if_pos h))
  · next h => exact mulVal_some rfl rfl ((mulExact_num_inf p q m e).trans (if_neg h))

/-! ### The arithmetic of a float type -/

/-- The clauses of O25 on a float type's roundings, codes, and arithmetic. -/
theorem floatType_arithmetic (t : FTy) (c : RCtx) (ht : t.known) :
     let sgn (b : Bool) : Nat := if b then t.signAt else 0
     let inf : Nat := (2 ^ t.eb - 1) * 2 ^ t.mb
     let nv (b : Bool) : W32 := if b then 1#32 else 0#32
     (∀ (neg : Bool) (n d : Nat) (e : Int), 0 < n → 0 < d → RoundsTo t c neg ((n : ℝ) / d * (2 : ℝ) ^ e) (roundTo t c neg n d e)) ∧
     (∀ code < 2 * t.signAt,
       let m := code % t.signAt
       let neg := decide (t.signAt ≤ code)
       (m ≤ t.top → ∃ n e, t.decode code = .num neg n e ∧ numberOf false n e = t.mag m) ∧
       (t.top < m → t.decode code = if m = inf ∧ t ≠ tyE4M3 then .inf neg else .nan (decide ((t = tyF32 ∨ t = tyF16 ∨ t = tyBF16) ∧ m < inf + 2 ^ (t.mb - 1))))) ∧
     (∀ (p q : Bool) (m n : Nat) (e f : Int),
       let sum := numberOf p m e + numberOf q n f
       let prod := numberOf p m e * numberOf q n f
       (sum ≠ 0 → RoundsTo t c (decide (sum < 0)) |(sum : ℝ)| (addVal t c (.num p m e) (.num q n f))) ∧
       (sum = 0 → addVal t c (.num p m e) (.num q n f) = (sgn (if m = 0 ∧ n = 0 ∧ p = q then p else decide (c.mode = .rdn)), 0#32)) ∧
       (sum = 0 → subVal t c (.num p m e) (.num (!q) n f) = (sgn (if m = 0 ∧ n = 0 ∧ p ≠ q then p else decide (c.mode = .rdn)), 0#32)) ∧
       (sum ≠ 0 → subVal t c (.num p m e) (.num (!q) n f) = addVal t c (.num p m e) (.num q n f)) ∧
       (prod ≠ 0 → RoundsTo t c (p != q) |(prod : ℝ)| (mulVal t c (.num p m e) (.num q n f))) ∧
       (prod = 0 → mulVal t c (.num p m e) (.num q n f) = (sgn (p != q), 0#32)) ∧
       (∀ g : Bool, fmaVal t c (.num p m e) (.num q n f) (.inf g) = (sgn g + inf, 0#32) ∧ fmaVal t c (.num p m e) (.num q n f) (.nan g) = (t.nan, nv g)) ∧
       ∀ (g : Bool) (k : Nat) (h : Int),
         let all := prod + numberOf g k h
         (all ≠ 0 → RoundsTo t c (decide (all < 0)) |(all : ℝ)| (fmaVal t c (.num p m e) (.num q n f) (.num g k h))) ∧
         (all = 0 → fmaVal t c (.num p m e) (.num q n f) (.num g k h) =
           (sgn (if prod = 0 ∧ (p != q) = g then g else decide (c.mode = .rdn)), 0#32))) ∧
     (∀ (x y z : Val) (p q : Bool) (m : Nat) (e : Int),
       (x.isNan = true ∨ y.isNan = true → addVal t c x y = (t.nan, nv (x.isSnan || y.isSnan)) ∧ mulVal t c x y = (t.nan, nv (x.isSnan || y.isSnan)) ∧
         fmaVal t c x y z = (t.nan, nv (x.isSnan || y.isSnan || z.isSnan))) ∧
       (x.isNan = true ∨ y.isNan = true → subVal t c x y = (t.nan, nv (x.isSnan || y.isSnan))) ∧
       subVal t c (.inf p) (.inf q) = (if p = q then (t.nan, 1#32) else (sgn p + inf, 0#32)) ∧
       subVal t c (.inf p) (.num q m e) = (sgn p + inf, 0#32) ∧ subVal t c (.num q m e) (.inf p) = (sgn (!p) + inf, 0#32) ∧
       addVal t c (.inf p) (.inf q) = (if p = q then (sgn p + inf, 0#32) else (t.nan, 1#32)) ∧
       addVal t c (.inf p) (.num q m e) = (sgn p + inf, 0#32) ∧ addVal t c (.num q m e) (.inf p) = (sgn p + inf, 0#32) ∧
       mulVal t c (.inf p) (.inf q) = (sgn (p != q) + inf, 0#32) ∧
       mulVal t c (.inf p) (.num q m e) = (if m = 0 then (t.nan, 1#32) else (sgn (p != q) + inf, 0#32)) ∧
       mulVal t c (.num q m e) (.inf p) = (if m = 0 then (t.nan, 1#32) else (sgn (q != p) + inf, 0#32)) ∧
       fmaVal t c (.inf p) (.num q 0 e) z = (t.nan, 1#32) ∧ fmaVal t c (.num q 0 e) (.inf p) z = (t.nan, 1#32) ∧
       fmaVal t c (.inf p) (.inf q) z = addVal t c (.inf (p != q)) z ∧
       (m ≠ 0 → fmaVal t c (.inf p) (.num q m e) z = addVal t c (.inf (p != q)) z ∧ fmaVal t c (.num q m e) (.inf p) z = addVal t c (.inf (q != p)) z)) := by
  intro sgn inf nv
  refine ⟨fun neg n d e hn hd => roundTo_spec c neg e ht hn hd, fun code hcode => ?_, fun p q m n e f => ?_, fun x y z p q m e => ?_⟩
  · obtain ⟨hsplit, hlt⟩ := code_split hcode
    refine ⟨fun hm => ?_, fun hm => ?_⟩
    · have h := decode_number (neg := decide (t.signAt ≤ code)) ht hm
      rwa [← hsplit] at h
    · have h := decode_special (neg := decide (t.signAt ≤ code)) ht hm hlt
      rwa [← hsplit] at h
  · exact ⟨roundSum_spec ht, roundSum_zero, subVal_zero, subVal_nonzero, mulVal_spec ht, mulVal_zero, fun g => ⟨rfl, rfl⟩,
      fun g k h => ⟨fmaVal_spec ht, fmaVal_zero⟩⟩
  · exact ⟨fun h => ⟨addVal_nan h, mulVal_nan h, fmaVal_nan h⟩, subVal_nan, subVal_inf_inf p q, rfl, rfl, addVal_inf_inf p q, rfl, rfl, rfl,
      mulVal_inf_num p q m e, mulVal_num_inf p q m e, rfl, rfl, rfl,
      fun hm => ⟨fmaVal_eq_addVal rfl rfl (by rw [mulExact_inf_num, if_neg hm]), fmaVal_eq_addVal rfl rfl (by rw [mulExact_num_inf, if_neg hm])⟩⟩

/-! ### Sums of words (R219) -/

theorem addVal_lt {t : FTy} {c : RCtx} {x y : Val} (ht : t.known) : (addVal t c x y).1 < 2 * t.signAt := by
  obtain ⟨hnan, hinf⟩ := nan_lt ht
  have hp : 0 < t.signAt := by unfold FTy.signAt; positivity
  have hsgn : ∀ b, t.sgn b ≤ t.signAt := sgn_le t
  by_cases hn : x.isNan = true ∨ y.isNan = true
  · rw [addVal_nan hn]; exact hnan
  cases x with
  | nan a => exact absurd (.inl rfl) hn
  | inf a =>
    cases y with
    | nan b => exact absurd (.inr rfl) hn
    | inf b =>
      rw [addVal_inf_inf]
      split
      · exact (Nat.add_le_add_right (hsgn a) _).trans_lt hinf
      · exact hnan
    | num q n f => exact (Nat.add_le_add_right (hsgn a) _).trans_lt hinf
  | num p m e =>
    cases y with
    | nan b => exact absurd (.inr rfl) hn
    | inf b => exact (Nat.add_le_add_right (hsgn b) _).trans_lt hinf
    | num q n f =>
      show (roundSum t c p m e q n f).1 < _
      unfold roundSum
      dsimp only
      exact iteInduction (motive := fun r : Nat × W32 => r.1 < 2 * t.signAt) (fun _ => (hsgn _).trans_lt (by omega)) fun _ => (roundTo_range ht).1

theorem append_halves {a b : Nat} (hb : b < 2 ^ 16) : BitVec.ofNat 32 (a * 2 ^ 16 + b) = BitVec.ofNat 16 a ++ BitVec.ofNat 16 b := by
  apply BitVec.eq_of_toNat_eq
  rw [toNat_append_eq]
  simp only [BitVec.toNat_ofNat]
  omega

theorem halves_toNat (w : W32) : (w.extractLsb' 16 16).toNat = w.toNat / 2 ^ 16 ∧ (w.extractLsb' 0 16).toNat = w.toNat % 2 ^ 16 := by
  have := w.isLt
  simp only [BitVec.extractLsb'_toNat, Nat.shiftRight_eq_div_pow]
  omega

/-- R219: AddF of a word of two BF16 halves adds each of them. -/
theorem addFWord_halves (x y : W32) :
    addFWord true x y = BitVec.ofNat 16 (addF tyBF16 (x.extractLsb' 16 16).toNat (y.extractLsb' 16 16).toNat) ++
      BitVec.ofNat 16 (addF tyBF16 (x.extractLsb' 0 16).toNat (y.extractLsb' 0 16).toNat) := by
  rw [(halves_toNat x).1, (halves_toNat x).2, (halves_toNat y).1, (halves_toNat y).2]
  exact append_halves (addVal_lt (t := tyBF16) (.inr (.inr (.inl rfl))))

end Sys2Proof.Machine
end

section
/-! O25, part 2: roundings of reals that no quotient gives: square roots (R202), and values beyond the range of F32. -/

namespace Sys2Proof.Machine

/-! ### Integer square roots -/

theorem isqrtGo_spec {n : Nat} : ∀ {k r : Nat}, r * r ≤ n → n < (r + 2 ^ k) * (r + 2 ^ k) →
    isqrtGo n k r * isqrtGo n k r ≤ n ∧ n < (isqrtGo n k r + 1) * (isqrtGo n k r + 1)
  | 0, r, hlow, hhigh => ⟨hlow, hhigh⟩
  | k + 1, r, hlow, hhigh => by
    unfold isqrtGo
    dsimp only
    split
    · next h => exact isqrtGo_spec h (by rwa [Nat.add_assoc, ← two_mul, ← Nat.pow_succ'])
    · next h => exact isqrtGo_spec hlow (not_le.mp h)

theorem isqrt_spec (n : Nat) : isqrt n * isqrt n ≤ n ∧ n < (isqrt n + 1) * (isqrt n + 1) := by
  refine isqrtGo_spec (Nat.zero_le _) ?_
  rw [Nat.zero_add, ← Nat.pow_add]
  exact Nat.lt_log2_self.trans_le (Nat.pow_le_pow_right two_pos (by omega))

/-! ### A last bit that stands for what is left -/

/-- Reals on the same side of every half of an integer. -/
def SameHalves (x y : ℝ) : Prop := ∀ z : Int, ((z : ℝ) ≤ 2 * x ↔ (z : ℝ) ≤ 2 * y) ∧ (2 * x ≤ z ↔ 2 * y ≤ z)

/-- R60: under RNE, reals on the same side of every half round to the same integer. -/
theorem rounded_of_sameHalves {c : RCtx} {neg : Bool} {x y : ℝ} {r : Nat × Bool} (hc : c.mode = .rne) (h : SameHalves x y) (hy : Rounded c neg y r) :
    Rounded c neg x r := by
  obtain ⟨k, hk, hk', hm, hexact⟩ := hy
  have h0 := h (2 * k)
  have h1 := h (2 * k + 1)
  have h2 := h (2 * k + 2)
  push_cast at h0 h1 h2
  have htakes : TakesNext c neg k (x - k) ↔ TakesNext c neg k (y - k) := by
    have hpos : 0 < x - k ↔ 0 < y - k := by
      constructor <;> intro g <;> by_contra hn
      · have := h0.2.mpr (by linarith); linarith
      · have := h0.2.mp (by linarith); linarith
    have hhalf : 1 / 2 < x - k ↔ 1 / 2 < y - k := by
      constructor <;> intro g <;> by_contra hn
      · have := h1.2.mpr (by linarith); linarith
      · have := h1.2.mp (by linarith); linarith
    have heq : x - k = 1 / 2 ↔ y - k = 1 / 2 := by
      constructor <;> intro g
      · have := h1.1.mp (by linarith); have := h1.2.mp (by linarith); linarith
      · have := h1.1.mpr (by linarith); have := h1.2.mpr (by linarith); linarith
    simp only [TakesNext, hc, hpos, hhalf, heq]
  refine ⟨k, by have := h0.1.mpr (by linarith); linarith, ?_, ?_, ?_⟩
  · by_contra hn
    have := h2.1.mp (by linarith)
    linarith
  · unfold RoundsAt at hm ⊢
    rwa [htakes]
  · rw [hexact, not_iff_not]
    constructor <;> intro g
    · have := h0.1.mpr (by linarith); have := h0.2.mpr (by linarith); linarith
    · have := h0.1.mp (by linarith); have := h0.2.mp (by linarith); linarith

/-- A real between n and n + 1, and the multiple of a half that stands for it, lie on the same side of every integer. -/
theorem sticky_sides {x : ℝ} {n : Nat} [Decidable (x = n)] (h : (n : ℝ) ≤ x) (h' : x < n + 1) (z : Int) :
    let y : ℝ := ((2 * n + (if x = n then 0 else 1) : Nat) : ℝ) / 2
    ((z : ℝ) ≤ x ↔ (z : ℝ) ≤ y) ∧ (x ≤ z ↔ y ≤ z) := by
  dsimp only
  split
  · next hx => push_cast; rw [hx]; constructor <;> ring_nf
  · next hx =>
    have hlt : (n : ℝ) < x := lt_of_le_of_ne h (Ne.symm hx)
    push_cast
    have hz : z ≤ n ∨ (n : Int) + 1 ≤ z := by omega
    obtain hz | hz := hz
    · have hz' : (z : ℝ) ≤ n := by exact_mod_cast hz
      exact ⟨iff_of_true (by linarith) (by linarith), iff_of_false (by linarith) (by linarith)⟩
    · have hz' : (n : ℝ) + 1 ≤ z := by exact_mod_cast hz
      exact ⟨iff_of_false (by linarith) (by linarith), iff_of_true (by linarith) (by linarith)⟩

/-- R60: under RNE, a real of n and a part of one at 2^g, for n of more than mb + 1 bits, rounds as 2n does at 2^(g-1), made odd where a part is left. -/
theorem roundTo_sticky {t : FTy} {c : RCtx} {neg : Bool} {n : Nat} {g : Int} {x : ℝ} [Decidable (x = n)] (ht : t.known) (hc : c.mode = .rne)
    (hn : 2 ^ (t.mb + 1) ≤ n) (h : (n : ℝ) ≤ x) (h' : x < n + 1) :
    RoundsTo t c neg (x * (2 : ℝ) ^ g) (roundTo t c neg (2 * n + if x = n then 0 else 1) 1 (g - 1)) := by
  have hsides := sticky_sides h h'
  dsimp only at hsides
  generalize hN : 2 * n + (if x = n then 0 else 1) = N at hsides ⊢
  have hNpos : 0 < N := by have := Nat.pos_of_ne_zero (by positivity : 2 ^ (t.mb + 1) ≠ 0); omega
  have hval : (N : ℝ) / (1 : Nat) * (2 : ℝ) ^ (g - 1) = (N : ℝ) / 2 * (2 : ℝ) ^ g := by
    rw [zpow_sub₀ two_ne_zero, zpow_one, Nat.cast_one]; ring
  have hg : (0 : ℝ) < (2 : ℝ) ^ g := by positivity
  -- every multiple of 2^g has x and N / 2 on the same side
  have hside : ∀ i : Int, g ≤ i → ∀ z : Int, ((z : ℝ) * (2 : ℝ) ^ i ≤ x * (2 : ℝ) ^ g ↔ (z : ℝ) * (2 : ℝ) ^ i ≤ (N : ℝ) / 2 * (2 : ℝ) ^ g) ∧
      (x * (2 : ℝ) ^ g ≤ z * (2 : ℝ) ^ i ↔ (N : ℝ) / 2 * (2 : ℝ) ^ g ≤ z * (2 : ℝ) ^ i) := fun i hi z => by
    have hz := hsides (z * 2 ^ (i - g).toNat)
    have hmul : (z : ℝ) * (2 : ℝ) ^ i = ((z * 2 ^ (i - g).toNat : Int) : ℝ) * (2 : ℝ) ^ g := by
      push_cast
      rw [two_pow_toNat (by omega), mul_assoc, ← zpow_add₀ two_ne_zero, sub_add_cancel]
    rw [hmul]
    simpa only [mul_le_mul_iff_left₀ hg] using hz
  obtain ⟨hb, hb'⟩ := floorLog2_spec (g - 1) hNpos one_pos
  rw [hval] at hb hb'
  set b := floorLog2 N 1 (g - 1)
  have hgb : g + t.mb + 1 ≤ b := by
    have hlow : (2 : ℝ) ^ (g + t.mb + 1) < (2 : ℝ) ^ (b + 1) := by
      refine lt_of_le_of_lt ?_ hb'
      have hn' : (2 : ℝ) ^ (t.mb + 1) ≤ (N : ℝ) / 2 := by
        have : ((2 ^ (t.mb + 1) : Nat) : ℝ) ≤ n := by exact_mod_cast hn
        have : ((2 * n : Nat) : ℝ) ≤ N := by exact_mod_cast (by omega : 2 * n ≤ N)
        push_cast at *
        linarith
      rw [show g + t.mb + 1 = ((t.mb + 1 : Nat) : Int) + g by push_cast; ring, zpow_add₀ two_ne_zero, zpow_natCast]
      gcongr
    have := (zpow_lt_zpow_iff_right₀ one_lt_two).mp hlow
    omega
  have hround : ∀ q : Int, g + 1 ≤ q → Rounded c neg (x * (2 : ℝ) ^ g / (2 : ℝ) ^ q) (roundAt c.mode c.x0 neg N 1 (g - 1) q) := fun q hq => by
    refine rounded_of_sameHalves hc (fun z => ?_) (roundAt_rounded (g - 1) q one_pos)
    have hq' : (0 : ℝ) < (2 : ℝ) ^ q := by positivity
    have hz := hside (q - 1) (by omega) z
    have hhalf : (2 : ℝ) ^ (q - 1) = (2 : ℝ) ^ q / 2 := by rw [zpow_sub₀ two_ne_zero, zpow_one]
    have hle : ∀ w : ℝ, (z : ℝ) ≤ 2 * (w / (2 : ℝ) ^ q) ↔ (z : ℝ) * (2 : ℝ) ^ (q - 1) ≤ w := fun w => by
      rw [hhalf, ← mul_div_assoc, le_div_iff₀ hq']; constructor <;> intro <;> linarith
    have hge : ∀ w : ℝ, 2 * (w / (2 : ℝ) ^ q) ≤ (z : ℝ) ↔ w ≤ (z : ℝ) * (2 : ℝ) ^ (q - 1) := fun w => by
      rw [hhalf, ← mul_div_assoc, div_le_iff₀ hq']; constructor <;> intro <;> linarith
    rw [hval, hle, hle, hge, hge]
    exact hz
  have hspacing : g + 1 ≤ t.spacing b := (by omega : g + 1 ≤ b - t.mb).trans (le_max_left _ _)
  refine roundTo_rounds ht rfl ?_ ?_ (hround _ hspacing) (hround _ (by omega))
  · have := (hside b (by omega) 1).1
    rw [Int.cast_one, one_mul] at this
    exact this.mpr hb
  · have := (hside (b + 1) (by omega) 1).1
    rw [Int.cast_one, one_mul] at this
    exact not_le.mp fun hc => absurd (this.mp hc) (not_le.mpr hb')

/-! ### Magnitudes beyond the range of F32 -/

theorem mag_tyF32_one : (tyF32.mag 1 : ℝ) = (2 : ℝ) ^ (-149 : Int) := by
  rw [mag_subnormal (by decide)]
  simp [tyF32]

theorem mag_tyF32_inf : (tyF32.mag 0x7F800000 : ℝ) = (2 : ℝ) ^ (128 : Int) := by
  rw [show (0x7F800000 : Nat) = 255 * 2 ^ tyF32.mb + 0 from rfl, mag_normal (by norm_num) (by norm_num)]
  norm_num [tyF32]

/-- R57: under RNE a positive number from 2^128 on overflows to infinity. -/
theorem roundsTo_huge {c : RCtx} {a : ℝ} (hc : c.mode = .rne) (ha : (2 : ℝ) ^ (128 : Int) ≤ a) : RoundsTo tyF32 c false a (0x7F800000, 10#32) := by
  intro k m j u b hk hk' hm hb hb' hj hj' hu
  have hkm := (roundsAt_le hm).1
  have hju := (roundsAt_le hu).1
  have hinf : 0x7F800000 ≤ k := by
    have : tyF32.mag 0x7F800000 < tyF32.mag (k + 1) := by
      have := ha.trans_lt hk'
      rw [← mag_tyF32_inf] at this
      exact_mod_cast this
    have := (mag_strictMono tyF32).lt_iff_lt.mp this
    omega
  have hnot : ¬(u : ℝ) * 2 ^ (b - tyF32.mb) < 2 ^ (1 - (tyF32.bias : Int)) := by
    rw [not_lt]
    have hpos : (0 : ℝ) < 2 ^ (b - tyF32.mb) := by positivity
    have hb128 : (127 : Int) < b := by
      have := (zpow_lt_zpow_iff_right₀ one_lt_two).mp (ha.trans_lt hb')
      omega
    have hone : (1 : ℝ) ≤ u := by
      have h1 : (1 : ℝ) ≤ a / 2 ^ (b - tyF32.mb) := by
        rw [one_le_div hpos]
        exact (zpow_le_zpow_right₀ one_le_two (by omega)).trans hb
      have : (1 : ℝ) < (j : ℝ) + 1 := h1.trans_lt hj'
      have hj1 : 1 ≤ j := by norm_cast at this; omega
      exact_mod_cast hj1.trans hju
    calc (2 : ℝ) ^ (1 - (tyF32.bias : Int)) ≤ 2 ^ (b - tyF32.mb) := zpow_le_zpow_right₀ one_le_two (by simp only [tyF32]; omega)
      _ ≤ u * 2 ^ (b - tyF32.mb) := le_mul_of_one_le_left hpos.le hone
  have htop : tyF32.top < m := show 0x7F7FFFFF < m by omega
  refine ⟨fun h => absurd h.1 hnot, fun _ _ => ?_, fun _ h => absurd htop (not_lt.mpr h)⟩
  simp [FTy.past, hc, tyF32, tyE4M3, tyE5M2]

/-- R57: under RNE a positive number below 2^-151 rounds to zero. -/
theorem roundsTo_vanishing {c : RCtx} {a : ℝ} (hc : c.mode = .rne) (h0 : 0 < a) (ha : a < (2 : ℝ) ^ (-151 : Int)) : RoundsTo tyF32 c false a (0, 12#32) := by
  intro k m j u b hk hk' hm hb hb' hj hj' hu
  have hsmall : a < (tyF32.mag 1 : ℝ) / 2 := by
    rw [mag_tyF32_one]
    refine ha.trans_le ?_
    rw [show (-149 : Int) = -150 + 1 by norm_num, zpow_add₀ two_ne_zero, zpow_one, mul_div_cancel_right₀ _ two_ne_zero]
    exact zpow_le_zpow_right₀ one_le_two (by norm_num)
  have hmag0 : (tyF32.mag 0 : ℝ) = 0 := by rw [mag_zero]; norm_num
  have hmag1 : (0 : ℝ) < (tyF32.mag 1 : ℝ) := by rw [mag_tyF32_one]; positivity
  obtain rfl : 0 = k := mag_floor_unique (by rw [hmag0]; exact h0.le) (by rw [Nat.zero_add]; linarith) hk hk'
  obtain rfl : m = 0 := by
    refine roundsAt_unique hm (.inr ⟨fun h => ?_, rfl⟩)
    have hφ : (a - (tyF32.mag 0 : ℝ)) / ((tyF32.mag (0 + 1) : ℝ) - (tyF32.mag 0 : ℝ)) < 1 / 2 := by
      rw [hmag0, sub_zero, sub_zero, Nat.zero_add, div_lt_iff₀ hmag1]; linarith
    have h2 := h.2
    rw [hc] at h2
    dsimp only at h2
    obtain h2 | ⟨h2, -⟩ := h2 <;> linarith
  have htiny : (u : ℝ) * 2 ^ (b - tyF32.mb) < 2 ^ (1 - (tyF32.bias : Int)) := by
    have hpos : (0 : ℝ) < 2 ^ (b - tyF32.mb) := by positivity
    have hb151 : b < -151 := (zpow_lt_zpow_iff_right₀ one_lt_two).mp (hb.trans_lt ha)
    have hu1 : (u : ℝ) ≤ j + 1 := by exact_mod_cast (roundsAt_le hu).2
    rw [le_div_iff₀ hpos] at hj
    calc (u : ℝ) * 2 ^ (b - tyF32.mb) ≤ (j + 1) * 2 ^ (b - tyF32.mb) := by gcongr
      _ = j * 2 ^ (b - tyF32.mb) + 2 ^ (b - tyF32.mb) := by ring
      _ ≤ a + 2 ^ (b + 1) := by gcongr; exacts [one_le_two, by simp only [tyF32]; omega]
      _ < 2 ^ (b + 1) + 2 ^ (b + 1) := by gcongr
      _ = 2 ^ (b + 1 + 1) := by rw [zpow_add₀ two_ne_zero (b + 1), zpow_one]; ring
      _ ≤ 2 ^ (1 - (tyF32.bias : Int)) := zpow_le_zpow_right₀ one_le_two (by simp only [tyF32]; omega)
  have hne : a ≠ (tyF32.mag 0 : ℝ) := by rw [hmag0]; exact h0.ne'
  exact ⟨fun _ => rfl, fun _ h => absurd h (by decide), fun _ _ => ⟨rfl, fun h => absurd h hne, fun _ _ => rfl, fun _ h => absurd htiny h⟩⟩

end Sys2Proof.Machine
end

section
/-! O25, part 3: the special functions (R201, R202). -/

namespace Sys2Proof.Machine

/-! ### What a special function reads and leaves -/

/-- R201, R202: a special function of a value and its word. -/
def specialVal (fn : Nat) (c : RCtx) (y : W32) (v : Val) : Nat × W32 :=
  match fn with
  | 0 => frcpVal c v
  | 1 => frsqVal c v
  | 2 => fsqrtVal c v
  | 3 => fexp2Val c y v
  | 4 => flog2Val c y v
  | 5 => ftrigVal false c y v
  | 6 => ftrigVal true c y v
  | _ => ftanhVal c y v

/-- R54: a special function reads its source flushed. -/
theorem special_eq (fn : Nat) (ftz : Bool) (w : W32) :
    special fn ftz w = asWord (specialVal fn (specialCtx ftz) (flushWord ftz w) (tyF32.decode (flushWord ftz w).toNat)) := by
  unfold special
  dsimp only
  rw [flush_toNat, BitVec.ofNat_toNat, BitVec.setWidth_eq]
  rfl

/-- A pod with results outstanding, further on. -/
theorem advance_of_result {p q : Pod} {n : Nat} (h : q = { p with pending := q.pending, windows := q.windows }) :
    q.advance n = { p with pending := (q.advance n).pending, windows := (q.advance n).windows, pc := (q.advance n).pc, slot := (q.advance n).slot, phase := p.phase.goOn, skip := 0 } := by
  generalize q.pending = a, q.windows = b at h
  subst h
  unfold Pod.advance
  dsimp only
  split <;> rfl

/-- R148: what a special function leaves: flags at once, its lanes outstanding. -/
theorem special_outstands {i : Instr} {n : Nat} {d a : BitVec 7} {la : BitVec 4} {s : State} (h : exec i s = .next (specialEffect s n d a la)) :
    let r (l : Nat) := special n (modeFtz s) (src s a l)
    ∃ t, exec i s = .next t ∧ Outstands s t d.toNat [laneWord fun l => (r l).1] la.toNat ∧
      t = { s with pod := t.pod, ids := t.ids, team := { s.team with flags := t.team.flags } } ∧ Advances s t 1 ∧
      t.pod = { s.pod with pending := t.pod.pending, windows := t.pod.windows, pc := t.pod.pc, slot := t.pod.slot, phase := s.pod.phase.goOn, skip := 0 } ∧
      ∀ k, t.team.flags.getLsbD k = true ↔ s.team.flags.getLsbD k = true ∨ ∃ l, (activeMask s).getLsbD l = true ∧ ((r l).2).getLsbD k = true := by
  intro r
  have hpod := advance_of_result (p := s.pod) (n := 1)
    (q := ((s.orFlags (laneFlags s fun l => (r l).2)).laneResult (activeMask s) d.toNat [laneWord fun l => (r l).1] la.toNat).pod) rfl
  refine ⟨_, h, ⟨rfl, ?_, ?_, ?_, ?_, ?_⟩, rfl, advance_advances ⟨rfl, rfl, rfl⟩, hpod, fun k => ?_⟩
  · show (Pod.advance _ 1).pending = _; rw [advance_frame]; rfl
  · show (Pod.advance _ 1).windows = _; rw [advance_frame]; rfl
  · show (Pod.advance _ 1).v = _; rw [hpod]
  · show (Pod.advance _ 1).p = _; rw [hpod]
  · show (Pod.advance _ 1).s = _; rw [hpod]
  · show (s.team.flags ||| laneFlags s fun l => (r l).2).getLsbD k = true ↔ _
    rw [BitVec.getLsbD_or, Bool.or_eq_true, laneFlags_bit]

/-! ### The table of R202 -/

/-- R53: a NaN gives the canonical NaN. -/
theorem specialVal_nan (fn : Nat) (c : RCtx) (y : W32) (b : Bool) : specialVal fn c y (.nan b) = (tyF32.nan, nvIf b) := by
  obtain h | h | h | h | h | h | h | h : fn = 0 ∨ fn = 1 ∨ fn = 2 ∨ fn = 3 ∨ fn = 4 ∨ fn = 5 ∨ fn = 6 ∨ 7 ≤ fn := by omega
  case inr.inr.inr.inr.inr.inr.inr => obtain ⟨k, rfl⟩ := Nat.exists_eq_add_of_le' h; rfl
  all_goals subst h; rfl

/-- The constants that the table takes from a rounding: 1 exactly, and 1 rounded up from below. -/
theorem roundTo_one (ftz : Bool) : roundTo tyF32 (specialCtx ftz) false 1 1 0 = (0x3F800000, 0#32) := by cases ftz <;> rfl

theorem roundTo_below_one (ftz neg : Bool) : roundTo tyF32 (specialCtx ftz) neg (2 ^ 100 - 1) 1 (-100) = (tyF32.sgn neg + 0x3F800000, 8#32) := by
  cases ftz <;> cases neg <;> decide

/-! ### Roots -/

theorem eq_isqrt_iff {a : Nat} {x : ℝ} (hx : 0 ≤ x) (hxx : x * x = a) : x = (isqrt a : ℝ) ↔ isqrt a * isqrt a = a := by
  constructor
  · intro h
    rw [h] at hxx
    exact_mod_cast hxx
  · intro h
    have h' : (isqrt a : ℝ) * (isqrt a : ℝ) = a := by exact_mod_cast h
    exact (mul_self_inj_of_nonneg hx (Nat.cast_nonneg _)).mp (hxx.trans h'.symm)

theorem isqrt_le_root {a : Nat} {x : ℝ} (hx : 0 ≤ x) (h : (a : ℝ) ≤ x * x) (h' : x * x < a + 1) : (isqrt a : ℝ) ≤ x ∧ x < isqrt a + 1 := by
  obtain ⟨hlow, hhigh⟩ := isqrt_spec a
  have hlow' : (isqrt a : ℝ) * (isqrt a : ℝ) ≤ a := by exact_mod_cast hlow
  have hhigh' : (a : ℝ) + 1 ≤ (isqrt a + 1 : ℝ) * (isqrt a + 1) := by exact_mod_cast hhigh
  exact ⟨(pow_le_pow_iff_left₀ (Nat.cast_nonneg _) hx two_ne_zero).mp (by nlinarith), lt_of_pow_lt_pow_left₀ 2 (by positivity) (by nlinarith)⟩

theorem isqrt_ge {a k : Nat} (h : 2 ^ (2 * k) ≤ a) : 2 ^ k ≤ isqrt a := by
  obtain ⟨-, hhigh⟩ := isqrt_spec a
  by_contra hn
  have : (isqrt a + 1) * (isqrt a + 1) ≤ 2 ^ k * 2 ^ k := Nat.mul_le_mul (by omega) (by omega)
  rw [← Nat.pow_add, ← two_mul] at this
  omega

theorem mod_two_toNat (e : Int) : ((e % 2).toNat : Int) = e % 2 := Int.toNat_of_nonneg (Int.emod_nonneg _ two_ne_zero)

theorem sqrt_zpow_double (y : ℝ) (g : Int) : Real.sqrt (y * (2 : ℝ) ^ (2 * g)) = Real.sqrt y * (2 : ℝ) ^ g := by
  rw [zpow_mul', zpow_ofNat, Real.sqrt_mul' _ (by positivity), Real.sqrt_sq (by positivity)]

/-- A number with an even power of two, the rest of its power in its integer. -/
theorem scaled_even {m k : Nat} {e g : Int} (h : e = k + 2 * g) : (m : ℝ) * (2 : ℝ) ^ e = ((m * 2 ^ k : Nat) : ℝ) * (2 : ℝ) ^ (2 * g) := by
  rw [h, zpow_add₀ two_ne_zero, zpow_natCast, ← mul_assoc]
  push_cast
  rfl

/-- R202: FSQRT rounds the square root once. -/
theorem fsqrtVal_rounds {c : RCtx} {m : Nat} {e : Int} (hc : c.mode = .rne) (hm : 0 < m) :
    RoundsTo tyF32 c false (Real.sqrt ((m : ℝ) * (2 : ℝ) ^ e)) (fsqrtVal c (.num false m e)) := by
  classical
  obtain ⟨odd, hodd⟩ : ∃ odd, odd = (e % 2).toNat := ⟨_, rfl⟩
  have hodd' := mod_two_toNat e
  rw [← hodd] at hodd'
  obtain ⟨a, ha⟩ : ∃ a, a = m * 2 ^ (odd + 64) := ⟨_, rfl⟩
  obtain ⟨g, hg⟩ : ∃ g : Int, g = (e - odd - 64) / 2 := ⟨_, rfl⟩
  have hval : (m : ℝ) * (2 : ℝ) ^ e = (a : ℝ) * (2 : ℝ) ^ (2 * g) := by rw [ha]; exact scaled_even (by push_cast; omega)
  have hx : (0 : ℝ) ≤ Real.sqrt a := Real.sqrt_nonneg _
  have hxx : Real.sqrt a * Real.sqrt a = a := Real.mul_self_sqrt (Nat.cast_nonneg _)
  obtain ⟨hlow, hhigh⟩ := isqrt_le_root hx hxx.ge (by rw [hxx]; linarith)
  have hbig : 2 ^ (tyF32.mb + 1) ≤ isqrt a := (show 2 ^ 24 ≤ 2 ^ 32 by norm_num).trans (isqrt_ge (by
    rw [ha]
    calc 2 ^ (2 * 32) ≤ 1 * 2 ^ (odd + 64) := by rw [one_mul]; exact Nat.pow_le_pow_right two_pos (by omega)
      _ ≤ m * 2 ^ (odd + 64) := Nat.mul_le_mul_right _ hm))
  have h := roundTo_sticky (c := c) (neg := false) (g := g) tyF32_known hc hbig hlow hhigh
  rw [hval, sqrt_zpow_double]
  have hstick : (if Real.sqrt a = (isqrt a : ℝ) then 0 else 1) = if isqrt a * isqrt a == a then 0 else 1 :=
    if_congr ((eq_isqrt_iff hx hxx).trans (beq_iff_eq).symm) rfl rfl
  rw [hstick] at h
  have hdef : fsqrtVal c (.num false m e) = roundTo tyF32 c false (2 * isqrt a + if isqrt a * isqrt a == a then 0 else 1) 1 (g - 1) := by
    unfold fsqrtVal
    dsimp only
    rw [if_neg (by simpa using hm.ne'), if_neg Bool.false_ne_true, ← hodd, ← ha, ← hg]
  rw [hdef]
  exact h

/-- R202: FRSQ rounds the reciprocal square root once. -/
theorem frsqVal_rounds {c : RCtx} {m : Nat} {e : Int} (hc : c.mode = .rne) (hm : 0 < m) (hlt : m < 2 ^ 24) :
    RoundsTo tyF32 c false (1 / Real.sqrt ((m : ℝ) * (2 : ℝ) ^ e)) (frsqVal c (.num false m e)) := by
  classical
  obtain ⟨odd, hodd⟩ : ∃ odd, odd = (e % 2).toNat := ⟨_, rfl⟩
  have hodd' := mod_two_toNat e
  rw [← hodd] at hodd'
  obtain ⟨a, ha⟩ : ∃ a, a = m * 2 ^ odd := ⟨_, rfl⟩
  obtain ⟨h, hh⟩ : ∃ h : Int, h = (e - odd) / 2 := ⟨_, rfl⟩
  have hapos : 0 < a := by rw [ha]; exact Nat.mul_pos hm (by positivity)
  have hapos' : (0 : ℝ) < a := by exact_mod_cast hapos
  have halt : a < 2 ^ 25 := by
    calc a ≤ m * 2 ^ 1 := by rw [ha]; exact Nat.mul_le_mul_left _ (Nat.pow_le_pow_right two_pos (by omega))
      _ < 2 ^ 24 * 2 ^ 1 := by omega
  have hval : (m : ℝ) * (2 : ℝ) ^ e = (a : ℝ) * (2 : ℝ) ^ (2 * h) := by rw [ha]; exact scaled_even (by omega)
  obtain ⟨b, hb⟩ : ∃ b, b = 2 ^ 160 / a := ⟨_, rfl⟩
  obtain ⟨x, hxdef⟩ : ∃ x, x = Real.sqrt ((2 : ℝ) ^ 160 / a) := ⟨_, rfl⟩
  have hx : 0 ≤ x := hxdef ▸ Real.sqrt_nonneg _
  have hxx : x * x = (2 : ℝ) ^ 160 / a := hxdef ▸ Real.mul_self_sqrt (by positivity)
  have hblow : (b : ℝ) ≤ x * x := by rw [hxx, hb]; exact_mod_cast (Nat.cast_div_le (α := ℝ) (m := 2 ^ 160) (n := a))
  have hbhigh : x * x < b + 1 := by
    rw [hxx, div_lt_iff₀ hapos', hb]
    exact_mod_cast Nat.lt_mul_of_div_lt (Nat.lt_succ_self (2 ^ 160 / a)) hapos
  obtain ⟨hlow, hhigh⟩ := isqrt_le_root hx hblow hbhigh
  have hbig : 2 ^ (tyF32.mb + 1) ≤ isqrt b := (show 2 ^ 24 ≤ 2 ^ 67 by norm_num).trans (isqrt_ge (by
    rw [hb, Nat.le_div_iff_mul_le hapos]
    calc 2 ^ (2 * 67) * a ≤ 2 ^ (2 * 67) * 2 ^ 25 := Nat.mul_le_mul_left _ halt.le
      _ ≤ 2 ^ 160 := by norm_num))
  have hround := roundTo_sticky (c := c) (neg := false) (g := -h - 80) tyF32_known hc hbig hlow hhigh
  have hreal : 1 / Real.sqrt ((m : ℝ) * (2 : ℝ) ^ e) = x * (2 : ℝ) ^ (-h - 80) := by
    rw [hval, sqrt_zpow_double, hxdef, Real.sqrt_div (by positivity), show (2 : ℝ) ^ 160 = (2 ^ 80) ^ 2 by norm_num, Real.sqrt_sq (by positivity),
      zpow_sub₀ two_ne_zero, zpow_neg]
    have h80 : (2 : ℝ) ^ (80 : Int) = 2 ^ 80 := by norm_num
    rw [h80]
    field_simp
  have hstick : (if x = (isqrt b : ℝ) then 0 else 1) = if isqrt b * isqrt b * a == 2 ^ 160 then 0 else 1 := by
    refine if_congr (Iff.trans ?_ beq_iff_eq.symm) rfl rfl
    have hsq : x = (isqrt b : ℝ) ↔ x * x = (isqrt b : ℝ) * (isqrt b : ℝ) := (mul_self_inj_of_nonneg hx (Nat.cast_nonneg _)).symm
    rw [hsq, hxx, div_eq_iff hapos'.ne', eq_comm]
    exact_mod_cast Iff.rfl
  rw [hstick] at hround
  have hdef : frsqVal c (.num false m e) = roundTo tyF32 c false (2 * isqrt b + if isqrt b * isqrt b * a == 2 ^ 160 then 0 else 1) 1 (-h - 80 - 1) := by
    unfold frsqVal
    dsimp only
    rw [if_neg (by simpa using hm.ne'), if_neg Bool.false_ne_true, ← hodd, ← ha, ← hb, ← hh]
  rw [hreal, hdef]
  exact hround

/-! ### Powers and logarithms of 2 -/

theorem le_floorLog2_iff {m : Nat} {e : Int} (k : Int) (hm : 0 < m) : k ≤ floorLog2 m 1 e ↔ (2 : ℝ) ^ k ≤ (m : ℝ) * (2 : ℝ) ^ e := by
  obtain ⟨hlow, hhigh⟩ := floorLog2_spec e hm one_pos
  rw [Nat.cast_one, div_one] at hlow hhigh
  constructor
  · intro h
    exact (zpow_le_zpow_right₀ one_le_two h).trans hlow
  · intro h
    have := (zpow_lt_zpow_iff_right₀ one_lt_two).mp (h.trans_lt hhigh)
    omega

/-- R202: an integer below 2^21 is found to be one. -/
theorem asInteger_spec {p : Bool} {m : Nat} {e k : Int} (he : e ≤ 20) (h : numberOf p m e = k) : asInteger p m e = some k := by
  have hneg : ∀ n : Nat, (k : ℚ) = (if p then -1 else 1) * (n : ℚ) → some ((if p then -1 else 1) * (n : Int)) = some k := fun n hn => by
    congr 1
    have : (k : ℚ) = (((if p then -1 else 1) * (n : Int) : Int) : ℚ) := by rw [hn]; push_cast; rfl
    exact_mod_cast this.symm
  unfold asInteger
  by_cases h0 : 0 ≤ e
  · rw [if_pos h0, if_pos he]
    refine hneg _ ?_
    rw [← h, numberOf]
    push_cast
    rw [← zpow_natCast, Int.toNat_of_nonneg h0]
  · rw [if_neg h0]
    obtain ⟨j, rfl⟩ : ∃ j : Nat, e = -(j : Int) := ⟨(-e).toNat, by omega⟩
    have hj : (-(-(j : Int))).toNat = j := by omega
    rw [hj]
    have hmul : m = k.natAbs * 2 ^ j := by
      have habs := congrArg abs h
      rw [abs_numberOf, zpow_neg, zpow_natCast, ← div_eq_mul_inv, div_eq_iff (by positivity), ← Int.cast_abs, ← Nat.cast_natAbs] at habs
      exact_mod_cast habs
    rw [if_pos (by rw [hmul]; simp)]
    refine hneg _ ?_
    rw [hmul, Nat.mul_div_cancel _ (by positivity), ← h, numberOf, zpow_neg, zpow_natCast, ← div_eq_mul_inv]
    conv_lhs => rw [hmul]
    push_cast
    rw [mul_div_cancel_right₀ _ (by positivity)]

/-- R202: FEXP2 of an integer, or of a magnitude of 1,024 or more. -/
theorem fexp2Val_rounds {c : RCtx} {y : W32} {p : Bool} {m : Nat} {e : Int} (hc : c.mode = .rne) (hm : 0 < m)
    (h : (∃ k : Int, numberOf p m e = k) ∨ (1024 : ℝ) ≤ (m : ℝ) * (2 : ℝ) ^ e) :
    RoundsTo tyF32 c false ((2 : ℝ) ^ ((numberOf p m e : ℚ) : ℝ)) (fexp2Val c y (.num p m e)) := by
  have hreal : ((numberOf p m e : ℚ) : ℝ) = (if p = true then -1 else 1) * ((m : ℝ) * (2 : ℝ) ^ e) := by
    cases p <;> simp [numberOf]
  have hten : (2 : ℝ) ^ (10 : Int) = 1024 := by norm_num
  have hlog := le_floorLog2_iff (e := e) 10 hm
  rw [hten] at hlog
  have hpow : ∀ k : Int, RoundsTo tyF32 c false ((2 : ℝ) ^ k) (roundTo tyF32 c false 1 1 k) := fun k => by
    have := roundTo_spec c false k tyF32_known one_pos one_pos
    simpa using this
  simp only [fexp2Val, beq_iff_eq, hm.ne', if_false]
  split
  · next hbig =>
    have hx := hlog.mp hbig
    cases p
    · have hone : roundTo tyF32 c false 1 1 1024 = (0x7F800000, 10#32) :=
        roundsTo_unique tyF32_known (by positivity) (hpow 1024) (roundsTo_huge hc (zpow_le_zpow_right₀ one_le_two (by norm_num)))
      rw [if_neg Bool.false_ne_true, hone]
      refine roundsTo_huge hc ?_
      rw [← Real.rpow_intCast]
      refine Real.rpow_le_rpow_of_exponent_le one_le_two ?_
      rw [hreal, if_neg Bool.false_ne_true, one_mul]
      push_cast
      linarith
    · have hone : roundTo tyF32 c false 1 1 (-1024) = (0, 12#32) :=
        roundsTo_unique tyF32_known (by positivity) (hpow (-1024)) (roundsTo_vanishing hc (by positivity) (zpow_lt_zpow_right₀ one_lt_two (by norm_num)))
      rw [if_pos rfl, hone]
      refine roundsTo_vanishing hc (by positivity) ?_
      rw [← Real.rpow_intCast]
      refine Real.rpow_lt_rpow_of_exponent_lt one_lt_two ?_
      rw [hreal, if_pos rfl]
      push_cast
      linarith
  · next hsmall =>
    obtain ⟨k, hk⟩ := h.resolve_right fun g => hsmall (hlog.mpr g)
    have he : e ≤ 20 := by
      by_contra hn
      refine hsmall (hlog.mpr ?_)
      rw [← hten]
      calc (2 : ℝ) ^ (10 : Int) ≤ (2 : ℝ) ^ e := zpow_le_zpow_right₀ one_le_two (by omega)
        _ ≤ m * (2 : ℝ) ^ e := le_mul_of_one_le_left (by positivity) (by exact_mod_cast hm)
    rw [asInteger_spec he hk, hk, Rat.cast_intCast, Real.rpow_intCast]
    exact hpow k

/-- R201: FLOG2 of a power of two. -/
theorem flog2Val_rounds {c : RCtx} {y : W32} {m : Nat} {e k : Int} (hm : 0 < m) (h : (m : ℝ) * (2 : ℝ) ^ e = (2 : ℝ) ^ k) :
    (k = 0 → flog2Val c y (.num false m e) = (0, 0#32)) ∧
    (k ≠ 0 → RoundsTo tyF32 c (decide (k < 0)) |(k : ℝ)| (flog2Val c y (.num false m e))) := by
  have hpow : (m : ℝ) = (2 : ℝ) ^ (k - e) := by rw [zpow_sub₀ two_ne_zero, ← h, mul_div_cancel_right₀ _ (by positivity)]
  have hge : 0 ≤ k - e := by
    by_contra hn
    have h1 : (1 : ℝ) ≤ m := by exact_mod_cast hm
    have h2 : (2 : ℝ) ^ (k - e) < 1 := zpow_lt_one_of_neg₀ one_lt_two (by omega)
    rw [hpow] at h1
    linarith
  have hm' : m = 2 ^ (k - e).toNat := by
    rw [← two_pow_toNat hge] at hpow
    exact_mod_cast hpow
  have hlog : Nat.log2 m = (k - e).toNat := by rw [hm']; exact Nat.log2_two_pow
  have hk : e + Nat.log2 m = k := by rw [hlog]; omega
  have hdef : flog2Val c y (.num false m e) = if k == 0 then (0, 0#32) else roundTo tyF32 c (decide (k < 0)) k.natAbs 1 0 := by
    have hpow2 : m == 2 ^ Nat.log2 m := beq_iff_eq.mpr (by rw [hlog]; exact hm')
    simp only [flog2Val, beq_iff_eq, hm.ne', if_false, Bool.false_eq_true, hk]
    rw [if_pos (beq_iff_eq.mp hpow2)]
  rw [hdef]
  refine ⟨fun h0 => if_pos (beq_iff_eq.mpr h0), fun h0 => ?_⟩
  rw [if_neg (by simpa using h0)]
  have := roundTo_spec c (decide (k < 0)) (n := k.natAbs) 0 tyF32_known (Int.natAbs_pos.mpr h0) one_pos
  rwa [zpow_zero, mul_one, Nat.cast_one, div_one, Nat.cast_natAbs, Int.cast_abs] at this

end Sys2Proof.Machine
end

section
/-! O25: the special functions by their table and their roundings. -/

namespace Sys2Proof.Machine

/-! ### Sources by their class -/

theorem flushWord_decode_nan {ftz : Bool} {w : W32} (h : 0x7F800000 < magOf w) :
    tyF32.decode (flushWord ftz w).toNat = .nan (decide (magOf w < 0x7FC00000)) := by
  have hm : magOf (flushWord ftz w) = magOf w := by rw [flushWord_mag, if_neg (by omega)]
  rw [decode_word_nan (by rw [hm]; exact h), hm]

theorem flushWord_decode_inf {ftz : Bool} {w : W32} (h : magOf w = 0x7F800000) : tyF32.decode (flushWord ftz w).toNat = .inf (w.getLsbD 31) := by
  rw [decode_word_inf (by rw [flushWord_mag, if_neg (by omega)]; exact h), flushWord_sign]

theorem flushWord_decode_zero {ftz : Bool} {w : W32} (h : magOf w = 0 ∨ (ftz = true ∧ magOf w < 0x00800000)) :
    ∃ e, tyF32.decode (flushWord ftz w).toNat = .num (w.getLsbD 31) 0 e := by
  have hm : magOf (flushWord ftz w) = 0 := by rw [flushWord_mag]; split <;> simp_all
  obtain ⟨n, e, hd, hv⟩ := decode_word_number (w := flushWord ftz w) (by rw [hm]; norm_num)
  obtain rfl : n = 0 := numberOf_eq_zero.mp (hv.trans (by rw [hm, mag_zero]))
  exact ⟨e, by rw [hd, flushWord_sign]⟩

theorem decode_num_lt {t : FTy} {code : Nat} {p : Bool} {n : Nat} {e : Int} (h : t.decode code = .num p n e) : n < 2 ^ (t.mb + 1) := by
  have hmod : code % 2 ^ t.mb < 2 ^ t.mb := Nat.mod_lt _ (by positivity)
  rw [Nat.pow_succ]
  unfold FTy.decode at h
  dsimp only at h
  split at h
  · split at h <;> cases h
  · split at h
    · cases h
    · split at h <;> cases h <;> omega

/-- A finite source that is no zero: its number. -/
theorem flushWord_decode_number {ftz : Bool} {w : W32} (h : magOf w < 0x7F800000) (h0 : 0 < magOf w) (hf : ftz = true → 0x00800000 ≤ magOf w) :
    ∃ n e, tyF32.decode (flushWord ftz w).toNat = .num (w.getLsbD 31) n e ∧ 0 < n ∧ n < 2 ^ 24 ∧ (tyF32.mag (magOf w) : ℝ) = (n : ℝ) * (2 : ℝ) ^ e ∧
      ((numberOf (w.getLsbD 31) n e : ℚ) : ℝ) = if w.getLsbD 31 = true then -(tyF32.mag (magOf w) : ℝ) else (tyF32.mag (magOf w) : ℝ) := by
  have hw : flushWord ftz w = w := if_neg fun g => absurd (hf g.1) (not_le.mpr g.2)
  obtain ⟨n, e, hd, hv⟩ := decode_word_number h
  refine ⟨n, e, by rw [hw]; exact hd, Nat.pos_of_ne_zero fun hn => ?_, decode_num_lt hd, ?_, ?_⟩
  · exact h0.ne' (mag_eq_zero_iff.mp (hv.symm.trans (numberOf_eq_zero.mpr hn)))
  · rw [← hv]; simp [numberOf]
  · rw [← hv]; cases w.getLsbD 31 <;> simp [numberOf]

/-! ### Results as words -/

theorem asWord_toNat {r : Nat × W32} (h : r.1 < 2 ^ 32) : ((asWord r).1.toNat, (asWord r).2) = r := by
  rw [asWord, BitVec.toNat_ofNat, Nat.mod_eq_of_lt h]

theorem special_toNat {fn : Nat} {ftz : Bool} {w : W32} {v : Val} (hv : tyF32.decode (flushWord ftz w).toNat = v)
    (h : (specialVal fn (specialCtx ftz) (flushWord ftz w) v).1 < 2 ^ 32) :
    ((special fn ftz w).1.toNat, (special fn ftz w).2) = specialVal fn (specialCtx ftz) (flushWord ftz w) v := by
  rw [special_eq, hv]
  exact asWord_toNat h

theorem roundTo_tyF32_lt {c : RCtx} {neg : Bool} {n d : Nat} {e : Int} : (roundTo tyF32 c neg n d e).1 < 2 ^ 32 := (roundTo_range tyF32_known).1

/-- A rounding that is one of roundTo's stays one as a word. -/
theorem special_rounds {fn : Nat} {ftz neg : Bool} {w : W32} {v : Val} {a : ℝ} (hv : tyF32.decode (flushWord ftz w).toNat = v)
    (hlt : (specialVal fn (specialCtx ftz) (flushWord ftz w) v).1 < 2 ^ 32)
    (h : RoundsTo tyF32 (specialCtx ftz) neg a (specialVal fn (specialCtx ftz) (flushWord ftz w) v)) :
    RoundsTo tyF32 (specialCtx ftz) neg a ((special fn ftz w).1.toNat, (special fn ftz w).2) := by
  rwa [special_toNat hv hlt]

theorem roundsTo_lt {c : RCtx} {neg : Bool} {a : ℝ} {r : Nat × W32} (ha : 0 < a) (h : RoundsTo tyF32 c neg a r) : r.1 < 2 ^ 32 := by
  obtain ⟨b, hb, hb'⟩ := exists_zpow_floor ha
  obtain ⟨k, hk, hk'⟩ := exists_nat_floor (x := a / (2 : ℝ) ^ tyF32.spacing b) (by positivity)
  obtain ⟨j, hj, hj'⟩ := exists_nat_floor (x := a / (2 : ℝ) ^ (b - tyF32.mb)) (by positivity)
  obtain ⟨m, hm⟩ := roundsAt_exists c neg k (a / (2 : ℝ) ^ tyF32.spacing b - k)
  obtain ⟨u, hu⟩ := roundsAt_exists c neg j (a / (2 : ℝ) ^ (b - tyF32.mb) - j)
  obtain ⟨hlow, hhigh, -, hcode⟩ := codeOf_roundsAt (known_mb tyF32_known) hb hb' hk hk' hm
  obtain rfl := (roundsTo_iff hlow hhigh hcode hb hb' hj hj' hu).mp h
  have hs : tyF32.sgn neg ≤ 2 ^ 31 := sgn_le tyF32 neg
  have htop : tyF32.top < 2 ^ 31 := by decide
  unfold FTy.sgn at hs
  unfold FTy.result
  dsimp only
  split
  · exact hs.trans_lt (by norm_num)
  · split
    · exact past_lt tyF32_known
    · dsimp only; omega

/-! ### The table -/

theorem special_table_nan {ftz : Bool} {w : W32} (h : 0x7F800000 < magOf w) (n : Nat) :
    special n ftz w = (0x7FC00000#32, if magOf w < 0x7FC00000 then 1#32 else 0#32) := by
  rw [special_eq, flushWord_decode_nan h, specialVal_nan]
  refine Prod.ext rfl ?_
  show nvIf (decide (magOf w < 0x7FC00000)) = _
  unfold nvIf
  simp only [decide_eq_true_iff]
  rfl

theorem special_inf {ftz : Bool} {w : W32} (h : magOf w = 0x7F800000) (n : Nat) :
    special n ftz w = asWord (specialVal n (specialCtx ftz) (flushWord ftz w) (.inf (w.getLsbD 31))) := by
  rw [special_eq, flushWord_decode_inf h]

theorem special_table_inf {ftz : Bool} {w : W32} (h : magOf w = 0x7F800000) :
    let neg := w.getLsbD 31
    let sgn : W32 := if neg then 0x80000000#32 else 0#32
    let nv : W32 × W32 := (0x7FC00000#32, 1#32)
    let inf : W32 := 0x7F800000#32
    special 0 ftz w = (sgn, 0#32) ∧ special 1 ftz w = (if neg then nv else (0#32, 0#32)) ∧
       special 2 ftz w = (if neg then nv else (inf, 0#32)) ∧ special 3 ftz w = (if neg then 0#32 else inf, 0#32) ∧
       special 4 ftz w = (if neg then nv else (inf, 0#32)) ∧ special 5 ftz w = nv ∧ special 6 ftz w = nv ∧
       special 7 ftz w = (sgn ||| 0x3F800000#32, 0#32) := by
  simp only [special_inf h]
  generalize w.getLsbD 31 = neg
  cases neg <;> refine ⟨rfl, rfl, rfl, rfl, rfl, rfl, rfl, ?_⟩ <;> simp only [specialVal, ftanhVal, roundTo_one] <;> rfl

theorem asWord_inf (neg : Bool) : asWord (tyF32.sgn neg + tyF32.inf, 0#32) = ((if neg then 0x80000000#32 else 0#32) ||| 0x7F800000#32, 0#32) := by
  cases neg <;> decide

theorem asWord_zero (neg : Bool) : asWord (tyF32.sgn neg, 0#32) = (if neg then 0x80000000#32 else 0#32, 0#32) := by cases neg <;> decide

theorem special_table_zero {ftz : Bool} {w : W32} (h : magOf w = 0 ∨ (ftz = true ∧ magOf w < 0x00800000)) :
    let sgn : W32 := if w.getLsbD 31 then 0x80000000#32 else 0#32
    let inf : W32 := 0x7F800000#32
    special 0 ftz w = (sgn ||| inf, 0#32) ∧ special 1 ftz w = (sgn ||| inf, 0#32) ∧
       special 2 ftz w = (sgn, 0#32) ∧ special 3 ftz w = (0x3F800000#32, 0#32) ∧ special 4 ftz w = (0xFF800000#32, 0#32) ∧
       special 5 ftz w = (sgn, 0#32) ∧ special 6 ftz w = (0x3F800000#32, 0#32) ∧ special 7 ftz w = (sgn, 0#32) := by
  obtain ⟨e, he⟩ := flushWord_decode_zero h
  simp only [special_eq, he]
  generalize w.getLsbD 31 = neg
  refine ⟨asWord_inf neg, asWord_inf neg, asWord_zero neg, ?_, rfl, asWord_zero neg, ?_, asWord_zero neg⟩
  · simp only [specialVal, fexp2Val, beq_self_eq_true, if_true, roundTo_one]
    rfl
  · simp only [specialVal, ftrigVal, beq_self_eq_true, if_true, roundTo_one]
    rfl

/-! ### Finite sources -/

theorem special_finite {ftz : Bool} {w : W32} (h : magOf w < 0x7F800000) (h0 : 0 < magOf w) (hf : ftz = true → 0x00800000 ≤ magOf w) :
    let neg := w.getLsbD 31
    let sgn : W32 := if neg then 0x80000000#32 else 0#32
    let nv : W32 × W32 := (0x7FC00000#32, 1#32)
    let c : RCtx := ⟨.rne, 0#32, false, ftz⟩
    let r (n : Nat) : Nat × W32 := ((special n ftz w).1.toNat, (special n ftz w).2)
    let x : ℝ := (tyF32.mag (magOf w) : ℝ)
    let y : ℝ := if neg then -x else x
    (neg = true → special 1 ftz w = nv ∧ special 2 ftz w = nv ∧ special 4 ftz w = nv) ∧
    RoundsTo tyF32 c neg (1 / x) (r 0) ∧
    (neg = false → RoundsTo tyF32 c false (1 / Real.sqrt x) (r 1) ∧ RoundsTo tyF32 c false (Real.sqrt x) (r 2)) ∧
    ((∃ k : Int, y = k) ∨ 1024 ≤ x → RoundsTo tyF32 c false ((2 : ℝ) ^ y) (r 3)) ∧
    (∀ k : Int, neg = false → x = (2 : ℝ) ^ k →
      (k = 0 → r 4 = (0, 0#32)) ∧ (k ≠ 0 → RoundsTo tyF32 c (decide (k < 0)) |(k : ℝ)| (r 4))) ∧
    (64 ≤ x → special 7 ftz w = (sgn ||| 0x3F800000#32, 8#32)) := by
  obtain ⟨n, e, hd, hn, hlt, hx, hy⟩ := flushWord_decode_number h h0 hf
  have hne : (n == 0) = false := beq_false_of_ne hn.ne'
  intro neg sgn nv c r x y
  have hpos : 0 < x := by show (0 : ℝ) < (tyF32.mag (magOf w) : ℝ); rw [hx]; positivity
  have hrounds : ∀ {fn p a}, 0 < a → RoundsTo tyF32 (specialCtx ftz) p a (specialVal fn (specialCtx ftz) (flushWord ftz w) (.num neg n e)) →
      RoundsTo tyF32 c p a (r fn) := fun ha hr => special_rounds hd (roundsTo_lt ha hr) hr
  refine ⟨fun hneg => ?_, hrounds (by positivity) ?_, fun hneg => ⟨hrounds (by positivity) ?_, hrounds (by positivity) ?_⟩,
    fun hk => hrounds (by positivity) ?_, fun k hneg hk => ?_, fun h64 => ?_⟩
  · rw [special_eq, special_eq, special_eq, hd, show w.getLsbD 31 = true from hneg]
    simp only [specialVal, frsqVal, fsqrtVal, flog2Val, hne, Bool.false_eq_true, if_false, if_true]
    exact ⟨rfl, rfl, rfl⟩
  · simp only [specialVal, frcpVal, hne, Bool.false_eq_true, if_false]
    have hr := roundTo_spec (specialCtx ftz) neg (n := 1) (-e) tyF32_known one_pos hn
    convert hr using 1
    show 1 / (tyF32.mag (magOf w) : ℝ) = _
    rw [hx, zpow_neg, Nat.cast_one, one_div, one_div, mul_inv]
  · rw [hneg]
    show RoundsTo tyF32 _ false (1 / Real.sqrt (tyF32.mag (magOf w) : ℝ)) _
    rw [hx]
    exact frsqVal_rounds rfl hn hlt
  · rw [hneg]
    show RoundsTo tyF32 _ false (Real.sqrt (tyF32.mag (magOf w) : ℝ)) _
    rw [hx]
    exact fsqrtVal_rounds rfl hn
  · have hyr : y = ((numberOf neg n e : ℚ) : ℝ) := hy.symm
    rw [hyr]
    refine fexp2Val_rounds rfl hn (hk.imp (fun ⟨k, hk⟩ => ⟨k, ?_⟩) fun hk => hx ▸ hk)
    rw [hyr] at hk
    exact_mod_cast hk
  · obtain ⟨hzero, hnonzero⟩ := flog2Val_rounds (c := specialCtx ftz) (y := flushWord ftz w) hn (hx.symm.trans hk)
    refine ⟨fun h0 => ?_, fun h0 => hrounds (abs_pos.mpr (by exact_mod_cast h0)) ?_⟩
    · show ((special 4 ftz w).1.toNat, (special 4 ftz w).2) = _
      rw [special_eq, hd, show w.getLsbD 31 = false from hneg]
      show ((asWord (flog2Val _ _ _)).1.toNat, (asWord (flog2Val _ _ _)).2) = _
      rw [hzero h0]
      rfl
    · rw [hneg]
      exact hnonzero h0
  · have hlog : 6 ≤ floorLog2 n 1 e := (le_floorLog2_iff 6 hn).mpr (by rw [← hx]; norm_num; exact h64)
    rw [special_eq, hd]
    simp only [specialVal, ftanhVal, hne, Bool.false_eq_true, if_false, hlog, if_true, roundTo_below_one]
    show asWord (tyF32.sgn neg + 0x3F800000, 8#32) = _
    show _ = ((if neg then 0x80000000#32 else 0#32) ||| 0x3F800000#32, 8#32)
    cases neg <;> rfl

/-- Settles O25: the table and the roundings of the special functions, and the arithmetic of every float type. -/
theorem specialFunctions : Obligations.SpecialFunctions := by
  refine ⟨?_, ?_, fun t c ht => floatType_arithmetic t c ht, ?_⟩
  · intro d a la s gives
    exact ⟨special_outstands rfl, special_outstands rfl, special_outstands rfl, special_outstands rfl, special_outstands rfl, special_outstands rfl,
      special_outstands rfl, special_outstands rfl⟩
  · intro ftz w m neg sgn nv inf c r x y
    exact ⟨fun h n _ => special_table_nan h n, special_table_inf, special_table_zero, special_finite⟩
  · intro x y c half
    exact ⟨rfl, addFWord_halves x y⟩

end Sys2Proof.Machine
end

section
/-! O51: the SR-record step of a pair's second word. Each state's descriptors are lists of words, and one that a snapshot holds with fewer than 15
words has no word 14 for the step to put its own number in. -/

namespace Sys2Proof.Machine

/-- The second word of a pair, which began while the record of tensor 0 was listed with no words. -/
def pairWithBareRecord : State :=
  { State.reset with snap := some ⟨Pod.reset, Team.reset, { Context.fresh 0 with descs := [(0, [])] }⟩ }

/-- The site of owner 0. -/
def ownerSite : Site := { owner := 0, agent := .graph, kind := 5 }

/-- R68: the step on that record copies back its word 14, which is missing, and so writes no step. -/
theorem srStep_bareRecord : (performSrStep pairWithBareRecord ownerSite 0 1#32 0#32 (.grid 0)).ctx.descs = [] := by decide +kernel

/-- Refutes O51: in `pairWithBareRecord` the step 1 on the record of tensor 0 leaves it without words, where the statement has 1 as its last step. -/
theorem not_hops : ¬ Obligations.Hops := by
  unfold Obligations.Hops
  rintro ⟨-, -, -, -, -, -, hstep⟩
  obtain ⟨hfirst, -, -⟩ := hstep pairWithBareRecord ownerSite 0 (.grid 0) 1#32 0#32
  have hdescs := congrArg (fun u : State => u.ctx.descs) (hfirst (.inl rfl))
  exact absurd (srStep_bareRecord.symm.trans hdescs) (by decide +kernel)

end Sys2Proof.Machine
end

section
/-! O53: what a drain leaves of a team in focus. A command sets its FLAGS in the list of teams, and a team in focus is read from its focused copy. -/

namespace Sys2Proof.Machine

/-- A team in focus is its focused copy, with the focused pod. -/
theorem teamOf_focus {s : State} {id i : Nat} (h : s.cur = .pod id i) :
    s.teamOf id = some { s.team with pods := replaceIf s.team.pods (·.index == i) fun _ => s.pod } := by
  unfold State.teamOf
  rw [h]
  exact if_pos (beq_self_eq_true id)

/-- Bytes stored leave the focus as it is. -/
theorem storeAt_focus (s : State) (key a : Nat) (l : List Byte) :
    (storeAt s key a l).cur = s.cur ∧ (storeAt s key a l).team = s.team ∧ (storeAt s key a l).pod = s.pod := by
  rw [storeAt_onlyBytes (s := s)]
  exact ⟨rfl, rfl, rfl⟩

/-- A drain into the tile store that makes no SR step leaves the focus as it is, FLAGS of the focused copy among it. -/
theorem runTileDrain_focus {s : State} {t : Team} {m : MatCmd} (h : matrixSrStep s m = s) :
    (runTileDrain s t m).cur = s.cur ∧ (runTileDrain s t m).team = s.team ∧ (runTileDrain s t m).pod = s.pod := by
  unfold runTileDrain
  dsimp only
  rw [h]
  generalize packBits _ _ = codes
  generalize List.map (BitVec.ofNat 8) _ = scales
  obtain ⟨hc, ht, hp⟩ := storeAt_focus s (s.ctxOf t.owner).key (tileAt t.core t.tileBase + 64 * regionOfs m.sx) codes
  obtain ⟨hc', ht', hp'⟩ := storeAt_focus (storeAt s (s.ctxOf t.owner).key (tileAt t.core t.tileBase + 64 * regionOfs m.sx) codes) (s.ctxOf t.owner).key
    (tileAt t.core t.tileBase + 64 * regionOfs m.sx + elemBytes (shapeM m.shape) (shapeN m.shape) (descFmt m.dx) false) scales
  exact ⟨hc'.trans hc, ht'.trans ht, hp'.trans hp⟩

theorem runTileDrain_teamOf_focus {s : State} {t : Team} {m : MatCmd} {id i : Nat} (h : matrixSrStep s m = s) (hf : s.cur = .pod id i) :
    (runTileDrain s t m).teamOf id = s.teamOf id := by
  obtain ⟨hc, ht, hp⟩ := runTileDrain_focus (t := t) h
  rw [teamOf_focus hf, teamOf_focus (hc.trans hf), ht, hp]

/-- A started drain of 16 × 16 zeros from I32 to I8, whose zero point 200 lies past the type. -/
def saturatingDrain : MatCmd :=
  { id := 1, core := 0, team := 0, pod := 0, instr := .mdrain 1#3 0#5 0#5 0#5 0#4 0#1, sx := 0#32, sy := 0#32, sz := 0#32, sz1 := 0#32, shape := 0#7,
    step := 0#32, mode := 1#32, key := 0#32, dx := [0x01#32, 200#32], dy := [0x05#32], dz := [], started := true, next := 0, stopped := none,
    legNo := 0, stall := none }

/-- Its team stands in focus, and its owner is resident. -/
def drainInFocus : State := { State.reset with cur := .pod 0 0, resident := Vector.replicate 4 (some 0), mats := [saturatingDrain] }

/-- The team of that drain. -/
def drainTeam : Team := Team.reset

theorem drainInFocus_team : drainInFocus.teamOf 0 = some drainTeam := rfl

/-- R250: each row of that drain saturates. -/
theorem saturatingDrain_flags : (drainRow drainInFocus saturatingDrain saturatingDrain.fField (saturatingDrain.source drainTeam) 0 16).flags = 16#32 := by
  decide +kernel

/-- The drain's operands hold, and its effect is the drain into the tile store. -/
theorem saturatingDrain_runs :
    runMatrix drainInFocus drainTeam saturatingDrain = some (.ok (runTileDrain drainInFocus drainTeam saturatingDrain)) := rfl

/-- Refutes O53: the drain of `drainInFocus` saturates, and its team, read from the focused copy, has no FLAGS.ISAT afterwards. -/
theorem not_engineEvents : ¬ Obligations.EngineEvents := by
  unfold Obligations.EngineEvents
  intro h
  obtain ⟨hmats, -⟩ := h 1 0 0 drainInFocus drainInFocus drainTeam saturatingDrain (newCopy drainInFocus .nop 0#5 0#5 0#5)
    (newCopy drainInFocus .nop 0#5 0#5 0#5) (.plain .shape) rfl rfl
  obtain ⟨-, -, hdrain, -⟩ := hmats rfl rfl drainInFocus_team
  obtain ⟨htile, -⟩ := hdrain rfl rfl rfl rfl
  obtain ⟨v, hrun, ⟨F, hteam, hF⟩, -⟩ := htile ⟨1#3, 0#5, 0#5, 0#5, 0#4, .inl rfl⟩
  have hstep : matrixSrStep drainInFocus saturatingDrain = drainInFocus := rfl
  have hv : v = runTileDrain drainInFocus drainTeam saturatingDrain := Except.ok.inj (Option.some.inj (hrun.symm.trans saturatingDrain_runs))
  have hkept : v.teamOf 0 = some drainTeam := by rw [hv, runTileDrain_teamOf_focus hstep rfl, drainInFocus_team]
  have hrow : (drainRow drainInFocus saturatingDrain saturatingDrain.fField (saturatingDrain.source drainTeam) 0 16).flags.getLsbD 4 = true := by
    rw [saturatingDrain_flags]; decide
  have hisat : F.getLsbD 4 = true := (hF 4).mpr ⟨0, by decide, hrow⟩
  have hflags : drainTeam.flags = drainTeam.flags ||| F := by
    rw [hstep] at hteam
    have := hkept.symm.trans hteam
    rw [show saturatingDrain.team = 0 from rfl, drainInFocus_team] at this
    exact congrArg (fun n => (n.getD drainTeam).flags) this
  rw [show drainTeam.flags = 0#32 from rfl, BitVec.zero_or] at hflags
  rw [← hflags] at hisat
  exact absurd hisat (by decide)

end Sys2Proof.Machine
end

section
/-! O46: the die scratch that a copy's check reads, which is that of the context before its pair. -/

namespace Sys2Proof.Machine

/-- The pod of a TCPY into the tile store from D, of one granule at offset 0. -/
def scratchCopyPod : Pod := { Pod.reset with s := (Vector.replicate 32 0#32).setIfInBounds 2 0x04000001#32 }

/-- A valid descriptor of tensor 0, and die scratch. -/
def scratchCopyCtx : Context := { Context.fresh 0 with descs := [(0, [0x80000000#32])], scratch := 1 }

/-- A team whose allocation holds the copied granule. -/
def scratchCopyTeam : Team := { Team.reset with tileSize := 64 }

/-- The second word of a pair: the context had die scratch before the pair, and has none now. -/
def copyBesideScratch : State :=
  { State.reset with snap := some ⟨scratchCopyPod, scratchCopyTeam, scratchCopyCtx⟩, ctx := { scratchCopyCtx with scratch := 0 }, team := scratchCopyTeam,
                     pod := scratchCopyPod }

/-- R255: the copy of `copyBesideScratch` passes its checks, held against the scratch before the pair. -/
theorem scratchCopy_passes : (newCopy copyBesideScratch (.tcpy 0#5 1#5 2#5 0#4) 0#5 1#5 2#5).check (srcCtx copyBesideScratch) copyBesideScratch.team.tileSize = none := by
  decide +kernel

/-- A copy that passes its checks is offered to its channel. -/
theorem exec_tcpy_passed {x y z : BitVec 5} {l : BitVec 4} {s : State}
    (h : (newCopy s (.tcpy x y z l) x y z).check (srcCtx s) s.team.tileSize = none) :
    exec (.tcpy x y z l) s = settle s (queueCopy s (newCopy s (.tcpy x y z l) x y z) x l) := by
  show settle s (passed _ >>= fun _ => _) = _
  rw [h]
  rfl

/-- The copy of `copyBesideScratch` is queued, and so its pod notes no fault. -/
theorem scratchCopy_queued : ∃ t, exec (.tcpy 0#5 1#5 2#5 0#4) copyBesideScratch = .next t ∧ t.note = .none :=
  ⟨_, exec_tcpy_passed scratchCopy_passes, rfl⟩

/-- Refutes O46: in `copyBesideScratch` every check up to the last holds, and the scratch of the context ends at 0, where the model, which reads the scratch
that stood before the pair, queues the copy. -/
theorem not_copyCommands : ¬ Obligations.CopyCommands := by
  unfold Obligations.CopyCommands
  intro h
  obtain ⟨⟨hstop, -⟩, -⟩ := h 0#5 1#5 2#5 0#4 copyBesideScratch
  have hlast := hstop 6 _ _ rfl (by
    simp only [List.cons_append, List.nil_append, List.take_succ_cons, List.take_zero, List.forall_mem_cons, List.not_mem_nil, false_implies, implies_true]
    decide +kernel) (by decide +kernel)
  obtain ⟨t, ht, hnote⟩ := scratchCopy_queued
  have htrap := Host.Outcome.next.inj (ht.symm.trans hlast)
  rw [htrap, takeTrap_note] at hnote
  cases hnote

end Sys2Proof.Machine
end

section
/-! O44, part 1: checks in order, and the stop of the first that fails. -/

namespace Sys2Proof.Machine

/-! ### The first check that fails -/

/-- `o` is the stop of the first check of `l` that fails; none where they all hold. -/
def Finds (o : Option Stop) (l : List (Prop × Stop)) : Prop :=
  (∀ n p e, l[n]? = some (p, e) → (∀ q ∈ l.take n, q.1) → ¬p → o = some e) ∧ ((∀ q ∈ l, q.1) → o = none)

theorem finds_nil : Finds none [] := ⟨fun n p e h => by simp at h, fun _ => rfl⟩

/-- A check put before others that are made where it holds. -/
theorem finds_guard {r : Option Stop} {l : List (Prop × Stop)} {p : Prop} {e : Stop} (hn : ¬p → r = some e) (hp : p → Finds r l) : Finds r ((p, e) :: l) := by
  refine ⟨fun n q f hq hbefore hfails => ?_, fun hall => ?_⟩
  · cases n with
    | zero =>
      obtain ⟨rfl, rfl⟩ := Prod.mk.inj (Option.some.inj hq)
      exact hn hfails
    | succ k =>
      rw [List.take_succ_cons, List.forall_mem_cons] at hbefore
      exact (hp hbefore.1).1 k q f hq hbefore.2 hfails
  · rw [List.forall_mem_cons] at hall
    exact (hp hall.1).2 hall.2

/-- A check put before the others. -/
theorem finds_cons {o r : Option Stop} {l : List (Prop × Stop)} {p : Prop} {e : Stop} (hp : p → r = o) (hn : ¬p → r = some e) (h : Finds o l) :
    Finds r ((p, e) :: l) := finds_guard hn fun h1 => hp h1 ▸ h

/-- One check. -/
theorem finds_single {p : Prop} {e : Stop} {o : Option Stop} (hp : p → o = none) (hn : ¬p → o = some e) : Finds o [(p, e)] := finds_cons hp hn finds_nil

/-- Checks that are made where the earlier ones hold. -/
theorem finds_append {o r : Option Stop} {l m : List (Prop × Stop)} (h : Finds o l) (k : Finds r m) : Finds (o.or r) (l ++ m) := by
  obtain ⟨hstop, hnone⟩ := h
  obtain ⟨kstop, knone⟩ := k
  refine ⟨fun n p e hn hbefore hp => ?_, fun hall => ?_⟩
  · rcases Nat.lt_or_ge n l.length with hlt | hge
    · rw [List.getElem?_append_left hlt] at hn
      rw [List.take_append_of_le_length (Nat.le_of_lt hlt)] at hbefore
      rw [hstop n p e hn hbefore hp, Option.some_or]
    · rw [List.getElem?_append_right hge] at hn
      rw [List.take_append, List.take_of_length_le hge, List.forall_mem_append] at hbefore
      rw [hnone hbefore.1, Option.none_or]
      exact kstop _ p e hn hbefore.2 hp
  · rw [List.forall_mem_append] at hall
    rw [hnone hall.1, knone hall.2, Option.or_none]

/-- An instruction that takes the stop of the first check that fails. -/
theorem Finds.checked {i : Instr} {s : State} {o : Option Stop} {l : List (Prop × Stop)} {rest : Prop} (h : Finds o l)
    (hstop : ∀ e, o = some e → exec i s = .next (takeTrap s e)) (hrest : o = none → rest) : Checked i s l rest :=
  ⟨fun n p e hn hbefore hp => hstop e (h.1 n p e hn hbefore hp), fun hall => hrest (h.2 hall)⟩

theorem firstStop_nil {α : Type} {f : α → Option Stop} : firstStop [] f = none := rfl

theorem firstStop_cons {α : Type} {f : α → Option Stop} {x : α} {r : List α} : firstStop (x :: r) f = (f x).or (firstStop r f) := by
  unfold firstStop
  cases h : f x with
  | none => rw [List.filterMap_cons_none h, Option.none_or]
  | some e => rw [List.filterMap_cons_some h, List.head?_cons, Option.some_or]

theorem finds_firstOf_nil : Finds (firstOf []) [] := finds_nil

theorem finds_firstOf_cons {b : Bool} {p : Prop} {e : Stop} {r : List (Bool × Stop)} {l : List (Prop × Stop)} (hb : b = true ↔ p)
    (h : Finds (firstOf r) l) : Finds (firstOf ((b, e) :: r)) ((p, e) :: l) := by
  have he : firstOf ((b, e) :: r) = if b then firstOf r else some e := by
    unfold firstOf
    rw [firstStop_cons]
    cases b <;> rfl
  rw [he]
  exact finds_cons (fun hp => if_pos (hb.mpr hp)) (fun hp => if_neg (mt hb.mp hp)) h

end Sys2Proof.Machine
end
section
/-! O44, part 2: region words, descriptors and the checks of R81. -/

namespace Sys2Proof.Machine

/-! ### Fields of words -/

theorem testBit_toNat (w : W32) (k : Nat) : w.toNat.testBit k = w.getLsbD k := BitVec.testBit_toNat w

theorem recordField_eq (d : List W32) (k lo n : Nat) : recordField d k lo n = ((wordAt d k).extractLsb' lo n).toNat := by
  rw [BitVec.extractLsb'_toNat, Nat.shiftRight_eq_div_pow]
  rfl

theorem recordField_word (d : List W32) (k : Nat) : recordField d k 0 32 = (wordAt d k).toNat := by
  rw [recordField_eq, BitVec.extractLsb'_eq_self]

theorem recordField_bit (d : List W32) (k lo : Nat) : recordField d k lo 1 = 1 ↔ (wordAt d k).getLsbD lo = true := by
  rw [← testBit_toNat, Nat.testBit_eq_decide_div_mod_eq, decide_eq_true_iff]
  rfl

theorem descFmt_eq (d : List W32) : descFmt d = recordField d 0 0 8 := (recordField_eq d 0 0 8).symm

theorem descTkr_eq (d : List W32) : descTkr d = recordField d 0 24 4 := (recordField_eq d 0 24 4).symm

theorem descSize_eq (d : List W32) (k : Nat) : descSize d k = recordField d (6 + k) 0 32 := (recordField_word d (6 + k)).symm

theorem descBase_eq (d : List W32) : descBase d = recordField d 2 0 32 + 2 ^ 32 * recordField d 3 0 32 := by
  rw [recordField_word, recordField_word, descBase, BitVec.toNat_append, ← Nat.shiftLeft_add_eq_or_of_lt (wordAt d 2).isLt, Nat.shiftLeft_eq, Nat.add_comm,
    Nat.mul_comm]

theorem descStride_eq (d : List W32) (k : Nat) : descStride d k = recordField d (9 + k) 0 32 + 2 ^ 32 * recordField d 13 (8 * (k - 1)) 8 := by
  rw [recordField_word, recordField_eq]
  rfl

theorem regionOfs_eq (w : W32) : regionOfs w = w.toNat % 2 ^ 15 := by
  rw [regionOfs, BitVec.extractLsb'_toNat, Nat.shiftRight_zero]

theorem regionTid_eq (w : W32) : regionTid w = w.toNat / 2 ^ 15 % 4096 := by
  rw [regionTid, BitVec.extractLsb'_toNat, Nat.shiftRight_eq_div_pow]

theorem regionFlg_toNat (w : W32) : (regionFlg w).toNat = w.toNat / 2 ^ 28 := by
  have hw := w.isLt
  rw [regionFlg, BitVec.extractLsb'_toNat, Nat.shiftRight_eq_div_pow]
  omega

theorem regionTr_eq (w : W32) : regionTr w = w.toNat.testBit 27 := (testBit_toNat w 27).symm

/-- R240: the rule of the control and scope nibbles. -/
theorem controlOk_iff (drain : Bool) (flg scope : BitVec 4) : controlOk drain flg scope = true ↔
    (drain = true ∨ flg.toNat % 4 = 0) ∧ (scope.toNat = 0 ∨ 4 ≤ flg.toNat) ∧ scope.toNat < 12 := by
  have hlow : flg.extractLsb' 0 2 = 0#2 ↔ flg.toNat % 4 = 0 := by simp [BitVec.toNat_eq]
  have hhigh : flg.extractLsb' 2 2 ≠ 0#2 ↔ 4 ≤ flg.toNat := by
    have := flg.isLt
    rw [ne_eq, BitVec.toNat_eq, BitVec.extractLsb'_toNat, Nat.shiftRight_eq_div_pow, BitVec.toNat_ofNat]
    omega
  have hscope : scope = 0#4 ↔ scope.toNat = 0 := by simp [BitVec.toNat_eq]
  unfold controlOk
  rw [Bool.and_eq_true, Bool.and_eq_true, Bool.or_eq_true, Bool.or_eq_true, beq_iff_eq, beq_iff_eq, bne_iff_ne, hlow, hhigh, hscope, BitVec.ult_iff_lt, and_assoc]
  rfl

/-! ### Formats and sizes -/

theorem fmtBits_small : ∀ fmt < 34, fmtBits fmt = elementBits fmt := by decide

theorem fmtBits_eq (fmt : Nat) : fmtBits fmt = elementBits fmt := by
  by_cases h : fmt < 34
  · exact fmtBits_small fmt h
  · obtain ⟨n, rfl⟩ := Nat.exists_eq_add_of_le' (Nat.not_lt.mp h)
    simp [elementBits, fmtBits]

theorem fmtMx_iff (fmt : Nat) : fmtMx fmt = true ↔ isMx fmt := by simp [fmtMx, isMx]

theorem fmtInt8_iff (fmt : Nat) : fmtInt8 fmt = true ↔ fmt = 1 ∨ fmt = 2 := by simp [fmtInt8]

/-- Whole blocks of 1 KiB hold the same whole granules. -/
theorem elemBytes_eq (r k fmt : Nat) (tr : Bool) : elemBytes r k fmt tr =
    if tr then ((r * k * elementBits fmt + 7) / 8 + 1023) / 1024 * 1024 else ((r * k * elementBits fmt + 7) / 8 + 63) / 64 * 64 := by
  unfold elemBytes granBytes
  rw [fmtBits_eq]
  cases tr with
  | false => simp only [Bool.false_eq_true, if_false]
  | true =>
    simp only [if_true]
    omega

theorem operandBytes_eq (r k fmt : Nat) (tr : Bool) : operandBytes r k fmt tr = operandSize r k fmt tr := by
  have hmx : (if fmtMx fmt then granBytes (r * k / 32) else 0) = if 0x18 ≤ fmt ∧ fmt ≤ 0x1C then (r * k / 32 + 63) / 64 * 64 else 0 :=
    if_congr (fmtMx_iff fmt) rfl rfl
  rw [operandBytes, operandSize, elemBytes_eq, hmx]

/-- R244: side k of a grant: M, N and K. -/
def grantSide (g : BitVec 7) (k : Nat) : Nat := 16 * 2 ^ (g.toNat / 4 ^ k % 4)

theorem shapeM_eq (g : BitVec 7) : shapeM g = grantSide g 0 := by simp [shapeM, grantSide]

theorem shapeN_eq (g : BitVec 7) : shapeN g = grantSide g 1 := by simp [shapeN, grantSide, Nat.shiftRight_eq_div_pow]

theorem shapeK_eq (g : BitVec 7) : shapeK g = grantSide g 2 := by simp [shapeK, grantSide, Nat.shiftRight_eq_div_pow]

end Sys2Proof.Machine
end
section
/-! O44, part 3: the checks of a command in the order of R81. -/

namespace Sys2Proof.Machine

/-! ### One region word -/

/-- R79: the format of the tensor that a region word names. -/
def namedFmt (c : Context) (w : W32) : Nat := recordField (descOf c (w.toNat / 2 ^ 15 % 4096)) 0 0 8

theorem descFmt_named (c : Context) (w : W32) : descFmt (descOf c (regionTid w)) = namedFmt c w := by
  rw [descFmt_eq, regionTid_eq]
  rfl

/-- R81, step 2. -/
def nameStop (c : Context) (u : RegionUse) : Option Stop :=
  if descValid (descOf c (regionTid u.word)) && u.accepts (descFmt (descOf c (regionTid u.word))) then none else some (tensorStop (regionTid u.word))

/-- R81, step 3. -/
def blockStop (u : RegionUse) : Option Stop :=
  if u.readOnly && u.tile && regionTr u.word && regionOfs u.word % 16 != 0 then
    some { code := .misaligned, addr := BitVec.ofNat 64 (64 * regionOfs u.word), info1 := BitVec.ofNat 32 accRead }
  else none

/-- R81, step 4. -/
def fitStop (c : Context) (size : Nat) (u : RegionUse) : Option Stop :=
  if u.tile && decide (size < 64 * regionOfs u.word + u.bytes (descFmt (descOf c (regionTid u.word)))) then some (boundsStop 0) else none

theorem regionNames_eq (c : Context) (uses : List RegionUse) : regionNames c uses = (firstStop uses (nameStop c)).or (firstStop uses blockStop) := by
  show (match firstStop uses (nameStop c) with | some t => some t | none => firstStop uses blockStop) = _
  cases firstStop uses (nameStop c) <;> rfl

theorem regionFits_eq (c : Context) (size : Nat) (uses : List RegionUse) : regionFits c size uses = firstStop uses (fitStop c size) := rfl

/-- The check that a word names a valid descriptor of a format that `ok` allows. -/
def namesCheck (c : Context) (w : W32) (ok : Nat → Prop) : Prop × Stop :=
  (recordField (descOf c (w.toNat / 2 ^ 15 % 4096)) 0 31 1 = 1 ∧ ok (namedFmt c w),
    { code := .tensorDescriptor, info0 := BitVec.ofNat 32 (w.toNat / 2 ^ 15 % 4096) })

/-- The check of a transposed source's alignment. -/
def blocksCheck (w : W32) : Prop × Stop :=
  (w.toNat.testBit 27 = true → w.toNat % 16 = 0, { code := .misaligned, addr := BitVec.ofNat 64 (64 * (w.toNat % 2 ^ 15)), info1 := 1#32 })

/-- The check that n bytes of a region lie inside the allocation. -/
def insideCheck (size : Nat) (w : W32) (n : Nat) : Prop × Stop := (64 * (w.toNat % 2 ^ 15) + n ≤ size, { code := .regionBounds })

section
variable {c : Context} {size n : Nat} {w : W32} {acc : Nat → Bool} {ok : Nat → Prop} {bytes : Nat → Nat} {ro tile : Bool}

theorem finds_nameStop (h : ∀ k, acc k = true ↔ ok k) : Finds (nameStop c ⟨w, acc, bytes, ro, tile⟩) [namesCheck c w ok] := by
  have hb : (descValid (descOf c (regionTid w)) && acc (descFmt (descOf c (regionTid w)))) = true ↔ (namesCheck c w ok).1 := by
    rw [Bool.and_eq_true, h, descFmt_named, regionTid_eq]
    exact and_congr_left' (recordField_bit _ _ _).symm
  unfold nameStop
  dsimp only
  refine finds_single (fun hp => if_pos (hb.mpr hp)) fun hp => ?_
  rw [if_neg (mt hb.mp hp), regionTid_eq]
  rfl

theorem finds_blockStop : Finds (blockStop ⟨w, acc, bytes, true, true⟩) [blocksCheck w] := by
  have hb : (regionTr w && regionOfs w % 16 != 0) = true ↔ ¬(blocksCheck w).1 := by
    rw [Bool.and_eq_true, bne_iff_ne, regionTr_eq, regionOfs_eq]
    show _ ↔ ¬(w.toNat.testBit 27 = true → w.toNat % 16 = 0)
    rw [Classical.not_imp]
    exact and_congr_right' (by omega)
  unfold blockStop
  dsimp only
  rw [Bool.true_and, Bool.true_and]
  refine finds_single (fun hp => if_neg fun h => hb.mp h hp) fun hp => ?_
  rw [if_pos (hb.mpr hp), regionOfs_eq]
  rfl

/-- A region that is written is not held against its alignment. -/
theorem finds_blockStop_written : Finds (blockStop ⟨w, acc, bytes, false, tile⟩) [] := finds_nil

theorem finds_fitStop_if {p : Prop} (hp : tile = true ↔ p) (hn : bytes (namedFmt c w) = n) :
    Finds (fitStop c size ⟨w, acc, bytes, ro, tile⟩) [(p → (insideCheck size w n).1, { code := .regionBounds })] := by
  have hb : (tile && decide (size < 64 * regionOfs w + bytes (descFmt (descOf c (regionTid w))))) = true ↔ ¬(p → (insideCheck size w n).1) := by
    rw [Bool.and_eq_true, decide_eq_true_iff, regionOfs_eq, descFmt_named, hn, hp, Classical.not_imp, ← Nat.not_le]
    rfl
  unfold fitStop
  dsimp only
  exact finds_single (fun h => if_neg fun hn => hb.mp hn h) fun h => if_pos (hb.mpr h)

theorem finds_fitStop (hn : bytes (namedFmt c w) = n) :
    Finds (fitStop c size ⟨w, acc, bytes, ro, true⟩) [insideCheck size w n] := by
  have h := finds_fitStop_if (size := size) (acc := acc) (ro := ro) (tile := true) (p := True) (iff_of_true rfl trivial) hn
  rwa [true_imp_iff] at h

end

/-! ### One, two and three region words -/

section
variable {f : RegionUse → Option Stop} {u v w : RegionUse} {k l m : List (Prop × Stop)}

theorem finds_one (hu : Finds (f u) l) : Finds (firstStop [u] f) l := by
  rw [firstStop_cons, firstStop_nil, Option.or_none]
  exact hu

theorem finds_two (hu : Finds (f u) l) (hv : Finds (f v) m) : Finds (firstStop [u, v] f) (l ++ m) := by
  rw [firstStop_cons]
  exact finds_append hu (finds_one hv)

theorem finds_three (hu : Finds (f u) k) (hv : Finds (f v) l) (hw : Finds (f w) m) : Finds (firstStop [u, v, w] f) (k ++ (l ++ m)) := by
  rw [firstStop_cons]
  exact finds_append hu (finds_two hv hw)

end

/-! ### A whole command -/

/-- R240: the check of the nibbles of a control word; `free` for a command that takes ADD and TKT. -/
def nibblesCheck (free : Prop) (a b : W32) : Prop × Stop :=
  ((free ∨ a.toNat / 2 ^ 28 % 4 = 0) ∧ (b.toNat / 2 ^ 28 = 0 ∨ 4 ≤ a.toNat / 2 ^ 28) ∧ b.toNat / 2 ^ 28 < 12, { code := .reservedField })

theorem controlOk_words {drain : Bool} {free : Prop} (h : drain = true ↔ free) (a b : W32) :
    controlOk drain (regionFlg a) (regionFlg b) = true ↔ (nibblesCheck free a b).1 := by
  rw [controlOk_iff, regionFlg_toNat, regionFlg_toNat, h]
  rfl

theorem controlOk_plain (a b : W32) : controlOk false (regionFlg a) (regionFlg b) = true ↔ (nibblesCheck False a b).1 :=
  controlOk_words (iff_of_false Bool.false_ne_true id) a b

section
variable {m : MatCmd} {c : Context} {size : Nat} {p0 p1 : Prop} {names blocks fits own : List (Prop × Stop)}

theorem MatCmd.check_eq (m : MatCmd) (c : Context) (size : Nat) : m.check c size =
    if m.ownChecks.1 then ((firstStop m.uses (nameStop c)).or (firstStop m.uses blockStop)).or
      (if m.sized && !shapeValid m.shape then some { code := .shape } else if !m.counted then some { code := .reservedField }
       else (firstStop m.uses (fitStop c size)).or m.ownChecks.2)
    else some { code := .reservedField } := by
  unfold MatCmd.check
  rw [regionNames_eq, regionFits_eq]
  cases m.ownChecks.1 with
  | false => rfl
  | true =>
    cases (firstStop m.uses (nameStop c)).or (firstStop m.uses blockStop) with
    | some t => rfl
    | none => cases firstStop m.uses (fitStop c size) <;> rfl

/-- R81, R244: the checks of a command that needs a grant. -/
theorem MatCmd.finds_check_sized (hsized : m.sized = true) (hcount : m.counted = true) (hctl : m.ownChecks.1 = true ↔ p0)
    (hnames : Finds (firstStop m.uses (nameStop c)) names) (hblocks : Finds (firstStop m.uses blockStop) blocks)
    (hfits : Finds (firstStop m.uses (fitStop c size)) fits) (hown : Finds m.ownChecks.2 own) :
    Finds (m.check c size) ((p0, { code := .reservedField }) :: (names ++ blocks ++ (m.shape.getLsbD 6 = true, { code := .shape }) :: (fits ++ own))) := by
  rw [MatCmd.check_eq, hsized, hcount]
  refine finds_cons (fun hp => if_pos (hctl.mpr hp)) (fun hp => if_neg (mt hctl.mp hp)) (finds_append (finds_append hnames hblocks) ?_)
  refine finds_cons (fun hp => ?_) (fun hp => ?_) (finds_append hfits hown)
  · rw [shapeValid, hp]; rfl
  · rw [shapeValid, Bool.eq_false_iff.mpr hp]; rfl

/-- R81, R253, R254: the checks of a command that needs no grant. -/
theorem MatCmd.finds_check_unsized (hsized : m.sized = false) (hcount : m.counted = true ↔ p1) (hctl : m.ownChecks.1 = true ↔ p0)
    (hnames : Finds (firstStop m.uses (nameStop c)) names) (hblocks : Finds (firstStop m.uses blockStop) blocks)
    (hfits : Finds (firstStop m.uses (fitStop c size)) fits) (hown : Finds m.ownChecks.2 own) :
    Finds (m.check c size) ((p0, { code := .reservedField }) :: (names ++ blocks ++ (p1, { code := .reservedField }) :: (fits ++ own))) := by
  rw [MatCmd.check_eq, hsized]
  refine finds_cons (fun hp => if_pos (hctl.mpr hp)) (fun hp => if_neg (mt hctl.mp hp)) (finds_append (finds_append hnames hblocks) ?_)
  refine finds_cons (fun hp => ?_) (fun hp => ?_) (finds_append hfits hown)
  · rw [hcount.mpr hp]; rfl
  · rw [Bool.eq_false_iff.mpr (mt hcount.mp hp)]; rfl

end

end Sys2Proof.Machine
end
section
/-! O44, part 4: a command that passes its checks is queued, or its pod waits. -/

namespace Sys2Proof.Machine

/-- R238: fewer than 16 commands of resident owners are queued on the core. -/
def Room (s : State) : Prop :=
  (s.mats.filter fun m => m.core == (srcTeam s).core && isResident s (match s.teamOf m.team with | some t => t.owner | none => 0)).length < 16

/-- R238, R241: what a command captures at issue. -/
def Captured (s : State) (m : MatCmd) (i : Instr) (x y z : BitVec 5) : Prop :=
  let reg (k : Nat) : W32 := (srcPod s).scalar k
  let desc (w : Nat) : List W32 := descOf (srcCtx s) (w / 2 ^ 15 % 4096)
  m.id = s.ids ∧ m.core = (srcTeam s).core ∧ m.team = (srcTeam s).id ∧ m.pod = s.pod.index ∧ m.instr = i ∧
  m.sx = reg x.toNat ∧ m.sy = reg y.toNat ∧ m.sz = reg z.toNat ∧ m.sz1 = reg (z.toNat + 1) ∧ m.shape = (srcPod s).shape ∧ m.step = (srcCtx s).srstep ∧
  m.mode = (srcTeam s).mode ∧ m.dx = desc (reg x.toNat).toNat ∧ m.dy = desc (reg y.toNat).toNat ∧ m.dz = desc (reg z.toNat).toNat ∧
  m.started = false ∧ m.stopped = none ∧ m.next = 0 ∧ m.legNo = s.team.trots ∧ m.stall = none

/-- R148, R238: a command queued, SX held by it, and the pod at its next word; with 16 queued the pod waits. -/
def Queues (s : State) (i : Instr) (x y z : BitVec 5) (l : BitVec 4) (t0 : Team) : Prop :=
  (Room s → ∃ t m, exec i s = .next t ∧ Advances s t 1 ∧ Captured s m i x y z ∧
    t = { s with mats := s.mats ++ [m], ids := s.ids + 1, pod := t.pod, team := t0 } ∧
    t.pod = { s.pod with held := s.pod.held ++ [⟨x.toNat, s.ids⟩], windows := s.pod.windows ++ (if l = 0#4 then [] else [⟨true, x.toNat, 1, l.toNat + 1⟩]),
                         pc := t.pod.pc, slot := t.pod.slot, phase := s.pod.phase.goOn, skip := 0 }) ∧
  (¬Room s → exec i s = .next (markWait s .engine))

variable {s : State} {i : Instr} {x y z : BitVec 5} {l : BitVec 4} {m : MatCmd}

theorem newMatrix_desc (w : W32) : descOf (srcCtx s) (regionTid w) = descOf (srcCtx s) (w.toNat / 2 ^ 15 % 4096) := by rw [regionTid_eq]

theorem newMatrix_captured (s : State) (i : Instr) (x y z : BitVec 5) : Captured s (newMatrix s i x y z) i x y z :=
  ⟨rfl, rfl, rfl, rfl, rfl, rfl, rfl, rfl, rfl, rfl, rfl, rfl, newMatrix_desc _, newMatrix_desc _, newMatrix_desc _, rfl, rfl, rfl, rfl, rfl⟩

theorem holdScalar_advances (u : State) (x : BitVec 5) (l : BitVec 4) : Advances u (holdScalar u x l) 1 := advance_advances ⟨rfl, rfl, rfl⟩

theorem holdScalar_pod (u : State) (x : BitVec 5) (l : BitVec 4) : (holdScalar u x l).pod =
    { u.pod with held := u.pod.held ++ [⟨x.toNat, u.ids⟩], windows := u.pod.windows ++ (if l = 0#4 then [] else [⟨true, x.toNat, 1, l.toNat + 1⟩]),
                 pc := (holdScalar u x l).pod.pc, slot := (holdScalar u x l).pod.slot, phase := u.pod.phase.goOn, skip := 0 } := by
  have hw : (if l == 0#4 then [] else [⟨true, x.toNat, 1, l.toNat + 1⟩] : List Window) = if l = 0#4 then [] else [⟨true, x.toNat, 1, l.toNat + 1⟩] :=
    if_congr beq_iff_eq rfl rfl
  rw [← hw]
  exact advance_frame

theorem queues_of {t0 : Team} (hm : Captured s m i x y z)
    (hroom : Room s → exec i s = .next { holdScalar { s with mats := s.mats ++ [m] } x l with team := t0 })
    (hfull : ¬Room s → exec i s = .next (markWait s .engine)) : Queues s i x y z l t0 :=
  ⟨fun h => ⟨_, m, hroom h, holdScalar_advances { s with mats := s.mats ++ [m] } x l, hm, rfl, holdScalar_pod { s with mats := s.mats ++ [m] } x l⟩, hfull⟩

theorem queueMatrix_room (hm : m.core = (srcTeam s).core) (h : Room s) :
    queueMatrix s m x l = .ok (holdScalar { s with mats := s.mats ++ [m] } x l) := by
  have hlt : (coreQueue s m.core).length < 16 := by rw [hm]; exact h
  exact if_pos hlt

theorem queueMatrix_full (hm : m.core = (srcTeam s).core) (h : ¬Room s) : queueMatrix s m x l = .error (.wait .engine) := by
  have hge : ¬(coreQueue s m.core).length < 16 := by rw [hm]; exact h
  exact if_neg hge

/-- A command offered to the queue with nothing else to do. -/
theorem queues_of_settle (hm : Captured s m i x y z) (h : exec i s = settle s (queueMatrix s m x l)) : Queues s i x y z l s.team := by
  obtain ⟨-, hcore, -⟩ := id hm
  refine queues_of hm (fun hr => ?_) fun hr => ?_
  · rw [h, queueMatrix_room hcore hr]
    rfl
  · rw [h, queueMatrix_full hcore hr]
    rfl

theorem settle_passed_some {e : Stop} {r : Option Stop} {f : Unit → Except Halt State} (h : r = some e) : settle s (passed r >>= f) = .next (takeTrap s e) := by
  rw [h]; rfl

theorem settle_passed_none {r : Option Stop} {f : Unit → Except Halt State} (h : r = none) : settle s (passed r >>= f) = settle s (f ()) := by
  rw [h]; rfl

/-- A command that is queued once it has passed its checks. -/
theorem checked_queues {checks : List (Prop × Stop)} (hm : Captured s m i x y z)
    (hexec : exec i s = settle s (passed (m.check (srcCtx s) s.team.tileSize) >>= fun _ => queueMatrix s m x l))
    (h : Finds (m.check (srcCtx s) s.team.tileSize) checks) : Checked i s checks (Queues s i x y z l s.team) :=
  h.checked (fun _ he => hexec.trans (settle_passed_some he)) fun he => queues_of_settle hm (hexec.trans (settle_passed_none he))

end Sys2Proof.Machine
end
section
/-! O44, part 5: products. -/

namespace Sys2Proof.Machine

/-- R245: the formats of factors. -/
def FactorFormat (n : Nat) : Prop := isMx n ∨ n = 0x12 ∨ (n = 1 ∨ n = 2) ∨ n = 3 ∨ n = 4

/-- R245: formats whose product is of floats. -/
def FloatFactors (fa fb : Nat) : Prop := (isMx fa ∧ isMx fb) ∨ (fa = 0x12 ∧ fb = 0x12)

/-- R245: formats whose product is of integers. -/
def IntFactors (fa fb : Nat) : Prop := ((fa = 1 ∨ fa = 2) ∧ (fb = 1 ∨ fb = 2)) ∨ ((fa = 3 ∨ fa = 4) ∧ (fb = 3 ∨ fb = 4))

theorem factorFmt_iff (n : Nat) : factorFmt n = true ↔ FactorFormat n := by
  simp [factorFmt, FactorFormat, fmtMx_iff, fmtInt8, fmtInt16, fmtBF16, or_assoc]

theorem floatFactors_not_intFactors {fa fb : Nat} (h : FloatFactors fa fb) : ¬IntFactors fa fb := by
  unfold FloatFactors isMx at h
  unfold IntFactors
  omega

theorem productOk_iff (fc fa fb : Nat) : productOk fc fa fb = true ↔ (FloatFactors fa fb ∧ fc = 0x10) ∨ (IntFactors fa fb ∧ fc = 5) := by
  have hfloats : ((fmtMx fa && fmtMx fb) || (fa == fmtBF16 && fb == fmtBF16)) = true ↔ FloatFactors fa fb := by simp [FloatFactors, fmtMx_iff, fmtBF16]
  have hints : ((fmtInt8 fa && fmtInt8 fb) || (fmtInt16 fa && fmtInt16 fb)) = true ↔ IntFactors fa fb := by simp [IntFactors, fmtInt8, fmtInt16]
  unfold productOk
  by_cases hf : FloatFactors fa fb
  · rw [if_pos (hfloats.mpr hf)]
    simp [hf, floatFactors_not_intFactors hf, fmtF32]
  · rw [if_neg (mt hfloats.mp hf)]
    by_cases hi : IntFactors fa fb
    · rw [if_pos (hints.mpr hi)]
      simp [hf, hi, fmtI32]
    · rw [if_neg (mt hints.mp hi)]
      simp [hf, hi]

theorem factorsOk_iff (fa fb : Nat) : factorsOk fa fb = true ↔ FloatFactors fa fb ∨ IntFactors fa fb := by
  simp [factorsOk, productOk_iff, fmtF32, fmtI32]

/-- Two extents of regions share a byte. -/
def Meets (p : W32) (n : Nat) (q : W32) (m : Nat) : Prop :=
  64 * (p.toNat % 2 ^ 15) < 64 * (q.toNat % 2 ^ 15) + m ∧ 64 * (q.toNat % 2 ^ 15) < 64 * (p.toNat % 2 ^ 15) + n

theorem extentsMeet_iff (p q : W32) (n m : Nat) (b d : Bool) : extentsMeet (64 * regionOfs p, n, b) (64 * regionOfs q, m, d) = true ↔ Meets p n q m := by
  simp [extentsMeet, rangesMeet, Meets, regionOfs_eq]

/-- The checks of a product after those of R81. -/
def productOwn (c : Context) (grant : BitVec 7) (a b w : W32) (f : BitVec 1) (g : BitVec 2) (nc na nb : Nat) : List (Prop × Stop) :=
  let fmt := namedFmt c
  let noDesc (w : W32) : Stop := { code := .tensorDescriptor, info0 := BitVec.ofNat 32 (w.toNat / 2 ^ 15 % 4096) }
  [(FloatFactors (fmt b) (fmt w) ∨ IntFactors (fmt b) (fmt w), noDesc w),
   ((FloatFactors (fmt b) (fmt w) ∧ fmt a = 0x10) ∨ (IntFactors (fmt b) (fmt w) ∧ fmt a = 5), noDesc a), (fmt a = 5 ∨ (f = 0#1 ∧ g = 0#2), { code := .reservedField }),
   (isMx (fmt b) → grantSide grant 2 ≠ 16, { code := .shape }), (¬Meets a nc b na ∧ ¬Meets a nc w nb, { code := .regionBounds, cause := 1 })]

/-- The checks of a product of regions of nc, na and nb bytes. -/
def productChecks (c : Context) (size : Nat) (grant : BitVec 7) (a b w : W32) (f : BitVec 1) (g : BitVec 2) (nc na nb : Nat) : List (Prop × Stop) :=
  [((nibblesCheck False a b).1 ∧ w.toNat / 2 ^ 28 = 0, { code := .reservedField }), namesCheck c a (fun n => n = 0x10 ∨ n = 5), namesCheck c b FactorFormat,
   namesCheck c w FactorFormat, blocksCheck b, blocksCheck w, (grant.getLsbD 6 = true, { code := .shape }), insideCheck size a nc, insideCheck size b na,
   insideCheck size w nb] ++ productOwn c grant a b w f g nc na nb

section
variable {m : MatCmd} {c : Context} {size nc na nb : Nat} {f : BitVec 1} {g : BitVec 2}

theorem productStop_finds (hdx : m.dx = descOf c (regionTid m.sx)) (hdy : m.dy = descOf c (regionTid m.sy)) (hdz : m.dz = descOf c (regionTid m.sz))
    (hranges : m.ranges = [(64 * regionOfs m.sx, nc, true), (64 * regionOfs m.sy, na, false), (64 * regionOfs m.sz, nb, false)]) :
    Finds (m.productStop f g) (productOwn c m.shape m.sx m.sy m.sz f g nc na nb) := by
  unfold MatCmd.productStop productOwn
  rw [hdx, hdy, hdz, hranges]
  simp only [descFmt_named]
  simp only [regionTid_eq]
  refine finds_firstOf_cons (factorsOk_iff _ _) (finds_firstOf_cons (productOk_iff _ _ _) (finds_firstOf_cons ?_ (finds_firstOf_cons ?_
    (finds_firstOf_cons ?_ finds_firstOf_nil))))
  · simp [fmtI32]
  · rw [Bool.not_eq_true', ← Bool.not_eq_true, Bool.and_eq_true, fmtMx_iff, beq_iff_eq, shapeK_eq, not_and]
  · rw [Bool.and_eq_true, Bool.not_eq_true', Bool.not_eq_true', ← Bool.not_eq_true, ← Bool.not_eq_true]
    exact and_congr (not_congr (extentsMeet_iff _ _ _ _ _ _)) (not_congr (extentsMeet_iff _ _ _ _ _ _))

theorem product_finds {cb ab bb : Nat → Nat} (hsized : m.sized = true) (hcount : m.counted = true)
    (hown : m.ownChecks = (controlOk false (regionFlg m.sx) (regionFlg m.sy) && regionFlg m.sz == 0#4, m.productStop f g))
    (huses : m.uses = [⟨m.sx, fun k => k == fmtF32 || k == fmtI32, cb, false, true⟩, ⟨m.sy, factorFmt, ab, true, true⟩, ⟨m.sz, factorFmt, bb, true, true⟩])
    (hdx : m.dx = descOf c (regionTid m.sx)) (hdy : m.dy = descOf c (regionTid m.sy)) (hdz : m.dz = descOf c (regionTid m.sz))
    (hc : cb (descFmt m.dx) = nc) (ha : ab (descFmt m.dy) = na) (hb : bb (descFmt m.dz) = nb) :
    Finds (m.check c size) (productChecks c size m.shape m.sx m.sy m.sz f g nc na nb) := by
  have hranges : m.ranges = [(64 * regionOfs m.sx, nc, true), (64 * regionOfs m.sy, na, false), (64 * regionOfs m.sz, nb, false)] := by
    unfold MatCmd.ranges
    rw [huses, ← hc, ← ha, ← hb]
    rfl
  have hctl : m.ownChecks.1 = true ↔ (nibblesCheck False m.sx m.sy).1 ∧ m.sz.toNat / 2 ^ 28 = 0 := by
    rw [hown, Bool.and_eq_true, controlOk_plain, beq_iff_eq, BitVec.toNat_eq, regionFlg_toNat]
    rfl
  have hfits : Finds (firstStop m.uses (fitStop c size)) [insideCheck size m.sx nc, insideCheck size m.sy na, insideCheck size m.sz nb] := by
    rw [huses]
    refine finds_three (finds_fitStop ?_) (finds_fitStop ?_) (finds_fitStop ?_)
    · rw [← hc, hdx, descFmt_named]
    · rw [← ha, hdy, descFmt_named]
    · rw [← hb, hdz, descFmt_named]
  have hnames : Finds (firstStop m.uses (nameStop c)) [namesCheck c m.sx fun n => n = 0x10 ∨ n = 5, namesCheck c m.sy FactorFormat, namesCheck c m.sz FactorFormat] := by
    rw [huses]
    exact finds_three (finds_nameStop (ok := fun n => n = 0x10 ∨ n = 5) fun k => by simp [fmtF32, fmtI32]) (finds_nameStop factorFmt_iff)
      (finds_nameStop factorFmt_iff)
  have hblocks : Finds (firstStop m.uses blockStop) [blocksCheck m.sy, blocksCheck m.sz] := by
    rw [huses]
    exact finds_three finds_blockStop_written finds_blockStop finds_blockStop
  exact MatCmd.finds_check_sized hsized hcount hctl hnames hblocks hfits (by rw [hown]; exact productStop_finds hdx hdy hdz hranges)

end

section
variable {s : State} {f : BitVec 1} {x y z : BitVec 5} {l : BitVec 4} {g : BitVec 2}

/-- The checks of a product of u operands of a d-th of the grant's sides. -/
def grantChecks (s : State) (f : BitVec 1) (x y z : BitVec 5) (g : BitVec 2) (u d : Nat) : List (Prop × Stop) :=
  let fmt := namedFmt (srcCtx s)
  let side := grantSide (srcPod s).shape
  productChecks (srcCtx s) s.team.tileSize (srcPod s).shape (sreg s x) (sreg s y) (sreg s z) f g
    (u * operandSize (side 0 / d) (side 1 / d) (fmt (sreg s x)) false) (u * operandSize (side 0 / d) (side 2) (fmt (sreg s y)) ((sreg s y).toNat.testBit 27))
    (u * operandSize (side 1 / d) (side 2) (fmt (sreg s z)) ((sreg s z).toNat.testBit 27))

theorem mma_checked : Checked (.mma f x y z l g) s (grantChecks s f x y z g 1 1) (Queues s (.mma f x y z l g) x y z l s.team) := by
  refine checked_queues (newMatrix_captured s _ x y z) rfl (product_finds rfl rfl rfl rfl rfl rfl rfl ?_ ?_ ?_)
  · show operandBytes (shapeM _) (shapeN _) (descFmt (descOf _ (regionTid _))) false = 1 * operandSize (_ / 1) (_ / 1) _ _
    rw [descFmt_named, operandBytes_eq, shapeM_eq, shapeN_eq, Nat.one_mul, Nat.div_one, Nat.div_one]
    rfl
  · show operandBytes (shapeM _) (shapeK _) (descFmt (descOf _ (regionTid _))) (regionTr _) = 1 * operandSize (_ / 1) _ _ _
    rw [descFmt_named, operandBytes_eq, shapeM_eq, shapeK_eq, regionTr_eq, Nat.one_mul, Nat.div_one]
    rfl
  · show operandBytes (shapeN _) (shapeK _) (descFmt (descOf _ (regionTid _))) (regionTr _) = 1 * operandSize (_ / 1) _ _ _
    rw [descFmt_named, operandBytes_eq, shapeN_eq, shapeK_eq, regionTr_eq, Nat.one_mul, Nat.div_one]
    rfl

theorem mmab_checked : Checked (.mmab f x y z l g) s (grantChecks s f x y z g 16 4) (Queues s (.mmab f x y z l g) x y z l s.team) := by
  refine checked_queues (newMatrix_captured s _ x y z) rfl (product_finds rfl rfl rfl rfl rfl rfl rfl ?_ ?_ ?_)
  · show 16 * operandBytes (shapeM _ / 4) (shapeN _ / 4) (descFmt (descOf _ (regionTid _))) false = _
    rw [descFmt_named, operandBytes_eq, shapeM_eq, shapeN_eq]
    rfl
  · show 16 * operandBytes (shapeM _ / 4) (shapeK _) (descFmt (descOf _ (regionTid _))) (regionTr _) = _
    rw [descFmt_named, operandBytes_eq, shapeM_eq, shapeK_eq, regionTr_eq]
    rfl
  · show 16 * operandBytes (shapeN _ / 4) (shapeK _) (descFmt (descOf _ (regionTid _))) (regionTr _) = _
    rw [descFmt_named, operandBytes_eq, shapeN_eq, shapeK_eq, regionTr_eq]
    rfl

end

end Sys2Proof.Machine
end
section
/-! O44, part 6: TZERO, TSCL and TROT. -/

namespace Sys2Proof.Machine

/-! ### TZERO and TROT -/

/-- R253: the reserved bits of a count word are 0, and its count is not. -/
def CountOk (w : W32) : Prop := w.toNat / 2 ^ 15 % 2 ^ 13 = 0 ∧ 1 ≤ w.toNat % 2 ^ 15

theorem zeroCount_eq (w : W32) : zeroCount w = w.toNat % 2 ^ 15 := by rw [zeroCount, BitVec.extractLsb'_toNat, Nat.shiftRight_zero]

theorem zeroOk_iff (m : MatCmd) : zeroOk m = true ↔ CountOk m.sy := by
  unfold zeroOk CountOk
  rw [Bool.and_eq_true, beq_iff_eq, bne_iff_ne, zeroCount_eq, BitVec.toNat_eq, BitVec.extractLsb'_toNat, Nat.shiftRight_eq_div_pow]
  exact and_congr_right' Nat.one_le_iff_ne_zero.symm

/-- The checks that TZERO and TROT share. -/
def countChecks (c : Context) (size : Nat) (a b : W32) : List (Prop × Stop) :=
  [nibblesCheck False a b, namesCheck c a fun _ => True, (b.toNat % 2 ^ 15 ≤ 24576, { code := .reservedField }), insideCheck size a (64 * (b.toNat % 2 ^ 15))]

/-- R253, R254: a command of one region of so many granules. -/
theorem count_finds {m : MatCmd} {c : Context} {size : Nat} {own : List (Prop × Stop)} (hsized : m.sized = false)
    (hcount : m.counted = decide (zeroCount m.sy ≤ 24576)) (hctl : m.ownChecks.1 = controlOk false (regionFlg m.sx) (regionFlg m.sy))
    (huses : m.uses = [⟨m.sx, fun _ => true, fun _ => 64 * zeroCount m.sy, false, true⟩]) (hown : Finds m.ownChecks.2 own) :
    Finds (m.check c size) (countChecks c size m.sx m.sy ++ own) := by
  have hcounted : m.counted = true ↔ m.sy.toNat % 2 ^ 15 ≤ 24576 := by rw [hcount, decide_eq_true_iff, zeroCount_eq]
  have hcontrol : m.ownChecks.1 = true ↔ (nibblesCheck False m.sx m.sy).1 := by rw [hctl, controlOk_plain]
  have hnames : Finds (firstStop m.uses (nameStop c)) [namesCheck c m.sx fun _ => True] := by
    rw [huses]
    exact finds_one (finds_nameStop fun _ => iff_of_true rfl trivial)
  have hblocks : Finds (firstStop m.uses blockStop) [] := by
    rw [huses]
    exact finds_one finds_blockStop_written
  have hfits : Finds (firstStop m.uses (fitStop c size)) [insideCheck size m.sx (64 * (m.sy.toNat % 2 ^ 15))] := by
    rw [huses]
    exact finds_one (finds_fitStop (by rw [zeroCount_eq]))
  exact MatCmd.finds_check_unsized hsized hcounted hcontrol hnames hblocks hfits hown

section
variable {s : State} {x y : BitVec 5} {l : BitVec 4}

theorem tzero_checked : Checked (.tzero x y l) s
    (countChecks (srcCtx s) s.team.tileSize (sreg s x) (sreg s y) ++ [(CountOk (sreg s y), { code := .reservedField })])
    (Queues s (.tzero x y l) x y 0#5 l s.team) :=
  checked_queues (newMatrix_captured s _ x y 0#5) rfl (count_finds rfl rfl rfl rfl (finds_firstOf_cons (zeroOk_iff _) finds_firstOf_nil))

/-- The checks of a TROT leg. -/
def trotChecks (s : State) (x y : BitVec 5) : List (Prop × Stop) :=
  countChecks (srcCtx s) s.team.tileSize (sreg s x) (sreg s y) ++
    [(CountOk (sreg s y) ∧ (sreg s x).toNat.testBit 27 = false, { code := .reservedField }), (s.grid.cluster = true, { code := .permission })]

theorem trotCheck_eq (s : State) (m : MatCmd) : trotCheck s m = (m.check (srcCtx s) s.team.tileSize).or (if s.grid.cluster then none else some (Stop.plain .permission)) := by
  unfold trotCheck
  cases m.check (srcCtx s) s.team.tileSize <;> rfl

theorem trotCheck_finds : Finds (trotCheck s (newMatrix s (.trot x y l) x y 0#5)) (trotChecks s x y) := by
  have hturn : (zeroOk (newMatrix s (.trot x y l) x y 0#5) && !regionTr (sreg s x)) = true ↔ CountOk (sreg s y) ∧ (sreg s x).toNat.testBit 27 = false := by
    rw [Bool.and_eq_true, zeroOk_iff, regionTr_eq, Bool.not_eq_true']
    rfl
  have hown : Finds (newMatrix s (.trot x y l) x y 0#5).ownChecks.2 [(CountOk (sreg s y) ∧ (sreg s x).toNat.testBit 27 = false, { code := .reservedField })] :=
    finds_firstOf_cons hturn finds_firstOf_nil
  have hcluster : Finds (if s.grid.cluster then none else some (Stop.plain .permission)) [(s.grid.cluster = true, { code := .permission })] :=
    finds_single (fun h => if_pos h) fun h => if_neg h
  have hcheck := count_finds (c := srcCtx s) (size := s.team.tileSize) rfl rfl rfl rfl hown
  have hall := finds_append hcheck hcluster
  rw [trotCheck_eq]
  exact hall

/-- R93: the legs of a team's partners that wait under a number. -/
def waitingLegs (u : State) (team leg : Nat) : List MatCmd :=
  match u.teamOf team with
  | none => []
  | some w => u.mats.filter fun (m : MatCmd) => m.team != team && m.legNo == leg && m.stopped.isNone && (match m.instr with | .trot _ _ _ => true | _ => false) &&
      (match u.teamOf m.team with | some v => v.handle == w.handle && v.number / 4 == w.number / 4 | none => false)

theorem stopPartners_eq (u : State) (m : MatCmd) : stopPartners u m = (waitingLegs u m.team m.legNo).foldl (fun v c => stopMatrix v c { code := .regionBounds, cause := 2 }) u := by
  unfold stopPartners waitingLegs
  cases u.teamOf m.team with
  | none => rfl
  | some w =>
    dsimp only
    congr 2
    funext c
    rw [Bool.and_assoc (_ && _ && _)]
    generalize c.instr = i
    cases i <;> rfl

theorem trotFailed_eq (u : State) (m : MatCmd) : trotFailed u m =
    { (waitingLegs (u.mapTeam m.team fun w => { w with trotBad := some m.legNo }) m.team m.legNo).foldl (fun v c => stopMatrix v c { code := .regionBounds, cause := 2 })
        (u.mapTeam m.team fun w => { w with trotBad := some m.legNo }) with note := u.note } := by
  unfold trotFailed
  rw [stopPartners_eq]

/-- R93: a partner's leg of the same rotation has failed. -/
def PartnerFailed (s : State) : Prop :=
  ∃ u ∈ s.teams, u.id ≠ (srcTeam s).id ∧ u.handle = s.team.handle ∧ u.number / 4 = s.team.number / 4 ∧ u.trotBad = some s.team.trots

theorem partnerBad_iff {i : Instr} {z : BitVec 5} : partnerBad s (newMatrix s i x y z) = true ↔ PartnerFailed s := by
  simp [partnerBad, PartnerFailed, newMatrix, and_assoc]

theorem exec_trot_fails {e : Stop} (h : trotCheck s (newMatrix s (.trot x y l) x y 0#5) = some e) :
    exec (.trot x y l) s = .next (trotFailed (takeTrap s e) (newMatrix s (.trot x y l) x y 0#5)) := by
  show execTrot x y l s = _
  unfold execTrot
  dsimp only
  rw [h]

theorem exec_trot_partner (h : trotCheck s (newMatrix s (.trot x y l) x y 0#5) = none) (hp : PartnerFailed s) :
    exec (.trot x y l) s = .next (takeTrap s { code := .regionBounds, cause := 2 }) := by
  show execTrot x y l s = _
  unfold execTrot
  dsimp only
  rw [h]
  exact if_pos (partnerBad_iff.mpr hp)

theorem exec_trot_offered (h : trotCheck s (newMatrix s (.trot x y l) x y 0#5) = none) (hp : ¬PartnerFailed s) :
    exec (.trot x y l) s = settle s (queueMatrix s (newMatrix s (.trot x y l) x y 0#5) x l >>=
      fun t => pure { t with team := { t.team with trots := t.team.trots + 1, trotBad := none } }) := by
  show execTrot x y l s = _
  unfold execTrot
  dsimp only
  rw [h]
  exact if_neg (mt partnerBad_iff.mp hp)

theorem trot_queues (h : trotCheck s (newMatrix s (.trot x y l) x y 0#5) = none) (hp : ¬PartnerFailed s) :
    Queues s (.trot x y l) x y 0#5 l { s.team with trots := s.team.trots + 1, trotBad := none } := by
  refine queues_of (newMatrix_captured s _ x y 0#5) (fun hr => ?_) fun hr => ?_
  · rw [exec_trot_offered h hp, queueMatrix_room rfl hr]
    rfl
  · rw [exec_trot_offered h hp, queueMatrix_full rfl hr]
    rfl

end

/-! ### TSCL -/

section
variable {s : State} {h : BitVec 3} {x y z : BitVec 5} {l : BitVec 4}

theorem fBelowSeven_iff : ∀ h : BitVec 3, h.ult 7#3 = true ↔ h ≠ 7#3 := by decide

theorem evenColumn_iff (w : W32) : (!w.getLsbD 0) = true ↔ w.toNat.testBit 0 = false := by rw [testBit_toNat, Bool.not_eq_true']

/-- R249, R258: MISALIGNED of an odd column at a place. -/
def columnFault (place : Nat) : Stop := { code := .misaligned, addr := BitVec.ofNat 64 place, info1 := 2#32 }

/-- The checks of TSCL. -/
def tsclChecks (s : State) (h : BitVec 3) (x y z : BitVec 5) : List (Prop × Stop) :=
  let side := grantSide (srcPod s).shape
  let c := srcCtx s
  let a := sreg s x
  let b := sreg s y
  [nibblesCheck False a b, namesCheck c a isMx, namesCheck c b fun n => n = 0x10, blocksCheck b, ((srcPod s).shape.getLsbD 6 = true, { code := .shape }),
   insideCheck s.team.tileSize a (operandSize (side 0) (side 1) (namedFmt c a) false),
   insideCheck s.team.tileSize b (operandSize (side 0) (side 1) (namedFmt c b) (b.toNat.testBit 27)), (h ≠ 7#3, { code := .reservedField }),
   (32 ≤ side 1, { code := .shape }),
   ((sreg s z).toNat.testBit 0 = false, columnFault (64 * (a.toNat % 2 ^ 15)))]

theorem tscl_checked : Checked (.tscl h x y z l) s (tsclChecks s h x y z) (Queues s (.tscl h x y z l) x y z l s.team) := by
  have hcolumn : (newMatrix s (.tscl h x y z l) x y z).columnStop = columnFault (64 * ((sreg s x).toNat % 2 ^ 15)) := by
    rw [← regionOfs_eq]
    rfl
  have hwide : decide (32 ≤ shapeN (srcPod s).shape) = true ↔ 32 ≤ grantSide (srcPod s).shape 1 := by rw [decide_eq_true_iff, shapeN_eq]
  have hown : Finds (newMatrix s (.tscl h x y z l) x y z).ownChecks.2 [(h ≠ 7#3, { code := .reservedField }), (32 ≤ grantSide (srcPod s).shape 1, { code := .shape }),
      ((sreg s z).toNat.testBit 0 = false, columnFault (64 * ((sreg s x).toNat % 2 ^ 15)))] := by
    rw [← hcolumn]
    exact finds_firstOf_cons (fBelowSeven_iff h) (finds_firstOf_cons hwide (finds_firstOf_cons (evenColumn_iff _) finds_firstOf_nil))
  have hsize (w : W32) (tr : Bool) : operandBytes (shapeM (srcPod s).shape) (shapeN (srcPod s).shape) (namedFmt (srcCtx s) w) tr =
      operandSize (grantSide (srcPod s).shape 0) (grantSide (srcPod s).shape 1) (namedFmt (srcCtx s) w) tr := by rw [operandBytes_eq, shapeM_eq, shapeN_eq]
  have hnames : Finds (firstStop (newMatrix s (.tscl h x y z l) x y z).uses (nameStop (srcCtx s)))
      [namesCheck (srcCtx s) (sreg s x) isMx, namesCheck (srcCtx s) (sreg s y) fun n => n = 0x10] :=
    finds_two (finds_nameStop fmtMx_iff) (finds_nameStop fun _ => beq_iff_eq)
  refine checked_queues (newMatrix_captured s _ x y z) rfl (MatCmd.finds_check_sized (m := newMatrix s (.tscl h x y z l) x y z) rfl rfl (controlOk_plain _ _)
    hnames (finds_two finds_blockStop_written finds_blockStop) (finds_two (finds_fitStop (hsize _ _)) (finds_fitStop ?_)) hown)
  rw [← regionTr_eq]
  exact hsize _ _

end

end Sys2Proof.Machine
end
section
/-! O44, part 7: the places that a drain writes, and its ticket granules. -/

namespace Sys2Proof.Machine

/-! ### Rising lists -/

theorem mem_insertRising {p x : Nat} {l : List Nat} : p ∈ insertRising l x ↔ p = x ∨ p ∈ l := by
  induction l with
  | nil => simp [insertRising]
  | cons y r ih =>
    unfold insertRising
    by_cases h : x < y
    · simp [h]
    · by_cases he : x = y
      · subst he
        simp
      · simp only [h, he, if_false, beq_iff_eq, List.mem_cons, ih]
        tauto

theorem pairwise_insertRising {x : Nat} {l : List Nat} (h : l.Pairwise (· < ·)) : (insertRising l x).Pairwise (· < ·) := by
  induction l with
  | nil => simp [insertRising]
  | cons y r ih =>
    obtain ⟨hy, hr⟩ := List.pairwise_cons.mp h
    unfold insertRising
    by_cases hlt : x < y
    · rw [if_pos hlt]
      refine List.pairwise_cons.mpr ⟨fun z hz => ?_, h⟩
      rcases List.mem_cons.mp hz with rfl | hz
      · exact hlt
      · exact Nat.lt_trans hlt (hy z hz)
    · rw [if_neg hlt]
      by_cases he : x = y
      · rw [if_pos (beq_iff_eq.mpr he)]
        exact h
      · rw [if_neg (mt beq_iff_eq.mp he)]
        refine List.pairwise_cons.mpr ⟨fun z hz => ?_, ih hr⟩
        rcases mem_insertRising.mp hz with rfl | hz
        · omega
        · exact hy z hz

/-- Numbers put into a rising list, each once. -/
theorem foldl_insertRising (xs : List Nat) : ∀ {l : List Nat}, l.Pairwise (· < ·) →
    (xs.foldl insertRising l).Pairwise (· < ·) ∧ ∀ p, p ∈ xs.foldl insertRising l ↔ p ∈ xs ∨ p ∈ l := by
  induction xs with
  | nil => exact fun h => ⟨h, fun p => by simp⟩
  | cons x r ih =>
    intro l h
    obtain ⟨hpair, hmem⟩ := ih (pairwise_insertRising (x := x) h)
    refine ⟨hpair, fun p => ?_⟩
    rw [List.foldl_cons, hmem, mem_insertRising, List.mem_cons]
    tauto

/-! ### Rows of a tile -/

/-- R87, R248: the address of the first element of row i of the tile that a word places in a tensor. -/
def rowPlace (d : List W32) (w : W32) (i : Nat) : Nat :=
  let n (k : Nat) : Nat := recordField d (6 + k) 0 32
  let stride (k : Nat) : Nat := recordField d (9 + k) 0 32 + 2 ^ 32 * recordField d 13 (8 * (k - 1)) 8
  let q := 16 * (w.toNat / 2 ^ 16) + i
  recordField d 2 0 32 + 2 ^ 32 * recordField d 3 0 32 + q % n 1 * stride 1 + q / n 1 % n 2 * stride 2 + q / (n 1 * n 2) * stride 3 +
    16 * (w.toNat % 2 ^ 16) * elementBits (recordField d 0 0 8) / 8

/-- R248: the elements of that row inside the tensor. -/
def rowAcross (d : List W32) (grant : BitVec 7) (w : W32) (i : Nat) : Nat :=
  let n (k : Nat) : Nat := recordField d (6 + k) 0 32
  if 16 * (w.toNat / 2 ^ 16) + i < n 1 * n 2 * n 3 then min (grantSide grant 1) (n 0 - 16 * (w.toNat % 2 ^ 16)) else 0

theorem originRow_eq (w : W32) : originRow w = 16 * (w.toNat / 2 ^ 16) := by rw [originRow, (halves_toNat w).1]

theorem originCol_eq (w : W32) : originCol w = 16 * (w.toNat % 2 ^ 16) := by rw [originCol, (halves_toNat w).2]

theorem rowAt_eq (m : MatCmd) (i : Nat) : m.rowAt i = rowPlace m.dx m.sz i := by
  unfold MatCmd.rowAt descRow rowPlace
  rw [originRow_eq, originCol_eq, descFmt_eq, fmtBits_eq, descSize_eq, descSize_eq, descBase_eq, descStride_eq, descStride_eq, descStride_eq]

theorem inside_eq (m : MatCmd) (i : Nat) : m.inside i = rowAcross m.dx m.shape m.sz i := by
  unfold MatCmd.inside descRows rowAcross
  rw [originRow_eq, originCol_eq, shapeN_eq, descSize_eq, descSize_eq, descSize_eq, descSize_eq]

theorem granules_eq (m : MatCmd) : m.granules =
    ((List.range (grantSide m.shape 0)).flatMap fun i => (List.range (rowAcross m.dx m.shape m.sz i)).map fun j => (rowPlace m.dx m.sz i + 4 * j) / 64).foldl
      insertRising [] := by
  unfold MatCmd.granules
  rw [List.foldl_flatMap, shapeM_eq]
  congr 1
  funext l i
  rw [List.foldl_map, inside_eq, rowAt_eq]

/-- R252: the granules of a drain rise, and are those that hold an element of the tile inside the tensor. -/
theorem granules_rising (m : MatCmd) : m.granules.Pairwise (· < ·) ∧
    ∀ p, p ∈ m.granules ↔ ∃ i < grantSide m.shape 0, ∃ j < rowAcross m.dx m.shape m.sz i, p = (rowPlace m.dx m.sz i + 4 * j) / 64 := by
  rw [granules_eq]
  obtain ⟨hpair, hmem⟩ := foldl_insertRising ((List.range (grantSide m.shape 0)).flatMap fun i =>
    (List.range (rowAcross m.dx m.shape m.sz i)).map fun j => (rowPlace m.dx m.sz i + 4 * j) / 64) List.Pairwise.nil
  refine ⟨hpair, fun p => ?_⟩
  rw [hmem]
  simp only [List.mem_flatMap, List.mem_range, List.mem_map, List.not_mem_nil, or_false, eq_comm (a := p)]

/-! ### The declared region -/

/-- R348: TICKET-RANGE at a granule. -/
def drainRangeStop (d : List W32) (z1 : W32) (g : Nat) : Stop :=
  { code := .ticketRange, addr := BitVec.ofNat 64 (64 * g), info0 := BitVec.ofNat 32 (recordField d 0 24 4), info2 := BitVec.ofNat 32 (z1.toNat % 2 ^ 16) }

/-- R220: a granule of a declared region. -/
def Region.holds (r : Region) (g : Nat) : Bool := decide (r.base ≤ 64 * g) && decide (64 * g < r.base + 64 * r.ngran)

theorem firstStop_eq_find {l : List Nat} {ok : Nat → Bool} {e : Nat → Stop} :
    firstStop l (fun g => if ok g then none else some (e g)) = (l.find? fun g => !ok g).map e := by
  induction l with
  | nil => rfl
  | cons g r ih =>
    rw [firstStop_cons, ih, List.find?_cons]
    cases ok g <;> rfl

theorem ticketStop_range (m : MatCmd) (g : Nat) :
    Machine.ticketStop .ticketRange (BitVec.ofNat 64 (64 * g)) (descTkr m.dx) 0#16 (m.sz1.extractLsb' 0 16) = drainRangeStop m.dx m.sz1 g := by
  have hlow : (m.sz1.extractLsb' 0 16).zeroExtend 32 = BitVec.ofNat 32 (m.sz1.toNat % 2 ^ 16) := by
    refine BitVec.eq_of_toNat_eq ?_
    simp
  unfold Machine.ticketStop drainRangeStop
  rw [hlow, descTkr_eq]
  rfl

theorem ticketStop_undeclared {m : MatCmd} {c : Context} (h : c.regions.getD (recordField m.dx 0 24 4) none = none) :
    m.ticketStop c = some (drainRangeStop m.dx m.sz1 (m.granules.headD 0)) := by
  unfold MatCmd.ticketStop
  rw [descTkr_eq, h, ← descTkr_eq]
  exact congrArg some (ticketStop_range m _)

theorem ticketStop_declared {m : MatCmd} {c : Context} {r : Region} (h : c.regions.getD (recordField m.dx 0 24 4) none = some r) :
    m.ticketStop c = (m.granules.find? fun g => !r.holds g).map (drainRangeStop m.dx m.sz1) := by
  rw [← firstStop_eq_find]
  unfold MatCmd.ticketStop
  rw [descTkr_eq, h, ← descTkr_eq]
  dsimp only
  congr 1
  funext g
  rw [ticketStop_range]
  rfl

end Sys2Proof.Machine
end
section
/-! O44, part 8: MDRAIN. -/

namespace Sys2Proof.Machine

/-! ### Modes -/

/-- R249: the source and destination formats of a mode. -/
def DrainMode.Joins (d : DrainMode) (src dst : Nat) : Prop :=
  match d with
  | .copy => src = 0x10 ∧ dst = 0x10
  | .narrow => src = 0x10 ∧ (dst = 0x11 ∨ dst = 0x12)
  | .mx => src = 0x10 ∧ isMx dst
  | .icopy => src = 5 ∧ dst = 5
  | .requant => src = 5 ∧ (dst = 1 ∨ dst = 2)

/-- R249: formats of some mode. -/
def Drains (src dst : Nat) : Prop :=
  DrainMode.copy.Joins src dst ∨ DrainMode.narrow.Joins src dst ∨ DrainMode.mx.Joins src dst ∨ DrainMode.icopy.Joins src dst ∨ DrainMode.requant.Joins src dst

theorem drainMode_joins {d : DrainMode} {src dst : Nat} (h : d.Joins src dst) : drainMode src dst = some d := by
  unfold drainMode
  cases d with
  | copy => obtain ⟨rfl, rfl⟩ := h; rfl
  | narrow => obtain ⟨rfl, rfl | rfl⟩ := h <;> rfl
  | mx =>
    obtain ⟨rfl, hmx⟩ := h
    have hb := (fmtMx_iff dst).mpr hmx
    unfold isMx at hmx
    have h1 : dst ≠ 0x10 := by omega
    have h2 : dst ≠ 0x11 := by omega
    have h3 : dst ≠ 0x12 := by omega
    simp [h1, h2, h3, hb, fmtF32, fmtBF16]
  | icopy => obtain ⟨rfl, rfl⟩ := h; rfl
  | requant => obtain ⟨rfl, rfl | rfl⟩ := h <;> rfl

theorem joins_of_drainMode {d : DrainMode} {src dst : Nat} (h : drainMode src dst = some d) : d.Joins src dst := by
  simp only [drainMode, beq_iff_eq, Bool.or_eq_true, fmtMx_iff, fmtInt8_iff] at h
  split at h
  · next hs =>
    split at h
    · next hd => cases h; exact ⟨hs, hd⟩
    · split at h
      · next hd => cases h; exact ⟨hs, hd⟩
      · split at h
        · next hd => cases h; exact ⟨hs, (fmtMx_iff dst).mp hd⟩
        · cases h
  · split at h
    · next hs =>
      split at h
      · next hd => cases h; exact ⟨hs, hd⟩
      · split at h
        · next hd => cases h; exact ⟨hs, hd⟩
        · cases h
    · cases h

theorem drainMode_none {src dst : Nat} (h : ¬Drains src dst) : drainMode src dst = none := by
  cases hd : drainMode src dst with
  | none => rfl
  | some d =>
    have hj := joins_of_drainMode hd
    unfold Drains at h
    cases d <;> exact absurd hj (by tauto)

theorem drainMode_of_drains {src dst : Nat} (h : Drains src dst) : ∃ d, drainMode src dst = some d ∧ ∀ k : DrainMode, k.Joins src dst ↔ d = k := by
  have hd : ∃ d, drainMode src dst = some d := by
    rcases h with h | h | h | h | h <;> exact ⟨_, drainMode_joins h⟩
  obtain ⟨d, hd⟩ := hd
  refine ⟨d, hd, fun k => ⟨fun hk => ?_, fun hk => hk ▸ joins_of_drainMode hd⟩⟩
  exact Option.some.inj (hd.symm.trans (drainMode_joins hk))

theorem drainFOk_iff (d : DrainMode) (h : BitVec 3) : drainFOk d h = true ↔
    (d = .narrow ∨ d = .mx → h ≠ 7#3) ∧ (d = .icopy → h = 0#3) ∧ (d = .copy ∨ d = .requant → h ≠ 6#3 ∧ h ≠ 7#3) := by
  revert h
  cases d <;> decide

theorem drainFmt_iff (n : Nat) : drainFmt n = true ↔ n = 0x10 ∨ n = 0x11 ∨ n = 0x12 ∨ n = 5 ∨ (n = 1 ∨ n = 2) ∨ isMx n := by
  simp [drainFmt, fmtMx_iff, fmtInt8, fmtF32, fmtBF16, fmtI32, or_assoc]

/-! ### Checks -/

/-- R249: the bytes of a drain's source. -/
def drainSource (grant : BitVec 7) (fa fb : Nat) (tr : Bool) : Nat :=
  let mm := grantSide grant 0
  let nn := grantSide grant 1
  if fb = 5 ∧ (fa = 1 ∨ fa = 2) then max (operandSize mm nn fb tr) ((4 * mm * nn + 63) / 64 * 64 + 8 * nn) else operandSize mm nn fb tr

/-- R248, R249, R252: the checks of a drain after those of R81. -/
def drainOwn (c : Context) (grant : BitVec 7) (a b w w1 : W32) (h : BitVec 3) (e : BitVec 1) : List (Prop × Stop) :=
  let fa := namedFmt c a
  let fb := namedFmt c b
  let desc := descOf c (a.toNat / 2 ^ 15 % 4096)
  let noDesc : Stop := { code := .tensorDescriptor, info0 := BitVec.ofNat 32 (a.toNat / 2 ^ 15 % 4096) }
  let resv : Stop := { code := .reservedField }
  let add : Prop := a.toNat.testBit 29 = true
  let tkt : Prop := a.toNat.testBit 28 = true
  let mode (d : DrainMode) : Prop := d.Joins fb fa
  [(Drains fb fa, noDesc), (e = 0#1 ∨ a.toNat % 2 ^ 15 = 0, resv),
   ((mode .narrow ∨ mode .mx → h ≠ 7#3) ∧ (mode .icopy → h = 0#3) ∧ (mode .copy ∨ mode .requant → h ≠ 6#3 ∧ h ≠ 7#3), resv),
   (add → mode .copy ∨ mode .icopy, resv), (tkt → mode .copy ∧ add ∧ e = 1#1, resv),
   ((tkt → w1.toNat / 2 ^ 16 = 0) ∧ (¬tkt → w1.toNat = 0), resv), (mode .mx → 32 ≤ grantSide grant 1, { code := .shape }),
   (mode .mx → w.toNat.testBit 0 = false,
     columnFault (if e = 1#1 then rowPlace desc w 0 else 64 * (a.toNat % 2 ^ 15))),
   (tkt → recordField desc 0 28 1 = 1, noDesc)]

/-- The checks of a drain. -/
def drainChecks (s : State) (h : BitVec 3) (x y z : BitVec 5) (e : BitVec 1) : List (Prop × Stop) :=
  let c := srcCtx s
  let a := sreg s x
  let b := sreg s y
  let grant := (srcPod s).shape
  [nibblesCheck True a b, namesCheck c a fun n => n = 0x10 ∨ n = 0x11 ∨ n = 0x12 ∨ n = 5 ∨ (n = 1 ∨ n = 2) ∨ isMx n, namesCheck c b fun n => n = 0x10 ∨ n = 5,
   blocksCheck b, (grant.getLsbD 6 = true, { code := .shape }),
   (e = 0#1 → (insideCheck s.team.tileSize a (operandSize (grantSide grant 0) (grantSide grant 1) (namedFmt c a) false)).1, { code := .regionBounds }),
   insideCheck s.team.tileSize b (drainSource grant (namedFmt c a) (namedFmt c b) (b.toNat.testBit 27))] ++
  drainOwn c grant a b (sreg s z) (scalarOf s (z.toNat + 1)) h e

section
variable {m : MatCmd} {c : Context} {h : BitVec 3} {e : BitVec 1}

theorem imp_or_iff {p q : Prop} {a b : Bool} (ha : a = true ↔ ¬p) (hb : b = true ↔ q) : (a || b) = true ↔ (p → q) := by
  rw [Bool.or_eq_true, ha, hb, imp_iff_not_or]

theorem highHalf_iff (w : W32) : (w.extractLsb' 16 16 == 0#16) = true ↔ w.toNat / 2 ^ 16 = 0 := by
  rw [beq_iff_eq, BitVec.toNat_eq, (halves_toNat w).1]
  rfl

/-- R240: the ticket's word of a drain, which holds 0 where it takes no ticket. -/
theorem ticketWord_iff (a w : W32) : (if a.getLsbD 28 then w.extractLsb' 16 16 == 0#16 else w == 0#32) = true ↔
    (a.toNat.testBit 28 = true → w.toNat / 2 ^ 16 = 0) ∧ (¬a.toNat.testBit 28 = true → w.toNat = 0) := by
  rw [testBit_toNat]
  cases a.getLsbD 28 with
  | true =>
    rw [if_pos rfl, highHalf_iff]
    simp
  | false => simp [BitVec.toNat_eq]

theorem drainStop_finds (hstop : m.columnStop = columnFault (if e = 1#1 then rowPlace m.dx m.sz 0 else 64 * (m.sx.toNat % 2 ^ 15)))
    (hdx : m.dx = descOf c (regionTid m.sx)) (hdy : m.dy = descOf c (regionTid m.sy)) :
    Finds (m.drainStop h e) (drainOwn c m.shape m.sx m.sy m.sz m.sz1 h e) := by
  have hfa : descFmt m.dx = namedFmt c m.sx := by rw [hdx, descFmt_named]
  have hfb : descFmt m.dy = namedFmt c m.sy := by rw [hdy, descFmt_named]
  have hdesc : m.dx = descOf c (m.sx.toNat / 2 ^ 15 % 4096) := by rw [hdx, regionTid_eq]
  unfold MatCmd.drainStop drainOwn
  dsimp only
  rw [hfa, hfb, hstop, ← hdesc, regionTid_eq]
  refine finds_guard (fun hn => ?_) fun hd => ?_
  · rw [drainMode_none hn]
    rfl
  · obtain ⟨d, hmode, hjoins⟩ := drainMode_of_drains hd
    rw [hmode]
    dsimp only
    simp only [hjoins]
    have hnot (k : DrainMode) : (d != k) = true ↔ ¬d = k := bne_iff_ne
    refine finds_firstOf_cons ?_ (finds_firstOf_cons (drainFOk_iff d h) (finds_firstOf_cons ?_ (finds_firstOf_cons ?_ (finds_firstOf_cons ?_
      (finds_firstOf_cons ?_ (finds_firstOf_cons ?_ (finds_firstOf_cons ?_ finds_firstOf_nil)))))))
    · rw [Bool.or_eq_true, beq_iff_eq, beq_iff_eq, regionOfs_eq]
    · rw [testBit_toNat, Bool.or_assoc]
      exact imp_or_iff (by simp) (by simp)
    · rw [testBit_toNat, testBit_toNat]
      exact imp_or_iff (by simp) (by simp [and_assoc])
    · exact ticketWord_iff _ _
    · exact imp_or_iff (hnot _) (by rw [decide_eq_true_iff, shapeN_eq])
    · exact imp_or_iff (hnot _) (evenColumn_iff _)
    · rw [testBit_toNat]
      exact imp_or_iff (by simp) (recordField_bit _ _ _).symm

end

section
variable {s : State} {h : BitVec 3} {x y z : BitVec 5} {l : BitVec 4} {e : BitVec 1}

theorem drainColumn (s : State) (h : BitVec 3) (x y z : BitVec 5) (l : BitVec 4) (e : BitVec 1) : (newMatrix s (.mdrain h x y z l e) x y z).columnStop =
    columnFault (if e = 1#1 then rowPlace (descOf (srcCtx s) (regionTid (sreg s x))) (sreg s z) 0 else 64 * ((sreg s x).toNat % 2 ^ 15)) := by
  show columnFault (if e == 1#1 then (newMatrix s (.mdrain h x y z l e) x y z).rowAt 0 else 64 * regionOfs (sreg s x)) = _
  rw [rowAt_eq, regionOfs_eq, if_congr (beq_iff_eq (a := e)) rfl rfl]
  rfl

theorem drainSource_eq (grant : BitVec 7) (fa fb : Nat) (tr : Bool) :
    (if fb == fmtI32 && fmtInt8 fa then max (operandBytes (shapeM grant) (shapeN grant) fb tr) (requantBytes (shapeM grant) (shapeN grant))
     else operandBytes (shapeM grant) (shapeN grant) fb tr) = drainSource grant fa fb tr := by
  have hc : (fb == fmtI32 && fmtInt8 fa) = true ↔ fb = 5 ∧ (fa = 1 ∨ fa = 2) := by rw [Bool.and_eq_true, beq_iff_eq, fmtInt8_iff]; rfl
  rw [if_congr hc rfl rfl, operandBytes_eq, shapeM_eq, shapeN_eq]
  rfl

theorem drain_finds : Finds ((newMatrix s (.mdrain h x y z l e) x y z).check (srcCtx s) s.team.tileSize) (drainChecks s h x y z e) := by
  have hnames : Finds (firstStop (newMatrix s (.mdrain h x y z l e) x y z).uses (nameStop (srcCtx s)))
      [namesCheck (srcCtx s) (sreg s x) fun n => n = 0x10 ∨ n = 0x11 ∨ n = 0x12 ∨ n = 5 ∨ (n = 1 ∨ n = 2) ∨ isMx n,
       namesCheck (srcCtx s) (sreg s y) fun n => n = 0x10 ∨ n = 5] :=
    finds_two (finds_nameStop drainFmt_iff) (finds_nameStop fun _ => by simp [fmtF32, fmtI32])
  have hfits : Finds (firstStop (newMatrix s (.mdrain h x y z l e) x y z).uses (fitStop (srcCtx s) s.team.tileSize))
      [(e = 0#1 → (insideCheck s.team.tileSize (sreg s x)
          (operandSize (grantSide (srcPod s).shape 0) (grantSide (srcPod s).shape 1) (namedFmt (srcCtx s) (sreg s x)) false)).1, { code := .regionBounds }),
       insideCheck s.team.tileSize (sreg s y)
          (drainSource (srcPod s).shape (namedFmt (srcCtx s) (sreg s x)) (namedFmt (srcCtx s) (sreg s y)) ((sreg s y).toNat.testBit 27))] := by
    refine finds_two (finds_fitStop_if beq_iff_eq ?_) (finds_fitStop ?_)
    · rw [← operandBytes_eq, ← shapeM_eq, ← shapeN_eq]
      rfl
    · rw [← drainSource_eq, ← descFmt_named (srcCtx s) (sreg s x), ← regionTr_eq]
      rfl
  exact MatCmd.finds_check_sized (m := newMatrix s (.mdrain h x y z l e) x y z) rfl rfl (controlOk_words (iff_of_true rfl trivial) _ _) hnames
    (finds_two finds_blockStop_written finds_blockStop) hfits (drainStop_finds (drainColumn s h x y z l e) rfl rfl)

theorem exec_mdrain_passed {r : Option Stop} (h1 : (newMatrix s (.mdrain h x y z l e) x y z).check (srcCtx s) s.team.tileSize = none)
    (h2 : (if (sreg s x).getLsbD 28 then (newMatrix s (.mdrain h x y z l e) x y z).ticketStop (srcCtx s) else none) = r) :
    exec (.mdrain h x y z l e) s = settle s (passed r >>= fun _ => queueMatrix s (newMatrix s (.mdrain h x y z l e) x y z) x l) := by
  rw [← h2]
  exact settle_passed_none h1

/-- R252: what a drain that has passed its checks does. -/
theorem drain_passed (h1 : (newMatrix s (.mdrain h x y z l e) x y z).check (srcCtx s) s.team.tileSize = none) :
    let i : Instr := .mdrain h x y z l e
    let tkt : Prop := (sreg s x).toNat.testBit 28 = true
    let desc := descOf (srcCtx s) ((sreg s x).toNat / 2 ^ 15 % 4096)
    let gs := (newMatrix s i x y z).granules
    let range (g : Nat) : Stop := drainRangeStop desc (scalarOf s (z.toNat + 1)) g
    (¬tkt → Queues s i x y z l s.team) ∧
    (tkt → (srcCtx s).regions.getD (recordField desc 0 24 4) none = none → exec i s = .next (takeTrap s (range (gs.headD 0)))) ∧
    ∀ r, tkt → (srcCtx s).regions.getD (recordField desc 0 24 4) none = some r →
      (∀ n, gs.find? (fun n => !r.holds n) = some n → exec i s = .next (takeTrap s (range n))) ∧ ((∀ n ∈ gs, r.holds n = true) → Queues s i x y z l s.team) := by
  intro i tkt desc gs range
  have hdesc : desc = (newMatrix s i x y z).dx := (newMatrix_desc _).symm
  have hcap := newMatrix_captured s i x y z
  have htkt : (sreg s x).getLsbD 28 = true ↔ tkt := by rw [← testBit_toNat]
  refine ⟨fun hn => ?_, fun ht hr => ?_, fun r ht hr => ⟨fun n hn => ?_, fun hall => ?_⟩⟩
  · exact queues_of_settle hcap (exec_mdrain_passed h1 (if_neg (mt htkt.mp hn)))
  · rw [hdesc] at hr
    rw [exec_mdrain_passed h1 (if_pos (htkt.mpr ht)), ticketStop_undeclared hr, ← hdesc]
    rfl
  · rw [hdesc] at hr
    rw [exec_mdrain_passed h1 (if_pos (htkt.mpr ht)), ticketStop_declared hr, hn, ← hdesc]
    rfl
  · have hnone : gs.find? (fun n => !r.holds n) = none := List.find?_eq_none.mpr fun n hn => by rw [hall n hn]; decide
    rw [hdesc] at hr
    refine queues_of_settle hcap ?_
    rw [exec_mdrain_passed h1 (if_pos (htkt.mpr ht)), ticketStop_declared hr, hnone]
    rfl

end

end Sys2Proof.Machine
end
section
/-! O44 and O45: the statements. -/

namespace Sys2Proof.Machine

/-- Settles O44: command by command, the checks that the model makes are those of the statement in its order, and a command that passes them is offered to
the queue. -/
theorem matrixCommands : Obligations.MatrixCommands := by
  unfold Obligations.MatrixCommands
  intro f h x y z l g e s
  refine ⟨mma_checked, mmab_checked, ?_, drain_finds.checked (fun _ he => settle_passed_some he) drain_passed, tzero_checked, tscl_checked, ?_, ?_⟩
  · have hgs := granules_rising (newMatrix s (.mdrain h x y z l e) x y z)
    have hdx : (newMatrix s (.mdrain h x y z l e) x y z).dx = descOf (srcCtx s) ((sreg s x).toNat / 2 ^ 15 % 4096) := newMatrix_desc _
    rw [hdx] at hgs
    exact hgs
  · intro n p t hn hbefore hp
    exact (exec_trot_fails (trotCheck_finds.1 n p t hn hbefore hp)).trans (congrArg _ (trotFailed_eq _ _))
  · intro hall
    have hnone := (trotCheck_finds (l := l)).2 hall
    exact ⟨exec_trot_partner hnone, trot_queues hnone⟩

theorem holds_cons {q : Prop × Stop} {l : List (Prop × Stop)} (h : q.1) (hl : ∀ r ∈ l, r.1) : ∀ r ∈ q :: l, r.1 := List.forall_mem_cons.mpr ⟨h, hl⟩

theorem holds_nil : ∀ r ∈ ([] : List (Prop × Stop)), r.1 := List.forall_mem_nil _

/-- Settles O45: a TZERO's checks one after another. -/
theorem commandChecks : Obligations.CommandChecks := by
  unfold Obligations.CommandChecks
  intro x y l s a b scope n id control valid fits count i
  obtain ⟨hstop, hrest⟩ := tzero_checked (s := s) (x := x) (y := y) (l := l)
  have hnames : valid ↔ (namesCheck (srcCtx s) a fun _ => True).1 := (recordField_bit _ 0 31).symm.trans (iff_of_eq (and_true _).symm)
  have hcontrol : control ↔ (nibblesCheck False a b).1 := by
    show _ ↔ (False ∨ _) ∧ _
    rw [false_or]
  refine ⟨fun h => ?_, fun hc h => ?_, fun hc hv h => ?_, fun hc hv hn h => ?_, fun hc hv hn hf h => ?_, fun hc hv hn hf hk hroom => ?_⟩
  · exact hstop 0 _ _ rfl holds_nil (mt hcontrol.mpr h)
  · exact hstop 1 _ _ rfl (holds_cons (hcontrol.mp hc) holds_nil) (mt hnames.mpr h)
  · exact hstop 2 _ _ rfl (holds_cons (hcontrol.mp hc) (holds_cons (hnames.mp hv) holds_nil)) (Nat.not_le.mpr h)
  · exact hstop 3 _ _ rfl (holds_cons (hcontrol.mp hc) (holds_cons (hnames.mp hv) (holds_cons hn holds_nil))) h
  · exact hstop 4 _ _ rfl (holds_cons (hcontrol.mp hc) (holds_cons (hnames.mp hv) (holds_cons hn (holds_cons hf holds_nil)))) h
  · obtain ⟨hqueued, -⟩ := hrest (holds_cons (hcontrol.mp hc) (holds_cons (hnames.mp hv) (holds_cons hn (holds_cons hf (holds_cons hk holds_nil)))))
    obtain ⟨t, m, hexec, -, hcap, ht, -⟩ := hqueued hroom
    obtain ⟨-, -, -, -, hinstr, hsx, hsy, -⟩ := hcap
    exact ⟨t, m, hexec, by rw [ht], hinstr, hsx, hsy, by rw [ht]⟩

end Sys2Proof.Machine
end

section
/-! O59, part 1: the commands of a function's page (R98, R352, R353, R380). -/

namespace Sys2Proof.Machine

/-! ### Results in CMDGO -/

theorem pageOpen_iff {s : State} {fn : Nat} :
    pageOpen s fn = true ↔ s.linkUp = true ∧ fn ≤ 32 ∧ (fn = 0 ∨ fn ≤ s.vfs) ∧ s.hernus.bootstat.getLsbD 31 = true := by
  rw [pageOpen, Bool.and_eq_true, fnVisible_iff, and_assoc, and_assoc]

section
variable {s t : State} {fn : Nat} {r : Option State}

theorem runCommand_done (ho : pageOpen s fn = true) (h : r = some t) : runCommand s fn r = cmdResult t fn true := by
  unfold runCommand
  rw [ho, h]
  rfl

theorem runCommand_refused (ho : pageOpen s fn = true) (h : r = none) : runCommand s fn r = cmdResult s fn false := by
  unfold runCommand
  rw [ho, h]
  rfl

end

/-! ### Records -/

section
variable {c : Context} {seq : Nat} {r : Record}

theorem findRecord_known (hh : ∀ x ∈ c.held, x.seq ≠ seq) (hr : c.records.find? (·.seq == seq) = some r) : findRecord c seq = some r := by
  have hheld : c.held.any (·.seq == seq) = false := List.any_eq_false.mpr fun x hx => by simpa using hh x hx
  rw [findRecord, hheld, hr]
  rfl

theorem findRecord_unknown (h : (∃ x ∈ c.held, x.seq = seq) ∨ ∀ x ∈ c.records, x.seq ≠ seq) : findRecord c seq = none := by
  rcases h with ⟨x, hx, he⟩ | h
  · have hheld : c.held.any (·.seq == seq) = true := List.any_eq_true.mpr ⟨x, hx, beq_iff_eq.mpr he⟩
    rw [findRecord, hheld]
    rfl
  · have hnone : c.records.find? (·.seq == seq) = none := List.find?_eq_none.mpr fun x hx => by simpa using h x hx
    rw [findRecord, hnone, ite_self]

end

section
variable {s : State} {fn seq : Nat} {r : Record} {g : Grid} {n : Node}

theorem resumeRecord_unknown (h : findRecord (s.ctxOf fn) seq = none) : resumeRecord s fn seq = none := by
  unfold resumeRecord
  rw [h]

theorem resumeRecord_refused (h : findRecord (s.ctxOf fn) seq = some r) (hr : resumable s fn r = false) : resumeRecord s fn seq = none := by
  unfold resumeRecord
  rw [h]
  dsimp only
  rw [hr]
  rfl

theorem resumeRecord_some (h : findRecord (s.ctxOf fn) seq = some r) (hr : resumable s fn r = true) : resumeRecord s fn seq =
    some (if isResident s fn then resumeAgent (markAnswered s fn seq) fn r
      else (markAnswered s fn seq).mapCtx fn fun c => { c with resumes := c.resumes ++ [seq] }) := by
  unfold resumeRecord
  rw [h]
  dsimp only
  rw [hr]
  rfl

theorem terminateRecord_unknown (h : findRecord (s.ctxOf fn) seq = none) : terminateRecord s fn seq = none := by
  unfold terminateRecord
  rw [h]

theorem terminateRecord_grid (h : findRecord (s.ctxOf fn) seq = some r) (hh : r.handle ≠ 0#32) (hg : recordGrid s r = some g) (hl : g.retired = false) :
    terminateRecord s fn seq = some (terminateGrids s [g.handle] r.code.number (BitVec.ofNat 32 r.code.number)) := by
  unfold terminateRecord
  rw [h]
  dsimp only
  rw [if_pos (bne_iff_ne.mpr hh), hg]
  dsimp only
  rw [hl]
  rfl

theorem terminateRecord_noGrid (h : findRecord (s.ctxOf fn) seq = some r) (hh : r.handle ≠ 0#32)
    (hg : recordGrid s r = none ∨ (recordGrid s r = some g ∧ g.retired = true)) : terminateRecord s fn seq = none := by
  unfold terminateRecord
  rw [h]
  dsimp only
  rw [if_pos (bne_iff_ne.mpr hh)]
  rcases hg with hg | ⟨hg, hl⟩
  · rw [hg]
  · rw [hg]
    exact if_pos hl

theorem terminateRecord_node (h : findRecord (s.ctxOf fn) seq = some r) (hh : r.handle = 0#32) :
    terminateRecord s fn seq = (recordNode s r).map fun n => endNode s n r.code.number := by
  unfold terminateRecord
  rw [h]
  dsimp only
  rw [if_neg (by rw [hh]; decide)]
  cases recordNode s r <;> rfl

/-- R353: the unfinished COLLECTIVE or TRANSFORM node that a record names. -/
def NamesNode (s : State) (r : Record) (n : Node) : Prop :=
  s.nodeOf r.node = some n ∧ r.stamp = some n.stamp ∧ (recType n.words = 1 ∨ recType n.words = 2) ∧ ∀ st, n.status ≠ .finished st

theorem recordNode_eq_some : recordNode s r = some n ↔ NamesNode s r n := by
  have hlive : (match n.status with | .finished _ => false | _ => true) = true ↔ ∀ st, n.status ≠ .finished st := by
    cases n.status <;> simp
  unfold recordNode NamesNode
  rw [Option.filter_eq_some_iff, Bool.and_eq_true, Bool.and_eq_true, Bool.or_eq_true, beq_iff_eq, beq_iff_eq, beq_iff_eq, and_assoc, eq_comm (b := r.stamp)]
  exact and_congr_right' (and_congr_right' (and_congr_right' hlive))

theorem terminateHandle_live {h : W32} (hg : s.gridOf h = some g) (ho : g.owner = fn) (hl : g.retired = false) :
    terminateHandle s fn h = some (terminateGrids s [h] 0 0x200#32) := by
  unfold terminateHandle
  rw [hg]
  dsimp only
  rw [ho, hl, bne_self_eq_false]
  rfl

theorem terminateHandle_gone {h : W32} (hg : s.gridOf h = none) : terminateHandle s fn h = none := by
  unfold terminateHandle
  rw [hg]

theorem terminateHandle_refused {h : W32} (hg : s.gridOf h = some g) (ho : g.owner ≠ fn ∨ g.retired = true) : terminateHandle s fn h = none := by
  unfold terminateHandle
  rw [hg]
  exact if_pos (by rw [Bool.or_eq_true, bne_iff_ne]; exact ho)

end

/-! ### Ends of nodes -/

section
variable {s : State} {k : Collective} {n : Node} {code : Nat}

theorem endNode_collective (h : s.colls.find? (fun c => c.queue.isNone && c.node == n.handle) = some k) : endNode s n code = endCollective s k.id code := by
  unfold endNode
  rw [h]

theorem endNode_transform (h : s.colls.find? (fun c => c.queue.isNone && c.node == n.handle) = none) :
    endNode s n code = endTransform s n.handle (BitVec.ofNat 32 code) := by
  unfold endNode
  rw [h]

theorem leave_eq (q : Fabric) (id : Nat) : q.leave id = if q.coll = some id ∧ q.waited = none then { q with coll := none, phase := .ended } else q := by
  have hc : (q.coll == some id && q.waited.isNone) = true ↔ q.coll = some id ∧ q.waited = none := by
    rw [Bool.and_eq_true, beq_iff_eq, Option.isNone_iff_eq_none]
  unfold Fabric.leave
  exact if_congr hc rfl rfl

/-- A state without a collective: its processors, saved ones too, leave it. -/
def State.without (s : State) (id : Nat) : State :=
  { s with colls := s.colls.filter (·.id != id), fabric := s.fabric.map (·.leave id),
           owners := s.owners.map fun o => { o with processors := o.processors.map (·.leave id) } }

theorem endCollective_node (h : s.colls.find? (·.id == k.id) = some k) (hq : k.queue = none) :
    endCollective s k.id code = (s.without k.id).finishNode k.node (BitVec.ofNat 32 code) := by
  unfold endCollective
  rw [h]
  dsimp only
  rw [hq]
  rfl

theorem endCollective_request {q m : Nat} (h : s.colls.find? (·.id == k.id) = some k) (hq : k.queue = some (q, m)) :
    endCollective s k.id code = completeRequest (s.without k.id) k.owner q m k.done code := by
  unfold endCollective
  rw [h]
  dsimp only
  rw [hq]
  rfl

end

end Sys2Proof.Machine
end
section
/-! O59, part 2: contexts, streams and the state that DESTROY leaves (R362, R363). -/

namespace Sys2Proof.Machine

/-! ### Contexts -/

theorem ite_owner {f : Context → Context} (hf : ∀ c, (f c).owner = c.owner) {n : Nat} {c : Context} : (if c.owner == n then f c else c).owner = c.owner := by
  split
  · exact hf c
  · rfl

theorem ctxOf_mapCtx_other {s : State} {n m : Nat} {f : Context → Context} (hf : ∀ c, (f c).owner = c.owner) (h : m ≠ n) :
    (s.mapCtx n f).ctxOf m = s.ctxOf m := by
  unfold State.ctxOf State.mapCtx
  dsimp only
  rw [ite_owner hf, find_replaceIf_owner hf]
  show (if (s.focused && s.ctx.owner == m) = true then _ else _) = if (s.focused && s.ctx.owner == m) = true then _ else _
  split
  · next hfoc =>
    have hm : s.ctx.owner = m := beq_iff_eq.mp (Bool.and_eq_true_iff.mp hfoc).2
    rw [if_neg (by rw [beq_iff_eq, hm]; exact h)]
  · congr 1
    cases hfind : s.owners.find? (·.owner == m) with
    | none => rfl
    | some c =>
      have hfound := List.find?_some hfind
      have hc : c.owner = m := beq_iff_eq.mp hfound
      rw [Option.map_some, if_neg (by rw [beq_iff_eq, hc]; exact h)]

/-- A context changed is the change of the one that stood, where one did. -/
theorem ctxOf_mapCtx_same {s : State} {n : Nat} {f : Context → Context} (hf : ∀ c, (f c).owner = c.owner) :
    (s.mapCtx n f).ctxOf n = f (s.ctxOf n) ∨ (s.mapCtx n f).ctxOf n = Context.fresh n := by
  unfold State.ctxOf State.mapCtx
  dsimp only
  rw [ite_owner hf, find_replaceIf_owner hf]
  show (if (s.focused && s.ctx.owner == n) = true then _ else _) = f (if (s.focused && s.ctx.owner == n) = true then _ else _) ∨
    (if (s.focused && s.ctx.owner == n) = true then _ else _) = _
  split
  · next hfoc => exact .inl (if_pos (Bool.and_eq_true_iff.mp hfoc).2)
  · cases hfind : s.owners.find? (·.owner == n) with
    | none => exact .inr rfl
    | some c => exact .inl (if_pos (List.find?_some hfind))

/-- A change of every context, in focus too. -/
def State.mapOwners (s : State) (f : Context → Context) : State := { s with owners := s.owners.map f, ctx := f s.ctx }

theorem ctxOf_mapOwners {s : State} {n : Nat} {f : Context → Context} (hf : ∀ c, (f c).owner = c.owner) (h0 : f (Context.fresh n) = Context.fresh n) :
    (s.mapOwners f).ctxOf n = f (s.ctxOf n) := by
  have ho : ((·.owner == n) ∘ f) = fun c => c.owner == n := funext fun c => congrArg (· == n) (hf c)
  unfold State.ctxOf State.mapOwners
  dsimp only
  rw [hf, List.find?_map, ho]
  show (if (s.focused && s.ctx.owner == n) = true then _ else _) = f (if (s.focused && s.ctx.owner == n) = true then _ else _)
  split
  · rfl
  · cases s.owners.find? (·.owner == n) with
    | none => exact h0.symm
    | some c => rfl

/-! ### DESTROY -/

/-- A context whose saved processors hold no transfer of an owner. -/
def Context.forgets (owner : Nat) (c : Context) : Context := { c with processors := c.processors.map (·.forget owner) }

/-- The context that DESTROY leaves of its owner: the registers of its function's page. -/
def Context.erased (c : Context) : Context :=
  { Context.fresh c.owner with
    ptbr := c.ptbr, fq := c.fq, nr := c.nr, mr := c.mr, ms := c.ms, cmd := c.cmd, cmdgo := c.cmdgo,
    queues := c.queues.map (fun q => { q with next := 0, requests := [] }), gtbase := c.gtbase, gtcount := c.gtcount, winbase := c.winbase, winload := c.winload }

/-- What DESTROY makes of a processor: idle where it works for the owner; the transfers that the owner saved with it go on, and none of them is the owner's. -/
def erasedFabric (s : State) (owner : Nat) (f : Fabric) : Fabric :=
  let g := if ownsProcessor s owner f then f.idle else f
  Fabric.forget { g with transfers := g.transfers ++ savedTransfers (s.ctxOf owner) f.index } owner

/-- The dirty lines of an owner. -/
def ownedLines (s : State) (owner : Nat) : List Nat := s.dirty.filter fun l => lineKeyOf s.lineKey l == some (s.ctxOf owner).key

/-- What DESTROY leaves before the owner's context is erased: its lines lost, and nothing of it that ran or was in flight. -/
def eraseWork (s : State) (owner : Nat) : State :=
  { s.mapOwners (Context.forgets owner) with
    mem := lostMem s.draw s.mem (ownedLines s owner), dirty := s.dirty.filter (fun l => !(ownedLines s owner).contains l), draw := s.draw + 1,
    mats := s.mats.filter (fun m => !s.teams.any fun t => t.id == m.team && t.owner == owner), colls := s.colls.filter (·.owner != owner),
    fabric := s.fabric.map (erasedFabric s owner), teams := s.teams.filter (·.owner != owner), grids := s.grids.filter (·.owner != owner),
    parked := s.parked.filter (·.owner != owner) }

theorem eraseOwner_eq (s : State) (owner : Nat) : eraseOwner s owner = (eraseWork s owner).mapCtx owner Context.erased := by
  unfold eraseOwner
  dsimp only
  rw [loseLines_eq]
  rfl

theorem eraseOwner_mats {s : State} {owner : Nat} {m : MatCmd} :
    m ∈ (eraseOwner s owner).mats ↔ m ∈ s.mats ∧ ∀ t ∈ s.teams, t.id = m.team → t.owner ≠ owner := by
  rw [eraseOwner_eq]
  show m ∈ s.mats.filter (fun m => !s.teams.any fun t => t.id == m.team && t.owner == owner) ↔ _
  simp

theorem eraseOwner_dirty {s : State} {owner l : Nat} :
    l ∈ (eraseOwner s owner).dirty ↔ l ∈ s.dirty ∧ ¬lineKeyOf s.lineKey l = some (s.ctxOf owner).key := by
  rw [eraseOwner_eq]
  show l ∈ s.dirty.filter (fun l => !(ownedLines s owner).contains l) ↔ _
  rw [List.mem_filter, Bool.not_eq_true', ← Bool.not_eq_true, List.contains_iff_mem, ownedLines, List.mem_filter, beq_iff_eq]
  tauto

theorem eraseOwner_mem {s : State} {owner a : Nat} (h : MemoryOk s) (ha : a / 64 ∉ s.dirty ∨ ¬lineKeyOf s.lineKey (a / 64) = some (s.ctxOf owner).key) :
    memRead (eraseOwner s owner).mem a = memRead s.mem a := by
  have hout : a / 64 ∉ ownedLines s owner := by
    rw [ownedLines, List.mem_filter, beq_iff_eq]
    tauto
  rw [eraseOwner_eq]
  show memRead (lostMem s.draw s.mem (ownedLines s owner)) a = _
  rw [memRead_lostMem h, if_neg hout]

theorem ownsProcessor_iff {s : State} {owner : Nat} {p : Fabric} : ownsProcessor s owner p = true ↔
    (∃ k ∈ s.colls, k.owner = owner ∧ p.coll = some k.id) ∨ ∃ x, p.waited = some x ∧ x.owner = owner := by
  unfold ownsProcessor
  rw [Bool.or_eq_true, List.any_eq_true, Option.any_eq_true]
  simp [and_comm]

theorem erasedFabric_idle {s : State} {owner : Nat} {p : Fabric} (h : ownsProcessor s owner p = true) :
    (erasedFabric s owner p).coll = none ∧ (erasedFabric s owner p).phase = .ended := by
  unfold erasedFabric
  rw [if_pos h]
  exact ⟨rfl, rfl⟩

theorem erasedFabric_kept {s : State} {owner : Nat} {p : Fabric} (h : ¬ownsProcessor s owner p = true) :
    (erasedFabric s owner p).coll = p.coll ∧ (erasedFabric s owner p).phase = p.phase := by
  unfold erasedFabric
  rw [if_neg h]
  exact ⟨rfl, rfl⟩

theorem erasedFabric_transfers {s : State} {owner : Nat} {p : Fabric} : (erasedFabric s owner p).transfers =
    (p.transfers ++ ((s.ctxOf owner).processors.filter (·.index == p.index)).flatMap (·.transfers)).filter fun x => x.owner != owner := by
  unfold erasedFabric
  split <;> rfl

theorem eraseOwner_other {s : State} {owner o : Nat} (h : o ≠ owner) : (eraseOwner s owner).ctxOf o = (s.ctxOf o).forgets owner := by
  rw [eraseOwner_eq, ctxOf_mapCtx_other (f := Context.erased) (fun _ => rfl) h]
  exact ctxOf_mapOwners (s := s) (f := Context.forgets owner) (fun _ => rfl) rfl

/-- The owner's context after DESTROY is an erased one, or one that never was. -/
theorem eraseOwner_own (s : State) (owner : Nat) : (∃ c : Context, (eraseOwner s owner).ctxOf owner = c.erased) ∨ (eraseOwner s owner).ctxOf owner = Context.fresh owner := by
  rw [eraseOwner_eq]
  exact (ctxOf_mapCtx_same (f := Context.erased) fun _ => rfl).imp_left fun h => ⟨_, h⟩

end Sys2Proof.Machine
end
section
/-! O59, part 3: the report and the log (R366, R367). -/

namespace Sys2Proof.Machine

/-! ### Bytes at a place -/

/-- The bytes of a list of fields at the place of field j. -/
theorem take_drop_flatten {fs : List (List Byte)} {tail : List Byte} {j k n : Nat} {x : List Byte} (hx : fs[j]? = some x) (hk : (fs.take j).flatten.length = k)
    (hn : x.length = n) : ((fs.flatten ++ tail).drop k).take n = x := by
  obtain ⟨hj, rfl⟩ := List.getElem?_eq_some_iff.mp hx
  have hsplit : fs.flatten = (fs.take j).flatten ++ (fs[j] ++ (fs.drop (j + 1)).flatten) := by
    conv_lhs => rw [← List.take_append_drop j fs, List.drop_eq_getElem_cons hj]
    rw [List.flatten_append, List.flatten_cons]
  rw [hsplit, List.append_assoc, List.drop_left' hk, List.append_assoc, List.take_left' hn]

/-- The value of a little-endian field of n bytes. -/
theorem bytesNat_field {b : List Byte} {k n v : Nat} (h : (b.drop k).take n = natBytes n v) : bytesNat ((b.drop k).take n) = v % 256 ^ n := by
  rw [h, bytesNat_natBytes]

/-! ### The report -/

/-- R367: the fields of a report up to its ranges. -/
def reportFields (s : State) (owner : Nat) (nonce : List Byte) : List (List Byte) :=
  let c := s.ctxOf owner
  [natBytes 4 0x48545352, natBytes 4 1, List.ofFn Config.serial, nonce, s.hernus.mr, natBytes 4 s.hernus.log.length, natBytes 4 s.hernus.svn, natBytes 1 owner,
   natBytes 1 c.part, natBytes 1 s.parts, natBytes 1 (s.owners.filter fun o => o.created && o.part == c.part).length, natBytes 4 c.grant.length]

/-- R367: a report before its padding. -/
def reportBody (s : State) (owner : Nat) (nonce : List Byte) : List Byte := (reportFields s owner nonce).flatten ++ (s.ctxOf owner).grant.flatMap rangeBytes

theorem reportBytes_eq (s : State) (owner : Nat) (nonce : List Byte) :
    reportBytes s owner nonce = reportBody s owner nonce ++ List.replicate (1024 - (reportBody s owner nonce).length) 0#8 := by
  have hbody : reportBody s owner nonce = natBytes 4 0x48545352 ++ natBytes 4 1 ++ List.ofFn Config.serial ++ nonce ++ s.hernus.mr ++ natBytes 4 s.hernus.log.length ++
      natBytes 4 s.hernus.svn ++ natBytes 1 owner ++ natBytes 1 (s.ctxOf owner).part ++ natBytes 1 s.parts ++
      natBytes 1 (s.owners.filter fun o => o.created && o.part == (s.ctxOf owner).part).length ++ natBytes 4 (s.ctxOf owner).grant.length ++
      (s.ctxOf owner).grant.flatMap rangeBytes := by
    simp only [reportBody, reportFields, List.flatten_cons, List.flatten_nil, List.append_nil, List.append_assoc]
  rw [hbody]
  rfl

theorem flatMap_rangeBytes_length (l : List (Nat × Nat)) : (l.flatMap rangeBytes).length = 8 * l.length := by
  induction l with
  | nil => rfl
  | cons r t ih =>
    rw [List.flatMap_cons, List.length_append, ih, List.length_cons, rangeBytes, List.length_append, natBytes_length, natBytes_length]
    omega

section
variable {s : State} {owner : Nat} {nonce : List Byte} (hnonce : nonce.length = 64) (hmr : s.hernus.mr.length = 64)

include hnonce hmr

theorem reportFields_length : (reportFields s owner nonce).flatten.length = 168 := by simp [reportFields, natBytes_length, hnonce, hmr]

theorem reportBody_length : (reportBody s owner nonce).length = 168 + 8 * (s.ctxOf owner).grant.length := by
  rw [reportBody, List.length_append, reportFields_length hnonce hmr, flatMap_rangeBytes_length]

theorem reportBytes_length (hg : (s.ctxOf owner).grant.length ≤ 64) : (reportBytes s owner nonce).length = 1024 := by
  rw [reportBytes_eq, List.length_append, List.length_replicate, reportBody_length hnonce hmr]
  omega

omit hnonce hmr in
/-- A field of a report at its place. -/
theorem reportBytes_field {j k n : Nat} {x : List Byte} (hx : (reportFields s owner nonce)[j]? = some x)
    (hk : ((reportFields s owner nonce).take j).flatten.length = k) (hn : x.length = n) : ((reportBytes s owner nonce).drop k).take n = x := by
  rw [reportBytes_eq, reportBody, List.append_assoc]
  exact take_drop_flatten hx hk hn

/-- Range i of a report, and what stands after its first word. -/
theorem reportBytes_range {i : Nat} (hi : i < (s.ctxOf owner).grant.length) : ∃ rest, (reportBytes s owner nonce).drop (168 + 8 * i) =
    natBytes 4 (s.ctxOf owner).grant[i].1 ++ (natBytes 4 (s.ctxOf owner).grant[i].2 ++ rest) := by
  have hsplit : (s.ctxOf owner).grant.flatMap rangeBytes = ((s.ctxOf owner).grant.take i).flatMap rangeBytes ++
      (rangeBytes (s.ctxOf owner).grant[i] ++ ((s.ctxOf owner).grant.drop (i + 1)).flatMap rangeBytes) := by
    conv_lhs => rw [← List.take_append_drop i (s.ctxOf owner).grant, List.drop_eq_getElem_cons hi]
    rw [List.flatMap_append, List.flatMap_cons]
  have hlen : ((reportFields s owner nonce).flatten ++ ((s.ctxOf owner).grant.take i).flatMap rangeBytes).length = 168 + 8 * i := by
    rw [List.length_append, reportFields_length hnonce hmr, flatMap_rangeBytes_length, List.length_take, Nat.min_eq_left (Nat.le_of_lt hi)]
  refine ⟨((s.ctxOf owner).grant.drop (i + 1)).flatMap rangeBytes ++ List.replicate (1024 - (reportBody s owner nonce).length) 0#8, ?_⟩
  rw [reportBytes_eq, reportBody, hsplit, ← List.append_assoc, List.append_assoc _ _ (List.replicate _ _), List.drop_left' hlen, rangeBytes]
  simp only [List.append_assoc]

theorem reportBytes_ranges {i : Nat} (hi : i < (s.ctxOf owner).grant.length) :
    bytesNat (((reportBytes s owner nonce).drop (168 + 8 * i)).take 4) = (s.ctxOf owner).grant[i].1 % 2 ^ 32 ∧
    bytesNat (((reportBytes s owner nonce).drop (172 + 8 * i)).take 4) = (s.ctxOf owner).grant[i].2 % 2 ^ 32 := by
  obtain ⟨rest, hrest⟩ := reportBytes_range hnonce hmr hi
  have hnext : (reportBytes s owner nonce).drop (172 + 8 * i) = natBytes 4 (s.ctxOf owner).grant[i].2 ++ rest := by
    rw [show 172 + 8 * i = 168 + 8 * i + 4 by omega, ← List.drop_drop, hrest, List.drop_left' natBytes_length]
  rw [hrest, hnext, List.take_left' natBytes_length, List.take_left' natBytes_length, bytesNat_natBytes, bytesNat_natBytes]
  exact ⟨rfl, rfl⟩

theorem reportBytes_padding {i : Nat} (hlo : 168 + 8 * (s.ctxOf owner).grant.length ≤ i) (hi : i < 1024) : (reportBytes s owner nonce).getD i 1#8 = 0#8 := by
  have hlen := reportBody_length (owner := owner) hnonce hmr
  rw [reportBytes_eq, List.getD_append_right _ _ _ _ (by omega), List.getD_replicate _ (by omega)]

end

/-! ### Texts -/

/-- R366: a text is ASCII, padded with zeros to its 48 bytes. -/
theorem asciiText_padded (l : List Byte) : (∀ x ∈ asciiText l, x.toNat < 128) ∧
    ∃ n ≤ 48, (∀ x ∈ (asciiText l).take n, x ≠ 0#8) ∧ ∀ x ∈ (asciiText l).drop n, x = 0#8 := by
  have htext (x : Byte) (hx : x ∈ ((l.map (· &&& 0x7F#8)).takeWhile (· != 0#8)).take 48) : x.toNat < 128 ∧ x ≠ 0#8 := by
    have hmem := List.mem_of_mem_take hx
    obtain ⟨y, -, rfl⟩ := List.mem_map.mp (List.takeWhile_subset _ hmem)
    have hne := List.mem_takeWhile_imp hmem
    refine ⟨?_, bne_iff_ne.mp hne⟩
    rw [BitVec.toNat_and]
    exact Nat.lt_of_le_of_lt Nat.and_le_right (by decide)
  have hlen : (((l.map (· &&& 0x7F#8)).takeWhile (· != 0#8)).take 48).length ≤ 48 := List.length_take_le _ _
  unfold asciiText
  dsimp only
  generalize ((l.map (· &&& 0x7F#8)).takeWhile (· != 0#8)).take 48 = t at htext hlen
  refine ⟨fun x hx => ?_, t.length, hlen, ?_, ?_⟩
  · rcases List.mem_append.mp hx with h | h
    · exact (htext x h).1
    · rw [List.eq_of_mem_replicate h]
      decide
  · rw [List.take_left' rfl]
    exact fun x h => (htext x h).2
  · rw [List.drop_left' rfl]
    exact fun x h => List.eq_of_mem_replicate h

end Sys2Proof.Machine
end
section
/-! O59, part 4: the commands of Hernus's mailbox (R362 to R367), and the statement. -/

namespace Sys2Proof.Machine

/-! ### The page's commands -/

section
variable {s : State} {fn : Nat} {seq h : W32} {r : Record} {g : Grid} {n : Node} (ho : pageOpen s fn = true)

include ho

theorem exec_inval_open (va : W64) (pages : W32) : exec (.inval fn va pages) s = .next (cmdResult (invalidate s fn va pages) fn true) :=
  congrArg _ (runCommand_done ho rfl)

theorem exec_resume_done {t : State} (hr : resumeRecord s fn seq.toNat = some t) : exec (.resume fn seq) s = .next (cmdResult t fn true) :=
  congrArg _ (runCommand_done ho hr)

theorem exec_resume_refused (hr : resumeRecord s fn seq.toNat = none) : exec (.resume fn seq) s = .next (cmdResult s fn false) :=
  congrArg _ (runCommand_refused ho hr)

theorem exec_terminate_done {t : State} (hr : terminateRecord s fn seq.toNat = some t) : exec (.terminate fn seq) s = .next (cmdResult t fn true) :=
  congrArg _ (runCommand_done ho hr)

theorem exec_terminate_refused (hr : terminateRecord s fn seq.toNat = none) : exec (.terminate fn seq) s = .next (cmdResult s fn false) :=
  congrArg _ (runCommand_refused ho hr)

theorem exec_termgrid_done {t : State} (hr : terminateHandle s fn h = some t) : exec (.termgrid fn h) s = .next (cmdResult t fn true) :=
  congrArg _ (runCommand_done ho hr)

theorem exec_termgrid_refused (hr : terminateHandle s fn h = none) : exec (.termgrid fn h) s = .next (cmdResult s fn false) :=
  congrArg _ (runCommand_refused ho hr)

end

/-! ### The mailbox -/

section
variable {s : State} {fn owner part scratch : Nat} {grant : List (Nat × Nat)} {image : Nat × Nat} {nonce : List Byte}

theorem hernusReady_iff : hernusReady s fn = true ↔ s.linkUp = true ∧ fn = 0 ∧ s.hernus.bootstat.getLsbD 31 = true ∧ s.hernus.log.length < 1024 := by
  unfold hernusReady Hernus.room
  rw [Bool.and_eq_true, Bool.and_eq_true, Bool.and_eq_true, beq_iff_eq, decide_eq_true_iff, and_assoc, and_assoc]

/-- What CREATE demands besides that Hernus is ready. -/
def Creatable (s : State) (owner part scratch : Nat) (grant : List (Nat × Nat)) (image : Nat × Nat) : Prop :=
  owner ≤ 32 ∧ part < s.parts ∧ (s.ctxOf owner).created = false ∧ grantMeets s owner grant = false ∧ grant.length ≤ 64 ∧
    areaIn grant image.1 image.2 = true ∧ scratch ≤ 16

theorem createRefused_iff : (!hernusReady s fn || 32 < owner || s.parts ≤ part || (s.ctxOf owner).created || grantMeets s owner grant || 64 < grant.length ||
    !areaIn grant image.1 image.2 || 16 < scratch) = true ↔ ¬(hernusReady s fn = true ∧ Creatable s owner part scratch grant image) := by
  unfold Creatable
  simp only [Bool.or_eq_true, Bool.not_eq_true', decide_eq_true_iff, ← Bool.not_eq_true, ← Nat.not_le]
  tauto

/-- What an accepted CREATE leaves before its answer. -/
def createdState (s : State) (owner part scratch : Nat) (grant : List (Nat × Nat)) (image : Nat × Nat) : State :=
  let m := measureEvent s 2 owner ([owner, part, image.1, image.2, scratch] ++ grant.flatMap fun r => [r.1, r.2])
  let t := emptyStreams { m with hernus := { m.hernus with keys := s.hernus.keys + 1 } } owner
  writeImage (t.mapCtx owner fun c => newContext c (s.hernus.keys + 1) part scratch grant image) owner

theorem exec_create_made (hr : hernusReady s fn = true) (hm : Creatable s owner part scratch grant image) :
    exec (.create fn owner grant part image scratch) s = .next (hernusReply s fn (some (createdState s owner part scratch grant image, []))) := by
  have hmade : createOwner s fn owner grant part image scratch = some (createdState s owner part scratch grant image, []) :=
    if_neg fun hno => createRefused_iff.mp hno ⟨hr, hm⟩
  rw [← hmade]
  rfl

theorem exec_create_refused (h : ¬(hernusReady s fn = true ∧ Creatable s owner part scratch grant image)) :
    exec (.create fn owner grant part image scratch) s = .next (hernusReply s fn none) := by
  have hnone : createOwner s fn owner grant part image scratch = none := if_pos (createRefused_iff.mpr h)
  rw [← hnone]
  rfl

theorem exec_setgrant_done (hr : hernusReady s fn = true) (hc : (s.ctxOf owner).created = true) (hm : grantMeets s owner grant = false)
    (hl : (s.ctxOf owner).grant.length + grant.length ≤ 64) : exec (.setgrant fn owner grant) s = .next (hernusReply s fn (some
      ((measureEvent s 3 owner (owner :: grant.flatMap fun r => [r.1, r.2])).mapCtx owner fun c => { c with grant := c.grant ++ grant }, []))) := by
  have hdone : addGrant s fn owner grant = some (_, []) := if_neg (by rw [hr, hc, hm, decide_eq_false (Nat.not_lt.mpr hl)]; decide)
  exact congrArg (fun o => Host.Outcome.next (hernusReply s fn o)) hdone

theorem exec_destroy_done (hr : hernusReady s fn = true) (hc : (s.ctxOf owner).created = true) (hi : isResident s owner = false) (hw : hasWork s owner = false) :
    exec (.destroy fn owner) s = .next (hernusReply s fn (some (eraseOwner (measureEvent s 4 owner [owner]) owner, []))) := by
  show Host.Outcome.next (hernusReply s fn (destroyOwner s fn owner)) = _
  unfold destroyOwner
  rw [hr, hc, hi, hw]
  rfl

theorem exec_destroy_resident (hi : isResident s owner = true) : exec (.destroy fn owner) s = .next (hernusReply s fn none) := by
  have hnone : destroyOwner s fn owner = none := if_pos (by rw [hi, Bool.or_true, Bool.true_or])
  rw [← hnone]
  rfl

theorem exec_attest_done (hv : fnVisible s fn = true) (hf : fn = 0 ∨ fn = owner) (ho : owner ≤ 32) (hn : nonce.length = 64) :
    exec (.attest fn owner nonce) s = .next (hernusReply s fn (some
      (s, reportBytes s owner nonce ++ (List.range 4627).map (Config.signature (sha3 (reportBytes s owner nonce)))))) := by
  have hfn : (fn == 0 || fn == owner) = true := by rw [Bool.or_eq_true, beq_iff_eq, beq_iff_eq]; exact hf
  show Host.Outcome.next (hernusReply s fn (attestOwner s fn owner nonce)) = _
  unfold attestOwner
  rw [hv, hfn, hn, decide_eq_false (Nat.not_lt.mpr ho)]
  rfl

theorem exec_logread_done (hv : fnVisible s fn = true) : exec (.logread fn) s = .next (hernusReply s fn (some (s, s.hernus.log.zipIdx.flatMap logBytes))) := by
  show Host.Outcome.next (hernusReply s fn (if fnVisible s fn then _ else none)) = _
  rw [if_pos hv]

theorem exec_fusedSvnRaise_done {svn : W32} (hl : s.linkUp = true) (hf : fn = 0) (hb : s.hernus.bootstat.getLsbD 31 = true) (hs : svn.toNat ≤ s.hernus.svn) :
    exec (.fusedSvnRaise fn svn) s = .next (hernusReply s fn (some ({ s with hernus := { s.hernus with minSvn := max s.hernus.minSvn svn.toNat } }, []))) := by
  show Host.Outcome.next (hernusReply s fn (if s.linkUp && fn == 0 && s.hernus.bootstat.getLsbD 31 && svn.toNat ≤ s.hernus.svn then _ else none)) = _
  rw [hl, hf, hb, decide_eq_true hs]
  rfl

end

/-! ### The clauses -/

section
variable {s : State} {fn : Nat} {seq h : W32} {r : Record} {g : Grid}

/-- R98, R352, R353, R380: what the commands of an open page do. -/
theorem pageCommands (va : W64) (pages : W32)
    (ho : s.linkUp = true ∧ fn ≤ 32 ∧ (fn = 0 ∨ fn ≤ s.vfs) ∧ s.hernus.bootstat.getLsbD 31 = true) :
    let answered (ok : Bool) (s : State) : State := cmdResult s fn ok
    let c := s.ctxOf fn
    let known : Prop := (∀ x ∈ c.held, x.seq ≠ seq.toNat) ∧ c.records.find? (·.seq == seq.toNat) = some r
    let unknown : Prop := (∃ x ∈ c.held, x.seq = seq.toNat) ∨ ∀ x ∈ c.records, x.seq ≠ seq.toNat
    exec (.inval fn va pages) s = .next (answered true (invalidate s fn va pages)) ∧
    (known → resumable s fn r = true → isResident s fn = true → exec (.resume fn seq) s = .next (answered true (resumeAgent (markAnswered s fn seq.toNat) fn r))) ∧
    (known → resumable s fn r = false → exec (.resume fn seq) s = .next (answered false s)) ∧
    (known → r.handle ≠ 0#32 → recordGrid s r = some g → g.retired = false →
      exec (.terminate fn seq) s = .next (answered true (terminateGrids s [g.handle] r.code.number (BitVec.ofNat 32 r.code.number)))) ∧
    (s.gridOf h = some g → g.owner = fn → g.retired = false → exec (.termgrid fn h) s = .next (answered true (terminateGrids s [h] 0 0x200#32))) ∧
    (s.gridOf h = none → exec (.termgrid fn h) s = .next (answered false s)) ∧
    (s.gridOf h = some g → g.owner ≠ fn ∨ g.retired = true → exec (.termgrid fn h) s = .next (answered false s)) ∧
    (known → resumable s fn r = true → isResident s fn = false →
      exec (.resume fn seq) s = .next (answered true ((markAnswered s fn seq.toNat).mapCtx fn fun c => { c with resumes := c.resumes ++ [seq.toNat] }))) ∧
    (unknown → exec (.resume fn seq) s = .next (answered false s) ∧ exec (.terminate fn seq) s = .next (answered false s)) ∧
    (known → r.handle ≠ 0#32 → recordGrid s r = none ∨ (recordGrid s r = some g ∧ g.retired = true) → exec (.terminate fn seq) s = .next (answered false s)) ∧
    (∀ n, known → r.handle = 0#32 → NamesNode s r n →
      (∀ k, s.colls.find? (fun c => c.queue.isNone && c.node == n.handle) = some k →
        exec (.terminate fn seq) s = .next (answered true (endCollective s k.id r.code.number))) ∧
      (s.colls.find? (fun c => c.queue.isNone && c.node == n.handle) = none →
        exec (.terminate fn seq) s = .next (answered true (endTransform s n.handle (BitVec.ofNat 32 r.code.number))))) ∧
    (known → r.handle = 0#32 → (∀ n, ¬NamesNode s r n) → exec (.terminate fn seq) s = .next (answered false s)) := by
  intro answered c known unknown
  have hopen := pageOpen_iff.mpr ho
  have hfind (hk : known) : findRecord (s.ctxOf fn) seq.toNat = some r := findRecord_known hk.1 hk.2
  refine ⟨exec_inval_open hopen va pages, fun hk hr hres => ?_, fun hk hr => ?_, fun hk hh hg hl => ?_, fun hg hown hl => ?_, fun hg => ?_, fun hg hbad => ?_,
    fun hk hr hres => ?_, fun hu => ⟨?_, ?_⟩, fun hk hh hg => ?_, fun n hk hh hn => ⟨fun k hc => ?_, fun hc => ?_⟩, fun hk hh hn => ?_⟩
  · exact exec_resume_done hopen ((resumeRecord_some (hfind hk) hr).trans (congrArg some (if_pos hres)))
  · exact exec_resume_refused hopen (resumeRecord_refused (hfind hk) hr)
  · exact exec_terminate_done hopen (terminateRecord_grid (hfind hk) hh hg hl)
  · exact exec_termgrid_done hopen (terminateHandle_live hg hown hl)
  · exact exec_termgrid_refused hopen (terminateHandle_gone hg)
  · exact exec_termgrid_refused hopen (terminateHandle_refused hg hbad)
  · exact exec_resume_done hopen ((resumeRecord_some (hfind hk) hr).trans (congrArg some (if_neg (Bool.eq_false_iff.mp hres))))
  · exact exec_resume_refused hopen (resumeRecord_unknown (findRecord_unknown hu))
  · exact exec_terminate_refused hopen (terminateRecord_unknown (findRecord_unknown hu))
  · exact exec_terminate_refused hopen (terminateRecord_noGrid (hfind hk) hh hg)
  · rw [← endNode_collective hc]
    exact exec_terminate_done hopen ((terminateRecord_node (hfind hk) hh).trans (by rw [recordNode_eq_some.mpr hn]; rfl))
  · rw [← endNode_transform hc]
    exact exec_terminate_done hopen ((terminateRecord_node (hfind hk) hh).trans (by rw [recordNode_eq_some.mpr hn]; rfl))
  · have hnone : recordNode s r = none := Option.eq_none_iff_forall_ne_some.mpr fun n hn' => hn n (recordNode_eq_some.mp hn')
    exact exec_terminate_refused hopen ((terminateRecord_node (hfind hk) hh).trans (by rw [hnone]; rfl))

end

end Sys2Proof.Machine
end
section
/-! O59, part 5: the statement. -/

namespace Sys2Proof.Machine

section
variable {s : State} {owner : Nat} {nonce : List Byte}

/-- R362, R363: what DESTROY leaves. -/
theorem destroyed (hm : MemoryOk s) :
    let e := eraseOwner s owner
    let own (l : Nat) : Prop := lineKeyOf s.lineKey l = some (s.ctxOf owner).key
    e.teams = s.teams.filter (·.owner != owner) ∧ e.grids = s.grids.filter (·.owner != owner) ∧ e.parked = s.parked.filter (·.owner != owner) ∧
    e.colls = s.colls.filter (·.owner != owner) ∧ (∀ m, m ∈ e.mats ↔ m ∈ s.mats ∧ ∀ t ∈ s.teams, t.id = m.team → t.owner ≠ owner) ∧
    e.streams = s.streams ∧ e.resident = s.resident ∧
    (∃ f : Fabric → Fabric, e.fabric = s.fabric.map f ∧ ∀ p,
      let ours : Prop := (∃ k ∈ s.colls, k.owner = owner ∧ p.coll = some k.id) ∨ ∃ x, p.waited = some x ∧ x.owner = owner
      (f p).transfers = (p.transfers ++ ((s.ctxOf owner).processors.filter (·.index == p.index)).flatMap (·.transfers)).filter (fun x => x.owner != owner) ∧
      (ours → (f p).coll = none ∧ (f p).phase = .ended) ∧ (¬ours → (f p).coll = p.coll ∧ (f p).phase = p.phase)) ∧
    (∀ l, l ∈ e.dirty ↔ l ∈ s.dirty ∧ ¬own l) ∧ (∀ a, a / 64 ∉ s.dirty ∨ ¬own (a / 64) → memRead e.mem a = memRead s.mem a) ∧
    (let n := e.ctxOf owner; n.created = false ∧ n.key = 0 ∧ n.grant = [] ∧ n.jobs = [] ∧ n.entries = [] ∧ n.regions = Vector.replicate 16 none ∧ n.group = [] ∧
      n.windows = [] ∧ n.processors = [] ∧ n.held = [] ∧ n.records = [] ∧ n.seq = 0 ∧ n.image = Image.reset) ∧
    ∀ o, o ≠ owner → e.ctxOf o = (s.ctxOf o).forgets owner := by
  intro e own
  have he : e = (eraseWork s owner).mapCtx owner Context.erased := eraseOwner_eq s owner
  refine ⟨?_, ?_, ?_, ?_, fun m => eraseOwner_mats, ?_, ?_, ⟨erasedFabric s owner, ?_, fun p => ⟨erasedFabric_transfers, fun ho => ?_, fun ho => ?_⟩⟩,
    fun l => eraseOwner_dirty, fun a ha => eraseOwner_mem hm ha, ?_, fun o ho => eraseOwner_other ho⟩
  · rw [he]; rfl
  · rw [he]; rfl
  · rw [he]; rfl
  · rw [he]; rfl
  · rw [he]; rfl
  · rw [he]; rfl
  · rw [he]; rfl
  · exact erasedFabric_idle (ownsProcessor_iff.mpr ho)
  · exact erasedFabric_kept (mt ownsProcessor_iff.mp ho)
  · have hown := eraseOwner_own s owner
    intro n
    obtain ⟨c, hc⟩ | hc := hown
    · have hn : n = c.erased := hc
      rw [hn]
      exact ⟨rfl, rfl, rfl, rfl, rfl, rfl, rfl, rfl, rfl, rfl, rfl, rfl, rfl⟩
    · have hn : n = Context.fresh owner := hc
      rw [hn]
      exact ⟨rfl, rfl, rfl, rfl, rfl, rfl, rfl, rfl, rfl, rfl, rfl, rfl, rfl⟩

/-- R367: the fields of a report at their bytes. -/
theorem reported (hnonce : nonce.length = 64) (hmr : s.hernus.mr.length = 64) (ho : owner < 256) (hg : (s.ctxOf owner).grant.length ≤ 64) :
    let b := reportBytes s owner nonce
    let c := s.ctxOf owner
    let v (k n : Nat) : Nat := bytesNat ((b.drop k).take n)
    b.length = 1024 ∧ v 0 4 = 0x48545352 ∧ v 4 4 = 1 ∧ (b.drop 8).take 16 = List.ofFn Config.serial ∧ (b.drop 24).take 64 = nonce ∧ (b.drop 88).take 64 = s.hernus.mr ∧
    v 152 4 = s.hernus.log.length % 2 ^ 32 ∧ v 156 4 = s.hernus.svn % 2 ^ 32 ∧ v 160 1 = owner ∧ v 161 1 = c.part % 256 ∧ v 162 1 = s.parts % 256 ∧
    v 163 1 = (s.owners.filter fun o => o.created && o.part == c.part).length % 256 ∧ v 164 4 = c.grant.length ∧
    (∀ i (_ : i < c.grant.length), v (168 + 8 * i) 4 = c.grant[i].1 % 2 ^ 32 ∧ v (172 + 8 * i) 4 = c.grant[i].2 % 2 ^ 32) ∧
    ∀ i, 168 + 8 * c.grant.length ≤ i → i < 1024 → b.getD i 1#8 = 0#8 := by
  intro b c v
  have hplace (j k : Nat) (hk : (((reportFields s owner nonce).map List.length).take j).sum = k) : ((reportFields s owner nonce).take j).flatten.length = k := by
    rw [List.length_flatten, List.map_take, hk]
  have hlens : (reportFields s owner nonce).map List.length = [4, 4, 16, 64, 64, 4, 4, 1, 1, 1, 1, 4] := by
    simp [reportFields, natBytes_length, hnonce, hmr]
  rw [hlens] at hplace
  have hval (j k n w : Nat) (hx : (reportFields s owner nonce)[j]? = some (natBytes n w)) (hk : (([4, 4, 16, 64, 64, 4, 4, 1, 1, 1, 1, 4] : List Nat).take j).sum = k) :
      v k n = w % 256 ^ n := bytesNat_field (reportBytes_field hx (hplace j k hk) natBytes_length)
  refine ⟨reportBytes_length hnonce hmr hg, hval 0 0 4 _ rfl rfl, hval 1 4 4 _ rfl rfl, reportBytes_field (j := 2) rfl (hplace 2 8 rfl) List.length_ofFn,
    reportBytes_field (j := 3) rfl (hplace 3 24 rfl) hnonce, reportBytes_field (j := 4) rfl (hplace 4 88 rfl) hmr, hval 5 152 4 _ rfl rfl, hval 6 156 4 _ rfl rfl,
    (hval 7 160 1 _ rfl rfl).trans (Nat.mod_eq_of_lt ho), hval 8 161 1 _ rfl rfl, hval 9 162 1 _ rfl rfl, hval 10 163 1 _ rfl rfl,
    (hval 11 164 4 _ rfl rfl).trans (Nat.mod_eq_of_lt (Nat.lt_of_le_of_lt hg (by decide))), fun i hi => reportBytes_ranges hnonce hmr hi,
    fun i hlo hi => reportBytes_padding hnonce hmr hlo hi⟩

end

theorem replicate_getD {α : Type} {n k : Nat} {a b : α} (h : k < n) : (Vector.replicate n a).getD k b = a := by simp [Vector.getD, h]

/-- Settles O59: the page's commands, the ends of nodes, CREATE's context and streams, what DESTROY leaves, the report's bytes and the mailbox's answers. -/
theorem hostCommands : Obligations.HostCommands := by
  unfold Obligations.HostCommands
  intro fn owner part scratch va pages seq h svn grant image nonce s r g open_ seen answered c known unknown names no yes ready made measured flat
  have hready : ready ↔ hernusReady s fn = true := hernusReady_iff.symm
  refine ⟨pageCommands va pages, fun _ _ => rfl, leave_eq, fun k code hk => ⟨endCollective_node hk, fun q n => endCollective_request hk⟩, ?_,
    ⟨rfl, fun k hk => emptyStreams_stream.trans (if_congr (and_iff_right hk) rfl rfl)⟩, fun hm _ => destroyed hm, fun hn hmr ho hg => ?_, fun hr hm => ?_, fun hno => ?_,
    fun hr hc hm hl => ?_, fun hr hc hi hw => ?_, exec_destroy_resident, fun hs hf ho hn => ?_, fun hs => ?_, fun hl hf hb hs => exec_fusedSvnRaise_done hl hf hb hs,
    fun l => ⟨asciiText_length l, asciiText_padded l⟩⟩
  · intro c key n
    refine ⟨rfl, rfl, rfl, rfl, rfl, rfl, rfl, rfl, rfl, rfl, rfl, rfl, rfl, fun k hk => replicate_getD hk, rfl, fun k hk => ⟨replicate_getD hk, replicate_getD hk⟩,
      rfl, rfl, fun k hk => replicate_getD hk, rfl, fun _ => rfl, rfl, rfl, rfl, rfl, rfl, rfl, rfl, rfl, rfl, rfl, rfl, rfl, rfl, rfl, rfl, rfl, rfl, rfl, rfl, rfl, rfl⟩
  · exact reported hn hmr ho hg
  · exact exec_create_made (hready.mp hr) hm
  · refine exec_create_refused fun hboth => ?_
    exact hno.elim (fun hr => hr (hready.mpr hboth.1)) fun hm => hm hboth.2
  · exact exec_setgrant_done (hready.mp hr) hc hm hl
  · exact exec_destroy_done (hready.mp hr) hc hi hw
  · exact exec_attest_done (fnVisible_iff.mpr hs) hf ho hn
  · exact exec_logread_done (fnVisible_iff.mpr hs)
end Sys2Proof.Machine
end

section
/-! O42: BWAIT, BTRY, WAITPTR and WAITMEM (R124, R234 to R237). -/

namespace Sys2Proof.Machine

/-! ### A wait that ends with a scalar -/

section
variable {i : Instr} {s : State} {x : BitVec 5} {w : W32} {k : Wait} {m : Bool} {met : Prop}

/-- A word that writes a scalar where its condition holds, and waits otherwise. -/
theorem ends_of (hm : m = true ↔ met) (h : exec i s = .next (if m = true then scalarEffect s x w else markWait s k)) :
    (met → ScalarWrites i s x 1 w) ∧ (¬met → exec i s = .next (markWait s k)) := by
  refine ⟨fun hmet => scalarWrites_of ?_, fun hmet => ?_⟩
  · rw [h, if_pos (hm.mpr hmet)]
  · rw [h, if_neg (mt hm.mp hmet)]

end

/-! ### Barrier objects -/

section
variable {s : State} {x y z : BitVec 5} {pa : Nat} {o : List W32} {e : Stop}

/-- R234: what BWAIT and BTRY do at an object that waits for no parent. -/
theorem exec_bwait_reads (h : readObject s s.ctx.owner (pairOf s y.toNat).toNat = .ok (pa, o)) (hw : objWaiting o = false) (hq : Uncounted s 1 3) :
    exec (.bwait x y z) s = .next (if phasePast (objPhase o) (sreg s x) = true then scalarEffect s x (objPhase o) else markWait s .barrier) := by
  show execBwait x y z s = _
  unfold execBwait
  rw [readPhase_plain h hw hq]
  rfl

theorem exec_btry_reads (h : readObject s s.ctx.owner (pairOf s y.toNat).toNat = .ok (pa, o)) (hw : objWaiting o = false) (hq : Uncounted s 1 3) :
    exec (.btry x y z) s = .next (scalarEffect s x (objPhase o)) := by
  show execBtry x y z s = _
  unfold execBtry
  rw [readPhase_plain h hw hq]
  rfl

theorem exec_bwait_faults (h : readObject s s.ctx.owner (pairOf s y.toNat).toNat = .error e) :
    exec (.bwait x y z) s = .next (takeTrap s e) ∧ exec (.btry x y z) s = .next (takeTrap s e) := by
  show execBwait x y z s = _ ∧ execBtry x y z s = _
  unfold execBwait execBtry
  rw [readPhase_fault h]
  exact ⟨rfl, rfl⟩

end

/-! ### Pointers and words (R235, R236) -/

/-- R235: the pointer of a channel, or of a transform engine. -/
theorem pointerOf_eq (s : State) (z : BitVec 5) : pointerOf s z =
    if z.toNat < 4 then (s.team.chans.getD z.toNat Channel.reset).seq ++ (s.team.chans.getD z.toNat Channel.reset).cnt else s.team.xfptr.getD (z.toNat - 16) 0#32 := by
  simp only [pointerOf, Channel.pointer, BitVec.ult, decide_eq_true_eq]
  rfl

/-- R235: a pointer has its target's sequence number and a count not below the target's, or a later sequence number. -/
theorem pointerMet_iff {p t : W32} : let ahead := (p.toNat / 2 ^ 24 + 256 - t.toNat / 2 ^ 24) % 256
    pointerMet p t = true ↔ (ahead = 0 ∧ t.toNat % 2 ^ 24 ≤ p.toNat % 2 ^ 24) ∨ (1 ≤ ahead ∧ ahead ≤ 127) := by
  intro ahead
  have hp := p.isLt
  have ht := t.isLt
  have hseq (w : W32) : (w.extractLsb' 24 8).toNat = w.toNat / 2 ^ 24 := by
    have := w.isLt
    rw [BitVec.extractLsb'_toNat, Nat.shiftRight_eq_div_pow]
    omega
  have hcnt (w : W32) : (w.extractLsb' 0 24).toNat = w.toNat % 2 ^ 24 := by rw [BitVec.extractLsb'_toNat, Nat.shiftRight_zero]
  have hahead : (p.extractLsb' 24 8 - t.extractLsb' 24 8).toNat = ahead := by
    rw [BitVec.toNat_sub, hseq, hseq]
    omega
  have heq : p.extractLsb' 24 8 = t.extractLsb' 24 8 ↔ ahead = 0 := by
    rw [← BitVec.toNat_inj, hseq, hseq]
    omega
  simp only [pointerMet, Bool.or_eq_true, Bool.and_eq_true, beq_iff_eq, decide_eq_true_eq, BitVec.ule, heq, hcnt, hahead]

theorem exec_waitptr (s : State) (x z : BitVec 5) :
    exec (.waitptr x z) s = .next (if pointerMet (pointerOf s z) (sreg s x) = true then scalarEffect s x (pointerOf s z) else markWait s .pointer) := rfl

section
variable {s : State} {x y : BitVec 5} {g : BitVec 2} {b : List Byte} {e : Stop}

theorem exec_waitmem_reads (h : podRecord s (pairOf s y.toNat).toNat 4 4 = .ok b) :
    exec (.waitmem x y g) s = .next (if wordMet g (BitVec.ofNat 32 (bytesNat b)) (sreg s x) = true then
      scalarEffect s x (BitVec.ofNat 32 (bytesNat b)) else markWait s .memory) := by
  show settle s _ = _
  rw [settle_orTrap h]
  dsimp only
  split <;> rfl

theorem exec_waitmem_faults (h : podRecord s (pairOf s y.toNat).toNat 4 4 = .error e) : exec (.waitmem x y g) s = .next (takeTrap s e) := by
  show settle s (orTrap (podRecord s (pairOf s y.toNat).toNat 4 4) >>= _) = _
  rw [h]
  rfl

end

/-- Settles O42: each wait by what it reads and its condition. -/
theorem barrierWaits : Obligations.BarrierWaits := by
  unfold Obligations.BarrierWaits
  intro x y z g s pa o b va sx ends phase ptr ahead word met
  refine ⟨fun hq ho hw => ⟨ends_of phasePast_iff (exec_bwait_reads ho hw hq), scalarWrites_of (exec_btry_reads ho hw hq)⟩, ?_,
    fun hg hb => ends_of (wordMet_iff hg) (exec_waitmem_reads hb), fun e he => exec_waitmem_faults he, fun e he => exec_bwait_faults he⟩
  have hptr : pointerOf s z = ptr := pointerOf_eq s z
  have h := exec_waitptr s x z
  rw [hptr] at h
  exact ends_of pointerMet_iff h

end Sys2Proof.Machine
end

section
/-! O41: arrivals at barrier objects (R123, R124, R148, R233). -/

namespace Sys2Proof.Machine

/-! ### States that differ in bytes only, and the focused context -/

theorem OnlyBytes.ctxOf {s u : State} (h : OnlyBytes s u) (n : Nat) : u.ctxOf n = s.ctxOf n := by
  rw [h]
  rfl

theorem ctxOf_focus {s : State} (h : s.cur ≠ .none) : s.ctxOf s.ctx.owner = s.ctx := by
  unfold State.ctxOf State.focused
  cases hc : s.cur with
  | none => exact absurd hc h
  | _ => simp

theorem wordsBytes_length (l : List W32) : (wordsBytes l).length = 4 * l.length := by
  induction l with
  | nil => rfl
  | cons w r ih => rw [wordsBytes, List.length_append, natBytes_length, ih, List.length_cons]; omega

theorem bytesWords_length : ∀ (n : Nat) (b : List Byte), (bytesWords n b).length = n
  | 0, _ => rfl
  | n + 1, b => by rw [bytesWords, List.length_cons, bytesWords_length n]

/-! ### The words of an object -/

section
variable {s : State} {owner va pa : Nat} {o : List W32}

theorem readObject_wellFormed (h : readObject s owner va = .ok (pa, o)) : o.length = 16 ∧ objBad o = false := by
  unfold readObject at h
  dsimp only at h
  split at h
  · cases h
  · split at h
    · cases h
    · split at h
      · cases h
      · split at h
        · cases h
        · split at h
          · cases h
          · next hbad =>
            cases h
            exact ⟨bytesWords_length 16 _, Bool.eq_false_of_not_eq_true hbad⟩

theorem arrived_lt (h : objBad o = false) : (wordAt o 1).toNat < 2 ^ 24 := by
  have hw : (wordAt o 1).extractLsb' 24 8 = 0#8 := by
    simp only [objBad, Bool.or_eq_false_iff, bne_eq_false_iff_eq] at h
    exact h.1.1.1.1.1.1.2
  have h0 := congrArg BitVec.toNat hw
  rw [BitVec.extractLsb'_toNat, Nat.shiftRight_eq_div_pow, BitVec.toNat_ofNat] at h0
  have := (wordAt o 1).isLt
  omega

theorem token_zero (h : objBad o = false) (hw : objWaiting o = false) : wordAt o 6 = 0#32 := by
  simp only [objBad, Bool.or_eq_false_iff, Bool.and_eq_false_iff, hw, bne_eq_false_iff_eq] at h
  simpa using h.1.2

theorem objArrived_eq (o : List W32) : objArrived o = (o.getD 1 0#32).toNat % 2 ^ 24 := by
  rw [objArrived, BitVec.extractLsb'_toNat, Nat.shiftRight_zero, wordAt]

theorem objExpect_eq (o : List W32) : objExpect o = (o.getD 0 0#32).toNat % 2 ^ 24 := by
  rw [objExpect, BitVec.extractLsb'_toNat, Nat.shiftRight_zero, wordAt]

theorem objPend_eq (o : List W32) : objPend o = (o.getD 3 0#32).toNat % 2 ^ 24 := by
  rw [objPend, BitVec.extractLsb'_toNat, Nat.shiftRight_zero, wordAt]

/-- R124: ARRIVED counts in its field. -/
theorem arrived_succ (h : objBad o = false) : wordAt o 1 + 1#32 = BitVec.ofNat 32 (objArrived o + 1) := by
  have hlt := arrived_lt h
  refine BitVec.eq_of_toNat_eq ?_
  rw [objArrived_eq, BitVec.toNat_add, BitVec.toNat_ofNat, BitVec.toNat_ofNat, wordAt] at *
  omega

/-- R124: Flip of an object with its last arrival counted. -/
theorem flipObject_arrived (h : objBad o = false) (hw : objWaiting o = false) (hl : o.length = 16) (w : W32) :
    flipObject (o.set 1 w) = ((o.set 2 (o.getD 2 0#32 + 1#32)).set 1 (BitVec.ofNat 32 (objPend o))).set 3 0#32 := by
  have h6 : o[6]? = some 0#32 := by
    have := token_zero h hw
    rw [wordAt, List.getD_eq_getElem?_getD, List.getElem?_eq_getElem (by omega)] at this
    rw [List.getElem?_eq_getElem (by omega)]
    exact congrArg some this
  have hphase : objPhase (o.set 1 w) = o.getD 2 0#32 := by simp [objPhase, wordAt]
  have hpend : objPend (o.set 1 w) = objPend o := by simp [objPend, wordAt]
  rw [flipObject, hphase, hpend]
  refine List.ext_getElem? fun k => ?_
  simp only [List.getElem?_set, List.length_set, hl]
  by_cases hk : k = 6
  · subst hk
    simp [h6]
  · simp only [Ne.symm hk, if_false]
    by_cases h1 : 1 = k
    · subst h1
      simp
    · simp [h1]

end

/-! ### Resolve and Arrive (R124) -/

section
variable {s : State} {owner va pa fuel : Nat} {o : List W32} {e : Stop}

theorem resolveObject_fault (h : readObject s owner va = .error e) : resolveObject s owner fuel va = .error e := by
  cases fuel <;> simp only [resolveObject, h]

theorem resolveObject_plain (h : readObject s owner va = .ok (pa, o)) (hw : objWaiting o = false) :
    resolveObject s owner fuel va = .ok ⟨s, pa, o, false⟩ := by
  cases fuel <;> simp [resolveObject, h, hw]

/-- An object goes on waiting while its parent's phase is not past its token. -/
theorem resolveObject_behind {up : Nat} {r : List W32} (h : readObject s owner va = .ok (pa, o)) (hw : objWaiting o = true)
    (hr : readObject s owner (objParent o) = .ok (up, r)) (hrw : objWaiting r = false) (hp : phasePast (objPhase r) (wordAt o 6) = false) :
    resolveObject s owner (fuel + 1) va = .ok ⟨s, pa, o, false⟩ := by
  simp [resolveObject, h, hw, resolveObject_plain hr hrw, hp]

theorem writeObject_quiet (hq : ∀ n, selCounts (selOf (s.ctxOf owner) 1 n) 3 = false) : writeObject s owner pa o = putObject s owner pa o := by
  refine countSlice_quiet fun n => ?_
  rw [putObject, (storeAt_onlyBytes _ _ _ _).ctxOf]
  exact hq n

theorem arriveObject_fault (h : readObject s owner va = .error e) : arriveObject s owner (fuel + 1) va = ⟨s, .error e⟩ := by
  simp only [arriveObject, resolveObject_fault h]

theorem arriveObject_over (h : readObject s owner va = .ok (pa, o)) (hw : objWaiting o = false) (ha : objExpect o ≤ objArrived o) :
    arriveObject s owner (fuel + 1) va = ⟨s, .error (objStop va)⟩ := by
  simp [arriveObject, resolveObject_plain h hw, hw, ha]

variable (hq : ∀ n, selCounts (selOf (s.ctxOf owner) 1 n) 3 = false)
include hq

/-- Fewer arrivals than EXPECT. -/
theorem arriveObject_counts (h : readObject s owner va = .ok (pa, o)) (hw : objWaiting o = false) (ha : objArrived o + 1 < objExpect o) :
    arriveObject s owner (fuel + 1) va = ⟨putObject s owner pa (o.set 1 (wordAt o 1 + 1#32)), .ok (objPhase o)⟩ := by
  have hn : ¬objExpect o ≤ objArrived o := by omega
  have hne : objArrived o + 1 ≠ objExpect o := by omega
  simp [arriveObject, resolveObject_plain h hw, hw, hn, hne, writeObject_quiet hq]

/-- The last arrival at an object without a parent. -/
theorem arriveObject_flips (h : readObject s owner va = .ok (pa, o)) (hw : objWaiting o = false) (ha : objArrived o + 1 = objExpect o)
    (hp : objParent o = 0) :
    arriveObject s owner (fuel + 1) va = ⟨putObject s owner pa (flipObject (o.set 1 (wordAt o 1 + 1#32))), .ok (objPhase o)⟩ := by
  have hn : ¬objExpect o ≤ objArrived o := by omega
  simp [arriveObject, resolveObject_plain h hw, hw, hn, ha, hp, writeObject_quiet hq]

/-- An arrival at an object that waits for its parent. -/
theorem arriveObject_pends (h : resolveObject s owner 16 va = .ok ⟨s, pa, o, false⟩) (hw : objWaiting o = true) (ha : objPend o + 1 < objExpect o) :
    arriveObject s owner (fuel + 1) va = ⟨putObject s owner pa (o.set 3 (wordAt o 3 + 1#32)), .ok (objPhase o + 1#32)⟩ := by
  have hn : ¬objExpect o ≤ objPend o + 1 := by omega
  simp [arriveObject, h, hw, hn, writeObject_quiet hq]

/-- The last arrival at an object with a parent: it arrives there and waits for the token that it gets. -/
theorem arriveObject_climbs {u : State} {token : W32} (h : readObject s owner va = .ok (pa, o)) (hw : objWaiting o = false)
    (ha : objArrived o + 1 = objExpect o) (hp : objParent o ≠ 0)
    (hu : arriveObject (putObject s owner pa (o.set 1 (wordAt o 1 + 1#32))) owner fuel (objParent o) = ⟨u, .ok token⟩) :
    arriveObject s owner (fuel + 1) va =
      ⟨putObject u owner pa (((o.set 1 (wordAt o 1 + 1#32)).set 6 token).set 3 (o.getD 3 0#32 ||| 0x80000000#32)), .ok (objPhase o)⟩ := by
  have hn : ¬objExpect o ≤ objArrived o := by omega
  have h3 : (o.set 1 (wordAt o 1 + 1#32)).getD 3 0#32 = o.getD 3 0#32 := by simp
  simp only [arriveObject, resolveObject_plain h hw, hw, hn, ha, hp, bne_self_eq_false, beq_iff_eq, if_false, Bool.false_eq_true, writeObject_quiet hq, hu, h3]

end

/-! ### What BARRIVE leaves -/

section
variable {s u : State} {x y z : BitVec 5} {la : BitVec 4} {token : W32} {e : Stop}

/-- BARRIVE after an arrival that changes bytes only. -/
theorem exec_barrive_token (hr : arrive s s.ctx.owner (pairOf s y.toNat).toNat = ⟨u, .ok token⟩) (hu : OnlyBytes s u) :
    ∃ t, exec (.barrive x y z la) s = .next t ∧ Advances s t 1 ∧ ScalarResult s t x.toNat token la.toNat ∧
      t = { s with pod := t.pod, ids := t.ids, mem := t.mem, lineKey := t.lineKey, dirty := t.dirty, poison := t.poison } ∧ SameBytes u t := by
  obtain ⟨hadv, hres, hframe⟩ := scalarResult_advance (s := s) (t := u) (w := token) (la := la.toNat) x (by rw [hu]) (by rw [hu]) (by rw [hu])
  refine ⟨_, ?_, hadv, hres, ?_, ?_⟩
  · show execBarrive x y z la s = _
    unfold execBarrive
    rw [hr]
  · generalize (u.scalarResult x.toNat token la.toNat).advance 1 = t at hframe
    rw [hframe, hu]
  · rw [hframe]
    exact ⟨rfl, rfl, rfl, rfl⟩

theorem exec_barrive_fault (hr : arrive s s.ctx.owner (pairOf s y.toNat).toNat = ⟨s, .error e⟩) : exec (.barrive x y z la) s = .next (takeTrap s e) := by
  show execBarrive x y z la s = _
  unfold execBarrive
  rw [hr]

end

section
variable {s : State} {key pa : Nat} {o : List W32}

/-- An object that is stored changes its own 64 bytes. -/
theorem keyedByte_storeObject (hm : MemoryOk s) (hl : o.length = 16) {a : Nat} (ha : ¬(pa ≤ a ∧ a < pa + 64)) :
    keyedByte (storeAt s key pa (wordsBytes o)) key a = keyedByte s key a :=
  keyedByte_storeAt_outside hm (by rw [wordsBytes_length, hl]; omega)

theorem words_storeObject (hm : MemoryOk s) (hl : o.length = 16) : bytesWords 16 (keyedBytes (storeAt s key pa (wordsBytes o)) key pa 64) = o := by
  have h := keyedBytes_storeAt (key := key) (a := pa) (b := wordsBytes o) hm
  rw [wordsBytes_length, hl] at h
  rw [h, ← hl]
  exact bytesWords_wordsBytes o

end

/-- Bytes that agree one by one. -/
theorem keyedBytes_congr {s t : State} {key : Nat} : ∀ {n a : Nat}, (∀ i < n, keyedByte t key (a + i) = keyedByte s key (a + i)) →
    keyedBytes t key a n = keyedBytes s key a n
  | 0, _, _ => rfl
  | n + 1, a, h => by
    have hfirst : keyedByte t key a = keyedByte s key a := h 0 (by omega)
    have hrest : keyedBytes t key (a + 1) n = keyedBytes s key (a + 1) n := keyedBytes_congr fun i hi => by
      rw [Nat.add_assoc, Nat.add_comm 1 i]
      exact h (i + 1) (by omega)
    rw [keyedBytes, keyedBytes, hfirst, hrest]

/-- The bytes of an object beside another one that is stored. -/
theorem keyedBytes_storeObject_apart {s : State} {key pa x : Nat} {o : List W32} (hm : MemoryOk s) (hl : o.length = 16) (ha : x + 64 ≤ pa ∨ pa + 64 ≤ x) :
    keyedBytes (storeAt s key pa (wordsBytes o)) key x 64 = keyedBytes s key x 64 :=
  keyedBytes_congr fun i hi => keyedByte_storeObject hm hl (by omega)

/-- Settles O41: the cases of Arrive, each with what BARRIVE makes of it. -/
theorem barrierArrival : Obligations.BarrierArrival := by
  unfold Obligations.BarrierArrival
  intro x y z la s pa o hm hcur hq va field waits gives
  have hkey : (s.ctxOf s.ctx.owner).key = s.ctx.key := by rw [ctxOf_focus hcur]
  have hput (n : List W32) : putObject s s.ctx.owner pa n = storeAt s s.ctx.key pa (wordsBytes n) := by rw [putObject, hkey]
  have hgives {token : W32} {new : List W32} (hl : new.length = 16) (h : arrive s s.ctx.owner va = ⟨putObject s s.ctx.owner pa new, .ok token⟩) :
      gives token new := by
    rw [hput] at h
    obtain ⟨t, hexec, hadv, hres, hframe, hbytes⟩ := exec_barrive_token (x := x) (y := y) (z := z) (la := la) h (storeAt_onlyBytes _ _ _ _)
    refine ⟨t, hexec, hadv, hres, hframe, fun a ha => ?_, ?_⟩
    · rw [hbytes.keyedByte]
      exact keyedByte_storeObject hm hl ha
    · rw [hbytes.keyedBytes]
      exact words_storeObject hm hl
  refine ⟨fun h hw => ?_, fun up r h hw ha => ?_, fun up r h hw ha => ?_, fun e h => exec_barrive_fault (arriveObject_fault h)⟩
  · obtain ⟨hl, hbad⟩ := readObject_wellFormed h
    have hw : objWaiting o = false := Bool.eq_false_of_not_eq_true hw
    refine ⟨fun ha => hgives (by simp [hl]) ?_, fun ha h4 h5 => hgives (by simp [hl]) ?_, fun ha => exec_barrive_fault (arriveObject_over h hw ?_)⟩
    · rw [arrive, arriveObject_counts hq h hw (by rw [objArrived_eq, objExpect_eq]; exact ha), arrived_succ hbad, objArrived_eq]
      rfl
    · have hp : objParent o = 0 := by simp only [objParent, wordAt, h4, h5]; rfl
      rw [arrive, arriveObject_flips hq h hw (by rw [objArrived_eq, objExpect_eq]; exact ha) hp, flipObject_arrived hbad hw hl, objPend_eq]
      rfl
    · rw [objArrived_eq, objExpect_eq]
      exact ha
  · intro parent hr hrw hpast
    obtain ⟨hl, -⟩ := readObject_wellFormed h
    exact hgives (by simp [hl]) (arriveObject_pends hq (resolveObject_behind h hw hr hrw hpast) hw (by rw [objPend_eq, objExpect_eq]; exact ha))
  · intro parent hp hr hapart hrw hra
    obtain ⟨hl, -⟩ := readObject_wellFormed h
    obtain ⟨hrl, -⟩ := readObject_wellFormed hr
    have hw : objWaiting o = false := Bool.eq_false_of_not_eq_true hw
    let s1 := storeAt s s.ctx.key pa (wordsBytes (o.set 1 (o.getD 1 0#32 + 1#32)))
    let s2 := storeAt s1 s.ctx.key up (wordsBytes (r.set 1 (r.getD 1 0#32 + 1#32)))
    let s3 := storeAt s2 s.ctx.key pa (wordsBytes (((o.set 1 (o.getD 1 0#32 + 1#32)).set 6 (r.getD 2 0#32)).set 3 (o.getD 3 0#32 ||| 0x80000000#32)))
    have hb1 : OnlyBytes s s1 := storeAt_onlyBytes _ _ _ _
    have hb2 : OnlyBytes s s2 := onlyBytes_trans hb1 (storeAt_onlyBytes _ _ _ _)
    have hm1 : MemoryOk s1 := storeAt_wf hm
    have hm2 : MemoryOk s2 := storeAt_wf hm1
    have hup : arriveObject (putObject s s.ctx.owner pa (o.set 1 (wordAt o 1 + 1#32))) s.ctx.owner 15 parent = ⟨s2, .ok (r.getD 2 0#32)⟩ := by
      rw [hput]
      have hput1 : putObject s1 s.ctx.owner up (r.set 1 (wordAt r 1 + 1#32)) = s2 := by rw [putObject, hb1.ctxOf, hkey]; rfl
      have hcounts := arriveObject_counts (s := s1) (fuel := 14) (fun n => by rw [hb1.ctxOf]; exact hq n) hr hrw (by rw [objArrived_eq, objExpect_eq]; exact hra)
      rw [hput1] at hcounts
      exact hcounts
    have harrive : arrive s s.ctx.owner va = ⟨s3, .ok (o.getD 2 0#32)⟩ := by
      rw [arrive, arriveObject_climbs hq h hw (by rw [objArrived_eq, objExpect_eq]; exact ha) hp hup, putObject, hb2.ctxOf, hkey]
      rfl
    obtain ⟨t, hexec, hadv, hres, hframe, hbytes⟩ :=
      exec_barrive_token (x := x) (y := y) (z := z) (la := la) harrive (onlyBytes_trans hb2 (storeAt_onlyBytes _ _ _ _))
    refine ⟨t, hexec, hadv, hres, hframe, fun a ha => ?_, ?_, ?_⟩
    · have ha := not_or.mp ha
      rw [hbytes.keyedByte, keyedByte_storeObject hm2 (by simp [hl]) ha.1, keyedByte_storeObject hm1 (by simp [hrl]) ha.2, keyedByte_storeObject hm (by simp [hl]) ha.1]
    · rw [hbytes.keyedBytes, keyedBytes_storeObject_apart hm2 (by simp [hl]) hapart]
      exact words_storeObject hm1 (by simp [hrl])
    · rw [hbytes.keyedBytes]
      exact words_storeObject hm2 (by simp [hl])

end Sys2Proof.Machine
end

section
/-! Ticketed updates (R127, R219 to R226): declared regions, the answers of a home slice, and the words that an application leaves. -/

namespace Sys2Proof.Machine

/-! ### The region of an address (R223) -/

theorem findSome_range_iff {α : Type} {f : Nat → Option α} {n : Nat} {b : α} :
    (List.range n).findSome? f = some b ↔ ∃ k < n, f k = some b ∧ ∀ j < k, f j = none := by
  induction n with
  | zero => simp
  | succ n ih =>
    rw [List.range_succ, List.findSome?_append, Option.or_eq_some_iff, ih, List.findSome?_eq_none_iff]
    simp only [List.mem_range, List.findSome?_singleton]
    constructor
    · rintro (⟨k, hk, hb, hlow⟩ | ⟨hlow, hb⟩)
      · exact ⟨k, by omega, hb, hlow⟩
      · exact ⟨n, by omega, hb, hlow⟩
    · rintro ⟨k, hk, hb, hlow⟩
      obtain hk | rfl := Nat.lt_or_eq_of_le (Nat.le_of_lt_succ hk)
      · exact .inl ⟨k, hk, hb, hlow⟩
      · exact .inr ⟨hlow, hb⟩

/-- Region k, where it is declared and holds an address. -/
def Context.regionAt (c : Context) (va k : Nat) : Option (Nat × Region) :=
  ((c.regions.getD k none).filter fun r => decide (r.base ≤ va) && decide (va < r.base + 64 * r.ngran)).map fun r => (k, r)

theorem regionOf_eq (c : Context) (va : Nat) : c.regionOf va = (List.range 16).findSome? (c.regionAt va) := by
  unfold Context.regionOf
  rw [List.head?_filterMap]
  congr 1
  funext k
  unfold Context.regionAt
  cases c.regions.getD k none with
  | none => rfl
  | some r =>
    rw [Option.filter_some]
    dsimp only
    split <;> rfl

/-- Region j of a context is r and holds an address. -/
def Context.RegionHolds (c : Context) (va j : Nat) (r : Region) : Prop :=
  c.regions.getD j none = some r ∧ r.base ≤ va ∧ va < r.base + 64 * r.ngran

section
variable {c : Context} {va j k : Nat} {r : Region}

theorem regionAt_some : c.regionAt va j = some (k, r) ↔ j = k ∧ c.RegionHolds va j r := by
  unfold Context.regionAt Context.RegionHolds
  cases c.regions.getD j none with
  | none => simp
  | some q => simp [Option.filter_some]; grind

theorem regionAt_none : c.regionAt va j = none ↔ ∀ q, ¬c.RegionHolds va j q := by
  refine ⟨fun h q hq => ?_, fun h => ?_⟩
  · have := regionAt_some.mpr ⟨rfl, hq⟩
    rw [h] at this
    cases this
  · refine Option.eq_none_iff_forall_ne_some.mpr fun x hx => ?_
    exact h x.2 (regionAt_some.mp hx).2

/-- R223: of the declared regions, the lowest one that holds the address. -/
theorem regionOf_some : c.regionOf va = some (k, r) ↔ k < 16 ∧ c.RegionHolds va k r ∧ ∀ j < k, ∀ q, ¬c.RegionHolds va j q := by
  rw [regionOf_eq, findSome_range_iff]
  simp only [regionAt_some, regionAt_none]
  constructor
  · rintro ⟨_, hlt, ⟨rfl, hholds⟩, hlow⟩
    exact ⟨hlt, hholds, hlow⟩
  · rintro ⟨hlt, hholds, hlow⟩
    exact ⟨k, hlt, ⟨rfl, hholds⟩, hlow⟩

theorem regionOf_none : c.regionOf va = none ↔ ∀ j < 16, ∀ q, ¬c.RegionHolds va j q := by
  rw [regionOf_eq, List.findSome?_eq_none_iff]
  simp only [List.mem_range, regionAt_none]

end

/-! ### The answers of a home slice (R224) -/

/-- An update of the granule with the ticket is pending. -/
def Context.pends (c : Context) (u : TkEntry) : Bool := c.entries.any fun e => e.region == u.region && e.granule == u.granule && e.ticket == u.ticket

theorem pends_iff {c : Context} {u : TkEntry} : c.pends u = true ↔ ∃ e ∈ c.entries, e.region = u.region ∧ e.granule = u.granule ∧ e.ticket = u.ticket := by
  simp [Context.pends, and_assoc]

/-- R224: Accept, at a declared region. -/
theorem acceptUpdate_declared {s : State} {owner : Nat} {u : TkEntry} {r : Region} (hr : (s.ctxOf owner).regions.getD u.region none = some r) :
    acceptUpdate s owner u =
      (let k := r.counter s (s.ctxOf owner).key u.granule
       if 32768 ≤ (u.ticket - k).toNat then .rejected (ticketStop .ticketRange u.va u.region k u.ticket)
       else if (s.ctxOf owner).pends u = true then .rejected (ticketStop .ticketDuplicate u.va u.region k u.ticket)
       else if u.ticket - k = 0#16 then .accepted (drainGranule (applyUpdate s owner u) owner u.region u.granule ((s.ctxOf owner).entries.length + 1))
       else if shareUsed s (s.ctxOf owner).part (homeSlice u.pa) < shareSize s then
         .accepted (s.mapCtx owner fun c => { c with entries := c.entries ++ [{ u with since := s.clock }] })
       else .stalled) := by
  unfold acceptUpdate
  dsimp only
  rw [hr]
  simp only [beq_iff_eq]
  rfl

/-- R224: where no update of the granule is pending, Drain applies none. -/
theorem drainGranule_none {s : State} {owner k g n : Nat} (h : ∀ e ∈ (s.ctxOf owner).entries, ¬(e.region = k ∧ e.granule = g)) :
    drainGranule s owner k g n = s := by
  cases n with
  | zero => rfl
  | succ n =>
    unfold drainGranule
    dsimp only
    split
    · rfl
    · next r hr =>
      have hnone : (s.ctxOf owner).entries.find? (fun e => e.region == k && e.granule == g && e.ticket == r.counter s (s.ctxOf owner).key g) = none := by
        rw [List.find?_eq_none]
        intro e he hhere
        simp only [Bool.and_eq_true, beq_iff_eq] at hhere
        exact h e he hhere.1
      rw [hnone]

/-! ### The words of a granule (R219) -/

/-- The first n words of a granule, those of a mask stored. -/
def storeMasked (s : State) (key pa : Nat) (m : BitVec 16) (words : List W32) (n : Nat) : State :=
  (List.range n).foldl (fun s i => if m.getLsbD i then storeAt s key (pa + 4 * i) (natBytes 4 (wordAt words i).toNat) else s) s

section
variable {s : State} {key pa n j x : Nat} {m : BitVec 16} {words : List W32}

theorem storeMasked_succ : storeMasked s key pa m words (n + 1) =
    if m.getLsbD n = true then storeAt (storeMasked s key pa m words n) key (pa + 4 * n) (natBytes 4 (wordAt words n).toNat) else storeMasked s key pa m words n := by
  rw [storeMasked, List.range_succ, List.foldl_append]
  rfl

theorem storeMasked_onlyBytes : OnlyBytes s (storeMasked s key pa m words n) := by
  induction n with
  | zero => exact onlyBytes_refl s
  | succ n ih =>
    rw [storeMasked_succ]
    split
    · exact onlyBytes_trans ih (storeAt_onlyBytes _ _ _ _)
    · exact ih

theorem storeMasked_wf (h : MemoryOk s) : MemoryOk (storeMasked s key pa m words n) := by
  induction n with
  | zero => exact h
  | succ n ih =>
    rw [storeMasked_succ]
    split
    · exact storeAt_wf ih
    · exact ih

theorem keyedByte_storeMasked_outside (h : MemoryOk s) (hx : ∀ j < n, m.getLsbD j = true → ¬(pa + 4 * j ≤ x ∧ x < pa + 4 * j + 4)) :
    keyedByte (storeMasked s key pa m words n) key x = keyedByte s key x := by
  induction n with
  | zero => rfl
  | succ n ih =>
    have hrest := ih fun j hj => hx j (by omega)
    rw [storeMasked_succ]
    split
    · next hbit =>
      have hout := hx n (by omega) hbit
      rw [keyedByte_storeAt_outside (storeMasked_wf h) (by rw [natBytes_length]; omega), hrest]
    · exact hrest

theorem keyedBytes_storeMasked (h : MemoryOk s) (hj : j < n) (hm : m.getLsbD j = true) :
    keyedBytes (storeMasked s key pa m words n) key (pa + 4 * j) 4 = natBytes 4 (wordAt words j).toNat := by
  induction n with
  | zero => omega
  | succ n ih =>
    rw [storeMasked_succ]
    obtain hj | rfl := Nat.lt_or_eq_of_le (Nat.le_of_lt_succ hj)
    · rw [← ih hj]
      split
      · exact keyedBytes_congr fun i hi => keyedByte_storeAt_outside (storeMasked_wf h) (by omega)
      · rfl
    · rw [if_pos hm]
      have hback := keyedBytes_storeAt (key := key) (a := pa + 4 * j) (b := natBytes 4 (wordAt words j).toNat) (storeMasked_wf (key := key) (pa := pa) (m := m) (words := words) (n := j) h)
      rwa [natBytes_length] at hback

end

/-! ### One application (R127, R224) -/

/-- The counter of a granule after one application that began in a state. -/
def Region.bump (r : Region) (s : State) (key g : Nat) : Region := { r with counters := setGranule r.counters g (r.counter s key g + 1#16) }

/-- The words of a granule before an application. -/
def granuleWords (s : State) (key pa : Nat) : List W32 := bytesWords 16 (keyedBytes s key pa 64)

theorem bytesWords_getD : ∀ {n j : Nat} {b : List Byte}, j < n → (bytesWords n b).getD j 0#32 = BitVec.ofNat 32 (bytesNat ((b.drop (4 * j)).take 4))
  | n + 1, 0, b, _ => rfl
  | n + 1, j + 1, b, h => by
    rw [bytesWords, List.getD_cons_succ, bytesWords_getD (by omega), List.drop_drop]
    congr 4
    omega

theorem keyedBytes_drop {s : State} {key : Nat} : ∀ {k n a : Nat}, (keyedBytes s key a (k + n)).drop k = keyedBytes s key (a + k) n
  | 0, n, a => by rw [Nat.zero_add]; rfl
  | k + 1, n, a => by rw [Nat.add_right_comm, keyedBytes, List.drop_succ_cons, keyedBytes_drop, Nat.add_right_comm, Nat.add_assoc]

theorem keyedBytes_take {s : State} {key : Nat} : ∀ {k n a : Nat}, (keyedBytes s key a (k + n)).take k = keyedBytes s key a k
  | 0, n, a => rfl
  | k + 1, n, a => by rw [Nat.add_right_comm, keyedBytes, List.take_succ_cons, keyedBytes_take, keyedBytes]

theorem granuleWords_word {s : State} {key pa j : Nat} (h : j < 16) :
    wordAt (granuleWords s key pa) j = BitVec.ofNat 32 (bytesNat (keyedBytes s key (pa + 4 * j) 4)) := by
  rw [wordAt, granuleWords, bytesWords_getD h, show 64 = 4 * j + (4 + (60 - 4 * j)) by omega, keyedBytes_drop, keyedBytes_take]

theorem applyWords_word {u : TkEntry} {old : List W32} {j : Nat} (hj : j < 16) (hm : u.mask.getLsbD j = true) :
    wordAt (applyWords u old) j = addFWord u.bf16 (wordAt old j) (wordAt u.data j) := by
  rw [wordAt, applyWords, List.getD_eq_getElem?_getD, List.getElem?_map, List.getElem?_range hj, Option.map_some, Option.getD_some, if_pos hm]

/-- Apply, where no slice counter of the owner counts tickets. -/
theorem applyUpdate_quiet {s : State} {owner : Nat} {u : TkEntry} (hq : ∀ n, selCounts (selOf (s.ctxOf owner) 1 n) 4 = false) :
    applyUpdate s owner u =
      (storeMasked s (s.ctxOf owner).key u.pa u.mask (applyWords u (granuleWords s (s.ctxOf owner).key u.pa)) 16).mapCtx owner
        fun c => c.mapRegion u.region fun r => r.bump s (s.ctxOf owner).key u.granule := by
  refine countSlice_quiet fun n => ?_
  have hsel := ctxOf_mapCtx_unchanged (g := fun c => selOf c 1 n) (n := owner) (m := owner)
    (s := storeMasked s (s.ctxOf owner).key u.pa u.mask (applyWords u (granuleWords s (s.ctxOf owner).key u.pa)) 16)
    (f := fun c => c.mapRegion u.region fun r => r.bump s (s.ctxOf owner).key u.granule) (fun _ => rfl) (fun _ => rfl)
  refine (congrArg (fun w => selCounts w 4) hsel).trans ?_
  rw [storeMasked_onlyBytes.ctxOf]
  exact hq n

end Sys2Proof.Machine
end

section
/-! O38: TKFADD (R127, R219, R223, R224). -/

namespace Sys2Proof.Machine

/-! ### The lanes and the mask of an update (R223) -/

section
variable {s : State} {l : Nat}

theorem activeLanes_none (h : activeMask s = 0#4) : activeLanes s = [] := by
  simp [activeLanes, h]

/-- The lowest active lane heads the active lanes. -/
theorem activeLanes_first (hl : (activeMask s).getLsbD l = true) (hlow : ∀ j < l, (activeMask s).getLsbD j = false) :
    ∃ rest, activeLanes s = l :: rest := by
  have hlt : l < 4 := BitVec.lt_of_getLsbD hl
  have hsplit : [0, 1, 2, 3] = List.range l ++ l :: (List.range (3 - l)).map (l + 1 + ·) := by
    obtain rfl | rfl | rfl | rfl : l = 0 ∨ l = 1 ∨ l = 2 ∨ l = 3 := by omega
    all_goals rfl
  refine ⟨((List.range (3 - l)).map (l + 1 + ·)).filter fun j => (activeMask s).getLsbD j, ?_⟩
  unfold activeLanes
  rw [hsplit, List.filter_append, List.filter_cons_of_pos hl, List.filter_eq_nil_iff.mpr, List.nil_append]
  exact fun j hj => by simp [hlow j (List.mem_range.mp hj)]

end

/-- R223: lane l's four words are those of its bit. -/
theorem updateMask_eq : ∀ m : Mask, updateMask m = BitVec.ofFnLE fun j : Fin 16 => m.getLsbD (j.val / 4) := by decide

theorem updateMask_bit {m : Mask} {j : Nat} (h : j < 16) : (updateMask m).getLsbD j = m.getLsbD (j / 4) := by
  rw [updateMask_eq, BitVec.getLsbD_ofFnLE, dif_pos h]

/-! ### The update that TKFADD makes (R221, R223) -/

section
variable {s : State} {va lane k pa : Nat} {ticket mask : BitVec 16} {bf : Bool} {data : List W32} {e : Stop} {r : Region}

theorem podUpdate_untranslated (h : translate s s.ctx va accAtomic 0 = .error e) : podUpdate s va lane ticket mask bf data = .error (inLane lane e) := by
  simp [podUpdate, h]

theorem podUpdate_undeclared (h : translate s s.ctx va accAtomic 0 = .ok pa) (hr : s.ctx.regionOf va = none) :
    podUpdate s va lane ticket mask bf data = .error (ticketStop .ticketRange (BitVec.ofNat 64 va) 0 0#16 ticket) := by
  simp [podUpdate, h, hr]

theorem podUpdate_guarded (h : translate s s.ctx va accAtomic 0 = .ok pa) (hr : s.ctx.regionOf va = some (k, r)) (hg : s.ctx.guards pa 64 = true) :
    podUpdate s va lane ticket mask bf data =
      .error { code := .permission, addr := BitVec.ofNat 64 va, info0 := BitVec.ofNat 32 lane, info1 := BitVec.ofNat 32 accAtomic } := by
  simp [podUpdate, h, hr, hg]

theorem podUpdate_made (h : translate s s.ctx va accAtomic 0 = .ok pa) (hr : s.ctx.regionOf va = some (k, r)) (hg : s.ctx.guards pa 64 = false) :
    podUpdate s va lane ticket mask bf data =
      .ok ⟨k, (va - r.base) / 64, BitVec.ofNat 64 va, pa, ticket, mask, bf, data, s.team.id, s.pod.index, s.team.core, s.team.handle, s.clock⟩ := by
  simp [podUpdate, h, hr, hg]

end

/-! ### TKFADD as its update (R223) -/

/-- The update of TKFADD at the lowest active lane l, or the fault that it takes. -/
def tkfaddUpdate (d a : BitVec 7) (w : BitVec 1) (s : State) (l : Nat) : Except Stop TkEntry :=
  podUpdate s (laneAddr s a l) l ((srcN s (d.toNat + 4) l).extractLsb' 0 16) (updateMask (activeMask s)) (w == 1#1)
    ((List.range 16).map fun i => srcN s (d.toNat + i % 4) (i / 4))

section
variable {d a : BitVec 7} {w : BitVec 1} {s u : State} {l : Nat} {rest : List Nat} {e : Stop} {x : TkEntry}

theorem exec_tkfadd_idle (h : activeMask s = 0#4) : exec (.tkfadd d a w) s = .next (s.advance 1) := by
  show execTkfadd d a w s = _
  simp [execTkfadd, activeLanes_none h]

theorem exec_tkfadd_misaligned (h : activeLanes s = l :: rest) (ha : laneAddr s a l % 64 ≠ 0) :
    exec (.tkfadd d a w) s =
      .next (takeTrap s { code := .misaligned, addr := BitVec.ofNat 64 (laneAddr s a l), info0 := BitVec.ofNat 32 l, info1 := BitVec.ofNat 32 accAtomic }) := by
  show execTkfadd d a w s = _
  unfold execTkfadd
  rw [h]
  exact settle_require_fails (beq_false_of_ne ha)

theorem exec_tkfadd_aligned (h : activeLanes s = l :: rest) (ha : laneAddr s a l % 64 = 0) :
    exec (.tkfadd d a w) s = settle s (orTrap (tkfaddUpdate d a w s l) >>= fun x => offer s x >>= fun t => pure (t.advance 1)) := by
  show execTkfadd d a w s = _
  unfold execTkfadd
  rw [h]
  exact settle_require (beq_iff_eq.mpr ha)

theorem exec_tkfadd_faults (h : activeLanes s = l :: rest) (ha : laneAddr s a l % 64 = 0) (hu : tkfaddUpdate d a w s l = .error e) :
    exec (.tkfadd d a w) s = .next (takeTrap s e) := by
  rw [exec_tkfadd_aligned h ha, hu]
  rfl

theorem exec_tkfadd_rejected (h : activeLanes s = l :: rest) (ha : laneAddr s a l % 64 = 0) (hu : tkfaddUpdate d a w s l = .ok x)
    (hx : acceptUpdate s s.ctx.owner x = .rejected e) : exec (.tkfadd d a w) s = .next (takeTrap s e) := by
  rw [exec_tkfadd_aligned h ha, settle_orTrap hu, offer, hx]
  rfl

theorem exec_tkfadd_stalled (h : activeLanes s = l :: rest) (ha : laneAddr s a l % 64 = 0) (hu : tkfaddUpdate d a w s l = .ok x)
    (hx : acceptUpdate s s.ctx.owner x = .stalled) : exec (.tkfadd d a w) s = .next (markWait s .ticket) := by
  rw [exec_tkfadd_aligned h ha, settle_orTrap hu, offer, hx]
  rfl

/-- An accepted update, where no counter of the owner on the core counts tickets. -/
theorem exec_tkfadd_accepted (h : activeLanes s = l :: rest) (ha : laneAddr s a l % 64 = 0) (hu : tkfaddUpdate d a w s l = .ok x)
    (hx : acceptUpdate s s.ctx.owner x = .accepted u) (hq : ∀ n, selCounts (selOf (u.ctxOf s.ctx.owner) 0 n) 10 = false) :
    exec (.tkfadd d a w) s = .next (u.advance 1) := by
  have hcount : countCore u s.ctx.owner s.team.core 10 1 = u := by simp [countCore, countUnit, countOne_quiet (hq _)]
  rw [exec_tkfadd_aligned h ha, settle_orTrap hu, offer, hx]
  show Host.Outcome.next ((countCore u s.ctx.owner s.team.core 10 1).advance 1) = _
  rw [hcount]

end

/-! ### The focused context changed (R129) -/

section
variable {s u : State} {f : Context → Context}

theorem mapCtx_focus_othersKept (hf : ∀ c, (f c).owner = c.owner) : OthersKept s (s.mapCtx s.ctx.owner f) := by
  refine ⟨?_, replaceIf_filter_other hf⟩
  simp only [State.mapCtx, replaceIf, List.map_map]
  refine List.map_congr_left fun c _ => ?_
  dsimp only [Function.comp]
  split
  · exact hf c
  · rfl

end

/-- What a TKFADD that completes leaves of the pod and of the other contexts. -/
theorem tkfadd_kept {s u : State} {f : Context → Context} (hu : OnlyBytes s u) (hf : ∀ c, (f c).owner = c.owner) :
    let t := (u.mapCtx s.ctx.owner f).advance 1
    Advances s t 1 ∧ t.pod = { s.pod with pc := t.pod.pc, slot := t.pod.slot, phase := s.pod.phase.goOn, skip := 0 } ∧ OthersKept s t := by
  rw [hu]
  exact ⟨advance_advances ⟨rfl, rfl, rfl⟩, advance_frame, mapCtx_focus_othersKept hf⟩

/-- A TKFADD whose update is accepted, where no counter of the owner on the core counts tickets. -/
theorem exec_tkfadd_changes {d a : BitVec 7} {w : BitVec 1} {s v : State} {l : Nat} {rest : List Nat} {x : TkEntry} {f : Context → Context}
    (h : activeLanes s = l :: rest) (ha : laneAddr s a l % 64 = 0) (hu : tkfaddUpdate d a w s l = .ok x)
    (hx : acceptUpdate s s.ctx.owner x = .accepted (v.mapCtx s.ctx.owner f)) (hv : OnlyBytes s v) (hf : ∀ c, (f c).owner = c.owner)
    (hsel : ∀ c n, selOf (f c) 0 n = selOf c 0 n) (hq : Uncounted s 0 10) : exec (.tkfadd d a w) s = .next ((v.mapCtx s.ctx.owner f).advance 1) := by
  refine exec_tkfadd_accepted h ha hu hx fun n => ?_
  rw [ctxOf_mapCtx_unchanged (g := fun c => selOf c 0 n) hf fun c => hsel c n, hv.ctxOf]
  exact hq n

/-! ### The answers of a home slice, by the distance of the ticket (R224) -/

/-- How far an update's ticket lies past its granule's counter, modulo 2^16. -/
def TkEntry.past (u : TkEntry) (s : State) (owner : Nat) (r : Region) : Nat := (u.ticket - r.counter s (s.ctxOf owner).key u.granule).toNat

section
variable {s : State} {owner : Nat} {u : TkEntry} {r : Region} (hr : (s.ctxOf owner).regions.getD u.region none = some r)
include hr

theorem acceptUpdate_far (h : 32768 ≤ u.past s owner r) :
    acceptUpdate s owner u = .rejected (ticketStop .ticketRange u.va u.region (r.counter s (s.ctxOf owner).key u.granule) u.ticket) :=
  (acceptUpdate_declared hr).trans (if_pos h)

theorem acceptUpdate_duplicate (h : u.past s owner r < 32768) (hp : (s.ctxOf owner).pends u = true) :
    acceptUpdate s owner u = .rejected (ticketStop .ticketDuplicate u.va u.region (r.counter s (s.ctxOf owner).key u.granule) u.ticket) :=
  (acceptUpdate_declared hr).trans ((if_neg (Nat.not_le_of_gt h)).trans (if_pos hp))

/-- A ticket 1 to 32,767 past the counter, none of which is pending. -/
theorem acceptUpdate_ahead (h : u.past s owner r < 32768) (h0 : 0 < u.past s owner r) (hp : ¬(s.ctxOf owner).pends u = true) :
    acceptUpdate s owner u = if shareUsed s (s.ctxOf owner).part (homeSlice u.pa) < shareSize s then
        .accepted (s.mapCtx owner fun c => { c with entries := c.entries ++ [{ u with since := s.clock }] })
      else .stalled := by
  have hahead : ¬u.ticket - r.counter s (s.ctxOf owner).key u.granule = 0#16 := fun hz => by
    rw [TkEntry.past, hz] at h0
    exact absurd h0 (by decide)
  exact (acceptUpdate_declared hr).trans ((if_neg (Nat.not_le_of_gt h)).trans ((if_neg hp).trans (if_neg hahead)))

end

/-! ### An update that is applied at once (R224) -/

section
variable {s : State} {owner : Nat} {u : TkEntry} {r : Region}

/-- A granule's next update, where none of it is pending and no slice counter of the owner counts tickets. -/
theorem acceptUpdate_applies (hr : (s.ctxOf owner).regions.getD u.region none = some r) (ht : u.ticket = r.counter s (s.ctxOf owner).key u.granule)
    (hnone : ∀ e ∈ (s.ctxOf owner).entries, ¬(e.region = u.region ∧ e.granule = u.granule)) (hq : ∀ n, selCounts (selOf (s.ctxOf owner) 1 n) 4 = false) :
    acceptUpdate s owner u =
      .accepted ((storeMasked s (s.ctxOf owner).key u.pa u.mask (applyWords u (granuleWords s (s.ctxOf owner).key u.pa)) 16).mapCtx owner
        fun c => c.mapRegion u.region fun r => r.bump s (s.ctxOf owner).key u.granule) := by
  have hpend : (s.ctxOf owner).pends u = false :=
    Bool.eq_false_iff.mpr fun h => by
      obtain ⟨e, he, hk, hg, -⟩ := pends_iff.mp h
      exact hnone e he ⟨hk, hg⟩
  rw [acceptUpdate_declared hr, applyUpdate_quiet hq, drainGranule_none]
  · simp [← ht, hpend]
  · refine fun e he => hnone e ?_
    have hentries := ctxOf_mapCtx_unchanged (g := Context.entries) (n := owner) (m := owner)
      (s := storeMasked s (s.ctxOf owner).key u.pa u.mask (applyWords u (granuleWords s (s.ctxOf owner).key u.pa)) 16)
      (f := fun c => c.mapRegion u.region fun r => r.bump s (s.ctxOf owner).key u.granule) (fun _ => rfl) (fun _ => rfl)
    rwa [hentries, storeMasked_onlyBytes.ctxOf] at he

end

section
variable {c : Context} {j k : Nat} {r : Region} {f : Region → Region}

theorem mapRegion_same (h : c.regions.getD k none = some r) : (c.mapRegion k f).regions.getD k none = some (f r) := by
  have hk : k < 16 := by
    by_contra hk
    simp [Vector.getD, hk] at h
  simp only [Context.mapRegion, h]
  simp [Vector.getD, hk]

theorem mapRegion_other (h : j ≠ k) : (c.mapRegion k f).regions.getD j none = c.regions.getD j none := by
  by_cases hj : j < 16
  · simp [Context.mapRegion, Vector.getD, hj, h.symm]
  · simp [Vector.getD, hj]

end

theorem keyedBytes_mapCtx_advance {s : State} {n m key a k : Nat} {f : Context → Context} :
    keyedBytes ((s.mapCtx n f).advance m) key a k = keyedBytes s key a k := keyedBytes_congr fun _ _ => rfl

/-- What an applied update leaves of the state but the bytes of its granule: the counter of its region moves on. -/
theorem tkfadd_applied {s v : State} {k : Nat} {r : Region} {f : Region → Region} (hv : OnlyBytes s v) (hr : s.ctx.regions.getD k none = some r) :
    let t := (v.mapCtx s.ctx.owner fun c => c.mapRegion k f).advance 1
    t.ctx = { s.ctx with regions := t.ctx.regions } ∧
    t = { s with pod := t.pod, owners := t.owners, ctx := t.ctx, mem := t.mem, lineKey := t.lineKey, dirty := t.dirty, poison := t.poison } ∧
    t.ctx.regions.getD k none = some (f r) ∧ ∀ j, j ≠ k → t.ctx.regions.getD j none = s.ctx.regions.getD j none := by
  have hctx : ((v.mapCtx s.ctx.owner fun c => c.mapRegion k f).advance 1).ctx = s.ctx.mapRegion k f := by
    rw [hv]
    exact if_pos (beq_self_eq_true _)
  refine ⟨?_, ?_, ?_, fun j hj => ?_⟩
  · rw [hctx]
    rfl
  · rw [hv]
    rfl
  · rw [hctx]
    exact mapRegion_same hr
  · rw [hctx]
    exact mapRegion_other hj

/-- Settles O38: the lowest active lane gives the update, and the home slice answers it by the distance of its ticket from the counter. -/
theorem ticketedAdd : Obligations.TicketedAdd := by
  unfold Obligations.TicketedAdd
  refine ⟨fun d a w s l k pa r hm hcur => ?_, fun c va k r => ⟨regionOf_some, regionOf_none⟩⟩
  intro m i g ticket gran u c past pending free fault kept
  refine ⟨fun h => onlyAdvances_of (exec_tkfadd_idle h), fun hl hlow => ?_⟩
  obtain ⟨rest, hfirst⟩ := activeLanes_first hl hlow
  refine ⟨fun ha => exec_tkfadd_misaligned hfirst ha, fun e ha he => ?_, fun ha hpa => ⟨fun hr => ?_, fun hr => ⟨fun hg => ?_, fun hg hcore hslice => ?_⟩⟩⟩
  · refine (exec_tkfadd_faults hfirst ha (podUpdate_untranslated he)).trans ?_
    simp [inLane]
  · exact exec_tkfadd_faults hfirst ha (podUpdate_undeclared hpa hr)
  · exact exec_tkfadd_faults hfirst ha (podUpdate_guarded hpa hr hg)
  · have hu : tkfaddUpdate d a w s l = .ok u := by
      refine (podUpdate_made hpa hr hg).trans ?_
      rw [updateMask_eq]
    have hctx := ctxOf_focus hcur
    have hdecl : (s.ctxOf s.ctx.owner).regions.getD u.region none = some r := by
      rw [hctx]
      exact (regionOf_some.mp hr).2.1.1
    have hpast : u.past s s.ctx.owner r = past := by rw [TkEntry.past, hctx]
    have hpend : (s.ctxOf s.ctx.owner).pends u = true ↔ pending ticket := by rw [pends_iff, hctx]
    refine ⟨fun hfar => ?_, fun hnear hp => ?_, fun hpos hnear hp hfree => ?_, fun hpos hnear hp hfull => ?_, fun hnow hnone => ?_⟩
    · refine (exec_tkfadd_rejected hfirst ha hu (acceptUpdate_far hdecl (hpast ▸ hfar))).trans ?_
      rw [hctx]
      rfl
    · refine (exec_tkfadd_rejected hfirst ha hu (acceptUpdate_duplicate hdecl (hpast ▸ hnear) (hpend.mpr hp))).trans ?_
      rw [hctx]
      rfl
    · have hx := (acceptUpdate_ahead hdecl (hpast ▸ hnear) (hpast ▸ hpos) (mt hpend.mp hp)).trans (if_pos (by rw [hctx]; exact hfree))
      refine ⟨_, exec_tkfadd_changes hfirst ha hu hx (onlyBytes_refl s) (fun _ => rfl) (fun _ _ => rfl) hcore, tkfadd_kept (onlyBytes_refl s) fun _ => rfl, ?_⟩
      simp [State.advance, State.mapPod, State.mapCtx, u]
    · have hx := (acceptUpdate_ahead hdecl (hpast ▸ hnear) (hpast ▸ hpos) (mt hpend.mp hp)).trans (if_neg (by rw [hctx]; exact hfull))
      exact exec_tkfadd_stalled hfirst ha hu hx
    · have hx := acceptUpdate_applies hdecl (by rw [hctx]; exact sub_eq_zero.mp (BitVec.eq_of_toNat_eq hnow))
        (fun e he hhere => hnone e.ticket ⟨e, hctx ▸ he, hhere.1, hhere.2, rfl⟩) hslice
      rw [hctx] at hx
      refine ⟨_, exec_tkfadd_changes hfirst ha hu hx storeMasked_onlyBytes (fun _ => rfl) (fun _ _ => rfl) hcore, tkfadd_kept storeMasked_onlyBytes fun _ => rfl, ?_⟩
      obtain ⟨hframe, hstate, hbump, hothers⟩ := tkfadd_applied (f := fun r => r.bump s s.ctx.key gran) (storeMasked_onlyBytes (s := s) (key := s.ctx.key) (pa := pa)
        (m := u.mask) (words := applyWords u (granuleWords s s.ctx.key pa)) (n := 16)) (regionOf_some.mp hr).2.1.1
      have hmask (j : Nat) (hj : j < 16) : u.mask.getLsbD j = m.getLsbD (j / 4) := by rw [← updateMask_bit hj, updateMask_eq]
      refine ⟨hframe, hstate, hbump, hothers, fun x hx => ?_, fun j hj hm' => ?_⟩
      · exact keyedByte_storeMasked_outside hm fun j hj hbit hin => hx ⟨j, hj, hmask j hj ▸ hbit, hin⟩
      · rw [← hmask j hj] at hm'
        rw [keyedBytes_mapCtx_advance, keyedBytes_storeMasked hm hj hm']
        have hdata : wordAt u.data j = srcN s (d.toNat + j % 4) (j / 4) := by simp [wordAt, u, hj]
        rw [bytesNat_natBytes_lt (BitVec.isLt _), applyWords_word hj hm', granuleWords_word hj, hdata]

end Sys2Proof.Machine
end

section
/-! O39: an applied update carries a slice counter of its owner, whose notice (R371) is written outside the granule. -/

namespace Sys2Proof.Machine

/-- Owner 0 with region 2 declared, the counter of granule 3 at 7, and slice counter 0 of its home slice at its last value, counting tickets
with IE set; notices go to virtual address 0x100. -/
def carryingContext (c : Context) : Context :=
  { c with
    regions := c.regions.setIfInBounds 2 (some ⟨0x1000, 4, 0x2000, [3], [(3, 7#16)], []⟩)
    slsel := c.slsel.setIfInBounds 0 0x90000004#32
    slcnt := [⟨homeSlice 0x190C0, 0, 0xFFFFFFFFFFFF#48, false, 0⟩]
    nr := { base := 0x100#64, size := 4#32, head := 0#32, tail := 0#32 } }

/-- The owner resident, its virtual page 0 at physical page 3. -/
def carryingState : State := (placedBase State.reset []).mapCtx 0 carryingContext

/-- The next update of the granule, of no word. -/
def carryingUpdate : TkEntry := ⟨2, 3, 0x10C0#64, 0x190C0, 7#16, 0#16, false, [], 0, 0, 0, 0#32, 0⟩

/-- The region of the update is declared, and a byte outside the granule is not what it was. -/
def noticedOutside (t : State) : Bool :=
  ((t.ctxOf 0).regions.getD 2 none).isSome && keyedByte t (carryingState.ctxOf 0).key 0x18103 != keyedByte carryingState (carryingState.ctxOf 0).key 0x18103

/-- The update is accepted, and the state after it passes a test. -/
def Accept.meets (test : State → Bool) : Accept → Bool
  | .accepted t => test t
  | _ => false

theorem Accept.meets_iff {test : State → Bool} {a : Accept} : a.meets test = true ↔ ∃ t, a = .accepted t ∧ test t = true := by
  cases a <;> simp [Accept.meets]

theorem carryingState_memoryOk : MemoryOk carryingState := by unfold MemoryOk; decide +kernel

theorem carryingState_region : (carryingState.ctxOf 0).regions.getD 2 none = some ⟨0x1000, 4, 0x2000, [3], [(3, 7#16)], []⟩ := by decide +kernel

theorem carryingState_entries : (carryingState.ctxOf 0).entries = [] := by decide +kernel

theorem carryingUpdate_notice : (acceptUpdate carryingState 0 carryingUpdate).meets noticedOutside = true := by decide +kernel

/-- Refutes O39: no premise says that no slice counter counts tickets; the notice of one that carries is written to 0x18100, and its byte at
0x18103, outside the granule at 0x190C0, changes. -/
theorem not_ticketOrder : ¬Obligations.TicketOrder := by
  intro h
  obtain ⟨t, haccept, hnotice⟩ := Accept.meets_iff.mp carryingUpdate_notice
  obtain ⟨hdeclared, hbyte⟩ := Bool.and_eq_true_iff.mp hnotice
  obtain ⟨q, hq⟩ := Option.isSome_iff_exists.mp hdeclared
  obtain ⟨-, -, -, -, -, hsame⟩ := h carryingState t 0 carryingUpdate _ q carryingState_memoryOk haccept carryingState_region rfl hq
    (by rw [carryingState_entries]; exact List.nodup_nil) (by rw [carryingState_entries]; exact fun e he => absurd he List.not_mem_nil)
  exact bne_iff_ne.mp hbyte (hsame 0x18103 (.inl (by decide)))

end Sys2Proof.Machine
end

section
/-! O58, memory: bytes written through the tables land at their places, whole runs in one page (R96, R106, R221). -/

namespace Sys2Proof.Machine

/-! ### Places of one page are consecutive (R96) -/

section
variable {s : State} {c : Context} {va kind space j p q : Nat}

theorem leafPa_shift {bits base : Nat} {perms : BitVec 3} (hb : (va + j) % 2 ^ bits = va % 2 ^ bits + j) (hp : leafPa c va kind bits base perms = .ok p)
    (hq : leafPa c (va + j) kind bits base perms = .ok q) : q = p + j := by
  have place {va r : Nat} (h : leafPa c va kind bits base perms = .ok r) : r = base + va % 2 ^ bits := by
    simp only [leafPa] at h
    split at h
    · cases h
    · split at h
      · cases h
      · split at h
        · cases h
        · split at h <;> cases h
          rfl
  rw [place hp, place hq, hb]
  omega

/-- What a step on from a page leaves of the address: its higher parts stay, its lower parts go on. -/
theorem samePage_div {n : Nat} (h : (va + j) / 2 ^ 15 = va / 2 ^ 15) (hn : 15 ≤ n) : (va + j) / 2 ^ n = va / 2 ^ n := by
  have hpow : 2 ^ n = 2 ^ 15 * 2 ^ (n - 15) := by rw [← Nat.pow_add]; congr 1; omega
  rw [hpow, ← Nat.div_div_eq_div_mul, ← Nat.div_div_eq_div_mul, h]

theorem samePage_mod {n : Nat} (h : (va + j) / 2 ^ 15 = va / 2 ^ 15) (hn : 15 ≤ n) : (va + j) % 2 ^ n = va % 2 ^ n + j := by
  have h1 := Nat.div_add_mod (va + j) (2 ^ n)
  have h2 := Nat.div_add_mod va (2 ^ n)
  rw [samePage_div h hn] at h1
  omega

theorem walk_shift (h : (va + j) / 2 ^ 15 = va / 2 ^ 15) : ∀ {fuel t : Nat}, walk s c va kind space fuel t = .ok p → walk s c (va + j) kind space fuel t = .ok q → q = p + j
  | 0, _, hp, _ => nomatch hp
  | fuel + 1, t, hp, hq => by
    rw [walk] at hp hq
    dsimp only at hp hq
    rw [samePage_div h (by omega)] at hq
    split at hp
    · cases hp
    next h1 =>
    rw [if_neg h1] at hq
    split at hp
    · cases hp
    next h2 =>
    rw [if_neg h2] at hq
    split at hp
    · cases hp
    next h3 =>
    rw [if_neg h3] at hq
    split at hp
    · cases hp
    next h4 =>
    rw [if_neg h4] at hq
    split at hp
    next h5 =>
      rw [if_pos h5] at hq
      split at hp
      · cases hp
      next h6 =>
      rw [if_neg h6] at hq
      exact walk_shift h hp hq
    next h5 =>
      rw [if_neg h5] at hq
      split at hp
      · cases hp
      next h6 =>
      rw [if_neg h6] at hq
      refine leafPa_shift (samePage_mod h ?_) hp hq
      split <;> omega

/-- Two addresses of one page of 32 KiB lie as far apart as their places. -/
theorem translate_shift (h : (va + j) / 2 ^ 15 = va / 2 ^ 15) (hp : translate s c va kind space = .ok p) (hq : translate s c (va + j) kind space = .ok q) :
    q = p + j := by
  have hfind : tlbFind c (va + j) = tlbFind c va := by simp only [tlbFind, h]
  unfold translate at hp hq
  rw [hfind, h] at hq
  split at hp
  · cases hp
  next h1 =>
  split at hq
  · cases hq
  next h2 =>
  cases hf : tlbFind c va with
  | none =>
    rw [hf] at hp hq
    exact walk_shift h hp hq
  | some e =>
    rw [hf] at hp hq
    dsimp only at hp hq
    split at hp
    next hc =>
      rw [if_pos hc] at hq
      exact leafPa_shift (samePage_mod h (Nat.le_refl 15)) hp hq
    next hc =>
      rw [if_neg hc] at hq
      exact walk_shift h hp hq

theorem translateRange_ok {ps : List Nat} (h : ∀ x ∈ ps, ∃ r, translate s c x kind space = .ok r) : translateRange s c kind space ps = .ok () := by
  induction ps with
  | nil => rfl
  | cons x ps ih =>
    obtain ⟨r, hr⟩ := h x List.mem_cons_self
    rw [translateRange, hr]
    exact ih fun y hy => h y (List.mem_cons_of_mem x hy)

end

theorem mem_pagesOf {va n x : Nat} (h : x ∈ pagesOf va n) : ∃ i < n, x = va + i := by
  unfold pagesOf at h
  split at h
  · cases h
  next hn =>
  have hn : n ≠ 0 := fun h0 => hn (beq_iff_eq.mpr h0)
  obtain ⟨i, hi, rfl⟩ := List.mem_map.mp h
  have hi := List.mem_range.mp hi
  refine ⟨max va ((va / 2 ^ 15 + i) * 2 ^ 15) - va, ?_, by omega⟩
  have hle : (va / 2 ^ 15 + i) * 2 ^ 15 ≤ (va + n - 1) / 2 ^ 15 * 2 ^ 15 := Nat.mul_le_mul_right _ (by omega)
  omega

/-! ### Poison that a store clears (R106) -/

theorem touchLines_poison {key n : Nat} : ∀ {s : State} {line : Nat}, (touchLines s key line n).poison = s.poison := by
  induction n with
  | zero => exact rfl
  | succ n ih =>
    intro s line
    rw [touchLines, ih]
    have hkey : (rekey s key line).poison = s.poison := by
      unfold rekey
      split
      · split
        · split <;> rfl
        · rfl
      · rfl
    split <;> exact hkey

theorem mem_clearCovered {a z n x : Nat} : ∀ {g : Nat} {p : List Nat}, x ∈ clearCovered p a z g n → x ∈ p := by
  induction n with
  | zero => exact id
  | succ n ih =>
    intro g p h
    have h := ih h
    split at h
    · exact (List.mem_filter.mp h).1
    · exact h

theorem mem_storeAt_poison {s : State} {key a x : Nat} {b : List Byte} (h : x ∈ (storeAt s key a b).poison) : x ∈ s.poison := by
  have h := mem_clearCovered h
  rwa [touchLines_poison] at h

/-! ### Bytes landed so far -/

/-- The bytes of a list whose numbers satisfy p stand at their places, and no other byte differs. -/
structure Landed (s u : State) (key : Nat) (place : Nat → Nat) (l : List Byte) (p : Nat → Prop) : Prop where
  only : OnlyBytes s u
  wf : MemoryOk u
  poison : ∀ g ∈ u.poison, g ∈ s.poison
  put : ∀ i < l.length, p i → keyedByte u key (place i) = l.getD i 0#8
  others : ∀ y, (∀ i < l.length, p i → y ≠ place i) → keyedByte u key y = keyedByte s key y

section
variable {s u : State} {key a k m : Nat} {d : Context} {place : Nat → Nat} {l : List Byte} {p q : Nat → Prop}

theorem landed_none (h : MemoryOk s) : Landed s s key place l fun _ => False :=
  ⟨onlyBytes_refl s, h, fun _ hg => hg, fun _ _ h => h.elim, fun _ _ => rfl⟩

theorem Landed.congr (h : Landed s u key place l p) (hpq : ∀ i < l.length, q i ↔ p i) : Landed s u key place l q :=
  ⟨h.only, h.wf, h.poison, fun i hi hq => h.put i hi ((hpq i hi).mp hq), fun y hy => h.others y fun i hi hp => hy i hi ((hpq i hi).mpr hp)⟩

/-- A run of bytes whose places are consecutive, stored at the first of them. -/
theorem Landed.store (h : Landed s u key place l p) (hinj : ∀ i < l.length, ∀ j < l.length, place i = place j → i = j)
    (hrun : ∀ j < k, place (m + j) = place m + j) (hk : m + k ≤ l.length) :
    Landed s (storeAt u key (place m) ((l.drop m).take k)) key place l fun i => p i ∨ m ≤ i ∧ i < m + k := by
  have hlen : ((l.drop m).take k).length = k := by rw [List.length_take, List.length_drop]; omega
  have hread (x : Nat) := keyedByte_storeAt (key := key) (a := place m) (x := x) (b := (l.drop m).take k) h.wf
  rw [hlen] at hread
  have hin (i : Nat) (hi : i < l.length) : place m ≤ place i ∧ place i < place m + k ↔ m ≤ i ∧ i < m + k := by
    constructor
    · intro hx
      have hj := hrun (place i - place m) (by omega)
      have := hinj i hi (m + (place i - place m)) (by omega) (by omega)
      omega
    · intro hx
      have hj := hrun (i - m) (by omega)
      rw [Nat.add_sub_cancel' hx.1] at hj
      omega
  refine ⟨onlyBytes_trans h.only (storeAt_onlyBytes _ _ _ _), storeAt_wf h.wf, fun g hg => h.poison g (mem_storeAt_poison hg), fun i hi hp => ?_, fun y hy => ?_⟩
  · rw [hread]
    split
    · next hx =>
      obtain ⟨hm, hlt⟩ := (hin i hi).mp hx
      have hj := hrun (i - m) (by omega)
      rw [Nat.add_sub_cancel' hm] at hj
      have hat : place i - place m = i - m := by omega
      rw [hat, List.getD_eq_getElem?_getD, List.getElem?_take_of_lt (by omega), List.getElem?_drop, Nat.add_sub_cancel' hm, List.getD_eq_getElem?_getD]
    · next hx =>
      exact h.put i hi (hp.resolve_right fun hx' => hx ((hin i hi).mpr hx'))
  · rw [hread, if_neg, h.others y fun i hi hp => hy i hi (.inl hp)]
    intro hx
    have hj := hrun (y - place m) (by omega)
    exact hy (m + (y - place m)) (by omega) (.inr (by omega)) (by omega)

/-- What was landed keeps the translations of places that stay theirs. -/
theorem Landed.translates (h : Landed s u d.key place l p) (hp : Placed s d a l.length place) {i : Nat} (hi : i < l.length) :
    translate u d (a + i) accWrite 0 = .ok (place i) :=
  hp.2 u h.only h.poison (fun y hy => h.others y fun i hi _ => hy i hi) i hi

theorem Landed.run (h : Landed s u d.key place l p) (hp : Placed s d a l.length place) {j : Nat} (hj : m + j < l.length) (hpage : (a + m) % 2 ^ 15 + j < 2 ^ 15) :
    place (m + j) = place m + j := by
  refine translate_shift (s := u) (c := d) (va := a + m) (kind := accWrite) (space := 0) ?_ (h.translates hp (by omega)) ?_
  · omega
  · rw [Nat.add_assoc]
    exact h.translates hp hj

/-- R96: the rest of a list written chunk by chunk, each chunk in one page. -/
theorem vwrite_landed (hp : Placed s d a l.length place) : ∀ {fuel m : Nat} {u : State}, Landed s u d.key place l (fun i => i < m) → m ≤ l.length →
    (m < l.length → (a + m) % 2 ^ 15 + (l.length - m) ≤ fuel * 2 ^ 15) →
    ∃ t, vwrite u d 0 fuel (a + m) (l.drop m) = .ok t ∧ Landed s t d.key place l fun _ => True
  | 0, m, u, h, hm, hf => by
    have hend : m = l.length := by by_contra hne; have := hf (by omega); omega
    exact ⟨u, rfl, h.congr fun i hi => iff_of_true trivial (hend ▸ hi)⟩
  | fuel + 1, m, u, h, hm, hf => by
    obtain hlt | hend := Nat.lt_or_eq_of_le hm
    · have hsize := hf hlt
      have hempty : (l.drop m).isEmpty = false := by simp [List.isEmpty_eq_false_iff, List.drop_eq_nil_iff]; omega
      rw [vwrite, hempty, if_neg Bool.false_ne_true]
      dsimp only
      rw [List.length_drop, List.drop_drop]
      generalize hk : min (l.length - m) (2 ^ 15 - (a + m) % 2 ^ 15) = k
      have hstore := h.store hp.1 (k := k) (m := m) (fun j hj => h.run hp (by omega) (by omega)) (by omega)
      rw [h.translates hp hlt]
      dsimp only
      rw [Nat.add_assoc]
      exact vwrite_landed hp (hstore.congr fun i _ => by omega) (by omega) (fun hmore => by omega)
    · rw [hend, List.drop_length]
      exact ⟨u, rfl, h.congr fun i hi => iff_of_true trivial (hend ▸ hi)⟩

/-- R96: a list whose bytes have places of their own lands whole. -/
theorem vput_landed (hw : MemoryOk s) (hp : Placed s d a l.length place) :
    ∃ t, vput s d 0 a l = .ok t ∧ Landed s t d.key place l fun _ => True := by
  have hnone := landed_none (s := s) (key := d.key) (place := place) (l := l) hw
  have hrange : translateRange s d accWrite 0 (pagesOf a l.length) = .ok () := translateRange_ok fun x hx => by
    obtain ⟨i, hi, rfl⟩ := mem_pagesOf hx
    exact ⟨_, hnone.translates hp hi⟩
  unfold vput
  rw [hrange]
  exact vwrite_landed hp (m := 0) (hnone.congr fun i _ => iff_of_false (Nat.not_lt_zero i) id) (Nat.zero_le _) fun _ => by omega

/-- R96: a byte written at its place. -/
theorem vwrite_byte {va pa : Nat} {b : Byte} {fuel : Nat} (h : translate u d va accWrite 0 = .ok pa) :
    vwrite u d 0 (fuel + 1) va [b] = .ok (storeAt u d.key pa [b]) := by
  have hone : min 1 (2 ^ 15 - va % 2 ^ 15) = 1 := by omega
  rw [vwrite, List.isEmpty_cons, if_neg Bool.false_ne_true, List.length_singleton]
  dsimp only
  rw [hone, h]
  cases fuel <;> rfl

/-- R221: one byte put while others of its list have landed. -/
theorem Landed.vputByte (h : Landed s u d.key place l p) (hp : Placed s d a l.length place) (hm : m < l.length) :
    ∃ t, vput u d 0 (a + m) [l.getD m 0#8] = .ok t ∧ Landed s t d.key place l fun i => p i ∨ i = m := by
  have htr := h.translates hp hm
  have hbyte : [l.getD m 0#8] = (l.drop m).take 1 := by
    rw [List.drop_eq_getElem_cons hm, List.take_succ_cons, List.take_zero, List.getD_eq_getElem _ _ hm]
  refine ⟨storeAt u d.key (place m) [l.getD m 0#8], ?_, ?_⟩
  · have hrange : translateRange u d accWrite 0 (pagesOf (a + m) 1) = .ok () := translateRange_ok fun x hx => by
      obtain ⟨i, hi, rfl⟩ := mem_pagesOf hx
      obtain rfl : i = 0 := by omega
      exact ⟨_, htr⟩
    unfold vput
    rw [List.length_singleton, hrange]
    exact vwrite_byte htr
  · rw [hbyte]
    exact (h.store hp.1 (k := 1) (fun j hj => by rw [Nat.lt_one_iff.mp hj]; rfl) (by omega)).congr fun i _ => or_congr_right (by omega)

/-! ### Bytes put but for those of a declared counter array (R221) -/

/-- The numbers of the bytes whose places lie in a declared counter array. -/
def guardedBytes (d : Context) (place : Nat → Nat) (n : Nat) : List Nat := (List.range n).filter fun i => d.guards (place i) 1

/-- One byte put, unless its number is in a list. -/
def putUnless (d : Context) (a : Nat) (hit : List Nat) (u : State) (b : Byte × Nat) : State :=
  if hit.contains b.2 then u else (vput u d 0 (a + b.2) [b.1]).toOption.getD u

theorem mem_guardedBytes {n i : Nat} : i ∈ guardedBytes d place n ↔ i < n ∧ d.guards (place i) 1 = true := by
  simp [guardedBytes]

theorem putDiscarding_eq (hw : MemoryOk s) (hp : Placed s d a l.length place) (x : Site) :
    putDiscarding s x d a l = match guardedBytes d place l.length with
      | [] => (vput s d 0 a l).toOption.getD s
      | k :: r => postRecord (l.zipIdx.foldl (putUnless d a (k :: r)) s) { x with resum := false } (accStop .permission (a + k) accWrite) := by
  have hnone := landed_none (s := s) (key := d.key) (place := place) (l := l) hw
  have hfilter {f : Nat → Bool} (hf : ∀ i < l.length, f i = d.guards (place i) 1) : (List.range l.length).filter f = guardedBytes d place l.length :=
    List.filter_congr fun i hi => hf i (List.mem_range.mp hi)
  unfold putDiscarding
  dsimp only
  rw [hfilter]
  · cases guardedBytes d place l.length with
    | nil => dsimp only; cases vput s d 0 a l <;> rfl
    | cons k r =>
      dsimp only
      congr 1
      congr 1
      funext u b
      unfold putUnless
      split
      · rfl
      · cases vput u d 0 (a + b.2) [b.1] <;> rfl
  · intro i hi
    rw [hnone.translates hp hi]

theorem foldl_putUnless_landed {hit : List Nat} (hp : Placed s d a l.length place) (hhit : ∀ i < l.length, i ∈ hit ↔ d.guards (place i) 1 = true) :
    ∀ {rest : List Byte} {m : Nat} {u : State}, l.drop m = rest → Landed s u d.key place l (fun i => i < m ∧ d.guards (place i) 1 = false) →
      Landed s ((rest.zipIdx m).foldl (putUnless d a hit) u) d.key place l fun i => d.guards (place i) 1 = false
  | [], m, u, hr, h => h.congr fun i hi => by
      have hm := List.drop_eq_nil_iff.mp hr
      exact (and_iff_right (by omega)).symm
  | b :: rest, m, u, hr, h => by
    have hm : m < l.length := by
      by_contra hm
      rw [List.drop_eq_nil_of_le (by omega)] at hr
      cases hr
    rw [List.drop_eq_getElem_cons hm] at hr
    obtain ⟨rfl, hrest⟩ := List.cons.inj hr
    rw [List.zipIdx_cons, List.foldl_cons]
    refine foldl_putUnless_landed hp hhit hrest ?_
    by_cases hg : d.guards (place m) 1 = true
    · have hskip : putUnless d a hit u (l[m], m) = u := if_pos (List.contains_iff_mem.mpr ((hhit m hm).mpr hg))
      rw [hskip]
      refine h.congr fun i _ => and_congr_left fun hopen => ⟨fun hle => ?_, fun hlt => by omega⟩
      obtain hlt | rfl := Nat.lt_or_eq_of_le (Nat.le_of_lt_succ hle)
      · exact hlt
      · rw [hg] at hopen
        cases hopen
    · obtain ⟨t, ht, hland⟩ := h.vputByte hp hm
      have hput : putUnless d a hit u (l[m], m) = t := by
        rw [putUnless, if_neg fun hc => hg ((hhit m hm).mp (List.contains_iff_mem.mp hc))]
        rw [List.getD_eq_getElem _ _ hm] at ht
        rw [ht]
        rfl
      rw [hput]
      refine hland.congr fun i _ => ⟨fun hi => ?_, ?_⟩
      · obtain hlt | rfl := Nat.lt_or_eq_of_le (Nat.le_of_lt_succ hi.1)
        · exact .inl ⟨hlt, hi.2⟩
        · exact .inr rfl
      · rintro (hi | rfl)
        · exact ⟨by omega, hi.2⟩
        · exact ⟨by omega, Bool.eq_false_iff.mpr hg⟩

/-- R221: bytes of which none lies in a declared counter array land whole. -/
theorem putDiscarding_lands (hw : MemoryOk s) (hp : Placed s d a l.length place) (x : Site) (hopen : ∀ i < l.length, d.guards (place i) 1 = false) :
    Landed s (putDiscarding s x d a l) d.key place l fun _ => True := by
  have hnone : guardedBytes d place l.length = [] := List.eq_nil_iff_forall_not_mem.mpr fun i hi => by
    obtain ⟨hlt, hg⟩ := mem_guardedBytes.mp hi
    rw [hopen i hlt] at hg
    cases hg
  obtain ⟨t, ht, hland⟩ := vput_landed hw hp
  rw [putDiscarding_eq hw hp, hnone, ht]
  exact hland

/-- R221: of bytes that reach into a declared counter array the others land, and the first guarded one is reported. -/
theorem putDiscarding_guarded (hw : MemoryOk s) (hp : Placed s d a l.length place) (x : Site) (hk : k < l.length) (hg : d.guards (place k) 1 = true)
    (hfirst : ∀ j < k, d.guards (place j) 1 = false) :
    ∃ u, Landed s u d.key place l (fun i => d.guards (place i) 1 = false) ∧
      putDiscarding s x d a l = postRecord u { x with resum := false } (accStop .permission (a + k) accWrite) := by
  have hlow : (List.range k).filter (fun i => d.guards (place i) 1) = [] := List.filter_eq_nil_iff.mpr fun i hi => by
    rw [hfirst i (List.mem_range.mp hi)]
    exact Bool.false_ne_true
  obtain ⟨n, hn⟩ := Nat.exists_eq_add_of_lt hk
  have hsplit : List.range l.length = List.range k ++ k :: (List.range n).map ((k + ·) ∘ Nat.succ) := by
    rw [hn, Nat.add_assoc, List.range_add, List.range_succ_eq_map, List.map_cons, List.map_map, Nat.add_zero]
  have hhit : guardedBytes d place l.length = k :: ((List.range n).map ((k + ·) ∘ Nat.succ)).filter fun i => d.guards (place i) 1 := by
    rw [guardedBytes, hsplit, List.filter_append, hlow, List.nil_append]
    exact List.filter_cons_of_pos hg
  refine ⟨l.zipIdx.foldl (putUnless d a (guardedBytes d place l.length)) s, ?_, ?_⟩
  · refine foldl_putUnless_landed hp (fun i hi => ?_) (m := 0) rfl ((landed_none hw).congr fun i _ => iff_of_false (fun h => Nat.not_lt_zero i h.1) id)
    rw [mem_guardedBytes]
    exact and_iff_right hi
  · rw [putDiscarding_eq hw hp, hhit]

end

end Sys2Proof.Machine
end

section
/-! O58, the register page: what a write at an offset does (R369, R373, R378, R379, R382, R384). -/

namespace Sys2Proof.Machine

/-! ### Which part of the page an offset names (R378) -/

section
variable {s t : State} {fn off k : Nat} {v : W64}

theorem exec_registerWrite_open (ho : pageOpen s fn = true) : exec (.registerWrite fn off v) s = .next (writeRegister s fn off v) := by
  show execRegisterWrite fn off v s = _
  rw [execRegisterWrite, ho]
  rfl

/-- The offsets at which a write does more than it leaves in a register. -/
def actingOffset (off : Nat) : Bool := off == 0x10C || off == 0x18C || off == 0x1AC || off == 0x210 || off == 0x5018

theorem writeRegister_of_quiet (h : actingOffset off = false) : writeRegister s fn off v =
    (if (decide (0x1000 ≤ off) && decide (off < 0x2000)) = true then
      if ((s.stream ((off - 0x1000) / 64)).owner.toNat == fn) = true then s.mapStream ((off - 0x1000) / 64) fun st => st.write (off % 64) v else s
    else if (decide (0x8000 ≤ off) && decide (off < 0x10000)) = true then writeCounter s fn (off - 0x8000) v
    else if 0x6000 ≤ off then if (fn == 0) = true then writePfReg s off v else s
    else s.mapCtx fn fun c => c.writeReg off v) := by
  simp only [actingOffset, Bool.or_eq_false_iff] at h
  obtain ⟨⟨⟨⟨h1, h2⟩, h3⟩, h4⟩, h5⟩ := h
  unfold writeRegister
  simp only [h1, h2, h3, h4, h5, Bool.false_eq_true, if_false]

theorem actingOffset_high (h : 0x6000 ≤ off) : actingOffset off = false := by
  simp [actingOffset]
  omega

theorem exec_registerWrite_own (ho : pageOpen s fn = true) (h : actingOffset off = false) (hoff : off < 0x1000 ∨ 0x2000 ≤ off ∧ off < 0x6000) :
    exec (.registerWrite fn off v) s = .next (s.mapCtx fn fun c => c.writeReg off v) := by
  rw [exec_registerWrite_open ho, writeRegister_of_quiet h, if_neg (by simp; omega), if_neg (by simp; omega), if_neg (by omega)]

theorem exec_registerWrite_stream (ho : pageOpen s fn = true) (hk : k < 64) (hs : (s.stream k).owner.toNat = fn) {n : Nat} (hn : n < 64) :
    exec (.registerWrite fn (0x1000 + 64 * k + n) v) s = .next (s.mapStream k fun st => st.write n v) := by
  have hacting : actingOffset (0x1000 + 64 * k + n) = false := by simp [actingOffset]; omega
  have hat : (0x1000 + 64 * k + n - 0x1000) / 64 = k := by omega
  have hmod : (0x1000 + 64 * k + n) % 64 = n := by omega
  rw [exec_registerWrite_open ho, writeRegister_of_quiet hacting, if_pos (by simp; omega), hat, hmod, if_pos (by simp [hs])]

theorem exec_registerWrite_counter {n : Nat} (ho : pageOpen s fn = true) (hoff : off = 0x8000 + n) (hn : n < 0x8000) (hw : writeCounter s fn n v = t) :
    exec (.registerWrite fn off v) s = .next t := by
  rw [← hw, exec_registerWrite_open ho, writeRegister_of_quiet (actingOffset_high (by omega)), if_neg (by simp; omega), if_pos (by simp; omega), hoff, Nat.add_sub_cancel_left]

theorem exec_registerWrite_pf (ho : pageOpen s 0 = true) (hoff : 0x6000 ≤ off) (hlt : off < 0x8000) (hw : writePfReg s off v = t) :
    exec (.registerWrite 0 off v) s = .next t := by
  rw [← hw, exec_registerWrite_open ho, writeRegister_of_quiet (actingOffset_high hoff), if_neg (by simp; omega), if_neg (by simp; omega), if_pos hoff]
  rfl

theorem exec_registerWrite_notPf (ho : pageOpen s fn = true) (hf : fn ≠ 0) (hoff : 0x6000 ≤ off) (hlt : off < 0x8000) :
    exec (.registerWrite fn off v) s = .next s := by
  rw [exec_registerWrite_open ho, writeRegister_of_quiet (actingOffset_high hoff), if_neg (by simp; omega), if_neg (by simp; omega), if_pos hoff,
    if_neg (by simpa using hf)]

/-- One stream changed, and no other. -/
theorem mapStream_changes {f : Stream → Stream} {y : Stream} (hk : k < 64) (hy : f (s.stream k) = y) :
    s.mapStream k f = { s with streams := (s.mapStream k f).streams } ∧ (s.mapStream k f).streams.getD k Stream.reset = y ∧
    ∀ j, j ≠ k → (s.mapStream k f).streams.getD j Stream.reset = s.streams.getD j Stream.reset :=
  ⟨rfl, (stream_mapStream_same hk).trans hy, fun _ hj => stream_mapStream_other hj⟩

end

/-! ### The PF's own registers (R294, R365, R378, R382) -/

section
variable {s : State} {k : Nat} {v : W64}

theorem writePfReg_parts (hv : v.toNat = 1 ∨ v.toNat = 2 ∨ v.toNat = 4) (hr : ∀ x ∈ s.resident.toList, x = none) (hl : s.hernus.log.length < 1024) :
    writePfReg s 0x6000 v = { measureEvent s 1 0 [v.toNat] with parts := v.toNat } := by
  have hnone : noneResident s = true := List.all_eq_true.mpr fun x hx => by rw [hr x hx]; rfl
  have hroom : s.hernus.room = true := decide_eq_true hl
  have hcount : (v.toNat == 1 || v.toNat == 2 || v.toNat == 4) = true := by simpa [or_assoc] using hv
  show writeParts s v = _
  unfold writeParts
  dsimp only
  rw [hcount, hnone, hroom]
  rfl

theorem writePfReg_strmown (hk : k < 64) (hv : v.toNat ≤ 32 ∨ v = 0x3F#64) :
    writePfReg s (0x6004 + 4 * k) v = s.mapStream k fun st => { st with owner := v.extractLsb' 0 6 } := by
  have hat : (0x6004 + 4 * k - 0x6004) / 4 = k := by omega
  unfold writePfReg
  rw [if_neg (by simp; omega), if_pos (by simp; omega), hat]
  exact if_pos (by simpa using hv)

theorem writePfReg_quantum (hk : k < 4) (h1 : 1 ≤ v.toNat % 1024) (h2 : v.toNat % 1024 ≤ 1000) :
    writePfReg s (0x6300 + 4 * k) v = { s with quantum := s.quantum.setIfInBounds k (v.toNat % 1024) } := by
  have hat : (0x6300 + 4 * k - 0x6300) / 4 = k := by omega
  have hv : (v.extractLsb' 0 10).toNat = v.toNat % 1024 := by simp
  unfold writePfReg
  rw [if_neg (by simp; omega), if_neg (by simp; omega), if_neg (by simp; omega), if_pos (by simp; omega), hat, hv]
  exact if_pos (by simp [h1, h2])

theorem writePfReg_pwrcap : writePfReg s 0x6400 v = { s with pwrcap := if 1500 ≤ v.toNat ∧ v.toNat ≤ 3600 then v.toNat else s.pwrcap } := by
  show (if (decide (1500 ≤ v.toNat) && decide (v.toNat ≤ 3600)) = true then { s with pwrcap := v.toNat } else s) = _
  by_cases h : 1500 ≤ v.toNat ∧ v.toNat ≤ 3600
  · rw [if_pos h, if_pos (by simpa using h)]
  · rw [if_neg h, if_neg (by simpa using h)]

/-- R382: IPV4 and PLN of what is written to the upper half of PGCFG. -/
theorem pgcfg_bits : (v &&& 0xFFFFFFFF00000007#64) ++ 0#64 = v.extractLsb' 32 32 ++ (0#29 ++ (v.extractLsb' 0 3 ++ 0#64)) := by
  have hmask : ∀ i < 64, (0xFFFFFFFF00000007#64).getLsbD i = (decide (32 ≤ i) || decide (i < 3)) := by decide
  refine BitVec.eq_of_getLsbD_eq fun i hi => ?_
  simp only [BitVec.getLsbD_append, BitVec.getLsbD_and, BitVec.getLsbD_extractLsb', BitVec.getLsbD_zero, Nat.zero_add]
  by_cases h0 : i < 64
  · simp [h0, show i < 3 + 64 by omega, show i < 29 + (3 + 64) by omega]
  have hat := hmask (i - 64) (by omega)
  by_cases h3 : i < 67
  · simp [h0, hat, show i < 3 + 64 by omega, show i < 29 + (3 + 64) by omega, show i - 64 < 3 by omega]
  by_cases h32 : i < 96
  · simp [h0, hat, show ¬i < 3 + 64 by omega, show i < 29 + (3 + 64) by omega, show ¬i - 64 < 3 by omega, show ¬32 ≤ i - 64 by omega]
  · simp [h0, hat, show ¬i < 29 + (3 + 64) by omega, show 32 ≤ i - 64 by omega, show i - 96 < 32 by omega, show 32 + (i - 96) = i - 64 by omega]

theorem writePfReg_pgcfg (hk : k < 4) : writePfReg s (0x6208 + 16 * k) v = writePgcfg s k v := by
  have hat : (0x6208 + 16 * k - 0x6200) / 16 = k := by omega
  unfold writePfReg
  rw [if_neg (by simp; omega), if_neg (by simp; omega), if_pos (by simp; omega), if_pos (by rw [beq_iff_eq]; omega), hat]

theorem writePfReg_pgcfgLow (hk : k < 4) : writePfReg s (0x6200 + 16 * k) v = s := by
  unfold writePfReg
  rw [if_neg (by simp; omega), if_neg (by simp; omega), if_pos (by simp; omega), if_neg (by rw [beq_iff_eq]; omega)]

theorem writePgcfg_free (h : s.resident.getD (k * s.parts / 4) none = none) :
    writePgcfg s k v = { s with pgcfg := s.pgcfg.setIfInBounds k (v.extractLsb' 32 32 ++ (0#29 ++ (v.extractLsb' 0 3 ++ 0#64))) } := by
  unfold writePgcfg partOfDie
  rw [h, pgcfg_bits]
  rfl

theorem writePgcfg_resident (h : s.resident.getD (k * s.parts / 4) none ≠ none) : writePgcfg s k v = s :=
  if_pos (Option.isSome_iff_ne_none.mpr h)

end

/-! ### The counter page (R369, R373) -/

section
variable {s : State} {fn k n : Nat} {v : W64}

theorem low_event (v : W64) : ((v.extractLsb' 0 32).extractLsb' 0 8).toNat = (v.extractLsb' 0 32).toNat % 256 := by simp

theorem writeCounter_away (h : isResident s fn = false) : writeCounter s fn n v = s := by
  unfold writeCounter
  rw [h]
  rfl

section
variable (hr : isResident s fn = true)
include hr

theorem writeCounter_slsel (hk : k < 4) (hev : (v.extractLsb' 0 32).toNat % 256 ≤ 7) :
    writeCounter s fn (4 * k) v = s.mapCtx fn fun c => c.writeSel 1 k (v.extractLsb' 0 32) := by
  have hat : 4 * k / 4 = k := by omega
  unfold writeCounter
  rw [hr, if_neg (by simp), if_pos (by simp; omega), hat]
  exact if_pos (by rw [eventKnown, low_event]; simpa using hev)

theorem writeCounter_slsel_reserved (hk : k < 4) (hev : 7 < (v.extractLsb' 0 32).toNat % 256) :
    writeCounter s fn (4 * k) v = selectStop s fn := by
  unfold writeCounter
  rw [hr, if_neg (by simp), if_pos (by simp; omega)]
  exact if_neg (by rw [eventKnown, low_event]; simpa using hev)

theorem writeCounter_notPf (hf : fn ≠ 0) (hn : 0x10 ≤ n) : writeCounter s fn n v = s := by
  unfold writeCounter
  rw [hr, if_neg (by simp), if_neg (by simp; omega), if_pos (by simpa using hf)]

end

section
variable (hr : isResident s 0 = true)
include hr

theorem writeCounter_errSlice (hk : k < 128) : writeCounter s 0 (0x1400 + 4 * k) v = { s with errSlice := s.errSlice.setIfInBounds k (v.extractLsb' 0 32) } := by
  have hat : (0x1400 + 4 * k - 0x1400) / 4 = k := by omega
  unfold writeCounter
  rw [hr, if_neg (by simp), if_neg (by simp; omega), if_neg (by simp), if_neg (by simp; omega), if_pos (by simp; omega), hat]

theorem writeCounter_errStack (hk : k < 8) : writeCounter s 0 (0x1600 + 4 * k) v = { s with errStack := s.errStack.setIfInBounds k (v.extractLsb' 0 32) } := by
  have hat : (0x1600 + 4 * k - 0x1600) / 4 = k := by omega
  unfold writeCounter
  rw [hr, if_neg (by simp), if_neg (by simp; omega), if_neg (by simp), if_neg (by simp; omega), if_neg (by simp), if_pos (by simp; omega), hat]

theorem writeCounter_fpsel (hk : k < 64) (hev : (v.extractLsb' 0 32).toNat % 256 ≤ 5) : writeCounter s 0 (0x1100 + 4 * k) v = writeFpsel s k (v.extractLsb' 0 32) := by
  have hat : (0x1100 + 4 * k - 0x1100) / 4 = k := by omega
  unfold writeCounter
  rw [hr, if_neg (by simp), if_neg (by simp; omega), if_neg (by simp), if_pos (by simp; omega), hat]
  exact if_pos (by rw [eventKnown, low_event]; simpa using hev)

theorem writeCounter_fpsel_reserved (hk : k < 64) (hev : 5 < (v.extractLsb' 0 32).toNat % 256) : writeCounter s 0 (0x1100 + 4 * k) v = selectStop s 0 := by
  unfold writeCounter
  rw [hr, if_neg (by simp), if_neg (by simp; omega), if_neg (by simp), if_pos (by simp; omega)]
  exact if_neg (by rw [eventKnown, low_event]; simpa using hev)

end

/-- R369: the fields of a select register after a write. -/
theorem selWritten_fields (old w : W32) :
    selWritten old w = w.extractLsb' 31 1 ++ (old.extractLsb' 30 1 &&& ~~~(w.extractLsb' 30 1)) ++ w.extractLsb' 28 2 ++ 0#20 ++ w.extractLsb' 0 8 := by
  have hkept : ∀ i < 32, (0xB00000FF#32).getLsbD i = (decide (i < 8) || decide (28 ≤ i) && decide (i ≠ 30)) := by decide
  have hcleared : ∀ i < 32, (0x40000000#32).getLsbD i = decide (i = 30) := by decide
  refine BitVec.eq_of_getLsbD_eq fun i hi => ?_
  simp only [selWritten, BitVec.getLsbD_append, BitVec.getLsbD_and, BitVec.getLsbD_or, BitVec.getLsbD_not, BitVec.getLsbD_extractLsb', BitVec.getLsbD_zero, Nat.zero_add,
    hkept i hi, hcleared i hi, hi]
  by_cases h8 : i < 8
  · simp [h8, show i ≠ 30 by omega]
  by_cases h28 : i < 28
  · simp [h8, show i - 8 < 20 by omega, show ¬28 ≤ i by omega, show i ≠ 30 by omega]
  obtain rfl | rfl | rfl | rfl : i = 28 ∨ i = 29 ∨ i = 30 ∨ i = 31 := by omega
  all_goals simp

theorem writeFpsel_eq {w : W32} : writeFpsel s k w = { s with
    fpsel := s.fpsel.setIfInBounds k (selWritten (s.fpsel.getD k 0#32) w)
    fpcnt := if w.getLsbD 29 = true then s.fpcnt.setIfInBounds k 0#48 else s.fpcnt
    fpfrac := if w.getLsbD 29 = true ∨ w.toNat % 256 ≠ (s.fpsel.getD k 0#32).toNat % 256 then s.fpfrac.setIfInBounds k 0 else s.fpfrac } := by
  have hev : (w.extractLsb' 0 8 != (s.fpsel.getD k 0#32).extractLsb' 0 8) = decide (w.toNat % 256 ≠ (s.fpsel.getD k 0#32).toNat % 256) := by
    rw [Bool.eq_iff_iff, bne_iff_ne, decide_eq_true_iff, ne_eq, BitVec.toNat_eq]
    simp
  unfold writeFpsel
  dsimp only
  rw [selWritten_zero, selWritten_event, hev]
  cases w.getLsbD 29
  · simp
  · simp

/-! ### What the counter page reads (R373) -/

theorem readRegister_counter {off : Nat} (ho : pageOpen s fn = true) (hoff : off = 0x8000 + n) (hn : n < 0x8000) : readRegister s fn off = readCounter s fn n := by
  unfold readRegister
  rw [if_neg (by simp; omega), ho, if_neg (by simp), if_neg (by simp; omega), if_pos (by simp; omega), hoff, Nat.add_sub_cancel_left]

theorem readCounter_slsel (hr : isResident s fn = true) (hk : k < 4) : readCounter s fn (4 * k) = ((s.ctxOf fn).slsel.getD k 0#32).zeroExtend 64 := by
  have hat : 4 * k / 4 = k := by omega
  unfold readCounter
  rw [if_pos (by omega), if_pos hr, hat]

/-- R373: the count of a slice of the owner's partition, with OVF in bit 63. -/
theorem readCounter_slice {u : Nat} (hr : isResident s fn = true) (hu : u < 128) (hn : n < 4) : (readCounter s fn (0x100 + 32 * u + 8 * n)).toNat =
    if u / 32 * s.parts / 4 = (s.ctxOf fn).part then
      (counterOf (s.ctxOf fn).slcnt u n).count.toNat + (if (counterOf (s.ctxOf fn).slcnt u n).ovf then 2 ^ 63 else 0) else 0 := by
  have hunit : (0x100 + 32 * u + 8 * n - 0x100) / 32 = u := by omega
  have hidx : (0x100 + 32 * u + 8 * n) % 32 / 8 = n := by omega
  unfold readCounter
  rw [if_neg (by omega), if_pos (by simp; omega), hunit, hidx]
  unfold readSlice partOfDie
  by_cases hp : u / 32 * s.parts / 4 = (s.ctxOf fn).part
  · have hlt := (counterOf (s.ctxOf fn).slcnt u n).count.isLt
    rw [if_pos hp, if_neg (by simpa using hp), hr, if_pos rfl, BitVec.toNat_ofNat]
    refine Nat.mod_eq_of_lt ?_
    unfold bitAt
    split <;> omega
  · rw [if_neg hp, if_pos (by simpa using hp)]
    rfl

theorem readCounter_notPf (hf : fn ≠ 0) (hn : 0x1100 ≤ n) : readCounter s fn n = 0#64 := by
  unfold readCounter
  rw [if_neg (by omega), if_neg (by simp; omega), if_pos (by simpa using hf)]

theorem readCounter_errSlice (hk : k < 128) : readCounter s 0 (0x1400 + 4 * k) = (s.errSlice.getD k 0#32).zeroExtend 64 := by
  have hat : (0x1400 + 4 * k - 0x1400) / 4 = k := by omega
  unfold readCounter
  rw [if_neg (by omega), if_neg (by simp; omega), if_neg (by simp), if_neg (by simp; omega), if_neg (by simp), if_pos (by simp; omega), hat]

theorem readCounter_errStack (hk : k < 8) : readCounter s 0 (0x1600 + 4 * k) = (s.errStack.getD k 0#32).zeroExtend 64 := by
  have hat : (0x1600 + 4 * k - 0x1600) / 4 = k := by omega
  unfold readCounter
  rw [if_neg (by omega), if_neg (by simp; omega), if_neg (by simp), if_neg (by simp; omega), if_neg (by simp; omega), if_neg (by simp), if_pos (by simp; omega), hat]

end

end Sys2Proof.Machine
end

section
/-! O58, rings, messages and host accesses (R130, R349, R379, R383, R384). -/

namespace Sys2Proof.Machine

/-! ### A page that is closed (R378, R385) -/

section
variable {s : State} {fn off k len : Nat} {v va : W64} {w : W32} {bytes : List Byte}

theorem holdsStream_iff : holdsStream s fn k = true ↔ pageOpen s fn = true ∧ k < 64 ∧ (s.stream k).owner.toNat = fn := by
  simp [holdsStream, and_assoc]

theorem exec_closed (h : pageOpen s fn = false) :
    exec (.hostPostedWrite fn va bytes) s = .next s ∧ exec (.hostRead fn va len) s = .next s ∧ exec (.posttailWrite fn k w) s = .next s ∧
      exec (.cplheadWrite fn k w) s = .next s ∧ exec (.streamEnable fn k) s = .next s ∧ exec (.fqheadWrite fn w) s = .next s ∧ exec (.mrheadWrite fn w) s = .next s ∧
      exec (.mstailWrite fn w) s = .next s ∧ exec (.winload fn w) s = .next s ∧ exec (.registerWrite fn off v) s = .next s := by
  show execHostPostedWrite fn va bytes s = _ ∧ execHostRead fn va len s = _ ∧ execPosttailWrite fn k w s = _ ∧ execCplheadWrite fn k w s = _ ∧
    execStreamEnable fn k s = _ ∧ execFqheadWrite fn w s = _ ∧ execMrheadWrite fn w s = _ ∧ execMstailWrite fn w s = _ ∧ execWinload fn w s = _ ∧ execRegisterWrite fn off v s = _
  simp [execHostPostedWrite, execHostRead, execPosttailWrite, execCplheadWrite, execStreamEnable, execFqheadWrite, execMrheadWrite, execMstailWrite, execWinload,
    execRegisterWrite, holdsStream, h]

end

/-! ### Host accesses to memory (R10, R130) -/

section
variable {s : State} {fn len : Nat} {va : W64} {bytes b : List Byte} {e : Stop} (ho : pageOpen s fn = true) (hc : (s.ctxOf fn).created = true)
include ho hc

theorem exec_hostPostedWrite_lands (h : translateRange s (s.ctxOf fn) accWrite 0 (pagesOf va.toNat bytes.length) = .ok ()) :
    exec (.hostPostedWrite fn va bytes) s = .next (putDiscarding s (hostSite fn) (s.ctxOf fn) va.toNat bytes) := by
  show execHostPostedWrite fn va bytes s = _
  simp [execHostPostedWrite, ho, hc, h]

theorem exec_hostPostedWrite_faults (h : translateRange s (s.ctxOf fn) accWrite 0 (pagesOf va.toNat bytes.length) = .error e) :
    exec (.hostPostedWrite fn va bytes) s = .next (postRecord s (hostSite fn) e) := by
  show execHostPostedWrite fn va bytes s = _
  simp [execHostPostedWrite, ho, hc, h]

theorem exec_hostRead_faults (h : vbytes s (s.ctxOf fn) 0 va.toNat len = .error e) :
    exec (.hostRead fn va len) s = .next (postRecord s (hostSite fn) e) := by
  show execHostRead fn va len s = _
  simp [execHostRead, ho, hc, h]

theorem exec_hostRead_returns (h : vbytes s (s.ctxOf fn) 0 va.toNat len = .ok b) :
    exec (.hostRead fn va len) s = .next { s with out := s.out ++ [.readData fn b] } := by
  show execHostRead fn va len s = _
  simp [execHostRead, ho, hc, h]

end

/-! ### Streams, FQHEAD, MRHEAD and WINLOAD (R349, R379, R383, R384) -/

section
variable {s t : State} {fn k : Nat} {w : W32}

section
variable (h : holdsStream s fn k = true)
include h

theorem exec_posttailWrite_held : exec (.posttailWrite fn k w) s = .next (s.mapStream k fun st => { st with postTail := w }) :=
  congrArg Host.Outcome.next (if_pos h)

theorem exec_cplheadWrite_held : exec (.cplheadWrite fn k w) s = .next (s.mapStream k fun st => { st with cplHead := w }) :=
  congrArg Host.Outcome.next (if_pos h)

theorem exec_streamEnable_held : exec (.streamEnable fn k) s = .next (s.mapStream k Stream.start) :=
  congrArg Host.Outcome.next (if_pos h)

end

section
variable (ho : pageOpen s fn = true)
include ho

/-- R349: FQHEAD with no record held. -/
theorem exec_fqheadWrite_open (hh : (s.ctxOf fn).held = []) :
    exec (.fqheadWrite fn w) s = .next (s.mapCtx fn fun c => { c with fq := { c.fq with head := w } }) := by
  have hheld := ctxOf_mapCtx_unchanged (g := Context.held) (s := s) (n := fn) (m := fn) (f := fun c => { c with fq := { c.fq with head := w } }) (fun _ => rfl) (fun _ => rfl)
  refine congrArg Host.Outcome.next ((if_pos ho).trans ?_)
  unfold writeFqHead
  dsimp only
  rw [hheld, hh]
  rfl

theorem exec_mrheadWrite_open : exec (.mrheadWrite fn w) s = .next (s.mapCtx fn fun c => { c with mr := { c.mr with head := w } }) :=
  congrArg Host.Outcome.next (if_pos ho)

theorem exec_winload_open (h : writeWinload s fn w = t) : exec (.winload fn w) s = .next t := congrArg Host.Outcome.next ((if_pos ho).trans h)

theorem exec_mstailWrite_open (h : writeMsTail s fn w = t) : exec (.mstailWrite fn w) s = .next t := congrArg Host.Outcome.next ((if_pos ho).trans h)

end

theorem writeWinload_loads {gr : List W64} {win : List (List W32)} (h : loadTables s (s.ctxOf fn) = some (gr, win)) :
    writeWinload s fn 1#32 = s.mapCtx fn fun c => { c with group := gr, windows := win, winload := 0#32 } := by
  simp [writeWinload, h]

theorem writeWinload_refuses (h : loadTables s (s.ctxOf fn) = none) : writeWinload s fn 1#32 = s.mapCtx fn fun c => { c with winload := 2#32 } := by
  simp [writeWinload, h]

theorem writeWinload_other (h : w ≠ 1#32) : writeWinload s fn w = s := if_pos (bne_iff_ne.mpr h)

end

/-! ### The send ring (R383) -/

theorem passUnsent_front {c : Context} {n : Nat} {rest : List Bool} (h : c.sends = List.replicate n false ++ rest) (hr : rest.head? ≠ some false) :
    c.passUnsent = { c with sends := rest, ms := { c.ms with head := c.ms.head + BitVec.ofNat 32 n } } := by
  have hrest : rest.takeWhile (! ·) = [] := by
    cases rest with
    | nil => rfl
    | cons x r => cases x <;> simp_all
  have hfront : c.sends.takeWhile (! ·) = List.replicate n false := by
    rw [h, List.takeWhile_append_of_pos (by simp), hrest, List.append_nil]
  unfold Context.passUnsent
  dsimp only
  rw [hfront, List.length_replicate, h, List.drop_left' (List.length_replicate ..)]

/-- Where no entry in front is unsent, MSHEAD stays. -/
theorem passUnsent_none {c : Context} (h : c.sends.head? ≠ some false) : c.passUnsent = c := by
  rw [passUnsent_front (n := 0) rfl h]
  simp

theorem bytesNat_single (b : List Byte) (k : Nat) : bytesNat ((b.drop k).take 1) = (b.getD k 0#8).toNat := by
  rw [List.getD_eq_getElem?_getD, ← List.head?_drop]
  cases b.drop k <;> simp [bytesNat]

section
variable {s : State} {fn : Nat} {i w : W32} {b : List Byte} {e : Stop}

/-- R13: the processor on whose port the entry's message leaves. -/
theorem sendProcessor_eq (s : State) (b : List Byte) :
    sendProcessor s (bytesNat ((b.drop 14).take 1)) = (12 * ((b.getD 14 0#8).toNat % 4) + (Config.sendPort s.draw).val) / 3 := by
  rw [sendProcessor, bytesNat_single]
  rfl

theorem sendOne_sent (h : sendEntry s (s.ctxOf fn) i = .ok b)
    (hq : ∀ n < 4, selCounts (s.fpsel.getD (4 * ((12 * ((b.getD 14 0#8).toNat % 4) + (Config.sendPort s.draw).val) / 3) + n) 0#32) 1 = false) :
    sendOne s fn i = State.mapCtx { s with draw := s.draw + 1, out := s.out ++ [.manage fn b] } fn fun c => { c with sends := c.sends ++ [true] } := by
  unfold sendOne
  rw [h]
  dsimp only
  rw [sendProcessor_eq, sendOut_quiet (s := { s with draw := s.draw + 1 }) hq]

theorem sendOne_refused (h : sendEntry s (s.ctxOf fn) i = .error e) :
    sendOne s fn i = (postRecord s (hostSite fn) e).mapCtx fn fun c => { c with sends := c.sends ++ [false] } := by
  unfold sendOne
  rw [h]

theorem writeMsTail_past (h : (s.ctxOf fn).ms.entries < (s.ctxOf fn).sends.length + (w - (s.ctxOf fn).ms.tail).toNat) : writeMsTail s fn w = s := if_pos h

theorem writeMsTail_sends {after : Nat → State} (h0 : after 0 = s) (hstep : ∀ i, after (i + 1) = sendOne (after i) fn ((s.ctxOf fn).ms.tail + BitVec.ofNat 32 i))
    (h : (s.ctxOf fn).sends.length + (w - (s.ctxOf fn).ms.tail).toNat ≤ (s.ctxOf fn).ms.entries) :
    writeMsTail s fn w = (after (w - (s.ctxOf fn).ms.tail).toNat).mapCtx fn fun c => Context.passUnsent { c with ms := { c.ms with tail := w } } := by
  have hfold (n : Nat) : (List.range n).foldl (fun t i => sendOne t fn ((s.ctxOf fn).ms.tail + BitVec.ofNat 32 i)) s = after n := by
    induction n with
    | zero => exact h0.symm
    | succ n ih => rw [List.range_succ, List.foldl_append, ih, hstep]; rfl
  unfold writeMsTail
  dsimp only
  rw [if_neg (Nat.not_lt.mpr h), hfold]

theorem mapCtx_mapCtx {n : Nat} {f g : Context → Context} (hf : ∀ c, (f c).owner = c.owner) : (s.mapCtx n f).mapCtx n g = s.mapCtx n fun c => g (f c) := by
  have hctx : (if (if s.ctx.owner == n then f s.ctx else s.ctx).owner == n then g (if s.ctx.owner == n then f s.ctx else s.ctx) else if s.ctx.owner == n then f s.ctx else s.ctx) =
      if s.ctx.owner == n then g (f s.ctx) else s.ctx := by
    by_cases h : s.ctx.owner = n <;> simp [h, hf]
  unfold State.mapCtx
  dsimp only
  rw [replaceIf_replaceIf (fun c hc => by rw [hf]; exact hc), hctx]

/-- Two changes that agree on an owner's contexts are one. -/
theorem mapCtx_congr {n : Nat} {f g : Context → Context} (h : ∀ c ∈ s.ctx :: s.owners, c.owner = n → f c = g c) : s.mapCtx n f = s.mapCtx n g := by
  have howners : replaceIf s.owners (·.owner == n) f = replaceIf s.owners (·.owner == n) g := List.map_congr_left fun c hc => by
    dsimp only
    split
    · next ho => exact h c (List.mem_cons_of_mem _ hc) (beq_iff_eq.mp ho)
    · rfl
  have hctx : (if s.ctx.owner == n then f s.ctx else s.ctx) = if s.ctx.owner == n then g s.ctx else s.ctx := by
    split
    · next ho => exact h s.ctx List.mem_cons_self (beq_iff_eq.mp ho)
    · rfl
  unfold State.mapCtx
  rw [howners, hctx]

/-- R383: one more entry, sent, with no unsent entry in front. -/
theorem writeMsTail_one (hw : w = (s.ctxOf fn).ms.tail + 1#32) (hfront : ∀ x ∈ s.ctx :: s.owners, x.owner = fn → x.sends.head? ≠ some false)
    (hroom : (s.ctxOf fn).sends.length < (s.ctxOf fn).ms.entries) (hb : sendEntry s (s.ctxOf fn) (s.ctxOf fn).ms.tail = .ok b)
    (hq : ∀ n < 4, selCounts (s.fpsel.getD (4 * ((12 * ((b.getD 14 0#8).toNat % 4) + (Config.sendPort s.draw).val) / 3) + n) 0#32) 1 = false) :
    writeMsTail s fn w = { s.mapCtx fn fun c => { c with sends := c.sends ++ [true], ms := { c.ms with tail := w } } with out := s.out ++ [.manage fn b], draw := s.draw + 1 } := by
  have hn : (w - (s.ctxOf fn).ms.tail).toNat = 1 := by rw [hw, add_sub_cancel_left]; rfl
  have hmore : ¬(s.ctxOf fn).ms.entries < (s.ctxOf fn).sends.length + 1 := by omega
  have hi : (s.ctxOf fn).ms.tail + BitVec.ofNat 32 0 = (s.ctxOf fn).ms.tail := by simp
  unfold writeMsTail
  dsimp only
  rw [hn, if_neg hmore, List.range_one, List.foldl_cons, List.foldl_nil, hi, sendOne_sent hb hq,
    mapCtx_mapCtx (f := fun c => { c with sends := c.sends ++ [true] }) fun _ => rfl]
  refine (mapCtx_congr (g := fun c => { c with sends := c.sends ++ [true], ms := { c.ms with tail := w } }) fun c hc ho => ?_).trans rfl
  refine passUnsent_none ?_
  have hc := hfront c hc ho
  cases hs : c.sends with
  | nil => simp
  | cons x r => simpa [hs] using hc

/-- R383: an acknowledged message leaves the send ring. -/
theorem exec_managementSendCompletion_acknowledged {rest : List Bool} (h : (s.ctxOf fn).sends = true :: rest) (hr : rest.head? ≠ some false) :
    exec (.managementSendCompletion fn true) s = .next (s.mapCtx fn fun c => { c with sends := rest, ms := { c.ms with head := c.ms.head + 1#32 } }) := by
  show execManagementSendCompletion fn true s = _
  unfold execManagementSendCompletion
  dsimp only
  rw [h]
  exact congrArg Host.Outcome.next (mapCtx_congr fun c _ _ => passUnsent_none hr)

end

/-! ### The receive ring (R383) -/

/-- The bytes of a receive-ring entry. -/
def receiveEntry (port : Nat) (job : W32) (fea : W64) (bytes : List Byte) : List Byte :=
  natBytes 8 fea.toNat ++ natBytes 4 job.toNat ++ natBytes 2 bytes.length ++ natBytes 1 (port / 12 % 4) ++ List.replicate 49 0#8 ++ bytes

section
variable {s t : State} {port o : Nat} {job : W32} {fea : W64} {bytes : List Byte} {e : Stop}

theorem exec_managementReceive_unknown (h : jobOwner s job = none ∨ 48 ≤ port) : exec (.managementReceive port job fea bytes) s = .next s := by
  show execManagementReceive port job fea bytes s = _
  unfold execManagementReceive
  rw [arrivalOwner_none h]

section
variable (hj : jobOwner s job = some o) (hp : port < 48)
include hj hp

theorem exec_managementReceive_bad (h : ¬(bytes ≠ [] ∧ bytes.length ≤ 8128)) :
    exec (.managementReceive port job fea bytes) s = .next { s with out := s.out ++ [.refusal fea .permission] } := by
  have hbad : (bytes.isEmpty || decide (8128 < bytes.length)) = true := by
    rw [Bool.or_eq_true, List.isEmpty_iff, decide_eq_true_iff]
    by_contra hc
    exact h ⟨fun hn => hc (.inl hn), by omega⟩
  show execManagementReceive port job fea bytes s = _
  unfold execManagementReceive
  rw [arrivalOwner_some hj hp]
  exact congrArg Host.Outcome.next (if_pos hbad)

section
variable (hs : bytes ≠ [] ∧ bytes.length ≤ 8128)
include hs

theorem exec_managementReceive_full (hf : (s.ctxOf o).mr.full = true) :
    exec (.managementReceive port job fea bytes) s = .next { s with out := s.out ++ [.notReady fea] } := by
  show execManagementReceive port job fea bytes s = _
  unfold execManagementReceive
  rw [arrivalOwner_some hj hp]
  exact congrArg Host.Outcome.next ((if_neg (by simpa using hs)).trans (if_pos hf))

theorem exec_managementReceive_faults (hf : (s.ctxOf o).mr.full = false)
    (he : engineWrite s (s.ctxOf o) ((s.ctxOf o).mr.entryAt (s.ctxOf o).mr.tail 8192) (receiveEntry port job fea bytes) = .error e) :
    let told := postRecord s (windowSite o (port / 3)) e
    exec (.managementReceive port job fea bytes) s = .next { told with out := told.out ++ [.refusal fea e.code] } := by
  show execManagementReceive port job fea bytes s = _
  unfold execManagementReceive
  rw [arrivalOwner_some hj hp]
  refine congrArg Host.Outcome.next ((if_neg (by simpa using hs)).trans ((if_neg (by rw [hf]; exact Bool.false_ne_true)).trans ?_))
  unfold receiveEntry at he
  dsimp only
  rw [he]
  rfl

theorem exec_managementReceive_written (hf : (s.ctxOf o).mr.full = false)
    (he : engineWrite s (s.ctxOf o) ((s.ctxOf o).mr.entryAt (s.ctxOf o).mr.tail 8192) (receiveEntry port job fea bytes) = .ok t)
    (hq : ∀ n < 4, selCounts (t.fpsel.getD (4 * (port / 3) + n) 0#32) 2 = false) :
    exec (.managementReceive port job fea bytes) s =
      .next { t.mapCtx o fun c => { c with mr := { c.mr with tail := c.mr.tail + 1#32 } } with out := t.out ++ [.msix o 66] } := by
  show execManagementReceive port job fea bytes s = _
  unfold execManagementReceive
  rw [arrivalOwner_some hj hp]
  refine congrArg Host.Outcome.next ((if_neg (by simpa using hs)).trans ((if_neg (by rw [hf]; exact Bool.false_ne_true)).trans ?_))
  unfold receiveEntry at he
  have hcount : countFabric t (receiverOf port) 0x02 bytes.length 64 = t := countFabric_quiet hq
  dsimp only
  rw [he]
  dsimp only
  rw [hcount]
  rfl

end

end

end

end Sys2Proof.Machine
end

section
/-! O58: host accesses to memory and to the register pages, assembled. -/

namespace Sys2Proof.Machine

/-! ### A stream's base (R379) -/

section
variable {st : Stream} {v : W64}

theorem write_postBase_disabled (h : st.enable = false) : st.write 0 v = { st with postBase := v } := by simp [Stream.write, h]

theorem write_postBase_enabled (h : st.enable = true) : st.write 0 v = st := by simp [Stream.write, h]

end

theorem zeroExtend_toNat (w : W32) : (w.zeroExtend 64).toNat = w.toNat := BitVec.toNat_setWidth_of_le (by decide)

/-- Settles O58: what each access does to a page that takes it, where bytes land, the rings and the messages; a closed page changes nothing. -/
theorem hostRegisters : Obligations.HostRegisters := by
  unfold Obligations.HostRegisters
  intro fn off k len port v va w job fea s t b bytes gr win e open_ c quiet st streams holds sets writes low pf
  have hopen : pageOpen s fn = true ↔ open_ := pageOpen_iff
  refine ⟨fun hop => ?_, fun hc => exec_closed (Bool.eq_false_iff.mpr (mt hopen.mp hc)), fun i => ⟨sendOne_sent, sendOne_refused⟩, fun d n rest => passUnsent_front,
    fun x d a l place hm hinj hstable => ?_, exec_managementReceive_unknown, fun o hj hp => ?_, fun rest => exec_managementSendCompletion_acknowledged⟩
  · have ho := hopen.mpr hop
    have hpf (hf : fn = 0) : pageOpen s 0 = true := hf ▸ ho
    have hholds (h : holds) : holdsStream s fn k = true := holdsStream_iff.mpr ⟨ho, h⟩
    have hown {off : Nat} (hq : actingOffset off = false) (hoff : off < 0x1000 ∨ 0x2000 ≤ off ∧ off < 0x6000) : writes off fun c => c.writeReg off v :=
      exec_registerWrite_own ho hq hoff
    refine ⟨exec_hostPostedWrite_lands ho, exec_hostPostedWrite_faults ho, exec_hostRead_faults ho, exec_hostRead_returns ho, fun h => ⟨?_, ?_, ?_⟩,
      exec_fqheadWrite_open ho, exec_mrheadWrite_open ho, fun hw hfront hroom hb hq => ?_, fun after h0 hstep => ⟨fun h => ?_, fun h => ?_⟩,
      fun h => ?_, fun h => ?_, fun h => ?_,
      hown (by decide) (by decide), hown (by decide) (by decide), hown (by decide) (by decide), hown (by decide) (by decide), hown (by decide) (by decide),
      hown (by decide) (by decide), hown (by decide) (by decide), hown (by decide) (by decide), hown (by decide) (by decide), hown (by decide) (by decide), ?_⟩
    · exact ⟨_, exec_posttailWrite_held (hholds h), mapStream_changes h.1 rfl⟩
    · exact ⟨_, exec_cplheadWrite_held (hholds h), mapStream_changes h.1 rfl⟩
    · exact ⟨_, exec_streamEnable_held (hholds h), mapStream_changes h.1 rfl⟩
    · exact exec_mstailWrite_open ho (writeMsTail_one hw hfront hroom hb hq)
    · exact exec_mstailWrite_open ho (writeMsTail_sends h0 hstep h)
    · exact exec_mstailWrite_open ho (writeMsTail_past h)
    · exact exec_winload_open ho (writeWinload_loads h)
    · exact exec_winload_open ho (writeWinload_refuses h)
    · exact exec_winload_open ho (writeWinload_other h)
    refine ⟨fun h he => ?_, fun h he => ?_, fun hf hv hr hl => ?_, fun hf hk hv => ?_, fun hf hk h1 h2 => ?_, fun hf => ?_, fun hf hk => ⟨fun h => ?_, fun h => ?_, ?_⟩,
      fun hr => ?_, fun hr n hlo hhi => ?_, fun hf n hlo hhi => ?_, fun hf => ⟨fun hk => ?_, fun hk => ?_⟩, fun hf n hlo hhi => ?_⟩
    · exact ⟨_, exec_registerWrite_stream ho h.1 h.2 (n := 0) (by decide), mapStream_changes h.1 (write_postBase_disabled he)⟩
    · exact ⟨_, exec_registerWrite_stream ho h.1 h.2 (n := 0) (by decide), mapStream_changes h.1 (write_postBase_enabled he)⟩
    · exact ⟨(measureEvent s 1 0 [v.toNat]).hernus, exec_registerWrite_pf (hpf hf) (by omega) (by omega) (writePfReg_parts hv hr hl),
        by simp [measureEvent, Hernus.measure]⟩
    · exact ⟨_, exec_registerWrite_pf (hpf hf) (by omega) (by omega) (writePfReg_strmown hk hv), mapStream_changes hk rfl⟩
    · exact exec_registerWrite_pf (hpf hf) (by omega) (by omega) (writePfReg_quantum hk h1 h2)
    · exact exec_registerWrite_pf (hpf hf) (by omega) (by omega) writePfReg_pwrcap
    · exact exec_registerWrite_pf (hpf hf) (by omega) (by omega) ((writePfReg_pgcfg hk).trans (writePgcfg_free h))
    · exact exec_registerWrite_pf (hpf hf) (by omega) (by omega) ((writePfReg_pgcfg hk).trans (writePgcfg_resident h))
    · exact exec_registerWrite_pf (hpf hf) (by omega) (by omega) (writePfReg_pgcfgLow hk)
    · have hr0 (hf : fn = 0) : isResident s 0 = true := hf ▸ hr
      refine ⟨fun hk hev => ?_, fun hk hev => ?_, fun hf n hlo hhi => ?_, fun hf hk => ?_, fun hf hk => ?_, fun hf hk hev => ?_, fun hf hk hev => ?_, fun hk => ?_, fun u n hu hn => ?_⟩
      · exact exec_registerWrite_counter ho rfl (by omega) (writeCounter_slsel hr hk hev)
      · exact exec_registerWrite_counter ho rfl (by omega) (writeCounter_slsel_reserved hr hk hev)
      · exact exec_registerWrite_counter (n := n - 0x8000) ho (by omega) (by omega) (writeCounter_notPf hr hf (by omega))
      · exact exec_registerWrite_counter (hpf hf) (by omega) (by omega) (writeCounter_errSlice (hr0 hf) hk)
      · exact exec_registerWrite_counter (hpf hf) (by omega) (by omega) (writeCounter_errStack (hr0 hf) hk)
      · refine exec_registerWrite_counter (hpf hf) (by omega) (by omega) ((writeCounter_fpsel (hr0 hf) hk hev).trans ?_)
        rw [writeFpsel_eq, selWritten_fields]
      · exact exec_registerWrite_counter (hpf hf) (by omega) (by omega) (writeCounter_fpsel_reserved (hr0 hf) hk hev)
      · rw [readRegister_counter ho rfl (by omega), readCounter_slsel hr hk, zeroExtend_toNat]
      · rw [readRegister_counter (n := 0x100 + 32 * u + 8 * n) ho (by omega) (by omega), readCounter_slice hr hu hn]
    · exact exec_registerWrite_counter (n := n - 0x8000) ho (by omega) (by omega) (writeCounter_away hr)
    · rw [readRegister_counter (n := n - 0x8000) ho (by omega) (by omega), readCounter_notPf hf (by omega)]
    · rw [hf, readRegister_counter (n := 0x1400 + 4 * k) (hpf hf) (by omega) (by omega), readCounter_errSlice hk, zeroExtend_toNat]
    · rw [hf, readRegister_counter (n := 0x1600 + 4 * k) (hpf hf) (by omega) (by omega), readCounter_errStack hk, zeroExtend_toNat]
    · exact exec_registerWrite_notPf ho hf hlo hhi
  · have hplaced : Placed s d a l.length place := ⟨hinj, hstable⟩
    refine ⟨fun hall => ?_, fun i hi hg hfirst => ?_⟩
    · have h := (putDiscarding_lands hm hplaced x hall).congr fun i hi => iff_of_true (hall i hi) trivial
      exact ⟨h.only, h.put, h.others⟩
    · obtain ⟨u, h, hput⟩ := putDiscarding_guarded hm hplaced x hi (Bool.not_eq_false _ ▸ hg) hfirst
      exact ⟨u, ⟨h.only, h.put, h.others⟩, hput⟩
  · refine ⟨exec_managementReceive_bad hj hp, exec_managementReceive_full hj hp, exec_managementReceive_faults hj hp, fun hs hf he hsel hq => ?_⟩
    exact exec_managementReceive_written hj hp hs hf he (by rw [hsel]; exact hq)

end Sys2Proof.Machine
end
